-- ==== Sys2Proof/Word.lean ====
section
/-! DEFINITION. The word types of the Jehus and their plainest arithmetic (R4, R5). -/

namespace Sys2Proof

/-- A byte of memory. -/
abbrev Byte := BitVec 8
/-- A 32-bit register, instruction word or tile word (R19, R35). -/
abbrev Word := BitVec 32
/-- A 64-bit value: an address, a register pair, a future cell (R5). -/
abbrev DWord := BitVec 64
/-- The 128 bytes of a line, byte 0 in bits 7:0 (R269). -/
abbrev LineData := BitVec 1024

end Sys2Proof
end

