-- ==== Sys2Proof/Config.lean ====
section
/-! DEFINITION. What an implementation fixes and the manual leaves open: free values without a body.
Nothing in Lean can evaluate them, so a theorem holds for each of their values. -/

namespace Sys2Proof.Config

/-- The value of an SFU function of R75 at an operand that no row of R143 lists, before the bound of
R142 is applied. The first argument is the function code of R57. DESIGN CHOICE (log 6). -/
opaque sfuRaw : Nat → Word → Word

/-- Which of the values that R350 allows a word of a newly allocated tile holds (R242 leaves the contents undefined): the
first argument is the tile's serial number, the second the word's index. DESIGN CHOICE (log 5). -/
opaque tileWord : Nat → Nat → Word

/-- What an element that a matrix command marks poisoned holds beneath its mark (R175 gives the mark and no
value): the first argument is the command's number, the second the element's index. DESIGN CHOICE (log 5). -/
opaque poisonWord : Nat → Nat → Word

/-- SHA-256, by which images are measured (R370). UNVERIFIED (log 14): the manual names the function
and does not define it. -/
opaque sha256 : List Byte → BitVec 256

/-- Whether an image carries a valid SLH-DSA-SHA2-128s signature under the fused key (R370). -/
opaque signatureValid : List Byte → Bool

/-- The device's signature over the first 0xD0 bytes of an attestation report (R371), the bytes
by index. -/
opaque attestSignature : List Byte → Nat → Byte

/-- Serial number and ordering code of the part, as R371 reports them. -/
opaque serialAndCode : BitVec 128

/-- The public half of the device's identity key (R371). -/
opaque identityKey : BitVec 256

/-- The boot ROM's image, which is measured at bring-up (R370). -/
opaque romImage : List Byte

/-- The bytes of the firmware configuration that are measured with PLIM, the retry limit and the far-line cache
sizes (R370, R400). -/
opaque configBytes : Nat → Nat → List Nat → List Byte

/-- Device physical address of the device log (R391). DEDUCED (log 72). -/
opaque devlog : Nat

/-- CODE of an error record whose kind the manual gives no codes for (R389): by the record's kind and a number
of the cause. DESIGN CHOICE (log 17). -/
opaque reason : Nat → Nat → BitVec 16

/-- What the manual does not state about a span: the tag of one that a LAUNCH word started (R320), and the shape of
one whose groups came by MIGIN (R368). By span and field. DESIGN CHOICE (log 18). -/
opaque spanWord : Nat → Nat → Word

/-- Whether another device of an exchange can be reached (R339): by command and neighbour (log 19). -/
opaque peerUp : Nat → Nat → Bool

/-- Whether the members of a collective name one kind and one element count (R340): by command (log 19). -/
opaque peerAgrees : Nat → Bool

/-- What another member sends for a collective (R340): by command, rank and byte (log 19). -/
opaque peerByte : Nat → Nat → Nat → Byte

/-- The transaction tag of a directory message in a header flit (R282), which the manual does not number: by the message.
DESIGN CHOICE (log 75). -/
opaque txnTag : Nat → BitVec 8

/-- The directory message type in a header flit (R282), which the manual does not number: by the message's kind.
DESIGN CHOICE (log 75). -/
opaque msgType : Nat → BitVec 8

/-- How a neighbour answers an entry of a HALO (R341): by command and entry, 0 for success (log 19). -/
opaque peerStatus : Nat → Nat → BitVec 8

/-- Whether the second HBM stack of a die holds a line: the spec does not say how lines lie in the two (R388).
DESIGN CHOICE (log 88). -/
opaque hbmStack : Nat → Bool

/-- The die whose HBM holds a line that no page and no directory entry names (R268, R388).
DESIGN CHOICE (log 88). -/
opaque lineDie : Nat → Fin 4

/-- The Galgal Link port on which an arrival comes (R388).
DESIGN CHOICE (log 88). -/
opaque arrivalPort : Nat → Fin 12

/-- Check bits or failing bit positions of a record, by the number of its event (R389).
DESIGN CHOICE (log 88). -/
opaque errSynd : Nat → BitVec 128

end Sys2Proof.Config
end

