-- ==== Sys2Proof/Syntax.lean ====
section
/-! DEFINITION. The instructions of the Jehus: one constructor for each row of the opcode table, the
encoded words first (R47-R68), then the steps that the other agents of the device take. The fields of a word are
those of its encoding (R46), the chain bit `c` first where the word may have it set. -/

namespace Sys2Proof

/-- One step of the device: a word of a program, or a step of another agent. -/
inductive Instr where
  /-- NOP : The all-zero word does nothing and, when it is not chained to a following word, takes no issue cycle and no pipe. (R42) -/
  | nop
  /-- EXIT : Ends the issuing thread: any open proposal is discarded, issued operations still complete, and the thread leaves convergence sets and barriers. (R122) -/
  | exit
  /-- TRAP : Parks the thread after its chain and sends a kind-4 trap message carrying the trap code and the value of register A. (R387) -/
  | trap (a : BitVec 6) (n : BitVec 8)
  /-- BRK : Parks the thread after its chain and sends a kind-5 break message with the break code. (R387) -/
  | brk (n : BitVec 8)
  /-- YIELD : Makes the thread not ready for 64 cycles. (R387) -/
  | yield
  /-- SETRM : Sets the thread's rounding mode for every word issued after it. (R145) -/
  | setrm (m : BitVec 3)
  /-- GETFLG : Writes the thread's sticky flags to D in the GETFLG bit order. (R145) -/
  | getflg (d : BitVec 6)
  /-- CLRFLG : Clears each sticky flag whose bit is set in the immediate mask. (R145) -/
  | clrflg (m : BitVec 5)
  /-- IADD : Integer add of A and B, modulo 2^32 or 2^64. (R104) -/
  | iadd (c : BitVec 1) (d a b : BitVec 6) (w : BitVec 2)
  /-- ISUB : Integer subtract of B from A. (R104) -/
  | isub (c : BitVec 1) (d a b : BitVec 6) (w : BitVec 2)
  /-- IMIN : Signed minimum of A and B. (R104) -/
  | imin (c : BitVec 1) (d a b : BitVec 6)
  /-- IMAX : Signed maximum of A and B. (R104) -/
  | imax (c : BitVec 1) (d a b : BitVec 6)
  /-- IMINU : Unsigned minimum of A and B. (R104) -/
  | iminu (c : BitVec 1) (d a b : BitVec 6)
  /-- IMAXU : Unsigned maximum of A and B. (R104) -/
  | imaxu (c : BitVec 1) (d a b : BitVec 6)
  /-- AND : Bitwise AND of A and B. (R104) -/
  | and (c : BitVec 1) (d a b : BitVec 6) (w : BitVec 2)
  /-- OR : Bitwise OR of A and B. (R104) -/
  | or (c : BitVec 1) (d a b : BitVec 6) (w : BitVec 2)
  /-- XOR : Bitwise XOR of A and B. (R104) -/
  | xor (c : BitVec 1) (d a b : BitVec 6) (w : BitVec 2)
  /-- ANDN : A AND NOT B. (R104) -/
  | andn (c : BitVec 1) (d a b : BitVec 6)
  /-- SHL : Shift A left by the amount in B, zeros in. (R104) -/
  | shl (c : BitVec 1) (d a b : BitVec 6) (w : BitVec 2)
  /-- SHR : Shift A right by the amount in B, zeros in. (R104) -/
  | shr (c : BitVec 1) (d a b : BitVec 6) (w : BitVec 2)
  /-- SAR : Arithmetic shift right of A by the amount in B. (R104) -/
  | sar (c : BitVec 1) (d a b : BitVec 6) (w : BitVec 2)
  /-- ROTL : Rotate A left by the amount in B. (R104) -/
  | rotl (c : BitVec 1) (d a b : BitVec 6)
  /-- IMULLO : Low half of the product of A and B. (R104) -/
  | imullo (c : BitVec 1) (d a b : BitVec 6) (w : BitVec 2)
  /-- IMULHI : High 32 bits of the signed product of A and B. (R104) -/
  | imulhi (c : BitVec 1) (d a b : BitVec 6)
  /-- IMULHIU : High 32 bits of the unsigned product of A and B. (R104) -/
  | imulhiu (c : BitVec 1) (d a b : BitVec 6)
  /-- POPC : Number of 1 bits in A. (R104) -/
  | popc (c : BitVec 1) (d a : BitVec 6)
  /-- CLZ : Number of leading zero bits in A. (R104) -/
  | clz (c : BitVec 1) (d a : BitVec 6)
  /-- BREV : Bit reversal of A. (R104) -/
  | brev (c : BitVec 1) (d a : BitVec 6)
  /-- IABS : Signed absolute value of A. (R104) -/
  | iabs (c : BitVec 1) (d a : BitVec 6)
  /-- BPICK : Builds D from bytes of A under the select, clear and fill controls in B. (R105) -/
  | bpick (c : BitVec 1) (d a b : BitVec 6)
  /-- IADDSAT : Signed add of A and B, saturated. (R104) -/
  | iaddsat (c : BitVec 1) (d a b : BitVec 6)
  /-- ISUBSAT : Signed subtract of B from A, saturated. (R104) -/
  | isubsat (c : BitVec 1) (d a b : BitVec 6)
  /-- IADDI : Adds the sign-extended 13-bit immediate to A. (R107) -/
  | iaddi (c : BitVec 1) (d a : BitVec 6) (i : BitVec 13)
  /-- ANDI : ANDs A with the sign-extended immediate. (R107) -/
  | andi (c : BitVec 1) (d a : BitVec 6) (i : BitVec 13)
  /-- ORI : ORs A with the sign-extended immediate. (R107) -/
  | ori (c : BitVec 1) (d a : BitVec 6) (i : BitVec 13)
  /-- XORI : XORs A with the sign-extended immediate. (R107) -/
  | xori (c : BitVec 1) (d a : BitVec 6) (i : BitVec 13)
  /-- SHI_SHL : Shifts A left by an immediate amount. (R108) -/
  | shiShl (c : BitVec 1) (d a : BitVec 6) (n : BitVec 5)
  /-- SHI_SHR : Shifts A right logically by an immediate amount. (R108) -/
  | shiShr (c : BitVec 1) (d a : BitVec 6) (n : BitVec 5)
  /-- SHI_SAR : Shifts A right arithmetically by an immediate amount. (R108) -/
  | shiSar (c : BitVec 1) (d a : BitVec 6) (n : BitVec 5)
  /-- SHI_ROTL : Rotates A left by an immediate amount. (R108) -/
  | shiRotl (c : BitVec 1) (d a : BitVec 6) (n : BitVec 5)
  /-- BITF_BFX : Extracts a bit field of A, zero-extended. (R109) -/
  | bitfBfx (c : BitVec 1) (d a : BitVec 6) (l p : BitVec 5)
  /-- BITF_BFXS : Extracts a bit field of A, sign-extended. (R109) -/
  | bitfBfxs (c : BitVec 1) (d a : BitVec 6) (l p : BitVec 5)
  /-- BITF_BFI : Inserts the low bits of A into a field of D. (R109) -/
  | bitfBfi (c : BitVec 1) (d a : BitVec 6) (l p : BitVec 5)
  /-- LI : Loads the sign-extended 19-bit immediate into D. (R110) -/
  | li (c : BitVec 1) (d : BitVec 6) (i : BitVec 19)
  /-- LIH : Writes the immediate to D bits 31:13 and keeps bits 12:0. (R110) -/
  | lih (c : BitVec 1) (d : BitVec 6) (i : BitVec 19)
  /-- IMAD : 32-bit multiply-add a × b + c. (R111) -/
  | imad (c : BitVec 1) (d a b e : BitVec 6)
  /-- IMAD_W : Signed widening multiply-add into a 64-bit pair. (R111) -/
  | imadW (c : BitVec 1) (d a b e : BitVec 6)
  /-- ICMP : Sets a predicate to an integer comparison of A and B under the condition selected by FN. (R112) -/
  | icmp (c : BitVec 1) (p : BitVec 3) (a b : BitVec 6) (w : BitVec 2) (f : BitVec 5)
  /-- PAND : Predicate AND. (R113) -/
  | pand (c : BitVec 1) (d a b : BitVec 3)
  /-- POR : Predicate OR. (R113) -/
  | por (c : BitVec 1) (d a b : BitVec 3)
  /-- PXOR : Predicate XOR. (R113) -/
  | pxor (c : BitVec 1) (d a b : BitVec 3)
  /-- PNOT : Predicate NOT. (R113) -/
  | pnot (c : BitVec 1) (d a : BitVec 3)
  /-- P2W : Packs the predicates into a register. (R113) -/
  | p2w (c : BitVec 1) (d : BitVec 6)
  /-- W2P : Sets p1–p7 from bits 7:1 of a register. (R113) -/
  | w2p (c : BitVec 1) (a : BitVec 6)
  /-- SEL : Selects A or B by a possibly negated predicate. (R114) -/
  | sel (c : BitVec 1) (d a b : BitVec 6) (w : BitVec 2) (n : BitVec 1) (p : BitVec 3)
  /-- SYSV : Writes the selected system value of the thread (index, group, span, core, quarter, leaf, TSC) to D. (R115) -/
  | sysv (c : BitVec 1) (d : BitVec 6) (s : BitVec 5)
  /-- LOCQ : Looks up the address in pair A in the context's translation and writes home die, own die and hop count to D. (R117) -/
  | locq (c : BitVec 1) (d a : BitVec 6)
  /-- UGET : Copies a uniform register of the group into a thread register. (R118) -/
  | uget (c : BitVec 1) (d a : BitVec 6)
  /-- USET : Writes a thread register of the pack's lowest thread into a uniform register. (R118) -/
  | uset (c : BitVec 1) (d a : BitVec 6)
  /-- FADD : FP32 add, rounded in the thread's mode. (R134) -/
  | fadd (c : BitVec 1) (d a b : BitVec 6)
  /-- DADD : FP64 add, rounded in the thread's mode. (R134) -/
  | dadd (c : BitVec 1) (d a b : BitVec 6)
  /-- FSUB : FP32 subtract. (R134) -/
  | fsub (c : BitVec 1) (d a b : BitVec 6)
  /-- DSUB : FP64 subtract. (R134) -/
  | dsub (c : BitVec 1) (d a b : BitVec 6)
  /-- FMUL : FP32 multiply. (R134) -/
  | fmul (c : BitVec 1) (d a b : BitVec 6)
  /-- DMUL : FP64 multiply. (R134) -/
  | dmul (c : BitVec 1) (d a b : BitVec 6)
  /-- FMIN : FP32 minimumNumber. (R134) -/
  | fmin (c : BitVec 1) (d a b : BitVec 6)
  /-- DMIN : FP64 minimumNumber. (R134) -/
  | dmin (c : BitVec 1) (d a b : BitVec 6)
  /-- FMAX : FP32 maximumNumber. (R134) -/
  | fmax (c : BitVec 1) (d a b : BitVec 6)
  /-- DMAX : FP64 maximumNumber. (R134) -/
  | dmax (c : BitVec 1) (d a b : BitVec 6)
  /-- FMINM : FP32 IEEE minimum. (R134) -/
  | fminm (c : BitVec 1) (d a b : BitVec 6)
  /-- DMINM : FP64 IEEE minimum. (R134) -/
  | dminm (c : BitVec 1) (d a b : BitVec 6)
  /-- FMAXM : FP32 IEEE maximum. (R134) -/
  | fmaxm (c : BitVec 1) (d a b : BitVec 6)
  /-- DMAXM : FP64 IEEE maximum. (R134) -/
  | dmaxm (c : BitVec 1) (d a b : BitVec 6)
  /-- FABS : FP32 absolute value by clearing the sign bit. (R134) -/
  | fabs (c : BitVec 1) (d a : BitVec 6)
  /-- DABS : FP64 absolute value. (R134) -/
  | dabs (c : BitVec 1) (d a : BitVec 6)
  /-- FNEG : FP32 sign inversion. (R134) -/
  | fneg (c : BitVec 1) (d a : BitVec 6)
  /-- DNEG : FP64 sign inversion. (R134) -/
  | dneg (c : BitVec 1) (d a : BitVec 6)
  /-- FCPYS : FP32 magnitude of A with the sign of B. (R134) -/
  | fcpys (c : BitVec 1) (d a b : BitVec 6)
  /-- DCPYS : FP64 magnitude of A with the sign of B. (R134) -/
  | dcpys (c : BitVec 1) (d a b : BitVec 6)
  /-- FRND : Rounds an FP32 value to an integral value by the rounding code. (R135) -/
  | frnd (c : BitVec 1) (d a : BitVec 6) (r : BitVec 3)
  /-- DRND : Rounds an FP64 value to an integral value by the rounding code. (R135) -/
  | drnd (c : BitVec 1) (d a : BitVec 6) (r : BitVec 3)
  /-- FCLASS : Writes the one-hot class mask of an FP32 value. (R135) -/
  | fclass (c : BitVec 1) (d a : BitVec 6)
  /-- DCLASS : Writes the one-hot class mask of an FP64 value. (R135) -/
  | dclass (c : BitVec 1) (d a : BitVec 6)
  /-- FSCALE : FP32 a × 2^n, rounded RNE. (R135) -/
  | fscale (c : BitVec 1) (d a b : BitVec 6)
  /-- DSCALE : FP64 a × 2^n, rounded RNE. (R135) -/
  | dscale (c : BitVec 1) (d a b : BitVec 6)
  /-- FFMA : FP32 fused multiply-add, rounded once. (R136) -/
  | ffma (c : BitVec 1) (d a b e : BitVec 6)
  /-- DFMA : FP64 fused multiply-add, rounded once. (R136) -/
  | dfma (c : BitVec 1) (d a b e : BitVec 6)
  /-- FCMP : Sets a predicate from an FP32 comparison, in quiet or signalling form. (R137) -/
  | fcmp (c : BitVec 1) (p : BitVec 3) (a b : BitVec 6) (f : BitVec 5)
  /-- DCMP : Sets a predicate from an FP64 comparison. (R137) -/
  | dcmp (c : BitVec 1) (p : BitVec 3) (a b : BitVec 6) (f : BitVec 5)
  /-- HADD2 : Packed FP16 add. (R138) -/
  | hadd2 (c : BitVec 1) (d a b : BitVec 6)
  /-- HSUB2 : Packed FP16 subtract. (R138) -/
  | hsub2 (c : BitVec 1) (d a b : BitVec 6)
  /-- HMUL2 : Packed FP16 multiply. (R138) -/
  | hmul2 (c : BitVec 1) (d a b : BitVec 6)
  /-- HMIN2 : Packed FP16 minimumNumber. (R138) -/
  | hmin2 (c : BitVec 1) (d a b : BitVec 6)
  /-- HMAX2 : Packed FP16 maximumNumber. (R138) -/
  | hmax2 (c : BitVec 1) (d a b : BitVec 6)
  /-- BADD2 : Packed BF16 add. (R138) -/
  | badd2 (c : BitVec 1) (d a b : BitVec 6)
  /-- BSUB2 : Packed BF16 subtract. (R138) -/
  | bsub2 (c : BitVec 1) (d a b : BitVec 6)
  /-- BMUL2 : Packed BF16 multiply. (R138) -/
  | bmul2 (c : BitVec 1) (d a b : BitVec 6)
  /-- BMIN2 : Packed BF16 minimumNumber. (R138) -/
  | bmin2 (c : BitVec 1) (d a b : BitVec 6)
  /-- BMAX2 : Packed BF16 maximumNumber. (R138) -/
  | bmax2 (c : BitVec 1) (d a b : BitVec 6)
  /-- HFMA2 : Packed FP16 fused multiply-add. (R138) -/
  | hfma2 (c : BitVec 1) (d a b e : BitVec 6)
  /-- BFMA2 : Packed BF16 fused multiply-add. (R138) -/
  | bfma2 (c : BitVec 1) (d a b e : BitVec 6)
  /-- CVT : Converts between formats by the kind in FN, with the rounding code and SAT bit. (R139) -/
  | cvt (c : BitVec 1) (d a : BitVec 6) (r : BitVec 3) (s : BitVec 1) (k : BitVec 5)
  /-- RCP : Correctly rounded reciprocal, FP32 or FP64. (R141) -/
  | rcp (c : BitVec 1) (d a : BitVec 6) (w : BitVec 1)
  /-- RSQ : FP32 reciprocal square root within 1 ulp. (R141) -/
  | rsq (c : BitVec 1) (d a : BitVec 6)
  /-- SQRT : Correctly rounded square root. (R141) -/
  | sqrt (c : BitVec 1) (d a : BitVec 6) (w : BitVec 1)
  /-- DIV : Correctly rounded division. (R141) -/
  | div (c : BitVec 1) (d a b : BitVec 6) (w : BitVec 1)
  /-- EXP2 : FP32 base-2 exponential. (R141) -/
  | exp2 (c : BitVec 1) (d a : BitVec 6)
  /-- LOG2 : FP32 base-2 logarithm. (R141) -/
  | log2 (c : BitVec 1) (d a : BitVec 6)
  /-- SIN : FP32 sine with exact range reduction. (R141) -/
  | sin (c : BitVec 1) (d a : BitVec 6)
  /-- COS : FP32 cosine with exact range reduction. (R141) -/
  | cos (c : BitVec 1) (d a : BitVec 6)
  /-- SINCOS : Writes the sine and cosine of A to an even pair. (R141) -/
  | sincos (c : BitVec 1) (d a : BitVec 6)
  /-- SINPI : FP32 sin(πx). (R141) -/
  | sinpi (c : BitVec 1) (d a : BitVec 6)
  /-- COSPI : FP32 cos(πx). (R141) -/
  | cospi (c : BitVec 1) (d a : BitVec 6)
  /-- TANH : FP32 hyperbolic tangent. (R141) -/
  | tanh (c : BitVec 1) (d a : BitVec 6)
  /-- RAND : Takes one draw from the thread's stream and writes k. (R146) -/
  | rand (c : BitVec 1) (d : BitVec 6)
  /-- RANDU : Takes one draw and writes the FP32 uniform u in (0, 1]. (R146) -/
  | randu (c : BitVec 1) (d : BitVec 6)
  /-- PROPOSE : Copies w48–w63 into the shadow bank and opens a proposal. (R149) -/
  | propose (c : BitVec 1)
  /-- ACCEPT : Takes one draw, compares the log-acceptance with ln u, commits or drops the shadow, closes the proposal and counts. (R150) -/
  | accept (c : BitVec 1) (d a : BitVec 6)
  /-- DISCARD : Closes the open proposal and drops the shadow. (R151) -/
  | discard (c : BitVec 1)
  /-- PSEED : Sets the generator key and ctr from a pair. (R152) -/
  | pseed (c : BitVec 1) (a : BitVec 6)
  /-- PCNT : Writes PTOT and PACC to a pair. (R152) -/
  | pcnt (c : BitVec 1) (d : BitVec 6)
  /-- PCNT_CLR : Writes PTOT and PACC to a pair and then clears both counters. (R152) -/
  | pcntClr (c : BitVec 1) (d : BitVec 6)
  /-- XCH_PAIR : Convergence point that returns the value of the partner thread t XOR 1. (R129) -/
  | xchPair (c : BitVec 1) (d a : BitVec 6)
  /-- XCH_QX1 : Convergence point that returns the value of thread t XOR 2. (R129) -/
  | xchQx1 (c : BitVec 1) (d a : BitVec 6)
  /-- XCH_QX2 : Convergence point that returns the value of thread t XOR 3. (R129) -/
  | xchQx2 (c : BitVec 1) (d a : BitVec 6)
  /-- SHFL : Convergence point that returns the value of the set member named by B. (R129) -/
  | shfl (c : BitVec 1) (d a b : BitVec 6)
  /-- SHFLX : Convergence point that returns the value of thread t XOR B. (R129) -/
  | shflx (c : BitVec 1) (d a b : BitVec 6)
  /-- VOTEANY : Convergence point that returns 1 if any live member's A is nonzero. (R129) -/
  | voteany (c : BitVec 1) (d a : BitVec 6)
  /-- VOTEALL : Convergence point that returns 1 if every live member's A is nonzero. (R129) -/
  | voteall (c : BitVec 1) (d a : BitVec 6)
  /-- BALLOT : Convergence point that returns a mask of the live members with nonzero A. (R129) -/
  | ballot (c : BitVec 1) (d a : BitVec 6)
  /-- REDADD : Convergence point that returns the sum over the set modulo 2^32. (R129) -/
  | redadd (c : BitVec 1) (d a : BitVec 6)
  /-- REDMIN : Convergence point that returns the signed minimum over the set. (R129) -/
  | redmin (c : BitVec 1) (d a : BitVec 6)
  /-- REDMAX : Convergence point that returns the signed maximum over the set. (R129) -/
  | redmax (c : BitVec 1) (d a : BitVec 6)
  /-- BRA : Branches, always or on a possibly negated predicate, to a packet offset. (R119) -/
  | bra (p : BitVec 3) (n : BitVec 1) (o : BitVec 21)
  /-- CALL : Writes the link address to a pair and continues at the target packet. (R120) -/
  | call (d : BitVec 6) (i : BitVec 19)
  /-- JR : Jumps to the packet address in pair A. (R121) -/
  | jr (a : BitVec 6)
  /-- JALR : Jumps to the packet address in pair A and writes the link address to pair D. (R121) -/
  | jalr (d a : BitVec 6)
  /-- BAR_G : Group barrier: the thread arrives and parks until every live thread of the group arrives at the instance. (R123) -/
  | barG
  /-- BAR_S : Span barrier over the aligned rectangle of cores. (R124) -/
  | barS (w h : BitVec 4)
  /-- LD : Loads 1 to 32 bytes from memory on the thread path with the selected cache policy. (R236) -/
  | ld (c : BitVec 1) (d a : BitVec 6) (z : BitVec 3) (p : BitVec 2) (o : BitVec 8)
  /-- ST : Stores 1 to 32 bytes to memory on the thread path. (R236) -/
  | st (c : BitVec 1) (d a : BitVec 6) (z : BitVec 3) (p : BitVec 2) (o : BitVec 8)
  /-- LDT : Reads a tile word. (R239) -/
  | ldt (c : BitVec 1) (d : BitVec 6) (h : BitVec 5) (a b : BitVec 6)
  /-- LDT_WF : Waits until the tile word is full and then reads it. (R239) -/
  | ldtWf (c : BitVec 1) (d : BitVec 6) (h : BitVec 5) (a b : BitVec 6)
  /-- LDT_WFE : Waits until the tile word is full, reads it and sets it empty. (R239) -/
  | ldtWfe (c : BitVec 1) (d : BitVec 6) (h : BitVec 5) (a b : BitVec 6)
  /-- STT : Writes a tile word and sets it full. (R239) -/
  | stt (c : BitVec 1) (d : BitVec 6) (h : BitVec 5) (a b : BitVec 6)
  /-- STT_WE : Waits until the tile word is empty, then writes it and sets it full. (R239) -/
  | sttWe (c : BitVec 1) (d : BitVec 6) (h : BitVec 5) (a b : BitVec 6)
  /-- STT_RAW : Writes a tile word and leaves its full/empty bit unchanged. (R239) -/
  | sttRaw (c : BitVec 1) (d : BitVec 6) (h : BitVec 5) (a b : BitVec 6)
  /-- ATOM : Atomic read-modify-write by the selected operation at the given scope, returning the old value. (R251) -/
  | atom (c : BitVec 1) (d a b : BitVec 6) (s : BitVec 2) (o : BitVec 5)
  /-- CAS : Compare-and-swap at 32 or 64 bits, returning the old value. (R252) -/
  | cas (c : BitVec 1) (d a b : BitVec 6) (s : BitVec 2) (z : BitVec 1)
  /-- RED : Atomic reduction without a returned value. (R253) -/
  | red (c : BitVec 1) (a b : BitVec 6) (s : BitVec 2) (o : BitVec 5)
  /-- FENCE : Orders the PA-side accesses before the PB-side accesses at a scope, holding its chain until the fence completes. (R257) -/
  | fence (c : BitVec 1) (s : BitVec 3) (a b : BitVec 6)
  /-- WAIT : Parks until each outstanding counter is at or below its limit, then merges completed matrix flags. (R258) -/
  | wait (l s p t : BitVec 4)
  /-- WAITU : Registers a monitor entry on a word with a comparison and timeout, and parks for the wake. (R259) -/
  | waitu (c : BitVec 1) (d a b : BitVec 6) (m : BitVec 3) (z : BitVec 1)
  /-- LD_FUT : Reads a future cell: returns the value when full, otherwise parks until the filling ST.FUT or returns NACK. (R256) -/
  | ldFut (c : BitVec 1) (d a b : BitVec 6)
  /-- ST_FUT : Writes a future cell, sets it full and answers the held loads. (R256) -/
  | stFut (c : BitVec 1) (a b : BitVec 6)
  /-- CLR_FUT : Sets a future cell empty. (R256) -/
  | clrFut (c : BitVec 1) (a : BitVec 6)
  /-- TALLOC : Allocates a tile of the given shape, level and element code to a handle, or attaches a level-2 tile. (R242) -/
  | talloc (c : BitVec 1) (d : BitVec 6) (h : BitVec 5) (a : BitVec 6)
  /-- TFREE : Waits for commands that name the tile, writes back a bound tile and frees or detaches the handle. (R244) -/
  | tfree (c : BitVec 1) (d : BitVec 6) (h : BitVec 5)
  /-- TBIND : Binds a tile to global memory with a base and row pitch, marking every word unfilled. (R245) -/
  | tbind (c : BitVec 1) (d : BitVec 6) (h : BitVec 5) (a : BitVec 6)
  /-- TFLUSH : Writes the dirty words of a bound tile back to memory. (R246) -/
  | tflush (c : BitVec 1) (d : BitVec 6) (h : BitVec 5)
  /-- TRING : Makes a tile a ring of S slots, or an ordinary tile again when S = 0. (R247) -/
  | tring (c : BitVec 1) (d : BitVec 6) (h : BitVec 5) (a : BitVec 6)
  /-- TSETFE : Sets every full/empty bit of a tile and serves the waiters. (R248) -/
  | tsetfe (c : BitVec 1) (d : BitVec 6) (h : BitVec 5) (a : BitVec 6)
  /-- TARRT : Sets the arrival target of a tile and zeroes the pending count. (R248) -/
  | tarrt (c : BitVec 1) (d : BitVec 6) (h : BitVec 5) (a : BitVec 6)
  /-- WAITA : Parks until an arrival generation is satisfied or a failure is recorded. (R248) -/
  | waita (c : BitVec 1) (d : BitVec 6) (h : BitVec 5) (a : BitVec 6)
  /-- TINFO : Writes one page of the tile's state to a quad. (R249) -/
  | tinfo (c : BitVec 1) (d : BitVec 6) (h : BitVec 5) (a : BitVec 6)
  /-- RACQ : Reserves a ring sequence as producer or consumer, parking until one is available. (R247) -/
  | racq (c : BitVec 1) (d : BitVec 6) (h : BitVec 5) (a : BitVec 6)
  /-- RREL : Releases a ring sequence and advances PROD or CONS. (R247) -/
  | rrel (c : BitVec 1) (d : BitVec 6) (h : BitVec 5) (a : BitVec 6)
  /-- TIDSET : Copy-engine command that reads and checks a tensor descriptor and writes an identifier entry. (R261) -/
  | tidset (c : BitVec 1) (s : BitVec 6) (k : BitVec 8)
  /-- TIDGET : Copy-engine command that writes an identifier entry out as a descriptor. (R261) -/
  | tidget (c : BitVec 1) (s : BitVec 6) (k : BitVec 8)
  /-- COPY : Copy-engine command that copies a box from one tensor to another. (R263) -/
  | copy (c : BitVec 1) (s : BitVec 6) (k j : BitVec 8)
  /-- COPY_TL : Copy-engine command that copies a box from a tensor into a tile. (R263) -/
  | copyTl (c : BitVec 1) (s : BitVec 6) (k : BitVec 8)
  /-- COPY_LT : Copy-engine command that copies a box from a tile into a tensor. (R263) -/
  | copyLt (c : BitVec 1) (s : BitVec 6) (k : BitVec 8)
  /-- GATHER : Copy-engine command that copies tensor rows chosen by an index tensor into a tile. (R264) -/
  | gather (c : BitVec 1) (s : BitVec 6) (k j : BitVec 8)
  /-- SCATTER : Copy-engine command that writes tile rows to tensor rows chosen by an index tensor. (R264) -/
  | scatter (c : BitVec 1) (s : BitVec 6) (k j : BitVec 8)
  /-- MLOOP : Matrix command that runs ITER iterations accumulating A × B into the accumulator tile. (R163) -/
  | mloop (c : BitVec 1) (s : BitVec 6)
  /-- MDRAIN : Matrix command that scales the accumulator, applies dropout and the residual, converts it into a tensor and folds the amax. (R169) -/
  | mdrain (c : BitVec 1) (s : BitVec 6) (k : BitVec 8)
  /-- MZERO : Matrix command that zeroes an accumulator tile. (R166) -/
  | mzero (c : BitVec 1) (s : BitVec 6)
  /-- TAKE : Takes the core's rein, or joins the rein queue and parks. (R158) -/
  | take (c : BitVec 1)
  /-- PASS : Releases the rein to the head of the queue. (R158) -/
  | pass (c : BitVec 1)
  /-- MWAIT : Parks until the thread's matrix commands have completed, then merges their flags. (R173) -/
  | mwait (c : BitVec 1)
  /-- AMAX : Atomically folds |b| into an FP32 amax word. (R254) -/
  | amax (c : BitVec 1) (a b : BitVec 6) (s : BitVec 2)
  /-- AMAXRS : Atomically returns the amax word and resets it to +0. (R254) -/
  | amaxrs (c : BitVec 1) (d a : BitVec 6) (s : BitVec 2)
  /-- VBIND : Binds or unbinds a walker slot to a tree descriptor. (R192) -/
  | vbind (c : BitVec 1) (d a : BitVec 6) (s : BitVec 3)
  /-- VLD : Reads one voxel of a tree, with its status and leaf index. (R193) -/
  | vld (c : BitVec 1) (d a : BitVec 6) (s : BitVec 3)
  /-- VSTEN7 : Reads a voxel and its six face neighbours. (R194) -/
  | vsten7 (c : BitVec 1) (d a : BitVec 6) (s : BitVec 3)
  /-- VSAMP : Computes a trilinear sample at an index-space position. (R195) -/
  | vsamp (c : BitVec 1) (d a : BitVec 6) (s : BitVec 3)
  /-- VRAY : Takes one empty-space-skipping step along a ray. (R196) -/
  | vray (c : BitVec 1) (d a : BitVec 6) (s : BitVec 3)
  /-- VLEAF : Returns the group's leaf origin and slot index under a leaf launch. (R197) -/
  | vleaf (c : BitVec 1) (d : BitVec 6) (s : BitVec 3)
  /-- VINS : Asks the allocator engine to make the leaf containing a voxel present. (R198) -/
  | vins (c : BitVec 1) (d a : BitVec 6) (s : BitVec 3)
  /-- VDEL : Marks the present leaf containing a voxel for removal. (R200) -/
  | vdel (c : BitVec 1) (d a : BitVec 6) (s : BitVec 3)
  /-- VACT_CLR : Atomically clears a voxel's active bit and returns the old bit. (R201) -/
  | vactClr (c : BitVec 1) (d a : BitVec 6) (s : BitVec 3)
  /-- VACT_SET : Atomically sets a voxel's active bit and returns the old bit. (R201) -/
  | vactSet (c : BitVec 1) (d a : BitVec 6) (s : BitVec 3)
  /-- VST : Writes a voxel value in a present leaf. (R201) -/
  | vst (c : BitVec 1) (d a : BitVec 6) (s : BitVec 3)
  /-- HBIND : Binds or unbinds a hash-grid slot to a grid descriptor. (R204) -/
  | hbind (c : BitVec 1) (d a : BitVec 6) (s : BitVec 2)
  /-- HGRID : Evaluates hash-grid features at a position for the levels covered. (R206) -/
  | hgrid (c : BitVec 1) (d a : BitVec 6) (s : BitVec 2) (l : BitVec 4)
  /-- HGRAD : Adds weighted gradient contributions to the gradient table by FP32 atomic adds. (R207) -/
  | hgrad (c : BitVec 1) (d a : BitVec 6) (s : BitVec 2) (l : BitVec 4)
  /-- HGRADD : Adds fixed-point gradient contributions into the per-core partial tables by integer atomic adds. (R208) -/
  | hgradd (c : BitVec 1) (d a : BitVec 6) (s : BitVec 2) (l : BitVec 4)
  /-- ENQ : Reserves a slot of a graph edge and a backing block, parking when the edge is full. (R335) -/
  | enq (c : BitVec 1) (s : BitVec 6) (k : BitVec 8)
  /-- COMMIT : Publishes the thread's reserved record on an edge. (R336) -/
  | commit (c : BitVec 1) (s : BitVec 6) (k : BitVec 8)
  /-- RESULT : Records a branch selector and writes a result word. (R337) -/
  | result (c : BitVec 1) (s : BitVec 6)
  /-- LAUNCH : Starts a span from a running group as though at the head of a queue. (R338) -/
  | launch (c : BitVec 1) (s : BitVec 6)
  /-- COLL : Runs a collective among the members of an exchange. (R340) -/
  | coll (c : BitVec 1) (s : BitVec 6) (k j : BitVec 8)
  /-- HALO : Copies boundary leaves into the neighbours' trees and reports a step. (R341) -/
  | halo (c : BitVec 1) (s : BitVec 6)
  /-- STEP : Raises SELF and reports it to every neighbour. (R342) -/
  | step (c : BitVec 1) (s : BitVec 6)
  /-- STEPWAIT : Parks until the lead allowance holds at the exchange. (R343) -/
  | stepwait (c : BitVec 1) (s : BitVec 6)
  /-- TBEGIN : Tandem-entry rendezvous: places a trailer core, copies the group and writes the initial checkpoint. (R396) -/
  | tbegin
  /-- TCHK : Tandem rendezvous that takes a checkpoint. (R401) -/
  | tchk
  /-- TEND : Tandem rendezvous that compares both copies and leaves tandem mode. (R403) -/
  | tend
  /-- ERRQ : Waits until the thread's operations have completed and their error records are accepted, then writes ECOUNT. (R387) -/
  | errq (d : BitVec 6)
  /-- INSTRUCTION_FETCH : A thread reaches slot 0 of a packet: the packet is fetched and translated, with a fetch fault on failure. (R36) -/
  | instructionFetch (g t : Nat)
  /-- POISON_SKID : The 256th instruction retired after poison entered the registers forces the poison consumption trap. (R383) -/
  | poisonSkid (g t : Nat)
  /-- YIELD_EXPIRY : The 64 cycles of a YIELD pass and the thread becomes ready. (R387) -/
  | yieldExpiry (g t : Nat)
  /-- LOAD_COMPLETE : A load's data returns and its destination is written, ending the pending state. (R232) -/
  | loadComplete (a : Nat)
  /-- STORE_ACK : A store acknowledgement returns with its LWCT and GWCT and the store class count falls. (R217) -/
  | storeAck (a : Nat)
  /-- SLICE_ACCESS : An access arrives at an L2 slice and is performed there, with lease and write completion times. (R217) -/
  | sliceAccess (a : Nat)
  /-- FENCE_COMPLETE : A fence's waits end and the PB-side accesses may issue. (R219) -/
  | fenceComplete (g t : Nat)
  /-- MONITOR_INSERT : A WAITU registration arrives at the home slice and is inserted and evaluated. (R227) -/
  | monitorInsert (m : Nat)
  /-- MONITOR_TIMEOUT : A monitor entry's timeout expires and its thread is woken with status 1. (R300) -/
  | monitorTimeout (m : Nat)
  /-- MONITOR_SPILL_RETURN : When a slice entry frees, the control die moves the oldest spilled entry for that slice back into the table. (R299) -/
  | monitorSpillReturn (die slice : Nat)
  /-- MONLOST : An uncorrectable error in a monitor table or deferral buffer removes its entries, waking threads with LOST and answering held loads with NACK. (R394) -/
  | monlost (die slice : Nat)
  /-- RDS : A shared read request arrives at a line's home directory. (R272) -/
  | rds (m : Nat)
  /-- RDX : An exclusive read request arrives at a line's home directory. (R272) -/
  | rdx (m : Nat)
  /-- UPG : An upgrade request arrives at a line's home directory. (R272) -/
  | upg (m : Nat)
  /-- WB : A write-back arrives at a line's home, which takes its data. (R277) -/
  | wb (m : Nat)
  /-- INV : An invalidation arrives at a die and is answered with its horizon. (R276) -/
  | inv (m : Nat)
  /-- FWD : A forwarded shared read arrives at the owner die. (R276) -/
  | fwd (m : Nat)
  /-- FWDINV : A forwarded exclusive read arrives at the owner die. (R276) -/
  | fwdinv (m : Nat)
  /-- DIRECTORY_ANSWER : An answer to an Inv, Fwd or FwdInv, with data or horizon, arrives at the home. (R274) -/
  | directoryAnswer (m : Nat)
  /-- NO_LINE_ANSWER : A "no line, write-back in flight" answer arrives at the home. (R277) -/
  | noLineAnswer (m : Nat)
  /-- GRANT : A grant of E or M, with or without data, arrives at the requesting die, which performs the operation that asked for it. (R275) -/
  | grant (m : Nat)
  /-- PERFORM_AT_HOME : A "perform at home" answer arrives at the requesting die, which drops its copy and sends its operation to the home. (R289) -/
  | performAtHome (m : Nat)
  /-- HOME_OPERATION : A write sent to the home of a monitored line arrives and is performed there, evaluating its monitor entries. (R289) -/
  | homeOperation (m : Nat)
  /-- WB_ACK : The home's acknowledgement of a write-back arrives and the die leaves MI for I. (R277) -/
  | wbAck (m : Nat)
  /-- LINE_AGEING : After 2,048 ticks without access, a remote dirty line is written back to its home. (R290) -/
  | lineAgeing (die line : Nat)
  /-- LINE_RECEIVE : A compressed line arrives on a die link and is decoded and CRC-checked, with dictionary update or discard. (R284) -/
  | lineReceive (src dst : Nat) (damaged : Bool)
  /-- REPLAY_REQUEST : A replay request reaches the sender, which resets its dictionary and resends from the failed line. (R284) -/
  | replayRequest (src dst : Nat)
  /-- LINK_RETRAIN : A die-link retrain resets both dictionaries and replays lines in flight. (R285) -/
  | linkRetrain (a b : Nat)
  /-- DIE_RESET : A compute die's reset asserts: sharer masks, lost lines, pending answers, requests and links are handled. (R279) -/
  | dieReset (die : Nat)
  /-- TRAP_MESSAGE : The cluster's trap runtime takes the next mailbox message and records, resumes, serves or terminates. (R380) -/
  | trapMessage (die cluster : Nat)
  /-- FAULT_RESPONSE : The control die sees FCONS advance and acts on each consumed record's RESP by retry or forward. (R382) -/
  | faultResponse (asid : Nat)
  /-- FCONS_POLL : Every 10 µs the control die reads an FCONS that lies in host memory. (R382) -/
  | fconsPoll (asid : Nat)
  /-- HELD_FAULT_POST : Held faults are posted in TSC order when FCONS frees space. (R382) -/
  | heldFaultPost (asid : Nat)
  /-- FAULT_WRITE_RETRY : Every 10 µs the control die retries writing held fault records whose queue was unwritable. (R418) -/
  | faultWriteRetry (asid : Nat)
  /-- SIDE_LOG_REPLAY : The memory unit replays a thread's side-log entries in order once their pages are mapped. (R376) -/
  | sideLogReplay (e : Nat)
  /-- ERROR_RECORD_POST : At least 2,000 ticks after its TSC, an accepted error record is posted, merged or dropped in the context's error queue. (R390) -/
  | errorRecordPost (r : Nat)
  /-- SCRUB : The scrubber reads each HBM line once in 24 hours and writes back corrected lines. (R392) -/
  | scrub (line outcome : Nat)
  /-- SENTINEL_EVENT : A timing sentinel flags a late transition and the cycle is recomputed at half clock. (R393) -/
  | sentinelEvent (core asid : Nat)
  /-- VOLTAGE_STEP_DOWN : After each second without a 1,024-event millisecond, the die's voltage target falls by one step. (R393) -/
  | voltageStepDown (die : Nat)
  /-- POWER_EXCESS : Module power exceeds PLIM and the clock is lowered in 100 MHz steps. (R372) -/
  | powerExcess (watts : Nat)
  /-- THERMAL_LIMIT : Junction temperature reaches 105 °C or 115 °C, holding the clock or resetting the compute dies. (R372) -/
  | thermalLimit (celsius : Nat)
  /-- PPS_PULSE : A pulse edge on the 1PPS input disciplines the TSC. (R365) -/
  | ppsPulse (edge : Int)
  /-- PTM_SYNC : A PTM time exchange on the selected port disciplines the TSC. (R365) -/
  | ptmSync (port : Nat) (error : Int)
  /-- PORT_RESET : A host port's link-down or function-level reset releases every semaphore that port holds. (R358) -/
  | portReset (port : Nat)
  /-- BRING_UP : Power-on runs ROM check, HBM training, far-line sizing, die-link, Galgal Link and PCIe training. (R371) -/
  | bringUp (flc : List Nat) (firmware runtime : List (BitVec 8)) (version : Nat × Nat)
  /-- HOST_MEMORY_ACCESS : A host read or write through BAR2 reaches device physical memory. (R357) -/
  | hostMemoryAccess (port : Nat) (write : Bool) (offset : Nat) (data : List (BitVec 8))
  /-- SEMAPHORE_READ : A read of a semaphore acquires it or returns the holder's number. (R358) -/
  | semaphoreRead (port n : Nat)
  /-- SEMAPHORE_WRITE : A write of 0 by the holder releases the semaphore; other writes are ignored. (R358) -/
  | semaphoreWrite (port n value : Nat)
  /-- QTAIL_WRITE : A write of QTAIL sets the queue's tail. (R360) -/
  | qtailWrite (port q index : Nat)
  /-- REGISTER_WRITE : A write to a register of the register space with no behaviour of its own stores the value. (R357) -/
  | registerWrite (port offset : Nat) (value : BitVec 64)
  /-- CTX_CREATE : Management operation that creates a context from its record. (R349) -/
  | ctxCreate (port : Nat)
  /-- CTX_DESTROY : Management operation that destroys a context unless it is busy. (R349) -/
  | ctxDestroy (port : Nat)
  /-- QBIND : Management operation that binds a queue to a context with ring, priority and expected tag. (R360) -/
  | qbind (port : Nat)
  /-- QUNBIND : Management operation that unbinds a queue. (R359) -/
  | qunbind (port : Nat)
  /-- QRESUME : Management operation that restarts a stopped queue with a new expected tag. (R359) -/
  | qresume (port : Nat)
  /-- TLBINV : Management operation that invalidates translations of an ASID and waits until accesses under the old entries are performed. (R355) -/
  | tlbinv (port : Nat)
  /-- PREEMPT : Management operation that pre-empts a context on a rectangle of cores. (R316) -/
  | preempt (port : Nat)
  /-- PLIFT : Management operation that lifts a pre-emption. (R316) -/
  | plift (port : Nat)
  /-- MIGOUT : Management operation that completes the save images of a fully saved context for migration. (R368) -/
  | migout (port : Nat)
  /-- MIGIN : Management operation that restores images into a context and re-registers monitor entries. (R368) -/
  | migin (port : Nat)
  /-- EXCHSET : Management operation that replaces an exchange entry. (R369) -/
  | exchset (port : Nat)
  /-- RTSHARE : Management operation that reserves a link share to a context. (R367) -/
  | rtshare (port : Nat)
  /-- ATTEST : Management operation that writes a signed attestation report for a nonce. (R371) -/
  | attest (port : Nat)
  /-- WINSET : Management operation that sets the BAR2 window base for the port. (R357) -/
  | winset (port : Nat)
  /-- MGMT_COMPLETE : A management operation completes: MSTAT takes DONE, OVERRUN and status, and the MSI-X vector may be raised. (R359) -/
  | mgmtComplete
  /-- COMMAND_FETCH : The command processor fetches the head record of the chosen queue and checks its sequence tag and fields. (R362) -/
  | commandFetch
  /-- RECORD_REFETCH : 1 µs after a sequence mismatch the record is fetched again, and the queue stops after 64 more mismatches. (R362) -/
  | recordRefetch (q : Nat)
  /-- LAUNCH_COMMAND : A LAUNCH command reads the launch descriptor, checks it and deals the span's groups. (R325) -/
  | launchCommand (q : Nat)
  /-- LAUNCH_LEAF : A LAUNCH.LEAF command walks the tree, selects leaves and deals one group per leaf. (R302) -/
  | launchLeaf (q : Nat)
  /-- GRAPH_COMMAND : A GRAPH command checks the graph and dispatches its entry nodes. (R330) -/
  | graphCommand (q : Nat)
  /-- COPY_COMMAND : A COPY command hands its copy to a copy engine. (R361) -/
  | copyCommand (q : Nat)
  /-- WAITWORD : A WAITWORD command registers a monitor entry and completes at its wake. (R293) -/
  | waitword (q : Nat)
  /-- RELEASE : A RELEASE command waits for its release time and then hands its copy over. (R311) -/
  | release (q : Nat)
  /-- RELEASE_TIME : The release time of a started RELEASE is reached and its copy goes to a copy engine. (R311) -/
  | releaseTime (q : Nat)
  /-- COLL_COMMAND : A COLL command is accepted by the collective engine. (R361) -/
  | collCommand (q : Nat)
  /-- FENCE_COMMAND : A FENCE command completes once every earlier command of its queue is complete. (R293) -/
  | fenceCommand (q : Nat)
  /-- GROUP_RESIDENT : A core's launcher makes the first waiting group resident once the core has room. (R294) -/
  | groupResident (core : Nat)
  /-- GROUP_END : A group's last thread has ended and its operations completed: rein, tiles, slots and reservations are released, and the span may end. (R30) -/
  | groupEnd (g : Nat)
  /-- AUTO_PREEMPT : A group that has waited 100 µs for a core with a much lower-priority resident context triggers pre-emption. (R315) -/
  | autoPreempt (core : Nat)
  /-- DEADLINE_EXPIRY : A context's pre-emption deadline timer expires and the context is reset on the named cores. (R319) -/
  | deadlineExpiry (asid : Nat)
  /-- GROUP_SAVE : A resident group whose live threads are all parked on savable causes is saved on the spot. (R317) -/
  | groupSave (g : Nat)
  /-- GROUP_RESTORE : A runnable saved group is restored to its core with tiles, slots, reservations and rein state. (R323) -/
  | groupRestore (g : Nat)
  /-- NODE_DISPATCH : A graph node becomes dispatchable and is dispatched, or its fallback is. (R310) -/
  | nodeDispatch (graph node : Nat)
  /-- COALESCE_TIMER : A coalescing node's timer runs out and a batch of held records is dispatched. (R307) -/
  | coalesceTimer (graph node : Nat)
  /-- COPY_COMPLETE : A copy engine finishes a command: arrival counts, completion word and failure status are written. (R266) -/
  | copyComplete (id : Nat)
  /-- TILE_ROW_FILL : The fill of a bound tile's row from memory completes and the waiting access proceeds. (R246) -/
  | tileRowFill (tile row : Nat)
  /-- MATRIX_COMMAND_START : The matrix engine starts the next accepted command in its sequence. (R159) -/
  | matrixCommandStart (core : Nat)
  /-- RING_SLOT_READY : A ring slot that an MLOOP iteration waits for is published, and the iteration proceeds. (R164) -/
  | ringSlotReady (core : Nat)
  /-- MATRIX_COMMAND_COMPLETE : A matrix command completes or fails, making its flags pending for merge. (R160) -/
  | matrixCommandComplete (core : Nat)
  /-- ALLOCATOR_REQUEST : The allocator engine serves the next VINS or VDEL, or a halo insertion. (R198) -/
  | allocatorRequest
  /-- SWEEP : The allocator sweeps a tree that is not held and has leaves marked DEL. (R200) -/
  | sweep (asid root : Nat)
  /-- FIELD_WORD_COMPLETE : A field word's result returns and its destination is written. (R190) -/
  | fieldWordComplete (id : Nat)
  /-- LINK_COMMAND_COMPLETE : A COLL, HALO or STEP command's transfers complete, SELF is raised and the step is reported. (R339) -/
  | linkCommandComplete (id : Nat)
  /-- STEP_REPORT : A neighbour's step report lands as its NBR entry, waking STEPWAIT threads and releasing held queues and nodes. (R314) -/
  | stepReport (asid exch n : Nat) (step : BitVec 32)
  /-- TRAILER_ACCESS : The trailer's access is compared with the leader's compare-buffer entry and released on a match. (R398) -/
  | trailerAccess (g t : Nat)
  /-- TANDEM_WAIT_TIMEOUT : A wait of one copy for the other lasts 100 µs and counts as a mismatch. (R400) -/
  | tandemWaitTimeout (g : Nat)
  /-- TANDEM_CHECKPOINT : With 256 released entries and nothing pending, the cores take a checkpoint of their own. (R399) -/
  | tandemCheckpoint (g : Nat)
  /-- NOT_AN_INSTRUCTION : A word with a reserved major, function, selector, mode, size or kind issues and takes Illegal Instruction at decode. (R69) -/
  | notAnInstruction (w : BitVec 32)
  /-- BADOP : A MOP write with an operation code that is not in the table completes with status BADOP. (R359) -/
  | badop (port op : Nat)
  /-- OWNERSHIP_GRANT : The slice grants exclusive ownership of a line once its TSC exceeds the lease horizon + 2, and the waiting atomic is performed. (R220) -/
  | ownershipGrant (a : Nat)
  /-- TILE_OPERATION_COMPLETE : A TFLUSH or TFREE write-back passes its GWCT and its status is written, ending its tile-class count. (R246) -/
  | tileOperationComplete (id : Nat)
  /-- LINK_WRITE_ARRIVAL : Data of a COLL, HALO, COPY or RELEASE from another device arrives over a Galgal Link port and is written on the link path, with FEC, retry and retrain. (R209) -/
  | linkWriteArrival (asid va : Nat) (data : List (BitVec 8)) (origin : Option (BitVec 32 × BitVec 32 × BitVec 32))
  /-- DIE_ENABLE : A compute die that was reset is enabled again and lines homed on it become available, read from memory. (R279) -/
  | dieEnable (die : Nat)
  /-- ERROR_RECORD_ACCEPT : An error record reaches the control die and is accepted, counted in ECOUNT, and releases ERRQ waits. (R390) -/
  | errorRecordAccept (r : Nat)
  deriving DecidableEq, Repr

end Sys2Proof
end

