-- ==== Sys2Proof/Machine/State.lean ====
section
/-! DEFINITION. The state of the Jehus as plain data, and the machine right after reset. Agents and
state follow INVENTORY.md; each structure names the rules it holds. -/

namespace Sys2Proof.Machine

/-- Why the machine stops. An event of another agent that the state does not enable does not occur on
the device: executing it stops the run. Safe: the model stops where the device has no such step. -/
inductive Fault where
  /-- Raised by every event meaning when the item that the event acts on is not there or is not ready
  (log 13). Safe: no such step occurs on the device. -/
  | notEnabled
  deriving DecidableEq, Repr

/-- Why an instruction has no meaning in the model. -/
inductive Refusal where
  /-- Raised by an arm of `exec` whose instruction has no meaning yet. Safe: the model stops. -/
  | notModelled (mnemonic : String)
  deriving DecidableEq, Repr

/-- Rounding modes in the code order of R79. -/
inductive RMode where
  | rne | rtz | rdn | rup | rna
  deriving DecidableEq, Repr

/-- Sticky flags in the GETFLG bit order of R84: NV 4, DZ 3, OF 2, UF 1, NX 0. -/
abbrev Flags := BitVec 5

/-- A program counter: packet address and slot 0-2 (R37). -/
structure PC where
  pkt : DWord := 0
  slot : Nat := 0
  deriving DecidableEq, Repr

/-- What a thread parked at a full/empty word waits to do (R222). -/
inductive TileWant where
  | full          -- LDT.WF
  | fullEmpty     -- LDT.WFE
  | empty (v : Word) (poisoned : Bool)  -- STT.WE with its data
  deriving DecidableEq, Repr

/-- The causes of parking, in the row order of R298. -/
inductive Cause where
  | monitor (dst : Nat)
  | tileWord (tile word : Nat) (want : TileWant) (dst : Nat)
  | arrival (tile : Nat) (gen : Word) (dst : Nat)
  | ring (tile : Nat) (consumer : Bool) (dst : Nat)
  | rein
  | converge (op dst : Nat) (a b : Word) (poisoned : Bool)
  | barG (instanceNo : Nat)
  | barS (instanceNo lw lh : Nat)
  | enq (edge : Nat) (table : DWord)
  | future (dst status : Nat) (cell : DWord)
  | stepWait (exch : Nat)
  | access
  | counter (cls : Nat)
  | sideLog
  | waitCtr (ld st cp tl : Nat)
  | mwait
  | trap
  | errq (dst : Nat)
  | tbegin
  | rendezvous (word : Nat)      -- 0 TCHK, 1 TEND, 2 EXIT
  deriving DecidableEq, Repr

/-- A fence that waits for completion (R219). What the other threads of its span issued before its start stands before the name
`upto` (R214, R218). -/
structure FenceWait where
  scope : Nat
  pa : Nat
  pb : Nat
  upto : Nat
  deriving DecidableEq, Repr

/-- Why a chain does not take effect for a thread (R41): a trap with its message kind, code and A value
(R379), parity errors in registers that it reads (R385), use of poisoned registers (R383), a park, a fence that waits (R219), a word that must wait without parking (R45, R160, R262), a
trailer's access that waits to be compared (R398), a tile row to be filled (R246), a request to the control die
(R334), a translation fault of the thread's own access (R375), or one that keeps an entry of a leader's compare buffer (R402). -/
inductive Stop where
  | trap (kind code : Nat) (aval : Word)
  | parity (regs preds uregs : List Nat)
  | park (c : Cause)
  | fence (f : FenceWait)
  | hold
  | trailer (sig : List Nat)
  | fill (tile row : Nat)
  | ask (commit : Bool) (edge : Nat) (table : DWord)
  | fault (va : DWord) (kind acc : Nat)
  | poison (regs preds uregs : List Nat)
  | entry (va : DWord) (kind acc k : Nat) (sig : List Nat)
  deriving DecidableEq, Repr

/-- Whether a thread may issue (R26, R27). `hold` is a thread that is not ready and not parked
(R45, R160, R262): it is tried again after the next event. -/
inductive TState where
  | ready
  | hold
  | fencing (f : FenceWait)
  | yielding (until_ : Nat)
  | filling (tile row : Nat)      -- waits for the fill of a tile's row (R246)
  | asking (commit : Bool) (edge : Nat) (table : DWord)   -- waits for the control die's answer (R334)
  | answering (commit : Bool) (edge : Nat) (table raddr : DWord) (slot stat : Nat)  -- its table entry is held under a fault (R334)
  | waiting                       -- not ready until the other copy's answer (R398)
  | parked (c : Cause)
  | exited
  deriving DecidableEq, Repr

/-- A reservation of a graph edge (R305, R334). -/
structure Reservation where
  edge : Nat
  slot : Nat
  block : Nat
  deriving DecidableEq, Repr

/-- A poisoning of a thread's registers (R383, R385): the instructions left before its consumption point, where the poison came from,
whether a parity error of a register made it, whether its trap has been taken, and the registers that hold its poison: those of the
primary bank, those of the other bank, and predicates. -/
structure Skid where
  n : Nat := 0                     -- its number in its thread
  left : Nat := 256
  va : DWord := 0
  parity : Bool := false
  taken : Bool := false
  regs : BitVec 64 := 0
  shadow : BitVec 16 := 0
  preds : BitVec 8 := 0
  deriving DecidableEq, Repr

/-- A thread (R19, R45, R147, R321). -/
structure Thread where
  tid : Nat
  regs : Vector Word 64 := Vector.replicate 64 0
  poison : BitVec 64 := 0
  preds : BitVec 8 := 1
  ppoison : BitVec 8 := 0
  pc : PC := {}
  flags : Flags := 0
  mflags : Flags := 0
  rmode : RMode := .rne
  popen : Bool := false
  shadow : Vector Word 16 := Vector.replicate 16 0
  spoison : BitVec 16 := 0
  ptot : Word := 0
  pacc : Word := 0
  key : Word := 0
  ctr : Word := 0
  nLoad : Nat := 0
  nStore : Nat := 0
  nCopy : Nat := 0
  nTile : Nat := 0
  pend : BitVec 64 := 0
  st : TState := .ready
  waitSince : Nat := 0
  packet : List Word := []         -- the words of the packet at the PC, once fetched (R36, R40)
  parkNext : PC := {}              -- the PC after the parked chain
  parkAlone : Bool := true         -- the parked word is its whole chain
  parkSlot : Nat := 0              -- its slot
  trapAt : Option (Nat × Nat × Word) := none  -- kind, code and A value of the trap it stands at
  parkOwn : List Nat := []         -- the poisonings of the parked word's sources (R383)
  grants : List (Nat × List Word × Option DWord) := []   -- results for waiting words of a held chain, by slot, and where poison in them came from
  barG : Nat := 0
  barS : Nat := 0
  raised : Flags := 0              -- flags raised by the chain now issuing (R381)
  skids : List Skid := []          -- poisonings, the oldest first (R383)
  parity : BitVec 64 := 0          -- registers whose next reading finds a parity error (R385)
  pparity : BitVec 8 := 0          -- predicates, likewise
  sparity : BitVec 16 := 0         -- the other bank's registers, likewise
  pseq : Nat := 0
  afresh : Option (Nat × Nat) := none  -- resumes at the word at which it was saved: its park sequence and the row of its cause (R131, R323)
  res : List Reservation := []
  fence : Option Nat := none       -- where the fence at which its chain stands began (R219)
  lw : Nat := 0                    -- largest LWCT returned to the thread (R219)
  gw : Nat := 0                    -- largest GWCT returned to the thread
  tacc : Nat := 0                  -- tandem access count since the checkpoint (R398)
  sync : Nat := 0                  -- barriers and lane exchanges passed since TBEGIN: where it stands beside its access count (R400)
  flips : Nat := 0                 -- FLIPLEAD words reached since the checkpoint or rollback (R406)
  tsig : List Nat := []            -- the trailer's access that waits to be compared (R398)
  waitTick : Nat := 0              -- tick at which it parked or began to wait for the other copy (R400)
  deriving DecidableEq, Repr

/-- A tensor identifier entry (R93-R97). -/
structure Tensor where
  fmt : Nat
  esize : Nat
  rank : Nat
  scg : Nat
  planes : Nat
  strsh : Nat
  base : DWord
  ext : List Nat        -- extents below RANK
  str : List Nat        -- strides of dimensions 1 and up, below RANK
  scale : DWord
  amaxa : DWord
  deriving DecidableEq, Repr

/-- A tree descriptor as read by VBIND (R185). -/
structure TreeDesc where
  addr : DWord          -- the descriptor's own address, for BINDS of R320
  root : DWord
  rdonly : Bool
  vfmt : Nat
  lbits : Nat
  nbits : Nat
  rbits : Nat
  bg : DWord
  nodep : DWord
  leafp : DWord
  sc : List Word        -- SX, SY, SZ
  off : List Word       -- OFX, OFY, OFZ
  deriving DecidableEq, Repr

/-- A hash-grid descriptor as read by HBIND (R204). -/
structure GridDesc where
  addr : DWord
  sh : Nat
  t : Nat
  fc : Nat
  d3 : Bool
  lm1 : Nat
  feat : DWord
  grad : DWord
  part : DWord
  nres : List Nat
  deriving DecidableEq, Repr

/-- The leaf of a group that a leaf launch started (R197, R302). -/
structure LeafInfo where
  root : DWord
  slot : Nat
  x : Word
  y : Word
  z : Word
  deriving DecidableEq, Repr

/-- Which copy of a tandem group a group record is (R396). -/
inductive Role where
  | solo | leader | trailer
  deriving DecidableEq, Repr

/-- A resident group (R22-R25). -/
structure Group where
  gid : Nat                        -- the model's name of the group
  asid : Nat
  sid : Nat                        -- span
  grp : Nat                        -- group number in the span
  gsz : Nat
  alloc : Nat                      -- 16, 32 or 64
  core : Nat                       -- core index (die - 1) * 80 + core number
  slot : Nat                       -- group slot of the core, 0-15 (R26)
  cbase : DWord
  uregs : Vector Word 64 := Vector.replicate 64 0
  upoison : BitVec 64 := 0
  upva : List (Nat × DWord) := []  -- where the poison of uniform registers came from (R383)
  utaken : BitVec 64 := 0          -- poisoned uniform registers whose trap has been taken
  tslots : List Nat := []          -- save slots of its threads within the context (R299)
  uparity : BitVec 64 := 0         -- uniform registers whose next reading finds a parity error (R385)
  handles : List (Nat × Nat) := []         -- handle, tile
  walkers : List (Nat × TreeDesc) := []    -- walker slot, binding
  grids : List (Nat × GridDesc) := []      -- hash-grid slot, binding
  leaf : Option LeafInfo := none
  role : Role := .solo
  partner : Nat := 0               -- the other copy's gid when not solo
  awaitRein : Bool := false        -- restored as holder: its threads wait for the rein (R177)
  threads : List Thread := []
  terminated : Bool := false
  hold : Bool := false             -- its end, its save or its checkpoint is held under a fault
  noSave : Bool := false           -- its image cannot be written: it drains (R317)
  deriving DecidableEq, Repr

/-- A ring's counters and the sequences reserved and released out of order (R247). -/
structure Ring where
  slots : Nat
  pres : Word := 0
  cres : Word := 0
  prod : Word := 0
  cons : Word := 0
  heldP : List Word := []
  heldC : List Word := []
  relP : List Word := []
  relC : List Word := []
  deriving DecidableEq, Repr

/-- A tile (R33, R238, R242-R248). A word that nothing has written reads as zero or as a word of an earlier tile of its
context; which one is free (R350, log 5). -/
structure Tile where
  uid : Nat
  asid : Nat
  sid : Nat
  level : Nat
  core : Nat                       -- the owning core at levels 0 and 1
  die : Nat                        -- the die at level 2
  rx : Nat := 0                    -- share rectangle at level 2
  ry : Nat := 0
  lw : Nat := 0
  lh : Nat := 0
  key : Nat := 0
  rows : Nat
  cols : Nat
  ecode : Nat
  planes : Nat
  words : List (Nat × Word) := []
  full : List Nat := []            -- full words, ascending
  poison : List Nat := []          -- words with the poison mark
  count : DWord := 0
  target : DWord := 0
  gen : Word := 0
  ring : Option Ring := none
  bind : Option (DWord × Nat) := none     -- base and row pitch
  filled : List Nat := []          -- filled rows of a bound tile
  old : List Word := []            -- words that earlier tiles of its context held, one of which a word not written may hold (R350)
  dirty : List Nat := []           -- dirty words of a bound tile
  deriving DecidableEq, Repr

/-- Kinds of access on the thread path (R209), and of those parts that a field word performs. -/
inductive AccKind where
  | load (sext : Bool)
  | store
  | rmw (op : Nat)                 -- OP mod 16 of R62, for ATOM and RED
  | cas
  | amax
  | amaxrs
  | ldFut
  | stFut
  | clrFut
  | locq
  deriving DecidableEq, Repr

/-- How far an access has come. -/
inductive Phase where
  | issued      -- travelling to its slice or port
  | waitLine    -- its die has asked the home for the line
  | waitOwn     -- waits for exclusive ownership of its core (R220)
  | atHome      -- sent to the home slice (R289)
  | deferred    -- held in the deferral buffer (R225)
  | done        -- performed; its answer returns
  deriving DecidableEq, Repr

/-- A part of an access that is performed whole (R210): where it lies and which bytes of the value it is. -/
structure Part where
  pa : Nat
  off : Nat
  n : Nat
  home : Nat := 0
  host : Option Nat := none        -- host port, for host memory
  dev : Bool := false              -- in the device page
  deriving DecidableEq, Repr

/-- An access on its way (R217, R232-R237, R251-R256). -/
structure Acc where
  id : Nat
  asid : Nat
  gid : Nat
  tid : Nat
  core : Nat
  kind : AccKind
  va : DWord
  parts : List Part                -- still to perform, in order
  size : Nat
  data : Nat := 0
  data2 : Nat := 0
  scope : Nat := 2
  cp : Nat := 0
  dst : Nat := 0
  dcnt : Nat := 0
  shadow : Bool := false           -- the bank selected at issue (R147)
  streg : Nat := 0
  cls : Nat := 0                   -- 0 load, 1 store
  noret : Bool := false
  phase : Phase := .issued
  result : Nat := 0
  status : Nat := 0
  cond : Option Nat := none        -- a group-scope update and the value it read (R230)
  lw : Nat := 0
  gw : Nat := 0
  poison : Bool := false
  side : Bool := false             -- replayed from the side log
  fld : Bool := false              -- on the field path
  deriving DecidableEq, Repr

/-- The completion times that an access of a thread has returned, until they have passed (R214, R217, R219); thread 0xFFFF for the
writes that a group's save has made. -/
structure Owed where
  id : Nat
  asid : Nat
  sid : Nat
  gid : Nat
  tid : Nat
  core : Nat
  lw : Nat
  gw : Nat
  deriving DecidableEq, Repr

/-- States of a line on a die (R276). -/
inductive LineSt where
  | I | S | E | O | M | IS | IM | SM | MI
  deriving DecidableEq, Repr

/-- Directory messages (R272-R277, R289); a monitor registration and a future operation stand among the requests that wait at a
home (R289). -/
inductive MsgKind where
  | rds | rdx | upg | wb | inv | fwd | fwdInv | answer | noLine | grant | atHome | homeOp | wbAck | register | future
  deriving DecidableEq, Repr

/-- A directory message in flight. -/
structure Msg where
  id : Nat
  kind : MsgKind
  line : Nat
  src : Nat
  dst : Nat
  time : Nat := 0                  -- tick it was sent
  horizon : Nat := 0
  data : Option LineData := none
  lst : LineSt := .I               -- state granted
  acc : Nat := 0                   -- the access of a homeOp
  hops : List (Nat × Nat) := []    -- die links it still has to cross (R280)
  via : Nat × Nat := (0, 0)        -- the link that it has arrived by; its die twice for one that crosses none
  came : Nat := 0                  -- its place among the messages that have arrived
  asid : Nat := 0                  -- the context whose access caused it; 0 for none
  lw : Nat := 0
  gw : Nat := 0
  deriving DecidableEq, Repr

/-- A line as a die holds it (R270, R276). -/
structure DieLine where
  line : Nat
  st : LineSt := .I
  data : LineData := 0
  gh : Nat := 0                    -- horizon carried by the grant (R274)
  lw : Nat := 0
  gw : Nat := 0
  last : Nat := 0                  -- tick of the last access (R290)
  asker : Option Nat := none       -- the access that asked for the line and is still to be performed (R275)
  own : Option Nat := none         -- core that owns the line exclusively (R220)
  held : List Msg := []            -- Inv, Fwd, FwdInv held until the data arrives
  atHomeBusy : Bool := false       -- an operation of this die is at the home (R289)
  flc : Bool := false              -- the die's far-line cache holds it, and not its L2 slice (R271)
  deriving DecidableEq, Repr

/-- States of a line at its home (R272, R289). -/
inductive HomeSt where
  | I | S | E | M | O | bInv | bFwd | bWb | bAh
  deriving DecidableEq, Repr

/-- A directory entry (R272, R273). -/
structure Dir where
  line : Nat
  home : Nat
  st : HomeSt := .I
  sharers : List Nat := []
  owner : Nat := 0
  queue : List Msg := []           -- requests that wait, in the order of R273
  cur : Option Msg := none         -- the request being processed
  need : List Nat := []            -- dies whose answer is outstanding
  hor : Nat := 0                   -- horizon gathered
  data : Option LineData := none   -- data gathered from the owner
  kept : LineSt := .S              -- the state that the owner kept after a Fwd (R272)
  keeps : Bool := false            -- the request being processed leaves the owner a copy
  reqTick : Nat := 0               -- tick and source number of the request that arrived last (R273)
  reqSrc : Nat := 0
  atHome : Bool := false           -- the request is answered with "perform at home" (R278)
  lw : Nat := 0                    -- write completion times that came with data
  gw : Nat := 0
  deriving DecidableEq, Repr

/-- An L1 copy with its lease and value times (R217). -/
structure L1Line where
  core : Nat
  line : Nat
  expiry : Nat
  data : LineData
  lw : Nat := 0
  gw : Nat := 0
  poison : Bool := false
  deriving DecidableEq, Repr

/-- The latest lease a die's slice has granted on a line (R217, R274). -/
structure Horizon where
  die : Nat
  line : Nat
  expiry : Nat
  deriving DecidableEq, Repr

/-- A cached translation (R355): the entry's 16 bytes by class and page number. -/
structure TlbEntry where
  unit : Nat                       -- core index, or 1000 + die for an L2 TLB
  asid : Nat
  page : Nat                       -- the 64 KiB page whose walk gave the entry
  sc : Nat
  vpn : Nat
  entry : BitVec 128
  deriving DecidableEq, Repr

/-- A leaf-pointer cache entry (R189): the leaf's address, or its absence with the node that supplies the value, by address and
level; none where the root table has no entry. -/
structure LeafCache where
  core : Nat
  asid : Nat
  root : DWord
  x : Word
  y : Word
  z : Word
  leaf : Option DWord
  anc : Option (DWord × Nat) := none
  deriving DecidableEq, Repr

/-- Who waits at a monitor entry (R227, R293, R382). -/
inductive Waiter where
  | thread (gid tid : Nat)
  | queue (q : Nat)
  | fcons (asid : Nat)
  deriving DecidableEq, Repr

/-- A monitor entry (R227-R229, R299-R301). -/
structure Monitor where
  id : Nat
  asid : Nat
  die : Nat
  slice : Nat
  pa : Nat
  va : DWord
  wide : Bool
  cmp : Nat
  opnd : DWord
  timeout : Nat
  due : Nat := 0                   -- 0 for none
  who : Waiter
  dst : Nat := 0
  shadow : Bool := false           -- the bank selected at issue (R147)
  queued : Bool := false           -- it has arrived at the home slice (R289)
  inserted : Bool := false
  spilled : Bool := false
  slot : Nat := 0                  -- its place in the context's spill area
  deriving DecidableEq, Repr

/-- A side-log entry (R376). -/
structure SideEntry where
  id : Nat
  acc : Acc
  held : Bool := false             -- held under a fault record
  deriving DecidableEq, Repr

/-- A matrix command (R159-R175). -/
structure Mx where
  id : Nat
  core : Nat
  gid : Nat
  asid : Nat
  fn : Nat                         -- 0 MLOOP, 1 MDRAIN, 2 MZERO
  oct : List Word
  pc : DWord := 0                  -- packet of the word that made it
  out : Option Tensor := none
  tids : List Nat
  tiles : List Nat := []           -- the tiles it names
  poisoned : Bool := false         -- a poisoned uniform register (R384)
  spoil : Bool := false            -- a drain that failed with DATA: its output is being written poisoned (R175)
  started : Bool := false
  it : Nat := 0                    -- iterations or elements carried out
  peak : Option Nat := none        -- largest magnitude that a drain has written (R171)
  waitRing : Bool := false
  flags : Flags := 0
  fail : Nat := 0
  finished : Bool := false         -- carried out, completion to be reported
  heldFault : Bool := false
  gw : Nat := 0
  deriving DecidableEq, Repr

/-- A completed matrix command whose flags have not merged into a thread (R173). -/
structure MxDone where
  gid : Nat
  tid : Nat
  flags : Flags
  deriving DecidableEq, Repr

/-- A copy, gather, scatter or tensor-identifier command (R261-R267), from a thread or a queue. -/
structure Copy where
  id : Nat
  core : Nat                       -- issuing core; the cluster's engine carries it out
  gid : Option Nat
  asid : Nat
  fn : Nat                         -- 0 COPY, 1 COPY.TL, 2 COPY.LT, 3 GATHER, 4 SCATTER, 5 TIDSET, 6 TIDGET
  k : Nat
  oct : List Word
  pc : DWord := 0                  -- packet of the word that made it
  t1 : Option Tensor := none
  t2 : Option Tensor := none
  tile : Option Nat := none
  ringSeq : Option Word := none
  tids : List Nat := []
  queue : Option (Nat × Nat) := none   -- queue and record index
  late : Bool := false             -- a RELEASE started after its time (R311)
  poisoned : Bool := false
  fail : Nat := 0
  moved : Bool := false            -- the data has been moved; the report waits for the GWCT
  told : Bool := false             -- arrival counts and failure are reported; the completion word is to come
  gw : Nat := 0
  heldFault : Bool := false
  deriving DecidableEq, Repr

/-- A TFREE or TFLUSH in progress (R244, R246). -/
structure TileOp where
  id : Nat
  gid : Nat
  tid : Nat
  tile : Nat
  dst : Nat
  shadow : Bool
  free : Bool
  handle : Nat
  wrote : Bool := false
  status : Nat := 0
  gw : Nat := 0
  heldFault : Bool := false
  deriving DecidableEq, Repr

/-- A field word in flight (R190, R191): its result, once formed, and what the allocator engine needs. -/
structure FieldOp where
  id : Nat
  gid : Nat
  tid : Nat
  asid : Nat
  fn : Nat                         -- FN of FLD, or 16 + FN of HSH
  tree : Option TreeDesc := none
  x : Int := 0
  y : Int := 0
  z : Int := 0
  dst : Nat
  dcnt : Nat
  shadow : Bool
  cls : Nat
  result : Option (List Word) := none  -- none while the allocator engine has it
  gw : Nat := 0
  poison : Bool := false
  va : DWord := 0                  -- where the poison came from (R383)
  deriving DecidableEq, Repr

/-- A request at the allocator engine in arrival order (R198): a field word, or a leaf that a neighbour's
HALO has sent (R341). -/
inductive AllocReq where
  | word (op : Nat)
  | halo (arrival : Nat)
  deriving DecidableEq, Repr

/-- What another device sent over a Galgal Link (R209, R341): bytes for an address, or a leaf for the tree
whose descriptor lies there. -/
structure Arrival where
  id : Nat
  asid : Nat
  va : Nat
  data : List Byte
  origin : Option (Word × Word × Word) := none
  held : Bool := false
  deriving DecidableEq, Repr

/-- A COLL, HALO or STEP in progress (R339-R342), and for COLL what the members have sent. -/
structure LinkCmd where
  id : Nat
  gid : Option Nat
  tids : List Nat
  asid : Nat
  fn : Nat                         -- 0 COLL, 1 HALO, 2 STEP, 3 the reading of an exchange's entry for STEPWAIT
  oct : List Word
  pc : DWord := 0                  -- packet of the word that made it
  t1 : Option Tensor := none
  t2 : Option Tensor := none
  queue : Option (Nat × Nat) := none
  exch : Nat := 0
  fail : Nat := 0
  poisoned : Bool := false
  moved : Bool := false            -- its transfers are made; the report waits for the GWCT
  told : Bool := false             -- SELF is raised and reported; the completion word is to come
  entry : Nat := 0                 -- the access of a HALO that is held: 0 its destination table, k its k-th list entry
  skip : List Nat := []            -- those that the context reported as unresolvable (R339)
  heldFault : Bool := false
  flags : Flags := 0
  gw : Nat := 0
  deriving DecidableEq, Repr

/-- An exchange (R313). -/
structure Exch where
  n : Nat
  self : Word
  nn : Nat
  lead : Nat
  rlist : DWord
  rlen : Nat
  nbr : List Word
  rel : List (Nat × Nat × Bool) := []  -- release list: step, number, whether it is a node
  deriving DecidableEq, Repr

/-- A pre-emption of a context on a core (R315-R319). -/
structure Preempt where
  core : Nat
  due : Nat                        -- tick at which the deadline timer expires; 0 once it has
  auto : Bool := false             -- requested by the core's launcher
  deriving DecidableEq, Repr

/-- A context: the fields of its record and its tables (R347-R349, R32, R313). -/
structure Context where
  asid : Nat
  lease : Nat                      -- lease length in ns
  ptbits : Nat
  pcont : Bool
  trapen : Flags
  maxg : Nat
  ptbase : Nat
  eqbase : DWord
  eqlen : Nat
  fqlen : Nat
  fqbase : DWord
  spill : DWord
  thrlim : Nat
  dlt : Nat                        -- µs
  devpg : DWord
  exchp : DWord
  save : DWord
  savelen : Nat
  tids : List (Nat × Tensor) := []
  exch : List Exch := []
  preempts : List Preempt := []
  share : Nat := 0                 -- RTSHARE percent
  fprod : Nat := 0
  fheld : Nat := 0
  fovcnt : Nat := 0
  fconsSeen : Nat := 0             -- records consumed, as last acted on
  fconsRead : Nat := 0             -- FCONS as last read from host memory (R382)
  pollDue : Nat := 0               -- tick of the next reading
  retryDue : Nat := 0              -- tick of the next attempt to write held fault records (R418)
  eprod : Nat := 0
  edrop : Nat := 0
  ecount : Nat := 0
  deriving DecidableEq, Repr

/-- What a fault record holds at its source (R382, R404, R417). -/
inductive HeldItem where
  | thread (gid tid : Nat)
  | fill (gid tid tile row : Nat)
  | side (id : Nat)
  | copy (id : Nat)
  | mx (id : Nat)
  | tileOp (id : Nat)
  | alloc
  | sweep (asid : Nat) (root : DWord)
  | command (q : Nat)
  | cword (id : Nat)
  | node (graph n : Nat)
  | launchWord (id : Nat)
  | enq (gid tid : Nat)
  | groupEnd (gid : Nat)
  | save (gid : Nat)
  | restore (gid : Nat)
  | link (id : Nat)
  | arrival (id : Nat)
  | checkpoint (gid : Nat)
  deriving DecidableEq, Repr

/-- A fault record, posted or held (R382). -/
structure FaultRec where
  id : Nat
  asid : Nat
  va : DWord
  tsc : Nat
  src : Nat
  kind : Nat                       -- 1 not mapped, 2 permission, 3 malformed, 4 address, 5 alignment
  acc : Nat                        -- FACC
  seq : Nat := 0
  posted : Bool := false
  held : List HeldItem
  never : List HeldItem := []      -- held items that no response resolves (R255)
  deriving DecidableEq, Repr

/-- An error record (R389, R390). -/
structure ErrRec where
  id : Nat
  asid : Nat                       -- context whose queue it goes to; 0 the device log
  copyOf : Nat := 0                -- ASID field of a copy in the device log (R418)
  tsc : Nat
  src : Nat
  kind : Nat
  sev : Nat
  rep : Nat := 0
  addr : DWord := 0
  pc : DWord := 0
  grp : Nat := 0xFFFFFFFF
  tid : Nat := 0xFFFF
  tids : List Nat := []            -- the threads whose operation caused it, for ERRQ, where they are several
  code : Nat := 0
  synd : BitVec 128 := 0
  seq : Nat := 0
  accepted : Bool := false
  posted : Bool := false           -- its queue holds it: the newest there, or a sentinel record of its millisecond (R390, R393)
  idx : Nat := 0                   -- EPROD at its posting
  gid : Option Nat := none         -- the group whose operation caused it, for ERRQ
  deriving DecidableEq, Repr

/-- A trap message (R379), with the group it comes from. -/
structure TrapMsg where
  pc : PC
  kind : Nat
  code : Nat
  core : Nat                       -- core index
  tid : Nat
  asid : Nat
  grp : Nat
  aval : Word
  tsc : Nat
  gid : Nat
  va : DWord := 0
  reason : Nat := 0                -- why a tandem trap was taken, for its record (R389); no byte of the message
  parity : Bool := false           -- the poisoning came from a parity error (R385); no byte of the message
  reserved : Bool := false         -- takes one of the core's reserved slots
  deriving DecidableEq, Repr

/-- A cluster's mailbox and the messages that wait for a slot (R378). -/
structure Mailbox where
  die : Nat
  cluster : Nat
  slots : List TrapMsg := []
  pending : List TrapMsg := []
  deriving DecidableEq, Repr

/-- A command of a queue that has been started (R293). -/
structure CmdRec where
  n : Nat                          -- its number in the queue
  op : Nat
  cw : DWord := 0
  msix : Option Nat := none
  port : Nat := 1
  dispatched : Bool := false
  complete : Bool := false
  deriving DecidableEq, Repr

/-- What a command has read so far (R325, R417): address, size, and the bytes with whether they are poisoned; none where the page was
answered as unresolvable. -/
abbrev Kept := List (Nat × Nat × Option (List Byte × Bool))

/-- A hardware queue (R293, R360-R362). -/
structure Queue where
  q : Nat
  asid : Nat
  base : DWord
  logn : Nat
  prio : Nat
  tag : Nat
  head : Nat := 0
  tail : Nat := 0
  stopped : Bool := false
  misses : Nat := 0
  refetch : Option Nat := none     -- tick of the next fetch after a mismatch
  port : Nat := 1
  record : Option (List Byte) := none -- the record that is acted on
  count : Nat := 0
  cmds : List CmdRec := []
  release : Option Nat := none     -- a started RELEASE waits for this tick
  heldFault : Bool := false
  dead : List Nat := []            -- 64 KiB pages answered as unresolvable for the command (R417)
  kept : Kept := []
  deriving DecidableEq, Repr

/-- A completion or result word that could not yet be written (R417), and the command that it completes. -/
structure CWrite where
  id : Nat
  asid : Nat
  q : Nat
  cmd : Option Nat
  va : Nat
  value : Nat
  result : Bool := false           -- the result word of RESULT (R337)
  sid : Nat := 0                   -- the span whose completion it is ordered before (R231)
  held : Bool := true
  deriving DecidableEq, Repr

/-- A LAUNCH word that the command processor has still to start (R338). -/
structure LaunchReq where
  id : Nat
  asid : Nat
  q : Nat
  desc : Nat
  bad : Bool := false              -- a nonzero zero field of its octet
  held : Bool := false
  waits : Option DWord := none     -- the tree whose sweep it waits for (R200)
  dead : List Nat := []
  kept : Kept := []
  deriving DecidableEq, Repr

/-- A span's place in a graph: its node, the node whose successors follow it (R310), and the records that
it consumes, as edge, slot and block. -/
structure NodeRun where
  graph : Nat
  node : Nat
  succ : Nat
  recs : List (Nat × Nat × Nat) := []
  deriving DecidableEq, Repr

/-- Where a span's groups go (R29, R303): the next group of each entry of a core list, or a list of
leaf groups (core, group number, leaf). -/
inductive Deal where
  | rect (cores next : List Nat)
  | leaves (items : List (Nat × Nat × LeafInfo))
  deriving DecidableEq, Repr

/-- A span (R28-R30, R325). -/
structure Span where
  sid : Nat
  asid : Nat
  q : Nat
  tag : Nat
  cmd : Option Nat := none         -- command number in the queue
  prio : Nat
  x0 : Nat
  y0 : Nat
  w : Nat
  h : Nat
  n : Nat
  gsz : Nat
  alloc : Nat
  cbase : DWord
  entry : Nat
  bars : Bool
  tiles : List (Word × Word)
  args : List Word
  argBad : List Nat := []          -- words of the argument block that are poisoned
  cw : DWord
  deal : Deal
  tick : Nat
  after : Nat := 0                 -- its groups start once the writes of their block headers have passed this GWCT (R231, R331)
  tree : Option TreeDesc := none
  node : Option NodeRun := none
  selector : Option Word := none   -- the selector recorded last (R309)
  ended : Nat := 0
  endedGroups : List Nat := []     -- for BAR.S (R124)
  preempted : Bool := false
  terminated : Bool := false
  gw : Nat := 0
  killed : List Nat := []          -- groups that were ended with it (R319): its completion waits for their accesses (R231)
  deriving DecidableEq, Repr

/-- A thread of a saved group whose monitor wait has ended (R301). -/
structure Woken where
  tid : Nat
  status : Nat
  dst : Nat
  shadow : Bool
  times : Nat × Nat                -- LWCT and GWCT of the satisfying write
  deriving DecidableEq, Repr

/-- A group saved on the spot (R317): its record, its tiles and where its image lies. -/
structure Saved where
  gid : Nat
  asid : Nat
  sid : Nat
  grp : Nat
  core : Nat
  image : DWord
  size : Nat
  tick : Nat
  gsz : Nat
  alloc : Nat
  tslots : List Nat := []          -- save slots of its threads within the context (R299)
  need0 : Nat := 0                 -- bytes of tile store and of saddle slice that it needs
  need1 : Nat := 0
  runnable : Bool
  woken : List Woken := []         -- threads woken since (R301)
  atEnq : List Nat := []           -- edges at which its threads wait (R308)
  atStep : List Nat := []          -- exchanges at which its threads wait (R369)
  roots : List DWord := []         -- trees that its slots bind (R192)
  leaf : Option LeafInfo := none
  grants : List (Nat × List (Nat × List Word × Option DWord)) := []  -- what the held chains of its threads had been granted
  marks : List (Nat × BitVec 8 × List Skid) := []  -- poison of its threads' predicates, and their poisonings (R383)
  umarks : List (Nat × DWord) × BitVec 64 := ([], 0)  -- the same of its uniform registers: addresses, traps taken
  uids : List (Nat × Nat) := []    -- handles and the names of their tiles
  rels : List (Nat × List Word × List Word) := []  -- sequences of its rings released out of order
  res : List (Nat × Reservation) := []  -- reservations of its threads
  held : Bool := false             -- its restoration is held under a fault
  complete : Bool := false         -- completed by MIGOUT (R368)
  deriving DecidableEq, Repr

/-- A node of a work graph (R329). -/
structure GNode where
  n : Nat
  kind : Nat
  inedge : Nat
  nbranch : Nat
  fallback : Nat
  nb : Nat
  ldesc : DWord
  deadline : Nat
  margin : Nat
  timer : Nat
  branch : List Nat
  live : Nat := 0                  -- spans of the node that run
  ready : List (Nat × Nat × List (Nat × Nat × Nat)) := []  -- dispatches due: tick, the node whose successors follow, records
  ran : Bool := false
  hold : Bool := false             -- its dispatch is held under a fault
  dead : List Nat := []
  kept : Kept := []
  linked : Nat := 0                -- block headers that the held dispatch has written (R331)
  lgw : Nat := 0                   -- their last GWCT
  lastEnd : Nat := 0               -- tick at which a span of it ended last, or its fallback was taken
  deriving DecidableEq, Repr

/-- An edge of a work graph (R304, R328). -/
structure GEdge where
  n : Nat
  slots : Nat
  prod : Nat
  cons : Nat
  used : List Nat := []            -- slots taken
  committed : List (Nat × Nat × Nat) := []  -- committed records not dispatched: slot, block, tick, in commit order
  deriving DecidableEq, Repr

/-- A running graph (R327, R332). -/
structure Graph where
  id : Nat
  asid : Nat
  q : Nat
  cmd : Option Nat
  tag : Nat                        -- sequence tag of its GRAPH command
  prio : Nat
  nodes : List GNode
  edges : List GEdge
  rsize : Nat
  back : DWord
  rcount : Nat
  usedBlocks : List Nat := []
  cw : DWord
  failAt : Option (Nat × Nat × Nat) := none  -- tick, node, value of the earliest failure
  deriving DecidableEq, Repr

/-- An entry of a tandem compare buffer (R398). -/
structure CEntry where
  tid : Nat
  k : Nat
  sig : List Nat                   -- kind, address, size, data, scope
  value : Option (List Word × Bool) := none  -- the result, once it is there, and whether it is poisoned
  acc : Option Acc := none         -- the access held until the match (R398)
  aid : Nat := 0                   -- the access or field word of the leader
  released : Bool := false
  made : Nat
  pc : DWord := 0
  faulted : Bool := false
  deriving DecidableEq, Repr

/-- A trap that the runtime has finished for the leader, until the trailer reaches it (R402). -/
structure TandemTrap where
  tid : Nat
  kind : Nat
  code : Nat
  aval : Word
  pc : PC
  k : Nat                          -- accesses counted at the trap
  sync : Nat                       -- barriers and lane exchanges passed before it
  deriving DecidableEq, Repr

/-- What a checkpoint keeps of a thread beside its image: its marks (R383), what its held chain has been granted, and the trap at which
it stood, with the message that it had sent (R399). -/
structure TandemMark where
  gid : Nat
  tid : Nat
  preds : BitVec 8
  skids : List Skid
  grants : List (Nat × List Word × Option DWord)
  sync : Nat
  trapAt : Option (Nat × Nat × Word)
  msg : Option TrapMsg
  deriving DecidableEq, Repr

/-- A tandem group (R396-R406). -/
structure Tandem where
  leader : Nat
  trailer : Nat
  entries : List CEntry := []
  retry : Nat := 0
  ckptL : DWord := 0               -- image of the leader in the save area
  ckptT : DWord := 0
  ckptSize : Nat := 0
  flipsDone : List (Nat × Nat) := []  -- thread, FLIPLEADs performed since the checkpoint (R406)
  msgs : List TandemTrap := []     -- traps finished for the leader that the trailer has still to reach (R402)
  marks : List TandemMark := []    -- what the checkpoint keeps beside the images
  msgs0 : List TandemTrap := []    -- the finished traps that the trailer had still to reach at the checkpoint
  due : Bool := false              -- a checkpoint is being taken (R401)
  held : Bool := false             -- it is held under a fault
  deriving DecidableEq, Repr

/-- A line on a die link (R281, R282). -/
structure WireLine where
  msg : Nat
  header : BitVec 128              -- its header flit
  payload : List Byte
  line : Nat
  clear : LineData                 -- what the sender keeps for a replay (R284)
  again : Bool := false            -- the first of the lines sent again after a reset: it makes no insertions (R284)
  deriving DecidableEq, Repr

/-- One direction of a die link (R280-R285). -/
structure Link where
  src : Nat
  dst : Nat
  sdict : List DWord
  rdict : List DWord
  snext : Nat := 0
  rnext : Nat := 0
  lines : List WireLine := []
  order : List Nat := []           -- messages on the link in the order sent, with data or without (R280)
  discarding : Bool := false
  replay : Bool := false           -- a replay request is on its way
  resetNext : Bool := false        -- the next line carries RESET = 1 (R285)
  rawNext : Bool := false          -- and is a line sent again, uncompressed (R284)
  deriving DecidableEq, Repr

/-- What each compute die holds beside its lines (R271, R286, R372, R393). -/
structure Die where
  d : Nat
  enabled : Bool := false
  flc : Nat := 0                   -- far-line cache, GiB
  counters : List (Nat × Nat) := []   -- counter number, value modulo 2^64
  sentinels : Nat := 0             -- events in the millisecond that began at sentMs
  sentMs : Nat := 0
  vstep : Nat := 0
  vsince : Nat := 0                -- tick of the last change or of the last millisecond over the limit
  deriving DecidableEq, Repr

/-- What each core holds (R18, R158, R393). Cores not listed are as at reset. -/
structure Core where
  id : Nat
  rein : Option Nat := none
  reinQ : List Nat := []
  ports : List Nat := [3, 3, 3]    -- quarter served last at MEM, FLD, ENG
  sfu : List Nat := [0, 0, 0, 0]   -- the cycle from which each quarter's SFU pipe is free (R16)
  passed : List Nat := [0, 0, 0, 0] -- cycles in a row in which a port has passed each quarter's first choice over (R296)
  sentMs : Option Nat := none
  deriving DecidableEq, Repr

/-- A management operation in progress (R359). -/
structure Mgmt where
  port : Nat
  op : Nat
  status : Nat := 0
  overrun : Bool := false
  margs : List DWord
  asid : Nat := 0                  -- context of a TLBINV that waits
  before : Nat := 0                -- accesses made before this name used the old entries; 0 for no wait
  deriving DecidableEq, Repr

/-- The host-visible register space (R357-R360, R365). -/
structure HostRegs where
  sem : List (Nat × Nat) := []     -- held semaphores: number, holder
  margs : List DWord := [0, 0, 0, 0, 0, 0]
  mop : DWord := 0
  mstat : DWord := 0
  timesrc : DWord := 0
  tscoff : DWord := 0
  locked : Bool := false
  other : List (Nat × DWord) := [] -- registers with no behaviour of their own
  windows : List (Nat × Nat) := [] -- port, BAR2 window base
  raised : List (Nat × Nat) := []  -- MSI-X vectors raised: port, vector
  lastRead : DWord := 0            -- what the last host read returned
  lastData : List Byte := []       -- what the last BAR2 read returned
  mgmt : Option Mgmt := none
  semRead : Bool := false          -- a host port has read semaphore 0 (R371)
  deriving DecidableEq, Repr

/-- The discipline of the TSC (R365). -/
structure Discipline where
  drift : Option Int := none       -- ticks by which the TSC lies past its source, once they have been compared
  passed : Nat := 0                -- ticks since the last that the slew added or left out
  deriving DecidableEq, Repr

/-- Boot, identity and power (R370-R372). -/
structure Boot where
  stage : Nat := 0                 -- 0 before bring-up; 6 when BAR0 answers (R371)
  measure : List (BitVec 256) := [0, 0, 0, 0]
  minVersion : Nat := 0            -- the fused counter
  rejected : Bool := false
  retryLimit : Nat := 2
  plim : Nat := 2600
  clock : Nat := 2400              -- arithmetic clock, MHz
  hot : Bool := false              -- clock held at 1.2 GHz
  deriving DecidableEq, Repr

/-- Where the command processor stands (R294). -/
structure CmdProc where
  last : List (Nat × Nat) := []    -- priority, queue served last
  deriving DecidableEq, Repr

/-- The contributions of a pack to one element of a gradient table (R207, R208). -/
structure PackSum where
  va : Nat
  wide : Bool                      -- a 64-bit integer add
  value : Nat
  tid : Nat                        -- the pack's lowest contributing thread
  flags : Flags := 0               -- flags of the combining sums
  poison : Bool := false
  deriving DecidableEq, Repr

/-- The issue of a chain (R26, R39): the pack, its threads still to run, where the chain stands, and
what the words of the chain share. -/
structure Issue where
  gid : Nat := 0
  pack : List Nat := []
  tids : List Nat := []
  pc0 : PC := {}
  next : PC := {}
  slot : Nat := 0
  alone : Bool := true             -- the chain is one word
  first : Bool := true             -- this word is the first of its chain to act
  last : Bool := true              -- this word is the last of its chain
  snap : List Thread := []         -- the threads before the chain; empty for a chain of one word
  usnap : Option (Vector Word 64 × BitVec 64) := none  -- the uniform registers before the cycle, and their poison (R24)
  cmd : Option Nat := none         -- the command this pack's engine word gave rise to
  usetDone : Bool := false
  sums : List PackSum := []        -- what HGRAD or HGRADD of the pack adds
  bound : Option (Nat × Bool × DWord) := none -- status of the binding that this pack's VBIND or HBIND made (R192), and its poison (R203)
  stops : List (Nat × Nat × Stop) := []  -- threads whose chain does not take effect, the slot, and why (R41)
  dropD : Bool := false            -- a higher slot of the chain writes ACCEPT's register too (R153)
  deriving DecidableEq, Repr

/-- An error in an array of the device, by what it strikes (R392). `bad` tells one that the array's code cannot correct
from one that it corrects. -/
inductive Upset where
  | reg (gid tid n : Nat)
  | shadowReg (gid tid n : Nat)
  | pred (gid tid n : Nat)
  | ureg (gid n : Nat)
  | icache (gid tid : Nat)
  | l1Line (core line : Nat) (reader : Option Nat) (bad : Bool)
  | tlb (unit asid page : Nat)
  | leafCache (core k : Nat)
  | tileWord (uid word : Nat) (bad : Bool)
  | l2Line (die line : Nat) (reader : Option Nat) (bad : Bool)
  | l2Tag (die line : Nat) (bad : Bool)
  | directory (line : Nat) (bad : Bool)
  | monitorTable (die slice : Nat) (bad : Bool)
  | sideLog (id : Nat) (bad : Bool)
  | compareBuffer (gid tid k : Nat) (bad : Bool)
  | mailbox (die cluster : Nat) (bad : Bool)
  | matrixBuffer (id : Nat) (bad : Bool)
  | copyBuffer (id : Nat) (bad : Bool)
  | linkBuffer (id : Nat) (bad : Bool)
  | fieldBuffer (id : Nat) (bad : Bool)
  | hbmLine (line : Nat) (reader : Option Nat) (bad : Bool)
  | galgal (flit : Nat)
  deriving DecidableEq, Repr

/-- A tree in which the allocator engine has marked leaves for removal (R200). -/
structure Marked where
  asid : Nat
  tree : TreeDesc
  held : Bool := false             -- its sweep is held under a fault
  swept : Bool := false            -- its sweep has written; it ends past its GWCT (R200, R217)
  gw : Nat := 0
  deriving DecidableEq, Repr

/-- What moves next, as plain data (log 4): an event, a cycle in which every quarter issues what it can, one in which
a single quarter issues, the passing of time, an error in one of the device's arrays (R392), or the eviction of a line from a
die's L2 (R271). -/
inductive Move where
  | event (i : Instr)
  | cycle
  | issue (core quarter : Nat)
  | wait (ticks : Nat)
  | upset (u : Upset)
  | evict (die line : Nat)
  deriving DecidableEq, Repr

/-- The state of the device. -/
structure State where
  tsc : Nat
  frac : Nat                       -- part of a tick, in units of 1 / clock
  cycle : Nat
  agenda : List Move
  issue : Issue
  nextId : Nat
  mem : List Host.Cell
  hostMem : List Host.Cell
  fused : List Nat                 -- core indexes that are not present (R15)
  contexts : List Context
  spans : List Span
  groups : List Group
  saved : List Saved
  tiles : List Tile
  oldWords : List (Nat × Word)     -- words that tiles which are gone held, by context (R350)
  cores : List Core
  dies : List Die
  lines : List (Nat × DieLine)     -- die, line
  dirs : List Dir
  l1 : List L1Line
  horizons : List Horizon
  wtimes : List (Nat × Nat × Nat)  -- lines whose last writes may not be complete: line, LWCT, GWCT (R217)
  tlb : List TlbEntry
  leafCache : List LeafCache
  net : List Msg
  links : List Link
  accs : List Acc
  owed : List Owed                 -- completion times not yet passed
  sideLog : List SideEntry
  futures : List Nat               -- physical addresses of full future cells
  poisonLines : List Nat           -- device lines, and lines of host memory by host cell address / 128
  writers : List (Nat × Nat)       -- line, ASID of its last writer (R395)
  monitors : List Monitor
  mxs : List Mx
  mxDone : List MxDone
  copies : List Copy
  tileOps : List TileOp
  fieldOps : List FieldOp
  allocQ : List AllocReq
  allocHeld : Bool
  marked : List Marked
  linkCmds : List LinkCmd
  arrivals : List Arrival
  cwrites : List CWrite
  launches : List LaunchReq
  faults : List FaultRec
  lost : List HeldItem             -- commands of terminated groups that were held under a fault: they fail (R380)
  away : List HeldItem             -- what waits for a reset die, whose lines are unavailable (R279)
  errors : List ErrRec
  deviceLog : List ErrRec
  logCount : Nat
  mailboxes : List Mailbox
  queues : List Queue
  proc : CmdProc
  graphs : List Graph
  tandems : List Tandem
  host : HostRegs
  disc : Discipline
  boot : Boot
  deriving DecidableEq, Repr

/-- The seed table of R283. -/
def seedTable : List DWord :=
  0xFFFFFFFFFFFFFFFF#64 :: (List.range 127).map fun i => BitVec.ofNat 64 ((i + 1) * 0x0101010101010101)

/-- The eight directions of the die links (R280). -/
def linkEnds : List (Nat × Nat) := [(1, 2), (2, 1), (1, 3), (3, 1), (2, 4), (4, 2), (3, 4), (4, 3)]

/-- The device right after reset, before bring-up (R371): no context, no command, no thread; every
link dictionary at its seed (R283), every semaphore free (R371), the firmware configuration at its
defaults (R372, R400), memory with nothing written. What the manual gives no reset value for is named
in log 10. DESIGN CHOICE (log 10). DESIGN CHOICE (log 11). DESIGN CHOICE (log 12). -/
def State.reset : State where
  tsc := 0
  frac := 0
  cycle := 0
  agenda := []
  issue := {}
  nextId := 1
  mem := []
  hostMem := []
  fused := []
  contexts := []
  spans := []
  groups := []
  saved := []
  tiles := []
  oldWords := []
  cores := []
  dies := [{ d := 1 }, { d := 2 }, { d := 3 }, { d := 4 }]
  lines := []
  dirs := []
  l1 := []
  horizons := []
  wtimes := []
  tlb := []
  leafCache := []
  net := []
  links := linkEnds.map fun p => { src := p.1, dst := p.2, sdict := seedTable, rdict := seedTable }
  accs := []
  owed := []
  sideLog := []
  futures := []
  poisonLines := []
  writers := []
  monitors := []
  mxs := []
  mxDone := []
  copies := []
  tileOps := []
  fieldOps := []
  allocQ := []
  allocHeld := false
  marked := []
  linkCmds := []
  arrivals := []
  cwrites := []
  launches := []
  faults := []
  lost := []
  away := []
  errors := []
  deviceLog := []
  logCount := 0
  mailboxes := []
  queues := []
  proc := {}
  graphs := []
  tandems := []
  host := {}
  disc := {}
  boot := {}

end Sys2Proof.Machine
end

