-- ==== Sys2Proof/Machine/Operands.lean ====
section
/-! DEFINITION. The register operands of every word (R43, R48-R68): the groups it reads and writes,
and how a group is read and written (R5, R44). -/

namespace Sys2Proof.Machine

/-- The operands of a word: register groups as first register and count, predicates, and uniform
registers. A destination that is written on completion stands in `dst` too (R45). -/
structure Opnds where
  src : List (Nat × Nat) := []
  dst : List (Nat × Nat) := []
  psrc : List Nat := []
  pdst : List Nat := []
  usrc : List (Nat × Nat) := []
  udst : List (Nat × Nat) := []
  bank : Bool := false      -- names w48-w63 (R148)
  deriving DecidableEq, Repr

/-- Registers of the destination of CVT kind k (R56). -/
def cvtDst (k : Nat) : Nat := if k ∈ [1, 14, 15, 16, 17, 18, 19, 20, 21, 25] then 2 else 1

/-- Registers of the source of CVT kind k (R56). -/
def cvtSrc (k : Nat) : Nat := if k ∈ [0, 6, 7, 12, 13, 16, 17, 18, 19, 22, 23, 24] then 2 else 1

/-- CVT kinds whose rounding code and saturate bit must be zero (R56). -/
def cvtExact (k : Nat) : Bool := decide (k ∈ [1, 3, 5, 14, 15, 25, 26, 27])

/-- Inexact integer-to-FP kinds of CVT, whose saturate bit must be zero (R139). -/
def cvtFromInt (k : Nat) : Bool := decide (k ∈ [10, 11, 18, 19, 22, 23])

/-- Registers of the data of an access of size code z (R60). -/
def accessRegs (z : Nat) : Nat := if z ≤ 4 then 1 else 2 ^ (z - 4)

/-- Registers of the operand of an atomic operation (R62). -/
def atomRegs (o : Nat) : Nat := if o < 16 then 1 else 2

/-- The operands of every word. A step of another agent has none. -/
def opnds : Instr → Opnds
  | .nop => {}
  | .exit => {}
  | .trap a _ => { src := [(a.toNat, 1)] }
  | .brk _ => {}
  | .yield => {}
  | .setrm _ => {}
  | .getflg d => { dst := [(d.toNat, 1)] }
  | .clrflg _ => {}
  | .iadd _ d a b w => { src := [(a.toNat, 2 ^ w.toNat), (b.toNat, 2 ^ w.toNat)], dst := [(d.toNat, 2 ^ w.toNat)] }
  | .isub _ d a b w => { src := [(a.toNat, 2 ^ w.toNat), (b.toNat, 2 ^ w.toNat)], dst := [(d.toNat, 2 ^ w.toNat)] }
  | .imin _ d a b => { src := [(a.toNat, 1), (b.toNat, 1)], dst := [(d.toNat, 1)] }
  | .imax _ d a b => { src := [(a.toNat, 1), (b.toNat, 1)], dst := [(d.toNat, 1)] }
  | .iminu _ d a b => { src := [(a.toNat, 1), (b.toNat, 1)], dst := [(d.toNat, 1)] }
  | .imaxu _ d a b => { src := [(a.toNat, 1), (b.toNat, 1)], dst := [(d.toNat, 1)] }
  | .and _ d a b w => { src := [(a.toNat, 2 ^ w.toNat), (b.toNat, 2 ^ w.toNat)], dst := [(d.toNat, 2 ^ w.toNat)] }
  | .or _ d a b w => { src := [(a.toNat, 2 ^ w.toNat), (b.toNat, 2 ^ w.toNat)], dst := [(d.toNat, 2 ^ w.toNat)] }
  | .xor _ d a b w => { src := [(a.toNat, 2 ^ w.toNat), (b.toNat, 2 ^ w.toNat)], dst := [(d.toNat, 2 ^ w.toNat)] }
  | .andn _ d a b => { src := [(a.toNat, 1), (b.toNat, 1)], dst := [(d.toNat, 1)] }
  | .shl _ d a b w => { src := [(a.toNat, 2 ^ w.toNat), (b.toNat, 2 ^ w.toNat)], dst := [(d.toNat, 2 ^ w.toNat)] }
  | .shr _ d a b w => { src := [(a.toNat, 2 ^ w.toNat), (b.toNat, 2 ^ w.toNat)], dst := [(d.toNat, 2 ^ w.toNat)] }
  | .sar _ d a b w => { src := [(a.toNat, 2 ^ w.toNat), (b.toNat, 2 ^ w.toNat)], dst := [(d.toNat, 2 ^ w.toNat)] }
  | .rotl _ d a b => { src := [(a.toNat, 1), (b.toNat, 1)], dst := [(d.toNat, 1)] }
  | .imullo _ d a b w => { src := [(a.toNat, 2 ^ w.toNat), (b.toNat, 2 ^ w.toNat)], dst := [(d.toNat, 2 ^ w.toNat)] }
  | .imulhi _ d a b => { src := [(a.toNat, 1), (b.toNat, 1)], dst := [(d.toNat, 1)] }
  | .imulhiu _ d a b => { src := [(a.toNat, 1), (b.toNat, 1)], dst := [(d.toNat, 1)] }
  | .popc _ d a => { src := [(a.toNat, 1)], dst := [(d.toNat, 1)] }
  | .clz _ d a => { src := [(a.toNat, 1)], dst := [(d.toNat, 1)] }
  | .brev _ d a => { src := [(a.toNat, 1)], dst := [(d.toNat, 1)] }
  | .iabs _ d a => { src := [(a.toNat, 1)], dst := [(d.toNat, 1)] }
  | .bpick _ d a b => { src := [(a.toNat, 1), (b.toNat, 1)], dst := [(d.toNat, 1)] }
  | .iaddsat _ d a b => { src := [(a.toNat, 1), (b.toNat, 1)], dst := [(d.toNat, 1)] }
  | .isubsat _ d a b => { src := [(a.toNat, 1), (b.toNat, 1)], dst := [(d.toNat, 1)] }
  | .iaddi _ d a _ => { src := [(a.toNat, 1)], dst := [(d.toNat, 1)] }
  | .andi _ d a _ => { src := [(a.toNat, 1)], dst := [(d.toNat, 1)] }
  | .ori _ d a _ => { src := [(a.toNat, 1)], dst := [(d.toNat, 1)] }
  | .xori _ d a _ => { src := [(a.toNat, 1)], dst := [(d.toNat, 1)] }
  | .shiShl _ d a _ => { src := [(a.toNat, 1)], dst := [(d.toNat, 1)] }
  | .shiShr _ d a _ => { src := [(a.toNat, 1)], dst := [(d.toNat, 1)] }
  | .shiSar _ d a _ => { src := [(a.toNat, 1)], dst := [(d.toNat, 1)] }
  | .shiRotl _ d a _ => { src := [(a.toNat, 1)], dst := [(d.toNat, 1)] }
  | .bitfBfx _ d a _ _ => { src := [(a.toNat, 1)], dst := [(d.toNat, 1)] }
  | .bitfBfxs _ d a _ _ => { src := [(a.toNat, 1)], dst := [(d.toNat, 1)] }
  | .bitfBfi _ d a _ _ => { src := [(a.toNat, 1), (d.toNat, 1)], dst := [(d.toNat, 1)] }
  | .li _ d _ => { dst := [(d.toNat, 1)] }
  | .lih _ d _ => { src := [(d.toNat, 1)], dst := [(d.toNat, 1)] }
  | .imad _ d a b e => { src := [(a.toNat, 1), (b.toNat, 1), (e.toNat, 1)], dst := [(d.toNat, 1)] }
  | .imadW _ d a b e => { src := [(a.toNat, 1), (b.toNat, 1), (e.toNat, 2)], dst := [(d.toNat, 2)] }
  | .icmp _ p a b w _ => { src := [(a.toNat, 2 ^ w.toNat), (b.toNat, 2 ^ w.toNat)], pdst := [p.toNat] }
  | .pand _ d a b => { psrc := [a.toNat, b.toNat], pdst := [d.toNat] }
  | .por _ d a b => { psrc := [a.toNat, b.toNat], pdst := [d.toNat] }
  | .pxor _ d a b => { psrc := [a.toNat, b.toNat], pdst := [d.toNat] }
  | .pnot _ d a => { psrc := [a.toNat], pdst := [d.toNat] }
  | .p2w _ d => { dst := [(d.toNat, 1)], psrc := [1, 2, 3, 4, 5, 6, 7] }
  | .w2p _ a => { src := [(a.toNat, 1)], pdst := [1, 2, 3, 4, 5, 6, 7] }
  | .sel _ d a b w _ p => { src := [(a.toNat, 2 ^ w.toNat), (b.toNat, 2 ^ w.toNat)], dst := [(d.toNat, 2 ^ w.toNat)], psrc := [p.toNat] }
  | .sysv _ d s => { dst := [(d.toNat, if s.toNat = 11 then 2 else 1)] }
  | .locq _ d a => { src := [(a.toNat, 2)], dst := [(d.toNat, 1)] }
  | .uget _ d a => { dst := [(d.toNat, 1)], usrc := [(a.toNat, 1)] }
  | .uset _ d a => { src := [(a.toNat, 1)], udst := [(d.toNat, 1)] }
  | .fadd _ d a b => { src := [(a.toNat, 1), (b.toNat, 1)], dst := [(d.toNat, 1)] }
  | .dadd _ d a b => { src := [(a.toNat, 2), (b.toNat, 2)], dst := [(d.toNat, 2)] }
  | .fsub _ d a b => { src := [(a.toNat, 1), (b.toNat, 1)], dst := [(d.toNat, 1)] }
  | .dsub _ d a b => { src := [(a.toNat, 2), (b.toNat, 2)], dst := [(d.toNat, 2)] }
  | .fmul _ d a b => { src := [(a.toNat, 1), (b.toNat, 1)], dst := [(d.toNat, 1)] }
  | .dmul _ d a b => { src := [(a.toNat, 2), (b.toNat, 2)], dst := [(d.toNat, 2)] }
  | .fmin _ d a b => { src := [(a.toNat, 1), (b.toNat, 1)], dst := [(d.toNat, 1)] }
  | .dmin _ d a b => { src := [(a.toNat, 2), (b.toNat, 2)], dst := [(d.toNat, 2)] }
  | .fmax _ d a b => { src := [(a.toNat, 1), (b.toNat, 1)], dst := [(d.toNat, 1)] }
  | .dmax _ d a b => { src := [(a.toNat, 2), (b.toNat, 2)], dst := [(d.toNat, 2)] }
  | .fminm _ d a b => { src := [(a.toNat, 1), (b.toNat, 1)], dst := [(d.toNat, 1)] }
  | .dminm _ d a b => { src := [(a.toNat, 2), (b.toNat, 2)], dst := [(d.toNat, 2)] }
  | .fmaxm _ d a b => { src := [(a.toNat, 1), (b.toNat, 1)], dst := [(d.toNat, 1)] }
  | .dmaxm _ d a b => { src := [(a.toNat, 2), (b.toNat, 2)], dst := [(d.toNat, 2)] }
  | .fabs _ d a => { src := [(a.toNat, 1)], dst := [(d.toNat, 1)] }
  | .dabs _ d a => { src := [(a.toNat, 2)], dst := [(d.toNat, 2)] }
  | .fneg _ d a => { src := [(a.toNat, 1)], dst := [(d.toNat, 1)] }
  | .dneg _ d a => { src := [(a.toNat, 2)], dst := [(d.toNat, 2)] }
  | .fcpys _ d a b => { src := [(a.toNat, 1), (b.toNat, 1)], dst := [(d.toNat, 1)] }
  | .dcpys _ d a b => { src := [(a.toNat, 2), (b.toNat, 2)], dst := [(d.toNat, 2)] }
  | .frnd _ d a _ => { src := [(a.toNat, 1)], dst := [(d.toNat, 1)] }
  | .drnd _ d a _ => { src := [(a.toNat, 2)], dst := [(d.toNat, 2)] }
  | .fclass _ d a => { src := [(a.toNat, 1)], dst := [(d.toNat, 1)] }
  | .dclass _ d a => { src := [(a.toNat, 2)], dst := [(d.toNat, 1)] }
  | .fscale _ d a b => { src := [(a.toNat, 1), (b.toNat, 1)], dst := [(d.toNat, 1)] }
  | .dscale _ d a b => { src := [(a.toNat, 2), (b.toNat, 2)], dst := [(d.toNat, 2)] }
  | .ffma _ d a b e => { src := [(a.toNat, 1), (b.toNat, 1), (e.toNat, 1)], dst := [(d.toNat, 1)] }
  | .dfma _ d a b e => { src := [(a.toNat, 2), (b.toNat, 2), (e.toNat, 2)], dst := [(d.toNat, 2)] }
  | .fcmp _ p a b _ => { src := [(a.toNat, 1), (b.toNat, 1)], pdst := [p.toNat] }
  | .dcmp _ p a b _ => { src := [(a.toNat, 2), (b.toNat, 2)], pdst := [p.toNat] }
  | .hadd2 _ d a b => { src := [(a.toNat, 1), (b.toNat, 1)], dst := [(d.toNat, 1)] }
  | .hsub2 _ d a b => { src := [(a.toNat, 1), (b.toNat, 1)], dst := [(d.toNat, 1)] }
  | .hmul2 _ d a b => { src := [(a.toNat, 1), (b.toNat, 1)], dst := [(d.toNat, 1)] }
  | .hmin2 _ d a b => { src := [(a.toNat, 1), (b.toNat, 1)], dst := [(d.toNat, 1)] }
  | .hmax2 _ d a b => { src := [(a.toNat, 1), (b.toNat, 1)], dst := [(d.toNat, 1)] }
  | .badd2 _ d a b => { src := [(a.toNat, 1), (b.toNat, 1)], dst := [(d.toNat, 1)] }
  | .bsub2 _ d a b => { src := [(a.toNat, 1), (b.toNat, 1)], dst := [(d.toNat, 1)] }
  | .bmul2 _ d a b => { src := [(a.toNat, 1), (b.toNat, 1)], dst := [(d.toNat, 1)] }
  | .bmin2 _ d a b => { src := [(a.toNat, 1), (b.toNat, 1)], dst := [(d.toNat, 1)] }
  | .bmax2 _ d a b => { src := [(a.toNat, 1), (b.toNat, 1)], dst := [(d.toNat, 1)] }
  | .hfma2 _ d a b e => { src := [(a.toNat, 1), (b.toNat, 1), (e.toNat, 1)], dst := [(d.toNat, 1)] }
  | .bfma2 _ d a b e => { src := [(a.toNat, 1), (b.toNat, 1), (e.toNat, 1)], dst := [(d.toNat, 1)] }
  | .cvt _ d a _ _ k => { src := [(a.toNat, cvtSrc k.toNat)], dst := [(d.toNat, cvtDst k.toNat)] }
  | .rcp _ d a w => { src := [(a.toNat, 2 ^ w.toNat)], dst := [(d.toNat, 2 ^ w.toNat)] }
  | .rsq _ d a => { src := [(a.toNat, 1)], dst := [(d.toNat, 1)] }
  | .sqrt _ d a w => { src := [(a.toNat, 2 ^ w.toNat)], dst := [(d.toNat, 2 ^ w.toNat)] }
  | .div _ d a b w => { src := [(a.toNat, 2 ^ w.toNat), (b.toNat, 2 ^ w.toNat)], dst := [(d.toNat, 2 ^ w.toNat)] }
  | .exp2 _ d a => { src := [(a.toNat, 1)], dst := [(d.toNat, 1)] }
  | .log2 _ d a => { src := [(a.toNat, 1)], dst := [(d.toNat, 1)] }
  | .sin _ d a => { src := [(a.toNat, 1)], dst := [(d.toNat, 1)] }
  | .cos _ d a => { src := [(a.toNat, 1)], dst := [(d.toNat, 1)] }
  | .sincos _ d a => { src := [(a.toNat, 1)], dst := [(d.toNat, 2)] }
  | .sinpi _ d a => { src := [(a.toNat, 1)], dst := [(d.toNat, 1)] }
  | .cospi _ d a => { src := [(a.toNat, 1)], dst := [(d.toNat, 1)] }
  | .tanh _ d a => { src := [(a.toNat, 1)], dst := [(d.toNat, 1)] }
  | .rand _ d => { dst := [(d.toNat, 1)] }
  | .randu _ d => { dst := [(d.toNat, 1)] }
  | .propose _ => { bank := true }
  | .accept _ d a => { src := [(a.toNat, 1)], dst := [(d.toNat, 1)], bank := true }
  | .discard _ => { bank := true }
  | .pseed _ a => { src := [(a.toNat, 2)] }
  | .pcnt _ d => { dst := [(d.toNat, 2)] }
  | .pcntClr _ d => { dst := [(d.toNat, 2)] }
  | .xchPair _ d a => { src := [(a.toNat, 1)], dst := [(d.toNat, 1)] }
  | .xchQx1 _ d a => { src := [(a.toNat, 1)], dst := [(d.toNat, 1)] }
  | .xchQx2 _ d a => { src := [(a.toNat, 1)], dst := [(d.toNat, 1)] }
  | .shfl _ d a b => { src := [(a.toNat, 1), (b.toNat, 1)], dst := [(d.toNat, 1)] }
  | .shflx _ d a b => { src := [(a.toNat, 1), (b.toNat, 1)], dst := [(d.toNat, 1)] }
  | .voteany _ d a => { src := [(a.toNat, 1)], dst := [(d.toNat, 1)] }
  | .voteall _ d a => { src := [(a.toNat, 1)], dst := [(d.toNat, 1)] }
  | .ballot _ d a => { src := [(a.toNat, 1)], dst := [(d.toNat, 1)] }
  | .redadd _ d a => { src := [(a.toNat, 1)], dst := [(d.toNat, 1)] }
  | .redmin _ d a => { src := [(a.toNat, 1)], dst := [(d.toNat, 1)] }
  | .redmax _ d a => { src := [(a.toNat, 1)], dst := [(d.toNat, 1)] }
  | .bra p _ _ => { psrc := [p.toNat] }
  | .call d _ => { dst := [(d.toNat, 2)] }
  | .jr a => { src := [(a.toNat, 2)] }
  | .jalr d a => { src := [(a.toNat, 2)], dst := [(d.toNat, 2)] }
  | .barG => {}
  | .barS _ _ => {}
  | .ld _ d a z _ _ => { src := [(a.toNat, 2)], dst := [(d.toNat, accessRegs z.toNat)] }
  | .st _ d a z _ _ => { src := [(a.toNat, 2), (d.toNat, accessRegs z.toNat)] }
  | .ldt _ d _ a b => { src := [(a.toNat, 1), (b.toNat, 1)], dst := [(d.toNat, 1)] }
  | .ldtWf _ d _ a b => { src := [(a.toNat, 1), (b.toNat, 1)], dst := [(d.toNat, 1)] }
  | .ldtWfe _ d _ a b => { src := [(a.toNat, 1), (b.toNat, 1)], dst := [(d.toNat, 1)] }
  | .stt _ d _ a b => { src := [(d.toNat, 1), (a.toNat, 1), (b.toNat, 1)] }
  | .sttWe _ d _ a b => { src := [(d.toNat, 1), (a.toNat, 1), (b.toNat, 1)] }
  | .sttRaw _ d _ a b => { src := [(d.toNat, 1), (a.toNat, 1), (b.toNat, 1)] }
  | .atom _ d a b _ o => { src := [(a.toNat, 2), (b.toNat, atomRegs o.toNat)], dst := [(d.toNat, atomRegs o.toNat)] }
  | .cas _ d a b _ z => { src := [(a.toNat, 2), (b.toNat, 2 * 2 ^ z.toNat)], dst := [(d.toNat, 2 ^ z.toNat)] }
  | .red _ a b _ o => { src := [(a.toNat, 2), (b.toNat, atomRegs o.toNat)] }
  | .fence _ _ _ _ => {}
  | .wait _ _ _ _ => {}
  | .waitu _ d a b _ z => { src := [(a.toNat, 2), (b.toNat, 2 * 2 ^ z.toNat)], dst := [(d.toNat, 1)] }
  | .ldFut _ d a b => { src := [(a.toNat, 2)], dst := [(d.toNat, 2), (b.toNat, 1)] }
  | .stFut _ a b => { src := [(a.toNat, 2), (b.toNat, 2)] }
  | .clrFut _ a => { src := [(a.toNat, 2)] }
  | .talloc _ d _ a => { src := [(a.toNat, 2)], dst := [(d.toNat, 1)] }
  | .tfree _ d _ => { dst := [(d.toNat, 1)] }
  | .tbind _ d _ a => { src := [(a.toNat, 4)], dst := [(d.toNat, 1)] }
  | .tflush _ d _ => { dst := [(d.toNat, 1)] }
  | .tring _ d _ a => { src := [(a.toNat, 1)], dst := [(d.toNat, 1)] }
  | .tsetfe _ d _ a => { src := [(a.toNat, 1)], dst := [(d.toNat, 1)] }
  | .tarrt _ d _ a => { src := [(a.toNat, 2)], dst := [(d.toNat, 1)] }
  | .waita _ d _ a => { src := [(a.toNat, 1)], dst := [(d.toNat, 1)] }
  | .tinfo _ d _ a => { src := [(a.toNat, 1)], dst := [(d.toNat, 4)] }
  | .racq _ d _ a => { src := [(a.toNat, 1)], dst := [(d.toNat, 2)] }
  | .rrel _ d _ a => { src := [(a.toNat, 2)], dst := [(d.toNat, 1)] }
  | .tidset _ s _ => { usrc := [(s.toNat, 8)] }
  | .tidget _ s _ => { usrc := [(s.toNat, 8)] }
  | .copy _ s _ _ => { usrc := [(s.toNat, 8)] }
  | .copyTl _ s _ => { usrc := [(s.toNat, 8)] }
  | .copyLt _ s _ => { usrc := [(s.toNat, 8)] }
  | .gather _ s _ _ => { usrc := [(s.toNat, 8)] }
  | .scatter _ s _ _ => { usrc := [(s.toNat, 8)] }
  | .mloop _ s => { usrc := [(s.toNat, 8)] }
  | .mdrain _ s _ => { usrc := [(s.toNat, 8)] }
  | .mzero _ s => { usrc := [(s.toNat, 8)] }
  | .take _ => {}
  | .pass _ => {}
  | .mwait _ => {}
  | .amax _ a b _ => { src := [(a.toNat, 2), (b.toNat, 1)] }
  | .amaxrs _ d a _ => { src := [(a.toNat, 2)], dst := [(d.toNat, 1)] }
  | .vbind _ d a _ => { src := [(a.toNat, 2)], dst := [(d.toNat, 1)] }
  | .vld _ d a _ => { src := [(a.toNat, 4)], dst := [(d.toNat, 4)] }
  | .vsten7 _ d a _ => { src := [(a.toNat, 4)], dst := [(d.toNat, 8)] }
  | .vsamp _ d a _ => { src := [(a.toNat, 4)], dst := [(d.toNat, 4)] }
  | .vray _ d a _ => { src := [(a.toNat, 8)], dst := [(d.toNat, 4)] }
  | .vleaf _ d _ => { dst := [(d.toNat, 4)] }
  | .vins _ d a _ => { src := [(a.toNat, 4)], dst := [(d.toNat, 2)] }
  | .vdel _ d a _ => { src := [(a.toNat, 4)], dst := [(d.toNat, 1)] }
  | .vactClr _ d a _ => { src := [(a.toNat, 4)], dst := [(d.toNat, 1)] }
  | .vactSet _ d a _ => { src := [(a.toNat, 4)], dst := [(d.toNat, 1)] }
  | .vst _ d a _ => { src := [(a.toNat, 8)], dst := [(d.toNat, 1)] }
  | .hbind _ d a _ => { src := [(a.toNat, 2)], dst := [(d.toNat, 1)] }
  | .hgrid _ d a _ _ => { src := [(a.toNat, 4)], dst := [(d.toNat, 8)] }
  | .hgrad _ d a _ _ => { src := [(d.toNat, 8), (a.toNat, 4)] }
  | .hgradd _ d a _ _ => { src := [(d.toNat, 8), (a.toNat, 4)] }
  | .enq _ s _ => { usrc := [(s.toNat, 8)] }
  | .commit _ s _ => { usrc := [(s.toNat, 8)] }
  | .result _ s => { usrc := [(s.toNat, 8)] }
  | .launch _ s => { usrc := [(s.toNat, 8)] }
  | .coll _ s _ _ => { usrc := [(s.toNat, 8)] }
  | .halo _ s => { usrc := [(s.toNat, 8)] }
  | .step _ s => { usrc := [(s.toNat, 8)] }
  | .stepwait _ s => { usrc := [(s.toNat, 8)] }
  | .tbegin => {}
  | .tchk => {}
  | .tend => {}
  | .errq d => { dst := [(d.toNat, 1)] }
  | .instructionFetch _ _ => {}
  | .poisonSkid _ _ => {}
  | .yieldExpiry _ _ => {}
  | .loadComplete _ => {}
  | .storeAck _ => {}
  | .sliceAccess _ => {}
  | .fenceComplete _ _ => {}
  | .monitorInsert _ => {}
  | .monitorTimeout _ => {}
  | .monitorSpillReturn _ _ => {}
  | .monlost _ _ => {}
  | .rds _ => {}
  | .rdx _ => {}
  | .upg _ => {}
  | .wb _ => {}
  | .inv _ => {}
  | .fwd _ => {}
  | .fwdinv _ => {}
  | .directoryAnswer _ => {}
  | .noLineAnswer _ => {}
  | .grant _ => {}
  | .performAtHome _ => {}
  | .homeOperation _ => {}
  | .wbAck _ => {}
  | .lineAgeing _ _ => {}
  | .lineReceive _ _ _ => {}
  | .replayRequest _ _ => {}
  | .linkRetrain _ _ => {}
  | .dieReset _ => {}
  | .trapMessage _ _ => {}
  | .faultResponse _ => {}
  | .fconsPoll _ => {}
  | .heldFaultPost _ => {}
  | .faultWriteRetry _ => {}
  | .sideLogReplay _ => {}
  | .errorRecordPost _ => {}
  | .scrub _ _ => {}
  | .sentinelEvent _ _ => {}
  | .voltageStepDown _ => {}
  | .powerExcess _ => {}
  | .thermalLimit _ => {}
  | .ppsPulse _ => {}
  | .ptmSync _ _ => {}
  | .portReset _ => {}
  | .bringUp _ _ _ _ => {}
  | .hostMemoryAccess _ _ _ _ => {}
  | .semaphoreRead _ _ => {}
  | .semaphoreWrite _ _ _ => {}
  | .qtailWrite _ _ _ => {}
  | .registerWrite _ _ _ => {}
  | .ctxCreate _ => {}
  | .ctxDestroy _ => {}
  | .qbind _ => {}
  | .qunbind _ => {}
  | .qresume _ => {}
  | .tlbinv _ => {}
  | .preempt _ => {}
  | .plift _ => {}
  | .migout _ => {}
  | .migin _ => {}
  | .exchset _ => {}
  | .rtshare _ => {}
  | .attest _ => {}
  | .winset _ => {}
  | .mgmtComplete => {}
  | .commandFetch => {}
  | .recordRefetch _ => {}
  | .launchCommand _ => {}
  | .launchLeaf _ => {}
  | .graphCommand _ => {}
  | .copyCommand _ => {}
  | .waitword _ => {}
  | .release _ => {}
  | .releaseTime _ => {}
  | .collCommand _ => {}
  | .fenceCommand _ => {}
  | .groupResident _ => {}
  | .groupEnd _ => {}
  | .autoPreempt _ => {}
  | .deadlineExpiry _ => {}
  | .groupSave _ => {}
  | .groupRestore _ => {}
  | .nodeDispatch _ _ => {}
  | .coalesceTimer _ _ => {}
  | .copyComplete _ => {}
  | .tileRowFill _ _ => {}
  | .matrixCommandStart _ => {}
  | .ringSlotReady _ => {}
  | .matrixCommandComplete _ => {}
  | .allocatorRequest => {}
  | .sweep _ _ => {}
  | .fieldWordComplete _ => {}
  | .linkCommandComplete _ => {}
  | .stepReport _ _ _ _ => {}
  | .trailerAccess _ _ => {}
  | .tandemWaitTimeout _ => {}
  | .tandemCheckpoint _ => {}
  | .notAnInstruction _ => {}
  | .badop _ _ => {}
  | .ownershipGrant _ => {}
  | .tileOperationComplete _ => {}
  | .linkWriteArrival _ _ _ _ => {}
  | .dieEnable _ => {}
  | .errorRecordAccept _ => {}

/-- Register n of a thread: w0 reads zero (R19), and w48-w63 are the shadow bank while a proposal is
open (R147). -/
def Thread.reg (t : Thread) (n : Nat) : Word :=
  if n = 0 then 0 else if t.popen && 48 ≤ n then t.shadow[n - 48]?.getD 0 else t.regs[n]?.getD 0

/-- Writes register n of a thread: a write of w0 is discarded (R19), and w48-w63 are the shadow bank while a
proposal is open (R147). -/
def Thread.setReg (t : Thread) (n : Nat) (v : Word) : Thread :=
  if n = 0 then t
  else if t.popen && 48 ≤ n then { t with shadow := t.shadow.setIfInBounds (n - 48) v }
  else { t with regs := t.regs.setIfInBounds n v }

/-- The poison mark of register n, of the bank in use (R383, R147). -/
def Thread.poisoned (t : Thread) (n : Nat) : Bool :=
  n != 0 && if t.popen && 48 ≤ n then t.spoison.getLsbD (n - 48) else t.poison.getLsbD n

/-- Sets or clears bit n of a mask. -/
def putBit {w : Nat} (m : BitVec w) (n : Nat) (b : Bool) : BitVec w :=
  if b then m ||| BitVec.ofNat w (2 ^ n) else m &&& ~~~(BitVec.ofNat w (2 ^ n))

/-- Whether a poisoning is that of register n, of the bank in use. -/
def Skid.has (k : Skid) (bank : Bool) (n : Nat) : Bool :=
  n != 0 && if bank && 48 ≤ n then k.shadow.getLsbD (n - 48) else k.regs.getLsbD n

/-- A poisoning spreads to register n, of the bank in use, or is no more in it. -/
def Skid.put (k : Skid) (bank b : Bool) (n : Nat) : Skid :=
  if bank && 48 ≤ n then { k with shadow := putBit k.shadow (n - 48) b } else { k with regs := putBit k.regs n b }

/-- Marks or clears the poison of register n, of the bank in use. The register has been written or read whole, so that a
parity error in it is no more (R385), nor any poisoning that it held. -/
def Thread.setPoison (t : Thread) (b : Bool) (n : Nat) : Thread :=
  if n = 0 then t
  else if t.popen && 48 ≤ n then
    { t with spoison := putBit t.spoison (n - 48) b, sparity := putBit t.sparity (n - 48) false, skids := t.skids.map fun k => k.put t.popen false n }
  else { t with poison := putBit t.poison n b, parity := putBit t.parity n false, skids := t.skids.map fun k => k.put t.popen false n }

/-- Whether the next reading of register n, of the bank in use, finds a parity error (R385). -/
def Thread.parityBad (t : Thread) (n : Nat) : Bool :=
  n != 0 && if t.popen && 48 ≤ n then t.sparity.getLsbD (n - 48) else t.parity.getLsbD n

/-- Acts on the bank that was selected when an operation issued (R147). -/
def Thread.inBank (t : Thread) (bank : Bool) (f : Thread → Thread) : Thread := { f { t with popen := bank } with popen := t.popen }

/-- The value of a register group, the lowest-numbered register in the low bits (R5, R44). -/
def Thread.group (t : Thread) (a n : Nat) : Nat :=
  match n with
  | 0 => 0
  | n + 1 => (t.reg a).toNat + 2 ^ 32 * t.group (a + 1) n

/-- Writes a register group (R5, R44). -/
def Thread.setGroup (t : Thread) (a n : Nat) (v : Nat) : Thread :=
  match n with
  | 0 => t
  | n + 1 => (t.setReg a (BitVec.ofNat 32 v)).setGroup (a + 1) n (v / 2 ^ 32)

/-- The words of a register group, lowest register first. -/
def Thread.words (t : Thread) (a n : Nat) : List Word := (List.range n).map fun k => t.reg (a + k)

/-- Writes the words of a register group, lowest register first. -/
def Thread.setWords (t : Thread) (a : Nat) : List Word → Thread
  | [] => t
  | v :: vs => (t.setReg a v).setWords (a + 1) vs

/-- Predicate n of a thread: p0 reads true (R19). -/
def Thread.pred (t : Thread) (n : Nat) : Bool := n == 0 || t.preds.getLsbD n

/-- Writes predicate n; p0 discards writes (R19). -/
def Thread.setPred (t : Thread) (n : Nat) (v : Bool) : Thread :=
  if n = 0 then t else
    { t with preds := putBit t.preds n v }

/-- Uniform register n: s0 reads zero (R23). -/
def Group.ureg (g : Group) (n : Nat) : Word := if n = 0 then 0 else g.uregs[n]?.getD 0

/-- The registers that the groups of a list name. -/
def regsOf (gs : List (Nat × Nat)) : List Nat :=
  gs.flatMap fun g => (List.range g.2).map fun k => g.1 + k

end Sys2Proof.Machine
end

