-- ==== Sys2Proof/WellFormed.lean ====
section
/-! DEFINITION. Which words are instructions (R43, R69): what a decoder refuses beside reserved codes
and nonzero must-be-zero fields. -/

namespace Sys2Proof

/-- Every register group starts at a multiple of its size (R43). -/
def aligned (gs : List (Nat × Nat)) : Bool := gs.all fun g => g.1 % g.2 == 0

/-- Widths, codes and ranges that a word accepts (R48-R69). A step of another agent is no word. -/
def Instr.codesOk : Instr → Bool
  | .nop => true
  | .exit => true
  | .trap _ _ => true
  | .brk _ => true
  | .yield => true
  | .setrm m => decide (m.toNat ≤ 4)
  | .getflg _ => true
  | .clrflg _ => true
  | .iadd _ _ _ _ w => decide (w.toNat ≤ 1)
  | .isub _ _ _ _ w => decide (w.toNat ≤ 1)
  | .imin _ _ _ _ => true
  | .imax _ _ _ _ => true
  | .iminu _ _ _ _ => true
  | .imaxu _ _ _ _ => true
  | .and _ _ _ _ w => decide (w.toNat ≤ 1)
  | .or _ _ _ _ w => decide (w.toNat ≤ 1)
  | .xor _ _ _ _ w => decide (w.toNat ≤ 1)
  | .andn _ _ _ _ => true
  | .shl _ _ _ _ w => decide (w.toNat ≤ 1)
  | .shr _ _ _ _ w => decide (w.toNat ≤ 1)
  | .sar _ _ _ _ w => decide (w.toNat ≤ 1)
  | .rotl _ _ _ _ => true
  | .imullo _ _ _ _ w => decide (w.toNat ≤ 1)
  | .imulhi _ _ _ _ => true
  | .imulhiu _ _ _ _ => true
  | .popc _ _ _ => true
  | .clz _ _ _ => true
  | .brev _ _ _ => true
  | .iabs _ _ _ => true
  | .bpick _ _ _ _ => true
  | .iaddsat _ _ _ _ => true
  | .isubsat _ _ _ _ => true
  | .iaddi _ _ _ _ => true
  | .andi _ _ _ _ => true
  | .ori _ _ _ _ => true
  | .xori _ _ _ _ => true
  | .shiShl _ _ _ _ => true
  | .shiShr _ _ _ _ => true
  | .shiSar _ _ _ _ => true
  | .shiRotl _ _ _ _ => true
  | .bitfBfx _ _ _ l p => decide (p.toNat + (l.toNat + 1) ≤ 32)
  | .bitfBfxs _ _ _ l p => decide (p.toNat + (l.toNat + 1) ≤ 32)
  | .bitfBfi _ _ _ l p => decide (p.toNat + (l.toNat + 1) ≤ 32)
  | .li _ _ _ => true
  | .lih _ _ _ => true
  | .imad _ _ _ _ _ => true
  | .imadW _ _ _ _ _ => true
  | .icmp _ _ _ _ w f => decide (w.toNat ≤ 1) && decide (f.toNat ≤ 9)
  | .pand _ _ _ _ => true
  | .por _ _ _ _ => true
  | .pxor _ _ _ _ => true
  | .pnot _ _ _ => true
  | .p2w _ _ => true
  | .w2p _ _ => true
  | .sel _ _ _ _ _ _ _ => true
  | .sysv _ _ s => decide (s.toNat ≤ 11)
  | .locq _ _ _ => true
  | .uget _ _ _ => true
  | .uset _ _ _ => true
  | .fadd _ _ _ _ => true
  | .dadd _ _ _ _ => true
  | .fsub _ _ _ _ => true
  | .dsub _ _ _ _ => true
  | .fmul _ _ _ _ => true
  | .dmul _ _ _ _ => true
  | .fmin _ _ _ _ => true
  | .dmin _ _ _ _ => true
  | .fmax _ _ _ _ => true
  | .dmax _ _ _ _ => true
  | .fminm _ _ _ _ => true
  | .dminm _ _ _ _ => true
  | .fmaxm _ _ _ _ => true
  | .dmaxm _ _ _ _ => true
  | .fabs _ _ _ => true
  | .dabs _ _ _ => true
  | .fneg _ _ _ => true
  | .dneg _ _ _ => true
  | .fcpys _ _ _ _ => true
  | .dcpys _ _ _ _ => true
  | .frnd _ _ _ r => decide (r.toNat ≤ 5)
  | .drnd _ _ _ r => decide (r.toNat ≤ 5)
  | .fclass _ _ _ => true
  | .dclass _ _ _ => true
  | .fscale _ _ _ _ => true
  | .dscale _ _ _ _ => true
  | .ffma _ _ _ _ _ => true
  | .dfma _ _ _ _ _ => true
  | .fcmp _ _ _ _ f => decide (f.toNat ≤ 15)
  | .dcmp _ _ _ _ f => decide (f.toNat ≤ 15)
  | .hadd2 _ _ _ _ => true
  | .hsub2 _ _ _ _ => true
  | .hmul2 _ _ _ _ => true
  | .hmin2 _ _ _ _ => true
  | .hmax2 _ _ _ _ => true
  | .badd2 _ _ _ _ => true
  | .bsub2 _ _ _ _ => true
  | .bmul2 _ _ _ _ => true
  | .bmin2 _ _ _ _ => true
  | .bmax2 _ _ _ _ => true
  | .hfma2 _ _ _ _ _ => true
  | .bfma2 _ _ _ _ _ => true
  | .cvt _ _ _ r s k => decide (k.toNat ≤ 27) && decide (r.toNat ≤ 5) && (!Machine.cvtExact k.toNat || (r == 0 && s == 0)) && (s == 0 || !Machine.cvtFromInt k.toNat)
  | .rcp _ _ _ _ => true
  | .rsq _ _ _ => true
  | .sqrt _ _ _ _ => true
  | .div _ _ _ _ _ => true
  | .exp2 _ _ _ => true
  | .log2 _ _ _ => true
  | .sin _ _ _ => true
  | .cos _ _ _ => true
  | .sincos _ _ _ => true
  | .sinpi _ _ _ => true
  | .cospi _ _ _ => true
  | .tanh _ _ _ => true
  | .rand _ _ => true
  | .randu _ _ => true
  | .propose _ => true
  | .accept _ _ _ => true
  | .discard _ => true
  | .pseed _ _ => true
  | .pcnt _ _ => true
  | .pcntClr _ _ => true
  | .xchPair _ _ _ => true
  | .xchQx1 _ _ _ => true
  | .xchQx2 _ _ _ => true
  | .shfl _ _ _ _ => true
  | .shflx _ _ _ _ => true
  | .voteany _ _ _ => true
  | .voteall _ _ _ => true
  | .ballot _ _ _ => true
  | .redadd _ _ _ => true
  | .redmin _ _ _ => true
  | .redmax _ _ _ => true
  | .bra p n _ => !(p == 0 && n == 1)
  | .call _ _ => true
  | .jr _ => true
  | .jalr _ _ => true
  | .barG => true
  | .barS w h => decide (w.toNat ≤ 5) && decide (h.toNat ≤ 4)
  | .ld _ _ _ _ _ _ => true
  | .st _ _ _ z _ _ => z != 1 && z != 3
  | .ldt _ _ _ _ _ => true
  | .ldtWf _ _ _ _ _ => true
  | .ldtWfe _ _ _ _ _ => true
  | .stt _ _ _ _ _ => true
  | .sttWe _ _ _ _ _ => true
  | .sttRaw _ _ _ _ _ => true
  | .atom _ _ _ _ _ o => decide (o.toNat % 16 ≤ 13)
  | .cas _ _ _ _ _ _ => true
  | .red _ _ _ _ o => decide (o.toNat % 16 ≤ 13) && decide (o.toNat % 16 ≠ 8)
  | .fence _ s a b => decide (s.toNat ≤ 3) && (a == 0) == (b == 0)
  | .wait _ _ _ _ => true
  | .waitu _ _ _ _ _ _ => true
  | .ldFut _ _ _ _ => true
  | .stFut _ _ _ => true
  | .clrFut _ _ => true
  | .talloc _ _ _ _ => true
  | .tfree _ _ _ => true
  | .tbind _ _ _ _ => true
  | .tflush _ _ _ => true
  | .tring _ _ _ _ => true
  | .tsetfe _ _ _ _ => true
  | .tarrt _ _ _ _ => true
  | .waita _ _ _ _ => true
  | .tinfo _ _ _ _ => true
  | .racq _ _ _ _ => true
  | .rrel _ _ _ _ => true
  | .tidset _ _ _ => true
  | .tidget _ _ _ => true
  | .copy _ _ _ _ => true
  | .copyTl _ _ _ => true
  | .copyLt _ _ _ => true
  | .gather _ _ _ _ => true
  | .scatter _ _ _ _ => true
  | .mloop _ _ => true
  | .mdrain _ _ _ => true
  | .mzero _ _ => true
  | .take _ => true
  | .pass _ => true
  | .mwait _ => true
  | .amax _ _ _ _ => true
  | .amaxrs _ _ _ _ => true
  | .vbind _ _ _ _ => true
  | .vld _ _ _ _ => true
  | .vsten7 _ _ _ _ => true
  | .vsamp _ _ _ _ => true
  | .vray _ _ _ _ => true
  | .vleaf _ _ _ => true
  | .vins _ _ _ _ => true
  | .vdel _ _ _ _ => true
  | .vactClr _ _ _ _ => true
  | .vactSet _ _ _ _ => true
  | .vst _ _ _ _ => true
  | .hbind _ _ _ _ => true
  | .hgrid _ _ _ _ _ => true
  | .hgrad _ _ _ _ _ => true
  | .hgradd _ _ _ _ _ => true
  | .enq _ _ _ => true
  | .commit _ _ _ => true
  | .result _ _ => true
  | .launch _ _ => true
  | .coll _ _ _ _ => true
  | .halo _ _ => true
  | .step _ _ => true
  | .stepwait _ _ => true
  | .tbegin => true
  | .tchk => true
  | .tend => true
  | .errq _ => true
  | .instructionFetch _ _ => false
  | .poisonSkid _ _ => false
  | .yieldExpiry _ _ => false
  | .loadComplete _ => false
  | .storeAck _ => false
  | .sliceAccess _ => false
  | .fenceComplete _ _ => false
  | .monitorInsert _ => false
  | .monitorTimeout _ => false
  | .monitorSpillReturn _ _ => false
  | .monlost _ _ => false
  | .rds _ => false
  | .rdx _ => false
  | .upg _ => false
  | .wb _ => false
  | .inv _ => false
  | .fwd _ => false
  | .fwdinv _ => false
  | .directoryAnswer _ => false
  | .noLineAnswer _ => false
  | .grant _ => false
  | .performAtHome _ => false
  | .homeOperation _ => false
  | .wbAck _ => false
  | .lineAgeing _ _ => false
  | .lineReceive _ _ _ => false
  | .replayRequest _ _ => false
  | .linkRetrain _ _ => false
  | .dieReset _ => false
  | .trapMessage _ _ => false
  | .faultResponse _ => false
  | .fconsPoll _ => false
  | .heldFaultPost _ => false
  | .faultWriteRetry _ => false
  | .sideLogReplay _ => false
  | .errorRecordPost _ => false
  | .scrub _ _ => false
  | .sentinelEvent _ _ => false
  | .voltageStepDown _ => false
  | .powerExcess _ => false
  | .thermalLimit _ => false
  | .ppsPulse _ => false
  | .ptmSync _ _ => false
  | .portReset _ => false
  | .bringUp _ _ _ _ => false
  | .hostMemoryAccess _ _ _ _ => false
  | .semaphoreRead _ _ => false
  | .semaphoreWrite _ _ _ => false
  | .qtailWrite _ _ _ => false
  | .registerWrite _ _ _ => false
  | .ctxCreate _ => false
  | .ctxDestroy _ => false
  | .qbind _ => false
  | .qunbind _ => false
  | .qresume _ => false
  | .tlbinv _ => false
  | .preempt _ => false
  | .plift _ => false
  | .migout _ => false
  | .migin _ => false
  | .exchset _ => false
  | .rtshare _ => false
  | .attest _ => false
  | .winset _ => false
  | .mgmtComplete => false
  | .commandFetch => false
  | .recordRefetch _ => false
  | .launchCommand _ => false
  | .launchLeaf _ => false
  | .graphCommand _ => false
  | .copyCommand _ => false
  | .waitword _ => false
  | .release _ => false
  | .releaseTime _ => false
  | .collCommand _ => false
  | .fenceCommand _ => false
  | .groupResident _ => false
  | .groupEnd _ => false
  | .autoPreempt _ => false
  | .deadlineExpiry _ => false
  | .groupSave _ => false
  | .groupRestore _ => false
  | .nodeDispatch _ _ => false
  | .coalesceTimer _ _ => false
  | .copyComplete _ => false
  | .tileRowFill _ _ => false
  | .matrixCommandStart _ => false
  | .ringSlotReady _ => false
  | .matrixCommandComplete _ => false
  | .allocatorRequest => false
  | .sweep _ _ => false
  | .fieldWordComplete _ => false
  | .linkCommandComplete _ => false
  | .stepReport _ _ _ _ => false
  | .trailerAccess _ _ => false
  | .tandemWaitTimeout _ => false
  | .tandemCheckpoint _ => false
  | .notAnInstruction _ => false
  | .badop _ _ => false
  | .ownershipGrant _ => false
  | .tileOperationComplete _ => false
  | .linkWriteArrival _ _ _ _ => false
  | .dieEnable _ => false
  | .errorRecordAccept _ => false

/-- The word is an instruction: its codes are accepted, its groups are aligned, and it writes no p0. DEDUCED (log 29). -/
def Instr.wellFormed (i : Instr) : Bool :=
  let o := Machine.opnds i
  i.codesOk && aligned o.src && aligned o.dst && aligned (o.usrc.filter fun g => g.2 == 8)
    && !(o.pdst.contains 0)

end Sys2Proof
end

