-- ==== Sys2Proof/Decode.lean ====
section
/-! DEFINITION. From bits to instructions (R35, R46-R69): the fields of a word, one function for each
major opcode that selects further, the decoder, and the encoder written from the same tables. -/

namespace Sys2Proof

/-- Field of n bits at bit lo of a word. -/
def field (n lo w : Nat) : Nat := w / 2 ^ lo % 2 ^ n

/-- The same field as a bit vector. -/
def fieldBits (n lo w : Nat) : BitVec n := BitVec.ofNat n (w / 2 ^ lo)

/-- Major 0x00. -/
def decodeSys (w : Nat) : Option Instr :=
  match field 5 8 w with
  | 0 => if field 8 0 w = 0 ∧ field 12 13 w = 0 ∧ field 1 31 w = 0 then some .nop else none
  | 1 => if field 8 0 w = 0 ∧ field 12 13 w = 0 ∧ field 1 31 w = 0 then some .exit else none
  | 2 => if field 6 19 w = 0 ∧ field 1 31 w = 0 then some (.trap (fieldBits 6 13 w) (fieldBits 8 0 w)) else none
  | 3 => if field 12 13 w = 0 ∧ field 1 31 w = 0 then some (.brk (fieldBits 8 0 w)) else none
  | 4 => if field 8 0 w = 0 ∧ field 12 13 w = 0 ∧ field 1 31 w = 0 then some .yield else none
  | 5 => if field 5 3 w = 0 ∧ field 12 13 w = 0 ∧ field 1 31 w = 0 then some (.setrm (fieldBits 3 0 w)) else none
  | 6 => if field 8 0 w = 0 ∧ field 6 13 w = 0 ∧ field 1 31 w = 0 then some (.getflg (fieldBits 6 19 w)) else none
  | 7 => if field 3 5 w = 0 ∧ field 12 13 w = 0 ∧ field 1 31 w = 0 then some (.clrflg (fieldBits 5 0 w)) else none
  | _ => none

/-- Major 0x01. -/
def decodeIop (w : Nat) : Option Instr :=
  match field 5 0 w with
  | 0 => some (.iadd (fieldBits 1 31 w) (fieldBits 6 19 w) (fieldBits 6 13 w) (fieldBits 6 7 w) (fieldBits 2 5 w))
  | 1 => some (.isub (fieldBits 1 31 w) (fieldBits 6 19 w) (fieldBits 6 13 w) (fieldBits 6 7 w) (fieldBits 2 5 w))
  | 2 => if field 2 5 w = 0 then some (.imin (fieldBits 1 31 w) (fieldBits 6 19 w) (fieldBits 6 13 w) (fieldBits 6 7 w)) else none
  | 3 => if field 2 5 w = 0 then some (.imax (fieldBits 1 31 w) (fieldBits 6 19 w) (fieldBits 6 13 w) (fieldBits 6 7 w)) else none
  | 4 => if field 2 5 w = 0 then some (.iminu (fieldBits 1 31 w) (fieldBits 6 19 w) (fieldBits 6 13 w) (fieldBits 6 7 w)) else none
  | 5 => if field 2 5 w = 0 then some (.imaxu (fieldBits 1 31 w) (fieldBits 6 19 w) (fieldBits 6 13 w) (fieldBits 6 7 w)) else none
  | 6 => some (.and (fieldBits 1 31 w) (fieldBits 6 19 w) (fieldBits 6 13 w) (fieldBits 6 7 w) (fieldBits 2 5 w))
  | 7 => some (.or (fieldBits 1 31 w) (fieldBits 6 19 w) (fieldBits 6 13 w) (fieldBits 6 7 w) (fieldBits 2 5 w))
  | 8 => some (.xor (fieldBits 1 31 w) (fieldBits 6 19 w) (fieldBits 6 13 w) (fieldBits 6 7 w) (fieldBits 2 5 w))
  | 9 => if field 2 5 w = 0 then some (.andn (fieldBits 1 31 w) (fieldBits 6 19 w) (fieldBits 6 13 w) (fieldBits 6 7 w)) else none
  | 10 => some (.shl (fieldBits 1 31 w) (fieldBits 6 19 w) (fieldBits 6 13 w) (fieldBits 6 7 w) (fieldBits 2 5 w))
  | 11 => some (.shr (fieldBits 1 31 w) (fieldBits 6 19 w) (fieldBits 6 13 w) (fieldBits 6 7 w) (fieldBits 2 5 w))
  | 12 => some (.sar (fieldBits 1 31 w) (fieldBits 6 19 w) (fieldBits 6 13 w) (fieldBits 6 7 w) (fieldBits 2 5 w))
  | 13 => if field 2 5 w = 0 then some (.rotl (fieldBits 1 31 w) (fieldBits 6 19 w) (fieldBits 6 13 w) (fieldBits 6 7 w)) else none
  | 14 => some (.imullo (fieldBits 1 31 w) (fieldBits 6 19 w) (fieldBits 6 13 w) (fieldBits 6 7 w) (fieldBits 2 5 w))
  | 15 => if field 2 5 w = 0 then some (.imulhi (fieldBits 1 31 w) (fieldBits 6 19 w) (fieldBits 6 13 w) (fieldBits 6 7 w)) else none
  | 16 => if field 2 5 w = 0 then some (.imulhiu (fieldBits 1 31 w) (fieldBits 6 19 w) (fieldBits 6 13 w) (fieldBits 6 7 w)) else none
  | 17 => if field 8 5 w = 0 then some (.popc (fieldBits 1 31 w) (fieldBits 6 19 w) (fieldBits 6 13 w)) else none
  | 18 => if field 8 5 w = 0 then some (.clz (fieldBits 1 31 w) (fieldBits 6 19 w) (fieldBits 6 13 w)) else none
  | 19 => if field 8 5 w = 0 then some (.brev (fieldBits 1 31 w) (fieldBits 6 19 w) (fieldBits 6 13 w)) else none
  | 20 => if field 8 5 w = 0 then some (.iabs (fieldBits 1 31 w) (fieldBits 6 19 w) (fieldBits 6 13 w)) else none
  | 21 => if field 2 5 w = 0 then some (.bpick (fieldBits 1 31 w) (fieldBits 6 19 w) (fieldBits 6 13 w) (fieldBits 6 7 w)) else none
  | 22 => if field 2 5 w = 0 then some (.iaddsat (fieldBits 1 31 w) (fieldBits 6 19 w) (fieldBits 6 13 w) (fieldBits 6 7 w)) else none
  | 23 => if field 2 5 w = 0 then some (.isubsat (fieldBits 1 31 w) (fieldBits 6 19 w) (fieldBits 6 13 w) (fieldBits 6 7 w)) else none
  | _ => none

/-- Major 0x06. -/
def decodeShi (w : Nat) : Option Instr :=
  match field 2 11 w with
  | 0 => if field 6 5 w = 0 then some (.shiShl (fieldBits 1 31 w) (fieldBits 6 19 w) (fieldBits 6 13 w) (fieldBits 5 0 w)) else none
  | 1 => if field 6 5 w = 0 then some (.shiShr (fieldBits 1 31 w) (fieldBits 6 19 w) (fieldBits 6 13 w) (fieldBits 5 0 w)) else none
  | 2 => if field 6 5 w = 0 then some (.shiSar (fieldBits 1 31 w) (fieldBits 6 19 w) (fieldBits 6 13 w) (fieldBits 5 0 w)) else none
  | 3 => if field 6 5 w = 0 then some (.shiRotl (fieldBits 1 31 w) (fieldBits 6 19 w) (fieldBits 6 13 w) (fieldBits 5 0 w)) else none
  | _ => none

/-- Major 0x07. -/
def decodeBitf (w : Nat) : Option Instr :=
  match field 2 11 w with
  | 0 => if field 1 10 w = 0 then some (.bitfBfx (fieldBits 1 31 w) (fieldBits 6 19 w) (fieldBits 6 13 w) (fieldBits 5 5 w) (fieldBits 5 0 w)) else none
  | 1 => if field 1 10 w = 0 then some (.bitfBfxs (fieldBits 1 31 w) (fieldBits 6 19 w) (fieldBits 6 13 w) (fieldBits 5 5 w) (fieldBits 5 0 w)) else none
  | 2 => if field 1 10 w = 0 then some (.bitfBfi (fieldBits 1 31 w) (fieldBits 6 19 w) (fieldBits 6 13 w) (fieldBits 5 5 w) (fieldBits 5 0 w)) else none
  | _ => none

/-- Major 0x0A. -/
def decodeImad (w : Nat) : Option Instr :=
  match field 1 0 w with
  | 0 => some (.imad (fieldBits 1 31 w) (fieldBits 6 19 w) (fieldBits 6 13 w) (fieldBits 6 7 w) (fieldBits 6 1 w))
  | 1 => some (.imadW (fieldBits 1 31 w) (fieldBits 6 19 w) (fieldBits 6 13 w) (fieldBits 6 7 w) (fieldBits 6 1 w))
  | _ => none

/-- Major 0x0C. -/
def decodePred (w : Nat) : Option Instr :=
  match field 5 0 w with
  | 0 => if field 2 5 w = 0 ∧ field 3 10 w = 0 ∧ field 3 16 w = 0 ∧ field 3 22 w = 0 then some (.pand (fieldBits 1 31 w) (fieldBits 3 19 w) (fieldBits 3 13 w) (fieldBits 3 7 w)) else none
  | 1 => if field 2 5 w = 0 ∧ field 3 10 w = 0 ∧ field 3 16 w = 0 ∧ field 3 22 w = 0 then some (.por (fieldBits 1 31 w) (fieldBits 3 19 w) (fieldBits 3 13 w) (fieldBits 3 7 w)) else none
  | 2 => if field 2 5 w = 0 ∧ field 3 10 w = 0 ∧ field 3 16 w = 0 ∧ field 3 22 w = 0 then some (.pxor (fieldBits 1 31 w) (fieldBits 3 19 w) (fieldBits 3 13 w) (fieldBits 3 7 w)) else none
  | 3 => if field 8 5 w = 0 ∧ field 3 16 w = 0 ∧ field 3 22 w = 0 then some (.pnot (fieldBits 1 31 w) (fieldBits 3 19 w) (fieldBits 3 13 w)) else none
  | 4 => if field 14 5 w = 0 then some (.p2w (fieldBits 1 31 w) (fieldBits 6 19 w)) else none
  | 5 => if field 8 5 w = 0 ∧ field 6 19 w = 0 then some (.w2p (fieldBits 1 31 w) (fieldBits 6 13 w)) else none
  | _ => none

/-- Major 0x0E. -/
def decodeSysv (w : Nat) : Option Instr :=
  match field 5 8 w with
  | 12 => if field 8 0 w = 0 then some (.locq (fieldBits 1 31 w) (fieldBits 6 19 w) (fieldBits 6 13 w)) else none
  | _ => if field 8 0 w = 0 ∧ field 6 13 w = 0 then some (.sysv (fieldBits 1 31 w) (fieldBits 6 19 w) (fieldBits 5 8 w)) else none

/-- Major 0x0F. -/
def decodeUni (w : Nat) : Option Instr :=
  match field 5 8 w with
  | 0 => if field 8 0 w = 0 then some (.uget (fieldBits 1 31 w) (fieldBits 6 19 w) (fieldBits 6 13 w)) else none
  | 1 => if field 8 0 w = 0 then some (.uset (fieldBits 1 31 w) (fieldBits 6 19 w) (fieldBits 6 13 w)) else none
  | _ => none

/-- Major 0x10. -/
def decodeFop (w : Nat) : Option Instr :=
  match field 7 0 w with
  | 0 => some (.fadd (fieldBits 1 31 w) (fieldBits 6 19 w) (fieldBits 6 13 w) (fieldBits 6 7 w))
  | 1 => some (.fsub (fieldBits 1 31 w) (fieldBits 6 19 w) (fieldBits 6 13 w) (fieldBits 6 7 w))
  | 2 => some (.fmul (fieldBits 1 31 w) (fieldBits 6 19 w) (fieldBits 6 13 w) (fieldBits 6 7 w))
  | 3 => some (.fmin (fieldBits 1 31 w) (fieldBits 6 19 w) (fieldBits 6 13 w) (fieldBits 6 7 w))
  | 4 => some (.fmax (fieldBits 1 31 w) (fieldBits 6 19 w) (fieldBits 6 13 w) (fieldBits 6 7 w))
  | 5 => some (.fminm (fieldBits 1 31 w) (fieldBits 6 19 w) (fieldBits 6 13 w) (fieldBits 6 7 w))
  | 6 => some (.fmaxm (fieldBits 1 31 w) (fieldBits 6 19 w) (fieldBits 6 13 w) (fieldBits 6 7 w))
  | 7 => if field 6 7 w = 0 then some (.fabs (fieldBits 1 31 w) (fieldBits 6 19 w) (fieldBits 6 13 w)) else none
  | 8 => if field 6 7 w = 0 then some (.fneg (fieldBits 1 31 w) (fieldBits 6 19 w) (fieldBits 6 13 w)) else none
  | 9 => some (.fcpys (fieldBits 1 31 w) (fieldBits 6 19 w) (fieldBits 6 13 w) (fieldBits 6 7 w))
  | 10 => if field 3 7 w = 0 then some (.frnd (fieldBits 1 31 w) (fieldBits 6 19 w) (fieldBits 6 13 w) (fieldBits 3 10 w)) else none
  | 11 => if field 6 7 w = 0 then some (.fclass (fieldBits 1 31 w) (fieldBits 6 19 w) (fieldBits 6 13 w)) else none
  | 12 => some (.fscale (fieldBits 1 31 w) (fieldBits 6 19 w) (fieldBits 6 13 w) (fieldBits 6 7 w))
  | 32 => some (.dadd (fieldBits 1 31 w) (fieldBits 6 19 w) (fieldBits 6 13 w) (fieldBits 6 7 w))
  | 33 => some (.dsub (fieldBits 1 31 w) (fieldBits 6 19 w) (fieldBits 6 13 w) (fieldBits 6 7 w))
  | 34 => some (.dmul (fieldBits 1 31 w) (fieldBits 6 19 w) (fieldBits 6 13 w) (fieldBits 6 7 w))
  | 35 => some (.dmin (fieldBits 1 31 w) (fieldBits 6 19 w) (fieldBits 6 13 w) (fieldBits 6 7 w))
  | 36 => some (.dmax (fieldBits 1 31 w) (fieldBits 6 19 w) (fieldBits 6 13 w) (fieldBits 6 7 w))
  | 37 => some (.dminm (fieldBits 1 31 w) (fieldBits 6 19 w) (fieldBits 6 13 w) (fieldBits 6 7 w))
  | 38 => some (.dmaxm (fieldBits 1 31 w) (fieldBits 6 19 w) (fieldBits 6 13 w) (fieldBits 6 7 w))
  | 39 => if field 6 7 w = 0 then some (.dabs (fieldBits 1 31 w) (fieldBits 6 19 w) (fieldBits 6 13 w)) else none
  | 40 => if field 6 7 w = 0 then some (.dneg (fieldBits 1 31 w) (fieldBits 6 19 w) (fieldBits 6 13 w)) else none
  | 41 => some (.dcpys (fieldBits 1 31 w) (fieldBits 6 19 w) (fieldBits 6 13 w) (fieldBits 6 7 w))
  | 42 => if field 3 7 w = 0 then some (.drnd (fieldBits 1 31 w) (fieldBits 6 19 w) (fieldBits 6 13 w) (fieldBits 3 10 w)) else none
  | 43 => if field 6 7 w = 0 then some (.dclass (fieldBits 1 31 w) (fieldBits 6 19 w) (fieldBits 6 13 w)) else none
  | 44 => some (.dscale (fieldBits 1 31 w) (fieldBits 6 19 w) (fieldBits 6 13 w) (fieldBits 6 7 w))
  | _ => none

/-- Major 0x11. -/
def decodeFfma (w : Nat) : Option Instr :=
  match field 1 0 w with
  | 0 => some (.ffma (fieldBits 1 31 w) (fieldBits 6 19 w) (fieldBits 6 13 w) (fieldBits 6 7 w) (fieldBits 6 1 w))
  | 1 => some (.dfma (fieldBits 1 31 w) (fieldBits 6 19 w) (fieldBits 6 13 w) (fieldBits 6 7 w) (fieldBits 6 1 w))
  | _ => none

/-- Major 0x12. -/
def decodeFcmp (w : Nat) : Option Instr :=
  match field 2 5 w with
  | 0 => if field 3 22 w = 0 then some (.fcmp (fieldBits 1 31 w) (fieldBits 3 19 w) (fieldBits 6 13 w) (fieldBits 6 7 w) (fieldBits 5 0 w)) else none
  | 1 => if field 3 22 w = 0 then some (.dcmp (fieldBits 1 31 w) (fieldBits 3 19 w) (fieldBits 6 13 w) (fieldBits 6 7 w) (fieldBits 5 0 w)) else none
  | _ => none

/-- Major 0x13. -/
def decodeHop (w : Nat) : Option Instr :=
  match field 5 0 w with
  | 0 => if field 2 5 w = 0 then some (.hadd2 (fieldBits 1 31 w) (fieldBits 6 19 w) (fieldBits 6 13 w) (fieldBits 6 7 w)) else none
  | 1 => if field 2 5 w = 0 then some (.hsub2 (fieldBits 1 31 w) (fieldBits 6 19 w) (fieldBits 6 13 w) (fieldBits 6 7 w)) else none
  | 2 => if field 2 5 w = 0 then some (.hmul2 (fieldBits 1 31 w) (fieldBits 6 19 w) (fieldBits 6 13 w) (fieldBits 6 7 w)) else none
  | 3 => if field 2 5 w = 0 then some (.hmin2 (fieldBits 1 31 w) (fieldBits 6 19 w) (fieldBits 6 13 w) (fieldBits 6 7 w)) else none
  | 4 => if field 2 5 w = 0 then some (.hmax2 (fieldBits 1 31 w) (fieldBits 6 19 w) (fieldBits 6 13 w) (fieldBits 6 7 w)) else none
  | 16 => if field 2 5 w = 0 then some (.badd2 (fieldBits 1 31 w) (fieldBits 6 19 w) (fieldBits 6 13 w) (fieldBits 6 7 w)) else none
  | 17 => if field 2 5 w = 0 then some (.bsub2 (fieldBits 1 31 w) (fieldBits 6 19 w) (fieldBits 6 13 w) (fieldBits 6 7 w)) else none
  | 18 => if field 2 5 w = 0 then some (.bmul2 (fieldBits 1 31 w) (fieldBits 6 19 w) (fieldBits 6 13 w) (fieldBits 6 7 w)) else none
  | 19 => if field 2 5 w = 0 then some (.bmin2 (fieldBits 1 31 w) (fieldBits 6 19 w) (fieldBits 6 13 w) (fieldBits 6 7 w)) else none
  | 20 => if field 2 5 w = 0 then some (.bmax2 (fieldBits 1 31 w) (fieldBits 6 19 w) (fieldBits 6 13 w) (fieldBits 6 7 w)) else none
  | _ => none

/-- Major 0x14. -/
def decodeHfma2 (w : Nat) : Option Instr :=
  match field 1 0 w with
  | 0 => some (.hfma2 (fieldBits 1 31 w) (fieldBits 6 19 w) (fieldBits 6 13 w) (fieldBits 6 7 w) (fieldBits 6 1 w))
  | 1 => some (.bfma2 (fieldBits 1 31 w) (fieldBits 6 19 w) (fieldBits 6 13 w) (fieldBits 6 7 w) (fieldBits 6 1 w))
  | _ => none

/-- Major 0x16. -/
def decodeSfu (w : Nat) : Option Instr :=
  match field 5 0 w with
  | 0 => if field 7 6 w = 0 then some (.rcp (fieldBits 1 31 w) (fieldBits 6 19 w) (fieldBits 6 13 w) (fieldBits 1 5 w)) else none
  | 1 => if field 8 5 w = 0 then some (.rsq (fieldBits 1 31 w) (fieldBits 6 19 w) (fieldBits 6 13 w)) else none
  | 2 => if field 7 6 w = 0 then some (.sqrt (fieldBits 1 31 w) (fieldBits 6 19 w) (fieldBits 6 13 w) (fieldBits 1 5 w)) else none
  | 3 => if field 1 6 w = 0 then some (.div (fieldBits 1 31 w) (fieldBits 6 19 w) (fieldBits 6 13 w) (fieldBits 6 7 w) (fieldBits 1 5 w)) else none
  | 4 => if field 8 5 w = 0 then some (.exp2 (fieldBits 1 31 w) (fieldBits 6 19 w) (fieldBits 6 13 w)) else none
  | 5 => if field 8 5 w = 0 then some (.log2 (fieldBits 1 31 w) (fieldBits 6 19 w) (fieldBits 6 13 w)) else none
  | 6 => if field 8 5 w = 0 then some (.sin (fieldBits 1 31 w) (fieldBits 6 19 w) (fieldBits 6 13 w)) else none
  | 7 => if field 8 5 w = 0 then some (.cos (fieldBits 1 31 w) (fieldBits 6 19 w) (fieldBits 6 13 w)) else none
  | 8 => if field 8 5 w = 0 then some (.sincos (fieldBits 1 31 w) (fieldBits 6 19 w) (fieldBits 6 13 w)) else none
  | 9 => if field 8 5 w = 0 then some (.sinpi (fieldBits 1 31 w) (fieldBits 6 19 w) (fieldBits 6 13 w)) else none
  | 10 => if field 8 5 w = 0 then some (.cospi (fieldBits 1 31 w) (fieldBits 6 19 w) (fieldBits 6 13 w)) else none
  | 11 => if field 8 5 w = 0 then some (.tanh (fieldBits 1 31 w) (fieldBits 6 19 w) (fieldBits 6 13 w)) else none
  | _ => none

/-- Major 0x17. -/
def decodeRand (w : Nat) : Option Instr :=
  match field 5 0 w with
  | 0 => if field 14 5 w = 0 then some (.rand (fieldBits 1 31 w) (fieldBits 6 19 w)) else none
  | 1 => if field 14 5 w = 0 then some (.randu (fieldBits 1 31 w) (fieldBits 6 19 w)) else none
  | _ => none

/-- Major 0x18. -/
def decodeProp (w : Nat) : Option Instr :=
  match field 5 8 w with
  | 0 => if field 8 0 w = 0 ∧ field 12 13 w = 0 then some (.propose (fieldBits 1 31 w)) else none
  | 1 => if field 8 0 w = 0 then some (.accept (fieldBits 1 31 w) (fieldBits 6 19 w) (fieldBits 6 13 w)) else none
  | 2 => if field 8 0 w = 0 ∧ field 12 13 w = 0 then some (.discard (fieldBits 1 31 w)) else none
  | 3 => if field 8 0 w = 0 ∧ field 6 19 w = 0 then some (.pseed (fieldBits 1 31 w) (fieldBits 6 13 w)) else none
  | 4 => if field 8 0 w = 0 ∧ field 6 13 w = 0 then some (.pcnt (fieldBits 1 31 w) (fieldBits 6 19 w)) else if field 8 0 w = 1 ∧ field 6 13 w = 0 then some (.pcntClr (fieldBits 1 31 w) (fieldBits 6 19 w)) else none
  | _ => none

/-- Major 0x19. -/
def decodeXch (w : Nat) : Option Instr :=
  match field 5 0 w with
  | 0 => if field 8 5 w = 0 then some (.xchPair (fieldBits 1 31 w) (fieldBits 6 19 w) (fieldBits 6 13 w)) else none
  | 1 => if field 8 5 w = 0 then some (.xchQx1 (fieldBits 1 31 w) (fieldBits 6 19 w) (fieldBits 6 13 w)) else none
  | 2 => if field 8 5 w = 0 then some (.xchQx2 (fieldBits 1 31 w) (fieldBits 6 19 w) (fieldBits 6 13 w)) else none
  | 3 => if field 2 5 w = 0 then some (.shfl (fieldBits 1 31 w) (fieldBits 6 19 w) (fieldBits 6 13 w) (fieldBits 6 7 w)) else none
  | 4 => if field 2 5 w = 0 then some (.shflx (fieldBits 1 31 w) (fieldBits 6 19 w) (fieldBits 6 13 w) (fieldBits 6 7 w)) else none
  | 5 => if field 8 5 w = 0 then some (.voteany (fieldBits 1 31 w) (fieldBits 6 19 w) (fieldBits 6 13 w)) else none
  | 6 => if field 8 5 w = 0 then some (.voteall (fieldBits 1 31 w) (fieldBits 6 19 w) (fieldBits 6 13 w)) else none
  | 7 => if field 8 5 w = 0 then some (.ballot (fieldBits 1 31 w) (fieldBits 6 19 w) (fieldBits 6 13 w)) else none
  | 8 => if field 8 5 w = 0 then some (.redadd (fieldBits 1 31 w) (fieldBits 6 19 w) (fieldBits 6 13 w)) else none
  | 9 => if field 8 5 w = 0 then some (.redmin (fieldBits 1 31 w) (fieldBits 6 19 w) (fieldBits 6 13 w)) else none
  | 10 => if field 8 5 w = 0 then some (.redmax (fieldBits 1 31 w) (fieldBits 6 19 w) (fieldBits 6 13 w)) else none
  | _ => none

/-- Major 0x1C. -/
def decodeJr (w : Nat) : Option Instr :=
  match field 5 0 w with
  | 0 => if field 8 5 w = 1 ∧ field 6 19 w = 0 ∧ field 1 31 w = 0 then some (.jr (fieldBits 6 13 w)) else none
  | 1 => if field 8 5 w = 1 ∧ field 1 31 w = 0 then some (.jalr (fieldBits 6 19 w) (fieldBits 6 13 w)) else none
  | _ => none

/-- Major 0x1D. -/
def decodeBar (w : Nat) : Option Instr :=
  match field 5 8 w with
  | 0 => if field 8 0 w = 0 ∧ field 12 13 w = 0 ∧ field 1 31 w = 0 then some .barG else none
  | 1 => if field 12 13 w = 0 ∧ field 1 31 w = 0 then some (.barS (fieldBits 4 4 w) (fieldBits 4 0 w)) else none
  | _ => none

/-- Major 0x22. -/
def decodeLdt (w : Nat) : Option Instr :=
  match field 2 0 w with
  | 0 => some (.ldt (fieldBits 1 31 w) (fieldBits 6 19 w) (fieldBits 5 14 w) (fieldBits 6 8 w) (fieldBits 6 2 w))
  | 1 => some (.ldtWf (fieldBits 1 31 w) (fieldBits 6 19 w) (fieldBits 5 14 w) (fieldBits 6 8 w) (fieldBits 6 2 w))
  | 2 => some (.ldtWfe (fieldBits 1 31 w) (fieldBits 6 19 w) (fieldBits 5 14 w) (fieldBits 6 8 w) (fieldBits 6 2 w))
  | _ => none

/-- Major 0x23. -/
def decodeStt (w : Nat) : Option Instr :=
  match field 2 0 w with
  | 0 => some (.stt (fieldBits 1 31 w) (fieldBits 6 19 w) (fieldBits 5 14 w) (fieldBits 6 8 w) (fieldBits 6 2 w))
  | 1 => some (.sttWe (fieldBits 1 31 w) (fieldBits 6 19 w) (fieldBits 5 14 w) (fieldBits 6 8 w) (fieldBits 6 2 w))
  | 2 => some (.sttRaw (fieldBits 1 31 w) (fieldBits 6 19 w) (fieldBits 5 14 w) (fieldBits 6 8 w) (fieldBits 6 2 w))
  | _ => none

/-- Major 0x2A. -/
def decodeFut (w : Nat) : Option Instr :=
  match field 5 0 w with
  | 0 => if field 2 5 w = 0 then some (.ldFut (fieldBits 1 31 w) (fieldBits 6 19 w) (fieldBits 6 13 w) (fieldBits 6 7 w)) else none
  | 1 => if field 2 5 w = 0 ∧ field 6 19 w = 0 then some (.stFut (fieldBits 1 31 w) (fieldBits 6 13 w) (fieldBits 6 7 w)) else none
  | 2 => if field 8 5 w = 0 ∧ field 6 19 w = 0 then some (.clrFut (fieldBits 1 31 w) (fieldBits 6 13 w)) else none
  | _ => none

/-- Major 0x2B. -/
def decodeTile (w : Nat) : Option Instr :=
  match field 5 0 w with
  | 0 => if field 3 5 w = 0 then some (.talloc (fieldBits 1 31 w) (fieldBits 6 19 w) (fieldBits 5 14 w) (fieldBits 6 8 w)) else none
  | 1 => if field 9 5 w = 0 then some (.tfree (fieldBits 1 31 w) (fieldBits 6 19 w) (fieldBits 5 14 w)) else none
  | 2 => if field 3 5 w = 0 then some (.tbind (fieldBits 1 31 w) (fieldBits 6 19 w) (fieldBits 5 14 w) (fieldBits 6 8 w)) else none
  | 3 => if field 9 5 w = 0 then some (.tflush (fieldBits 1 31 w) (fieldBits 6 19 w) (fieldBits 5 14 w)) else none
  | 4 => if field 3 5 w = 0 then some (.tring (fieldBits 1 31 w) (fieldBits 6 19 w) (fieldBits 5 14 w) (fieldBits 6 8 w)) else none
  | 5 => if field 3 5 w = 0 then some (.tsetfe (fieldBits 1 31 w) (fieldBits 6 19 w) (fieldBits 5 14 w) (fieldBits 6 8 w)) else none
  | 6 => if field 3 5 w = 0 then some (.tarrt (fieldBits 1 31 w) (fieldBits 6 19 w) (fieldBits 5 14 w) (fieldBits 6 8 w)) else none
  | 7 => if field 3 5 w = 0 then some (.waita (fieldBits 1 31 w) (fieldBits 6 19 w) (fieldBits 5 14 w) (fieldBits 6 8 w)) else none
  | 8 => if field 3 5 w = 0 then some (.tinfo (fieldBits 1 31 w) (fieldBits 6 19 w) (fieldBits 5 14 w) (fieldBits 6 8 w)) else none
  | 9 => if field 3 5 w = 0 then some (.racq (fieldBits 1 31 w) (fieldBits 6 19 w) (fieldBits 5 14 w) (fieldBits 6 8 w)) else none
  | 10 => if field 3 5 w = 0 then some (.rrel (fieldBits 1 31 w) (fieldBits 6 19 w) (fieldBits 5 14 w) (fieldBits 6 8 w)) else none
  | _ => none

/-- Major 0x2C. -/
def decodeTidt (w : Nat) : Option Instr :=
  match field 3 0 w with
  | 0 => if field 8 3 w = 0 then some (.tidset (fieldBits 1 31 w) (fieldBits 6 19 w) (fieldBits 8 11 w)) else none
  | 1 => if field 8 3 w = 0 then some (.tidget (fieldBits 1 31 w) (fieldBits 6 19 w) (fieldBits 8 11 w)) else none
  | _ => none

/-- Major 0x2D. -/
def decodeCopy (w : Nat) : Option Instr :=
  match field 3 0 w with
  | 0 => some (.copy (fieldBits 1 31 w) (fieldBits 6 19 w) (fieldBits 8 11 w) (fieldBits 8 3 w))
  | 1 => if field 8 3 w = 0 then some (.copyTl (fieldBits 1 31 w) (fieldBits 6 19 w) (fieldBits 8 11 w)) else none
  | 2 => if field 8 3 w = 0 then some (.copyLt (fieldBits 1 31 w) (fieldBits 6 19 w) (fieldBits 8 11 w)) else none
  | 3 => some (.gather (fieldBits 1 31 w) (fieldBits 6 19 w) (fieldBits 8 11 w) (fieldBits 8 3 w))
  | 4 => some (.scatter (fieldBits 1 31 w) (fieldBits 6 19 w) (fieldBits 8 11 w) (fieldBits 8 3 w))
  | _ => none

/-- Major 0x2E. -/
def decodeMx (w : Nat) : Option Instr :=
  match field 3 0 w with
  | 0 => if field 16 3 w = 0 then some (.mloop (fieldBits 1 31 w) (fieldBits 6 19 w)) else none
  | 1 => if field 8 3 w = 0 then some (.mdrain (fieldBits 1 31 w) (fieldBits 6 19 w) (fieldBits 8 11 w)) else none
  | 2 => if field 16 3 w = 0 then some (.mzero (fieldBits 1 31 w) (fieldBits 6 19 w)) else none
  | 3 => if field 22 3 w = 0 then some (.take (fieldBits 1 31 w)) else none
  | 4 => if field 22 3 w = 0 then some (.pass (fieldBits 1 31 w)) else none
  | 5 => if field 22 3 w = 0 then some (.mwait (fieldBits 1 31 w)) else none
  | _ => none

/-- Major 0x2F. -/
def decodeAmax (w : Nat) : Option Instr :=
  match field 5 0 w with
  | 0 => if field 6 19 w = 0 then some (.amax (fieldBits 1 31 w) (fieldBits 6 13 w) (fieldBits 6 7 w) (fieldBits 2 5 w)) else none
  | 1 => if field 6 7 w = 0 then some (.amaxrs (fieldBits 1 31 w) (fieldBits 6 19 w) (fieldBits 6 13 w) (fieldBits 2 5 w)) else none
  | _ => none

/-- Major 0x30. -/
def decodeFld (w : Nat) : Option Instr :=
  match field 5 5 w with
  | 0 => if field 5 0 w = 0 then some (.vbind (fieldBits 1 31 w) (fieldBits 6 19 w) (fieldBits 6 13 w) (fieldBits 3 10 w)) else none
  | 1 => if field 5 0 w = 0 then some (.vld (fieldBits 1 31 w) (fieldBits 6 19 w) (fieldBits 6 13 w) (fieldBits 3 10 w)) else none
  | 2 => if field 5 0 w = 0 then some (.vsten7 (fieldBits 1 31 w) (fieldBits 6 19 w) (fieldBits 6 13 w) (fieldBits 3 10 w)) else none
  | 3 => if field 5 0 w = 0 then some (.vsamp (fieldBits 1 31 w) (fieldBits 6 19 w) (fieldBits 6 13 w) (fieldBits 3 10 w)) else none
  | 4 => if field 5 0 w = 0 then some (.vray (fieldBits 1 31 w) (fieldBits 6 19 w) (fieldBits 6 13 w) (fieldBits 3 10 w)) else none
  | 5 => if field 5 0 w = 0 ∧ field 6 13 w = 0 then some (.vleaf (fieldBits 1 31 w) (fieldBits 6 19 w) (fieldBits 3 10 w)) else none
  | 6 => if field 5 0 w = 0 then some (.vins (fieldBits 1 31 w) (fieldBits 6 19 w) (fieldBits 6 13 w) (fieldBits 3 10 w)) else none
  | 7 => if field 5 0 w = 0 then some (.vdel (fieldBits 1 31 w) (fieldBits 6 19 w) (fieldBits 6 13 w) (fieldBits 3 10 w)) else none
  | 8 => if field 5 0 w = 0 then some (.vactClr (fieldBits 1 31 w) (fieldBits 6 19 w) (fieldBits 6 13 w) (fieldBits 3 10 w)) else if field 5 0 w = 1 then some (.vactSet (fieldBits 1 31 w) (fieldBits 6 19 w) (fieldBits 6 13 w) (fieldBits 3 10 w)) else none
  | 9 => if field 5 0 w = 0 then some (.vst (fieldBits 1 31 w) (fieldBits 6 19 w) (fieldBits 6 13 w) (fieldBits 3 10 w)) else none
  | _ => none

/-- Major 0x31. -/
def decodeHsh (w : Nat) : Option Instr :=
  match field 5 5 w with
  | 0 => if field 5 0 w = 0 ∧ field 1 12 w = 0 then some (.hbind (fieldBits 1 31 w) (fieldBits 6 19 w) (fieldBits 6 13 w) (fieldBits 2 10 w)) else none
  | 1 => if field 1 4 w = 0 ∧ field 1 12 w = 0 then some (.hgrid (fieldBits 1 31 w) (fieldBits 6 19 w) (fieldBits 6 13 w) (fieldBits 2 10 w) (fieldBits 4 0 w)) else none
  | 2 => if field 1 4 w = 0 ∧ field 1 12 w = 0 then some (.hgrad (fieldBits 1 31 w) (fieldBits 6 19 w) (fieldBits 6 13 w) (fieldBits 2 10 w) (fieldBits 4 0 w)) else none
  | 3 => if field 1 4 w = 0 ∧ field 1 12 w = 0 then some (.hgradd (fieldBits 1 31 w) (fieldBits 6 19 w) (fieldBits 6 13 w) (fieldBits 2 10 w) (fieldBits 4 0 w)) else none
  | _ => none

/-- Major 0x32. -/
def decodeGraph (w : Nat) : Option Instr :=
  match field 3 0 w with
  | 0 => if field 8 3 w = 0 then some (.enq (fieldBits 1 31 w) (fieldBits 6 19 w) (fieldBits 8 11 w)) else none
  | 1 => if field 8 3 w = 0 then some (.commit (fieldBits 1 31 w) (fieldBits 6 19 w) (fieldBits 8 11 w)) else none
  | 2 => if field 16 3 w = 0 then some (.result (fieldBits 1 31 w) (fieldBits 6 19 w)) else none
  | 3 => if field 16 3 w = 0 then some (.launch (fieldBits 1 31 w) (fieldBits 6 19 w)) else none
  | _ => none

/-- Major 0x33. -/
def decodeColl (w : Nat) : Option Instr :=
  match field 3 0 w with
  | 0 => some (.coll (fieldBits 1 31 w) (fieldBits 6 19 w) (fieldBits 8 11 w) (fieldBits 8 3 w))
  | 1 => if field 16 3 w = 0 then some (.halo (fieldBits 1 31 w) (fieldBits 6 19 w)) else none
  | 2 => if field 16 3 w = 0 then some (.step (fieldBits 1 31 w) (fieldBits 6 19 w)) else none
  | 3 => if field 16 3 w = 0 then some (.stepwait (fieldBits 1 31 w) (fieldBits 6 19 w)) else none
  | _ => none

/-- Major 0x34. -/
def decodeTnd (w : Nat) : Option Instr :=
  match field 5 8 w with
  | 0 => if field 8 0 w = 0 ∧ field 12 13 w = 0 ∧ field 1 31 w = 0 then some .tbegin else none
  | 1 => if field 8 0 w = 0 ∧ field 12 13 w = 0 ∧ field 1 31 w = 0 then some .tchk else none
  | 2 => if field 8 0 w = 0 ∧ field 12 13 w = 0 ∧ field 1 31 w = 0 then some .tend else none
  | _ => none

/-- The instruction whose codes and zero fields a word has, by its major (R47). -/
def decodeRaw (w : Nat) : Option Instr :=
  match field 6 25 w with
  | 0x00 => decodeSys w
  | 0x01 => decodeIop w
  | 0x02 => some (.iaddi (fieldBits 1 31 w) (fieldBits 6 19 w) (fieldBits 6 13 w) (fieldBits 13 0 w))
  | 0x03 => some (.andi (fieldBits 1 31 w) (fieldBits 6 19 w) (fieldBits 6 13 w) (fieldBits 13 0 w))
  | 0x04 => some (.ori (fieldBits 1 31 w) (fieldBits 6 19 w) (fieldBits 6 13 w) (fieldBits 13 0 w))
  | 0x05 => some (.xori (fieldBits 1 31 w) (fieldBits 6 19 w) (fieldBits 6 13 w) (fieldBits 13 0 w))
  | 0x06 => decodeShi w
  | 0x07 => decodeBitf w
  | 0x08 => some (.li (fieldBits 1 31 w) (fieldBits 6 19 w) (fieldBits 19 0 w))
  | 0x09 => some (.lih (fieldBits 1 31 w) (fieldBits 6 19 w) (fieldBits 19 0 w))
  | 0x0A => decodeImad w
  | 0x0B => if field 3 22 w = 0 then some (.icmp (fieldBits 1 31 w) (fieldBits 3 19 w) (fieldBits 6 13 w) (fieldBits 6 7 w) (fieldBits 2 5 w) (fieldBits 5 0 w)) else none
  | 0x0C => decodePred w
  | 0x0D => if field 1 4 w = 0 then some (.sel (fieldBits 1 31 w) (fieldBits 6 19 w) (fieldBits 6 13 w) (fieldBits 6 7 w) (fieldBits 2 5 w) (fieldBits 1 3 w) (fieldBits 3 0 w)) else none
  | 0x0E => decodeSysv w
  | 0x0F => decodeUni w
  | 0x10 => decodeFop w
  | 0x11 => decodeFfma w
  | 0x12 => decodeFcmp w
  | 0x13 => decodeHop w
  | 0x14 => decodeHfma2 w
  | 0x15 => if field 4 5 w = 0 then some (.cvt (fieldBits 1 31 w) (fieldBits 6 19 w) (fieldBits 6 13 w) (fieldBits 3 10 w) (fieldBits 1 9 w) (fieldBits 5 0 w)) else none
  | 0x16 => decodeSfu w
  | 0x17 => decodeRand w
  | 0x18 => decodeProp w
  | 0x19 => decodeXch w
  | 0x1A => if field 1 31 w = 0 then some (.bra (fieldBits 3 22 w) (fieldBits 1 21 w) (fieldBits 21 0 w)) else none
  | 0x1B => if field 1 31 w = 0 then some (.call (fieldBits 6 19 w) (fieldBits 19 0 w)) else none
  | 0x1C => decodeJr w
  | 0x1D => decodeBar w
  | 0x20 => some (.ld (fieldBits 1 31 w) (fieldBits 6 19 w) (fieldBits 6 13 w) (fieldBits 3 10 w) (fieldBits 2 8 w) (fieldBits 8 0 w))
  | 0x21 => some (.st (fieldBits 1 31 w) (fieldBits 6 19 w) (fieldBits 6 13 w) (fieldBits 3 10 w) (fieldBits 2 8 w) (fieldBits 8 0 w))
  | 0x22 => decodeLdt w
  | 0x23 => decodeStt w
  | 0x24 => some (.atom (fieldBits 1 31 w) (fieldBits 6 19 w) (fieldBits 6 13 w) (fieldBits 6 7 w) (fieldBits 2 5 w) (fieldBits 5 0 w))
  | 0x25 => if field 4 0 w = 0 then some (.cas (fieldBits 1 31 w) (fieldBits 6 19 w) (fieldBits 6 13 w) (fieldBits 6 7 w) (fieldBits 2 5 w) (fieldBits 1 4 w)) else none
  | 0x26 => if field 6 19 w = 0 then some (.red (fieldBits 1 31 w) (fieldBits 6 13 w) (fieldBits 6 7 w) (fieldBits 2 5 w) (fieldBits 5 0 w)) else none
  | 0x27 => if field 10 0 w = 0 then some (.fence (fieldBits 1 31 w) (fieldBits 3 22 w) (fieldBits 6 16 w) (fieldBits 6 10 w)) else none
  | 0x28 => if field 9 0 w = 0 ∧ field 1 31 w = 0 then some (.wait (fieldBits 4 21 w) (fieldBits 4 17 w) (fieldBits 4 13 w) (fieldBits 4 9 w)) else none
  | 0x29 => if field 3 0 w = 0 then some (.waitu (fieldBits 1 31 w) (fieldBits 6 19 w) (fieldBits 6 13 w) (fieldBits 6 7 w) (fieldBits 3 4 w) (fieldBits 1 3 w)) else none
  | 0x2A => decodeFut w
  | 0x2B => decodeTile w
  | 0x2C => decodeTidt w
  | 0x2D => decodeCopy w
  | 0x2E => decodeMx w
  | 0x2F => decodeAmax w
  | 0x30 => decodeFld w
  | 0x31 => decodeHsh w
  | 0x32 => decodeGraph w
  | 0x33 => decodeColl w
  | 0x34 => decodeTnd w
  | 0x35 => if field 19 0 w = 0 ∧ field 1 31 w = 0 then some (.errq (fieldBits 6 19 w)) else none
  | _ => none

/-- The decoder: what is not an instruction under R47 to R69 gives none. -/
def decode (w : Nat) : Option Instr := (decodeRaw w).filter Instr.wellFormed

/-- A word from its bytes, the lowest address first (R4). -/
def wordOfBytes : List Byte → Nat
  | [] => 0
  | b :: bs => b.toNat + 256 * wordOfBytes bs

/-- The bytes of a word, the lowest address first (R4). -/
def bytesOfWord : Nat → Nat → List Byte
  | 0, _ => []
  | n + 1, w => BitVec.ofNat 8 w :: bytesOfWord n (w / 256)

/-- Decodes the four bytes of a word. -/
def decodeBytes (bs : List Byte) : Option Instr := if bs.length = 4 then decode (wordOfBytes bs) else none

/-- The instruction read from a word whose bits are numbered as the opcode table numbers them. Every
encoding of the table is one word of 32 bits (R35). -/
def decodeTableWord (nbits w : Nat) : Option Instr :=
  if nbits = 32 then decodeBytes (bytesOfWord 4 w) else none

/-- The word of an instruction (R46-R68). The steps of other agents have no encoding. -/
def encode : Instr → Nat
  | .nop => 0x00000000
  | .exit => 0x00000100
  | .trap a n => 0x00000200 + a.toNat * 8192 + n.toNat
  | .brk n => 0x00000300 + n.toNat
  | .yield => 0x00000400
  | .setrm m => 0x00000500 + m.toNat
  | .getflg d => 0x00000600 + d.toNat * 524288
  | .clrflg m => 0x00000700 + m.toNat
  | .iadd c d a b w => 0x02000000 + c.toNat * 2147483648 + d.toNat * 524288 + a.toNat * 8192 + b.toNat * 128 + w.toNat * 32
  | .isub c d a b w => 0x02000001 + c.toNat * 2147483648 + d.toNat * 524288 + a.toNat * 8192 + b.toNat * 128 + w.toNat * 32
  | .imin c d a b => 0x02000002 + c.toNat * 2147483648 + d.toNat * 524288 + a.toNat * 8192 + b.toNat * 128
  | .imax c d a b => 0x02000003 + c.toNat * 2147483648 + d.toNat * 524288 + a.toNat * 8192 + b.toNat * 128
  | .iminu c d a b => 0x02000004 + c.toNat * 2147483648 + d.toNat * 524288 + a.toNat * 8192 + b.toNat * 128
  | .imaxu c d a b => 0x02000005 + c.toNat * 2147483648 + d.toNat * 524288 + a.toNat * 8192 + b.toNat * 128
  | .and c d a b w => 0x02000006 + c.toNat * 2147483648 + d.toNat * 524288 + a.toNat * 8192 + b.toNat * 128 + w.toNat * 32
  | .or c d a b w => 0x02000007 + c.toNat * 2147483648 + d.toNat * 524288 + a.toNat * 8192 + b.toNat * 128 + w.toNat * 32
  | .xor c d a b w => 0x02000008 + c.toNat * 2147483648 + d.toNat * 524288 + a.toNat * 8192 + b.toNat * 128 + w.toNat * 32
  | .andn c d a b => 0x02000009 + c.toNat * 2147483648 + d.toNat * 524288 + a.toNat * 8192 + b.toNat * 128
  | .shl c d a b w => 0x0200000A + c.toNat * 2147483648 + d.toNat * 524288 + a.toNat * 8192 + b.toNat * 128 + w.toNat * 32
  | .shr c d a b w => 0x0200000B + c.toNat * 2147483648 + d.toNat * 524288 + a.toNat * 8192 + b.toNat * 128 + w.toNat * 32
  | .sar c d a b w => 0x0200000C + c.toNat * 2147483648 + d.toNat * 524288 + a.toNat * 8192 + b.toNat * 128 + w.toNat * 32
  | .rotl c d a b => 0x0200000D + c.toNat * 2147483648 + d.toNat * 524288 + a.toNat * 8192 + b.toNat * 128
  | .imullo c d a b w => 0x0200000E + c.toNat * 2147483648 + d.toNat * 524288 + a.toNat * 8192 + b.toNat * 128 + w.toNat * 32
  | .imulhi c d a b => 0x0200000F + c.toNat * 2147483648 + d.toNat * 524288 + a.toNat * 8192 + b.toNat * 128
  | .imulhiu c d a b => 0x02000010 + c.toNat * 2147483648 + d.toNat * 524288 + a.toNat * 8192 + b.toNat * 128
  | .popc c d a => 0x02000011 + c.toNat * 2147483648 + d.toNat * 524288 + a.toNat * 8192
  | .clz c d a => 0x02000012 + c.toNat * 2147483648 + d.toNat * 524288 + a.toNat * 8192
  | .brev c d a => 0x02000013 + c.toNat * 2147483648 + d.toNat * 524288 + a.toNat * 8192
  | .iabs c d a => 0x02000014 + c.toNat * 2147483648 + d.toNat * 524288 + a.toNat * 8192
  | .bpick c d a b => 0x02000015 + c.toNat * 2147483648 + d.toNat * 524288 + a.toNat * 8192 + b.toNat * 128
  | .iaddsat c d a b => 0x02000016 + c.toNat * 2147483648 + d.toNat * 524288 + a.toNat * 8192 + b.toNat * 128
  | .isubsat c d a b => 0x02000017 + c.toNat * 2147483648 + d.toNat * 524288 + a.toNat * 8192 + b.toNat * 128
  | .iaddi c d a i => 0x04000000 + c.toNat * 2147483648 + d.toNat * 524288 + a.toNat * 8192 + i.toNat
  | .andi c d a i => 0x06000000 + c.toNat * 2147483648 + d.toNat * 524288 + a.toNat * 8192 + i.toNat
  | .ori c d a i => 0x08000000 + c.toNat * 2147483648 + d.toNat * 524288 + a.toNat * 8192 + i.toNat
  | .xori c d a i => 0x0A000000 + c.toNat * 2147483648 + d.toNat * 524288 + a.toNat * 8192 + i.toNat
  | .shiShl c d a n => 0x0C000000 + c.toNat * 2147483648 + d.toNat * 524288 + a.toNat * 8192 + n.toNat
  | .shiShr c d a n => 0x0C000800 + c.toNat * 2147483648 + d.toNat * 524288 + a.toNat * 8192 + n.toNat
  | .shiSar c d a n => 0x0C001000 + c.toNat * 2147483648 + d.toNat * 524288 + a.toNat * 8192 + n.toNat
  | .shiRotl c d a n => 0x0C001800 + c.toNat * 2147483648 + d.toNat * 524288 + a.toNat * 8192 + n.toNat
  | .bitfBfx c d a l p => 0x0E000000 + c.toNat * 2147483648 + d.toNat * 524288 + a.toNat * 8192 + l.toNat * 32 + p.toNat
  | .bitfBfxs c d a l p => 0x0E000800 + c.toNat * 2147483648 + d.toNat * 524288 + a.toNat * 8192 + l.toNat * 32 + p.toNat
  | .bitfBfi c d a l p => 0x0E001000 + c.toNat * 2147483648 + d.toNat * 524288 + a.toNat * 8192 + l.toNat * 32 + p.toNat
  | .li c d i => 0x10000000 + c.toNat * 2147483648 + d.toNat * 524288 + i.toNat
  | .lih c d i => 0x12000000 + c.toNat * 2147483648 + d.toNat * 524288 + i.toNat
  | .imad c d a b e => 0x14000000 + c.toNat * 2147483648 + d.toNat * 524288 + a.toNat * 8192 + b.toNat * 128 + e.toNat * 2
  | .imadW c d a b e => 0x14000001 + c.toNat * 2147483648 + d.toNat * 524288 + a.toNat * 8192 + b.toNat * 128 + e.toNat * 2
  | .icmp c p a b w f => 0x16000000 + c.toNat * 2147483648 + p.toNat * 524288 + a.toNat * 8192 + b.toNat * 128 + w.toNat * 32 + f.toNat
  | .pand c d a b => 0x18000000 + c.toNat * 2147483648 + d.toNat * 524288 + a.toNat * 8192 + b.toNat * 128
  | .por c d a b => 0x18000001 + c.toNat * 2147483648 + d.toNat * 524288 + a.toNat * 8192 + b.toNat * 128
  | .pxor c d a b => 0x18000002 + c.toNat * 2147483648 + d.toNat * 524288 + a.toNat * 8192 + b.toNat * 128
  | .pnot c d a => 0x18000003 + c.toNat * 2147483648 + d.toNat * 524288 + a.toNat * 8192
  | .p2w c d => 0x18000004 + c.toNat * 2147483648 + d.toNat * 524288
  | .w2p c a => 0x18000005 + c.toNat * 2147483648 + a.toNat * 8192
  | .sel c d a b w n p => 0x1A000000 + c.toNat * 2147483648 + d.toNat * 524288 + a.toNat * 8192 + b.toNat * 128 + w.toNat * 32 + n.toNat * 8 + p.toNat
  | .sysv c d s => 0x1C000000 + c.toNat * 2147483648 + d.toNat * 524288 + s.toNat * 256
  | .locq c d a => 0x1C000C00 + c.toNat * 2147483648 + d.toNat * 524288 + a.toNat * 8192
  | .uget c d a => 0x1E000000 + c.toNat * 2147483648 + d.toNat * 524288 + a.toNat * 8192
  | .uset c d a => 0x1E000100 + c.toNat * 2147483648 + d.toNat * 524288 + a.toNat * 8192
  | .fadd c d a b => 0x20000000 + c.toNat * 2147483648 + d.toNat * 524288 + a.toNat * 8192 + b.toNat * 128
  | .dadd c d a b => 0x20000020 + c.toNat * 2147483648 + d.toNat * 524288 + a.toNat * 8192 + b.toNat * 128
  | .fsub c d a b => 0x20000001 + c.toNat * 2147483648 + d.toNat * 524288 + a.toNat * 8192 + b.toNat * 128
  | .dsub c d a b => 0x20000021 + c.toNat * 2147483648 + d.toNat * 524288 + a.toNat * 8192 + b.toNat * 128
  | .fmul c d a b => 0x20000002 + c.toNat * 2147483648 + d.toNat * 524288 + a.toNat * 8192 + b.toNat * 128
  | .dmul c d a b => 0x20000022 + c.toNat * 2147483648 + d.toNat * 524288 + a.toNat * 8192 + b.toNat * 128
  | .fmin c d a b => 0x20000003 + c.toNat * 2147483648 + d.toNat * 524288 + a.toNat * 8192 + b.toNat * 128
  | .dmin c d a b => 0x20000023 + c.toNat * 2147483648 + d.toNat * 524288 + a.toNat * 8192 + b.toNat * 128
  | .fmax c d a b => 0x20000004 + c.toNat * 2147483648 + d.toNat * 524288 + a.toNat * 8192 + b.toNat * 128
  | .dmax c d a b => 0x20000024 + c.toNat * 2147483648 + d.toNat * 524288 + a.toNat * 8192 + b.toNat * 128
  | .fminm c d a b => 0x20000005 + c.toNat * 2147483648 + d.toNat * 524288 + a.toNat * 8192 + b.toNat * 128
  | .dminm c d a b => 0x20000025 + c.toNat * 2147483648 + d.toNat * 524288 + a.toNat * 8192 + b.toNat * 128
  | .fmaxm c d a b => 0x20000006 + c.toNat * 2147483648 + d.toNat * 524288 + a.toNat * 8192 + b.toNat * 128
  | .dmaxm c d a b => 0x20000026 + c.toNat * 2147483648 + d.toNat * 524288 + a.toNat * 8192 + b.toNat * 128
  | .fabs c d a => 0x20000007 + c.toNat * 2147483648 + d.toNat * 524288 + a.toNat * 8192
  | .dabs c d a => 0x20000027 + c.toNat * 2147483648 + d.toNat * 524288 + a.toNat * 8192
  | .fneg c d a => 0x20000008 + c.toNat * 2147483648 + d.toNat * 524288 + a.toNat * 8192
  | .dneg c d a => 0x20000028 + c.toNat * 2147483648 + d.toNat * 524288 + a.toNat * 8192
  | .fcpys c d a b => 0x20000009 + c.toNat * 2147483648 + d.toNat * 524288 + a.toNat * 8192 + b.toNat * 128
  | .dcpys c d a b => 0x20000029 + c.toNat * 2147483648 + d.toNat * 524288 + a.toNat * 8192 + b.toNat * 128
  | .frnd c d a r => 0x2000000A + c.toNat * 2147483648 + d.toNat * 524288 + a.toNat * 8192 + r.toNat * 1024
  | .drnd c d a r => 0x2000002A + c.toNat * 2147483648 + d.toNat * 524288 + a.toNat * 8192 + r.toNat * 1024
  | .fclass c d a => 0x2000000B + c.toNat * 2147483648 + d.toNat * 524288 + a.toNat * 8192
  | .dclass c d a => 0x2000002B + c.toNat * 2147483648 + d.toNat * 524288 + a.toNat * 8192
  | .fscale c d a b => 0x2000000C + c.toNat * 2147483648 + d.toNat * 524288 + a.toNat * 8192 + b.toNat * 128
  | .dscale c d a b => 0x2000002C + c.toNat * 2147483648 + d.toNat * 524288 + a.toNat * 8192 + b.toNat * 128
  | .ffma c d a b e => 0x22000000 + c.toNat * 2147483648 + d.toNat * 524288 + a.toNat * 8192 + b.toNat * 128 + e.toNat * 2
  | .dfma c d a b e => 0x22000001 + c.toNat * 2147483648 + d.toNat * 524288 + a.toNat * 8192 + b.toNat * 128 + e.toNat * 2
  | .fcmp c p a b f => 0x24000000 + c.toNat * 2147483648 + p.toNat * 524288 + a.toNat * 8192 + b.toNat * 128 + f.toNat
  | .dcmp c p a b f => 0x24000020 + c.toNat * 2147483648 + p.toNat * 524288 + a.toNat * 8192 + b.toNat * 128 + f.toNat
  | .hadd2 c d a b => 0x26000000 + c.toNat * 2147483648 + d.toNat * 524288 + a.toNat * 8192 + b.toNat * 128
  | .hsub2 c d a b => 0x26000001 + c.toNat * 2147483648 + d.toNat * 524288 + a.toNat * 8192 + b.toNat * 128
  | .hmul2 c d a b => 0x26000002 + c.toNat * 2147483648 + d.toNat * 524288 + a.toNat * 8192 + b.toNat * 128
  | .hmin2 c d a b => 0x26000003 + c.toNat * 2147483648 + d.toNat * 524288 + a.toNat * 8192 + b.toNat * 128
  | .hmax2 c d a b => 0x26000004 + c.toNat * 2147483648 + d.toNat * 524288 + a.toNat * 8192 + b.toNat * 128
  | .badd2 c d a b => 0x26000010 + c.toNat * 2147483648 + d.toNat * 524288 + a.toNat * 8192 + b.toNat * 128
  | .bsub2 c d a b => 0x26000011 + c.toNat * 2147483648 + d.toNat * 524288 + a.toNat * 8192 + b.toNat * 128
  | .bmul2 c d a b => 0x26000012 + c.toNat * 2147483648 + d.toNat * 524288 + a.toNat * 8192 + b.toNat * 128
  | .bmin2 c d a b => 0x26000013 + c.toNat * 2147483648 + d.toNat * 524288 + a.toNat * 8192 + b.toNat * 128
  | .bmax2 c d a b => 0x26000014 + c.toNat * 2147483648 + d.toNat * 524288 + a.toNat * 8192 + b.toNat * 128
  | .hfma2 c d a b e => 0x28000000 + c.toNat * 2147483648 + d.toNat * 524288 + a.toNat * 8192 + b.toNat * 128 + e.toNat * 2
  | .bfma2 c d a b e => 0x28000001 + c.toNat * 2147483648 + d.toNat * 524288 + a.toNat * 8192 + b.toNat * 128 + e.toNat * 2
  | .cvt c d a r s k => 0x2A000000 + c.toNat * 2147483648 + d.toNat * 524288 + a.toNat * 8192 + r.toNat * 1024 + s.toNat * 512 + k.toNat
  | .rcp c d a w => 0x2C000000 + c.toNat * 2147483648 + d.toNat * 524288 + a.toNat * 8192 + w.toNat * 32
  | .rsq c d a => 0x2C000001 + c.toNat * 2147483648 + d.toNat * 524288 + a.toNat * 8192
  | .sqrt c d a w => 0x2C000002 + c.toNat * 2147483648 + d.toNat * 524288 + a.toNat * 8192 + w.toNat * 32
  | .div c d a b w => 0x2C000003 + c.toNat * 2147483648 + d.toNat * 524288 + a.toNat * 8192 + b.toNat * 128 + w.toNat * 32
  | .exp2 c d a => 0x2C000004 + c.toNat * 2147483648 + d.toNat * 524288 + a.toNat * 8192
  | .log2 c d a => 0x2C000005 + c.toNat * 2147483648 + d.toNat * 524288 + a.toNat * 8192
  | .sin c d a => 0x2C000006 + c.toNat * 2147483648 + d.toNat * 524288 + a.toNat * 8192
  | .cos c d a => 0x2C000007 + c.toNat * 2147483648 + d.toNat * 524288 + a.toNat * 8192
  | .sincos c d a => 0x2C000008 + c.toNat * 2147483648 + d.toNat * 524288 + a.toNat * 8192
  | .sinpi c d a => 0x2C000009 + c.toNat * 2147483648 + d.toNat * 524288 + a.toNat * 8192
  | .cospi c d a => 0x2C00000A + c.toNat * 2147483648 + d.toNat * 524288 + a.toNat * 8192
  | .tanh c d a => 0x2C00000B + c.toNat * 2147483648 + d.toNat * 524288 + a.toNat * 8192
  | .rand c d => 0x2E000000 + c.toNat * 2147483648 + d.toNat * 524288
  | .randu c d => 0x2E000001 + c.toNat * 2147483648 + d.toNat * 524288
  | .propose c => 0x30000000 + c.toNat * 2147483648
  | .accept c d a => 0x30000100 + c.toNat * 2147483648 + d.toNat * 524288 + a.toNat * 8192
  | .discard c => 0x30000200 + c.toNat * 2147483648
  | .pseed c a => 0x30000300 + c.toNat * 2147483648 + a.toNat * 8192
  | .pcnt c d => 0x30000400 + c.toNat * 2147483648 + d.toNat * 524288
  | .pcntClr c d => 0x30000401 + c.toNat * 2147483648 + d.toNat * 524288
  | .xchPair c d a => 0x32000000 + c.toNat * 2147483648 + d.toNat * 524288 + a.toNat * 8192
  | .xchQx1 c d a => 0x32000001 + c.toNat * 2147483648 + d.toNat * 524288 + a.toNat * 8192
  | .xchQx2 c d a => 0x32000002 + c.toNat * 2147483648 + d.toNat * 524288 + a.toNat * 8192
  | .shfl c d a b => 0x32000003 + c.toNat * 2147483648 + d.toNat * 524288 + a.toNat * 8192 + b.toNat * 128
  | .shflx c d a b => 0x32000004 + c.toNat * 2147483648 + d.toNat * 524288 + a.toNat * 8192 + b.toNat * 128
  | .voteany c d a => 0x32000005 + c.toNat * 2147483648 + d.toNat * 524288 + a.toNat * 8192
  | .voteall c d a => 0x32000006 + c.toNat * 2147483648 + d.toNat * 524288 + a.toNat * 8192
  | .ballot c d a => 0x32000007 + c.toNat * 2147483648 + d.toNat * 524288 + a.toNat * 8192
  | .redadd c d a => 0x32000008 + c.toNat * 2147483648 + d.toNat * 524288 + a.toNat * 8192
  | .redmin c d a => 0x32000009 + c.toNat * 2147483648 + d.toNat * 524288 + a.toNat * 8192
  | .redmax c d a => 0x3200000A + c.toNat * 2147483648 + d.toNat * 524288 + a.toNat * 8192
  | .bra p n o => 0x34000000 + p.toNat * 4194304 + n.toNat * 2097152 + o.toNat
  | .call d i => 0x36000000 + d.toNat * 524288 + i.toNat
  | .jr a => 0x38000020 + a.toNat * 8192
  | .jalr d a => 0x38000021 + d.toNat * 524288 + a.toNat * 8192
  | .barG => 0x3A000000
  | .barS w h => 0x3A000100 + w.toNat * 16 + h.toNat
  | .ld c d a z p o => 0x40000000 + c.toNat * 2147483648 + d.toNat * 524288 + a.toNat * 8192 + z.toNat * 1024 + p.toNat * 256 + o.toNat
  | .st c d a z p o => 0x42000000 + c.toNat * 2147483648 + d.toNat * 524288 + a.toNat * 8192 + z.toNat * 1024 + p.toNat * 256 + o.toNat
  | .ldt c d h a b => 0x44000000 + c.toNat * 2147483648 + d.toNat * 524288 + h.toNat * 16384 + a.toNat * 256 + b.toNat * 4
  | .ldtWf c d h a b => 0x44000001 + c.toNat * 2147483648 + d.toNat * 524288 + h.toNat * 16384 + a.toNat * 256 + b.toNat * 4
  | .ldtWfe c d h a b => 0x44000002 + c.toNat * 2147483648 + d.toNat * 524288 + h.toNat * 16384 + a.toNat * 256 + b.toNat * 4
  | .stt c d h a b => 0x46000000 + c.toNat * 2147483648 + d.toNat * 524288 + h.toNat * 16384 + a.toNat * 256 + b.toNat * 4
  | .sttWe c d h a b => 0x46000001 + c.toNat * 2147483648 + d.toNat * 524288 + h.toNat * 16384 + a.toNat * 256 + b.toNat * 4
  | .sttRaw c d h a b => 0x46000002 + c.toNat * 2147483648 + d.toNat * 524288 + h.toNat * 16384 + a.toNat * 256 + b.toNat * 4
  | .atom c d a b s o => 0x48000000 + c.toNat * 2147483648 + d.toNat * 524288 + a.toNat * 8192 + b.toNat * 128 + s.toNat * 32 + o.toNat
  | .cas c d a b s z => 0x4A000000 + c.toNat * 2147483648 + d.toNat * 524288 + a.toNat * 8192 + b.toNat * 128 + s.toNat * 32 + z.toNat * 16
  | .red c a b s o => 0x4C000000 + c.toNat * 2147483648 + a.toNat * 8192 + b.toNat * 128 + s.toNat * 32 + o.toNat
  | .fence c s a b => 0x4E000000 + c.toNat * 2147483648 + s.toNat * 4194304 + a.toNat * 65536 + b.toNat * 1024
  | .wait l s p t => 0x50000000 + l.toNat * 2097152 + s.toNat * 131072 + p.toNat * 8192 + t.toNat * 512
  | .waitu c d a b m z => 0x52000000 + c.toNat * 2147483648 + d.toNat * 524288 + a.toNat * 8192 + b.toNat * 128 + m.toNat * 16 + z.toNat * 8
  | .ldFut c d a b => 0x54000000 + c.toNat * 2147483648 + d.toNat * 524288 + a.toNat * 8192 + b.toNat * 128
  | .stFut c a b => 0x54000001 + c.toNat * 2147483648 + a.toNat * 8192 + b.toNat * 128
  | .clrFut c a => 0x54000002 + c.toNat * 2147483648 + a.toNat * 8192
  | .talloc c d h a => 0x56000000 + c.toNat * 2147483648 + d.toNat * 524288 + h.toNat * 16384 + a.toNat * 256
  | .tfree c d h => 0x56000001 + c.toNat * 2147483648 + d.toNat * 524288 + h.toNat * 16384
  | .tbind c d h a => 0x56000002 + c.toNat * 2147483648 + d.toNat * 524288 + h.toNat * 16384 + a.toNat * 256
  | .tflush c d h => 0x56000003 + c.toNat * 2147483648 + d.toNat * 524288 + h.toNat * 16384
  | .tring c d h a => 0x56000004 + c.toNat * 2147483648 + d.toNat * 524288 + h.toNat * 16384 + a.toNat * 256
  | .tsetfe c d h a => 0x56000005 + c.toNat * 2147483648 + d.toNat * 524288 + h.toNat * 16384 + a.toNat * 256
  | .tarrt c d h a => 0x56000006 + c.toNat * 2147483648 + d.toNat * 524288 + h.toNat * 16384 + a.toNat * 256
  | .waita c d h a => 0x56000007 + c.toNat * 2147483648 + d.toNat * 524288 + h.toNat * 16384 + a.toNat * 256
  | .tinfo c d h a => 0x56000008 + c.toNat * 2147483648 + d.toNat * 524288 + h.toNat * 16384 + a.toNat * 256
  | .racq c d h a => 0x56000009 + c.toNat * 2147483648 + d.toNat * 524288 + h.toNat * 16384 + a.toNat * 256
  | .rrel c d h a => 0x5600000A + c.toNat * 2147483648 + d.toNat * 524288 + h.toNat * 16384 + a.toNat * 256
  | .tidset c s k => 0x58000000 + c.toNat * 2147483648 + s.toNat * 524288 + k.toNat * 2048
  | .tidget c s k => 0x58000001 + c.toNat * 2147483648 + s.toNat * 524288 + k.toNat * 2048
  | .copy c s k j => 0x5A000000 + c.toNat * 2147483648 + s.toNat * 524288 + k.toNat * 2048 + j.toNat * 8
  | .copyTl c s k => 0x5A000001 + c.toNat * 2147483648 + s.toNat * 524288 + k.toNat * 2048
  | .copyLt c s k => 0x5A000002 + c.toNat * 2147483648 + s.toNat * 524288 + k.toNat * 2048
  | .gather c s k j => 0x5A000003 + c.toNat * 2147483648 + s.toNat * 524288 + k.toNat * 2048 + j.toNat * 8
  | .scatter c s k j => 0x5A000004 + c.toNat * 2147483648 + s.toNat * 524288 + k.toNat * 2048 + j.toNat * 8
  | .mloop c s => 0x5C000000 + c.toNat * 2147483648 + s.toNat * 524288
  | .mdrain c s k => 0x5C000001 + c.toNat * 2147483648 + s.toNat * 524288 + k.toNat * 2048
  | .mzero c s => 0x5C000002 + c.toNat * 2147483648 + s.toNat * 524288
  | .take c => 0x5C000003 + c.toNat * 2147483648
  | .pass c => 0x5C000004 + c.toNat * 2147483648
  | .mwait c => 0x5C000005 + c.toNat * 2147483648
  | .amax c a b s => 0x5E000000 + c.toNat * 2147483648 + a.toNat * 8192 + b.toNat * 128 + s.toNat * 32
  | .amaxrs c d a s => 0x5E000001 + c.toNat * 2147483648 + d.toNat * 524288 + a.toNat * 8192 + s.toNat * 32
  | .vbind c d a s => 0x60000000 + c.toNat * 2147483648 + d.toNat * 524288 + a.toNat * 8192 + s.toNat * 1024
  | .vld c d a s => 0x60000020 + c.toNat * 2147483648 + d.toNat * 524288 + a.toNat * 8192 + s.toNat * 1024
  | .vsten7 c d a s => 0x60000040 + c.toNat * 2147483648 + d.toNat * 524288 + a.toNat * 8192 + s.toNat * 1024
  | .vsamp c d a s => 0x60000060 + c.toNat * 2147483648 + d.toNat * 524288 + a.toNat * 8192 + s.toNat * 1024
  | .vray c d a s => 0x60000080 + c.toNat * 2147483648 + d.toNat * 524288 + a.toNat * 8192 + s.toNat * 1024
  | .vleaf c d s => 0x600000A0 + c.toNat * 2147483648 + d.toNat * 524288 + s.toNat * 1024
  | .vins c d a s => 0x600000C0 + c.toNat * 2147483648 + d.toNat * 524288 + a.toNat * 8192 + s.toNat * 1024
  | .vdel c d a s => 0x600000E0 + c.toNat * 2147483648 + d.toNat * 524288 + a.toNat * 8192 + s.toNat * 1024
  | .vactClr c d a s => 0x60000100 + c.toNat * 2147483648 + d.toNat * 524288 + a.toNat * 8192 + s.toNat * 1024
  | .vactSet c d a s => 0x60000101 + c.toNat * 2147483648 + d.toNat * 524288 + a.toNat * 8192 + s.toNat * 1024
  | .vst c d a s => 0x60000120 + c.toNat * 2147483648 + d.toNat * 524288 + a.toNat * 8192 + s.toNat * 1024
  | .hbind c d a s => 0x62000000 + c.toNat * 2147483648 + d.toNat * 524288 + a.toNat * 8192 + s.toNat * 1024
  | .hgrid c d a s l => 0x62000020 + c.toNat * 2147483648 + d.toNat * 524288 + a.toNat * 8192 + s.toNat * 1024 + l.toNat
  | .hgrad c d a s l => 0x62000040 + c.toNat * 2147483648 + d.toNat * 524288 + a.toNat * 8192 + s.toNat * 1024 + l.toNat
  | .hgradd c d a s l => 0x62000060 + c.toNat * 2147483648 + d.toNat * 524288 + a.toNat * 8192 + s.toNat * 1024 + l.toNat
  | .enq c s k => 0x64000000 + c.toNat * 2147483648 + s.toNat * 524288 + k.toNat * 2048
  | .commit c s k => 0x64000001 + c.toNat * 2147483648 + s.toNat * 524288 + k.toNat * 2048
  | .result c s => 0x64000002 + c.toNat * 2147483648 + s.toNat * 524288
  | .launch c s => 0x64000003 + c.toNat * 2147483648 + s.toNat * 524288
  | .coll c s k j => 0x66000000 + c.toNat * 2147483648 + s.toNat * 524288 + k.toNat * 2048 + j.toNat * 8
  | .halo c s => 0x66000001 + c.toNat * 2147483648 + s.toNat * 524288
  | .step c s => 0x66000002 + c.toNat * 2147483648 + s.toNat * 524288
  | .stepwait c s => 0x66000003 + c.toNat * 2147483648 + s.toNat * 524288
  | .tbegin => 0x68000000
  | .tchk => 0x68000100
  | .tend => 0x68000200
  | .errq d => 0x6A000000 + d.toNat * 524288
  | .instructionFetch _ _ => 0
  | .poisonSkid _ _ => 0
  | .yieldExpiry _ _ => 0
  | .loadComplete _ => 0
  | .storeAck _ => 0
  | .sliceAccess _ => 0
  | .fenceComplete _ _ => 0
  | .monitorInsert _ => 0
  | .monitorTimeout _ => 0
  | .monitorSpillReturn _ _ => 0
  | .monlost _ _ => 0
  | .rds _ => 0
  | .rdx _ => 0
  | .upg _ => 0
  | .wb _ => 0
  | .inv _ => 0
  | .fwd _ => 0
  | .fwdinv _ => 0
  | .directoryAnswer _ => 0
  | .noLineAnswer _ => 0
  | .grant _ => 0
  | .performAtHome _ => 0
  | .homeOperation _ => 0
  | .wbAck _ => 0
  | .lineAgeing _ _ => 0
  | .lineReceive _ _ _ => 0
  | .replayRequest _ _ => 0
  | .linkRetrain _ _ => 0
  | .dieReset _ => 0
  | .trapMessage _ _ => 0
  | .faultResponse _ => 0
  | .fconsPoll _ => 0
  | .heldFaultPost _ => 0
  | .faultWriteRetry _ => 0
  | .sideLogReplay _ => 0
  | .errorRecordPost _ => 0
  | .scrub _ _ => 0
  | .sentinelEvent _ _ => 0
  | .voltageStepDown _ => 0
  | .powerExcess _ => 0
  | .thermalLimit _ => 0
  | .ppsPulse _ => 0
  | .ptmSync _ _ => 0
  | .portReset _ => 0
  | .bringUp _ _ _ _ => 0
  | .hostMemoryAccess _ _ _ _ => 0
  | .semaphoreRead _ _ => 0
  | .semaphoreWrite _ _ _ => 0
  | .qtailWrite _ _ _ => 0
  | .registerWrite _ _ _ => 0
  | .ctxCreate _ => 0
  | .ctxDestroy _ => 0
  | .qbind _ => 0
  | .qunbind _ => 0
  | .qresume _ => 0
  | .tlbinv _ => 0
  | .preempt _ => 0
  | .plift _ => 0
  | .migout _ => 0
  | .migin _ => 0
  | .exchset _ => 0
  | .rtshare _ => 0
  | .attest _ => 0
  | .winset _ => 0
  | .mgmtComplete => 0
  | .commandFetch => 0
  | .recordRefetch _ => 0
  | .launchCommand _ => 0
  | .launchLeaf _ => 0
  | .graphCommand _ => 0
  | .copyCommand _ => 0
  | .waitword _ => 0
  | .release _ => 0
  | .releaseTime _ => 0
  | .collCommand _ => 0
  | .fenceCommand _ => 0
  | .groupResident _ => 0
  | .groupEnd _ => 0
  | .autoPreempt _ => 0
  | .deadlineExpiry _ => 0
  | .groupSave _ => 0
  | .groupRestore _ => 0
  | .nodeDispatch _ _ => 0
  | .coalesceTimer _ _ => 0
  | .copyComplete _ => 0
  | .tileRowFill _ _ => 0
  | .matrixCommandStart _ => 0
  | .ringSlotReady _ => 0
  | .matrixCommandComplete _ => 0
  | .allocatorRequest => 0
  | .sweep _ _ => 0
  | .fieldWordComplete _ => 0
  | .linkCommandComplete _ => 0
  | .stepReport _ _ _ _ => 0
  | .trailerAccess _ _ => 0
  | .tandemWaitTimeout _ => 0
  | .tandemCheckpoint _ => 0
  | .notAnInstruction _ => 0
  | .badop _ _ => 0
  | .ownershipGrant _ => 0
  | .tileOperationComplete _ => 0
  | .linkWriteArrival _ _ _ _ => 0
  | .dieEnable _ => 0
  | .errorRecordAccept _ => 0

end Sys2Proof
end

