-- ==== Sys2Proof/Machine/Ops.lean ====
section
/-! DEFINITION. The named operations over memory, threads and groups: bytes and words, memory in its
canonical form, the coherent value of a line, lookups and updates, time, records of faults and errors,
and taking a trap. -/

namespace Sys2Proof.Machine

/-- The outcome of an instruction or a step. -/
abbrev Res := Host.Outcome State Fault Refusal

/-! ### Bytes and words (R4, R5) -/

/-- Value of bytes, the lowest address first (R4). -/
def bytesToNat : List Byte → Nat
  | [] => 0
  | b :: bs => b.toNat + 256 * bytesToNat bs

/-- n bytes of a value, the lowest address first (R4). -/
def natToBytes : Nat → Nat → List Byte
  | 0, _ => []
  | n + 1, v => BitVec.ofNat 8 v :: natToBytes n (v / 256)

/-- Value of a register group, the lowest register first (R5). -/
def wordsToNat : List Word → Nat
  | [] => 0
  | w :: ws => w.toNat + 2 ^ 32 * wordsToNat ws

/-- n words of a value, the lowest register first (R5). -/
def natToWords : Nat → Nat → List Word
  | 0, _ => []
  | n + 1, v => BitVec.ofNat 32 v :: natToWords n (v / 2 ^ 32)

/-- Bits lo to lo + n - 1 of a value. -/
def bits (v lo n : Nat) : Nat := v / 2 ^ lo % 2 ^ n

/-- Reads an n-bit value as a signed integer. -/
def sval (n v : Nat) : Int := if v % 2 ^ n < 2 ^ (n - 1) then (v % 2 ^ n : Nat) else (v % 2 ^ n : Nat) - (2 ^ n : Nat)

/-- The n-bit value of an integer. -/
def ofInt (n : Nat) (i : Int) : Nat := (i % (2 ^ n : Nat)).toNat

/-- Replaces the elements that satisfy p. -/
def updWhere {α : Type} (p : α → Bool) (f : α → α) (l : List α) : List α := l.map fun x => if p x then f x else x

/-- Sets element n of a list. -/
def setAt {α : Type} : List α → Nat → α → List α
  | [], _, _ => []
  | _ :: xs, 0, v => v :: xs
  | x :: xs, n + 1, v => x :: setAt xs n v

/-- Adds an element at the place that a key gives in an ascending list, unless it is there. -/
def insertNat (n : Nat) : List Nat → List Nat
  | [] => [n]
  | x :: xs => if n < x then n :: x :: xs else if n = x then x :: xs else x :: insertNat n xs

/-- Inserts by a key in ascending order, after elements of equal key. -/
def insertBy {α : Type} (key : α → Nat) (a : α) : List α → List α
  | [] => [a]
  | x :: xs => if key a < key x then a :: x :: xs else x :: insertBy key a xs

/-- Sorts by a key in ascending order, keeping the order of equal keys. -/
def sortBy {α : Type} (key : α → Nat) (l : List α) : List α := l.foldl (fun acc a => insertBy key a acc) []

/-- The first element of least key. -/
def minBy? {α : Type} (key : α → Nat) (l : List α) : Option α := (sortBy key l).head?

/-- Splits off the elements of a list into chunks of n. -/
def chunks {α : Type} (n : Nat) : Nat → List α → List (List α)
  | 0, _ => []
  | k + 1, l => l.take n :: chunks n k (l.drop n)

/-! ### Memory as cells (log 2) -/

/-- What an address that memory does not list reads as (log 2). -/
def Memory.blank : Byte := 0

/-- The byte at an address. -/
def Memory.read (m : List Host.Cell) (a : Nat) : Byte := ((m.find? fun c => c.1 == a).map (·.2)).getD Memory.blank

/-- Writes a byte and keeps the canonical form. -/
def Memory.write : List Host.Cell → Nat → Byte → List Host.Cell
  | [], a, b => if b = Memory.blank then [] else [(a, b)]
  | c :: cs, a, b =>
    if a < c.1 then (if b = Memory.blank then c :: cs else (a, b) :: c :: cs)
    else if a = c.1 then (if b = Memory.blank then cs else (a, b) :: cs)
    else c :: Memory.write cs a b

/-- Addresses strictly rise and no entry equals what an unlisted address reads as. -/
abbrev Memory.wf (m : List Host.Cell) : Prop := m.Pairwise (fun c d => c.1 < d.1) ∧ ∀ c ∈ m, c.2 ≠ Memory.blank

/-- Writes bytes at rising addresses. -/
def Memory.writeBytes (m : List Host.Cell) (a : Nat) : List Byte → List Host.Cell
  | [] => m
  | b :: bs => Memory.writeBytes (Memory.write m a b) (a + 1) bs

/-- n bytes at rising addresses. -/
def Memory.readBytes (m : List Host.Cell) (a n : Nat) : List Byte := (List.range n).map fun k => Memory.read m (a + k)

/-- Byte k of a line (R269). -/
def lineByte (d : LineData) (k : Nat) : Byte := BitVec.ofNat 8 (d.toNat / 256 ^ k)

/-- Replaces byte k of a line. -/
def lineSetByte (d : LineData) (k : Nat) (b : Byte) : LineData :=
  BitVec.ofNat 1024 (d.toNat % 256 ^ k + b.toNat * 256 ^ k + d.toNat / 256 ^ (k + 1) * 256 ^ (k + 1))

/-- Replaces bytes of a line from byte k. -/
def lineSetBytes (d : LineData) (k : Nat) : List Byte → LineData
  | [] => d
  | b :: bs => lineSetBytes (lineSetByte d k b) (k + 1) bs

/-- The line of memory with a line number (R269). -/
def Memory.line (m : List Host.Cell) (l : Nat) : LineData := BitVec.ofNat 1024 (bytesToNat (Memory.readBytes m (l * 128) 128))

/-- Writes a whole line. -/
def Memory.setLine (m : List Host.Cell) (l : Nat) (d : LineData) : List Host.Cell :=
  Memory.writeBytes m (l * 128) (natToBytes 128 d.toNat)

/-! ### Cores, dies and time -/

/-- Die of a core index (R14). -/
def coreDie (c : Nat) : Nat := c / 80 + 1
/-- Core number on its die (R14). -/
def coreNum (c : Nat) : Nat := c % 80
/-- Mesh column of a core (R13, R14). -/
def coreX (c : Nat) : Nat := coreNum c % 10 + (if coreDie c = 2 ∨ coreDie c = 4 then 10 else 0)
/-- Mesh row of a core (R13, R14). -/
def coreY (c : Nat) : Nat := coreNum c / 10 + (if coreDie c = 3 ∨ coreDie c = 4 then 8 else 0)
/-- Cluster number of a core (R14). -/
def coreCluster (c : Nat) : Nat := coreNum c / 20 * 5 + coreNum c % 10 / 2
/-- The core at a mesh position, when one exists there (R14). -/
def coreAt (x y : Nat) : Option Nat :=
  if x < 20 ∧ y < 16 then
    some ((x / 10 + y / 8 * 2) * 80 + y % 8 * 10 + x % 10)
  else none
/-- Source number of a unit (R388). -/
def srcNum (die unit : Nat) : Nat := die * 2 ^ 13 + unit
/-- Source number of a core (R388). -/
def coreSrc (c : Nat) : Nat := srcNum (coreDie c) (coreNum c)
/-- Source number of a core's field unit (R388). -/
def fieldSrc (c : Nat) : Nat := srcNum (coreDie c) (0x400 + coreNum c)
/-- Hops between two dies: the links are 1-2, 1-3, 2-4 and 3-4 (R280). -/
def dieHops (a b : Nat) : Nat := if a = b then 0 else if a + b = 5 then 2 else 1

/-- By how much the TSC advances in n ticks of its own clock, and the discipline after them (R365): it is slewed towards its source by
one tick in 2,000, which is 500 ppm, and never steps backward. -/
def Discipline.pass (d : Discipline) (n : Nat) : Discipline × Nat :=
  match d.drift with
  | none => (d, n)
  | some e =>
    let c := min ((d.passed + n) / 2000) e.natAbs
    ({ drift := some (if e > 0 then e - c else e + c), passed := (d.passed + n) % 2000 }, if e > 0 then n - c else n + c)

/-- Passes n ticks. -/
def State.ticks (s : State) (n : Nat) : State :=
  { s with tsc := s.tsc + (s.disc.pass n).2, disc := (s.disc.pass n).1, cycle := s.cycle + n * s.boot.clock / 1000 }

/-- Passes one cycle of the arithmetic clock (R3). DESIGN CHOICE (log 3). -/
def State.oneCycle (s : State) : State :=
  let n := (s.frac + 1000) / s.boot.clock
  { s with cycle := s.cycle + 1, tsc := s.tsc + (s.disc.pass n).2, disc := (s.disc.pass n).1, frac := (s.frac + 1000) % s.boot.clock }

/-- The next identifier. -/
def State.fresh (s : State) : State := { s with nextId := s.nextId + 1 }

/-! ### Lookups and updates -/

/-- The context of an ASID. -/
def State.ctx? (s : State) (asid : Nat) : Option Context := s.contexts.find? fun c => c.asid == asid
/-- Changes a context. -/
def State.updCtx (s : State) (asid : Nat) (f : Context → Context) : State :=
  { s with contexts := updWhere (fun c => c.asid == asid) f s.contexts }
/-- The group of an identifier. -/
def State.group? (s : State) (gid : Nat) : Option Group := s.groups.find? fun g => g.gid == gid
/-- Changes a group. -/
def State.updGroup (s : State) (gid : Nat) (f : Group → Group) : State :=
  { s with groups := updWhere (fun g => g.gid == gid) f s.groups }
/-- A thread of a group. -/
def Group.thread? (g : Group) (tid : Nat) : Option Thread := g.threads.find? fun t => t.tid == tid
/-- A thread. -/
def State.thread? (s : State) (gid tid : Nat) : Option Thread := (s.group? gid).bind fun g => g.thread? tid
/-- Changes a thread of a group; its index stays. -/
def Group.updThread (g : Group) (tid : Nat) (f : Thread → Thread) : Group :=
  { g with threads := updWhere (fun t => t.tid == tid) (fun t => { f t with tid := t.tid }) g.threads }
/-- Changes a thread. -/
def State.updThread (s : State) (gid tid : Nat) (f : Thread → Thread) : State :=
  s.updGroup gid fun g => g.updThread tid f
/-- The span of an identifier. -/
def State.span? (s : State) (sid : Nat) : Option Span := s.spans.find? fun x => x.sid == sid
/-- Changes a span. -/
def State.updSpan (s : State) (sid : Nat) (f : Span → Span) : State :=
  { s with spans := updWhere (fun x => x.sid == sid) f s.spans }
/-- The tile of an identifier. -/
def State.tile? (s : State) (uid : Nat) : Option Tile := s.tiles.find? fun x => x.uid == uid
/-- Changes a tile. -/
def State.updTile (s : State) (uid : Nat) (f : Tile → Tile) : State :=
  { s with tiles := updWhere (fun x => x.uid == uid) f s.tiles }
/-- A core's own state; a core that is not listed is as at reset. -/
def State.core (s : State) (c : Nat) : Core := (s.cores.find? fun x => x.id == c).getD { id := c }
/-- Changes a core's own state. -/
def State.updCore (s : State) (c : Nat) (f : Core → Core) : State :=
  { s with cores := { f (s.core c) with id := c } :: s.cores.filter fun x => x.id != c }
/-- A die's own state. -/
def State.die (s : State) (d : Nat) : Die := (s.dies.find? fun x => x.d == d).getD { d := d }
/-- Changes a die's own state. -/
def State.updDie (s : State) (d : Nat) (f : Die → Die) : State :=
  { s with dies := updWhere (fun x => x.d == d) f s.dies }
/-- Whether a core is present (R15). -/
def State.present (s : State) (c : Nat) : Bool := decide (c < 320) && !s.fused.contains c
/-- The present cores of a rectangle in row-major order (R28, R29). -/
def State.rectCores (s : State) (x0 y0 w h : Nat) : List Nat :=
  ((List.range h).flatMap fun r => (List.range w).filterMap fun c => coreAt (x0 + c) (y0 + r)).filter s.present
/-- Raises a counter of a die (R286). -/
def State.count (s : State) (d n k : Nat) : State :=
  s.updDie d fun x => { x with counters :=
    if (x.counters.any fun p => p.1 == n) then x.counters.map fun p => if p.1 == n then (n, (p.2 + k) % 2 ^ 64) else p
    else x.counters ++ [(n, k)] }
/-- The queue of a number. -/
def State.queue? (s : State) (q : Nat) : Option Queue := s.queues.find? fun x => x.q == q
/-- Changes a queue. -/
def State.updQueue (s : State) (q : Nat) (f : Queue → Queue) : State :=
  { s with queues := updWhere (fun x => x.q == q) f s.queues }
/-- The graph of an identifier. -/
def State.graph? (s : State) (g : Nat) : Option Graph := s.graphs.find? fun x => x.id == g
/-- Changes a graph. -/
def State.updGraph (s : State) (g : Nat) (f : Graph → Graph) : State :=
  { s with graphs := updWhere (fun x => x.id == g) f s.graphs }
/-- Threads of a group that have not ended (R122). -/
def Group.live (g : Group) : List Thread := g.threads.filter fun t => t.st != .exited
/-- The other copy of a tandem group (R396). -/
def State.tandem? (s : State) (gid : Nat) : Option Tandem := s.tandems.find? fun t => t.leader == gid || t.trailer == gid
/-- An entry enters the compare buffer, in place of one that its thread's faulted access has kept there (R398, R402). -/
def Tandem.put (t : Tandem) (e : CEntry) : Tandem :=
  let old := fun (x : CEntry) => x.tid == e.tid && x.k == e.k && !x.released
  { t with entries := t.entries.filter (fun x => !old x) ++ [{ e with made := ((t.entries.find? old).map (·.made)).getD e.made }] }

/-- Entries of a compare buffer that wait for the trailer (R398). -/
def Tandem.pending (t : Tandem) : List CEntry := t.entries.filter fun e => !e.released

/-- Whether a compare buffer has no room for another entry of the leader's (R399). -/
def Tandem.bufferFull (t : Tandem) : Bool := decide (256 ≤ t.pending.length) || decide (512 ≤ t.entries.length)

/-- An entry whose access has faulted and is still to be tried again (R402). -/
def CEntry.unmade (e : CEntry) : Bool := e.faulted && e.acc.isNone

/-- Changes the tandem group that a copy belongs to. -/
def State.updTandem (s : State) (gid : Nat) (f : Tandem → Tandem) : State :=
  { s with tandems := updWhere (fun t => t.leader == gid || t.trailer == gid) f s.tandems }

/-! ### The coherent value of memory (R212, R276) -/

/-- States in which a die's copy is the current value of its line. -/
def LineSt.owns (l : LineSt) : Bool := l == .M || l == .E || l == .O || l == .SM

/-- The current value of a line where it is not memory's: an owner's copy, data that a message or a
home holds. -/
def State.heldLine (s : State) (l : Nat) : Option LineData :=
  match s.lines.find? fun p => p.2.line == l && p.2.st.owns with
  | some p => some p.2.data
  | none =>
    match s.net.find? fun m => m.line == l && m.data.isSome && (m.kind == .wb || m.kind == .grant || m.kind == .answer) with
    | some m => m.data
    | none => (s.dirs.find? fun d => d.line == l && d.data.isSome).bind (·.data)

/-- The current byte at a device physical address. -/
def State.physByte (s : State) (pa : Nat) : Byte :=
  match s.heldLine (pa / 128) with
  | some d => lineByte d (pa % 128)
  | none => Memory.read s.mem pa

/-- n current bytes at a device physical address. -/
def State.physBytes (s : State) (pa n : Nat) : List Byte := (List.range n).map fun k => s.physByte (pa + k)

/-- Writes one byte in memory and in every copy of its line, as one action. -/
def State.setPhysByte (s : State) (pa : Nat) (b : Byte) : State :=
  { s with
    mem := Memory.write s.mem pa b
    lines := s.lines.map fun p => if p.2.line == pa / 128 then (p.1, { p.2 with data := lineSetByte p.2.data (pa % 128) b }) else p
    net := s.net.map fun m => if m.line == pa / 128 then { m with data := m.data.map fun d => lineSetByte d (pa % 128) b } else m
    dirs := s.dirs.map fun d => if d.line == pa / 128 then { d with data := d.data.map fun x => lineSetByte x (pa % 128) b } else d }

/-- Writes bytes in memory and in every copy. -/
def State.setPhysBytes (s : State) (pa : Nat) : List Byte → State
  | [] => s
  | b :: bs => (s.setPhysByte pa b).setPhysBytes (pa + 1) bs

/-- The lease horizon of a line over every die (R217). -/
def State.horizon (s : State) (l : Nat) : Nat :=
  (s.horizons.filter fun h => h.line == l).foldl (fun m h => max m h.expiry) 0

/-- The lease horizon of a line over one die (R217). -/
def State.dieHorizon (s : State) (d l : Nat) : Nat :=
  (s.horizons.filter fun h => h.line == l && h.die == d).foldl (fun m h => max m h.expiry) 0

/-- Notes the completion times of a write to a line until they have passed (R217). -/
def State.noteWrite (s : State) (l lw gw : Nat) : State :=
  let old := (s.wtimes.find? fun t => t.1 == l).getD (l, 0, 0)
  { s with wtimes := (l, max old.2.1 lw, max old.2.2 gw) :: s.wtimes.filter fun t => t.1 != l && decide (s.tsc ≤ t.2.2) }

/-- The completion times that a reading of a line returns: those of its writes whose GWCT has not passed, else 0 (R217). -/
def State.valueTimes (s : State) (l : Nat) : Nat × Nat :=
  match s.wtimes.find? fun t => t.1 == l with
  | some t => if s.tsc ≤ t.2.2 then t.2 else (0, 0)
  | none => (0, 0)

/-- A line's last access by its die is now (R290). -/
def State.touch (s : State) (d l : Nat) : State :=
  { s with lines := updWhere (fun p => p.1 == d && p.2.line == l) (fun p => (p.1, { p.2 with last := s.tsc })) s.lines }

/-- Records the ASID of a line's last writer (R395). -/
def State.setWriter (s : State) (l asid : Nat) : State :=
  { s with writers := (l, asid) :: s.writers.filter fun p => p.1 != l }

/-- The last writer of a line; 0 when none is recorded (R395). -/
def State.writer (s : State) (l : Nat) : Nat := ((s.writers.find? fun p => p.1 == l).map (·.2)).getD 0

/-- Marks a line poisoned (R383). DEDUCED (log 38). -/
def State.poisonLine (s : State) (l : Nat) : State := { s with poisonLines := insertNat l s.poisonLines }

/-- The lines that n bytes at an address touch. -/
def linesOf (pa n : Nat) : List Nat := if n = 0 then [] else (List.range ((pa + n - 1) / 128 - pa / 128 + 1)).map fun k => pa / 128 + k

/-- The slice of its die that serves a line (R269). -/
def homeSlice (l : Nat) : Nat := l % 24

/-! ### Operands of a pack's lane -/

/-- What a word sees of one thread: its group, its registers before the chain (R39), and the thread as
the chain has left it so far. -/
structure Lane where
  g : Group
  src : Thread
  cur : Thread
  deriving Repr

/-- The lane of a thread of the issuing pack. -/
def State.lane? (s : State) (tid : Nat) : Option Lane :=
  (s.group? s.issue.gid).bind fun g => (g.thread? tid).map fun t =>
    { g := match s.issue.usnap with | some u => { g with uregs := u.1, upoison := u.2 } | none => g
      src := (s.issue.snap.find? fun x => x.tid == tid).getD t
      cur := t }

/-- Whether any of some registers is poisoned (R383). -/
def Thread.anyPoison (t : Thread) (rs : List Nat) : Bool := rs.any t.poisoned

/-- Whether any source of a word is poisoned (R383). -/
def Lane.srcPoison (l : Lane) (o : Opnds) : Bool :=
  l.src.anyPoison (regsOf o.src) || (o.psrc.any fun n => n != 0 && l.src.ppoison.getLsbD n) ||
    (regsOf o.usrc).any fun n => n != 0 && l.g.upoison.getLsbD n

/-- Where the poison of a uniform register came from. -/
def Group.upFrom (g : Group) (n : Nat) : DWord := ((g.upva.find? fun p => p.1 == n).map (·.2)).getD 0

/-- Where the poison of a uniform register that a word reads came from; none while all are clean (R383). -/
def Lane.uPoison (l : Lane) (o : Opnds) : Option DWord :=
  ((regsOf o.usrc).find? fun n => n != 0 && l.g.upoison.getLsbD n).map l.g.upFrom

/-- The poisonings whose poison some registers or predicates hold. -/
def Thread.skidsAt (t : Thread) (rs ps : List Nat) : List Nat :=
  (t.skids.filter fun k => rs.any (k.has t.popen) || ps.any fun n => k.preds.getLsbD n).map (·.n)

/-- The poisonings of a word's sources. -/
def Thread.srcSkids (t : Thread) (o : Opnds) : List Nat := t.skidsAt (regsOf o.src) o.psrc

/-- A mask of n bits with the listed bits set, bit 0 left out: w0, p0 and s0 hold no mark. -/
def maskOf (n : Nat) (rs : List Nat) : BitVec n := rs.foldl (fun m r => if r = 0 then m else m ||| BitVec.ofNat n (2 ^ r)) 0

/-- Marks or clears the poison of registers. -/
def Thread.markPoison (t : Thread) (rs : List Nat) (p : Bool) : Thread := rs.foldl (fun t n => t.setPoison p n) t

/-- Poisonings spread to the registers that a word writes (R383). -/
def Thread.spread (t : Thread) (own rs ps : List Nat) : Thread :=
  let put := fun (k : Skid) =>
    if own.contains k.n then { rs.foldl (fun (k : Skid) n => if n = 0 then k else k.put t.popen true n) k with preds := k.preds ||| maskOf 8 ps } else k
  { t with skids := t.skids.map put }

/-- The number of a thread's next poisoning. -/
def Thread.skidNo (t : Thread) : Nat := (t.skids.map (·.n)).foldl max 0 + 1

/-- Poison enters registers: a skid starts, and the address it came from is kept (R383). Registers that hold nothing take none. -/
def Thread.poisonIn (t : Thread) (va : DWord) (rs ps : List Nat) : Thread :=
  if (rs ++ ps).any (· != 0) then ({ t with skids := t.skids ++ [{ n := t.skidNo, va := va }] } : Thread).spread [t.skidNo] rs ps else t

/-- Registers receive a value that is poisoned by poisonings of the thread, or by poison that enters with it (R383). -/
def Thread.taint (t : Thread) (rs : List Nat) (own : List Nat) (enter : Option DWord) : Thread :=
  let t := (t.markPoison rs (enter.isSome || !own.isEmpty)).spread own rs []
  match enter with
  | some va => t.poisonIn va rs []
  | none => t

/-- Poison that enters with a value, and where it comes from. -/
def entering (p : Bool) (va : DWord) : Option DWord := if p then some va else none

/-- One more instruction has retired under the poisonings that stand (R383). -/
def Thread.retired (t : Thread) : Thread := { t with skids := t.skids.map fun k => { k with left := k.left - 1 } }

/-- The poisoning whose trap a thread takes next. -/
def Thread.nextSkid (t : Thread) : Skid := (t.skids.find? fun k => !k.taken).getD {}

/-- A thread's poisonings once it has taken the trap of the next one (R383). -/
def Thread.takeSkid (t : Thread) : List Skid := t.skids.map fun k => if k.n = t.nextSkid.n then { k with taken := true } else k

/-- The poisonings that are left: those whose trap is still to be taken or whose poison some register holds. -/
def Thread.shed (t : Thread) : Thread :=
  { t with skids := t.skids.filter fun k => !k.taken || k.regs != 0 || k.shadow != 0 || k.preds != 0 }

/-- Marks registers as pending (R45). -/
def Thread.markPend (t : Thread) (rs : List Nat) : Thread := { t with pend := t.pend ||| maskOf 64 rs }

/-- Clears the pending marks of registers (R45). -/
def Thread.clearPend (t : Thread) (rs : List Nat) : Thread := { t with pend := t.pend &&& ~~~(maskOf 64 rs) }

/-- Raises sticky flags (R84, R39) and notes them for the arithmetic trap (R381). -/
def Thread.raise (t : Thread) (f : Flags) : Thread := { t with flags := t.flags ||| f, raised := t.raised ||| f }

/-- Counter of a class: 0 loads, 1 stores, 2 copies, 3 tile operations (R20, R232). -/
def Thread.outstanding (t : Thread) (cls : Nat) : Nat :=
  match cls with | 0 => t.nLoad | 1 => t.nStore | 2 => t.nCopy | _ => t.nTile

/-- Changes the counter of a class. -/
def Thread.setOutstanding (t : Thread) (cls n : Nat) : Thread :=
  match cls with
  | 0 => { t with nLoad := n } | 1 => { t with nStore := n } | 2 => { t with nCopy := n } | _ => { t with nTile := n }

/-- An operation of a class begins (R20). -/
def Thread.begin (t : Thread) (cls : Nat) : Thread := t.setOutstanding cls (t.outstanding cls + 1)

/-- An operation of a class completes (R20). -/
def Thread.finish (t : Thread) (cls : Nat) : Thread := t.setOutstanding cls (t.outstanding cls - 1)

/-! ### Monitor evaluation (R227, R228) -/

/-- The comparisons of R227 at n bits. -/
def monitorTrue (cmp n v b : Nat) : Bool :=
  match cmp with
  | 0 => v == b
  | 1 => v != b
  | 2 => decide (sval n v ≥ sval n b)
  | 3 => decide (v ≥ b)
  | 4 => decide (sval n v < sval n b)
  | 5 => decide (v < b)
  | 6 => (v &&& b) != 0
  | _ => (v &&& b) == 0

/-- The current value of an entry's word. -/
def State.monitorValue (s : State) (m : Monitor) : Nat := bytesToNat (s.physBytes m.pa (if m.wide then 8 else 4))

/-- Whether an entry's condition holds now. -/
def State.monitorHolds (s : State) (m : Monitor) : Bool :=
  monitorTrue m.cmp (if m.wide then 64 else 32) (s.monitorValue m) (m.opnd.toNat % 2 ^ (if m.wide then 64 else 32))

/-- A queue's command is complete: its MSI-X vector is raised (R361). -/
def State.queueCmdDone (s : State) (q n : Nat) : State :=
  let s1 := s.updQueue q fun x => { x with cmds := updWhere (fun c => c.n == n) (fun c => { c with complete := true, dispatched := true }) x.cmds }
  match ((s.queue? q).bind fun x => x.cmds.find? fun c => c.n == n).bind fun c => c.msix.map fun v => (c.port, v) with
  | some v => { s1 with host := { s1.host with raised := s1.host.raised ++ [v] } }
  | none => s1

/-- A core drops its L1 copy of a line. -/
def State.dropL1 (s : State) (core l : Nat) : State := { s with l1 := s.l1.filter fun x => !(x.core == core && x.line == l) }

/-- Completion times stand until they have passed. -/
def State.oweAs (s : State) (o : Owed) : State :=
  if s.tsc ≤ o.gw then { s with owed := o :: s.owed.filter fun x => decide (s.tsc ≤ x.gw) } else s

/-- An access has returned completion times to a thread of a group (R214, R219), or of one that was ended with its span (R231). -/
def State.owe (s : State) (gid tid id lw gw : Nat) : State :=
  match s.group? gid with
  | some g => s.oweAs { id := id, asid := g.asid, sid := g.sid, gid := gid, tid := tid, core := g.core, lw := lw, gw := gw }
  | none => match s.spans.find? fun x => x.killed.contains gid with
    | some x => s.oweAs { id := id, asid := x.asid, sid := x.sid, gid := gid, tid := tid, core := 0, lw := lw, gw := gw }
    | none => s

/-- What a core's engine has written for no thread, an image or a tile's write-back, is performed once its GWCT has passed (R355). -/
def State.oweUnit (s : State) (asid core gw : Nat) : State :=
  s.oweAs { id := s.nextId - 1, asid := asid, sid := 0, gid := 0, tid := 0xFFFF, core := core, lw := gw, gw := gw }

/-- A thread whose monitor wait ends gets the status, in the bank that its word selected (R147). With status 0 it has read the
satisfying write, and goes on as after FENCE.DEV (R229); else it is ready. Its word has marked the register as it issued (R383). -/
def Thread.monitorWoken (t : Thread) (dst status : Nat) (shadow : Bool) (times : Nat × Nat) (now upto : Nat) : Thread :=
  { t.inBank shadow fun t => t.setReg dst (BitVec.ofNat 32 status) with
    st := if status = 0 then .fencing { scope := 2, pa := 1, pb := 1, upto := upto } else .ready
    waitSince := now, lw := max t.lw times.1, gw := max t.gw times.2 }

/-- Wakes the holder of a monitor entry with a status (R229): a thread gets the status,
a queue's WAITWORD completes, the control die takes note of FCONS. The edge of a wake with status
0 counts as a read of the satisfying write: the core drops its L1 copy of the line, and the thread has
observed the write's completion times. A saved thread's status waits in its record (R301). -/
def State.wakeMonitor (s : State) (m : Monitor) (status : Nat) : State :=
  let s := { s with monitors := s.monitors.filter fun x => x.id != m.id }
  match m.who with
  | .thread gid tid =>
    match s.group? gid with
    | some gr =>
      let l := m.pa / 128
      let s := if status = 0 then s.dropL1 gr.core l else s
      let times := if status = 0 then s.valueTimes l else (0, 0)
      s.updThread gid tid fun t =>
        if t.st = .parked (.monitor m.dst) then t.monitorWoken m.dst status m.shadow times s.cycle s.nextId else t
    | none =>
      let w : Woken := { tid := tid, status := status, dst := m.dst, shadow := m.shadow, times := if status = 0 then s.valueTimes (m.pa / 128) else (0, 0) }
      { s with saved := s.saved.map fun x => if x.gid == gid then { x with runnable := true, woken := x.woken ++ [w] } else x }
  | .queue q => match s.queue? q with
    | some x => match x.cmds.find? fun c => c.op == 5 && !c.complete with
      | some c => s.queueCmdDone q c.n
      | none => s
    | none => s
  | .fcons _ => s

/-- Evaluates every entry on a line after a write to it and wakes the true ones (R228). -/
def State.evalMonitors (s : State) (l : Nat) : State :=
  (s.monitors.filter fun m => m.inserted && m.pa / 128 == l).foldl
    (fun s m => if s.monitorHolds m then s.wakeMonitor m 0 else s) s

/-- A write of bytes by a unit of a die that acts at once: memory and every copy change, the last writer and the completion
times are recorded (R217, log 7), and the monitors are evaluated. -/
def State.writePhys (s : State) (die asid pa : Nat) (bs : List Byte) : State :=
  (linesOf pa bs.length).foldl (fun s l =>
    ((s.setWriter l asid).noteWrite l (max s.tsc (s.dieHorizon die l) + 2) (max s.tsc (s.horizon l) + 2)).evalMonitors l) (s.setPhysBytes pa bs)

/-! ### Poison of a value (R383) -/

/-- Whether bytes at an address lie in a poisoned line. -/
def State.physPoison (s : State) (pa n : Nat) : Bool := (linesOf pa n).any fun l => s.poisonLines.contains l

/-! ### Error records (R389, R390) -/

/-- An error record reaches the control die later (R390). -/
def State.raiseErr (s : State) (e : ErrRec) : State :=
  { s with errors := s.errors ++ [{ e with id := s.nextId, tsc := s.tsc }], nextId := s.nextId + 1 }

/-! ### Taking a trap (R378, R379) -/

/-- Free slots of a mailbox for a message of a core: its reserved slots, then the shared ones (R378).
The answer says whether the slot is a reserved one. -/
def Mailbox.room (m : Mailbox) (core : Nat) : Option Bool :=
  if (m.slots.filter fun x => x.core == core && x.reserved).length < 2 then some true
  else if (m.slots.filter fun x => !x.reserved).length < 8 then some false
  else none

/-- The mailbox of a cluster. -/
def State.mailbox (s : State) (die cluster : Nat) : Mailbox :=
  (s.mailboxes.find? fun m => m.die == die && m.cluster == cluster).getD { die := die, cluster := cluster }

/-- Replaces the mailbox of a cluster. -/
def State.setMailbox (s : State) (m : Mailbox) : State :=
  { s with mailboxes := m :: s.mailboxes.filter fun x => !(x.die == m.die && x.cluster == m.cluster) }

/-- Puts a message into its mailbox, or leaves it pending with its thread (R378). -/
def Mailbox.post (m : Mailbox) (x : TrapMsg) : Mailbox :=
  match m.room x.core with
  | some r => { m with slots := m.slots ++ [{ x with reserved := r }] }
  | none => { m with pending := m.pending ++ [x] }

/-- Moves pending messages into slots in the order of their TSC, ties by the lower source (R378). -/
def Mailbox.letIn (m : Mailbox) : Mailbox :=
  (sortBy (fun x => x.tsc * 2 ^ 16 + coreSrc x.core) m.pending).foldl (fun m x => m.post x) { m with pending := [] }

/-- A thread takes a trap: it is parked where its PC stands, and a message with its PC, the trap's kind and
code, and the A value goes to the trap core of its cluster (R70, R379). The reason of a tandem trap is no byte of its
message, and a poison consumption trap consumes the oldest poisoning (R383, log 73). This is the one operation by which every
trap is taken. -/
def State.takeTrap (s : State) (gid tid kind code : Nat) (aval : Word) (va : DWord := 0) : State :=
  match s.group? gid with
  | none => s
  | some g =>
    match g.thread? tid with
    | none => s
    | some t =>
      let from_ := t.nextSkid
      let byte := if kind = 8 then 0 else code
      let m : TrapMsg :=
        { pc := t.pc, kind := kind, code := byte, core := g.core, tid := tid, asid := g.asid
          grp := g.grp, aval := aval, tsc := s.tsc, gid := gid, va := if kind = 7 then from_.va else va
          reason := if kind = 8 then code else 0, parity := kind == 7 && from_.parity }
      let s := s.updThread gid tid fun t =>
        { t with
          st := .parked .trap, waitSince := s.cycle, pseq := s.nextId, skids := if kind = 7 then t.takeSkid else t.skids
          trapAt := some (kind, byte, aval) }
      -- the trailer of a tandem group sends no message of its own (R402), but for the group's own tandem trap
      if g.role = .trailer ∧ kind ≠ 8 then s.fresh else
      { s.setMailbox ((s.mailbox (coreDie g.core) (coreCluster g.core)).post m) with nextId := s.nextId + 1 }

/-- The flags that a context traps on (R348, R381). -/
def State.trapen (s : State) (asid : Nat) : Flags := ((s.ctx? asid).map (·.trapen)).getD 0

/-- The runtime resumes a trapped thread at the PC of its message (R380): the return from a trap. -/
def State.resumeThread (s : State) (gid tid : Nat) (pc : PC) : State :=
  s.updThread gid tid fun t => if t.st = .parked .trap then { t with st := .ready, trapAt := none, waitSince := s.cycle, pc := pc, packet := if pc = t.pc then t.packet else [], fence := none } else t

/-- The arithmetic trap of a chain that ended in a TRAP or BRK, both taken after the chain: the thread that returns from the one takes the
other (R380, R381). DEDUCED (log 28). -/
def State.arithLate (s : State) (gid tid : Nat) (old : Option Thread) : State :=
  match old.bind (·.trapAt), s.group? gid, s.thread? gid tid with
  | some (kind, _, _), some g, some t =>
    if (kind = 4 ∨ kind = 5) ∧ (t.raised &&& s.trapen g.asid) != 0 ∧ t.st = .ready then s.takeTrap gid tid 6 0 (t.raised.setWidth 32) else s
  | _, _, _ => s

/-- A thread returns from a trap (R380). -/
def State.trapReturn (s : State) (gid tid : Nat) (pc : PC) : State := (s.resumeThread gid tid pc).arithLate gid tid (s.thread? gid tid)

/-- A thread parks with a cause (R27), the last of its cause's waiters. -/
def State.parkThread (s : State) (gid tid : Nat) (c : Cause) : State :=
  (s.updThread gid tid fun t =>
    { t with
      parkOwn := t.srcSkids (((decode (t.packet.getD s.issue.slot 0).toNat).map opnds |>.getD {}))
      st := .parked c, waitSince := s.cycle, waitTick := s.tsc, pseq := s.nextId, parkNext := s.issue.next, parkAlone := s.issue.alone
      parkSlot := s.issue.slot }).fresh

/-- A parked thread becomes ready; its wait counts from now (R296). -/
def State.wakeThread (s : State) (gid tid : Nat) : State :=
  s.updThread gid tid fun t => { t with st := .ready, waitSince := s.cycle }

/-- A thread whose waiting word has acted gets its results: a word that stands alone writes them and the PC
moves on; in a chain they wait at its slot until the chain issues whole (R41, R239). -/
def State.deliver (s : State) (gid tid : Nat) (dst : Nat) (ws : List Word) (poison : Option DWord) : State :=
  s.updThread gid tid fun t =>
    let t' := { t with st := .ready, waitSince := s.cycle }
    if t.parkAlone then
      { (t'.retired.setWords dst ws).taint ((List.range ws.length).map (dst + ·)) t.parkOwn poison with
        pc := t.parkNext, packet := if t.parkNext.slot = 0 then [] else t.packet, fence := none }
    else { t' with grants := t.grants ++ [(t.parkSlot, ws, poison)] }

/-! ### The rein (R158, R177) -/

/-- A group receives the rein: every thread parked in its entry becomes ready. -/
def State.reinTo (s : State) (core : Nat) (gid : Nat) : State :=
  let s1 := s.updCore core fun c => { c with rein := some gid, reinQ := c.reinQ.filter (· != gid) }
  let wake := fun (t : Thread) => if t.st = .parked .rein then { t with st := .ready, waitSince := s.cycle } else t
  s1.updGroup gid fun g => { g with awaitRein := false, threads := g.threads.map wake }

/-- The rein is released and passes to the head of the queue. -/
def State.reinRelease (s : State) (core : Nat) : State :=
  match (s.core core).reinQ with
  | [] => s.updCore core fun c => { c with rein := none }
  | g :: _ => s.reinTo core g

/-- A group gives the rein up, or leaves the queue. -/
def State.leaveRein (s : State) (core gid : Nat) : State :=
  if (s.core core).rein = some gid then s.reinRelease core
  else s.updCore core fun c => { c with reinQ := c.reinQ.filter (· != gid) }

/-- A group joins the tail of the queue, or takes a rein that nobody holds or waits for. -/
def State.joinRein (s : State) (core gid : Nat) : State :=
  let c := s.core core
  if c.rein.isNone && c.reinQ.isEmpty then s.reinTo core gid
  else if c.reinQ.contains gid then s
  else s.updCore core fun c => { c with reinQ := c.reinQ ++ [gid] }

/-! ### Termination marks -/

/-- Whether poison consumption leaves the group running (R348). -/
def State.pcont (s : State) (asid : Nat) : Bool := ((s.ctx? asid).map (·.pcont)).getD false

end Sys2Proof.Machine
end

