-- ==== Sys2Proof/Machine/Translate.lean ====
section
/-! DEFINITION. Translation (R351-R356), the virtual memory that the device's own units read and write
through a context, and the fault and error queues (R382, R390, R404, R418). -/

namespace Sys2Proof.Machine

/-- mix32 of R98. -/
def mix32 (key ctr : Word) : Word :=
  let round := fun (x : Word) =>
    let x := x + key
    let x := (x ^^^ (x >>> 15)) * 0x5A3CE4B7#32
    let x := (x ^^^ (x >>> 13)) * 0x3D9168C5#32
    x ^^^ (x >>> 16)
  round (round ctr)

/-- What an access needs of an entry (R354). -/
structure Need where
  r : Bool := false
  w : Bool := false
  x : Bool := false
  deriving DecidableEq, Repr

/-- The result of a translation: a physical address with its home die, a host frame's port, the future
mark, or the device page. -/
structure Trans where
  pa : Nat
  home : Nat := 0
  host : Option Nat := none
  fut : Bool := false
  dev : Bool := false
  rights : Nat := 0
  deriving DecidableEq, Repr

/-- Where a byte lies among device and host memory together: a host cell's address is above every device address. -/
def Trans.cell (t : Trans) : Nat := match t.host with | some p => p * 2 ^ 52 + t.pa | none => t.pa

/-- Fault kinds of R382. -/
def fkNotMapped : Nat := 1
def fkPermission : Nat := 2
/-- A permission fault that no response resolves (R255, R256): its record has kind 2, and what is held under it is
forwarded whatever the host answers. DEDUCED (log 25). -/
def fkNever : Nat := 64 + 2
def fkMalformed : Nat := 3
def fkAddress : Nat := 4
def fkAlign : Nat := 5

/-- Bits of a virtual address below the page number of a size class (R351). -/
def scShift (sc : Nat) : Nat := match sc with | 0 => 16 | 1 => 21 | _ => 30

/-- The entry at a physical address of the page table. -/
def State.pte (s : State) (pa : Nat) : Nat := bytesToNat (s.physBytes pa 16)

/-- Looks an entry up in a bucket: the entry, the end of the class, or go on (R352). -/
def State.probeBucket (s : State) (asid sc vpn pa : Nat) : Nat → Option (Option Nat)
  | 0 => none
  | n + 1 =>
    let e := s.pte pa
    if bits e 44 2 = 0 then some none
    else if bits e 44 2 = 1 ∧ bits e 48 16 = asid ∧ bits e 46 2 = sc ∧ bits e 0 32 = vpn then some (some e)
    else s.probeBucket asid sc vpn (pa + 16) n

/-- Probes the buckets of a size class (R352). -/
def State.probe (s : State) (asid sc vpn base ptbits b : Nat) : Nat → Option Nat
  | 0 => none
  | n + 1 =>
    match s.probeBucket asid sc vpn (base + b * 128) 8 with
    | some r => r
    | none => s.probe asid sc vpn base ptbits ((b + 1) % 2 ^ ptbits) n

/-- The walk of R352, smallest page first. -/
def State.walk (s : State) (c : Context) (va : Nat) : Option (Nat × Nat) :=
  [0, 1, 2].findSome? fun sc =>
    let vpn := va / 2 ^ scShift sc
    let b := (mix32 (BitVec.ofNat 32 (c.asid + sc * 2 ^ 16)) (BitVec.ofNat 32 vpn)).toNat % 2 ^ c.ptbits
    (s.probe c.asid sc vpn c.ptbase c.ptbits b (min 8 (2 ^ c.ptbits))).map fun e => (sc, e)

/-- Whether a matched entry is malformed (R354). -/
def pteMalformed (sc e : Nat) : Bool :=
  bits e 116 12 != 0 || bits e 75 5 != 0 || bits e 64 2 != 0 || bits e 32 12 != 0
  || (bits e 80 36 * 2 ^ 16) % 2 ^ scShift sc != 0
  || (bits e 70 1 == 1 && bits e 72 3 != 0)
  || (bits e 70 1 == 0 && (bits e 72 3 == 0 || decide (bits e 72 3 > 4)))
  || (bits e 70 1 == 0 && bits e 80 36 / 2 ^ 32 != 0)

/-- Translates under a matched entry (R354): an access that its rights do not allow faults. -/
def pteTranslate (sc e va : Nat) (need : Need) : Except Nat Trans :=
  if pteMalformed sc e then .error fkMalformed
  else if (need.r && bits e 66 1 == 0) || (need.w && bits e 67 1 == 0) || (need.x && bits e 68 1 == 0) then .error fkPermission
  else .ok
    { pa := bits e 80 36 * 2 ^ 16 + va % 2 ^ scShift sc
      home := bits e 72 3
      host := if bits e 70 1 = 1 then some (bits e 71 1 + 1) else none
      fut := bits e 69 1 == 1
      rights := bits e 66 3 }

/-- The valid entries of a context's page table: size class and entry (R352, R353). -/
def State.validEntries (s : State) (c : Context) : List (Nat × Nat) :=
  (List.range (2 ^ c.ptbits * 8)).filterMap fun k =>
    let e := bytesToNat (s.physBytes (c.ptbase + 16 * k) 16)
    if bits e 44 2 == 1 && bits e 48 16 == c.asid && bits e 46 2 != 3 then some (bits e 46 2, e) else none

/-- Where a context maps a line of device memory: its virtual address, and the home die that the page's entry names (R268, R353). -/
def State.mapsLine (s : State) (c : Context) (l : Nat) : Option (Nat × Nat) :=
  ((s.validEntries c).find? fun x => bits x.2 70 1 == 0
      && decide (bits x.2 80 36 * 2 ^ 16 ≤ l * 128 ∧ l * 128 < bits x.2 80 36 * 2 ^ 16 + 2 ^ scShift x.1)).map fun x =>
    (bits x.2 0 32 * 2 ^ scShift x.1 + (l * 128 - bits x.2 80 36 * 2 ^ 16), bits x.2 72 3)

/-- The address of a line for a record of a context: where the context maps it, 0 where it does not; for the device log, where it lies
(R389). -/
def State.lineVa (s : State) (asid l : Nat) : DWord :=
  if asid = 0 then BitVec.ofNat 64 (l * 128)
  else BitVec.ofNat 64 (((((s.ctx? asid).bind fun c => s.mapsLine c l).map (·.1)).getD 0))

/-- The home die of a line: what the directory has it under, else what a page that maps it names (R268). -/
def State.homeOf? (s : State) (l : Nat) : Option Nat :=
  match s.dirs.find? fun x => x.line == l with
  | some x => some x.home
  | none => (s.contexts.findSome? fun c => s.mapsLine c l).map (·.2)

/-- Source number of the HBM stack that holds a line (R388). -/
def State.hbmSrc (s : State) (l : Nat) : Nat :=
  srcNum ((s.homeOf? l).getD ((Config.lineDie l).val + 1)) (0x600 + (Config.hbmStack l).toNat)

/-- The entry that a unit uses for an address: its TLB's, the die's, or the walk's (R355). DEDUCED (log 70). -/
def State.entryFor (s : State) (unit die : Nat) (c : Context) (va : Nat) : Option (Nat × Nat) :=
  match s.tlb.find? fun t => (t.unit == unit || t.unit == 1000 + die) && t.asid == c.asid && va / 65536 == t.page with
  | some t => some (t.sc, t.entry.toNat)
  | none => s.walk c va

/-- Translates an address for a unit of a die (R351-R354). -/
def State.translate (s : State) (unit die asid va : Nat) (need : Need) : Except Nat Trans :=
  match s.ctx? asid with
  | none => .error fkNotMapped
  | some c =>
    if va / 2 ^ 48 ≠ 0 then .error fkAddress
    else if va / 2 ^ 16 = c.devpg.toNat / 2 ^ 16 then
      if need.w || need.x then .error fkPermission else .ok { pa := va % 2 ^ 16, dev := true, rights := 1 }
    else match s.entryFor unit die c va with
      | none => .error fkNotMapped
      | some (sc, e) => pteTranslate sc e va need

/-- Lookups of a die's cores that their own TLB answers, that the die's L2 TLB answers, and that walk the table: the TLB counters of
R357, whose names and numbers the manual does not give (log 15). -/
def cTlbHit : Nat := 47
def cTlbL2 : Nat := 48
def cTlbMiss : Nat := 49

/-- Counts a lookup by where its entry is found. -/
def State.tlbCount (s : State) (unit die asid va : Nat) : State :=
  let has := fun (u : Nat) => s.tlb.any fun t => t.unit == u && t.asid == asid && va / 65536 == t.page
  s.count die (if has unit then cTlbHit else if has (1000 + die) then cTlbL2 else cTlbMiss) 1

/-- Puts an entry into a TLB that holds so many: where it is full its oldest entry leaves (R355). -/
def tlbAdd (l : List TlbEntry) (x : TlbEntry) (cap : Nat) : List TlbEntry :=
  if l.contains x then l
  else
    let mine := l.filter fun y => y.unit == x.unit
    x :: (if mine.length < cap then l else l.erase (mine.getLastD x))

/-- Looks an address up for a core: a valid translation is cached in the core's TLB and in the die's (R355), and the lookup is
counted. -/
def State.tlbFill (s : State) (unit die asid va : Nat) : State :=
  match s.ctx? asid with
  | none => s
  | some c =>
    if va / 2 ^ 16 = c.devpg.toNat / 2 ^ 16 ∨ va / 2 ^ 48 ≠ 0 then s else
    let s1 := s.tlbCount unit die asid va
    match s.entryFor unit die c va with
    | none => s1
    | some (sc, e) =>
      if pteMalformed sc e then s1 else
      let t : TlbEntry := { unit := unit, asid := asid, page := va / 65536, sc := sc, vpn := va / 2 ^ scShift sc, entry := BitVec.ofNat 128 e }
      { s1 with tlb := tlbAdd (tlbAdd s.tlb { t with unit := 1000 + die } 32768) t 1024 }

/-- The pieces of an access that lie in one 64 KiB page each: address and length (R233, R351). -/
def pagePieces (va n : Nat) : List (Nat × Nat) :=
  if n = 0 then []
  else (List.range ((va + n - 1) / 65536 - va / 65536 + 1)).map fun k =>
    let a := max va ((va / 65536 + k) * 65536)
    (a, min (va + n) ((va / 65536 + k + 1) * 65536) - a)

/-- Translates every piece of an access; the first piece that fails gives its address and kind. DEDUCED (log 31). -/
def State.translateAll (s : State) (unit die asid va n : Nat) (need : Need) : Except (Nat × Nat) (List (Trans × Nat)) :=
  (pagePieces va n).mapM fun p =>
    match s.translate unit die asid p.1 need with
    | .ok t => .ok (t, p.2)
    | .error k => .error (p.1, k)

/-- The harvest map's byte k (R295). -/
def State.harvestByte (s : State) (k : Nat) : Byte :=
  let d := k / 16
  let r := k % 16
  if k ≥ 64 then 0
  else if r < 10 then
    BitVec.ofNat 8 ((List.range 8).foldl (fun a b => if s.present (d * 80 + r * 8 + b) then a + 2 ^ b else a) 0)
  else if r = 10 then BitVec.ofNat 8 ((List.range 80).filter fun n => s.present (d * 80 + n)).length
  else 0

/-- n bytes at a translated address, as one coherent reading. -/
def State.readTrans (s : State) (t : Trans) (n : Nat) : List Byte :=
  if t.dev then (List.range n).map fun k => s.harvestByte (t.pa + k)
  else match t.host with
    | some _ => Memory.readBytes s.hostMem t.cell n
    | none => s.physBytes t.pa n

/-- A unit of a die writes bytes at a translated address, as one coherent action. -/
def State.writeTrans (s : State) (die asid : Nat) (t : Trans) (bs : List Byte) : State :=
  if t.dev then s
  else match t.host with
    | some _ => { s with hostMem := Memory.writeBytes s.hostMem t.cell bs }
    | none => s.writePhys die asid t.pa bs

/-- A unit of a die has accessed some pieces of memory (R290). -/
def State.touchPieces (s : State) (die : Nat) (ps : List (Trans × Nat)) : State :=
  (ps.flatMap fun p => if p.1.dev || p.1.host.isSome then [] else linesOf p.1.pa p.2).foldl (fun s l => s.touch die l) s

/-- The greatest GWCT of a write to a translated address now (R217). -/
def State.gwctOf (s : State) (t : Trans) (n : Nat) : Nat :=
  if t.dev || t.host.isSome then 0
  else (linesOf t.pa n).foldl (fun m l => max m (max s.tsc (s.horizon l) + 2)) 0

/-- The greatest LWCT of a die's write to a translated address now (R217). -/
def State.lwctOf (s : State) (die : Nat) (t : Trans) (n : Nat) : Nat :=
  if t.dev || t.host.isSome then 0
  else (linesOf t.pa n).foldl (fun m l => max m (max s.tsc (s.dieHorizon die l) + 2)) 0

/-- Not a fault of translation: the line's home die has been reset, and its lines are unavailable until it is enabled again (R279). -/
def fkAway : Nat := 0

/-- The pieces of an access of a unit that acts at once, where every one lies on a die that is enabled (R279). -/
def State.reach (s : State) (unit die asid va n : Nat) (need : Need) : Except (Nat × Nat) (List (Trans × Nat)) :=
  match s.translateAll unit die asid va n need with
  | .error e => .error e
  | .ok ps => if ps.any fun p => p.1.host.isNone && !p.1.dev && !(s.die p.1.home).enabled then .error (va, fkAway) else .ok ps

/-- Reads n bytes of a context's memory for a unit. The answer carries whether a poisoned line was read
(R383), or the address and kind of the fault. DESIGN CHOICE (log 7). -/
def State.vread (s : State) (unit die asid va n : Nat) : Except (Nat × Nat) (List Byte × Bool) :=
  match s.reach unit die asid va n { r := true } with
  | .error e => .error e
  | .ok ps => .ok (ps.flatMap fun p => s.readTrans p.1 p.2,
      ps.any fun p => !p.1.dev && s.physPoison p.1.cell p.2)

/-- Writes bytes to a context's memory for a unit, with the greatest GWCT of the write. -/
def State.vwrite (s : State) (unit die asid va : Nat) (bs : List Byte) : Except (Nat × Nat) (State × Nat) :=
  match s.reach unit die asid va bs.length { w := true } with
  | .error e => .error e
  | .ok ps =>
    let r := ps.foldl (fun (acc : State × Nat × List Byte) p =>
      (acc.1.writeTrans die asid p.1 (acc.2.2.take p.2), max acc.2.1 (acc.1.gwctOf p.1 p.2), acc.2.2.drop p.2)) (s, 0, bs)
    .ok (r.1.touchPieces die ps, r.2.1)

/-- The lines that a unit of a die has accessed as it needs them: the die has accessed them now (R290). -/
def State.touchFor (s : State) (need : Need) (unit die asid va n : Nat) : State :=
  match s.translateAll unit die asid va n need with
  | .error _ => s
  | .ok ps => s.touchPieces die ps

/-- The lines that a unit of a die has read. -/
def State.touchRead (s : State) (unit die asid va n : Nat) : State := s.touchFor { r := true } unit die asid va n

/-- A core drops its L1 copies of the lines under n bytes of a context's memory. -/
def State.dropRead (s : State) (core asid va n : Nat) : State :=
  match s.translateAll core (coreDie core) asid va n {} with
  | .error _ => s
  | .ok ps => (ps.flatMap fun p => if p.1.dev || p.1.host.isSome then [] else linesOf p.1.pa p.2).foldl (fun s l => s.dropL1 core l) s

/-- Bytes of a context's memory as they stand under a write: a writer needs no leave to read (R354). -/
def State.under (s : State) (unit die asid va n : Nat) : List Byte :=
  match s.translateAll unit die asid va n { w := true } with
  | .error _ => List.replicate n 0
  | .ok ps => ps.flatMap fun p => s.readTrans p.1 p.2

/-- Marks every line that n bytes of a context's memory touch poisoned, where a write reaches them (R374, R383): lines of host
memory too. DESIGN CHOICE (log 92). -/
def State.poisonBytes (s : State) (unit die asid va n : Nat) : State :=
  match s.translateAll unit die asid va n { w := true } with
  | .error _ => s
  | .ok ps => (ps.flatMap fun p => if p.1.dev then [] else linesOf p.1.cell p.2).foldl State.poisonLine s

/-- The control die as a unit: it walks the table itself. -/
def ctlUnit : Nat := 2000

/-- Reads through a context for the control die. -/
def State.ctlRead (s : State) (asid va n : Nat) : Except (Nat × Nat) (List Byte) :=
  (s.vread ctlUnit 0 asid va n).map (·.1)

/-- Writes through a context for the control die; none where the address cannot be written. -/
def State.ctlWrite (s : State) (asid va : Nat) (bs : List Byte) : Option State :=
  match s.vwrite ctlUnit 0 asid va bs with
  | .ok r => some r.1
  | .error _ => none

/-! ### The fault queue (R382, R404, R418) -/

/-- FCONS as the control die reads it; none where it cannot be read. -/
def State.fcons (s : State) (c : Context) : Option Nat :=
  match s.ctlRead c.asid (c.fqbase.toNat + 4) 4 with
  | .ok b => some (bytesToNat b)
  | .error _ => none

/-- The bytes of a fault record (R382). -/
def FaultRec.bytes (f : FaultRec) : List Byte :=
  natToBytes 8 f.va.toNat ++ natToBytes 8 f.tsc ++ natToBytes 2 f.src
    ++ natToBytes 1 (f.kind + if f.kind ≥ 4 then 128 else 0) ++ natToBytes 1 f.acc ++ natToBytes 4 f.seq ++ natToBytes 8 0

/-- Writes FOVF, FHELD and FOVCNT where the header can be written (R382, R418). -/
def State.writeFaultHeader (s : State) (asid : Nat) : State :=
  match s.ctx? asid with
  | none => s
  | some c => (s.ctlWrite asid (c.fqbase.toNat + 8)
      (natToBytes 4 (if c.fheld > 0 then 1 else 0) ++ natToBytes 4 c.fheld ++ natToBytes 4 c.fovcnt)).getD s

/-- The group and the thread that a held item belongs to; 0xFFFF where it is the group's own. -/
def HeldItem.owner : HeldItem → Option (Nat × Nat)
  | .thread g t | .fill g t _ _ | .enq g t => some (g, t)
  | .groupEnd g | .save g | .checkpoint g => some (g, 0xFFFF)
  | _ => none

/-- Items are no longer held. A record that is itself still held for lack of space, and that no item is held under any more, goes with
them, and FHELD falls (R382). -/
def State.unhold (s : State) (gone : HeldItem → Bool) : State :=
  let empty := fun (f : FaultRec) => !f.posted && decide (f.kind < 4) && f.held.any gone && f.held.all gone
  let s1 : State := { s with
    faults := (s.faults.filter fun f => !empty f).map fun f => { f with held := f.held.filter fun h => !gone h }
    away := s.away.filter fun h => !gone h }
  (s.faults.filter empty).foldl (fun s f => (s.updCtx f.asid fun c => { c with fheld := c.fheld - 1 }).writeFaultHeader f.asid) s1

/-- Writes a record and after it FPROD; none where the queue is full or cannot be written. -/
def State.tryPost (s : State) (c : Context) (f : FaultRec) : Option State :=
  match s.fcons c with
  | none => none
  | some fc =>
    if (c.fprod + 2 ^ 32 - fc) % 2 ^ 32 ≥ c.fqlen then none
    else
      match s.ctlWrite c.asid (c.fqbase.toNat + 64 + 32 * (c.fprod % c.fqlen)) ({ f with seq := c.fprod } : FaultRec).bytes with
      | none => none
      | some s1 => s1.ctlWrite c.asid c.fqbase.toNat (natToBytes 4 ((c.fprod + 1) % 2 ^ 32))

/-- The address that keeps a fault record from being written: its slot, or the header (R418). -/
def State.unwritable (s : State) (c : Context) : DWord :=
  let slot := c.fqbase.toNat + 64 + 32 * (c.fprod % c.fqlen)
  if (s.fcons c).isSome && (s.ctlWrite c.asid slot (List.replicate 32 0)).isNone then BitVec.ofNat 64 slot else c.fqbase

/-- Whether the queue of a context has no room, and so does not merely fail to be written. -/
def State.queueFull (s : State) (c : Context) : Bool :=
  match s.fcons c with
  | none => false
  | some fc => decide ((c.fprod + 2 ^ 32 - fc) % 2 ^ 32 ≥ c.fqlen)

/-- Reports a translation fault for an item that is held (R382): it joins an unconsumed record of its source,
range and access kind, or is posted, or is held for lack of space or because the queue cannot be written. DEDUCED (log 30). An item
that waits for a reset die has no record (R279). DESIGN CHOICE (log 16). -/
def State.postFault (s : State) (asid va kind acc src : Nat) (item : HeldItem) : State :=
  match s.ctx? asid with
  | none => s
  | some c =>
    if kind = fkAway then { s with away := s.away ++ [item] } else
    let never := if kind ≥ 64 then [item] else []
    let kind := kind % 64
    let same := fun (f : FaultRec) => f.asid == asid && f.src == src && f.va.toNat / 65536 == va / 65536
      && f.acc % 4 == acc % 4 && (f.posted || f.tsc == s.tsc) && ((decide (f.kind < 4) && decide (kind < 4)) || f.kind == kind)
    if s.faults.any same then
      { s with faults := (s.faults.foldl (fun (p : List FaultRec × Bool) f =>
          if !p.2 && same f then (p.1 ++ [{ f with held := f.held ++ [item], never := f.never ++ never }], true) else (p.1 ++ [f], p.2)) ([], false)).1 }
    else
      let f : FaultRec :=
        { id := s.nextId, asid := asid, va := BitVec.ofNat 64 va, tsc := s.tsc, src := src, kind := kind, acc := acc
          seq := c.fprod, posted := true, held := [item], never := never }
      let s := s.fresh
      match s.tryPost c f with
      | some s1 => { s1.updCtx asid fun c => { c with fprod := (c.fprod + 1) % 2 ^ 32 } with faults := s1.faults ++ [f] }
      | none =>
        let s1 := { s.updCtx asid fun c => { c with fheld := c.fheld + 1, fovcnt := (c.fovcnt + 1) % 2 ^ 32 } with
          faults := s.faults ++ [{ f with posted := false }] }
        let s2 := if s.queueFull c then s1
          else s1.raiseErr { id := 0, asid := asid, tsc := 0, src := src, kind := 0x12, sev := 0, addr := s.unwritable c }
        s2.writeFaultHeader asid

/-! ### Stopping a thread (R41, R375) -/

/-- A thread's chain meets a precise fault: it parks, with a record. A fault of address or alignment kind is FINAL, and its thread is
forwarded at once (R382). -/
def State.faultThread (s : State) (gid tid : Nat) (va : DWord) (k acc : Nat) : State :=
  match s.group? gid with
  | none => s
  | some g =>
    let src := if acc / 4 = 3 then fieldSrc g.core else coreSrc g.core
    let s1 := (s.parkThread gid tid .access).postFault g.asid va.toNat k acc src (.thread gid tid)
    let other := fun (h : HeldItem) => h != .thread gid tid
    let s2 : State := { s1 with faults := s1.faults.map fun f => { f with held := f.held.filter other } }
    if k % 64 ≥ 4 then s2.takeTrap gid tid 9 k 0 va else s1

/-- Applies what stops a thread's chain: none of the chain has taken effect for it (R41). The
leader's faulting access keeps its entry in the compare buffer pending (R402). -/
def State.applyStop (s : State) (gid tid : Nat) (st : Stop) : State :=
  match st with
  | .trap k c a => s.takeTrap gid tid k c a
  | .parity rs ps us =>
    let mark := fun (t : Thread) =>
      { t.markPoison rs true with
        ppoison := ps.foldl (fun m n => putBit m n true) t.ppoison, pparity := ps.foldl (fun m n => putBit m n false) t.pparity
        skids := { n := t.skidNo, left := 0, parity := true, regs := maskOf 64 rs, preds := maskOf 8 ps } :: t.skids }
    let s1 := (s.updThread gid tid mark).updGroup gid fun g =>
      { g with utaken := g.utaken ||| maskOf 64 us, upoison := g.upoison ||| maskOf 64 us, uparity := g.uparity &&& ~~~(maskOf 64 us) }
    s1.takeTrap gid tid 7 0 0
  | .poison rs ps us =>
    let mark := fun (va : DWord) (t : Thread) =>
      { t with skids :=
          if us.isEmpty then
            let hit := fun (k : Skid) => !k.taken && (t.skidsAt rs ps).contains k.n
            t.skids.filter hit ++ t.skids.filter fun k => !hit k
          else { n := t.skidNo, left := 0, va := va } :: t.skids }
    let from_ := ((s.group? gid).map fun g => g.upFrom (us.headD 0)).getD 0
    ((s.updThread gid tid (mark from_)).updGroup gid fun g => { g with utaken := g.utaken ||| maskOf 64 us }).takeTrap gid tid 7 0 0
  | .park c =>
    let s1 := s.parkThread gid tid c
    match c, s.group? gid with
    | .rein, some g => s1.joinRein g.core gid
    | _, _ => s1
  | .fence f => s.updThread gid tid fun t => { t with st := .fencing f, fence := some f.upto }
  | .hold => s.updThread gid tid fun t => { t with st := .hold }
  | .fill tile row => s.updThread gid tid fun t => { t with st := .filling tile row, waitSince := s.cycle, parkSlot := s.issue.slot }
  | .ask commit edge table =>
    (s.updThread gid tid fun t =>
      { t with st := .asking commit edge table, fence := some (t.fence.getD s.nextId), waitSince := s.cycle, pseq := s.nextId, parkNext := s.issue.next, parkAlone := s.issue.alone
               parkSlot := s.issue.slot }).fresh
  | .trailer sig => s.updThread gid tid fun t => { t with st := .waiting, waitSince := s.cycle, waitTick := s.tsc, tsig := sig }
  | .fault va k acc => s.faultThread gid tid va k acc
  | .entry va kind acc k sig =>
    (s.faultThread gid tid va kind acc).updTandem gid fun t =>
      t.put { tid := tid, k := k, sig := sig, made := s.tsc, pc := s.issue.pc0.pkt, faulted := true }

/-- Stops the chain of a thread of the issuing pack: at once for a word that stands alone, else when the
chain is put back (R41). -/
def State.stopLane (s : State) (tid : Nat) (st : Stop) : State :=
  let s1 := { s with issue := { s.issue with stops := s.issue.stops ++ [(tid, s.issue.slot, st)] } }
  if s.issue.alone then s1.applyStop s.issue.gid tid st else s1

/-! ### One word over the pack (R9, R21, R45, R383, R381) -/

/-- Illegal Instruction (R70). -/
def illegal : Stop := .trap 1 0 0

/-- Words that are Illegal Instruction in tandem mode (R397). -/
def tandemIllegal : Instr → Bool
  | .tidset .. | .tidget .. | .copy .. | .copyTl .. | .copyLt .. | .gather .. | .scatter .. | .mloop .. | .mdrain ..
  | .mzero .. | .take .. | .pass .. | .mwait .. | .enq .. | .commit .. | .result .. | .launch .. | .coll .. | .halo ..
  | .step .. | .stepwait .. | .waitu .. | .ldFut .. | .stFut .. | .clrFut .. | .talloc .. | .tfree .. | .tbind ..
  | .tflush .. | .tring .. | .tarrt .. | .waita .. | .racq .. | .rrel .. | .vbind .. | .hbind .. | .vins .. | .vdel ..
  | .vactClr .. | .vactSet .. | .vst .. | .hgrad .. | .hgradd .. | .barS .. => true
  | _ => false

/-- The registers that a word names, for its allocation and for pending registers (R21, R45, R148). -/
def Opnds.named (o : Opnds) : List Nat :=
  regsOf o.src ++ regsOf o.dst ++ (if o.bank then (List.range 16).map (48 + ·) else [])

/-- The parity errors that the reading of a word's sources finds (R385). -/
def Lane.parityStop (l : Lane) (o : Opnds) : Option Stop :=
  let rs := (regsOf o.src).filter l.src.parityBad
  let ps := o.psrc.filter fun n => n != 0 && l.src.pparity.getLsbD n
  let us := (regsOf o.usrc).filter fun n => n != 0 && l.g.uparity.getLsbD n
  if rs.isEmpty && ps.isEmpty && us.isEmpty then none else some (.parity rs ps us)

/-- What stops a word before it acts: a register above the allocation, a word that tandem mode excludes,
a pending register, a parity error in a source. DEDUCED (log 71). -/
def precheck (i : Instr) (l : Lane) : Option Stop :=
  let o := opnds i
  if (o.named.any fun n => decide (n ≥ l.g.alloc)) || (l.g.role != .solo && tandemIllegal i) then some illegal
  else if o.named.any fun n => n != 0 && l.src.pend.getLsbD n then some .hold
  else l.parityStop o

/-- Moves the PC past the chain, once: a word that acts later leaves what a transfer of control has set (R37, R153). A chain of
one word begins the flags that it raises. -/
def Thread.advance (t : Thread) (i : Issue) : Thread :=
  { t with
    pc := if i.first then i.next else t.pc
    packet := if i.first && i.next.slot == 0 then [] else t.packet
    fence := none
    raised := if i.alone then 0 else t.raised
    grants := if i.alone then [] else t.grants }

/-- After a word has acted for a thread: a poisoned source poisons every destination, and a clean one
clears the mark (R383); the poisonings of its sources spread, and poison that enters with a uniform register or a granted value starts a
skid; one more instruction has retired under those that stand. -/
def Thread.settle (t : Thread) (o : Opnds) (p : Bool) (own : List Nat) (enter : Option DWord) : Thread :=
  let t := t.markPoison (regsOf o.dst) p
  let off := fun (k : Skid) => { k with preds := k.preds &&& ~~~(maskOf 8 o.pdst) }
  let t := ({ t with
    ppoison := o.pdst.foldl (fun m n => putBit m n p) t.ppoison
    pparity := o.pdst.foldl (fun m n => putBit m n false) t.pparity
    skids := t.skids.map off }).retired.spread own (regsOf o.dst) o.pdst
  match enter with
  | some va => t.poisonIn va (regsOf o.dst) o.pdst
  | none => t

/-- The registers whose poison a word settles as it issues: not the value of an LD.FUT, which a status of 1 or 2 leaves as it was (R256),
nor the D of an ACCEPT that a later slot writes (R153). -/
def settled (i : Instr) (poisoned drop : Bool) : Opnds :=
  match i with
  | .accept .. => if drop then { opnds i with dst := [] } else opnds i
  | .ldFut _ _ _ b => if poisoned then opnds i else { opnds i with dst := [(b.toNat, 1)] }
  | _ => opnds i

/-- The trap that ends a chain which raised a flag that its context traps on (R381), after that of a TRAP or BRK at the chain's
end. A thread that has ended takes none. DEDUCED (log 28). -/
def State.arithTrap (s : State) (gid tid : Nat) : State :=
  match s.group? gid, s.thread? gid tid with
  | some g, some t =>
    if s.issue.last && (t.raised &&& s.trapen g.asid) != 0 && t.st != .exited && t.st != .parked .trap then s.takeTrap gid tid 6 0 (t.raised.setWidth 32) else s
  | _, _ => s

/-- Where the poison of the value came from that a waiting word of a held chain was granted; none where it was clean. -/
def Lane.grantPoison (l : Lane) (s : State) : Option DWord := (l.src.grants.find? fun p => p.1 == s.issue.slot).bind (·.2.2)

/-- What a word leaves of the thread in which it has acted: the poison of its sources, of uniform registers and of what it was granted has
passed to its destinations (R383). -/
def Lane.after (l : Lane) (i : Instr) (s : State) (t : Thread) : Thread :=
  let enter := (l.uPoison (opnds i)).or (l.grantPoison s)
  let p := l.srcPoison (opnds i) || enter.isSome
  t.settle (settled i p s.issue.dropD) p (l.src.srcSkids (opnds i)) enter

/-- One word for one thread of the pack: its checks, its effect, and what follows. -/
def runLane (i : Instr) (f : Lane → State → Except Stop State) (s : State) (tid : Nat) : State :=
  match s.lane? tid with
  | none => s
  | some l =>
    match precheck i l with
    | some st => s.stopLane tid st
    | none =>
      match f l (s.updThread s.issue.gid tid fun t => t.advance s.issue) with
      | .error st => s.stopLane tid st
      | .ok s1 =>
        (s1.updThread s.issue.gid tid (l.after i s)).arithTrap s.issue.gid tid

/-- One word for the pack, its threads in increasing index (R234). -/
def runWord (i : Instr) (f : Lane → State → Except Stop State) (s : State) : Res :=
  .next (s.issue.tids.foldl (runLane i f) s)

/-- What a waiting word of a held chain was granted, at the slot now executed (R41). DESIGN CHOICE (log 8). -/
def Lane.grant (l : Lane) (s : State) : Option (List Word) := (l.src.grants.find? fun p => p.1 == s.issue.slot).map (·.2.1)

/-- Changes the thread of a lane. -/
def State.updLane (s : State) (l : Lane) (f : Thread → Thread) : State := s.updThread l.g.gid l.cur.tid f

/-- A word whose effect lies in the thread alone, or that a check of its own stops. -/
def runRegs (i : Instr) (f : Lane → Except Stop (Thread → Thread)) (s : State) : Res :=
  runWord i (fun l s =>
    match f l with
    | .error st => .error st
    | .ok h => .ok (s.updLane l h)) s

/-- A word that always takes effect, in the thread alone. -/
def runPure (i : Instr) (f : Lane → Thread → Thread) (s : State) : Res := runWord i (fun l s => .ok (s.updLane l (f l))) s

/-! ### Poison at its point of use (R383, R384) -/

/-- Whether a poisoning that some registers or predicates hold has still to be consumed. -/
def Thread.unconsumed (t : Thread) (rs ps : List Nat) : Bool := t.skids.any fun k => !k.taken && (t.skidsAt rs ps).contains k.n

/-- Use of registers at a consumption point: the trap while a poisoning that they hold has not been consumed, else whether
the poisoned value is used (R384). -/
def Lane.consume (l : Lane) (rs : List Nat) : Except Stop Bool :=
  if l.src.anyPoison rs then (if l.src.unconsumed rs [] then .error (.poison rs [] []) else .ok true) else .ok false

/-- An event that the state does not enable (log 13). -/
def notEnabled : Res := .fault .notEnabled

end Sys2Proof.Machine
end

