-- ==== Sys2Proof/Machine/Issue.lean ====
section
/-! DEFINITION. From ready threads to an issued chain: forming a pack (R26), fetching and checking its
packet (R36, R40), and running a chain as one action of each thread (R39, R41). The meaning of a word is
an argument, so that this file stands before the instructions: `ex` for words, `ill` for a word that is none. -/

namespace Sys2Proof.Machine

/-- Pipes of R16. FP stands for FPA or FPB (R17). -/
inductive Pipe where
  | int | fp | dp | sfu | mem | fld | ctl | eng
  deriving DecidableEq, Repr

/-- The pipe of a word, by its major and, for the floating-point majors, its form (R16, R47, R56). A
reserved major has none. DEDUCED (log 68). -/
def pipeOf (w : Nat) : Option Pipe :=
  let m := field 6 25 w
  if m = 0x10 ∨ m = 0x12 then some (if field 2 5 w = 1 then .dp else .fp)
  else if m = 0x11 then some (if field 1 0 w = 1 then .dp else .fp)
  else if m = 0x13 ∨ m = 0x14 then some .fp
  else if m = 0x15 then some (if field 5 0 w ∈ [0, 1, 12, 13, 14, 15, 16, 17, 18, 19, 24, 25] then .dp else .fp)
  else if m = 0x16 then some .sfu
  else if m = 0x00 ∨ (0x1A ≤ m ∧ m ≤ 0x1D) ∨ m = 0x28 ∨ m = 0x34 ∨ m = 0x35 then some .ctl
  else if (0x20 ≤ m ∧ m ≤ 0x27) ∨ (0x29 ≤ m ∧ m ≤ 0x2B) ∨ m = 0x2F then some .mem
  else if m = 0x30 ∨ m = 0x31 then some .fld
  else if m = 0x2C ∨ m = 0x2D ∨ m = 0x2E ∨ m = 0x32 ∨ m = 0x33 then some .eng
  else if m ≤ 0x19 then some .int
  else none

/-- The chain bit of a word (R35). -/
def chained (w : Word) : Bool := w.getLsbD 31

/-- Two words of one chain that need the same pipe; two words fit FPA and FPB (R17). -/
def pipeClash (ps : List (Option Pipe)) : Bool :=
  [Pipe.int, .dp, .sfu, .mem, .fld, .ctl, .eng].any (fun p => decide (2 ≤ (ps.filter (· == some p)).length))
    || decide (3 ≤ (ps.filter (· == some Pipe.fp)).length)

/-- The words of the chain that begins at a slot (R39). -/
def chainFrom (ws : List Word) : List Word :=
  match ws with
  | [] => []
  | w :: ws => if chained w then w :: chainFrom ws else [w]

/-- The chains of a packet, from its first slot. -/
def chainsOf (n : Nat) (ws : List Word) : List (List Word) :=
  match n with
  | 0 => []
  | n + 1 => if ws.isEmpty then [] else chainFrom ws :: chainsOf n (ws.drop (chainFrom ws).length)

/-- Illegal Packet (R40). -/
def illegalPacket (ws : List Word) : Bool :=
  chained (ws.getD 2 0)
  || (chainsOf 3 ws).any (fun c => pipeClash (c.map fun w => pipeOf w.toNat))
  || ws.any fun w => chained w && pipeOf w.toNat == some .ctl

/-- The three words of a packet, or the address and kind of a fetch fault (R36). -/
def State.fetchPacket (s : State) (g : Group) (va : Nat) : Except (Nat × Nat) (List Word) :=
  match s.reach g.core (coreDie g.core) g.asid va 12 { x := true } with
  | .error e => .error e
  | .ok ps => .ok (natToWords 3 (bytesToNat (ps.flatMap fun p => s.readTrans p.1 p.2)))

/-- A thread fetches the packet at its PC. At slot 0 the packet is checked (R40); a thread that resumes inside
a packet does not take the check again. DEDUCED (log 32). -/
def State.fetch (s : State) (gid tid : Nat) : State :=
  match s.group? gid, s.thread? gid tid with
  | some g, some t =>
    match s.fetchPacket g t.pc.pkt.toNat with
    | .error e => s.applyStop gid tid (.fault (BitVec.ofNat 64 e.1) e.2 3)
    | .ok ws =>
      let s := (s.tlbFill g.core (coreDie g.core) g.asid t.pc.pkt.toNat).touchFor { x := true } g.core (coreDie g.core) g.asid t.pc.pkt.toNat 12
      if t.pc.slot = 0 && illegalPacket ws then s.applyStop gid tid (.trap 2 0 0)
      else s.updThread gid tid fun t => { t with packet := ws }
  | _, _ => s

/-- Quarter of a thread (R22). -/
def quarterOf (tid : Nat) : Nat := tid / 64 % 4

/-- Whether the threads of a group are stalled: the leader's while its compare buffer asks for it (R399). An entry that a fault
keeps pending does not age (log 60). -/
def State.stalled (s : State) (g : Group) : Bool :=
  g.role == .leader &&
  match s.tandem? g.gid with
  | none => false
  | some t =>
    t.bufferFull || t.pending.any fun e => !e.unmade && decide (e.made + 4000 < s.tsc)

/-- Whether both copies of a tandem group stand still while a checkpoint is taken (R401). -/
def State.frozen (s : State) (g : Group) : Bool := g.role != .solo && ((s.tandem? g.gid).map (·.due)).getD false

/-- Whether a thread may issue: ready, not held back by the skid's end (R383), and no checkpoint being taken (R401). -/
def canIssue (frozen : Bool) (t : Thread) : Bool := t.st == .ready && (t.skids.all fun k => k.taken || k.left != 0) && !frozen

/-- Whether a thread's turn has come (R323): those that wait afresh after a save issue in their park sequence. -/
def inTurn (g : Group) (t : Thread) : Bool :=
  match t.afresh with
  | none => true
  | some a => g.threads.all fun u => match u.afresh with | some b => u.st != .ready || decide (a.1 ≤ b.1) | none => true

/-- Ready threads of a core, with their groups. -/
def State.readyOn (s : State) (core : Nat) : List (Group × Thread) :=
  (s.groups.filter fun g => g.core == core && !g.awaitRein && !s.stalled g).flatMap fun g =>
    (g.threads.filter (canIssue (s.frozen g))).map fun t => (g, t)

/-- Threads of a core's quarter that may issue, with their groups. -/
def State.candidates (s : State) (core quarter : Nat) : List (Group × Thread) :=
  (s.readyOn core).filter fun p => inTurn p.1 p.2 && quarterOf p.2.tid == quarter

/-- The key by which R26 ranks threads: longest waiting, then group slot, then thread index. -/
def rank (p : Group × Thread) : Nat := (p.2.waitSince * 16 + p.1.slot) * 1024 + p.2.tid

/-- The PC after a chain of n words (R37). -/
def PC.after (p : PC) (n : Nat) : PC := if p.slot + n ≥ 3 then { pkt := p.pkt + 12, slot := 0 } else { pkt := p.pkt, slot := p.slot + n }

/-- The port that a pipe is (R18): 0 MEM, 1 FLD, 2 ENG. -/
def portOf (p : Option Pipe) : Option Nat :=
  match p with | some .mem => some 0 | some .fld => some 1 | some .eng => some 2 | _ => none

/-- The chain at which a thread stands; empty while it holds no packet. -/
def Thread.chain (t : Thread) : List Word := chainFrom (t.packet.drop t.pc.slot)

/-- The ports that a chain needs. -/
def portsOf (ws : List Word) : List Nat := ws.filterMap fun w => portOf (pipeOf w.toNat)

/-- A NOP that stands alone (R42). -/
def isNop (ws : List Word) : Bool := ws == [0]

/-- Whether a word of a thread's chain names a pending register (R45). -/
def Thread.pendHeld (t : Thread) : Bool :=
  t.chain.any fun w => match decode w.toNat with
    | some i => (opnds i).named.any fun n => n != 0 && t.pend.getLsbD n
    | none => false

/-- Cycles for which a chain keeps its SFU pipe (R16): one for every 16 threads, twice that for a pair-width form. -/
def sfuCycles (pack : Nat) (ws : List Word) : Nat :=
  match ws.find? fun w => pipeOf w.toNat == some .sfu with
  | none => 0
  | some w => (pack + 15) / 16 * match decode w.toNat with
    | some (.rcp _ _ _ 1) | some (.sqrt _ _ _ 1) | some (.div _ _ _ _ 1) => 2
    | _ => 1

/-- Whether a thread's chain can issue now, as far as it is known (R296): the SFU pipe, where it needs it, is free, and none of
its ports is among those that have served another quarter in this cycle. -/
def State.chainFree (s : State) (core quarter : Nat) (lost : List Nat) (t : Thread) : Bool :=
  !((t.chain.any fun w => pipeOf w.toNat == some .sfu) && decide (s.cycle < (s.core core).sfu.getD quarter 0))
    && !(portsOf t.chain).any lost.contains

/-- The pack that a quarter forms (R26) of the threads whose chains can issue (R296): the group and the threads. A thread that
has no packet takes part where `fetching` says so. -/
def State.packOf (s : State) (core quarter : Nat) (lost : List Nat) (fetching : Bool) : Option (Group × List Thread) :=
  let c := (s.candidates core quarter).filter fun p => s.chainFree core quarter lost p.2 && (fetching || !p.2.packet.isEmpty)
  match minBy? rank c with
  | none => none
  | some (g, t) =>
    let same := (c.filter fun p => p.1.gid == g.gid && p.2.pc == t.pc).map (·.2)
    some (g, sortBy (·.tid) ((sortBy (fun t => t.waitSince * 1024 + t.tid) same).take 64))

/-! ### The ports of a core (R18) -/

/-- A quarter's pack in a cycle. -/
structure Pick where
  quarter : Nat
  g : Group
  ts : List Thread

/-- The ports that a pack's chain needs. -/
def Pick.ports (p : Pick) : List Nat := match p.ts with | t :: _ => portsOf t.chain | [] => []

/-- The packs of the quarters that have none yet, of the chains that need no port that is taken. -/
def State.picks (s : State) (core : Nat) (won : List Pick) : List Pick :=
  let lost := won.flatMap Pick.ports
  ([0, 1, 2, 3].filter fun q => !won.any fun x => x.quarter == q).filterMap fun q =>
    (s.packOf core q lost false).map fun x => { quarter := q, g := x.1, ts := x.2 }

/-- Whether a pack can be served beside others: every port that it needs is free. -/
def Pick.fits (won : List Pick) (x : Pick) : Bool :=
  won.all fun y => y.quarter != x.quarter && x.ports.all fun p => !y.ports.contains p

/-- A port that is free serves one of the packs that need it, the first after the quarter served last (R18), with all the ports
of its chain. -/
def servePort (last : List Nat) (ps won : List Pick) (p : Nat) : List Pick :=
  let mine := ps.filter fun x => x.ports.contains p && x.fits won
  match ([1, 2, 3, 4].map fun k => (last.getD p 3 + k) % 4).findSome? fun q => mine.find? fun x => x.quarter == q with
  | some x => won ++ [x]
  | none => won

/-- The packs served of some that are formed: those that need no port, and each port's. -/
def servePacks (last : List Nat) (won ps : List Pick) : List Pick :=
  [0, 1, 2].foldl (servePort last ps) (won ++ ps.filter fun x => x.ports.isEmpty)

/-- For how many cycles in a row each quarter's first choice has been passed over at a port, once some packs are served. -/
def passedAfter (passed : List Nat) (ps won : List Pick) : List Nat :=
  [0, 1, 2, 3].map fun q =>
    if ps.any fun x => x.quarter == q && !won.any fun y => y.quarter == q then passed.getD q 0 + 1 else 0

/-- Whether no quarter need ever be passed over more than three times in a row (R296): four quarters can still be served one after
another, the longest passed over first. -/
def fairPassed (l : List Nat) : Bool := [1, 2, 3, 4].all fun v => decide ((l.filter fun k => decide (v ≤ k)).length ≤ 4 - v)

/-- The first choices of a core's quarters that are served: by the rotation of each port (R18); where quarters that need several
ports would be passed over too often by it, those longest passed over go first (R296). DEDUCED (log 74). -/
def State.firstServed (s : State) (core : Nat) (ps : List Pick) : List Pick :=
  let c := s.core core
  let won := servePacks c.ports [] ps
  if fairPassed (passedAfter c.passed ps won) then won
  else (sortBy (fun x => 4 - c.passed.getD x.quarter 0) ps).foldl (fun won x => if x.fits won then won ++ [x] else won) []

/-- Quarters whose first choice is not served form packs of other chains, up to n times (R296). -/
def State.servedMore (s : State) (core : Nat) : Nat → List Pick → List Pick
  | 0, won => won
  | n + 1, won => s.servedMore core n (servePacks (s.core core).ports won (s.picks core won))

/-- The packs that a core issues in one cycle, in ascending quarter order: each port serves one quarter (R18), and a quarter that it
does not serve considers its other chains (R296). DEDUCED (log 74). -/
def State.served (s : State) (core : Nat) : List Pick :=
  sortBy (·.quarter) (s.servedMore core 4 (s.firstServed core (s.picks core [])))

/-- Notes which quarters' first choices a core passes over in this cycle. -/
def State.notePassed (s : State) (core : Nat) : State :=
  let ps := s.picks core []
  s.updCore core fun c => { c with passed := passedAfter c.passed ps (s.firstServed core ps) }

/-- What issues on a quarter is noted: the quarter at its ports (R18), and its SFU pipe (R16). -/
def State.notePipes (s : State) (core quarter pack : Nat) (ws : List Word) : State :=
  let n := sfuCycles pack ws
  s.updCore core fun c =>
    { c with
      ports := (portsOf ws).foldl (fun l p => setAt l p quarter) c.ports
      sfu := if n = 0 then c.sfu else setAt c.sfu quarter (s.cycle + n) }

/-- Words that act after the others of their chain (R153). -/
def isProposal : Instr → Bool
  | .propose .. | .accept .. | .discard .. => true
  | _ => false

/-- The chain's words in the order in which they act: a proposal word last (R153). -/
def actingOrder (is : List (Nat × Instr)) : List (Nat × Instr) :=
  (is.filter fun p => !isProposal p.2) ++ is.filter fun p => isProposal p.2

/-- A later slot writes the register of ACCEPT, which lies outside the bank (R153). -/
def dropsD (is : List (Nat × Instr)) (p : Nat × Instr) : Bool :=
  match p.2 with
  | .accept _ d _ => decide (d.toNat < 48) && is.any fun q => decide (p.1 < q.1) && (regsOf (opnds q.2).dst).contains d.toNat
  | _ => false

/-- Runs the words of a chain one after another for one thread. A fault or a refusal ends the step. -/
def chainWords (ex : Instr → State → Res) (all : List (Nat × Instr)) (first : Bool) : List (Nat × Instr) → State → Res
  | [], s => .next s
  | p :: ps, s =>
    match ex p.2 { s with issue := { s.issue with slot := p.1, first := first, last := ps.isEmpty, dropD := dropsD all p } } with
    | .next s => chainWords ex all false ps s
    | r => r

/-- A stop by a trap or a precise fault. -/
def Stop.faulting : Stop → Bool
  | .trap .. | .parity .. | .poison .. | .fault .. | .entry .. => true
  | _ => false

/-- The stop that a thread takes when several words of its chain would stop it: Illegal Instruction comes
first (R41, R70), then a trap or a precise fault, so that no word of the chain has arrived anywhere (R131), then a pending register
(R45), else the first word's. DEDUCED (log 27). -/
def chosenStop (l : List (Nat × Nat × Stop)) : Option (Nat × Nat × Stop) :=
  ([fun st => st == illegal, Stop.faulting, fun st => st == Stop.hold, fun _ => true].findSome? fun (p : Stop → Bool) =>
    l.find? fun x => p x.2.2)

/-- Runs a chain of two or three words for one thread, whole or not at all (R41). -/
def chainThread (ex : Instr → State → Res) (is : List (Nat × Instr)) (s : State) (tid : Nat) : Res :=
  match s.thread? s.issue.gid tid with
  | none => .next s
  | some t =>
    let s1 := s.updThread s.issue.gid tid fun t => { t with raised := 0 }
    match chainWords ex is true (actingOrder is) { s1 with issue := { s1.issue with tids := [tid], snap := [t], stops := [] } } with
    | .next s2 =>
      match chosenStop s2.issue.stops with
      | none => .next (s2.updThread s.issue.gid tid fun t => { t with grants := [] })
      | some st => .next ({ s with issue := { s.issue with slot := st.2.1 } }.applyStop s.issue.gid tid st.2.2)
    | r => r

/-- An action for each of some items, one after another. A fault or a refusal ends the step. -/
def forEach {α : Type} (f : α → State → Res) : List α → State → Res
  | [], s => .next s
  | a :: as, s =>
    match f a s with
    | .next s => forEach f as s
    | r => r

/-- Runs a chain for every thread of the pack, in increasing index. DEDUCED (log 39). -/
def chainPack (ex : Instr → State → Res) (is : List (Nat × Instr)) (tids : List Nat) (s : State) : Res :=
  forEach (fun t s => chainThread ex is s t) tids s

/-- Applies the pack's gathered sums after the last thread; written with the field unit. -/
abbrev Flush := State → State

/-- Issues the chain of a pack whose packet holds the words `ws` (R39). A chain with a word that is not an
instruction is Illegal Instruction for every thread (R70). The group `g` is as it stood before the cycle, so that its uniform
registers read as they were (R24). -/
def issueChain (ex : Instr → State → Res) (ill : Word → State → Res) (flush : Flush) (s : State) (g : Group) (pc : PC) (tids : List Nat) (ws : List Word) : Res :=
  let ws := chainFrom ws
  let n := ws.length
  let base : Issue :=
    { gid := g.gid, pack := tids, tids := tids, pc0 := pc, next := pc.after n, slot := pc.slot, usnap := some (g.uregs, g.upoison) }
  match ws.mapM fun w => decode w.toNat with
  | none => ill ((ws.find? fun w => (decode w.toNat).isNone).getD 0) { s with issue := base }
  | some [i] =>
    match ex i { s with issue := base } with
    | .next s => .next (flush s)
    | r => r
  | some is =>
    let num := (List.range n).zip is |>.map fun p => (pc.slot + p.1, p.2)
    match chainPack ex num tids { s with issue := { base with alone := false, last := false } } with
    | .next s => .next (flush s)
    | r => r

/-- After an issue: the threads of the pack wait from the next cycle for their next chain (R296). A NOP alone is as though
absent (R42). -/
def State.afterIssue (s : State) (nopAlone : Bool) : State :=
  let s1 : State := { s with issue := { s.issue with snap := [], usnap := none, stops := [], sums := [] } }
  if nopAlone then s1
  else s1.issue.pack.foldl (fun s t => s.updThread s1.issue.gid t fun t =>
    { t.shed with waitSince := if t.st = .ready then s1.cycle + 1 else t.waitSince, afresh := none }) s1

/-- Threads of a pack that still stand ready, with a packet, at its PC. -/
def State.stillReady (s : State) (gid : Nat) (pc : PC) (tids : List Nat) : List Thread :=
  tids.filterMap fun n => match s.thread? gid n with
    | some t => if t.st == .ready && !t.packet.isEmpty && t.pc == pc then some t else none
    | none => none

/-- Issues a pack on a quarter: its chain, and what it leaves at the pipes. -/
def issuePack (ex : Instr → State → Res) (ill : Word → State → Res) (flush : Flush) (core quarter : Nat) (g : Group) (ts : List Thread) (s : State) : Res :=
  match ts with
  | [] => .next s
  | t :: _ =>
    match issueChain ex ill flush (s.notePipes core quarter ts.length t.chain) g t.pc (ts.map (·.tid)) (t.packet.drop t.pc.slot) with
    | .next s => .next (s.afterIssue (isNop t.chain))
    | r => r

/-- What passes after a pack has issued alone: a cycle, but for a NOP alone (R42). -/
def afterPack (nop : Bool) (r : Res) : Res :=
  match r with
  | .next s => .next (if nop then s else s.oneCycle)
  | r => r

/-- One cycle in which a single quarter of a core issues: its pack, the fetch of threads that have no packet yet, its chain. Every
other quarter waits for its fetches (log 4). None where the quarter has no thread whose chain can issue. -/
def issueQuarter (ex : Instr → State → Res) (ill : Word → State → Res) (flush : Flush) (s : State) (core quarter : Nat) : Option Res :=
  match s.packOf core quarter [] true with
  | none => none
  | some (g, ts) =>
    let s := (ts.filter fun t => t.packet.isEmpty).foldl (fun s t => s.fetch g.gid t.tid) s
    let s := s.updCore core fun c => { c with passed := setAt c.passed quarter 0 }
    match (s.stillReady g.gid ((ts.head?.map (·.pc)).getD {}) (ts.map (·.tid))).filter (s.chainFree core quarter []) with
    | [] => some (.next s.oneCycle)
    | t :: ts => some (afterPack (isNop t.chain) (issuePack ex ill flush core quarter g (t :: ts) s))

/-! ### A whole cycle (R26, R296) -/

/-- The cores that hold a group. -/
def State.busyCores (s : State) : List Nat := s.groups.foldl (fun l g => insertNat g.core l) []

/-- The quarters of the cores that hold a group, in ascending order. -/
def State.busyQuarters (s : State) : List (Nat × Nat) := s.busyCores.flatMap fun c => [0, 1, 2, 3].map fun q => (c, q)

/-- A ready thread passes up to n NOPs that stand alone: each is as though absent (R42). -/
def passNops (ex : Instr → State → Res) (ill : Word → State → Res) (flush : Flush) (gid tid : Nat) : Nat → State → Res
  | 0, s => .next s
  | n + 1, s =>
    match s.group? gid, s.thread? gid tid with
    | some g, some t =>
      if t.st == .ready && isNop t.chain then
        match issuePack ex ill flush g.core (quarterOf tid) g [t] s with
        | .next s => passNops ex ill flush gid tid n s
        | r => r
      else .next s
    | _, _ => .next s

/-- A ready thread fetches the packet that it lacks and passes the NOPs that stand alone, in up to n packets. A NOP that ends its
packet is as though absent too: the next packet is fetched in the same cycle (R42). -/
def toChain (ex : Instr → State → Res) (ill : Word → State → Res) (flush : Flush) (gid tid : Nat) : Nat → State → Res
  | 0, s => .next s
  | n + 1, s =>
    match s.thread? gid tid with
    | none => .next s
    | some t =>
      if t.st != .ready then .next s
      else if t.packet.isEmpty || isNop t.chain then
        match passNops ex ill flush gid tid 3 (if t.packet.isEmpty then s.fetch gid tid else s) with
        | .next s => toChain ex ill flush gid tid n s
        | r => r
      else .next s

/-- More packets than the address space holds, for a thread that passes NOPs. -/
def packetLimit : Nat := 2 ^ 61

/-- A thread prepares to issue: it comes to its next chain that is no NOP, and is not ready while a register that the chain names is
pending (R45). -/
def prepare (ex : Instr → State → Res) (ill : Word → State → Res) (flush : Flush) (p : Nat × Nat) (s : State) : Res :=
  match toChain ex ill flush p.1 p.2 packetLimit s with
  | .next s => .next (s.updThread p.1 p.2 fun t => if t.st == .ready && t.pendHeld then { t with st := .hold } else t)
  | r => r

/-- One cycle of the device (R26, R296): every thread that may issue prepares; each quarter of each core forms its pack, and each
port serves one quarter; the packs issue in ascending quarter order, so that the highest quarter's uniform write remains, and
every one of them reads the uniform registers as they stood before the cycle (R24). -/
def cycleNow (ex : Instr → State → Res) (ill : Word → State → Res) (flush : Flush) (s : State) : Res :=
  let all := s.busyQuarters.flatMap fun p => (s.candidates p.1 p.2).map fun x => (x.1.gid, x.2.tid)
  match forEach (prepare ex ill flush) all s with
  | .next s1 =>
    let plan := s1.busyCores.flatMap fun c => (s1.served c).map fun k => (c, k)
    let go := fun (p : Nat × Pick) (s : State) => match p.2.ts with
      | [] => Host.Outcome.next s
      | t :: _ => issuePack ex ill flush p.1 p.2.quarter p.2.g (s.stillReady p.2.g.gid t.pc (p.2.ts.map (·.tid))) s
    match forEach go plan (s1.busyCores.foldl State.notePassed s1) with
    | .next s2 => .next s2.oneCycle
    | r => r
  | r => r

/-! ### The bound of 4,096 cycles (R26, R296) -/

/-- Cycles that a quarter's ready threads can still spare: 4,096 less the longest wait and four cycles for each thread that may go
before, which is what a pack may lose to a busy pipe or a shared port (R296). A thread that waits afresh after a save may have to
wait for those of the core's other quarters (R323). None where the quarter has no ready thread. -/
def State.quarterSlack (s : State) (core quarter : Nat) : Option Nat :=
  let all := s.readyOn core
  let mine := all.filter fun p => quarterOf p.2.tid == quarter
  let before := if mine.any fun p => p.2.afresh.isSome then all.filter fun p => quarterOf p.2.tid == quarter || p.2.afresh.isSome else mine
  (minBy? (fun p : Group × Thread => p.2.waitSince) mine).map fun p => 4096 - (s.cycle - p.2.waitSince) - 4 * before.length

/-- The least slack of any quarter. -/
def State.slack (s : State) : Option Nat := minBy? id (s.busyQuarters.filterMap fun p => s.quarterSlack p.1 p.2)

/-- Whether a ready thread has waited so long that every quarter has to issue now. -/
def State.pressed (s : State) : Bool := s.slack == some 0

/-- Threads that were neither ready nor parked try again (R45, R160), but for those that a pending register holds. -/
def State.retryHolds (s : State) : State :=
  { s with groups := s.groups.map fun g =>
    { g with threads := g.threads.map fun t => if t.st == .hold && !t.pendHeld then { t with st := .ready, waitSince := s.cycle } else t } }

end Sys2Proof.Machine
end

