-- ==== Sys2Proof/Machine/Flags.lean ====
section
/-! DEFINITION. The sticky flags (R84) and the conditions that compares test (R112). -/

namespace Sys2Proof.Machine

/-- Invalid operation, GETFLG bit 4. -/
def fNV : Flags := 16
/-- Division by zero, GETFLG bit 3. -/
def fDZ : Flags := 8
/-- Overflow, GETFLG bit 2. -/
def fOF : Flags := 4
/-- Underflow, GETFLG bit 1. -/
def fUF : Flags := 2
/-- Inexact, GETFLG bit 0. -/
def fNX : Flags := 1

/-- A flag raised when a condition holds. -/
def flagIf (b : Bool) (f : Flags) : Flags := if b then f else 0

/-- The integer conditions of ICMP, FN 0-9, on n-bit values (R112). -/
def icmpTrue (fn n a b : Nat) : Bool :=
  match fn with
  | 0 => a == b
  | 1 => a != b
  | 2 => decide (sval n a < sval n b)
  | 3 => decide (sval n a ≤ sval n b)
  | 4 => decide (sval n a > sval n b)
  | 5 => decide (sval n a ≥ sval n b)
  | 6 => decide (a < b)
  | 7 => decide (a ≤ b)
  | 8 => decide (a > b)
  | _ => decide (a ≥ b)

/-- The mode that a rounding code selects: codes 0-4 in the order of R79, 5 DYN the thread's (R54). -/
def modeOf (t : Thread) (code : Nat) : RMode :=
  match code with
  | 0 => .rne | 1 => .rtz | 2 => .rdn | 3 => .rup | 4 => .rna | _ => t.rmode

end Sys2Proof.Machine
end

