-- ==== Sys2Proof/Machine/Control.lean ====
section
/-! DEFINITION. Control transfer, exit, barriers, lane exchange and the words that wait on a thread's own
operations (R37, R119-R132, R218, R219, R258, R387), with the wake rules that need no other agent (R298). -/

namespace Sys2Proof.Machine

/-- Continues at slot 0 of a packet (R37). -/
def Thread.goto (t : Thread) (pkt : DWord) : Thread := { t with pc := { pkt := pkt, slot := 0 }, packet := [] }

/-- The packet that lies a signed number of packets from one (R37). -/
def packetAt (pkt : DWord) (off : Int) : DWord := pkt + BitVec.ofInt 64 (12 * off)

/-- NOP (R42): the PC moves past it, alone or as the last word of a chain, and nothing counts it. -/
def execNop (s : State) : Res :=
  .next (s.issue.tids.foldl (fun s tid =>
    (s.updThread s.issue.gid tid fun t => t.advance s.issue).arithTrap s.issue.gid tid) s)

/-- BRA (R119): a poisoned predicate reads as false once consumed (R384). -/
def execBra (p : BitVec 3) (n : BitVec 1) (o : BitVec 21) (s : State) : Res :=
  runWord (.bra p n o) (fun l s =>
    let poisoned := p != 0 && l.src.ppoison.getLsbD p.toNat
    if poisoned && l.src.unconsumed [] [p.toNat] then .error (.poison [] [p.toNat] [])
    else
      let v := !poisoned && l.src.pred p.toNat
      .ok (if v != (n == 1) then s.updLane l fun t => t.goto (packetAt s.issue.pc0.pkt o.toInt) else s)) s

/-- CALL (R120). -/
def execCall (d : BitVec 6) (i : BitVec 19) (s : State) : Res :=
  runWord (.call d i) (fun l s => .ok (s.updLane l fun t =>
    (t.setGroup d.toNat 2 (s.issue.pc0.pkt + 12).toNat).goto (packetAt s.issue.pc0.pkt i.toInt))) s

/-- The target of a register jump: Illegal Instruction when it lies off the packet grid (R37, R121) or is a
poisoned value that has been consumed (R384). -/
def jumpTarget (l : Lane) (a : Nat) : Except Stop DWord :=
  match l.consume [a, a + 1] with
  | .error st => .error st
  | .ok true => .error illegal
  | .ok false =>
    let t : DWord := BitVec.ofNat 64 (l.src.group a 2)
    if ((t.toNat : Int) - l.g.cbase.toNat) % 12 ≠ 0 then .error illegal else .ok t

/-- JR (R121). -/
def execJr (a : BitVec 6) (s : State) : Res :=
  runWord (.jr a) (fun l s =>
    match jumpTarget l a.toNat with
    | .error st => .error st
    | .ok t => .ok (s.updLane l fun th => th.goto t)) s

/-- JALR (R121): A is read before D is written. -/
def execJalr (d a : BitVec 6) (s : State) : Res :=
  runWord (.jalr d a) (fun l s =>
    match jumpTarget l a.toNat with
    | .error st => .error st
    | .ok t => .ok (s.updLane l fun th => (th.setGroup d.toNat 2 (s.issue.pc0.pkt + 12).toNat).goto t)) s

/-! ### Wake rules of a thread's own group (R298) -/

/-- Block size of a lane-exchange word (R127). -/
def blockOf (op : Nat) : Nat := match op with | 0 => 2 | 1 => 4 | 2 => 4 | _ => 32

/-- What a thread gave at a convergence point: its operation, destination and sources. -/
def Thread.arrived (t : Thread) : Option (Nat × Nat × Word × Word × Bool) :=
  match t.st with
  | .parked (.converge op d a b p) => some (op, d, a, b, p)
  | _ => none

/-- The members of a set: threads of the group in the aligned block of a thread (R127). -/
def Group.setOf (g : Group) (op tid : Nat) : List Thread :=
  g.threads.filter fun t => t.tid / blockOf op == tid / blockOf op

/-- val(u) of R129: what member u gave, 0 for an exited member or none. -/
def valOf (set : List Thread) (u : Nat) : Word × Bool :=
  match (set.find? fun t => t.tid == u).bind Thread.arrived with
  | some x => (x.2.2.1, x.2.2.2.2)
  | none => (0, false)

/-- The member whose value a member receives (R129); none for the words that combine the values of the set. -/
def partnerOf (op tid : Nat) (b : Word) : Option Nat :=
  match op with
  | 0 => some (tid ^^^ 1)
  | 1 => some (tid ^^^ 2)
  | 2 => some (tid ^^^ 3)
  | 3 => some (32 * (tid / 32) + b.toNat % 32)
  | 4 => some (tid ^^^ (b.toNat % 32))
  | _ => none

/-- Where a poisoned source of a thread's parked word has its poison from. -/
def Thread.ownVa (t : Thread) : DWord := ((t.skids.find? fun k => t.parkOwn.contains k.n).map (·.va)).getD 0

/-- The result of a lane-exchange word for a member, and whether a value in it is poisoned (R129, R130). -/
def exchangeResult (op tid : Nat) (b : Word) (set : List Thread) : Word × Bool :=
  let live := set.filterMap fun t => t.arrived.map fun x => (t.tid, x.2.2.1, x.2.2.2.2)
  let anyP := live.any fun x => x.2.2
  let base := 32 * (tid / 32)
  let all := set.map fun t => (valOf set t.tid).1
  match partnerOf op tid b with
  | some u => valOf set u
  | none => match op with
  | 5 => (if live.any fun x => x.2.1 != 0 then 1 else 0, anyP)
  | 6 => (if live.all fun x => x.2.1 != 0 then 1 else 0, anyP)
  | 7 => (live.foldl (fun v x => if x.2.1 != 0 then v ||| BitVec.ofNat 32 (2 ^ (x.1 - base)) else v) 0, anyP)
  | 8 => (all.foldl (· + ·) 0, anyP)
  | 9 => (all.foldl (fun m x => if x.slt m then x else m) (all.headD 0), anyP)
  | _ => (all.foldl (fun m x => if m.slt x then x else m) (all.headD 0), anyP)

/-- Poison that reaches a member with the value of another one, and where it came from (R383). -/
def exchangeEnters (op tid : Nat) (b : Word) (set : List Thread) : Option DWord :=
  let gives := fun (u : Thread) => u.tid != tid && ((u.arrived.map (·.2.2.2.2)).getD false) && match partnerOf op tid b with | some n => u.tid == n | none => true
  (set.find? gives).map Thread.ownVa

/-- Whether the set of an arrived thread is complete: every live member stands parked at the same word (R128). -/
def Group.setComplete (g : Group) (t : Thread) (op : Nat) : Bool :=
  (g.setOf op t.tid).all fun u =>
    u.st == .exited || (u.pc == t.pc && (u.arrived.map (·.1)) == some op)

/-- A thread's barrier or lane exchange delivers (R400). -/
def Thread.synced (t : Thread) : Thread := { t with sync := t.sync + 1 }

/-- Completes the sets that are complete: all results are formed before any is written (R128). -/
def State.settleConverge (s : State) (g : Group) : State :=
  (g.threads.filterMap fun t =>
    match t.arrived with
    | some x => if g.setComplete t x.1 then 
        some (t.tid, x.2.1, (exchangeResult x.1 t.tid x.2.2.2.1 (g.setOf x.1 t.tid)).1, exchangeEnters x.1 t.tid x.2.2.2.1 (g.setOf x.1 t.tid))
      else none
    | none => none).foldl (fun s r => (s.deliver g.gid r.1 r.2.1 [r.2.2.1] r.2.2.2).updThread g.gid r.1 Thread.synced) s

/-- Whether the side log holds an entry of a thread (R376). -/
def State.sideLogHas (s : State) (gid tid : Nat) : Bool := s.sideLog.any fun e => e.acc.gid == gid && e.acc.tid == tid

/-- Whether a thread has a side-log entry, or a faulted store that its compare buffer holds and that goes into the side log (R126, R376,
R398). -/
def State.logOpen (s : State) (gid tid : Nat) : Bool :=
  s.sideLogHas gid tid || s.tandems.any fun t => t.leader == gid && t.pending.any fun e => e.tid == tid && e.faulted && e.acc.isSome

/-- Releases the group barrier when every live thread has arrived at its instance and each of them is ordered as after
FENCE.GRP THR, THR: its loads are complete and it has no side-log entries (R123, R126, R219). -/
def State.settleBarG (s : State) (g : Group) : State :=
  let live := g.live
  match live with
  | [] => s
  | t :: _ =>
    if live.all fun u => u.st == .parked (.barG (t.barG + 1)) && u.nLoad == 0 && !s.logOpen g.gid u.tid then
      live.foldl (fun s u =>
        (s.deliver g.gid u.tid 0 [] none).updThread g.gid u.tid fun t => { t with barG := t.barG + 1 }.synced) s
    else s

/-- Whether a span's rectangle lies within one die. -/
def Span.oneDie (x : Span) : Bool := x.x0 / 10 == (x.x0 + x.w - 1) / 10 && x.y0 / 8 == (x.y0 + x.h - 1) / 8

/-- A fence that a thread begins now, or that its chain began when it was first held (R219). -/
def State.fenceOf (s : State) (t : Thread) (scope pa pb : Nat) : FenceWait :=
  { scope := scope, pa := pa, pb := pb, upto := t.fence.getD s.nextId }

/-- Whether an access belongs to what a fence's PA side may hold of other threads: those of its span, and of its own group at group
scope, before its start (R214, R218). -/
def State.before (s : State) (g : Group) (f : FenceWait) (gid id : Nat) : Bool :=
  decide (id < f.upto) && (gid == g.gid || (f.scope != 0 && (s.group? gid).any fun h => h.sid == g.sid))

/-- Whether the stores that other threads made before a fence are acknowledged, those that a compare buffer holds among them. A
trailer has no stores (R398). DEDUCED (log 86). -/
def State.othersStored (s : State) (g : Group) (f : FenceWait) : Bool :=
  g.role == .trailer ||
    (!(s.accs.any fun a => a.cls == 1 && s.before g f a.gid a.id)
      && !(s.tandems.any fun t => t.entries.any fun e => !e.released && e.acc.isSome && s.before g f t.leader e.aid))

/-- The completion times that a fence waits for: what the thread has been returned, and what its span's threads had been returned
by accesses before it, saved threads among them. DEDUCED (log 86). -/
def State.fenceTimes (s : State) (g : Group) (t : Thread) (f : FenceWait) : Nat × Nat :=
  (s.owed.filter fun o => o.sid == g.sid && (decide (o.id < f.upto) || (o.gid == g.gid && o.tid == t.tid))).foldl
    (fun m o => (max m.1 o.lw, max m.2 o.gw)) (t.lw, t.gw)

/-- Whether the waits of a fence have ended (R219); both masks zero mean THR on both sides (R218). The PA side is cumulative: it
holds what other threads have ordered before it (R214, R218). -/
def State.fenceDone (s : State) (g : Group) (t : Thread) (f : FenceWait) : Bool :=
  let thrOnly := (f.pa == 0 && f.pb == 0) || (f.pa == 1 && f.pb == 1)
  let thr := thrOnly || bits f.pa 0 1 == 1
  let fld := bits f.pa 3 1 == 1
  (!(thr || fld) || t.nLoad == 0)
  && (!fld || !(s.fieldOps.any fun o => o.gid == g.gid && o.tid == t.tid))
  && !s.logOpen g.gid t.tid
  && (match f.scope with
    | 0 => thrOnly || (t.nStore == 0 && s.othersStored g f)
    | 1 => t.nStore == 0 && s.othersStored g f
        && decide (s.tsc > if ((s.span? g.sid).map Span.oneDie).getD false then (s.fenceTimes g t f).1 else (s.fenceTimes g t f).2)
    | n => t.nStore == 0 && s.othersStored g f && decide (s.tsc > (s.fenceTimes g t f).2)
        && (n == 2 || !(s.linkCmds.any fun c => c.gid == some g.gid && c.tids.contains t.tid)))

/-- Whether a core lies in the aligned rectangle of 2^lw by 2^lh that holds another core (R124). -/
def sameRect (lw lh a b : Nat) : Bool :=
  coreX a / 2 ^ lw == coreX b / 2 ^ lw && coreY a / 2 ^ lh == coreY b / 2 ^ lh

/-- Cores that still have a group of the span to receive. -/
def Span.waitingCores (x : Span) : List Nat :=
  match x.deal with
  | .rect cores next => (cores.zip next).filterMap fun p => if p.2 < x.n then some p.1 else none
  | .leaves items => items.map (·.1)

/-- Releases a span barrier: in every group of the span dealt to the rectangle every live thread stands at the
instance with the ordering of a span fence, and no group dealt there is still to come (R124, R126). -/
def State.settleBarS (s : State) (g : Group) : State :=
  match s.span? g.sid, g.threads.findSome? fun t => match t.st with | .parked (.barS k lw lh) => some (k, lw, lh) | _ => none with
  | some sp, some (k, lw, lh) =>
    let gs := s.groups.filter fun h => h.sid == g.sid && h.role != .trailer && sameRect lw lh h.core g.core
    let ok := !(sp.waitingCores.any fun c => sameRect lw lh c g.core)
      && !(s.saved.any fun x => x.sid == g.sid && sameRect lw lh x.core g.core)
      && gs.all fun h => h.live.all fun t => t.st == .parked (.barS k lw lh) && s.fenceDone h t (s.fenceOf t 1 1 1)
    if ok then
      gs.foldl (fun s h => h.live.foldl (fun s t =>
        (s.deliver h.gid t.tid 0 [] none).updThread h.gid t.tid fun t => { t with barS := t.barS + 1 }) s) s
    else s
  | _, _ => s

/-- Whether a thread's matrix commands are all complete (R173). -/
def State.mxIdle (s : State) (gid tid : Nat) : Bool := !(s.mxs.any fun m => m.gid == gid && m.tids.contains tid)

/-- Whether the control die has accepted every record of events that the operations of a thread caused (R387). -/
def State.recordsAccepted (s : State) (gid tid : Nat) : Bool :=
  s.errors.all fun e => e.gid != some gid || (e.tid != 0xFFFF && e.tid != tid && !e.tids.contains tid) || e.accepted

/-- Whether a thread parked on its own operations may try its word again (R298, rows 13 to 16 and 18). -/
def State.ownWake (s : State) (g : Group) (t : Thread) : Bool :=
  match t.st with
  | .parked (.counter cls) => decide (t.outstanding cls < 63)
  | .parked .sideLog => decide ((s.sideLog.filter fun e => e.acc.core == g.core).length < 256)
  | .parked (.waitCtr ld st cp tl) =>
    (ld == 15 || decide (t.nLoad ≤ ld)) && (st == 15 || decide (t.nStore ≤ st))
      && (cp == 15 || decide (t.nCopy ≤ cp)) && (tl == 15 || decide (t.nTile ≤ tl))
  | .parked .mwait => s.mxIdle g.gid t.tid
  | .parked (.errq _) => t.nLoad == 0 && t.nStore == 0 && t.nCopy == 0 && t.nTile == 0 && s.recordsAccepted g.gid t.tid
  | _ => false

/-- Wakes the threads of a group that wait on their own operations. -/
def State.settleOwn (s : State) (g : Group) : State :=
  (g.threads.filter fun t => s.ownWake g t).foldl (fun s t => s.wakeThread g.gid t.tid) s

/-- Applies every wake rule of a group that needs no other agent's action. -/
def State.settleGroup (s : State) (gid : Nat) : State :=
  let s := match s.group? gid with | some g => s.settleConverge g | none => s
  let s := match s.group? gid with | some g => s.settleBarG g | none => s
  let s := match s.group? gid with | some g => s.settleBarS g | none => s
  match s.group? gid with | some g => s.settleOwn g | none => s

/-- Applies the wake rules of every group. -/
def State.settle (s : State) : State := s.groups.foldl (fun s g => s.settleGroup g.gid) s

/-- Runs a word and then the wake rules of the issuing group. -/
def thenSettle (r : Res) : Res :=
  match r with
  | .next s => .next (s.settleGroup s.issue.gid)
  | r => r

/-! ### Lane exchange (R127-R132) -/

/-- A lane-exchange word: the thread arrives and parks at the word; with the result granted it writes it. -/
def exchange (i : Instr) (op d a b : Nat) (s : State) : Res :=
  thenSettle (runWord i (fun l s =>
    match l.grant s with
    | some ws => .ok (s.updLane l fun t => t.setWords d ws)
    | none => .error (.park (.converge op d (l.src.reg a) (l.src.reg b) (l.src.anyPoison [a])))) s)

/-- XCH.PAIR (R129). -/
def execXchPair (c : BitVec 1) (d a : BitVec 6) (s : State) : Res := exchange (.xchPair c d a) 0 d.toNat a.toNat 0 s
/-- XCH.QX1 (R129). -/
def execXchQx1 (c : BitVec 1) (d a : BitVec 6) (s : State) : Res := exchange (.xchQx1 c d a) 1 d.toNat a.toNat 0 s
/-- XCH.QX2 (R129). -/
def execXchQx2 (c : BitVec 1) (d a : BitVec 6) (s : State) : Res := exchange (.xchQx2 c d a) 2 d.toNat a.toNat 0 s
/-- SHFL (R129). -/
def execShfl (c : BitVec 1) (d a b : BitVec 6) (s : State) : Res := exchange (.shfl c d a b) 3 d.toNat a.toNat b.toNat s
/-- SHFLX (R129). -/
def execShflx (c : BitVec 1) (d a b : BitVec 6) (s : State) : Res := exchange (.shflx c d a b) 4 d.toNat a.toNat b.toNat s
/-- VOTEANY (R129). -/
def execVoteany (c : BitVec 1) (d a : BitVec 6) (s : State) : Res := exchange (.voteany c d a) 5 d.toNat a.toNat 0 s
/-- VOTEALL (R129). -/
def execVoteall (c : BitVec 1) (d a : BitVec 6) (s : State) : Res := exchange (.voteall c d a) 6 d.toNat a.toNat 0 s
/-- BALLOT (R129). -/
def execBallot (c : BitVec 1) (d a : BitVec 6) (s : State) : Res := exchange (.ballot c d a) 7 d.toNat a.toNat 0 s
/-- REDADD (R129). -/
def execRedadd (c : BitVec 1) (d a : BitVec 6) (s : State) : Res := exchange (.redadd c d a) 8 d.toNat a.toNat 0 s
/-- REDMIN (R129). -/
def execRedmin (c : BitVec 1) (d a : BitVec 6) (s : State) : Res := exchange (.redmin c d a) 9 d.toNat a.toNat 0 s
/-- REDMAX (R129). -/
def execRedmax (c : BitVec 1) (d a : BitVec 6) (s : State) : Res := exchange (.redmax c d a) 10 d.toNat a.toNat 0 s

/-! ### Barriers, exit, traps and waits -/

/-- BAR.G (R123). -/
def execBarG (s : State) : Res :=
  thenSettle (runWord .barG (fun l s =>
    match l.grant s with
    | some _ => .ok s
    | none => .error (.park (.barG (l.src.barG + 1)))) s)

/-- BAR.S (R124): a rectangle larger than the span is Illegal Instruction (R69). -/
def execBarS (w h : BitVec 4) (s : State) : Res :=
  thenSettle (runWord (.barS w h) (fun l s =>
    match l.grant s with
    | some _ => .ok s
    | none =>
      let fits := ((s.span? l.g.sid).map fun x => decide (2 ^ w.toNat ≤ x.w) && decide (2 ^ h.toNat ≤ x.h)).getD false
      if fits then .error (.park (.barS (l.src.barS + 1) w.toNat h.toNat)) else .error illegal) s)

/-- A thread ends (R122): its open proposal and its pending matrix flags are discarded (R173), and what its operations would have
written to its registers is lost, since no register of an ended thread is read. -/
def Thread.end_ (t : Thread) : Thread := { t with st := .exited, popen := false, mflags := 0 }

/-- The flags of completed matrix commands that a thread has not merged are discarded (R173). -/
def State.dropMxDone (s : State) (gid tid : Nat) : State := { s with mxDone := s.mxDone.filter fun m => !(m.gid == gid && m.tid == tid) }

/-- EXIT (R122). In tandem mode it completes only when the other copy exits too, and parks until then (R403). -/
def execExit (s : State) : Res :=
  thenSettle (runWord .exit (fun l s =>
    if l.g.role = .solo || (l.grant s).isSome then .ok ((s.dropMxDone l.g.gid l.cur.tid).updLane l Thread.end_)
    else .error (.park (.rendezvous 2))) s)

/-- TRAP (R387): the thread is parked after its chain, and a message of kind 4 goes out. -/
def execTrap (a : BitVec 6) (n : BitVec 8) (s : State) : Res :=
  runWord (.trap a n) (fun l s => .ok (s.takeTrap l.g.gid l.cur.tid 4 n.toNat (l.src.reg a.toNat))) s

/-- BRK (R387): as TRAP with kind 5 and no value. -/
def execBrk (n : BitVec 8) (s : State) : Res :=
  runWord (.brk n) (fun l s => .ok (s.takeTrap l.g.gid l.cur.tid 5 n.toNat 0)) s

/-- YIELD (R387): not ready for 64 cycles. -/
def execYield (s : State) : Res :=
  runWord .yield (fun l s => .ok (s.updLane l fun t => { t with st := .yielding (s.cycle + 64) })) s

/-- YIELD_EXPIRY: the 64 cycles have passed, and the thread's wait counts from now (R387). -/
def execYieldExpiry (g t : Nat) (s : State) : Res :=
  match s.thread? g t with
  | some th =>
    match th.st with
    | .yielding u => if u ≤ s.cycle then .next (s.wakeThread g t) else notEnabled
    | _ => notEnabled
  | none => notEnabled

/-- ERRQ (R387): waits for the thread's operations and their records, then writes ECOUNT. -/
def execErrq (d : BitVec 6) (s : State) : Res :=
  runWord (.errq d) (fun l s =>
    let t := l.src
    if t.nLoad = 0 ∧ t.nStore = 0 ∧ t.nCopy = 0 ∧ t.nTile = 0 ∧ s.recordsAccepted l.g.gid l.cur.tid then
      .ok (s.updLane l fun t => t.setReg d.toNat (BitVec.ofNat 32 (((s.ctx? l.g.asid).map (·.ecount)).getD 0)))
    else .error (.park (.errq d.toNat))) s

/-- Merges the flags of the thread's completed matrix commands (R173). -/
def State.mergeMx (s : State) (gid tid : Nat) : State :=
  let fl := (s.mxDone.filter fun m => m.gid == gid && m.tid == tid).foldl (fun f m => f ||| m.flags) 0
  { s with mxDone := s.mxDone.filter fun m => !(m.gid == gid && m.tid == tid) }.updThread gid tid
    fun t => { t.raise (fl ||| t.mflags) with mflags := 0 }

/-- WAIT (R258). -/
def execWait (l s_ p t : BitVec 4) (s : State) : Res :=
  runWord (.wait l s_ p t) (fun ln s =>
    let le := fun (n : Nat) (k : BitVec 4) => k == 15 || decide (n ≤ k.toNat)
    if le ln.src.nLoad l && le ln.src.nStore s_ && le ln.src.nCopy p && le ln.src.nTile t then
      .ok (s.mergeMx ln.g.gid ln.cur.tid)
    else .error (.park (.waitCtr l.toNat s_.toNat p.toNat t.toNat))) s

/-- MWAIT (R173): waits for the thread's matrix commands and merges their flags. -/
def execMwait (c : BitVec 1) (s : State) : Res :=
  runWord (.mwait c) (fun l s =>
    if s.mxIdle l.g.gid l.cur.tid then .ok (s.mergeMx l.g.gid l.cur.tid) else .error (.park .mwait)) s

/-- FENCE (R257): holds its chain until its waits have ended (R219). -/
def execFence (c : BitVec 1) (s_ : BitVec 3) (a b : BitVec 6) (s : State) : Res :=
  runWord (.fence c s_ a b) (fun l s =>
    let f := s.fenceOf l.src s_.toNat a.toNat b.toNat
    if s.fenceDone l.g l.src f then .ok s else .error (.fence f)) s

/-- NOT_AN_INSTRUCTION (R69, R70): Illegal Instruction in every thread of the pack. -/
def execNotAnInstruction (_w : BitVec 32) (s : State) : Res :=
  .next (s.issue.tids.foldl (fun s t => s.stopLane t illegal) s)

/-- POISON_SKID (R383): the 256th instruction after the poison entered has retired, and the thread takes the
poison consumption trap. -/
def execPoisonSkid (g t : Nat) (s : State) : Res :=
  match s.thread? g t with
  | some th => if (th.skids.any fun k => !k.taken && k.left == 0) ∧ th.st = .ready then .next (s.takeTrap g t 7 0 0) else notEnabled
  | none => notEnabled

end Sys2Proof.Machine
end

