-- ==== Sys2Proof/Machine/Float.lean ====
section
/-! DEFINITION. Binary floating point as exact arithmetic and one rounding (R76-R86): formats, decoding,
rounding with its flags, the basic operations, conversions, and the S8 scale code (R89-R91). Values are
bit patterns held as numbers. -/

namespace Sys2Proof.Machine

/-- A format of R76 by its exponent and fraction widths. -/
structure Fmt where
  eb : Nat
  fb : Nat
  deriving DecidableEq, Repr

def f64 : Fmt := ⟨11, 52⟩
def f32 : Fmt := ⟨8, 23⟩
def f16 : Fmt := ⟨5, 10⟩
def bf16 : Fmt := ⟨8, 7⟩

/-- Exponent bias. -/
def Fmt.bias (f : Fmt) : Nat := 2 ^ (f.eb - 1) - 1
/-- Width of the format. -/
def Fmt.width (f : Fmt) : Nat := 1 + f.eb + f.fb
/-- Sign bit as a value. -/
def Fmt.signBit (f : Fmt) : Nat := 2 ^ (f.eb + f.fb)
/-- Canonical quiet NaN (R77). -/
def Fmt.nan (f : Fmt) : Nat := (2 ^ f.eb - 1) * 2 ^ f.fb + 2 ^ (f.fb - 1)
/-- Infinity of a sign. -/
def Fmt.inf (f : Fmt) (s : Bool) : Nat := (if s then f.signBit else 0) + (2 ^ f.eb - 1) * 2 ^ f.fb
/-- Zero of a sign. -/
def Fmt.zero (f : Fmt) (s : Bool) : Nat := if s then f.signBit else 0
/-- Largest finite value of a sign. -/
def Fmt.maxFin (f : Fmt) (s : Bool) : Nat := (if s then f.signBit else 0) + (2 ^ f.eb - 1) * 2 ^ f.fb - 1

/-- A decoded value: a NaN with whether it is signalling, an infinity, or (-1)^s m 2^e. -/
inductive FVal where
  | nan (sig : Bool)
  | inf (s : Bool)
  | fin (s : Bool) (m : Nat) (e : Int)
  deriving DecidableEq, Repr

/-- Decodes a bit pattern (R76). -/
def fdec (f : Fmt) (v : Nat) : FVal :=
  let s := bits v (f.eb + f.fb) 1 == 1
  let e := bits v f.fb f.eb
  let m := bits v 0 f.fb
  if e = 2 ^ f.eb - 1 then (if m = 0 then .inf s else .nan (m < 2 ^ (f.fb - 1)))
  else if e = 0 then .fin s m (1 - f.bias - f.fb)
  else .fin s (m + 2 ^ f.fb) (e - f.bias - f.fb)

/-- Whether a decoded value is a NaN. -/
def FVal.isNan : FVal → Bool
  | .nan _ => true
  | _ => false
/-- Whether a decoded value is a signalling NaN. -/
def FVal.isSnan : FVal → Bool
  | .nan b => b
  | _ => false
/-- Whether a decoded value is zero. -/
def FVal.isZero : FVal → Bool
  | .fin _ m _ => m == 0
  | _ => false
/-- The negated value. -/
def FVal.neg : FVal → FVal
  | .nan b => .nan b
  | .inf s => .inf (!s)
  | .fin s m e => .fin (!s) m e

/-- Whether a magnitude with remainder r of d rounds up, its kept part being odd or not (R79). -/
def roundsUp (mode : RMode) (s odd : Bool) (r d : Nat) : Bool :=
  match mode with
  | .rne => decide (2 * r > d) || (decide (2 * r = d) && odd)
  | .rtz => false
  | .rdn => s && decide (r ≠ 0)
  | .rup => !s && decide (r ≠ 0)
  | .rna => decide (2 * r ≥ d)

/-- m / 2^k rounded by a mode. -/
def roundShift (mode : RMode) (s : Bool) (m k : Nat) : Nat :=
  let q := m / 2 ^ k
  if roundsUp mode s (q % 2 == 1) (m % 2 ^ k) (2 ^ k) then q + 1 else q

/-- The result of an overflow (R79). -/
def overflowTo (f : Fmt) (mode : RMode) (s : Bool) : Nat :=
  match mode, s with
  | .rtz, s => f.maxFin s
  | .rdn, false => f.maxFin false
  | .rup, true => f.maxFin true
  | _, s => f.inf s

/-- Rounds (-1)^s m 2^e with m nonzero once to a format (R79, R81), with the flags of R84. -/
def roundFin (f : Fmt) (mode : RMode) (s : Bool) (m : Nat) (e : Int) : Nat × Flags :=
  let emin : Int := 1 - f.bias
  let top : Int := e + Nat.log2 m
  let q : Int := max top emin - f.fb
  let exact := decide (q ≤ e)
  let mant := if q ≤ e then m * 2 ^ (e - q).toNat else roundShift mode s m (q - e).toNat
  let nx := !exact && m % 2 ^ (q - e).toNat != 0
  let body : Int := (max top emin + f.bias - 1) * 2 ^ f.fb + mant
  if body ≥ ((2 ^ f.eb - 1) * 2 ^ f.fb : Nat) then (overflowTo f mode s, fOF ||| fNX)
  else
    let tiny := decide (top < emin) &&
      !(decide (top = emin - 1) &&
        (let q1 := top - f.fb
         decide (q1 > e) && decide (roundShift mode s m (q1 - e).toNat = 2 ^ (f.fb + 1))))
    (f.zero s + body.toNat, flagIf nx fNX ||| flagIf (nx && tiny) fUF)

/-- Rounds an integer times a power of two; `zs` is the sign of an exact zero. -/
def roundInt (f : Fmt) (mode : RMode) (v : Int) (e : Int) (zs : Bool) : Nat × Flags :=
  if v = 0 then (f.zero zs, 0) else roundFin f mode (v < 0) v.natAbs e

/-- The signed mantissa of a finite value. -/
def signed (s : Bool) (m : Nat) : Int := if s then -(m : Int) else m

/-- The exact sum of two finite values as an integer times a power of two. -/
def sumExact (s1 : Bool) (m1 : Nat) (e1 : Int) (s2 : Bool) (m2 : Nat) (e2 : Int) : Int × Int :=
  let e := min e1 e2
  (signed s1 m1 * 2 ^ (e1 - e).toNat + signed s2 m2 * 2 ^ (e2 - e).toNat, e)

/-- NaN results of R82: a canonical NaN, with NV where an operand is signalling. -/
def nanResult (f : Fmt) (xs : List FVal) : Nat × Flags := (f.nan, flagIf (xs.any FVal.isSnan) fNV)

/-- The sign of an exact zero sum (R81). -/
def zeroSign (mode : RMode) (z1 z2 s1 s2 : Bool) : Bool := if z1 && z2 && s1 == s2 then s1 else mode == .rdn

/-- Sum (R81, R82). -/
def faddV (f : Fmt) (mode : RMode) (x y : FVal) : Nat × Flags :=
  match x, y with
  | .fin s1 m1 e1, .fin s2 m2 e2 =>
    let r := sumExact s1 m1 e1 s2 m2 e2
    roundInt f mode r.1 r.2 (zeroSign mode (m1 == 0) (m2 == 0) s1 s2)
  | .inf s1, .inf s2 => if s1 = s2 then (f.inf s1, 0) else (f.nan, fNV)
  | .inf s, .fin _ _ _ => (f.inf s, 0)
  | .fin _ _ _, .inf s => (f.inf s, 0)
  | x, y => nanResult f [x, y]

/-- Product (R81, R82). -/
def fmulV (f : Fmt) (mode : RMode) (x y : FVal) : Nat × Flags :=
  match x, y with
  | .fin s1 m1 e1, .fin s2 m2 e2 =>
    if m1 * m2 = 0 then (f.zero (s1 != s2), 0) else roundFin f mode (s1 != s2) (m1 * m2) (e1 + e2)
  | .inf s1, .inf s2 => (f.inf (s1 != s2), 0)
  | .inf s1, .fin s2 m _ => if m = 0 then (f.nan, fNV) else (f.inf (s1 != s2), 0)
  | .fin s1 m _, .inf s2 => if m = 0 then (f.nan, fNV) else (f.inf (s1 != s2), 0)
  | x, y => nanResult f [x, y]

/-- Fused multiply-add, rounded once (R81, R82, R136). -/
def ffmaV (f : Fmt) (mode : RMode) (x y z : FVal) : Nat × Flags :=
  match x, y with
  | .nan _, _ => nanResult f [x, y, z]
  | _, .nan _ => nanResult f [x, y, z]
  | .fin s1 m1 e1, .fin s2 m2 e2 =>
    match z with
    | .fin s3 m3 e3 =>
      let r := sumExact (s1 != s2) (m1 * m2) (e1 + e2) s3 m3 e3
      roundInt f mode r.1 r.2 (zeroSign mode (m1 * m2 == 0) (m3 == 0) (s1 != s2) s3)
    | .inf s => (f.inf s, 0)
    | .nan b => (f.nan, flagIf b fNV)
  | x, y =>
    let s := (match x with | .inf s => s | .fin s _ _ => s | _ => false) != (match y with | .inf s => s | .fin s _ _ => s | _ => false)
    if x.isZero || y.isZero then (f.nan, fNV)
    else match z with
      | .nan b => (f.nan, flagIf b fNV)
      | .inf s3 => if s3 = s then (f.inf s, 0) else (f.nan, fNV)
      | .fin _ _ _ => (f.inf s, 0)

/-- Quotient, correctly rounded RNE (R82, R141). -/
def fdivV (f : Fmt) (x y : FVal) : Nat × Flags :=
  match x, y with
  | .fin s1 m1 e1, .fin s2 m2 e2 =>
    let s := s1 != s2
    if m1 = 0 ∧ m2 = 0 then (f.nan, fNV)
    else if m2 = 0 then (f.inf s, fDZ)
    else if m1 = 0 then (f.zero s, 0)
    else
      let k := f.fb + 5 + Nat.log2 m2
      let q := m1 * 2 ^ k / m2
      let m := 2 * q + (if m1 * 2 ^ k % m2 = 0 then 0 else 1)
      roundFin f .rne s m (e1 - e2 - k - 1)
  | .inf _, .inf _ => (f.nan, fNV)
  | .inf s1, .fin s2 _ _ => (f.inf (s1 != s2), 0)
  | .fin s1 _ _, .inf s2 => (f.zero (s1 != s2), 0)
  | x, y => nanResult f [x, y]

/-- Integer square root by bits: the greatest r below 2^n, at or above r0, with r^2 at most v. -/
def isqrtBits (v : Nat) : Nat → Nat → Nat
  | 0, r => r
  | n + 1, r => isqrtBits v n (if (r + 2 ^ n) * (r + 2 ^ n) ≤ v then r + 2 ^ n else r)

/-- Integer square root. -/
def isqrt (v : Nat) : Nat := isqrtBits v (Nat.log2 v / 2 + 1) 0

/-- Square root, correctly rounded RNE (R82, R141). -/
def fsqrtV (f : Fmt) (x : FVal) : Nat × Flags :=
  match x with
  | .nan b => (f.nan, flagIf b fNV)
  | .inf s => if s then (f.nan, fNV) else (f.inf false, 0)
  | .fin s m e =>
    if m = 0 then (f.zero s, 0)
    else if s then (f.nan, fNV)
    else
      let m := if e % 2 = 0 then m else 2 * m
      let e := if e % 2 = 0 then e else e - 1
      let k := f.fb + 4
      let v := m * 2 ^ (2 * k)
      let r := isqrt v
      roundFin f .rne false (2 * r + (if r * r = v then 0 else 1)) (e / 2 - k - 1)

/-- Order of two numbers as exact values: whether x < y. -/
def fltV (x y : FVal) : Bool :=
  match x, y with
  | .nan _, _ => false
  | _, .nan _ => false
  | .inf s1, .inf s2 => s1 && !s2
  | .inf s, .fin _ _ _ => s
  | .fin _ _ _, .inf s => !s
  | .fin s1 m1 e1, .fin s2 m2 e2 => decide ((sumExact s1 m1 e1 (!s2) m2 e2).1 < 0)

/-- Equality of two numbers as exact values: both zeros are equal. -/
def feqV (x y : FVal) : Bool := !x.isNan && !y.isNan && !fltV x y && !fltV y x

/-- Whether a bit pattern has its sign bit set. -/
def fsign (f : Fmt) (v : Nat) : Bool := bits v (f.eb + f.fb) 1 == 1

/-- minimumNumber and maximumNumber, and minimum and maximum (R83). -/
def fminmax (f : Fmt) (wantMax number : Bool) (a b : Nat) : Nat × Flags :=
  let x := fdec f a
  let y := fdec f b
  let fl := flagIf (x.isSnan || y.isSnan) fNV
  if x.isNan && y.isNan then (f.nan, fl)
  else if x.isNan then (if number then b else f.nan, fl)
  else if y.isNan then (if number then a else f.nan, fl)
  else
    let less := fltV x y || (feqV x y && fsign f a && !fsign f b)
    (if less != wantMax then a else b, 0)

/-- The sign operations of R134: a NaN gives the canonical NaN and no flag. -/
def fsignOp (f : Fmt) (a : Nat) (s : Bool) : Nat :=
  if (fdec f a).isNan then f.nan else a % f.signBit + (if s then f.signBit else 0)

/-- The integer value of a magnitude m 2^e rounded by a mode, and whether it is exact. -/
def roundToInt (mode : RMode) (s : Bool) (m : Nat) (e : Int) : Nat × Bool :=
  if e ≥ 0 then (m * 2 ^ e.toNat, true)
  else (roundShift mode s m (-e).toNat, m % 2 ^ (-e).toNat == 0)

/-- FRND (R135). -/
def frndV (f : Fmt) (mode : RMode) (a : Nat) : Nat × Flags :=
  match fdec f a with
  | .nan b => (f.nan, flagIf b fNV)
  | .inf s => (f.inf s, 0)
  | .fin s m e =>
    let r := roundToInt mode s m e
    if r.2 then (a, 0)
    else if r.1 = 0 then (f.zero s, fNX)
    else ((roundFin f .rtz s r.1 0).1, fNX)

/-- FCLASS (R135). -/
def fclassV (f : Fmt) (a : Nat) : Nat :=
  match fdec f a with
  | .nan true => 2 ^ 8
  | .nan false => 2 ^ 9
  | .inf true => 1
  | .inf false => 2 ^ 7
  | .fin s m _ =>
    if m = 0 then (if s then 2 ^ 3 else 2 ^ 4)
    else if m < 2 ^ f.fb then (if s then 2 ^ 2 else 2 ^ 5)
    else if s then 2 ^ 1 else 2 ^ 6

/-- FSCALE (R135): a 2^n rounded RNE. -/
def fscaleV (f : Fmt) (a : Nat) (n : Int) : Nat × Flags :=
  match fdec f a with
  | .nan b => (f.nan, flagIf b fNV)
  | .inf s => (f.inf s, 0)
  | .fin s m e =>
    if m = 0 then (a, 0)
    else
      -- beyond these bounds the result no longer depends on n
      let n := max (-5000) (min 5000 n)
      roundFin f .rne s m (e + n)

/-- FCMP (R137): the truth and the flags. -/
def fcmpV (f : Fmt) (fn a b : Nat) : Bool × Flags :=
  let x := fdec f a
  let y := fdec f b
  let un := x.isNan || y.isNan
  let r := match fn % 8 with
    | 0 => feqV x y
    | 1 => un || !feqV x y
    | 2 => fltV x y
    | 3 => fltV x y || feqV x y
    | 4 => fltV y x
    | 5 => fltV y x || feqV x y
    | 6 => un
    | _ => !un
  (r, flagIf (if fn ≥ 8 then un else x.isSnan || y.isSnan) fNV)

/-! ### Conversions (R86, R139) -/

/-- FP to FP (R86); `sat` delivers the largest finite value in place of an overflow. -/
def cvtFF (src dst : Fmt) (mode : RMode) (sat : Bool) (a : Nat) : Nat × Flags :=
  match fdec src a with
  | .nan b => (dst.nan, flagIf b fNV)
  | .inf s => (dst.inf s, 0)
  | .fin s m e =>
    if m = 0 then (dst.zero s, 0)
    else
      let r := roundFin dst mode s m e
      if sat && r.2 &&& fOF != 0 then (dst.maxFin s, r.2) else r

/-- FP to an n-bit integer (R86). -/
def cvtFI (src : Fmt) (n : Nat) (sgn : Bool) (mode : RMode) (sat : Bool) (a : Nat) : Nat × Flags :=
  let lo : Int := if sgn then -(2 ^ (n - 1) : Nat) else 0
  let hi : Int := if sgn then (2 ^ (n - 1) : Nat) - 1 else (2 ^ n : Nat) - 1
  let out := if sat then fNX else fNV
  match fdec src a with
  | .nan _ => (0, fNV)
  | .inf s => (ofInt n (if s then lo else hi), out)
  | .fin s m e =>
    let r := roundToInt mode s m e
    let v := signed s r.1
    if v > hi then (ofInt n hi, out)
    else if v < lo then (ofInt n lo, out)
    else (ofInt n v, flagIf (!r.2) fNX)

/-- An n-bit integer to FP (R86). -/
def cvtIF (dst : Fmt) (n : Nat) (sgn : Bool) (mode : RMode) (a : Nat) : Nat × Flags :=
  roundInt dst mode (if sgn then sval n a else (a % 2 ^ n : Nat)) 0 false

/-! ### The S8 scale code (R89-R91, R140) -/

/-- The value of a code as m 2^e, for codes below 0xF8 (R89). -/
def s8Value (c : Nat) : Nat × Int :=
  let e := c / 8 % 32
  let m := c % 8
  if e = 0 then (m, -17) else (8 + m, e - 18)

/-- Whether |a| = m 2^e is at most 127 times the value of a code. -/
def s8Fits (m : Nat) (e : Int) (c : Nat) : Bool :=
  let v := s8Value c
  let b := min e v.2
  decide (m * 2 ^ (e - b).toNat ≤ 127 * v.1 * 2 ^ (v.2 - b).toNat)

/-- The scale code for a block whose largest magnitude is m 2^e (R90); none when it is above 127 times the
largest code. -/
def s8Code (m : Nat) (e : Int) : Option Nat := (List.range 0xF8).find? (s8Fits m e)

/-- CVT.S8.F32 (R140). -/
def cvtToS8 (a : Nat) : Nat × Flags :=
  match fdec f32 a with
  | .nan _ => (0xFF, fNV)
  | .inf _ => (0xFF, fNV)
  | .fin _ m e =>
    match s8Code m e with
    | some c => (c, 0)
    | none => (0xF7, fOF ||| fNX)

/-- CVT.F32.S8 (R140). -/
def cvtFromS8 (c : Nat) : Nat :=
  if c % 256 ≥ 0xF8 then f32.nan
  else if c % 256 = 0 then 0
  else (roundFin f32 .rne false (s8Value (c % 256)).1 (s8Value (c % 256)).2).1

/-- CVT by its kind (R56, R139): the value of the destination group and the flags. -/
def cvtKind (k : Nat) (mode : RMode) (sat : Bool) (a : Nat) : Nat × Flags :=
  let half := fun (dst : Fmt) =>
    let lo := cvtFF f32 dst mode sat (a % 2 ^ 32)
    let hi := cvtFF f32 dst mode sat (a / 2 ^ 32)
    (lo.1 + 65536 * hi.1, lo.2 ||| hi.2)
  match k with
  | 0 => cvtFF f64 f32 mode sat a
  | 1 => cvtFF f32 f64 mode false a
  | 2 => cvtFF f32 f16 mode sat a
  | 3 => cvtFF f16 f32 mode false (a % 65536)
  | 4 => cvtFF f32 bf16 mode sat a
  | 5 => cvtFF bf16 f32 mode false (a % 65536)
  | 6 => half f16
  | 7 => half bf16
  | 8 => cvtFI f32 32 true mode sat a
  | 9 => cvtFI f32 32 false mode sat a
  | 10 => cvtIF f32 32 true mode a
  | 11 => cvtIF f32 32 false mode a
  | 12 => cvtFI f64 32 true mode sat a
  | 13 => cvtFI f64 32 false mode sat a
  | 14 => cvtIF f64 32 true mode a
  | 15 => cvtIF f64 32 false mode a
  | 16 => cvtFI f64 64 true mode sat a
  | 17 => cvtFI f64 64 false mode sat a
  | 18 => cvtIF f64 64 true mode a
  | 19 => cvtIF f64 64 false mode a
  | 20 => cvtFI f32 64 true mode sat a
  | 21 => cvtFI f32 64 false mode sat a
  | 22 => cvtIF f32 64 true mode a
  | 23 => cvtIF f32 64 false mode a
  | 24 => cvtFF f64 f16 mode sat a
  | 25 => cvtFF f16 f64 mode false (a % 65536)
  | 26 => cvtToS8 a
  | _ => (cvtFromS8 a, 0)

/-! ### Shorthands on bit patterns -/

/-- Sum of two bit patterns. -/
def fadd (f : Fmt) (mode : RMode) (a b : Nat) : Nat × Flags := faddV f mode (fdec f a) (fdec f b)
/-- Difference: the sum with the negated subtrahend (R134). -/
def fsub (f : Fmt) (mode : RMode) (a b : Nat) : Nat × Flags := faddV f mode (fdec f a) (fdec f b).neg
/-- Product of two bit patterns. -/
def fmul (f : Fmt) (mode : RMode) (a b : Nat) : Nat × Flags := fmulV f mode (fdec f a) (fdec f b)
/-- Fused multiply-add of bit patterns. -/
def ffma (f : Fmt) (mode : RMode) (a b c : Nat) : Nat × Flags := ffmaV f mode (fdec f a) (fdec f b) (fdec f c)

end Sys2Proof.Machine
end

