-- ==== Sys2Proof/Machine/Link.lean ====
section
/-! DEFINITION. The die links: compressed lines, their dictionaries, damage and replay (R280-R286). -/

namespace Sys2Proof.Machine

/-! ### Counters (R286): the manual names them and gives no numbers (log 15) -/

/-- Lines sent to die p. -/
def cLnTx (p : Nat) : Nat := p
/-- Flits sent to die p. -/
def cFlTx (p : Nat) : Nat := 8 + p
/-- Lines sent uncompressed to die p. -/
def cLnRaw (p : Nat) : Nat := 16 + p
/-- Dictionary resets of the direction to die p. -/
def cDictRst (p : Nat) : Nat := 24 + p
/-- Lines from die p that fail R284. -/
def cCrcMiss (p : Nat) : Nat := 32 + p
/-- Far-line cache lookups that find the line. -/
def cFlcHit : Nat := 40
/-- Far-line cache lookups that do not. -/
def cFlcMiss : Nat := 41
/-- Fwd and FwdInv that this die sent as home. -/
def cDirFwd : Nat := 42
/-- Inv that this die sent as home. -/
def cDirInv : Nat := 43
/-- Upg handled as RdX. -/
def cUpgRdx : Nat := 44
/-- Requests completed by R277. -/
def cWbCross : Nat := 45
/-- Operations performed at this home under R278. -/
def cAtHome : Nat := 46

/-! ### Coding a line (R281) -/

/-- The sixteen 8-byte words of a line. -/
def lineWords (d : LineData) : List DWord := (List.range 16).map fun i => d.extractLsb' (64 * i) 64

/-- The lowest dictionary entry that holds a word. -/
def dictIndex (dict : List DWord) (w : DWord) : Option Nat := dict.findIdx? (· == w)

/-- Codes words in ascending order: tag and payload of each (R281). -/
def codeWords (dict : List DWord) : Option DWord → List DWord → List (Nat × List Byte)
  | _, [] => []
  | prev, w :: ws =>
    (if w = 0 then (0, [])
     else if prev = some w then (1, [])
     else match dictIndex dict w with
       | some k => (2, [BitVec.ofNat 8 k])
       | none => (3, natToBytes 8 w.toNat)) :: codeWords dict (some w) ws

/-- Payload flits of 16 bytes that hold some bytes. -/
def flitsFor (n : Nat) : Nat := (n + 15) / 16

/-- A payload padded with zeros to whole flits (R281). -/
def padFlits (p : List Byte) : List Byte := p ++ List.replicate (16 * flitsFor p.length - p.length) 0

/-- Inserts literal-coded words into a dictionary (R283). -/
def dictInsert (dict : List DWord) (next : Nat) : List (Nat × List Byte) → List DWord × Nat
  | [] => (dict, next)
  | c :: cs =>
    if c.1 = 3 then dictInsert (setAt dict next (BitVec.ofNat 64 (bytesToNat c.2))) ((next + 1) % 128) cs
    else dictInsert dict next cs

/-- Decodes words from their tags and payload; none at a repeat tag on word 0 (R281, R284). -/
def decodeWords (dict : List DWord) : Option DWord → List Nat → List Byte → Option (List DWord)
  | _, [], _ => some []
  | prev, t :: ts, p =>
    let w : Option (DWord × List Byte) :=
      match t with
      | 0 => some (0, p)
      | 1 => prev.map fun x => (x, p)
      | 2 => some (dict.getD ((p.headD 0).toNat % 128) 0, p.drop 1)
      | _ => some (BitVec.ofNat 64 (bytesToNat (p.take 8)), p.drop 8)
    match w with
    | none => none
    | some (x, p) => (decodeWords dict (some x) ts p).map (x :: ·)

/-- The codes of a decoded line, by which the receiver's dictionary is updated. -/
def codesOf (tags : BitVec 32) (ws : List DWord) : List (Nat × List Byte) :=
  (List.range 16).map fun i => (bits tags.toNat (2 * i) 2, natToBytes 8 (ws.getD i 0).toNat)

/-- One byte of CRC-32C, its bits from the lowest: the Castagnoli polynomial reflected (R282). -/
def crcByte (c : BitVec 32) (b : Byte) : BitVec 32 :=
  (List.range 8).foldl (fun c _ => if c.getLsbD 0 then (c >>> 1) ^^^ 0x82F63B78#32 else c >>> 1) (c ^^^ b.setWidth 32)

/-- CRC-32C of bytes (R282). -/
def crc32c (bs : List Byte) : BitVec 32 := ~~~(bs.foldl crcByte (~~~0#32))

/-- The bytes of a line. -/
def lineBytes (d : LineData) : List Byte := natToBytes 128 d.toNat

/-! ### The header flit (R282) -/

/-- TAGS, LCRC, LINE, PAYN, RESET and the two low bytes of a header flit, laid out. -/
def headerOf (lcrc tags line payn : Nat) (reset : Bool) (low : Nat) : BitVec 128 :=
  BitVec.ofNat 128 (lcrc % 2 ^ 32 * 2 ^ 96 + tags % 2 ^ 32 * 2 ^ 64 + line % 2 ^ 41 * 2 ^ 23 + payn % 16 * 2 ^ 19
    + (if reset then 2 ^ 18 else 0) + low % 2 ^ 16)

/-- LCRC. -/
def WireLine.lcrc (w : WireLine) : BitVec 32 := w.header.extractLsb' 96 32
/-- TAGS. -/
def WireLine.tags (w : WireLine) : BitVec 32 := w.header.extractLsb' 64 32
/-- PAYN. -/
def WireLine.payn (w : WireLine) : Nat := (w.header.extractLsb' 19 4).toNat
/-- RESET. -/
def WireLine.reset (w : WireLine) : Bool := w.header.getLsbD 18
/-- TXN and MSG. -/
def WireLine.low (w : WireLine) : Nat := (w.header.extractLsb' 0 16).toNat

/-- The number of a directory message type among those of R272. -/
def MsgKind.index : MsgKind → Nat
  | .rds => 0 | .rdx => 1 | .upg => 2 | .wb => 3 | .inv => 4 | .fwd => 5 | .fwdInv => 6 | .answer => 7 | .noLine => 8 | .grant => 9
  | .atHome => 10 | .homeOp => 11 | .wbAck => 12 | .register => 13 | .future => 14

/-- TXN and MSG of a message, whose codes the manual does not give (log 75). -/
def Msg.low (m : Msg) : Nat := (Config.txnTag m.id).toNat * 256 + (Config.msgType m.kind.index).toNat

/-! ### Sending and receiving -/

/-- A data message as it leaves on a link: coded with the sender's dictionary, or uncompressed where it is sent again after a
reset of the dictionaries (R281-R285). DEDUCED (log 76). -/
def Link.put (k : Link) (msg line low : Nat) (d : LineData) : Link :=
  let cs := if k.rawNext then (lineWords d).map fun w => (3, natToBytes 8 w.toNat) else codeWords k.sdict none (lineWords d)
  let tags := BitVec.ofNat 32 (cs.foldr (fun c n => c.1 + 4 * n) 0)
  let p := padFlits (cs.flatMap (·.2))
  let ins := if k.rawNext then (k.sdict, k.snext) else dictInsert k.sdict k.snext cs
  { k with
    sdict := ins.1, snext := ins.2, resetNext := false, rawNext := false
    lines := k.lines ++ [{ msg := msg, header := headerOf (crc32c (lineBytes d)).toNat tags.toNat line (p.length / 16) k.resetNext low
                           payload := p, line := line, clear := d, again := k.rawNext }] }

/-- The links that a message crosses: the horizontal one first (R280). -/
def routeOf (src dst : Nat) : List (Nat × Nat) :=
  if src = dst then []
  else if src + dst = 5 then
    let mid := if src % 2 = 1 then src + 1 else src - 1
    [(src, mid), (mid, dst)]
  else [(src, dst)]

/-- Changes the link of a direction. -/
def State.updLink (s : State) (src dst : Nat) (f : Link → Link) : State :=
  { s with links := updWhere (fun k => k.src == src && k.dst == dst) f s.links }

/-- The link of a direction. -/
def State.link? (s : State) (src dst : Nat) : Option Link := s.links.find? fun k => k.src == src && k.dst == dst

/-- Puts a line on a link and counts it (R286): as uncompressed where all its words are literals, sent again or not. DESIGN CHOICE
(log 87). -/
def State.putLine (s : State) (a b msg line low : Nat) (d : LineData) : State :=
  let s1 := s.updLink a b fun k => k.put msg line low d
  match (s1.link? a b).bind (·.lines.getLast?) with
  | none => s1
  | some w => ((s1.count a (cLnTx b) 1).count a (cFlTx b) (1 + w.payn)).count a (cLnRaw b) (if w.tags == ~~~0#32 then 1 else 0)

/-- Puts a message on the next link of its way, behind those sent before it (R280); data goes as a line. -/
def State.transmit (s : State) (m : Msg) : State :=
  match m.hops with
  | [] => s
  | (a, b) :: _ =>
    let s1 := s.updLink a b fun k => { k with order := k.order ++ [m.id] }
    match m.data with
    | some d => s1.putLine a b m.id m.line m.low d
    | none => s1

/-- A message has crossed a link: it goes on to the next, or has arrived. -/
def State.cross (s : State) (a b : Nat) (m : Msg) : State :=
  let m1 := { m with hops := m.hops.drop 1 }
  let m2 := if m1.hops.isEmpty then { m1 with via := (a, b), came := s.nextId } else m1
  let s1 : State := { s with net := updWhere (fun x => x.id == m.id) (fun _ => m2) s.net, nextId := s.nextId + 1 }
  (s1.updLink a b fun k => { k with order := k.order.filter (· != m.id) }).transmit m2

/-- Messages without data that are next on a link cross it at once, `n` at most; a line stays until it is received. -/
def State.flow (s : State) (a b : Nat) : Nat → State
  | 0 => s
  | n + 1 =>
    match (s.link? a b).bind (·.order.head?) with
    | none => s
    | some id =>
      match s.net.find? fun m => m.id == id with
      | none => (s.updLink a b fun k => { k with order := k.order.drop 1 }).flow a b n
      | some m => if m.data.isSome then s else (s.cross a b m).flow a b n

/-- Messages on a link. -/
def State.onLink (s : State) (a b : Nat) : Nat := ((s.link? a b).map (·.order.length)).getD 0

/-- The data of a line crosses the links of a way beside what a unit does at once (log 7): no message rests on it. -/
def State.carryLine (s : State) (src dst line : Nat) (d : LineData) : State :=
  (routeOf src dst).foldl (fun s h =>
    s.fresh.putLine h.1 h.2 s.nextId line (Msg.low { id := s.nextId, kind := .grant, line := line, src := src, dst := dst }) d) s

/-- What can cross the links of a way does so. -/
def State.flowAlong (s : State) (way : List (Nat × Nat)) : State := way.foldl (fun s p => s.flow p.1 p.2 (s.onLink p.1 p.2)) s

/-- Sends a directory message over the links of its way; one with data crosses them as a compressed line. -/
def State.send (s : State) (m : Msg) : State :=
  let way := routeOf m.src m.dst
  let m := { m with id := s.nextId, time := s.tsc, hops := way, via := (m.dst, m.dst), came := s.nextId }
  (({ s with net := s.net ++ [m], nextId := s.nextId + 1 } : State).transmit m).flowAlong way

/-- A line has crossed a link. A coherent write that fell while it was on its way stands in the message already. -/
def State.hopDone (s : State) (a b : Nat) (w : WireLine) (d : LineData) : State :=
  match s.net.find? fun m => m.id == w.msg with
  | none => (s.updLink a b fun k => { k with order := k.order.filter (· != w.msg) }).flowAlong (linkEnds ++ linkEnds)
  | some m => (s.cross a b { m with data := if m.data = some w.clear then some d else m.data }).flowAlong (linkEnds ++ linkEnds)

/-- Whether a message may be taken: it has crossed every link of its way, and none that the same link delivered before it
is still to be taken (R280). -/
def State.arrived (s : State) (m : Msg) : Bool :=
  m.hops.isEmpty && !(s.net.any fun x => x.hops.isEmpty && x.via == m.via && decide (x.came < m.came))

/-- A message of a kind that has arrived. -/
def State.msg? (s : State) (id : Nat) (k : MsgKind) : Option Msg :=
  (s.net.find? fun m => m.id == id && m.kind == k).bind fun m => if s.arrived m then some m else none

/-- Takes a message off the net. -/
def State.dropMsg (s : State) (id : Nat) : State := { s with net := s.net.filter fun m => m.id != id }

/-- What a receiver reads of a line with its dictionary: the words, or none where a word cannot be decoded or the CRC does not
match (R281, R284). -/
def WireLine.read (w : WireLine) (dict : List DWord) : Option LineData :=
  ((decodeWords dict none ((List.range 16).map fun i => bits w.tags.toNat (2 * i) 2) (w.payload.take (16 * w.payn))).map fun ws =>
    BitVec.ofNat 1024 (bytesToNat (ws.flatMap fun x => natToBytes 8 x.toNat))).bind fun d =>
      if crc32c (lineBytes d) = w.lcrc then some d else none

/-- A receiver's dictionary after a good line (R283, R284). -/
def Link.accept (k : Link) (w : WireLine) (d : LineData) : Link :=
  let dict := if w.reset then (seedTable, 0) else (k.rdict, k.rnext)
  let ins := if w.again then dict else dictInsert dict.1 dict.2 (codesOf w.tags (lineWords d))
  { k with rdict := ins.1, rnext := ins.2, lines := k.lines.drop 1, discarding := false }

/-- LINE_RECEIVE (R283, R284): the next line of a direction arrives, damaged or not. A line that fails is
discarded with every later one until a line with RESET = 1, and a replay is asked for. -/
def execLineReceive (src dst : Nat) (damaged : Bool) (s : State) : Res :=
  match s.link? src dst with
  | none => notEnabled
  | some k =>
    match k.lines with
    | [] => notEnabled
    | w :: _ =>
      if k.discarding && !w.reset then notEnabled
      else match if damaged then none else w.read (if w.reset then seedTable else k.rdict) with
        | none => .next ((s.updLink src dst fun k => { k with discarding := true, replay := true }).count dst (cCrcMiss src) 1)
        | some d =>
          let s1 := s.updLink src dst fun k => k.accept w d
          let asid := ((s.net.find? fun m => m.id == w.msg).map (·.asid)).getD 0
          let s2 := if k.discarding then
              s1.raiseErr { id := 0, asid := asid, tsc := 0, src := srcNum dst (0x300 + src), kind := 3, sev := 0 }
            else s1
          .next (s2.hopDone src dst w d)

/-- Resets a sender's dictionary and sends its lines again, coded afresh and the first one uncompressed (R284); where no line is in
flight, the next one carries RESET = 1 (R285). -/
def State.recode (s : State) (a b : Nat) : State :=
  let ls := ((s.link? a b).map (·.lines)).getD []
  let s1 := s.updLink a b fun k => { k with sdict := seedTable, snext := 0, lines := [], resetNext := true, rawNext := !ls.isEmpty }
  (ls.foldl (fun s w => s.putLine a b w.msg w.line w.low w.clear) s1).count a (cDictRst b) 1

/-- REPLAY_REQUEST (R284): the sender resets its dictionary and sends the failed line and every later one
again. -/
def execReplayRequest (src dst : Nat) (s : State) : Res :=
  match s.link? src dst with
  | none => notEnabled
  | some k =>
    if k.replay then .next ((s.recode src dst).updLink src dst fun k => { k with replay := false }) else notEnabled

/-- Resets both ends of a direction and replays its lines (R285). The receiver asks for no replay, and R284's record is of one that it
has asked for: none is written. DESIGN CHOICE (log 87). -/
def State.resetLink (s : State) (a b : Nat) : State :=
  (s.recode a b).updLink a b fun k => { k with rdict := seedTable, rnext := 0, discarding := false, replay := false }

/-- LINK_RETRAIN (R285): both directions of a link. -/
def execLinkRetrain (a b : Nat) (s : State) : Res :=
  match s.link? a b with
  | none => notEnabled
  | some _ => .next ((s.resetLink a b).resetLink b a)

end Sys2Proof.Machine
end

