-- ==== Sys2Proof/Machine/Access.lean ====
section
/-! DEFINITION. Accesses of the thread path: the parts that are performed whole (R210), L1 leases and write
completion times (R217), a die's side of the directory (R274-R276), the operations of atomics (R251-R254),
and the access that a memory word makes (R232-R237, R376, R398). -/

namespace Sys2Proof.Machine

/-! ### Read-modify-write operations (R251-R254) -/

/-- Format of an n-bit floating-point operation. -/
def fmtOf (n : Nat) : Fmt := if n = 64 then f64 else f32

/-- f(old, b) of R251 at n bits, by OP modulo 16 (R62). -/
def rmwNew (op n old b : Nat) : Nat :=
  match op with
  | 0 => (old + b) % 2 ^ n
  | 1 => if sval n b < sval n old then b else old
  | 2 => if sval n b > sval n old then b else old
  | 3 => min old b
  | 4 => max old b
  | 5 => old &&& b
  | 6 => old ||| b
  | 7 => old ^^^ b
  | 8 => b
  | 9 => if old ≥ b then 0 else old + 1
  | 10 => if old = 0 ∨ old > b then b else old - 1
  | 11 => (fadd (fmtOf n) .rne old b).1
  | 12 => (fminmax (fmtOf n) false true old b).1
  | _ => (fminmax (fmtOf n) true true old b).1

/-- AMAX (R254). -/
def amaxNew (old b : Nat) : Nat :=
  if (fdec f32 old).isNan || (fdec f32 b).isNan then f32.nan else max (old % 2 ^ 31) (b % 2 ^ 31)

/-- What an access writes over an old value; none where it writes nothing (R251-R254). -/
def accNew (a : Acc) (old : Nat) : Option Nat :=
  match a.kind with
  | .rmw op => some (rmwNew op (8 * a.size) old a.data)
  | .cas => if old = a.data then some a.data2 else none
  | .amax => some (amaxNew old a.data)
  | .amaxrs => some 0
  | _ => none

/-- Kinds that write. -/
def AccKind.writes : AccKind → Bool
  | .store | .rmw _ | .cas | .amax | .amaxrs => true
  | _ => false

/-- Kinds that read and write their word as one action. -/
def AccKind.atomic : AccKind → Bool
  | .rmw _ | .cas | .amax | .amaxrs => true
  | _ => false

/-- Kinds of the future words. -/
def AccKind.future : AccKind → Bool
  | .ldFut | .stFut | .clrFut => true
  | _ => false

/-- The number of a kind in a signature (R398). -/
def AccKind.code : AccKind → Nat
  | .load _ => 0 | .store => 1 | .rmw op => 16 + op | .cas => 2 | .amax => 3 | .amaxrs => 4 | .ldFut => 5 | .stFut => 6
  | .clrFut => 7 | .locq => 8

/-- The bytes that a part writes over what lies there; none where it writes nothing. A conditional update
writes only over the value it read (R230). -/
def Acc.newBytes (a : Acc) (p : Part) (cur : Nat) : Option (List Byte) :=
  if a.kind = .store then some (natToBytes p.n (a.data / 256 ^ p.off))
  else match a.cond with
    | some v => if cur = v then (accNew a cur).map (natToBytes p.n) else none
    | none => (accNew a cur).map (natToBytes p.n)

/-- Notes what a part has read, and that it is performed. -/
def Acc.took (a : Acc) (p : Part) (cur : Nat) : Acc :=
  let r := match a.kind with
    | .load _ => a.result + cur * 256 ^ p.off
    | .store => a.result
    | _ => a.cond.getD cur
  { a with result := r, parts := a.parts.drop 1, phase := if (a.parts.drop 1).isEmpty then .done else .issued }

/-! ### Lines of a die -/

/-- A line as a die's slice holds it. -/
def State.dieLine (s : State) (d l : Nat) : DieLine :=
  ((s.lines.find? fun p => p.1 == d && p.2.line == l).map (·.2)).getD { line := l }

/-- Puts a line into a die's slice; a line that the die does not hold and that nothing waits for is not kept. -/
def State.setDieLine (s : State) (d : Nat) (x : DieLine) : State :=
  let rest := s.lines.filter fun p => !(p.1 == d && p.2.line == x.line)
  { s with lines := if x.st == .I && x.held.isEmpty && !x.atHomeBusy then rest else (d, x) :: rest }

/-- The access of an identifier. -/
def State.acc? (s : State) (id : Nat) : Option Acc := s.accs.find? fun a => a.id == id

/-- Changes an access. -/
def State.updAcc (s : State) (id : Nat) (f : Acc → Acc) : State :=
  { s with accs := updWhere (fun a => a.id == id) f s.accs }

/-- Lines on which an access has parts still to perform. -/
def Acc.lines (a : Acc) : List Nat := (a.parts.filter fun p => p.host.isNone && !p.dev).map fun p => p.pa / 128

/-- Whether an access has still to be performed somewhere. -/
def Acc.open (a : Acc) : Bool := a.phase != .done && a.phase != .deferred

/-- The leaders' accesses that the compare buffers hold until the trailer's match (R398). -/
def State.heldAccs (s : State) : List Acc := s.tandems.flatMap fun t => t.pending.filterMap (·.acc)

/-- Whether two accesses have bytes in common. -/
def Acc.meets (a b : Acc) : Bool := decide (b.va.toNat < a.va.toNat + a.size ∧ a.va.toNat < b.va.toNat + b.size)

/-- Whether a core has an access on a line still to perform. -/
def State.pendingOn (s : State) (core l : Nat) : Bool :=
  (s.accs.any fun a => a.core == core && a.open && a.lines.contains l) || s.heldAccs.any fun a => a.core == core && a.lines.contains l

/-- Whether the side log holds an earlier store of an access's own thread to bytes that the access touches (R212, R376), or the compare
buffer one of its group (R398). -/
def State.sideBefore (s : State) (a : Acc) : Bool :=
  !a.side && ((s.sideLog.any fun e => e.acc.gid == a.gid && e.acc.tid == a.tid && decide (e.id < a.id) && a.meets e.acc)
    || s.heldAccs.any fun b => b.gid == a.gid && decide (b.id < a.id) && (a.meets b || a.lines.any b.lines.contains))

/-- Whether an earlier access of the same core on the line of an access's next part is still to be
performed: accesses of a core to one line are performed in the order in which they issued, and a thread's access to bytes that it
has stored to goes behind its side log (R212, R219). DEDUCED (log 36). -/
def State.blocked (s : State) (a : Acc) : Bool :=
  match a.parts with
  | [] => false
  | p :: _ => s.sideBefore a || s.accs.any fun x => decide (x.id < a.id) &&
      x.core == a.core && x.open && (x.lines.contains (p.pa / 128) || x.parts.any fun q => q.host == p.host && q.host.isSome && decide (q.pa / 128 = p.pa / 128))

/-- Whether a line holds a monitor entry or a held load, and so is written at its home (R228, R278). -/
def State.monitored (s : State) (l : Nat) : Bool :=
  (s.monitors.any fun m => m.inserted && m.pa / 128 == l)
    || s.accs.any fun a => a.phase == .deferred && a.lines.contains l

/-! ### L1 (R217) -/

/-- A core's valid copy of a line: under an unexpired lease, and not closed by a pending access (R230). DESIGN CHOICE (log 9). -/
def State.l1Hit (s : State) (core l : Nat) : Option L1Line :=
  match s.l1.find? fun x => x.core == core && x.line == l with
  | some x => if s.tsc < x.expiry && !s.pendingOn core l then some x else none
  | none => none

/-- Writes bytes into a core's copy of a line where it has one. -/
def State.writeL1 (s : State) (core l off : Nat) (bs : List Byte) (lw gw : Nat) (poison : Bool) : State :=
  let put := fun (x : L1Line) =>
    { x with data := lineSetBytes x.data off bs, lw := max x.lw lw, gw := max x.gw gw, poison := x.poison || poison }
  { s with l1 := updWhere (fun x => x.core == core && x.line == l) put s.l1 }

/-- Grants a lease: the copy goes to the core's L1 and the slice's horizon on the line rises (R217). -/
def State.grantLease (s : State) (core : Nat) (x : L1Line) : State :=
  let s := s.dropL1 core x.line
  { s with
    l1 := x :: s.l1
    horizons := { die := coreDie core, line := x.line, expiry := max x.expiry (s.dieHorizon (coreDie core) x.line) }
      :: s.horizons.filter fun h => !(h.die == coreDie core && h.line == x.line) }

/-- Lease length of a context in ticks. -/
def State.leaseOf (s : State) (asid : Nat) : Nat := ((s.ctx? asid).map (·.lease)).getD 0

/-! ### A die's answers to its homes (R274-R277) -/

/-- A die's horizon on a line: 0 when no lease on it is unexpired (R274). -/
def State.liveHorizon (s : State) (d l : Nat) : Nat := if s.dieHorizon d l > s.tsc then s.dieHorizon d l else 0

/-- Accesses of a die that wait on a line are tried again. -/
def State.retryLine (s : State) (d l : Nat) : State :=
  { s with accs := s.accs.map fun a =>
      if coreDie a.core == d && a.lines.contains l && (a.phase == .waitLine || a.phase == .waitOwn) then { a with phase := .issued } else a }

/-- Write completion times that go with a line's data: none once they have passed (R217). -/
def State.lineTimes (s : State) (x : DieLine) : Nat × Nat :=
  let t := s.valueTimes x.line
  if s.tsc ≤ x.gw then (max x.lw t.1, max x.gw t.2) else t

/-- A die acts on an Inv, a Fwd or a FwdInv: it answers with its horizon, and with the data where it owns
the line; in IS and IM, and while the operation that asked for the line is still to be performed, the message
is held (R275, R276). -/
def State.answer (s : State) (m : Msg) : State :=
  let d := m.dst
  let x := s.dieLine d m.line
  let back : Msg :=
    { id := 0, kind := .answer, line := m.line, src := d, dst := m.src, horizon := s.liveHorizon d m.line, asid := m.asid
      lw := (s.lineTimes x).1, gw := (s.lineTimes x).2 }
  if x.st == .IS || x.st == .IM || (x.asker.isSome && x.st != .SM) then s.setDieLine d { x with held := x.held ++ [m] }
  else if x.st == .MI then s.send { back with kind := .noLine }
  else
    let withData := { back with data := if x.st == .I then none else some x.data }
    match m.kind with
    | .fwd =>
      -- an owner whose Upg is outstanding has the line in O (R272)
      let st := match x.st with | .E => LineSt.S | .M => .O | o => o
      ((s.setDieLine d { x with st := st, own := none }).retryLine d m.line).send { withData with lst := if st = .SM then .O else st }
    | k =>
      let s1 := if x.st == .SM then s.setDieLine d { x with st := .IM }
        else (s.setDieLine d { line := m.line, atHomeBusy := x.atHomeBusy }).retryLine d m.line
      s1.send (if k = .fwdInv then withData else back)

/-- Answers the messages that a line has held. -/
def State.answerHeld (s : State) (d l : Nat) : State :=
  let x := s.dieLine d l
  x.held.foldl State.answer (s.setDieLine d { x with held := [] })

/-- The operation that asked for a line has been performed, or is no more: held messages are answered. -/
def State.askerDone (s : State) (d l id : Nat) : State :=
  if (s.dieLine d l).asker = some id then
    (s.setDieLine d { s.dieLine d l with asker := none }).answerHeld d l
  else s

/-! ### Performing an access (R210, R217, R220, R230) -/

/-- Whether an atomic of a die waits at its slice for exclusive ownership of a line, or for the line itself: no new lease on the line is
granted meanwhile (R220). -/
def State.ownWaits (s : State) (d l : Nat) : Bool :=
  s.accs.any fun b => b.kind.atomic && b.scope != 0 && (b.phase == .waitOwn || b.phase == .waitLine) && coreDie b.core == d && b.lines.contains l

/-- Performs an access's next part on the line that its die holds. -/
def State.performAt (s : State) (d : Nat) (a : Acc) (p : Part) : State :=
  let l := p.pa / 128
  let off := p.pa % 128
  let x := s.dieLine d l
  let cur := bytesToNat ((List.range p.n).map fun k => lineByte x.data (off + k))
  let bad := s.poisonLines.contains l
  match a.newBytes p cur with
  | none =>
    let t := s.lineTimes x
    let s1 := s.setDieLine d { x with last := s.tsc, own := if x.own = some a.core then x.own else none }
    let s2 := s1.updAcc a.id fun a => { a.took p cur with lw := max a.lw t.1, gw := max a.gw t.2, poison := a.poison || bad }
    let noLease := x.own.isSome || s.ownWaits d l
    let s3 := match a.kind with
      | .load _ =>
        if (a.cp = 0 ∨ a.cp = 2) ∧ !noLease then
          let s3 := s2.grantLease a.core
            { core := a.core, line := l, expiry := s.tsc + s.leaseOf a.asid, data := x.data, lw := t.1, gw := t.2, poison := bad }
          if a.cp = 2 then s3.dropL1 a.core l else s3
        else s2.dropL1 a.core l
      | _ => s2.dropL1 a.core l
    s3.askerDone d l a.id
  | some bs =>
    let lw := max s.tsc (s.dieHorizon d l) + 2
    let gw := max s.tsc (max (s.dieHorizon d l) x.gh) + 2
    let s1 := s.setDieLine d
      { x with
        data := lineSetBytes x.data off bs, st := .M, last := s.tsc, lw := max x.lw lw, gw := max x.gw gw
        own := if x.own = some a.core then x.own else none }
    let s2 := ((s1.setWriter l a.asid).noteWrite l lw gw).updAcc a.id fun a => { a.took p cur with lw := max a.lw lw, gw := max a.gw gw, poison := a.poison || (bad && a.kind.atomic) }
    let s3 := if a.poison then s2.poisonLine l else s2
    let s4 := if a.cp = 0 then s3.writeL1 a.core l off bs lw gw a.poison else s3.dropL1 a.core l
    (s4.evalMonitors l).askerDone d l a.id

/-- A line that the die's far-line cache holds goes back to its L2 slice, and its entry is empty (R270, R271). DESIGN CHOICE (log 79). -/
def State.fromFlc (s : State) (d l : Nat) : State :=
  let x := s.dieLine d l
  if x.flc then (s.setDieLine d { x with flc := false }).count d cFlcHit 1 else s

/-- Asks the home for a line (R272). A line that the far-line cache does not hold either is a miss there (R271, R286). -/
def State.askLine (s : State) (d : Nat) (a : Acc) (p : Part) (k : MsgKind) (st : LineSt) : State :=
  let l := p.pa / 128
  let x := s.dieLine d l
  let s0 := if x.st == .I && (s.die d).flc != 0 && p.home != d then s.count d cFlcMiss 1 else s
  let s1 := s0.setDieLine d { x with st := st, asker := some a.id }
  (s1.send { id := 0, kind := k, line := l, src := d, dst := p.home, asid := a.asid, acc := a.id }).updAcc a.id
    fun a => { a with phase := .waitLine }

/-- An access arrives at its slice (R217): its next part is performed where the die holds the line as it
needs, else the line is asked for or waited for. An atomic at span scope or wider waits for exclusive
ownership unless its core has it (R220). -/
def State.sliceAccess (s : State) (a : Acc) (p : Part) : State :=
  let d := coreDie a.core
  let l := p.pa / 128
  let s := s.fromFlc d l
  let x := s.dieLine d l
  let wait := s.updAcc a.id fun a => { a with phase := .waitLine }
  if x.atHomeBusy then wait
  else if a.kind.writes then
    match x.st with
    | .E | .M =>
      if a.kind.atomic && a.scope != 0 && x.own != some a.core then
        (s.setDieLine d { x with own := none }).updAcc a.id fun a => { a with phase := .waitOwn }
      else s.performAt d a p
    | .S | .O => s.askLine d a p .upg .SM
    | .I => s.askLine d a p .rdx .IM
    | _ => wait
  else
    match x.st with
    | .S | .E | .O | .M | .SM => s.performAt d a p
    | .I => s.askLine d a p .rds .IS
    | _ => wait

/-! ### The value of an access reaches its thread (R45, R147, R232) -/

/-- Registers of a value. -/
def Acc.value (a : Acc) : List Word :=
  match a.kind with
  | .load true => [BitVec.ofInt 32 (sval (8 * a.size) a.result)]
  | _ => natToWords a.dcnt a.result

/-- A thread's destination is written and no longer pending, in the bank of the word's issue (R45, R147); one that has ended takes
only the completion times that its group's end waits for (R122, R231). DEDUCED (log 26). -/
def Thread.receive (t : Thread) (a : Acc) (ws : List Word) (poison : Bool) : Thread :=
  let t := if a.kind = .locq then t else t.finish a.cls
  let t := { t with lw := max t.lw a.lw, gw := max t.gw a.gw }
  if t.st = .exited then t
  else
    let rs := (List.range a.dcnt).map (a.dst + ·)
    (t.inBank a.shadow fun t => (t.setWords a.dst ws).taint rs [] (entering poison a.va)).clearPend rs

/-- An entry of the compare buffer by the leader's access. -/
def Tandem.entryOf (t : Tandem) (aid : Nat) : Option CEntry := t.entries.find? fun e => e.aid == aid

/-- Changes the entry of an access. -/
def State.updEntry (s : State) (gid aid : Nat) (f : CEntry → CEntry) : State :=
  s.updTandem gid fun t => { t with entries := updWhere (fun e => e.aid == aid) f t.entries }

/-- Gives a value to the thread of an access. In tandem mode the value goes to the access's entry, and to
each copy that has passed the access (R398, R401). -/
def State.giveValue (s : State) (gid tid aid : Nat) (recv : Thread → Thread) (ws : List Word) (poison : Bool) : State :=
  match (s.tandem? gid).bind fun t => (t.entryOf aid).map fun e => (t, e) with
  | none => s.updThread gid tid recv
  | some (t, e) =>
    let pass := fun (th : Thread) => if th.tacc ≥ e.k then recv th else th
    ((s.updEntry gid aid fun e => { e with value := some (ws, poison) }).updThread t.leader tid pass).updThread t.trailer tid pass

/-! ### What a memory word asks for -/

/-- The access that a word asks for in one thread. -/
structure Req where
  kind : AccKind
  ea : Nat
  size : Nat
  data : Nat := 0
  data2 : Nat := 0
  scope : Nat := 2
  cp : Nat := 0
  dst : Nat := 0
  dcnt : Nat := 0
  cls : Nat := 0
  noret : Bool := false
  need : Need
  facc : Nat
  align : Nat := 1
  addrRegs : List Nat
  dataRegs : List Nat := []

/-- The translated piece that holds a byte of an access. -/
def pieceAt : List (Trans × Nat) → Nat → Option (Trans × Nat)
  | [], _ => none
  | (t, n) :: ps, k => if k < n then some (t, k) else pieceAt ps (k - n)

/-- A part of n bytes at an offset of an access. -/
def partAt (ps : List (Trans × Nat)) (k n : Nat) : Part :=
  match pieceAt ps k with
  | some (t, o) => { pa := t.pa + o, off := k, n := n, home := t.home, host := t.host, dev := t.dev }
  | none => { pa := 0, off := k, n := n }

/-- The parts of an access (R210, R233): one for an aligned access of at most 8 bytes, 8-byte parts of a
larger aligned one, and the separate bytes of one that is not aligned. -/
def partsOf (ps : List (Trans × Nat)) (ea size : Nat) : List Part :=
  if ea % size ≠ 0 then (List.range size).map fun k => partAt ps k 1
  else if size ≤ 8 then [partAt ps 0 size]
  else (List.range (size / 8)).map fun k => partAt ps (8 * k) 8

/-- Atomics that the host ports perform (R255). -/
def hostAtomic (q : Req) : Bool :=
  q.scope == 3 && match q.kind with
    | .rmw op => op == 0 || op == 8
    | .cas => true
    | _ => false

/-- Translates an access: parts and whether the page is a future page, or the address and kind of its fault
(R233, R255, R256). -/
def State.translateReq (s : State) (core asid : Nat) (q : Req) : Except (Nat × Nat) (List (Trans × Nat)) :=
  match s.translateAll core (coreDie core) asid q.ea q.size q.need with
  | .error e => .error e
  | .ok ps =>
    let host := ps.any fun p => p.1.host.isSome
    if q.kind.atomic && host && !(hostAtomic q && !q.noret) then .error (q.ea, fkNever)
    else if (q.kind == .stFut || q.kind == .clrFut) && ps.any (fun p => !p.1.fut) then .error (q.ea, fkNever)
    else .ok ps

/-- The access of a request. -/
def Req.toAcc (q : Req) (l : Lane) (s : State) : Acc :=
  { id := s.nextId, asid := l.g.asid, gid := l.g.gid, tid := l.cur.tid, core := l.g.core, kind := q.kind, va := BitVec.ofNat 64 q.ea
    parts := [], size := q.size, data := q.data, data2 := q.data2, scope := q.scope, cp := q.cp, dst := q.dst, dcnt := q.dcnt
    shadow := l.src.popen, cls := q.cls, noret := q.noret }

/-- Serves a load from L1, or an atomic at group scope on a leased copy (R217, R230). DEDUCED (log 35). -/
def State.fromL1 (s : State) (a : Acc) : Acc :=
  match a.parts.mapM fun p => if p.host.isNone && !p.dev && !s.sideBefore a then (s.l1Hit a.core (p.pa / 128)).map fun x => (p, x) else none with
  | none => a
  | some hits =>
    let at_ := fun (px : Part × L1Line) => bytesToNat ((List.range px.1.n).map fun k => lineByte px.2.data (px.1.pa % 128 + k))
    match a.kind with
    | .load _ =>
      if a.cp = 0 ∨ a.cp = 2 then
        hits.foldl (fun a h =>
          { a.took h.1 (at_ h) with
            lw := max a.lw (if s.tsc ≤ h.2.gw then h.2.lw else 0), gw := max a.gw (if s.tsc ≤ h.2.gw then h.2.gw else 0)
            poison := a.poison || h.2.poison }) a
      else a
    | k => if k.atomic && a.scope == 0 then
        match hits with
        | h :: _ => { a with cond := some (at_ h), poison := a.poison || h.2.poison }
        | [] => a
      else a

/-- Puts an access on its way: a hit in L1 is performed at once (R217), and the bypass policies drop the
core's copy (R237). -/
def State.launchAcc (s : State) (a : Acc) : State :=
  let b := s.fromL1 a
  let drops := match a.kind with
    | .load _ => if a.cp = 0 then [] else a.lines
    | _ => []
  let hits := if b.phase == .done then a.lines else []
  let s1 := hits.foldl (fun s l => s.touch (coreDie a.core) l) (drops.foldl (fun s l => s.dropL1 a.core l) s)
  { s1 with accs := s1.accs ++ [b], nextId := s1.nextId + 1 }

/-- A side-log entry for an access that could not be translated, or that stands behind one (R376). -/
def State.sideEnter (s : State) (a : Acc) (held : Bool) : State :=
  { s with sideLog := s.sideLog ++ [{ id := a.id, acc := { a with side := true }, held := held }], nextId := s.nextId + 1 }

/-- Whether a core's side log is full (R376). -/
def State.sideFull (s : State) (core : Nat) : Bool := decide ((s.sideLog.filter fun e => e.acc.core == core).length ≥ 256)

/-! ### Ending a group by termination (R380) -/

/-- Accesses are withdrawn: a line that one of them asked for answers what its die has held (R275). -/
def State.dropAccs (s : State) (gone : Acc → Bool) : State :=
  (s.accs.filter gone).foldl (fun s a => a.lines.foldl (fun s l => s.askerDone (coreDie a.core) l a.id) s)
    { s with accs := s.accs.filter fun a => !gone a }

/-- A record of kind FAULT for a withdrawn access (R380, R382). -/
def State.faultRecord (s : State) (g : Group) (tid : Nat) (va : DWord) (sev : Nat) : State :=
  s.raiseErr { id := 0, asid := g.asid, tsc := 0, src := coreSrc g.core, kind := 0x12, sev := sev, addr := va, grp := g.grp, tid := tid
               pc := ((g.thread? tid).map (·.pc.pkt)).getD 0, gid := some g.gid }

/-- The group and the thread for which an item is held: those of its own, or of the command that it names. -/
def State.holder (s : State) (h : HeldItem) : Option (Nat × Nat) :=
  match h with
  | .copy id => (s.copies.find? fun c => c.id == id).bind fun c => c.gid.map fun g => (g, c.tids.headD 0xFFFF)
  | .mx id => (s.mxs.find? fun m => m.id == id).map fun m => (m.gid, m.tids.headD 0xFFFF)
  | .tileOp id => (s.tileOps.find? fun o => o.id == id).map fun o => (o.gid, o.tid)
  | .link id => (s.linkCmds.find? fun c => c.id == id).bind fun c => c.gid.map fun g => (g, c.tids.headD 0xFFFF)
  | .alloc => match s.allocQ with
    | .word id :: _ => (s.fieldOps.find? fun o => o.id == id).map fun o => (o.gid, o.tid)
    | _ => none
  | h => h.owner

/-- Ends every thread of a group as EXIT does; withdraws its held faults and side-log entries, each with a
record of kind FAULT, its monitor entries and held loads; and marks its span (R380). A command that was held fails. A held end of the group stays. -/
def State.endThreads (s : State) (gid : Nat) : State :=
  match s.group? gid with
  | none => s
  | some g =>
    let held := fun (h : HeldItem) => match s.holder h with | some (x, _) => x == gid && h != .groupEnd gid | none => false
    let withdrawn := s.faults.flatMap fun f => (f.held.filter held).map fun h => (((s.holder h).map (·.2)).getD 0, f.va)
    let lost := ((s.faults.flatMap (·.held)) ++ s.away).filter fun h => held h && h.owner.isNone
    let side := s.sideLog.filter fun e => e.acc.gid == gid
    let s1 := withdrawn.foldl (fun s p => s.faultRecord g p.1 p.2 2) s
    let s2 := side.foldl (fun s e => s.faultRecord g e.acc.tid e.acc.va 2) s1
    let u := s2.unhold fun h => held h || side.any fun e => h == .side e.id
    let s3 : State := { u.dropAccs (fun a => a.gid == gid && (a.side || a.phase == .deferred)) with
      lost := u.lost ++ lost
      sideLog := u.sideLog.filter fun e => e.acc.gid != gid
      mxDone := u.mxDone.filter fun m => m.gid != gid
      monitors := u.monitors.filter fun m => match m.who with | .thread x _ => x != gid | _ => true }
    let s4 := s3.updGroup gid fun g =>
      { g with
        terminated := true, hold := s.faults.any (fun f => f.held.contains (.groupEnd gid))
        threads := g.threads.map fun t =>
          { Thread.end_ t with nStore := t.nStore - (side.filter fun e => e.acc.tid == t.tid).length, trapAt := none, skids := [] } }
    (s4.updTandem gid fun t => { t with held := false }).updSpan g.sid fun x => { x with terminated := true }

/-- Terminates a group, both copies of a tandem group (R380, R402). -/
def State.terminate (s : State) (gid : Nat) : State :=
  match s.tandem? gid with
  | some t => (s.endThreads t.leader).endThreads t.trailer
  | none => s.endThreads gid

/-! ### Tandem mode (R398, R401) -/

/-- What an access does in its copy: outside tandem mode; as the leader's access k; as a replay or a match
whose value is there; or as one whose value is still to come. -/
inductive Tan where
  | solo
  | lead (k : Nat)
  | value (ws : List Word) (poison : Bool)
  | wait

/-- An access's part in tandem mode. A replayed access must have the released entry's signature (R401); the
trailer's access waits to be compared (R398), and the leader's does not issue while the buffer has no room (R399). -/
def Lane.tandem (l : Lane) (s : State) (sig : List Nat) : Except Stop Tan :=
  if l.g.role = .solo then .ok .solo
  else match s.tandem? l.g.gid with
    | none => .ok .solo
    | some td =>
      let k := l.cur.tacc + 1
      match td.entries.find? fun e => e.tid == l.cur.tid && e.k == k && e.released with
      | some e =>
        if e.sig = sig then (match e.value with | some v => .ok (.value v.1 v.2) | none => .ok .wait)
        else .error (.trap 8 3 0)
      | none =>
        if l.g.role ≠ .leader then .error (.trailer sig)
        else if td.bufferFull && !(td.pending.any fun e => e.tid == l.cur.tid && e.k == k) then .error .hold
        else .ok (.lead k)

/-- A fault of an access: the leader's keeps its entry pending (R402). -/
def tanFault (tan : Tan) (va : DWord) (kind acc : Nat) (sig : List Nat) : Stop :=
  match tan with
  | .lead k => if kind % 64 ≥ 4 then .fault va kind acc else .entry va kind acc k sig
  | _ => .fault va kind acc

/-- Counts an access of a copy (R398). DEDUCED (log 40). -/
def Thread.countAccess (t : Thread) (role : Role) : Thread := if role = .solo then t else { t with tacc := t.tacc + 1 }

/-- Makes an entry of the compare buffer (R398). -/
def State.addEntry (s : State) (l : Lane) (e : CEntry) : State :=
  s.updTandem l.g.gid fun t => t.put { e with tid := l.cur.tid, made := s.tsc, pc := s.issue.pc0.pkt }

/-- The signature of an access (R398): kind, address, size, data and operands, scope. -/
def Req.sig (q : Req) : List Nat := [q.kind.code, q.ea, q.size, q.data, q.data2, q.scope]

/-! ### The access of a memory word -/

/-- An operation of a class begins, its destination pending (R20, R45). -/
def State.beginOp (s : State) (l : Lane) (cls dst dcnt : Nat) : State :=
  s.updLane l fun t => (t.begin cls).markPend ((List.range dcnt).map (dst + ·))

/-- The access of a word in one thread: the counter's limit (R20), poison (R383, R384), alignment (R233), tandem
mode (R398), translation and its faults (R235, R376), and the access itself. -/
def memAccess (q : Req) (l : Lane) (s : State) : Except Stop State :=
  if l.cur.outstanding q.cls ≥ 63 then .error (.park (.counter q.cls))
  else match l.consume q.addrRegs, l.consume q.dataRegs with
    | .error e, _ => .error e
    | _, .error e => .error e
    | .ok true, _ => .ok s
    | .ok false, .ok dp =>
      if q.ea % q.align ≠ 0 ∧ l.g.role ≠ .trailer then .error (.fault (BitVec.ofNat 64 q.ea) fkAlign q.facc)
      else match l.tandem s q.sig with
        | .error e => .error e
        | .ok tan =>
          let count := fun (s : State) => s.updLane l (Thread.countAccess · l.g.role)
          let a : Acc := { q.toAcc l s with poison := dp }
          match tan with
          | .value ws p =>
            if q.noret || q.kind == .store then .ok (count s)
            else
              let s1 := (count s).beginOp l q.cls q.dst q.dcnt
              .ok { s1 with accs := s1.accs ++ [{ a with kind := if q.kind == .load true then .load false else q.kind, phase := .done, result := wordsToNat ws, poison := p }], nextId := s1.nextId + 1 }
          | .wait => .ok ((count s).beginOp l q.cls q.dst q.dcnt)
          | tan =>
            let behind := q.noret && s.sideLogHas l.g.gid l.cur.tid
            let lead := match tan with | .lead k => some k | _ => none
            if behind && lead.isNone then
              if s.sideFull l.g.core then .error (.park .sideLog)
              else .ok ((s.beginOp l q.cls 0 0).sideEnter a false)
            else match s.translateReq l.g.core l.g.asid q with
              | .error (va, k) =>
                if !q.noret then .error (tanFault tan (BitVec.ofNat 64 va) k q.facc q.sig)
                else match lead with
                  | some n => .ok (((count s).beginOp l q.cls 0 0).addEntry l
                      { tid := 0, k := n, sig := q.sig, made := 0, acc := some a, aid := a.id, faulted := true }).fresh
                  | none =>
                    if s.sideFull l.g.core then .error (.park .sideLog)
                    else
                      let s1 := ((s.beginOp l q.cls 0 0).sideEnter a true).postFault l.g.asid va k q.facc (coreSrc l.g.core) (.side a.id)
                      .ok (if k % 64 ≥ 4 then s1.terminate l.g.gid else s1)
              | .ok ps =>
                let s0 := (pagePieces q.ea q.size).foldl (fun s p => s.tlbFill l.g.core (coreDie l.g.core) l.g.asid p.1) s
                let a := { a with parts := partsOf ps q.ea q.size }
                let s1 := (count s0).beginOp l q.cls q.dst q.dcnt
                match lead with
                | none => .ok (s1.launchAcc a)
                | some n =>
                  let held := q.kind.writes
                  let s2 := s1.addEntry l { tid := 0, k := n, sig := q.sig, made := 0, acc := if held then some a else none, aid := a.id }
                  .ok (if held then s2.fresh else s2.launchAcc a)

/-! ### Events of an access -/

/-- The writer's side of a future's edge (R226): its earlier thread-path accesses are complete, and the tick
is past every write time that it and its span's threads had observed, as after FENCE.DEV. -/
def State.futReady (s : State) (a : Acc) : Bool :=
  !(s.accs.any fun x => decide (x.id < a.id) && x.gid == a.gid && x.tid == a.tid && x.phase != .deferred)
    && match s.group? a.gid with
      | some g => s.othersStored g { scope := 2, pa := 1, pb := 1, upto := a.id }
          && s.owed.all fun o => o.sid != g.sid || decide (o.id ≥ a.id ∨ s.tsc > o.gw)
      | none => true

/-- The name under which a future cell in host memory stands among the full cells: past every device physical address. -/
def Part.hostCell (p : Part) : Nat := p.host.getD 1 * 2 ^ 52 + p.pa

/-- A future operation on a cell in host memory is performed at its host port, whose deferral buffer is of a slice's size (R225, R256).
DESIGN CHOICE (log 34). -/
def State.futureOutside (s : State) (a : Acc) (p : Part) : State :=
  let waits := fun (b : Acc) => b.phase == .deferred && b.parts.any fun q => q.host.isSome && q.hostCell == p.hostCell
  match a.kind with
  | .ldFut =>
    if s.futures.contains p.hostCell then s.updAcc a.id fun a => { a.took p (bytesToNat (Memory.readBytes s.hostMem p.hostCell 8)) with poison := s.poisonLines.contains (p.hostCell / 128) }
    else if (s.accs.filter fun b => b.phase == .deferred && b.parts.any fun q => q.host == p.host).length ≥ 64 then
      s.updAcc a.id fun a => { a.took p 0 with status := 1 }
    else s.updAcc a.id fun a => { a with phase := .deferred }
  | .stFut =>
    let s0 := if a.poison then s.poisonLine (p.hostCell / 128) else s
    let s1 : State := { s0 with
      hostMem := Memory.writeBytes s.hostMem p.hostCell (natToBytes 8 a.data), futures := insertNat p.hostCell s.futures
      accs := s.accs.map fun b => if waits b then { b.took p a.data with poison := s0.poisonLines.contains (p.hostCell / 128) } else b }
    s1.updAcc a.id fun a => a.took p 0
  | _ => { s.updAcc a.id fun a => a.took p 0 with futures := s.futures.filter (· != p.hostCell) }

/-- An access at its host port or in the device page is performed as its data returns (R217, R255), a poison mark with it (R374, R384). -/
def State.performOutside (s : State) (a : Acc) (p : Part) : State :=
  if p.dev then
    s.updAcc a.id fun a => a.took p (bytesToNat ((List.range p.n).map fun k => s.harvestByte (p.pa + k)))
  else if a.kind.future then s.futureOutside a p
  else
    let cur := bytesToNat (Memory.readBytes s.hostMem p.hostCell p.n)
    let bad := s.poisonLines.contains (p.hostCell / 128)
    match a.newBytes p cur with
    | some bs =>
      let s1 := { s with hostMem := Memory.writeBytes s.hostMem p.hostCell bs }.updAcc a.id fun a => { a.took p cur with poison := a.poison || (bad && a.kind.atomic) }
      if a.poison then s1.poisonLine (p.hostCell / 128) else s1
    | none => s.updAcc a.id fun a => { a.took p cur with poison := a.poison || bad }

/-- Performs every part that lies outside device memory, where the parts before it have been performed. -/
def State.performHost (s : State) (id : Nat) : Nat → State
  | 0 => s
  | n + 1 =>
    match s.acc? id with
    | some a => match a.parts with
      | p :: _ => if (p.host.isSome || p.dev) && a.phase == .issued && !s.blocked a && (a.kind != .stFut || s.futReady a) then (s.performOutside a p).performHost id n else s
      | [] => s
    | none => s

end Sys2Proof.Machine
end

