-- ==== Sys2Proof/Machine/Directory.lean ====
section
/-! DEFINITION. The directory of the four compute dies: requests, answers, grants and write-backs at a
line's home (R272-R277), writes at the home of a monitored line (R278, R289), ageing (R290) and die reset (R279). -/

namespace Sys2Proof.Machine

/-- The directory entry of a line, I where the home records nothing. Where a new mapping of the page names another home (R268), an
entry that no request occupies goes there. -/
def State.dir (s : State) (l home : Nat) : Dir :=
  match s.dirs.find? fun x => x.line == l with
  | none => { line := l, home := home }
  | some x => if x.cur.isNone && x.queue.isEmpty then { x with home := home } else x

/-- Replaces a directory entry. -/
def State.setDir (s : State) (x : Dir) : State := { s with dirs := x :: s.dirs.filter fun y => y.line != x.line }

/-- States in which the home takes the next request (R273). -/
def HomeSt.stable : HomeSt → Bool
  | .I | .S | .E | .M | .O => true
  | _ => false

/-- States in which the home records an owner. -/
def HomeSt.owned : HomeSt → Bool
  | .E | .M | .O => true
  | _ => false

/-- Requests that leave the owner a copy: a shared one, and those that only recall the line (R272, R278). -/
def MsgKind.keeps : MsgKind → Bool
  | .rds | .register | .future => true
  | _ => false

/-- Sends an Inv, a Fwd or a FwdInv from the home to a die and counts it (R286). -/
def State.snoop (s : State) (x : Dir) (k : MsgKind) (asid d : Nat) : State :=
  (s.send { id := 0, kind := k, line := x.line, src := x.home, dst := d, asid := asid }).count x.home (if k = .inv then cDirInv else cDirFwd) 1

/-- Answers a request with the line in a state, with data or without, and the horizon that the home has
gathered together with its own die's (R272, R274). -/
def State.grantTo (s : State) (x : Dir) (m : Msg) (st : LineSt) (data : Option LineData) : State :=
  s.send { id := 0, kind := .grant, line := x.line, src := x.home, dst := m.src, asid := m.asid, lst := st, data := data
           horizon := max x.hor (s.liveHorizon x.home x.line), lw := x.lw, gw := x.gw }

/-- Dies that hold the line beside one of them, the owner included. -/
def Dir.others (x : Dir) (d : Nat) : List Nat :=
  ((if x.st.owned then insertNat x.owner x.sharers else x.sharers)).filter (· != d)

/-- The data of a request without the owner's: what memory holds. -/
def State.memData (s : State) (x : Dir) : LineData := x.data.getD (Memory.line s.mem x.line)

/-- Memory takes the data that the home has gathered. -/
def State.takeData (s : State) (x : Dir) : State :=
  match x.data with | some d => { s with mem := Memory.setLine s.mem x.line d } | none => s

/-! ### Future cells and monitor entries at the home (R225-R228, R278, R289, R299) -/

/-- Held loads of a home slice's deferral buffer (R225). -/
def State.deferredAt (s : State) (home slice : Nat) : Nat :=
  (s.accs.filter fun a => a.phase == .deferred && a.parts.any fun p => p.home == home && homeSlice (p.pa / 128) == slice).length

/-- A future operation is performed at the cell's home slice (R225). DESIGN CHOICE (log 34). -/
def State.futurePerform (s : State) (a : Acc) (p : Part) : State :=
  let l := p.pa / 128
  match a.kind with
  | .ldFut =>
    if s.futures.contains p.pa then
      s.updAcc a.id fun a =>
        { a.took p (bytesToNat (s.physBytes p.pa 8)) with
          poison := s.poisonLines.contains l, lw := max a.lw (s.valueTimes l).1, gw := max a.gw (s.valueTimes l).2 }
    else if s.deferredAt p.home (homeSlice l) ≥ 64 then
      s.updAcc a.id fun a => { a.took p 0 with status := 1 }
    else s.updAcc a.id fun a => { a with phase := .deferred }
  | .stFut =>
    let lw := max s.tsc (s.dieHorizon (coreDie a.core) l) + 2
    let gw := max s.tsc (s.horizon l) + 2
    let s1 := (s.writePhys (coreDie a.core) a.asid p.pa (natToBytes 8 a.data)).writeL1 a.core l (p.pa % 128) (natToBytes 8 a.data) lw gw a.poison
    let s2 := if a.poison then s1.poisonLine l else s1
    let s3 : State := { s2 with
      futures := insertNat p.pa s2.futures
      accs := s2.accs.map fun (b : Acc) =>
        if b.phase == .deferred && b.parts.any (fun q => q.host.isNone && q.pa == p.pa) then
          { b.took p a.data with lw := lw, gw := gw, poison := s2.poisonLines.contains l }
        else b }
    s3.updAcc a.id fun a => { a.took p 0 with lw := lw, gw := gw }
  | _ => { s.updAcc a.id fun a => a.took p 0 with futures := s.futures.filter (· != p.pa) }

/-- Entries that a slice's table holds. -/
def State.tableAt (s : State) (die slice : Nat) : Nat :=
  (s.monitors.filter fun m => m.inserted && !m.spilled && m.die == die && m.slice == slice).length

/-- The 32 bytes of a spilled entry (R299). -/
def Monitor.bytes (m : Monitor) : List Byte :=
  natToBytes 8 m.va.toNat ++ natToBytes 8 m.opnd.toNat ++ natToBytes 8 m.due ++ natToBytes 4 m.slot
    ++ natToBytes 1 (m.cmp + if m.wide then 8 else 0) ++ natToBytes 3 0

/-- Writes a spilled entry into the spill area of its context, at its thread's place (R299); the control die keeps its own
entries itself. DESIGN CHOICE (log 78). -/
def State.writeSpill (s : State) (m : Monitor) : State :=
  match s.ctx? m.asid, m.who with
  | some c, .thread _ _ => (s.ctlWrite m.asid (c.spill.toNat + 32 * m.slot) m.bytes).getD s
  | _, _ => s

/-- Replaces a monitor entry. -/
def State.setMonitor (s : State) (m : Monitor) : State := { s with monitors := s.monitors.map fun x => if x.id == m.id then m else x }

/-- An entry enters the table of its slice, or the spill area where the table is full, and is evaluated (R227, R299). -/
def State.insertMonitor (s : State) (m : Monitor) : State :=
  let full := decide (s.tableAt m.die m.slice ≥ 256)
  let m := { m with inserted := true, due := if m.timeout = 0 ∨ m.due ≠ 0 then m.due else s.tsc + m.timeout, spilled := full }
  let s1 := s.setMonitor m
  let s2 := if full then s1.writeSpill m else s1
  if s2.monitorHolds m then s2.wakeMonitor m 0 else s2

/-- The home acts for a registration or a future operation, the line's current data being there (R278, R289). -/
def State.homeAct (s : State) (m : Msg) : State :=
  match m.kind with
  | .register => match s.monitors.find? fun x => x.id == m.acc && !x.inserted with
    | some x => s.insertMonitor x
    | none => s
  | .future => match s.acc? m.acc with
    | some a => match a.parts with
      | p :: _ => s.futurePerform a p
      | [] => s
    | none => s
  | _ => s

/-! ### Requests at the home (R272, R273, R278) -/

/-- Completes the request that the home is working on, every answer being there (R272, R278). -/
def State.finishHome (s : State) (x : Dir) : State :=
  let done := { x with cur := none, need := [], data := none, atHome := false }
  -- after a request that leaves the owner its copy
  let left := { done with st := if x.kept = .O then HomeSt.O else .S, sharers := if x.owner = 0 then x.sharers else insertNat x.owner x.sharers }
  match x.cur with
  | none =>
    -- the requesting die has been reset: memory keeps what was gathered (R279)
    (s.takeData x).setDir (if x.keeps && x.owner != 0 then left else { done with st := if x.sharers.isEmpty then .I else .S })
  | some m =>
    if x.atHome then
      ((s.takeData x).send { id := 0, kind := .atHome, line := x.line, src := x.home, dst := m.src, asid := m.asid, acc := m.acc }).setDir
        { done with st := .bAh, cur := some m, sharers := [], owner := 0 }
    else
      match m.kind with
      | .rds => (s.grantTo x m .S (some (s.memData x))).setDir { left with sharers := insertNat m.src left.sharers }
      | .register | .future => ((s.takeData x).setDir left).homeAct m
      | .upg => (s.grantTo x m .M none).setDir { done with st := .M, sharers := [], owner := m.src }
      | _ => (s.grantTo x m .M (some (s.memData x))).setDir { done with st := .M, sharers := [], owner := m.src }

/-- Waits for answers, or completes at once where none is needed. -/
def State.await (s : State) (x : Dir) : State := if x.need.isEmpty then s.finishHome x else s.setDir x

/-- Takes an exclusive request (R272, R278). -/
def State.takeExclusive (s : State) (x : Dir) (m : Msg) : State :=
  let holds := x.sharers.contains m.src || (x.st == .O && x.owner == m.src)
  let upg := m.kind == .upg && holds
  let s := if m.kind == .upg && !holds then s.count x.home cUpgRdx 1 else s
  let others := x.others m.src
  -- an owner other than the requester gives its data up, unless the requester holds the line already
  let fwd := x.st.owned && x.owner != m.src && !upg
  let s1 := others.foldl (fun s d => s.snoop x (if fwd && d == x.owner then .fwdInv else .inv) m.asid d) s
  let x1 := { x with cur := some { m with kind := if upg then .upg else .rdx }, need := others, data := none, atHome := s.monitored x.line
                     st := if fwd then HomeSt.bFwd else .bInv, keeps := false, lw := 0, gw := 0 }
  s1.await x1

/-- Sends the owner a Fwd for a request that leaves it a copy (R272). -/
def State.forward (s : State) (x : Dir) (m : Msg) : State :=
  (s.snoop x .fwd m.asid x.owner).setDir
    { x with cur := some m, need := [x.owner], st := .bFwd, data := none, kept := .S, keeps := true, lw := 0, gw := 0 }

/-- Takes a shared request (R272). No exclusive copy of a monitored line is granted (R228). -/
def State.takeShared (s : State) (x : Dir) (m : Msg) : State :=
  if x.st.owned then
    if x.owner = m.src then
      (s.grantTo x m .E (some (Memory.line s.mem x.line))).setDir { x with st := .E, sharers := [], owner := m.src }
    else s.forward x m
  else if x.st == .S || s.monitored x.line then
    (s.grantTo x m .S (some (Memory.line s.mem x.line))).setDir { x with st := .S, sharers := insertNat m.src x.sharers }
  else (s.grantTo x m .E (some (Memory.line s.mem x.line))).setDir { x with st := .E, owner := m.src, sharers := [] }

/-- Takes a registration or a future operation: a line that a die holds in E, O or M is recalled by Fwd first (R278). -/
def State.takeRecall (s : State) (x : Dir) (m : Msg) : State :=
  if x.st.owned then s.forward x m else (s.setDir x).homeAct m

/-- The home takes a request. -/
def State.takeRequest (s : State) (x : Dir) (m : Msg) : State :=
  match m.kind with
  | .rds => s.takeShared x m
  | .register | .future => s.takeRecall x m
  | _ => s.takeExclusive x m

/-- The home takes its requests one at a time, in the order of their arrival (R273). -/
def State.homeNext (s : State) (l : Nat) : Nat → State
  | 0 => s
  | n + 1 =>
    match s.dirs.find? fun x => x.line == l with
    | none => s
    | some x =>
      if !x.st.stable then s
      else match x.queue with
        | [] => s
        | m :: ms => (s.takeRequest { x with queue := ms, home := m.dst } m).homeNext l n

/-- Whether a request of a source may arrive at the home now: none of a higher source has arrived in this tick, for the lower
one would have gone first (R273). DEDUCED (log 77). -/
def State.mayArrive (s : State) (x : Dir) (src : Nat) : Bool := x.reqTick != s.tsc || decide (x.reqSrc ≤ src)

/-- A request joins the home's queue, and the home takes what it can. -/
def State.arriveHome (s : State) (x : Dir) (m : Msg) (src : Nat) : State :=
  (s.setDir { x with queue := x.queue ++ [m], reqTick := s.tsc, reqSrc := src }).homeNext x.line (x.queue.length + 1)

/-- Source number of a die's slice that holds a line (R269, R388). -/
def sliceSrc (d l : Nat) : Nat := srcNum d (0x100 + homeSlice l)

/-- A request arrives at the home (R273). -/
def request (id : Nat) (k : MsgKind) (s : State) : Res :=
  match s.msg? id k with
  | none => notEnabled
  | some m =>
    let x := s.dir m.line m.dst
    if !(s.die m.dst).enabled || !s.mayArrive x (sliceSrc m.src m.line) then notEnabled
    else .next ((s.dropMsg id).arriveHome x m (sliceSrc m.src m.line))

/-- RDS (R272). -/
def execRds (m : Nat) (s : State) : Res := request m .rds s
/-- RDX (R272). -/
def execRdx (m : Nat) (s : State) : Res := request m .rdx s
/-- UPG (R272). -/
def execUpg (m : Nat) (s : State) : Res := request m .upg s

/-- A message from a home arrives at a die, which answers or holds it (R276). -/
def snooped (id : Nat) (k : MsgKind) (s : State) : Res :=
  match s.msg? id k with
  | none => notEnabled
  | some m => .next ((s.dropMsg id).answer m)

/-- INV (R276). -/
def execInv (m : Nat) (s : State) : Res := snooped m .inv s
/-- FWD (R276). At a line in SM, where R276 expects none, it is answered as in O. DESIGN CHOICE (log 91). -/
def execFwd (m : Nat) (s : State) : Res := snooped m .fwd s
/-- FWDINV (R276). -/
def execFwdinv (m : Nat) (s : State) : Res := snooped m .fwdInv s

/-- DIRECTORY_ANSWER (R274): the home gathers the horizon and the data, and completes its request once every
answer is there. -/
def execDirectoryAnswer (id : Nat) (s : State) : Res :=
  match s.msg? id .answer with
  | none => notEnabled
  | some m =>
    let s := s.dropMsg id
    let x := s.dir m.line m.dst
    if !x.need.contains m.src then .next s
    else
      let x := { x with
        need := x.need.filter (· != m.src), hor := max x.hor m.horizon
        data := if m.data.isSome then m.data else x.data
        kept := if m.kind = .answer && m.data.isSome then m.lst else x.kept
        lw := max x.lw m.lw, gw := max x.gw m.gw }
      .next ((s.await x).homeNext m.line x.queue.length)

/-- NO_LINE_ANSWER (R277): the home waits for the write-back, or discards the answer where it has come. -/
def execNoLineAnswer (id : Nat) (s : State) : Res :=
  match s.msg? id .noLine with
  | none => notEnabled
  | some m =>
    let s := s.dropMsg id
    let x := s.dir m.line m.dst
    .next (if x.need.contains m.src then s.setDir { x with st := .bWb } else s)

/-- Acknowledges a write-back (R277). -/
def State.ackWb (s : State) (m : Msg) : State := s.send { id := 0, kind := .wbAck, line := m.line, src := m.dst, dst := m.src, asid := m.asid }

/-- WB (R272, R277): memory takes the data; a request that waits completes with it as though from state I,
or from state S where sharers remain; a stale write-back is discarded. -/
def execWb (id : Nat) (s : State) : Res :=
  match s.msg? id .wb with
  | none => notEnabled
  | some m =>
    if !(s.die m.dst).enabled then notEnabled
    else
    let s := s.dropMsg id
    let x := s.dir m.line m.dst
    let take := match m.data with | some d => { s with mem := Memory.setLine s.mem m.line d } | none => s
    let x1 := { x with hor := max x.hor m.horizon, lw := max x.lw m.lw, gw := max x.gw m.gw }
    if x.st.stable then
      if (x.st == .E || x.st == .M || x.st == .O) && x.owner == m.src then
        let sh := x.sharers.filter (· != m.src)
        .next (((take.setDir { x1 with st := if sh.isEmpty then .I else .S, sharers := sh, owner := 0 }).ackWb m).homeNext m.line x.queue.length)
      else .next (s.ackWb m)
    else if x.owner = m.src then
      let sh := x.sharers.filter (· != m.src)
      let x2 := { x1 with need := x.need.filter (· != m.src), sharers := sh, owner := 0, kept := .S, data := m.data }
      let s1 := (take.ackWb m).count m.dst cWbCross 1
      match x.cur with
      | some r =>
        if r.kind.keeps ∧ x2.need = [] then
          -- completes as though from state I, or S when sharers remain
          let done := { x2 with cur := none, data := none, st := if sh.isEmpty then HomeSt.I else .S }
          .next ((s1.takeRequest done r).homeNext m.line x.queue.length)
        else .next ((s1.await x2).homeNext m.line x.queue.length)
      | none => .next ((s1.await x2).homeNext m.line x.queue.length)
    else .next (s.ackWb m)

/-- WB_ACK (R277): the die leaves MI for I. -/
def execWbAck (id : Nat) (s : State) : Res :=
  match s.msg? id .wbAck with
  | none => notEnabled
  | some m =>
    let s := s.dropMsg id
    let x := s.dieLine m.dst m.line
    .next (if x.st = .MI then (s.setDieLine m.dst { line := m.line, atHomeBusy := x.atHomeBusy }).retryLine m.dst m.line else s)

/-- GRANT (R275): the die takes the line and performs the operation that asked for it before it answers
anything else. -/
def execGrant (id : Nat) (s : State) : Res :=
  match s.msg? id .grant with
  | none => notEnabled
  | some m =>
    let d := m.dst
    let s := s.dropMsg id
    let x := s.dieLine d m.line
    if x.st != .IS && x.st != .IM && x.st != .SM then .next s
    else
      let s1 := s.setDieLine d
        { x with st := m.lst, data := m.data.getD x.data, gh := m.horizon, lw := max x.lw m.lw, gw := max x.gw m.gw, last := s.tsc }
      let s2 := s1.retryLine d m.line
      match x.asker.bind s2.acc? with
      | some a => match a.parts with
        | p :: _ => if p.pa / 128 = m.line then .next (s2.sliceAccess a p) else .next (s2.askerDone d m.line a.id)
        | [] => .next (s2.askerDone d m.line a.id)
      | none => .next ((s2.setDieLine d { s2.dieLine d m.line with asker := none }).answerHeld d m.line)

/-- PERFORM_AT_HOME (R289): the die drops its copy and sends its operation to the home. -/
def execPerformAtHome (id : Nat) (s : State) : Res :=
  match s.msg? id .atHome with
  | none => notEnabled
  | some m =>
    let d := m.dst
    let s := s.dropMsg id
    let x := s.dieLine d m.line
    let s1 := s.setDieLine d { line := m.line, held := x.held, atHomeBusy := true }
    let s2 := s1.updAcc m.acc fun a => { a with phase := .atHome }
    .next ((s2.send { id := 0, kind := .homeOp, line := m.line, src := d, dst := m.src, asid := m.asid, acc := m.acc }).answerHeld d m.line)

/-- HOME_OPERATION (R289): the home performs the operation, evaluates the line's entries (R228), and replies
with the old value and the write completion times. -/
def execHomeOperation (id : Nat) (s : State) : Res :=
  match s.msg? id .homeOp with
  | none => notEnabled
  | some m =>
    if !(s.die m.dst).enabled then notEnabled
    else
    let s := s.dropMsg id
    let x := s.dir m.line m.dst
    let s1 := match s.acc? m.acc with
      | none => s
      | some a => match a.parts with
        | [] => s
        | p :: _ =>
          let cur := bytesToNat (s.physBytes p.pa p.n)
          let bad := s.poisonLines.contains m.line
          let lw := max s.tsc (s.dieHorizon m.src m.line) + 2
          let gw := max s.tsc (s.horizon m.line) + 2
          match a.newBytes p cur with
          | none =>
            let t := s.valueTimes m.line
            (s.updAcc a.id fun a => { a.took p cur with lw := max a.lw t.1, gw := max a.gw t.2, poison := a.poison || bad }).dropL1 a.core m.line
          | some bs =>
            let s1 := ((s.setPhysBytes p.pa bs).setWriter m.line a.asid).noteWrite m.line lw gw
            let s2 := s1.updAcc a.id fun a => { a.took p cur with lw := max a.lw lw, gw := max a.gw gw, poison := a.poison || (bad && a.kind.atomic) }
            let s3 := if a.poison then s2.poisonLine m.line else s2
            (if a.cp = 0 then s3.writeL1 a.core m.line (p.pa % 128) bs lw gw a.poison else s3.dropL1 a.core m.line).evalMonitors m.line
    let y := s1.dieLine m.src m.line
    let s2 := ((s1.setDieLine m.src { y with atHomeBusy := false }).retryLine m.src m.line).count m.dst cAtHome (if (s.acc? m.acc).isSome then 1 else 0)
    .next ((s2.setDir { x with st := .I, cur := none, sharers := [], owner := 0 }).homeNext m.line x.queue.length)

/-- A die gives up a line: a dirty one by a write-back, one in E by a write-back without data, one in S silently (R271, R272). -/
def State.giveUp (s : State) (d home : Nat) (x : DieLine) : State :=
  if x.st = .S then s.setDieLine d { line := x.line, atHomeBusy := x.atHomeBusy }
  else (s.setDieLine d { x with st := .MI, own := none, flc := false }).send
    { id := 0, kind := .wb, line := x.line, src := d, dst := home, data := if x.st = .E then none else some x.data, horizon := s.liveHorizon d x.line
      asid := s.writer x.line, lw := (s.lineTimes x).1, gw := (s.lineTimes x).2 }

/-- LINE_AGEING (R290): a dirty line of another home that no core or engine has accessed for 2,048 ticks is
written back. -/
def execLineAgeing (d l : Nat) (s : State) : Res :=
  let x := s.dieLine d l
  match s.dirs.find? fun y => y.line == l with
  | none => notEnabled
  | some y =>
    if (x.st = .M ∨ x.st = .O) ∧ y.home ≠ d ∧ x.last + 2048 ≤ s.tsc ∧ x.asker = none then .next (s.giveUp d y.home x)
    else notEnabled

/-- The dirty lines that dies hold and that other dies home: the die, the home and the line. None whose operation is still to be
performed. -/
def State.ageing (s : State) : List (Nat × Nat × DieLine) :=
  s.lines.filterMap fun p =>
    match if (p.2.st == .M || p.2.st == .O) && p.2.asker.isNone then s.dirs.find? fun y => y.line == p.2.line else none with
    | some y => if y.home != p.1 then some (p.1, y.home, p.2) else none
    | none => none

/-- At the first tick at which 2,048 have passed since its last access, a line is written back (R290). -/
def State.ageLines (s : State) : State :=
  (s.ageing.filter fun a => decide (a.2.2.last + 2048 ≤ s.tsc)).foldl (fun s a => s.giveUp a.1 a.2.1 a.2.2) s

/-! ### Leaving the L2 slice and the far-line cache (R270, R271) -/

/-- Whether a die holds a line so that it can give it up now. -/
def DieLine.idle (x : DieLine) : Bool :=
  (x.st == .S || x.st == .E || x.st == .O || x.st == .M) && x.asker.isNone && x.held.isEmpty && !x.atHomeBusy

/-- The entry of a far-line cache of so many GiB that a line occupies (R271). -/
def flcEntry (gib l : Nat) : Nat := l % (gib * 2 ^ 30 / 128)

/-- A line leaves a die's far-line cache: a clean one silently, a dirty one by a write-back to its home (R271). -/
def State.leaveFlc (s : State) (d : Nat) (x : DieLine) : State :=
  match x.st, s.dirs.find? fun y => y.line == x.line with
  | .M, some y => s.giveUp d y.home x
  | .O, some y => s.giveUp d y.home x
  | _, _ => s.setDieLine d { line := x.line, held := x.held, atHomeBusy := x.atHomeBusy }

/-- A die's L2 evicts a line: one homed on another die goes to the far-line cache, with its state, in the place of the line
that lies there; any other leaves the die (R271). DESIGN CHOICE (log 79). -/
def State.evict (s : State) (d l : Nat) : Res :=
  let x := s.dieLine d l
  match s.dirs.find? fun y => y.line == l with
  | none => notEnabled
  | some y =>
    let gib := (s.die d).flc
    if !x.idle || x.flc then notEnabled
    else if gib = 0 ∨ y.home = d then .next (s.giveUp d y.home x)
    else
      let there := s.lines.find? fun p => p.1 == d && p.2.flc && flcEntry gib p.2.line == flcEntry gib l
      if there.any fun p => !p.2.idle then notEnabled
      else
        let s1 := match there with | some p => s.leaveFlc d p.2 | none => s
        .next (s1.setDieLine d { s1.dieLine d l with flc := true, own := none })

/-! ### Die reset (R279) -/

/-- Whether a line's current data, which a message or a home was to carry, stands at a place that the reset of a die leaves too: another
die owns the line, or a message between others, or another home, holds the data. -/
def State.keptElsewhere (s : State) (d l : Nat) : Bool :=
  let owner := fun (e : Nat) => s.dirs.any fun x => x.line == l && x.st.owned && x.owner == e
  (s.lines.any fun p => p.1 != d && p.2.line == l && p.2.st.owns && (p.2.st != .SM || owner p.1))
    || (s.net.any fun m => m.src != d && m.dst != d && m.line == l && m.data.isSome)
    || s.dirs.any fun x => x.home != d && x.line == l && x.data.isSome

/-- Lines that a die holds in M or O, an owner's outstanding Upg among them, and those whose only current data is on its way to or from
it, or gathered by it as home (R279). -/
def State.lostLines (s : State) (d : Nat) : List Nat :=
  let owner := fun (l : Nat) => s.dirs.any fun x => x.line == l && x.st.owned && x.owner == d
  let held := (s.lines.filter fun p => p.1 == d && (p.2.st == .M || p.2.st == .O || (p.2.st == .SM && owner p.2.line))).map fun p => p.2.line
  let sent := (s.net.filter fun m => (m.src == d || m.dst == d) && match m.data with
    | some x => m.kind == .wb || decide (x ≠ Memory.line s.mem m.line)
    | none => false).map (·.line)
  let kept := (s.dirs.filter fun x => x.home == d && match x.data with
    | some y => decide (y ≠ Memory.line s.mem x.line)
    | none => false).map (·.line)
  (held ++ (sent ++ kept).filter fun l => !s.keptElsewhere d l).foldl (fun l n => insertNat n l) []

/-- The directory of another home after a die's reset: the die leaves every sharer mask, its answers count as given with no
data and the reset's tick as horizon, and its requests are dropped. -/
def Dir.withoutDie (x : Dir) (d now : Nat) : Dir :=
  let wasOwner := x.owner == d && x.st.owned
  let sh := x.sharers.filter (· != d)
  let x1 := { x with
    sharers := sh, queue := x.queue.filter fun m => m.src != d
    need := x.need.filter (· != d), hor := if x.need.contains d then max x.hor now else x.hor
    cur := match x.cur with | some m => if m.src = d then none else some m | none => none }
  if wasOwner then { x1 with st := if sh.isEmpty then .I else .S, owner := 0 }
  else if x.st == .bAh && x1.cur.isNone then { x1 with st := .I, owner := 0 }
  else if x.owner == d then { x1 with owner := 0, kept := .S }
  else x1

/-- Lines whose home a die is, as the directory, its requests and the accesses know it. -/
def State.homedOn (s : State) (d : Nat) : List Nat :=
  let ofDirs := (s.dirs.filter fun x => x.home == d).map (·.line)
  let ofNet := (s.net.filter fun m => m.src == d || m.dst == d).map (·.line)
  (ofDirs ++ ofNet ++ s.accs.flatMap fun (a : Acc) => (a.parts.filter fun (p : Part) => p.home == d && p.host.isNone && !p.dev).map fun (p : Part) => p.pa / 128).filter fun l =>
    !s.dirs.any fun x => x.line == l && x.home != d

/-- What the reset of a home die leaves of its lines: nothing of its directory; a dirty copy of another die has gone to memory,
which the die reads when it is enabled again, and a clean one is dropped; what waited at the home, monitor entries and held loads among
it, asks it again (R279). DESIGN CHOICE (log 16). -/
def State.dropHome (s : State) (d : Nat) : State :=
  let ls := s.homedOn d
  let mine := fun (p : Nat × DieLine) => p.1 != d && ls.contains p.2.line
  let back := fun (s : State) (p : Nat × DieLine) =>
    if p.2.st == .M || p.2.st == .O || p.2.st == .SM || (p.2.st == .MI && s.net.any fun m => m.line == p.2.line && m.kind == .wb && m.data.isSome) then
      { s with mem := Memory.setLine s.mem p.2.line p.2.data } else s
  let s1 := (s.lines.filter mine).foldl back s
  let again := fun (a : Acc) =>
    if (a.phase == .waitLine || a.phase == .waitOwn || a.phase == .atHome || a.phase == .deferred) && (a.parts.take 1).any (fun p => ls.contains (p.pa / 128)) then
      { a with phase := .issued } else a
  { s1 with
    lines := s1.lines.filter fun p => !mine p
    dirs := s1.dirs.filter fun x => x.home != d
    accs := s1.accs.map again
    monitors := s1.monitors.map fun m => if m.die == d then { m with queued := false, inserted := false, spilled := false } else m }

/-- A compute die's reset (R279, R285, R355): what it holds is lost, and its groups end as terminated ones do
(log 16). A lost line's record names its home slice, with severity 1; where none is lost the die's slice 0 is named, with
severity 0. DESIGN CHOICE (log 16). -/
def State.resetDie (s : State) (d : Nat) : State :=
  let lost := s.lostLines d
  let rec1 := fun (s : State) (l : Nat) =>
    (s.poisonLine l).raiseErr { id := 0, asid := s.writer l, tsc := 0, src := srcNum ((s.homeOf? l).getD d) (0x100 + homeSlice l), kind := 0x14, sev := 1, addr := s.lineVa (s.writer l) l }
  let s1 := if lost.isEmpty then
      s.raiseErr { id := 0, asid := 0, tsc := 0, src := srcNum d 0x100, kind := 0x14, sev := 0 }
    else lost.foldl rec1 s
  let s2 := (((s1.groups.filter fun g => coreDie g.core == d).map (·.gid)).foldl State.terminate s1).dropHome d
  let s3 : State := { s2 with
    lines := s2.lines.filter fun p => p.1 != d
    net := s2.net.filter fun m => m.src != d && m.dst != d
    l1 := s2.l1.filter fun x => coreDie x.core != d
    horizons := s2.horizons.filter fun h => h.die != d
    tlb := s2.tlb.filter fun t => t.unit != 1000 + d && (decide (t.unit ≥ 1000) || coreDie t.unit != d)
    leafCache := s2.leafCache.filter fun c => coreDie c.core != d
    cores := s2.cores.filter fun c => coreDie c.id != d
    mailboxes := s2.mailboxes.filter fun m => m.die != d
    mxs := s2.mxs.filter fun m => coreDie m.core != d
    copies := s2.copies.filter fun c => !(c.gid.isSome && coreDie c.core == d)
    accs := s2.accs.map fun a => if coreDie a.core == d && a.phase != .done then { a with parts := [], phase := .done } else a }
  let busy := s3.dirs.filter fun x => !x.st.stable
  let s4 : State := { s3 with dirs := s3.dirs.map fun x => x.withoutDie d s.tsc }
  let s5 := busy.foldl (fun s x =>
    match s.dirs.find? fun y => y.line == x.line with
    | some y =>
      let s := if !y.st.stable && y.st != .bAh && y.need.isEmpty then s.finishHome y else s
      s.homeNext y.line y.queue.length
    | none => s) s4
  -- what is on the die's links for others is sent again (R285)
  let onWay := fun (id : Nat) => s5.net.any fun m => m.id == id
  let links := linkEnds.filter fun p => p.1 == d || p.2 == d
  let s6 : State := { s5 with links := s5.links.map fun k => { k with lines := k.lines.filter fun w => onWay w.msg, order := k.order.filter onWay } }
  let s7 := (links.foldl (fun s p => s.resetLink p.1 p.2) s6).flowAlong (linkEnds ++ linkEnds)
  s7.updDie d fun x => { d := d, flc := x.flc }

/-- DIE_RESET (R279). -/
def execDieReset (d : Nat) (s : State) : Res :=
  if (s.die d).enabled then .next (s.resetDie d) else notEnabled

end Sys2Proof.Machine
end

