-- ==== Sys2Proof/Machine/Int.lean ====
section
/-! DEFINITION. Integer, predicate, selection and uniform-register words (R104-R118). -/

namespace Sys2Proof.Machine

/-- A word that computes D from A and B at width code w (R104): f has the operands' width in bits. -/
def alu2 (i : Instr) (d a b w : Nat) (f : Nat → Nat → Nat → Nat) : State → Res :=
  runPure i fun l t => t.setGroup d (2 ^ w) (f (32 * 2 ^ w) (l.src.group a (2 ^ w)) (l.src.group b (2 ^ w)))

/-- A 32-bit word that computes D from A and B (R104). -/
def alu32 (i : Instr) (d a b : Nat) (f : Word → Word → Word) : State → Res :=
  runPure i fun l t => t.setReg d (f (l.src.reg a) (l.src.reg b))

/-- A 32-bit word that computes D from A alone (R104). -/
def alu1 (i : Instr) (d a : Nat) (f : Word → Word) : State → Res :=
  runPure i fun l t => t.setReg d (f (l.src.reg a))

/-- Arithmetic shift right of an n-bit value (R104). -/
def sarNat (n v k : Nat) : Nat := ofInt n (sval n v / (2 ^ k : Nat))

/-- The shift amount of a pair-width or single shift: 6 or 5 bits of the low register of B (R104). -/
def shamt (n b : Nat) : Nat := b % n

/-- The signed value clamped to 32 bits (R104). -/
def sat32 (i : Int) : Word :=
  if i < -2147483648 then 0x80000000#32 else if i > 2147483647 then 0x7FFFFFFF#32 else BitVec.ofInt 32 i

/-- Number of 1 bits among the low n. -/
def popcount : Nat → Nat → Nat
  | 0, _ => 0
  | n + 1, v => v % 2 + popcount n (v / 2)

/-- Number of leading zeros of an n-bit value. -/
def leadZeros : Nat → Nat → Nat
  | 0, _ => 0
  | n + 1, v => if v / 2 ^ n % 2 = 1 then 0 else 1 + leadZeros n v

/-- The bits of an n-bit value in reverse order. -/
def bitRev : Nat → Nat → Nat
  | 0, _ => 0
  | n + 1, v => v % 2 * 2 ^ n + bitRev n (v / 2)

/-- Byte i of BPICK, given the byte before it (R105): select, then clear, then fill. -/
def bpickByte (a b i prev : Nat) : Nat :=
  if i ≥ 1 ∧ bits b (12 + i) 1 = 1 then (if prev ≥ 128 then 255 else 0)
  else if bits b (8 + i) 1 = 1 then 0
  else bits a (8 * bits b (2 * i) 2) 8

/-- BPICK (R105). -/
def bpick (a b : Nat) : Nat :=
  let b0 := bpickByte a b 0 0
  let b1 := bpickByte a b 1 b0
  let b2 := bpickByte a b 2 b1
  b0 + 256 * b1 + 65536 * b2 + 16777216 * bpickByte a b 3 b2

/-- IADD (R104). -/
def execIadd (c : BitVec 1) (d a b : BitVec 6) (w : BitVec 2) (s : State) : Res :=
  alu2 (.iadd c d a b w) d.toNat a.toNat b.toNat w.toNat (fun _ x y => x + y) s
/-- ISUB (R104). -/
def execIsub (c : BitVec 1) (d a b : BitVec 6) (w : BitVec 2) (s : State) : Res :=
  alu2 (.isub c d a b w) d.toNat a.toNat b.toNat w.toNat (fun n x y => x + 2 ^ n - y) s
/-- IMIN (R104). -/
def execImin (c : BitVec 1) (d a b : BitVec 6) (s : State) : Res :=
  alu32 (.imin c d a b) d.toNat a.toNat b.toNat (fun x y => if x.slt y then x else y) s
/-- IMAX (R104). -/
def execImax (c : BitVec 1) (d a b : BitVec 6) (s : State) : Res :=
  alu32 (.imax c d a b) d.toNat a.toNat b.toNat (fun x y => if x.slt y then y else x) s
/-- IMINU (R104). -/
def execIminu (c : BitVec 1) (d a b : BitVec 6) (s : State) : Res :=
  alu32 (.iminu c d a b) d.toNat a.toNat b.toNat (fun x y => if x.ult y then x else y) s
/-- IMAXU (R104). -/
def execImaxu (c : BitVec 1) (d a b : BitVec 6) (s : State) : Res :=
  alu32 (.imaxu c d a b) d.toNat a.toNat b.toNat (fun x y => if x.ult y then y else x) s
/-- AND (R104). -/
def execAnd (c : BitVec 1) (d a b : BitVec 6) (w : BitVec 2) (s : State) : Res :=
  alu2 (.and c d a b w) d.toNat a.toNat b.toNat w.toNat (fun _ x y => x &&& y) s
/-- OR (R104). -/
def execOr (c : BitVec 1) (d a b : BitVec 6) (w : BitVec 2) (s : State) : Res :=
  alu2 (.or c d a b w) d.toNat a.toNat b.toNat w.toNat (fun _ x y => x ||| y) s
/-- XOR (R104). -/
def execXor (c : BitVec 1) (d a b : BitVec 6) (w : BitVec 2) (s : State) : Res :=
  alu2 (.xor c d a b w) d.toNat a.toNat b.toNat w.toNat (fun _ x y => x ^^^ y) s
/-- ANDN (R104). -/
def execAndn (c : BitVec 1) (d a b : BitVec 6) (s : State) : Res :=
  alu32 (.andn c d a b) d.toNat a.toNat b.toNat (fun x y => x &&& ~~~y) s
/-- SHL (R104). -/
def execShl (c : BitVec 1) (d a b : BitVec 6) (w : BitVec 2) (s : State) : Res :=
  alu2 (.shl c d a b w) d.toNat a.toNat b.toNat w.toNat (fun n x y => x * 2 ^ shamt n y) s
/-- SHR (R104). -/
def execShr (c : BitVec 1) (d a b : BitVec 6) (w : BitVec 2) (s : State) : Res :=
  alu2 (.shr c d a b w) d.toNat a.toNat b.toNat w.toNat (fun n x y => x / 2 ^ shamt n y) s
/-- SAR (R104). -/
def execSar (c : BitVec 1) (d a b : BitVec 6) (w : BitVec 2) (s : State) : Res :=
  alu2 (.sar c d a b w) d.toNat a.toNat b.toNat w.toNat (fun n x y => sarNat n x (shamt n y)) s
/-- ROTL (R104). -/
def execRotl (c : BitVec 1) (d a b : BitVec 6) (s : State) : Res :=
  alu32 (.rotl c d a b) d.toNat a.toNat b.toNat (fun x y => x.rotateLeft (y.toNat % 32)) s
/-- IMULLO (R104). -/
def execImullo (c : BitVec 1) (d a b : BitVec 6) (w : BitVec 2) (s : State) : Res :=
  alu2 (.imullo c d a b w) d.toNat a.toNat b.toNat w.toNat (fun _ x y => x * y) s
/-- IMULHI (R104). -/
def execImulhi (c : BitVec 1) (d a b : BitVec 6) (s : State) : Res :=
  alu32 (.imulhi c d a b) d.toNat a.toNat b.toNat (fun x y => BitVec.ofInt 32 (x.toInt * y.toInt / 4294967296)) s
/-- IMULHIU (R104). -/
def execImulhiu (c : BitVec 1) (d a b : BitVec 6) (s : State) : Res :=
  alu32 (.imulhiu c d a b) d.toNat a.toNat b.toNat (fun x y => BitVec.ofNat 32 (x.toNat * y.toNat / 2 ^ 32)) s
/-- POPC (R104). -/
def execPopc (c : BitVec 1) (d a : BitVec 6) (s : State) : Res :=
  alu1 (.popc c d a) d.toNat a.toNat (fun x => BitVec.ofNat 32 (popcount 32 x.toNat)) s
/-- CLZ (R104). -/
def execClz (c : BitVec 1) (d a : BitVec 6) (s : State) : Res :=
  alu1 (.clz c d a) d.toNat a.toNat (fun x => BitVec.ofNat 32 (leadZeros 32 x.toNat)) s
/-- BREV (R104). -/
def execBrev (c : BitVec 1) (d a : BitVec 6) (s : State) : Res :=
  alu1 (.brev c d a) d.toNat a.toNat (fun x => BitVec.ofNat 32 (bitRev 32 x.toNat)) s
/-- IABS (R104). -/
def execIabs (c : BitVec 1) (d a : BitVec 6) (s : State) : Res :=
  alu1 (.iabs c d a) d.toNat a.toNat (fun x => if x.msb then -x else x) s
/-- BPICK (R105). -/
def execBpick (c : BitVec 1) (d a b : BitVec 6) (s : State) : Res :=
  alu32 (.bpick c d a b) d.toNat a.toNat b.toNat (fun x y => BitVec.ofNat 32 (bpick x.toNat y.toNat)) s
/-- IADDSAT (R104). -/
def execIaddsat (c : BitVec 1) (d a b : BitVec 6) (s : State) : Res :=
  alu32 (.iaddsat c d a b) d.toNat a.toNat b.toNat (fun x y => sat32 (x.toInt + y.toInt)) s
/-- ISUBSAT (R104). -/
def execIsubsat (c : BitVec 1) (d a b : BitVec 6) (s : State) : Res :=
  alu32 (.isubsat c d a b) d.toNat a.toNat b.toNat (fun x y => sat32 (x.toInt - y.toInt)) s
/-- IADDI (R107). -/
def execIaddi (c : BitVec 1) (d a : BitVec 6) (i : BitVec 13) (s : State) : Res :=
  alu1 (.iaddi c d a i) d.toNat a.toNat (fun x => x + i.signExtend 32) s
/-- ANDI (R107). -/
def execAndi (c : BitVec 1) (d a : BitVec 6) (i : BitVec 13) (s : State) : Res :=
  alu1 (.andi c d a i) d.toNat a.toNat (fun x => x &&& i.signExtend 32) s
/-- ORI (R107). -/
def execOri (c : BitVec 1) (d a : BitVec 6) (i : BitVec 13) (s : State) : Res :=
  alu1 (.ori c d a i) d.toNat a.toNat (fun x => x ||| i.signExtend 32) s
/-- XORI (R107). -/
def execXori (c : BitVec 1) (d a : BitVec 6) (i : BitVec 13) (s : State) : Res :=
  alu1 (.xori c d a i) d.toNat a.toNat (fun x => x ^^^ i.signExtend 32) s
/-- SHI.SHL (R108). -/
def execShiShl (c : BitVec 1) (d a : BitVec 6) (n : BitVec 5) (s : State) : Res :=
  alu1 (.shiShl c d a n) d.toNat a.toNat (fun x => x <<< n.toNat) s
/-- SHI.SHR (R108). -/
def execShiShr (c : BitVec 1) (d a : BitVec 6) (n : BitVec 5) (s : State) : Res :=
  alu1 (.shiShr c d a n) d.toNat a.toNat (fun x => x >>> n.toNat) s
/-- SHI.SAR (R108). -/
def execShiSar (c : BitVec 1) (d a : BitVec 6) (n : BitVec 5) (s : State) : Res :=
  alu1 (.shiSar c d a n) d.toNat a.toNat (fun x => x.sshiftRight n.toNat) s
/-- SHI.ROTL (R108). -/
def execShiRotl (c : BitVec 1) (d a : BitVec 6) (n : BitVec 5) (s : State) : Res :=
  alu1 (.shiRotl c d a n) d.toNat a.toNat (fun x => x.rotateLeft n.toNat) s

/-- Field of a word from bit pos of length len (R109). -/
def fieldOf (x : Word) (pos len : Nat) : Nat := bits x.toNat pos len

/-- BITF.BFX (R109). -/
def execBitfBfx (c : BitVec 1) (d a : BitVec 6) (l p : BitVec 5) (s : State) : Res :=
  alu1 (.bitfBfx c d a l p) d.toNat a.toNat (fun x => BitVec.ofNat 32 (fieldOf x p.toNat (l.toNat + 1))) s
/-- BITF.BFXS (R109). -/
def execBitfBfxs (c : BitVec 1) (d a : BitVec 6) (l p : BitVec 5) (s : State) : Res :=
  alu1 (.bitfBfxs c d a l p) d.toNat a.toNat
    (fun x => BitVec.ofInt 32 (sval (l.toNat + 1) (fieldOf x p.toNat (l.toNat + 1)))) s
/-- BITF.BFI (R109): D is a source too. -/
def execBitfBfi (c : BitVec 1) (d a : BitVec 6) (l p : BitVec 5) (s : State) : Res :=
  alu32 (.bitfBfi c d a l p) d.toNat a.toNat d.toNat
    (fun x y =>
      let m : Word := BitVec.ofNat 32 ((2 ^ (l.toNat + 1) - 1) * 2 ^ p.toNat)
      (y &&& ~~~m) ||| ((x <<< p.toNat) &&& m)) s
/-- LI (R110). -/
def execLi (c : BitVec 1) (d : BitVec 6) (i : BitVec 19) (s : State) : Res :=
  runPure (.li c d i) (fun _ t => t.setReg d.toNat (i.signExtend 32)) s
/-- LIH (R110): D is a source too. -/
def execLih (c : BitVec 1) (d : BitVec 6) (i : BitVec 19) (s : State) : Res :=
  alu1 (.lih c d i) d.toNat d.toNat (fun x => i ++ x.setWidth 13) s
/-- IMAD (R111). -/
def execImad (c : BitVec 1) (d a b e : BitVec 6) (s : State) : Res :=
  runPure (.imad c d a b e)
    (fun l t => t.setReg d.toNat (l.src.reg a.toNat * l.src.reg b.toNat + l.src.reg e.toNat)) s
/-- IMAD.W (R111). -/
def execImadW (c : BitVec 1) (d a b e : BitVec 6) (s : State) : Res :=
  runPure (.imadW c d a b e)
    (fun l t => t.setGroup d.toNat 2
      (ofInt 64 ((l.src.reg a.toNat).toInt * (l.src.reg b.toNat).toInt + (l.src.group e.toNat 2 : Nat)))) s
/-- ICMP (R112). -/
def execIcmp (c : BitVec 1) (p : BitVec 3) (a b : BitVec 6) (w : BitVec 2) (f : BitVec 5) (s : State) : Res :=
  runPure (.icmp c p a b w f)
    (fun l t => t.setPred p.toNat (icmpTrue f.toNat (32 * 2 ^ w.toNat)
      (l.src.group a.toNat (2 ^ w.toNat)) (l.src.group b.toNat (2 ^ w.toNat)))) s
/-- PAND (R113). -/
def execPand (c : BitVec 1) (d a b : BitVec 3) (s : State) : Res :=
  runPure (.pand c d a b) (fun l t => t.setPred d.toNat (l.src.pred a.toNat && l.src.pred b.toNat)) s
/-- POR (R113). -/
def execPor (c : BitVec 1) (d a b : BitVec 3) (s : State) : Res :=
  runPure (.por c d a b) (fun l t => t.setPred d.toNat (l.src.pred a.toNat || l.src.pred b.toNat)) s
/-- PXOR (R113). -/
def execPxor (c : BitVec 1) (d a b : BitVec 3) (s : State) : Res :=
  runPure (.pxor c d a b) (fun l t => t.setPred d.toNat (l.src.pred a.toNat != l.src.pred b.toNat)) s
/-- PNOT (R113). -/
def execPnot (c : BitVec 1) (d a : BitVec 3) (s : State) : Res :=
  runPure (.pnot c d a) (fun l t => t.setPred d.toNat (!l.src.pred a.toNat)) s
/-- P2W (R113). -/
def execP2w (c : BitVec 1) (d : BitVec 6) (s : State) : Res :=
  runPure (.p2w c d)
    (fun l t => t.setReg d.toNat (BitVec.ofNat 32 ((List.range 8).foldl (fun v k => if l.src.pred k then v + 2 ^ k else v) 0))) s
/-- W2P (R113). -/
def execW2p (c : BitVec 1) (a : BitVec 6) (s : State) : Res :=
  runPure (.w2p c a)
    (fun l t => [1, 2, 3, 4, 5, 6, 7].foldl (fun t k => t.setPred k ((l.src.reg a.toNat).getLsbD k)) t) s
/-- SEL (R114). -/
def execSel (c : BitVec 1) (d a b : BitVec 6) (w : BitVec 2) (n : BitVec 1) (p : BitVec 3) (s : State) : Res :=
  runPure (.sel c d a b w n p)
    (fun l t => t.setGroup d.toNat (2 ^ w.toNat)
      (l.src.group (if (l.src.pred p.toNat != (n == 1)) then a.toNat else b.toNat) (2 ^ w.toNat))) s

/-- The core whose values SYSV.CORE and SYSV.QTR report: the leader's in a tandem group (R397). -/
def State.reportedCore (s : State) (g : Group) : Nat :=
  if g.role = .trailer then ((s.group? g.partner).map (·.core)).getD g.core else g.core

/-- The value of SYSV (R115, R116). Fields that the table leaves unnamed are zero. -/
def State.sysValue (s : State) (g : Group) (tid sel : Nat) : Nat :=
  let sp := s.span? g.sid
  let core := s.reportedCore g
  match sel with
  | 0 => tid
  | 1 => g.grp
  | 2 => (sp.map (·.n)).getD 0
  | 3 => g.gsz
  | 4 => (sp.map fun x => x.x0 + 256 * x.y0).getD 0
  | 5 => (sp.map fun x => x.w + 256 * x.h).getD 0
  | 6 => coreX core + 256 * coreY core + 65536 * coreDie core + 16777216 * coreNum core
  | 7 => quarterNo tid
  | 8 => (g.leaf.map (·.x.toNat)).getD 0x7FFFFFFF
  | 9 => (g.leaf.map (·.y.toNat)).getD 0x7FFFFFFF
  | 10 => (g.leaf.map (·.z.toNat)).getD 0x7FFFFFFF
  | _ => s.tsc
where
  /-- Quarter of a thread (R22). -/
  quarterNo (tid : Nat) : Nat := tid / 64 % 4

/-- UGET (R118). -/
def execUget (c : BitVec 1) (d a : BitVec 6) (s : State) : Res :=
  runPure (.uget c d a) (fun l t => t.setReg d.toNat (l.g.ureg a.toNat)) s

/-- Writes uniform register n of a group; s0 discards writes (R23). -/
def Group.setUreg (g : Group) (n : Nat) (v : Word) (p : Bool) (va : DWord) : Group :=
  if n = 0 then g
  else
    { g with
      uregs := g.uregs.setIfInBounds n v, upoison := putBit g.upoison n p, uparity := putBit g.uparity n false
      utaken := putBit g.utaken n false, upva := (if p then [(n, va)] else []) ++ g.upva.filter fun x => x.1 != n }

/-- Where a poisoned register of a thread has its poison from. -/
def Thread.poisonVa (t : Thread) (n : Nat) : DWord := ((t.skids.find? fun k => k.has t.popen n).map (·.va)).getD 0

/-- USET (R118): the value of the pack's lowest thread that the word takes effect for is written (R24). -/
def execUset (c : BitVec 1) (d a : BitVec 6) (s : State) : Res :=
  runWord (.uset c d a) (fun l s =>
    .ok (if s.issue.usetDone then s else
      { s.updGroup l.g.gid fun g => g.setUreg d.toNat (l.src.reg a.toNat) (l.src.anyPoison [a.toNat]) (l.src.poisonVa a.toNat) with
        issue := { s.issue with usetDone := true } })) s

end Sys2Proof.Machine
end

