-- ==== Sys2Proof/Machine/Mem.lean ====
section
/-! DEFINITION. The memory words of the thread path, the future words, monitor waits, SYSV and LOCQ, and the
events of accesses and monitor tables (R115-R117, R217-R237, R251-R256, R259, R299, R300, R376, R394). -/

namespace Sys2Proof.Machine

/-- Size in bytes that SZ gives (R60). -/
def szBytes (z : Nat) : Nat := match z with | 0 => 1 | 1 => 1 | 2 => 2 | 3 => 2 | 4 => 4 | 5 => 8 | 6 => 16 | _ => 32

/-- Effective address of a format-M word (R233). -/
def eaOf (l : Lane) (a : Nat) (off : BitVec 8) (size : Nat) : Nat :=
  (BitVec.ofNat 64 (l.src.group a 2) + BitVec.ofInt 64 (off.toInt * size)).toNat

/-- LD (R236). -/
def execLd (c : BitVec 1) (d a : BitVec 6) (z : BitVec 3) (p : BitVec 2) (o : BitVec 8) (s : State) : Res :=
  let n := szBytes z.toNat
  runWord (.ld c d a z p o) (fun l s =>
    memAccess { kind := .load (z == 1 || z == 3), ea := eaOf l a.toNat o n, size := n, cp := p.toNat, dst := d.toNat
                dcnt := accessRegs z.toNat, need := { r := true }, facc := 0, addrRegs := [a.toNat, a.toNat + 1] } l s) s

/-- ST (R236). -/
def execSt (c : BitVec 1) (d a : BitVec 6) (z : BitVec 3) (p : BitVec 2) (o : BitVec 8) (s : State) : Res :=
  let n := szBytes z.toNat
  runWord (.st c d a z p o) (fun l s =>
    memAccess { kind := .store, ea := eaOf l a.toNat o n, size := n, cp := p.toNat
                data := l.src.group d.toNat (accessRegs z.toNat) % 256 ^ n, cls := 1, noret := true, need := { w := true }, facc := 1
                addrRegs := [a.toNat, a.toNat + 1], dataRegs := (List.range (accessRegs z.toNat)).map (d.toNat + ·) } l s) s

/-- ATOM (R251). -/
def execAtom (c : BitVec 1) (d a b : BitVec 6) (sc : BitVec 2) (o : BitVec 5) (s : State) : Res :=
  let n := atomRegs o.toNat
  runWord (.atom c d a b sc o) (fun l s =>
    memAccess { kind := .rmw (o.toNat % 16), ea := l.src.group a.toNat 2, size := 4 * n, data := l.src.group b.toNat n
                scope := sc.toNat, dst := d.toNat, dcnt := n, need := { r := true, w := true }, facc := 2, align := 4 * n
                addrRegs := [a.toNat, a.toNat + 1], dataRegs := (List.range n).map (b.toNat + ·) } l s) s

/-- CAS (R252). -/
def execCas (c : BitVec 1) (d a b : BitVec 6) (sc : BitVec 2) (z : BitVec 1) (s : State) : Res :=
  let n := 2 ^ z.toNat
  runWord (.cas c d a b sc z) (fun l s =>
    memAccess { kind := .cas, ea := l.src.group a.toNat 2, size := 4 * n, data := l.src.group b.toNat n
                data2 := l.src.group (b.toNat + n) n, scope := sc.toNat, dst := d.toNat, dcnt := n, need := { r := true, w := true }
                facc := 2, align := 4 * n, addrRegs := [a.toNat, a.toNat + 1], dataRegs := (List.range (2 * n)).map (b.toNat + ·) } l s) s

/-- RED (R253). -/
def execRed (c : BitVec 1) (a b : BitVec 6) (sc : BitVec 2) (o : BitVec 5) (s : State) : Res :=
  let n := atomRegs o.toNat
  runWord (.red c a b sc o) (fun l s =>
    memAccess { kind := .rmw (o.toNat % 16), ea := l.src.group a.toNat 2, size := 4 * n, data := l.src.group b.toNat n
                scope := sc.toNat, cls := 1, noret := true, need := { w := true }, facc := 2, align := 4 * n
                addrRegs := [a.toNat, a.toNat + 1], dataRegs := (List.range n).map (b.toNat + ·) } l s) s

/-- AMAX (R254). -/
def execAmax (c : BitVec 1) (a b : BitVec 6) (sc : BitVec 2) (s : State) : Res :=
  runWord (.amax c a b sc) (fun l s =>
    memAccess { kind := .amax, ea := l.src.group a.toNat 2, size := 4, data := (l.src.reg b.toNat).toNat, scope := sc.toNat
                cls := 1, noret := true, need := { w := true }, facc := 2, align := 4, addrRegs := [a.toNat, a.toNat + 1]
                dataRegs := [b.toNat] } l s) s

/-- AMAXRS (R254). -/
def execAmaxrs (c : BitVec 1) (d a : BitVec 6) (sc : BitVec 2) (s : State) : Res :=
  runWord (.amaxrs c d a sc) (fun l s =>
    memAccess { kind := .amaxrs, ea := l.src.group a.toNat 2, size := 4, scope := sc.toNat, dst := d.toNat, dcnt := 1
                need := { r := true, w := true }, facc := 2, align := 4, addrRegs := [a.toNat, a.toNat + 1] } l s) s

/-! ### Future cells (R225, R256) -/

/-- LD.FUT (R256): the thread parks after its chain until the cell's slice has answered. A page that is not
marked FUTURE gives status 2. -/
def execLdFut (c : BitVec 1) (d a b : BitVec 6) (s : State) : Res :=
  runWord (.ldFut c d a b) (fun l s =>
    let ea := l.src.group a.toNat 2
    if l.cur.nLoad ≥ 63 then .error (.park (.counter 0))
    else match l.consume [a.toNat, a.toNat + 1] with
      | .error e => .error e
      | .ok true => .ok s
      | .ok false =>
        if ea % 8 ≠ 0 then .error (.fault (BitVec.ofNat 64 ea) fkAlign 0)
        else match s.translateAll l.g.core (coreDie l.g.core) l.g.asid ea 8 { r := true } with
          | .error (va, k) => .error (.fault (BitVec.ofNat 64 va) k 0)
          | .ok ps =>
            if ps.any (fun p => !p.1.fut) then .ok (s.updLane l fun t => t.setReg b.toNat 2)
            else
              let q : Req := { kind := .ldFut, ea := ea, size := 8, dst := d.toNat, dcnt := 2, need := { r := true }, facc := 0, addrRegs := [] }
              let acc := { q.toAcc l s with parts := partsOf ps ea 8, streg := b.toNat }
              let s1 := s.tlbFill l.g.core (coreDie l.g.core) l.g.asid ea
              let s2 := (s1.updLane l fun t => t.begin 0).parkThread l.g.gid l.cur.tid (.future d.toNat b.toNat (BitVec.ofNat 64 ea))
              .ok { s2 with accs := s2.accs ++ [{ acc with id := s2.nextId }], nextId := s2.nextId + 1 }) s

/-- ST.FUT (R256). -/
def execStFut (c : BitVec 1) (a b : BitVec 6) (s : State) : Res :=
  runWord (.stFut c a b) (fun l s =>
    memAccess { kind := .stFut, ea := l.src.group a.toNat 2, size := 8, data := l.src.group b.toNat 2, cls := 1, noret := true
                need := { w := true }, facc := 1, align := 8, addrRegs := [a.toNat, a.toNat + 1], dataRegs := [b.toNat, b.toNat + 1] } l s) s

/-- CLR.FUT (R256). -/
def execClrFut (c : BitVec 1) (a : BitVec 6) (s : State) : Res :=
  runWord (.clrFut c a) (fun l s =>
    memAccess { kind := .clrFut, ea := l.src.group a.toNat 2, size := 8, cls := 1, noret := true, need := { w := true }, facc := 1
                align := 8, addrRegs := [a.toNat, a.toNat + 1] } l s) s

/-! ### Monitor waits (R227-R229, R259, R299, R300, R394) -/

/-- WAITU (R259): parks after its chain and registers an entry at the word's home slice; host memory, the
device page and future cells give status 2 at once. DEDUCED (log 33). -/
def execWaitu (c : BitVec 1) (d a b : BitVec 6) (m : BitVec 3) (z : BitVec 1) (s : State) : Res :=
  runWord (.waitu c d a b m z) (fun l s =>
    let n := 4 * 2 ^ z.toNat
    let ea := l.src.group a.toNat 2
    match l.consume [a.toNat, a.toNat + 1] with
    | .error e => .error e
    | .ok true => .ok s
    | .ok false =>
      if ea % n ≠ 0 then .error (.fault (BitVec.ofNat 64 ea) fkAlign 0)
      else match s.translateAll l.g.core (coreDie l.g.core) l.g.asid ea n { r := true } with
        | .error (va, k) => .error (.fault (BitVec.ofNat 64 va) k 0)
        | .ok ps =>
          match ps with
          | (t, _) :: _ =>
            if t.host.isSome || t.dev || t.fut then .ok (s.updLane l fun t => t.setReg d.toNat 2)
            else
              let s1 := s.tlbFill l.g.core (coreDie l.g.core) l.g.asid ea
              let s2 := s1.parkThread l.g.gid l.cur.tid (.monitor d.toNat)
              let e : Monitor :=
                { id := s2.nextId, asid := l.g.asid, die := t.home, slice := homeSlice (t.pa / 128), pa := t.pa, va := BitVec.ofNat 64 ea
                  wide := z == 1, cmp := m.toNat, shadow := l.src.popen, slot := l.g.tslots.getD l.cur.tid 0, opnd := BitVec.ofNat 64 (l.src.group b.toNat (2 ^ z.toNat))
                  timeout := (l.src.reg (b.toNat + 2 ^ z.toNat)).toNat, who := .thread l.g.gid l.cur.tid, dst := d.toNat }
              .ok { s2 with monitors := s2.monitors ++ [e], nextId := s2.nextId + 1 }
          | [] => .ok s) s

/-- Whether an earlier store of a registration's own thread to its line has still to be performed, on its way or in the side
log: the entry's reading of the word goes behind it (R212). -/
def State.storesBefore (s : State) (m : Monitor) : Bool :=
  match m.who with
  | .thread gid tid =>
    (s.accs.any fun a => a.gid == gid && a.tid == tid && a.open && decide (a.id < m.id) && a.lines.contains (m.pa / 128))
      || s.sideLog.any fun e => e.acc.gid == gid && e.acc.tid == tid && decide (e.id < m.id) && decide (e.acc.va.toNat / 128 = m.va.toNat / 128)
  | _ => false

/-- Source number of the unit that registers an entry (R388). -/
def State.waiterSrc (s : State) (m : Monitor) : Nat :=
  match m.who with
  | .thread gid _ => ((s.group? gid).map fun g => coreSrc g.core).getD 1
  | _ => 1

/-- MONITOR_INSERT (R227, R278, R289): a registration arrives at the home slice and waits there for its turn; then the line is
recalled, and the entry enters the table, or the spill area where the table is full, and is evaluated. -/
def execMonitorInsert (id : Nat) (s : State) : Res :=
  match s.monitors.find? fun m => m.id == id && !m.inserted && !m.queued with
  | none => notEnabled
  | some m =>
    let l := m.pa / 128
    let x := s.dir l m.die
    if s.storesBefore m || !(s.die m.die).enabled || !s.mayArrive x (s.waiterSrc m) then notEnabled
    else
      let k : Msg := { id := 0, kind := .register, line := l, src := m.die, dst := m.die, acc := m.id, asid := m.asid }
      .next ((s.setMonitor { m with queued := true }).arriveHome x k (s.waiterSrc m))

/-- MONITOR_TIMEOUT (R300): a wake with status 1, no earlier than the tick DUE. -/
def execMonitorTimeout (id : Nat) (s : State) : Res :=
  match s.monitors.find? fun m => m.id == id with
  | none => notEnabled
  | some m => if m.due ≠ 0 ∧ m.due ≤ s.tsc then .next (s.wakeMonitor m 1) else notEnabled

/-- MONITOR_SPILL_RETURN (R299): the oldest spilled entry of a slice moves back into its table. -/
def execMonitorSpillReturn (die slice : Nat) (s : State) : Res :=
  match s.monitors.find? fun m => m.spilled && m.die == die && m.slice == slice with
  | none => notEnabled
  | some m => if s.tableAt die slice < 256 then .next (s.setMonitor { m with spilled := false }) else notEnabled

/-- MONLOST (R394): every entry of a slice is removed; its threads wake with status 3, its held loads are
answered with NACK, and every context that had an entry gets a record. The command processor and the control
die register their own entries again. -/
def execMonlost (die slice : Nat) (s : State) : Res :=
  let lost := s.monitors.filter fun m => m.inserted && !m.spilled && m.die == die && m.slice == slice
  let held := s.accs.filter fun a => a.phase == .deferred && a.parts.any fun p => p.home == die && homeSlice (p.pa / 128) == slice
  let asids := (lost.map (·.asid) ++ held.map (·.asid)).foldl (fun l n => insertNat n l) []
  let s1 := lost.foldl (fun s m => match m.who with
    | .thread _ _ => s.wakeMonitor m 3
    | _ => s.setMonitor { m with inserted := false, queued := false }) s
  let nack := fun (a : Acc) => if held.any (fun h => h.id == a.id) then { a with phase := .done, status := 1, parts := [] } else a
  let s2 : State := { s1 with accs := s1.accs.map nack }
  .next (asids.foldl (fun s n => s.raiseErr { id := 0, asid := n, tsc := 0, src := srcNum die (0x100 + slice), kind := 0x13, sev := 1 }) s2)

/-! ### SYSV and LOCQ (R115-R117) -/

/-- SYSV (R115, R116). In tandem mode CORE, QTR and TSC are accesses that give the leader's values (R397). -/
def execSysv (c : BitVec 1) (d : BitVec 6) (sel : BitVec 5) (s : State) : Res :=
  runWord (.sysv c d sel) (fun l s =>
    let n := if sel.toNat = 11 then 2 else 1
    let v := s.sysValue l.g l.cur.tid sel.toNat
    if l.g.role = .solo ∨ !(sel.toNat = 6 ∨ sel.toNat = 7 ∨ sel.toNat = 11) then .ok (s.updLane l fun t => t.setGroup d.toNat n v)
    else match l.tandem s [64 + sel.toNat, 0, 4 * n, 0, 0, 0] with
      | .error e => .error e
      | .ok (.value ws _) => .ok (s.updLane l fun t => (t.setWords d.toNat ws).countAccess l.g.role)
      | .ok (.lead k) =>
        let s1 := s.updLane l fun t => (t.setGroup d.toNat n v).countAccess l.g.role
        .ok (s1.addEntry l { tid := 0, k := k, sig := [64 + sel.toNat, 0, 4 * n, 0, 0, 0], made := 0, value := some (natToWords n v, false) })
      | .ok _ => .ok (s.updLane l fun t => t.setGroup d.toNat n v)) s

/-- The result of LOCQ (R117): HOME, SELF and HOPS. -/
def State.locqValue (s : State) (core asid va : Nat) : Nat :=
  let self := coreDie core
  let home := match s.translate core self asid va {} with
    | .ok t => if t.dev then 6 else if t.host.isSome then 0 else t.home
    | .error _ => 7
  let hops := if home = 7 then 0xFF else if home = 0 ∨ home = 6 then 1 else dieHops self home
  home + 256 * self + 65536 * hops

/-- LOCQ (R117): looks the address up as the translation stands at issue; D is pending until LOAD_COMPLETE. -/
def execLocq (c : BitVec 1) (d a : BitVec 6) (s : State) : Res :=
  runWord (.locq c d a) (fun l s =>
    match l.consume [a.toNat, a.toNat + 1] with
    | .error e => .error e
    | .ok true => .ok s
    | .ok false =>
      let va := l.src.group a.toNat 2
      let v := s.locqValue l.g.core l.g.asid va
      match l.tandem s [AccKind.locq.code, va, 4, 0, 0, 0] with
      | .error e => .error e
      | .ok (.value ws _) => .ok (s.updLane l fun t => (t.setWords d.toNat ws).countAccess l.g.role)
      | .ok tan =>
        let q : Req := { kind := .locq, ea := va, size := 4, dst := d.toNat, dcnt := 1, need := {}, facc := 0, addrRegs := [] }
        let s1 := s.updLane l fun t => (t.markPend [d.toNat]).countAccess l.g.role
        let s2 : State := { s1 with accs := s1.accs ++ [{ q.toAcc l s with phase := .done, result := v }], nextId := s1.nextId + 1 }
        match tan with
        | .lead k => .ok (s2.addEntry l { tid := 0, k := k, sig := [AccKind.locq.code, va, 4, 0, 0, 0], made := 0, aid := s.nextId, value := some ([BitVec.ofNat 32 v], false) })
        | _ => .ok s2) s

/-! ### Events of accesses -/

/-- SLICE_ACCESS (R217): an access arrives at its slice. -/
def execSliceAccess (id : Nat) (s : State) : Res :=
  match s.acc? id with
  | none => notEnabled
  | some a =>
    match a.parts with
    | [] => notEnabled
    | p :: _ =>
      if a.phase != .issued || p.host.isSome || p.dev || s.blocked a then notEnabled
      else if a.kind.future then
        let x := s.dir (p.pa / 128) p.home
        if (s.die p.home).enabled && s.mayArrive x (coreSrc a.core) && (a.kind != .stFut || s.futReady a) then
          let k : Msg := { id := 0, kind := .future, line := p.pa / 128, src := coreDie a.core, dst := p.home, acc := a.id, asid := a.asid }
          .next ((s.updAcc a.id fun a => { a with phase := .atHome }).arriveHome x k (coreSrc a.core))
        else notEnabled
      else .next (s.sliceAccess a p)

/-- OWNERSHIP_GRANT (R220): past the line's lease horizon + 2 the slice grants exclusive ownership, and the
waiting atomic is performed. -/
def execOwnershipGrant (id : Nat) (s : State) : Res :=
  match s.acc? id with
  | none => notEnabled
  | some a =>
    match a.parts with
    | [] => notEnabled
    | p :: _ =>
      let d := coreDie a.core
      let x := s.dieLine d (p.pa / 128)
      if a.phase == .waitOwn && (x.st == .E || x.st == .M) && !s.blocked a
        && decide (s.tsc > max (s.dieHorizon d (p.pa / 128)) x.gh + 2) then
        .next ((s.setDieLine d { x with own := some a.core }).performAt d a p)
      else notEnabled

/-- A held future load is answered (R256): value and status 0, or the status alone. -/
def Thread.receiveFut (t : Thread) (a : Acc) : Thread :=
  let t := { t.finish 0 with lw := max t.lw a.lw, gw := max t.gw a.gw }
  match t.st with
  | .parked (.future ..) =>
    let t := if a.status = 0 then
        t.inBank a.shadow fun t => (t.setGroup a.dst 2 a.result).taint [a.dst, a.dst + 1] [] (entering a.poison a.va)
      else t
    let t := t.inBank a.shadow fun t => (t.setReg a.streg (BitVec.ofNat 32 a.status)).markPoison [a.streg] false
    { t with st := .ready }
  | _ => t

/-- LOAD_COMPLETE (R232, R255): a load's data returns, its destination is written and is no longer pending. -/
def execLoadComplete (id : Nat) (s : State) : Res :=
  match s.acc? id with
  | none => notEnabled
  | some a0 =>
    if a0.cls != 0 then notEnabled
    else
      let s := s.performHost id (a0.parts.length)
      match s.acc? id with
      | none => notEnabled
      | some a =>
        if a.phase == .deferred && a0.phase != .deferred then .next s
        else if a.phase != .done then notEnabled
        else
          let s1 : State := { s with accs := s.accs.filter fun x => x.id != id }
          match a.kind with
          | .ldFut => .next ((s1.owe a.gid a.tid id a.lw a.gw).updThread a.gid a.tid fun t => { t.receiveFut a with waitSince := if t.st = .ready then t.waitSince else s.cycle })
          | _ => .next ((s1.owe a.gid a.tid id a.lw a.gw).giveValue a.gid a.tid id (Thread.receive · a a.value a.poison) a.value a.poison)

/-- A store's acknowledgement reaches its thread (R217, R232). -/
def Thread.acked (t : Thread) (a : Acc) : Thread := { t.finish 1 with lw := max t.lw a.lw, gw := max t.gw a.gw }

/-- STORE_ACK (R217, R232, R376): the acknowledgement returns with its LWCT and GWCT; a replayed entry leaves
the side log. -/
def execStoreAck (id : Nat) (s : State) : Res :=
  match s.acc? id with
  | none => notEnabled
  | some a0 =>
    if a0.cls != 1 then notEnabled
    else
      let s := s.performHost id (a0.parts.length)
      match s.acc? id with
      | none => notEnabled
      | some a =>
        if a.phase != .done then notEnabled
        else
          let s1 : State := { s with accs := s.accs.filter fun x => x.id != id, sideLog := s.sideLog.filter fun e => e.id != id }
          .next ((s1.owe a.gid a.tid id a.lw a.gw).updThread a.gid a.tid (Thread.acked · a))

/-- SIDE_LOG_REPLAY (R376): the first entry of a thread translates afresh and goes on its way, or is held
again under a fault record. DEDUCED (log 37). -/
def execSideLogReplay (id : Nat) (s : State) : Res :=
  match s.sideLog.find? fun e => e.id == id with
  | none => notEnabled
  | some e =>
    let a := e.acc
    let first := (s.sideLog.find? fun x => x.acc.gid == a.gid && x.acc.tid == a.tid).map (·.id)
    if e.held || first != some id || (s.acc? id).isSome then notEnabled
    else
      let q : Req := { kind := a.kind, ea := a.va.toNat, size := a.size, scope := a.scope, noret := true, need := { w := true }, facc := (if a.fld then 12 else 0) + if a.kind = .store ∨ a.kind.future then 1 else 2, addrRegs := [] }
      match s.translateReq a.core a.asid q with
      | .error (va, k) =>
        let hold := fun (x : SideEntry) => { x with held := true }
        let s1 := { s with sideLog := updWhere (fun x => x.id == id) hold s.sideLog }
        let s2 := s1.postFault a.asid va k q.facc (coreSrc a.core) (.side id)
        .next (if k % 64 ≥ 4 then s2.terminate a.gid else s2)
      | .ok ps =>
        let s1 := (pagePieces q.ea q.size).foldl (fun s p => s.tlbFill a.core (coreDie a.core) a.asid p.1) s
        .next { s1 with accs := s1.accs ++ [{ a with parts := partsOf ps q.ea q.size }] }

end Sys2Proof.Machine
end

