-- ==== Sys2Proof/Machine/Tile.lean ====
section
/-! DEFINITION. Tiles: their words and full/empty bits (R222-R224, R238, R239), management, binding, rings and
arrival counts (R221, R240-R250), and the events that fill rows and end TFLUSH and TFREE. -/

namespace Sys2Proof.Machine

/-! ### Shape and contents (R238, R242) -/

/-- Bytes of an element by ECODE; 0 for bit-plane (R242). -/
def ecodeBytes (e : Nat) : Nat := match e with | 0 => 4 | 1 => 8 | 2 => 2 | 3 => 2 | 4 => 4 | _ => 0

/-- Words of a row (R238). -/
def rowWords (cols ecode planes : Nat) : Nat :=
  if ecode = 5 then planes * ((cols + 31) / 32) else (cols * ecodeBytes ecode + 3) / 4

/-- RW of a tile. -/
def Tile.rw (t : Tile) : Nat := rowWords t.cols t.ecode t.planes

/-- Bytes that a tile takes of its level's storage (R242). -/
def tileBytes (rows rw : Nat) : Nat := (rows * rw * 4 + 255) / 256 * 256

/-- What a word of a tile that nothing has written holds: zero, or a word of an earlier tile of its context; which of them is free
(R242, R350, log 5). -/
def Tile.blank (t : Tile) (i : Nat) : Word := (0 :: t.old).getD ((Config.tileWord t.uid i).toNat % (t.old.length + 1)) 0

/-- Word i of a tile in row-major order. -/
def Tile.word (t : Tile) (i : Nat) : Word := ((t.words.find? fun p => p.1 == i).map (·.2)).getD (t.blank i)

/-- Writes word i, keeping the list ascending. -/
def putWord : List (Nat × Word) → Nat → Word → List (Nat × Word)
  | [], i, v => [(i, v)]
  | p :: ps, i, v => if i < p.1 then (i, v) :: p :: ps else if i = p.1 then (i, v) :: ps else p :: putWord ps i v

/-- Writes a word by any path: its poison mark follows the value, and a bound tile's word is dirty (R246, R383). -/
def Tile.setWord (t : Tile) (i : Nat) (v : Word) (poison : Bool) : Tile :=
  { t with
    words := putWord t.words i v
    poison := if poison then insertNat i t.poison else t.poison.filter (· != i)
    dirty := if t.bind.isSome then insertNat i t.dirty else t.dirty }

/-- Sets or clears the full bit of a word. -/
def Tile.setFull (t : Tile) (i : Nat) (b : Bool) : Tile :=
  { t with full := if b then insertNat i t.full else t.full.filter (· != i) }

/-- Whether a row of a bound tile has still to be filled (R246). -/
def Tile.unfilled (t : Tile) (row : Nat) : Bool := t.bind.isSome && !t.filled.contains row

/-- The tile of a handle of a group. -/
def State.handle? (s : State) (g : Group) (h : Nat) : Option Tile := ((g.handles.find? fun p => p.1 == h).map (·.2)).bind s.tile?

/-- Tile access trap (R240). -/
def tileTrap : Stop := .trap 3 0 0

/-! ### Waiters of a word (R223) -/

/-- Threads parked on a word of a tile, in park order: group, thread, park sequence, what they want. -/
def State.wordWaiters (s : State) (uid w : Nat) : List (Nat × Nat × Nat × TileWant × Nat) :=
  sortBy (fun x => x.2.2.1) (s.groups.flatMap fun g => g.threads.filterMap fun t =>
    match t.st with
    | .parked (.tileWord u x want dst) => if u = uid ∧ x = w then some (g.gid, t.tid, t.pseq, want, dst) else none
    | _ => none)

/-- Serves the waiters of a word: when full, the LDT.WF waiters ahead of the first LDT.WFE, and that one; when
empty, the first STT.WE (R223). -/
def State.serveWord (s : State) (uid w : Nat) : Nat → State
  | 0 => s
  | n + 1 =>
    match s.tile? uid with
    | none => s
    | some t =>
      let isFull := t.full.contains w
      let next := (s.wordWaiters uid w).find? fun x => match x.2.2.2.1 with | .empty .. => !isFull | _ => isFull
      match next with
      | none => s
      | some (gid, tid, _, want, dst) =>
        match want with
        | .full => ((s.deliver gid tid dst [t.word w] (entering (t.poison.contains w) 0))).serveWord uid w n
        | .fullEmpty =>
          ((s.deliver gid tid dst [t.word w] (entering (t.poison.contains w) 0)).updTile uid fun t => t.setFull w false).serveWord uid w n
        | .empty v p => ((s.deliver gid tid 0 [] none).updTile uid fun t => (t.setWord w v p).setFull w true).serveWord uid w n

/-- Serves every waiter that a word can serve. -/
def State.serve (s : State) (uid w : Nat) : State := s.serveWord uid w (s.wordWaiters uid w).length

/-! ### Thread access to tile words (R239, R240) -/

/-- A value that reaches its thread as a load does, so that its poison is kept. -/
def State.lateValue (s : State) (l : Lane) (dst : Nat) (v : Word) : State :=
  let q : Req := { kind := .load false, ea := 0, size := 4, dst := dst, dcnt := 1, need := {}, facc := 0, addrRegs := [] }
  let s1 := s.beginOp l 0 dst 1
  { s1 with accs := s1.accs ++ [{ q.toAcc l s1 with phase := .done, result := v.toNat, poison := true }], nextId := s1.nextId + 1 }

/-- The tile and word that LDT or STT names, or what stops it: the tile access trap, Illegal Instruction at
level 1, or a row that is to be filled first. -/
def tileAccess (l : Lane) (s : State) (h a b : Nat) : Except Stop (Tile × Nat) :=
  match s.handle? l.g h with
  | none => .error tileTrap
  | some t =>
    let r := (l.src.reg a).toNat
    let c := (l.src.reg b).toNat
    if t.level = 1 then .error illegal
    else if r ≥ t.rows ∨ c ≥ t.rw then .error tileTrap
    else if t.unfilled r then .error (.fill t.uid r)
    else .ok (t, r * t.rw + c)

/-- The counter's limit of a class (R20). -/
def overCount (l : Lane) (cls : Nat) : Bool := decide (l.cur.outstanding cls ≥ 63)

/-- The fence of a hand-off's releasing side on THR: of group scope at level 0, of span scope at level 2 (R224). -/
def handoffFence (l : Lane) (s : State) (t : Tile) : Option Stop :=
  let f := s.fenceOf l.src (if t.level = 2 then 1 else 0) 1 1
  if s.fenceDone l.g l.src f then none else some (.fence f)

/-- LDT, LDT.WF and LDT.WFE (R222, R239): plain, waiting for full, and emptying the word. -/
def tileLoad (i : Instr) (wait emptyIt : Bool) (d h a b : Nat) (s : State) : Res :=
  runWord i (fun l s =>
    if overCount l 0 then .error (.park (.counter 0))
    else match l.grant s with
    | some [] => .ok (s.lateValue l d 0)      -- the row's fill met an unresolvable fault (R246)
    | some ws => .ok (s.updLane l fun t => t.setWords d ws)
    | none =>
      match l.consume [a, b] with
      | .error e => .error e
      | .ok true => .ok s
      | .ok false =>
        match tileAccess l s h a b with
        | .error e => .error e
        | .ok (t, w) =>
          if wait && !t.full.contains w then .error (.park (.tileWord t.uid w (if emptyIt then .fullEmpty else .full) d))
          else
            let s1 := if t.poison.contains w then s.lateValue l d (t.word w) else s.updLane l fun th => th.setReg d (t.word w)
            .ok (if emptyIt then (s1.updTile t.uid fun t => t.setFull w false).serve t.uid w else s1)) s

/-- LDT (R222). -/
def execLdt (c : BitVec 1) (d : BitVec 6) (h : BitVec 5) (a b : BitVec 6) (s : State) : Res :=
  tileLoad (.ldt c d h a b) false false d.toNat h.toNat a.toNat b.toNat s
/-- LDT.WF (R222). -/
def execLdtWf (c : BitVec 1) (d : BitVec 6) (h : BitVec 5) (a b : BitVec 6) (s : State) : Res :=
  tileLoad (.ldtWf c d h a b) true false d.toNat h.toNat a.toNat b.toNat s
/-- LDT.WFE (R222). -/
def execLdtWfe (c : BitVec 1) (d : BitVec 6) (h : BitVec 5) (a b : BitVec 6) (s : State) : Res :=
  tileLoad (.ldtWfe c d h a b) true true d.toNat h.toNat a.toNat b.toNat s

/-- STT, STT.WE and STT.RAW (R222, R239): setting the word full, waiting for empty first, and leaving the bit. -/
def tileStore (i : Instr) (wait raw : Bool) (d h a b : Nat) (s : State) : Res :=
  runWord i (fun l s =>
    if overCount l 1 then .error (.park (.counter 1))
    else match l.grant s with
    | some _ => .ok s
    | none =>
      match l.consume [a, b] with
      | .error e => .error e
      | .ok true => .ok s
      | .ok false =>
        match tileAccess l s h a b with
        | .error e => .error e
        | .ok (t, w) =>
          let v := l.src.reg d
          let p := l.src.anyPoison [d]
          match if raw then none else handoffFence l s t with
          | some st => .error st
          | none =>
            if wait && t.full.contains w then .error (.park (.tileWord t.uid w (.empty v p) 0))
            else
              let s1 := s.updTile t.uid fun t => let t := t.setWord w v p; if raw then t else t.setFull w true
              .ok (s1.serve t.uid w)) s

/-- STT (R222). -/
def execStt (c : BitVec 1) (d : BitVec 6) (h : BitVec 5) (a b : BitVec 6) (s : State) : Res :=
  tileStore (.stt c d h a b) false false d.toNat h.toNat a.toNat b.toNat s
/-- STT.WE (R222). -/
def execSttWe (c : BitVec 1) (d : BitVec 6) (h : BitVec 5) (a b : BitVec 6) (s : State) : Res :=
  tileStore (.sttWe c d h a b) true false d.toNat h.toNat a.toNat b.toNat s
/-- STT.RAW (R222). -/
def execSttRaw (c : BitVec 1) (d : BitVec 6) (h : BitVec 5) (a b : BitVec 6) (s : State) : Res :=
  tileStore (.sttRaw c d h a b) false true d.toNat h.toNat a.toNat b.toNat s

/-! ### Arrival counts and generations (R221, R248) -/

/-- Bit 63 of an arrival count: a failure. -/
def Tile.failed (t : Tile) : Bool := t.count.getLsbD 63

/-- Whether a generation is satisfied (R221). -/
def Tile.satisfied (t : Tile) (g : Word) : Bool := decide ((t.gen - g).toNat < 2 ^ 31)

/-- What WAITA receives: 0 for a satisfied generation, else the failure code; none while it waits (R248). -/
def Tile.waitaResult (t : Tile) (g : Word) : Option Word :=
  if t.satisfied g then some 0 else if t.failed then some (t.count.setWidth 32) else none

/-- Wakes the WAITA threads of a tile that its state satisfies. -/
def State.serveArrivals (s : State) (uid : Nat) : State :=
  match s.tile? uid with
  | none => s
  | some t =>
    (s.groups.flatMap fun g => g.threads.filterMap fun th => match th.st with
      | .parked (.arrival u gen dst) => if u = uid then (t.waitaResult gen).map fun v => (g.gid, th.tid, dst, v) else none
      | _ => none).foldl (fun s x => s.deliver x.1 x.2.1 x.2.2.1 [x.2.2.2] none) s

/-- Bytes that a copy has written into a tile are counted (R221, R248). -/
def State.tileArrive (s : State) (uid bytes : Nat) : State :=
  (s.updTile uid fun t =>
    if t.failed then t
    else
      let c := t.count.toNat + bytes
      if t.target = 0 ∨ c < t.target.toNat then { t with count := BitVec.ofNat 64 c }
      else { t with count := BitVec.ofNat 64 (c % t.target.toNat), gen := t.gen + BitVec.ofNat 32 (c / t.target.toNat) }).serveArrivals uid

/-- A failed command writes its code into the count (R248). -/
def State.tileFail (s : State) (uid code : Nat) : State :=
  (s.updTile uid fun t => { t with count := BitVec.ofNat 64 (2 ^ 63 + code) }).serveArrivals uid

/-! ### Rings (R247) -/

/-- Whether a role's next slot can be had: a producer's while fewer than S sequences are out, a consumer's when
one is published. -/
def Ring.canAcquire (r : Ring) (consumer : Bool) : Bool :=
  if consumer then decide (1 ≤ (r.prod - r.cres).toNat ∧ (r.prod - r.cres).toNat < 2 ^ 31) else decide ((r.pres - r.cons).toNat < r.slots)

/-- Reserves the next sequence of a role. -/
def Ring.acquire (r : Ring) (consumer : Bool) : Word × Ring :=
  if consumer then (r.cres, { r with cres := r.cres + 1, heldC := r.heldC ++ [r.cres] })
  else (r.pres, { r with pres := r.pres + 1, heldP := r.heldP ++ [r.pres] })

/-- Advances a published counter over the released sequences that follow it. -/
def advanceOver : Nat → Word → List Word → Word × List Word
  | 0, c, rel => (c, rel)
  | n + 1, c, rel => if rel.contains c then advanceOver n (c + 1) (rel.filter (· != c)) else (c, rel)

/-- Releases a sequence; none where it is not reserved and unreleased for the role. -/
def Ring.release (r : Ring) (consumer : Bool) (q : Word) : Option Ring :=
  if consumer then
    if r.heldC.contains q then
      let x := advanceOver (r.relC.length + 1) r.cons (r.relC ++ [q])
      some { r with heldC := r.heldC.filter (· != q), cons := x.1, relC := x.2 }
    else none
  else if r.heldP.contains q then
    let x := advanceOver (r.relP.length + 1) r.prod (r.relP ++ [q])
    some { r with heldP := r.heldP.filter (· != q), prod := x.1, relP := x.2 }
  else none

/-- RACQ waiters of a role in park order. -/
def State.ringWaiters (s : State) (uid : Nat) (consumer : Bool) : List (Nat × Nat × Nat × Nat) :=
  sortBy (fun x => x.2.2.1) (s.groups.flatMap fun g => g.threads.filterMap fun t =>
    match t.st with
    | .parked (.ring u c dst) => if u = uid ∧ c = consumer then some (g.gid, t.tid, t.pseq, dst) else none
    | _ => none)

/-- Gives slots to the waiters of a role in park order. -/
def State.serveRole (s : State) (uid : Nat) (consumer : Bool) : List (Nat × Nat × Nat × Nat) → State
  | [] => s
  | x :: xs =>
    match (s.tile? uid).bind (·.ring) with
    | none => s
    | some r =>
      if r.canAcquire consumer then
        let q := r.acquire consumer
        ((s.updTile uid fun t => { t with ring := some q.2 }).deliver x.1 x.2.1 x.2.2.2 [q.1, 0] none).serveRole uid consumer xs
      else s

/-- Serves the waiters of both roles. -/
def State.serveRing (s : State) (uid : Nat) : State :=
  let s1 := s.serveRole uid true (s.ringWaiters uid true)
  s1.serveRole uid false (s1.ringWaiters uid false)

/-! ### Statuses and storage (R242, R243, R250) -/

/-- Whether a command in flight names a tile (R244, R245, R247). -/
def State.tileBusy (s : State) (uid : Nat) : Bool :=
  (s.copies.any fun c => c.tile == some uid) || (s.mxs.any fun m => m.tiles.contains uid)

/-- Bytes of storage that tiles of a level take on a core, or on a die at level 2. -/
def State.tileUse (s : State) (level where_ : Nat) : Nat :=
  (s.tiles.filter fun t => t.level == level && (if level = 2 then t.die == where_ else t.core == where_)).foldl
    (fun n t => n + tileBytes t.rows t.rw) 0

/-- Storage of a level (R242): tile store, saddle slice, pinned L2. -/
def levelSize (level : Nat) : Nat := match level with | 0 => 512 * 1024 | 1 => 1024 * 1024 | _ => 32 * 1024 * 1024

/-- Whether a shape lies in the map of R242. -/
def shapeOk (a b : Word) : Bool :=
  let v := b.toNat
  let e := bits v 0 4
  let p := bits v 4 4
  let lvl := bits v 8 2
  bits a.toNat 0 16 != 0 && bits a.toNat 16 16 != 0 && decide (e ≤ 5) && (if e = 5 then decide (2 ≤ p ∧ p ≤ 8) else p == 0)
    && decide (lvl ≤ 2) && bits v 10 6 == 0 && (if lvl = 2 then decide (bits v 16 4 ≤ 1 ∧ bits v 20 4 ≤ 3) else bits v 16 16 == 0)

/-- The tile that a shape names for a group, fresh. -/
def newTile (uid : Nat) (g : Group) (a b : Word) : Tile :=
  let v := b.toNat
  let lw := bits v 16 4
  let lh := bits v 20 4
  { uid := uid, asid := g.asid, sid := g.sid, level := bits v 8 2, core := g.core, die := coreDie g.core
    rx := coreX g.core / 2 ^ lw * 2 ^ lw, ry := coreY g.core / 2 ^ lh * 2 ^ lh, lw := lw, lh := lh, key := bits v 24 8
    rows := bits a.toNat 0 16, cols := bits a.toNat 16 16, ecode := bits v 0 4, planes := bits v 4 4 }

/-- TALLOC for a group: the status and the state after (R242, R243). DEDUCED (log 42). -/
def State.allocTile (s : State) (g : Group) (h : Nat) (a b : Word) : Nat × State :=
  if g.handles.any fun p => p.1 == h then (1, s)
  else if !shapeOk a b then (4, s)
  else
    let t := { newTile s.nextId g a b with old := (s.oldWords.filter fun p => p.1 == g.asid).map (·.2) }
    let give := fun (s : State) (uid : Nat) => s.updGroup g.gid fun g => { g with handles := g.handles ++ [(h, uid)] }
    let fresh := fun (_ : Unit) =>
      if s.tileUse t.level (if t.level = 2 then t.die else g.core) + tileBytes t.rows t.rw > levelSize t.level then (3, s)
      else (0, give { s with tiles := s.tiles ++ [t], nextId := s.nextId + 1 } t.uid)
    if t.level = 2 then
      match s.span? g.sid with
      | some sp =>
        if 2 ^ t.lw > sp.w ∨ 2 ^ t.lh > sp.h then (5, s)
        else match s.tiles.find? fun x => x.level == 2 && x.sid == t.sid && x.rx == t.rx && x.ry == t.ry && x.lw == t.lw && x.lh == t.lh && x.key == t.key with
          | some x =>
            if x.rows = t.rows ∧ x.cols = t.cols ∧ x.ecode = t.ecode ∧ x.planes = t.planes then (0, give s x.uid) else (4, s)
          | none => fresh ()
      | none => fresh ()
    else fresh ()

/-- Tiles go; their words may be found again in later tiles of their contexts (R350). -/
def State.dropTiles (s : State) (gone : Tile → Bool) : State :=
  let note := fun (l : List (Nat × Word)) (x : Nat × Word) => if l.contains x then l else l ++ [x]
  { s with
    tiles := s.tiles.filter fun t => !gone t
    oldWords := ((s.tiles.filter gone).flatMap fun t => t.words.map fun w => (t.asid, w.2)).foldl note s.oldWords }

/-- A handle is released: threads of the group that wait on its tile take the tile access trap at their word,
and the tile goes when no group holds it (R240, R243, R244). -/
def State.releaseHandle (s : State) (gid h : Nat) : State :=
  match (s.group? gid).bind fun g => (g.handles.find? fun p => p.1 == h).map fun p => (g, p.2) with
  | none => s
  | some (g, uid) =>
    let waits := g.threads.filter fun t => match t.st with
      | .parked (.tileWord u ..) => u == uid
      | .parked (.arrival u ..) => u == uid
      | .parked (.ring u ..) => u == uid
      | .filling u _ => u == uid
      | _ => false
    let s1 := waits.foldl (fun s t => s.takeTrap gid t.tid 3 0 0) s
    let s2 := s1.updGroup gid fun g => { g with handles := g.handles.filter fun p => p.1 != h }
    if s2.groups.any fun g => g.handles.any fun p => p.2 == uid then s2
    else s2.dropTiles fun t => t.uid == uid

/-! ### Tile management words (R241-R249) -/

/-- A TILE word that writes a status: its counter, and UNALLOC for a handle that the group does not hold. -/
def tileWordOp (i : Instr) (d h : Nat) (f : Lane → Tile → State → Except Stop (Nat × State)) (s : State) : Res :=
  runWord i (fun l s =>
    if overCount l 3 then .error (.park (.counter 3))
    else
      let put := fun (s : State) (st : Nat) => s.updLane l fun t => t.setReg d (BitVec.ofNat 32 st)
      match s.handle? l.g h with
      | none => .ok (put s 2)
      | some t => match f l t s with
        | .error e => .error e
        | .ok (st, s1) => .ok (put s1 st)) s

/-- TALLOC (R242, R243). -/
def execTalloc (c : BitVec 1) (d : BitVec 6) (h : BitVec 5) (a : BitVec 6) (s : State) : Res :=
  runWord (.talloc c d h a) (fun l s =>
    if overCount l 3 then .error (.park (.counter 3))
    else match s.group? l.g.gid with
      | none => .ok s
      | some g =>
        let r := s.allocTile g h.toNat (l.src.reg a.toNat) (l.src.reg (a.toNat + 1))
        .ok (r.2.updLane l fun t => t.setReg d.toNat (BitVec.ofNat 32 r.1))) s

/-- Begins a TFREE or a write-back: its status is written when it completes (R244, R246). -/
def beginTileOp (l : Lane) (t : Tile) (d h : Nat) (free : Bool) (s : State) : State :=
  let s1 := s.beginOp l 3 d 1
  { s1 with
    tileOps := s1.tileOps ++ [{ id := s1.nextId, gid := l.g.gid, tid := l.cur.tid, tile := t.uid, dst := d, shadow := l.src.popen, free := free, handle := h }]
    nextId := s1.nextId + 1 }

/-- TFREE (R244). -/
def execTfree (c : BitVec 1) (d : BitVec 6) (h : BitVec 5) (s : State) : Res :=
  runWord (.tfree c d h) (fun l s =>
    if overCount l 3 then .error (.park (.counter 3))
    else match s.handle? l.g h.toNat with
      | none => .ok (s.updLane l fun t => t.setReg d.toNat 2)
      | some t => .ok (beginTileOp l t d.toNat h.toNat true s)) s

/-- TBIND (R245). Where a condition of SHAPE and one of BUSY hold together, SHAPE is reported. DESIGN CHOICE (log 81). -/
def execTbind (c : BitVec 1) (d : BitVec 6) (h : BitVec 5) (a : BitVec 6) (s : State) : Res :=
  tileWordOp (.tbind c d h a) d.toNat h.toNat (fun l t s =>
    let base := l.src.group a.toNat 2
    let pitch := (l.src.reg (a.toNat + 2)).toNat
    if t.ring.isSome || t.level == 1 || base % 4 != 0 || pitch % 4 != 0 || decide (pitch < t.rw * 4) || l.src.reg (a.toNat + 3) != 0 then .ok (4, s)
    else if t.bind.isSome || s.tileBusy t.uid then .ok (6, s)
    else .ok (0, s.updTile t.uid fun t => { t with bind := some (BitVec.ofNat 64 base, pitch), filled := [], dirty := [] })) s

/-- TFLUSH (R246): OK at once for an unbound tile. -/
def execTflush (c : BitVec 1) (d : BitVec 6) (h : BitVec 5) (s : State) : Res :=
  runWord (.tflush c d h) (fun l s =>
    if overCount l 3 then .error (.park (.counter 3))
    else match s.handle? l.g h.toNat with
      | none => .ok (s.updLane l fun t => t.setReg d.toNat 2)
      | some t =>
        if t.bind.isNone then .ok (s.updLane l fun t => t.setReg d.toNat 0)
        else .ok (beginTileOp l t d.toNat h.toNat false s)) s

/-- TRING (R247). Where a condition of SHAPE and one of BUSY hold together, SHAPE is reported. DESIGN CHOICE (log 81). -/
def execTring (c : BitVec 1) (d : BitVec 6) (h : BitVec 5) (a : BitVec 6) (s : State) : Res :=
  tileWordOp (.tring c d h a) d.toNat h.toNat (fun l t s =>
    let n := (l.src.reg a.toNat).toNat
    if t.bind.isSome || t.level == 1 || (n != 0 && (decide (n < 2 ∨ n > 64) || t.rows % n != 0)) then .ok (4, s)
    else if s.tileBusy t.uid then .ok (6, s)
    else
      let s1 := s.updTile t.uid fun t => { t with ring := if n = 0 then none else some { slots := n } }
      .ok (0, s1.serveRing t.uid)) s

/-- TSETFE (R248): every word's bit in one action, then the waiters of each word. -/
def execTsetfe (c : BitVec 1) (d : BitVec 6) (h : BitVec 5) (a : BitVec 6) (s : State) : Res :=
  tileWordOp (.tsetfe c d h a) d.toNat h.toNat (fun l t s =>
    let v := (l.src.reg a.toNat).toNat
    if v > 1 then .ok (4, s)
    else
      let all := List.range (t.rows * t.rw)
      let s1 := s.updTile t.uid fun t => { t with full := if v = 1 then all else [] }
      .ok (0, all.foldl (fun s w => s.serve t.uid w) s1)) s

/-- TARRT (R248). -/
def execTarrt (c : BitVec 1) (d : BitVec 6) (h : BitVec 5) (a : BitVec 6) (s : State) : Res :=
  tileWordOp (.tarrt c d h a) d.toNat h.toNat (fun l t s =>
    let v := l.src.group a.toNat 2
    if v ≥ 2 ^ 63 then .ok (4, s)
    else .ok (0, s.updTile t.uid fun t => { t with target := BitVec.ofNat 64 v, count := 0 })) s

/-- WAITA (R248): parks until its generation is satisfied or the count shows a failure. -/
def execWaita (c : BitVec 1) (d : BitVec 6) (h : BitVec 5) (a : BitVec 6) (s : State) : Res :=
  runWord (.waita c d h a) (fun l s =>
    match l.grant s with
    | some ws => .ok (s.updLane l fun t => t.setWords d.toNat ws)
    | none => match s.handle? l.g h.toNat with
      | none => .error tileTrap
      | some t => match t.waitaResult (l.src.reg a.toNat) with
        | some v => .ok (s.updLane l fun t => t.setReg d.toNat v)
        | none => .error (.park (.arrival t.uid (l.src.reg a.toNat) d.toNat))) s

/-- The four words of TINFO (R249). S, PROD, CONS and PRES - CONS of a tile that is no ring read 0. DESIGN CHOICE (log 81). -/
def Tile.info (t : Tile) (page : Nat) : List Word :=
  let w := BitVec.ofNat 32
  match page with
  | 0 =>
    [w (t.rows + t.cols * 2 ^ 16),
     w (t.ecode + t.planes * 16 + t.level * 256 + (if t.bind.isSome then 1024 else 0) + (if t.ring.isSome then 2048 else 0) + ((t.ring.map (·.slots)).getD 0) * 2 ^ 16),
     w t.rw, 0]
  | 1 => [t.count.setWidth 32, (t.count >>> 32).setWidth 32, t.target.setWidth 32, (t.target >>> 32).setWidth 32]
  | 2 => [t.gen, (t.ring.map (·.prod)).getD 0, (t.ring.map (·.cons)).getD 0, (t.ring.map fun r => r.pres - r.cons).getD 0]
  | _ => [0, 0, 0, 0]

/-- TINFO (R249, R250). -/
def execTinfo (c : BitVec 1) (d : BitVec 6) (h : BitVec 5) (a : BitVec 6) (s : State) : Res :=
  runWord (.tinfo c d h a) (fun l s =>
    if overCount l 3 then .error (.park (.counter 3))
    else
      let ws := match s.handle? l.g h.toNat with
        | none => [0, 0, 0, 0]
        | some t => t.info (l.src.reg a.toNat).toNat
      .ok (s.updLane l fun t => t.setWords d.toNat ws)) s

/-- RACQ (R241, R247). A role above 1 on a ring gives D = 0xFFFFFFFF with SHAPE; a tile that is no ring gives NOTRING whatever the
role. DESIGN CHOICE (log 81). -/
def execRacq (c : BitVec 1) (d : BitVec 6) (h : BitVec 5) (a : BitVec 6) (s : State) : Res :=
  runWord (.racq c d h a) (fun l s =>
    match l.grant s with
    | some ws => .ok (s.updLane l fun t => t.setWords d.toNat ws)
    | none => match s.handle? l.g h.toNat with
      | none => .error tileTrap
      | some t =>
        let role := (l.src.reg a.toNat).toNat
        match t.ring with
        | none => .ok (s.updLane l fun t => t.setWords d.toNat [0xFFFFFFFF, 8])
        | some r =>
          if role > 1 then .ok (s.updLane l fun t => t.setWords d.toNat [0xFFFFFFFF, 4])
          else if r.canAcquire (role == 1) then
            let q := r.acquire (role == 1)
            .ok ((s.updTile t.uid fun t => { t with ring := some q.2 }).updLane l fun t => t.setWords d.toNat [q.1, 0])
          else .error (.park (.ring t.uid (role == 1) d.toNat))) s

/-- RREL (R247): on a tile that is no ring NOTRING, whatever the role. DESIGN CHOICE (log 81). -/
def execRrel (c : BitVec 1) (d : BitVec 6) (h : BitVec 5) (a : BitVec 6) (s : State) : Res :=
  tileWordOp (.rrel c d h a) d.toNat h.toNat (fun l t s =>
    let role := (l.src.reg (a.toNat + 1)).toNat
    match t.ring with
    | none => .ok (8, s)
    | some r =>
      if role > 1 then .ok (4, s)
      else match r.release (role == 1) (l.src.reg a.toNat) with
        | none => .ok (9, s)
        | some r' => .ok (0, (s.updTile t.uid fun t => { t with ring := some r' }).serveRing t.uid)) s

/-! ### Filling and writing back bound tiles (R246, R356) -/

/-- FACC of an access kind on a path (R382). -/
def faccOf (path kind : Nat) : Nat := path * 4 + kind

/-- Fills a row from memory through a core's map unit: its words take the memory's values and are full, and the threads that wait on
them are served (R223). -/
def State.fillRow (s : State) (core uid row : Nat) : Except (Nat × Nat) State :=
  match s.tile? uid with
  | none => .ok s
  | some t =>
    match t.bind with
    | none => .ok s
    | some (base, pitch) =>
      if !t.unfilled row then .ok s
      else
        let va := base.toNat + row * pitch
        match s.vread core (coreDie core) t.asid va (4 * t.rw) with
        | .error e => .error e
        | .ok (bs, p) =>
          let ws := natToWords t.rw (bytesToNat bs)
          let s1 := ((List.range t.rw).foldl (fun (s : State) k => s.updTile uid fun t =>
            let i := row * t.rw + k
            { t with words := putWord t.words i (ws.getD k 0), full := insertNat i t.full
                     poison := if p then insertNat i t.poison else t.poison.filter (· != i) }) (s.touchRead core (coreDie core) t.asid va (4 * t.rw))).updTile uid
              fun t => { t with filled := insertNat row t.filled }
          .ok ((List.range t.rw).foldl (fun s k => s.serve uid (row * t.rw + k)) s1)

/-- Fills every unfilled row that a command touches. -/
def State.fillRows (s : State) (core uid : Nat) : List Nat → Except (Nat × Nat) State
  | [] => .ok s
  | r :: rs => match s.fillRow core uid r with
    | .error e => .error e
    | .ok s1 => s1.fillRows core uid rs

/-- Writes the dirty words of a bound tile back, and only those, with the greatest GWCT (R246). -/
def State.writeBack (s : State) (core : Nat) (t : Tile) : List Nat → Except (Nat × Nat) (State × Nat)
  | [] => .ok (s, 0)
  | i :: is =>
    match t.bind with
    | none => .ok (s, 0)
    | some (base, pitch) =>
      let va := base.toNat + i / t.rw * pitch + 4 * (i % t.rw)
      match s.vwrite core (coreDie core) t.asid va (natToBytes 4 (t.word i).toNat) with
      | .error e => .error e
      | .ok (s1, g) =>
        let s1 := if t.poison.contains i then match s1.translate core (coreDie core) t.asid va { w := true } with
            | .ok x => if x.dev then s1 else s1.poisonLine (x.cell / 128)
            | .error _ => s1
          else s1
        match s1.writeBack core t is with
        | .error e => .error e
        | .ok (s2, g2) => .ok (s2, max g g2)

/-- Writes a tile back as TFLUSH does and marks its words clean. -/
def State.flushTile (s : State) (core uid : Nat) : Except (Nat × Nat) (State × Nat) :=
  match s.tile? uid with
  | none => .ok (s, 0)
  | some t => match s.writeBack core t t.dirty with
    | .error e => .error e
    | .ok (s1, g) => .ok (s1.updTile uid fun t => { t with dirty := [] }, g)

/-- Threads that wait for the fill of a row. -/
def State.fillWaiters (s : State) (uid row : Nat) : List (Group × Thread) :=
  s.groups.flatMap fun g => (g.threads.filter fun t => t.st == .filling uid row).map fun t => (g, t)

/-- A held fill is answered (R246): the access is tried again, or, where the fault is unresolvable, it gives a
poisoned value. -/
def State.answerFill (s : State) (gid tid : Nat) (unresolvable : Bool) : State :=
  s.updThread gid tid fun t =>
    if t.st != .parked .access then t
    else
      { t with st := .ready, waitSince := s.cycle, grants := if unresolvable then t.grants ++ [(t.parkSlot, [], none)] else t.grants }

/-- TILE_ROW_FILL (R246): the fill completes and the waiting accesses proceed, or it faults and parks them. -/
def execTileRowFill (uid row : Nat) (s : State) : Res :=
  match s.fillWaiters uid row with
  | [] => notEnabled
  | ws@((g, _) :: _) =>
    match s.fillRow g.core uid row with
    | .ok s1 => .next (ws.foldl (fun s x => s.wakeThread x.1.gid x.2.tid) s1)
    | .error (va, k) =>
      .next (ws.foldl (fun s x =>
        let s1 := s.updThread x.1.gid x.2.tid fun t => { t with st := .parked .access, waitSince := s.cycle }
        let s2 := s1.postFault x.1.asid va k (faccOf 1 0) (coreSrc x.1.core) (.fill x.1.gid x.2.tid uid row)
        if k ≥ 4 then s2.answerFill x.1.gid x.2.tid true else s2) s)

/-- Ends a TFLUSH or TFREE with a status: D is written and the tile class count falls (R232). -/
def State.endTileOp (s : State) (o : TileOp) (status : Nat) : State :=
  let s1 : State := { s with tileOps := s.tileOps.filter fun x => x.id != o.id }
  let s2 := s1.updThread o.gid o.tid fun t =>
    let t := t.finish 3
    if t.st = .exited then t
    else (t.inBank o.shadow fun t => (t.setReg o.dst (BitVec.ofNat 32 status)).markPoison [o.dst] false).clearPend [o.dst]
  if o.free && status == 0 then s2.releaseHandle o.gid o.handle else s2

/-- TILE_OPERATION_COMPLETE (R244, R246): the write-back is made, and once its GWCT has passed the status is
written; TFREE waits for every command that names the tile and then releases it. A write-back that faults holds
the operation. DEDUCED (log 41). -/
def execTileOperationComplete (id : Nat) (s : State) : Res :=
  match s.tileOps.find? fun o => o.id == id with
  | none => notEnabled
  | some o =>
    match s.group? o.gid with
    | none => notEnabled
    | some g =>
      if o.heldFault then notEnabled
      else if !(g.handles.any fun p => p.1 == o.handle && p.2 == o.tile) then .next (s.endTileOp o 2)
      else if o.status != 0 then .next (s.endTileOp o o.status)
      else if !o.wrote then
        if o.free && s.tileBusy o.tile then notEnabled
        else match s.flushTile g.core o.tile with
          | .error (va, k) =>
            let held : TileOp := if k ≥ 4 then { o with status := 7 } else { o with heldFault := true }
            let s1 : State := { s with tileOps := s.tileOps.map fun x => if x.id == id then held else x }
            .next (s1.postFault g.asid va k (faccOf 1 1) (coreSrc g.core) (.tileOp id))
          | .ok (s1, gw) =>
            if gw < s1.tsc then .next (s1.endTileOp o 0)
            else .next { s1 with tileOps := s1.tileOps.map fun x => if x.id == id then { o with wrote := true, gw := gw } else x }
      else if o.gw < s.tsc then .next (s.endTileOp o 0)
      else notEnabled

end Sys2Proof.Machine
end

