-- ==== Sys2Proof/Machine/Tensor.lean ====
section
/-! DEFINITION. Tensors: descriptors and their checks (R93-R97), addresses of elements and of bit planes (R88,
R96), elements of tiles (R78, R238), and the acceptance of engine commands (R20, R159, R262, R383). -/

namespace Sys2Proof.Machine

/-- Element bytes as log2 that a format requires; none for a reserved format (R95). -/
def fmtEsize (f : Nat) : Option Nat :=
  match f with
  | 1 => some 2 | 2 => some 3 | 3 => some 1 | 4 => some 1 | 5 => some 2 | 6 => some 0 | 7 => some 0 | 0x10 => some 0 | _ => none

/-- Field of a little-endian record. -/
def fld (bs : List Byte) (off n : Nat) : Nat := bytesToNat ((bs.drop off).take n)

/-- Whether nothing in the descriptor itself rejects it (R97), whatever its extension block holds. -/
def descriptorOk (b : List Byte) : Bool :=
  let c := fld b 0 4
  let fmt := bits c 0 8
  let es := bits c 8 4
  let rank := bits c 12 4
  let scg := bits c 18 2
  let planes := bits c 20 4
  let ext := [fld b 4 4, fld b 0x10 4, fld b 0x14 4, fld b 0x18 4]
  let str := [0, fld b 0x1C 4, fld b 0x20 4, fld b 0x24 4]
  let base := fld b 8 8
  let extb := fld b 0x38 8
  bits c 24 4 == 0 && bits c 16 2 == 0
    && fmtEsize fmt == some es
    && (if fmt = 0x10 then decide (2 ≤ planes ∧ planes ≤ 8) && (scg == 1 || scg == 2) else planes == 0 && scg == 0)
    && decide (1 ≤ rank ∧ rank ≤ 12)
    && ((ext.take rank).all (· != 0)) && ((ext.drop rank).all (· == 0)) && ((str.drop rank).all (· == 0))
    && base % 2 ^ es == 0 && (fmt != 0x10 || base % 64 == 0)
    && ((fld b 0x28 8 == 0) == (scg == 0)) && fld b 0x30 8 % 4 == 0
    && (if rank > 4 then extb != 0 && extb % 64 == 0 else extb == 0)
    && (fmt != 0x10 || (bits c 28 4 == 0 && str == [0, 0, 0, 0]))

/-- Reads a descriptor and its extension block (R93, R94, R96), or rejects it (R97). -/
def parseTensor (b x : List Byte) : Option Tensor :=
  let c := fld b 0 4
  let fmt := bits c 0 8
  let es := bits c 8 4
  let rank := bits c 12 4
  let scg := bits c 18 2
  let planes := bits c 20 4
  let ext := [fld b 4 4, fld b 0x10 4, fld b 0x14 4, fld b 0x18 4] ++ (List.range 8).map fun k => fld x (4 * k) 4
  let str := [0, fld b 0x1C 4, fld b 0x20 4, fld b 0x24 4] ++ (List.range 8).map fun k => fld x (0x20 + 4 * k) 4
  let base := fld b 8 8
  let scale := fld b 0x28 8
  let amaxa := fld b 0x30 8
  if descriptorOk b && ((ext.take rank).all (· != 0)) && ((ext.drop rank).all (· == 0)) && ((str.drop rank).all (· == 0)) then
    some { fmt := fmt, esize := es, rank := rank, scg := scg, planes := planes, strsh := bits c 28 4, base := BitVec.ofNat 64 base
           ext := ext.take rank, str := str.take rank, scale := BitVec.ofNat 64 scale, amaxa := BitVec.ofNat 64 amaxa }
  else none

/-- The 64-byte descriptor of an entry, with a zero extension address (R261). -/
def Tensor.bytes (t : Tensor) : List Byte :=
  let e := fun k => natToBytes 4 (t.ext.getD k 0)
  let r := fun k => natToBytes 4 (t.str.getD k 0)
  natToBytes 4 (t.fmt + t.esize * 2 ^ 8 + t.rank * 2 ^ 12 + t.scg * 2 ^ 18 + t.planes * 2 ^ 20 + t.strsh * 2 ^ 28)
    ++ e 0 ++ natToBytes 8 t.base.toNat ++ e 1 ++ e 2 ++ e 3 ++ r 1 ++ r 2 ++ r 3
    ++ natToBytes 8 t.scale.toNat ++ natToBytes 8 t.amaxa.toNat ++ natToBytes 8 0

/-- Extent of a dimension; 1 for one that the tensor does not have. -/
def Tensor.extent (t : Tensor) (d : Nat) : Nat := t.ext.getD d 1

/-- Product of the extents of dimensions 2 and up (R262). -/
def Tensor.outer (t : Tensor) : Nat := (t.ext.drop 2).foldl (· * ·) 1

/-- Indices of dimensions 2 and up by an outer index Q = idx2 + EXT2 (idx3 + …). -/
def outerIdx : List Nat → Nat → List Nat
  | [], _ => []
  | e :: es, q => q % e :: outerIdx es (q / e)

/-- Address of an element (R96). -/
def Tensor.addr (t : Tensor) (i0 i1 q : Nat) : Nat :=
  let idx := i1 :: outerIdx (t.ext.drop 2) q
  let off := ((t.str.drop 1).zip idx).foldl (fun n p => n + p.1 * p.2 * 2 ^ t.strsh) 0
  (t.base.toNat + i0 * 2 ^ t.esize + off) % 2 ^ 64

/-- Number of elements. -/
def Tensor.count (t : Tensor) : Nat := t.ext.foldl (· * ·) 1

/-- Bytes of a plane of a bit-plane tensor (R88). -/
def Tensor.pbytes (t : Tensor) : Nat := ((t.count + 7) / 8 + 63) / 64 * 64

/-- Linear index of an element (R88). -/
def Tensor.linear (t : Tensor) (i0 i1 q : Nat) : Nat := i0 + t.extent 0 * (i1 + t.extent 1 * q)

/-- Address of the byte that holds bit i of a plane (R88). -/
def Tensor.planeAddr (t : Tensor) (j i : Nat) : Nat := (t.base.toNat + j * t.pbytes + i / 8) % 2 ^ 64

/-- Whether an element lies within the first two extents. -/
def Tensor.has (t : Tensor) (i0 i1 : Nat) : Bool := decide (i0 < t.extent 0 ∧ i1 < t.extent 1)

/-- The entry of a tensor identifier in a context (R32). -/
def State.tensor? (s : State) (asid k : Nat) : Option Tensor :=
  (s.ctx? asid).bind fun c => (c.tids.find? fun p => p.1 == k).map (·.2)

/-! ### Elements of tiles (R78, R238) -/

/-- The words that hold element (r, c), and the bits of the first that it takes for a 16-bit element. -/
def Tile.elemWords (t : Tile) (r c : Nat) : List Nat :=
  match ecodeBytes t.ecode with
  | 8 => [r * t.rw + 2 * c, r * t.rw + 2 * c + 1]
  | 2 => [r * t.rw + c / 2]
  | _ => [r * t.rw + c]

/-- Value of element (r, c) of a tile. -/
def Tile.elem (t : Tile) (r c : Nat) : Nat :=
  let ws := (t.elemWords r c).map t.word
  if ecodeBytes t.ecode = 2 then bits (wordsToNat ws) (16 * (c % 2)) 16 else wordsToNat ws

/-- Whether a word of an element is poisoned. -/
def Tile.elemPoison (t : Tile) (r c : Nat) : Bool := (t.elemWords r c).any fun i => t.poison.contains i

/-- Writes element (r, c); the other half of a word that a 16-bit element shares stays, and one that no element has is zero (R238). -/
def Tile.setElem (t : Tile) (r c v : Nat) (poison fill : Bool) : Tile :=
  let put := fun (t : Tile) (i : Nat) (v : Word) (p : Bool) => let t := t.setWord i v p; if fill then t.setFull i true else t
  match t.elemWords r c with
  | [i] =>
    if ecodeBytes t.ecode = 2 then
      let old := (t.word i).toNat
      let new := if c % 2 = 0 then (if c + 1 < t.cols then old / 2 ^ 16 * 2 ^ 16 else 0) + v % 2 ^ 16 else old % 2 ^ 16 + v % 2 ^ 16 * 2 ^ 16
      put t i (BitVec.ofNat 32 new) (poison || t.poison.contains i)
    else put t i (BitVec.ofNat 32 v) poison
  | [i, j] => put (put t i (BitVec.ofNat 32 v) poison) j (BitVec.ofNat 32 (v / 2 ^ 32)) poison
  | _ => t

/-- Marks some words good: an engine writes every bit of them (R383). -/
def Tile.renewed (t : Tile) (ws : List Nat) : Tile := { t with poison := t.poison.filter fun i => !ws.contains i }

/-- The word of plane j, row r, that holds element column c, and the bit within it (R238). -/
def Tile.planeWord (t : Tile) (r j c : Nat) : Nat × Nat := (r * t.rw + j * ((t.cols + 31) / 32) + c / 32, c % 32)

/-- Bit of an element's plane. -/
def Tile.planeBit (t : Tile) (r j c : Nat) : Bool := (t.word (t.planeWord r j c).1).getLsbD (t.planeWord r j c).2

/-! ### Acceptance of engine commands -/

/-- The lowest code of conditions that hold. -/
def lowest (l : List (Nat × Bool)) : Nat := ((l.filter (·.2)).map (·.1)).foldl (fun m c => if m = 0 ∨ c < m then c else m) 0

/-- The uniform octet that a format-E word names. -/
def Group.octet (g : Group) (n : Nat) : List Word := (List.range 8).map fun k => g.ureg (n + k)

/-- Whether a register of an octet is poisoned. -/
def Group.octPoison (g : Group) (n : Nat) : Bool := (List.range 8).any fun k => n + k != 0 && g.upoison.getLsbD (n + k)

/-- 64-bit value of two words of an octet. -/
def octPair (o : List Word) (k : Nat) : Nat := (o.getD k 0).toNat + 2 ^ 32 * (o.getD (k + 1) 0).toNat

/-- Use of an octet by an accepted command (R383, R384): the trap, or whether the command fails with DATA. -/
def Lane.consumeOct (l : Lane) (n : Nat) : Except Stop Bool :=
  let bad := ((List.range 8).map (n + ·)).filter fun k => k != 0 && l.g.upoison.getLsbD k
  let hit := bad.filter fun k => !l.g.utaken.getLsbD k
  if !hit.isEmpty then .error (.poison [] [] hit) else .ok (!bad.isEmpty)

/-- An engine word over the pack: the first thread that it takes effect for gives rise to the command, and
every thread of the pack counts it (R160, R262). `mk` makes the command and answers its identifier; `join` adds
a thread to it. -/
def engineWord (i : Instr) (cls sreg : Nat) (full : Group → State → Bool) (mk : Lane → Bool → State → Except Stop (Nat × State))
    (join : Nat → Nat → State → State) (s : State) : Res :=
  runWord i (fun l s =>
    if overCount l cls then .error (.park (.counter cls))
    else match l.consumeOct sreg with
      | .error e => .error e
      | .ok bad =>
        let made : Except Stop (Nat × State) := match s.issue.cmd with
          | some id => .ok (id, s)
          | none => if full l.g s then .error .hold else mk l bad s
        match made with
        | .error e => .error e
        | .ok (id, s1) => .ok ((join id l.cur.tid { s1 with issue := { s1.issue with cmd := some id } }).updLane l fun t => t.begin cls)) s

/-- Lowers a class counter in the threads of a command. -/
def State.finishAll (s : State) (gid : Nat) (tids : List Nat) (cls : Nat) : State :=
  tids.foldl (fun s t => s.updThread gid t fun t => t.finish cls) s

end Sys2Proof.Machine
end

