-- ==== Sys2Proof/Machine/Field.lean ====
section
/-! DEFINITION. The field unit: trees and what a voxel read returns (R178-R189), field words and their binding
(R190-R192), and the words that read or edit voxels (R193-R197, R200-R203). -/

namespace Sys2Proof.Machine

/-! ### Status codes (R188) -/

def fsUnbound : Nat := 1
def fsFormat : Nat := 2
def fsRange : Nat := 3
def fsCorrupt : Nat := 4
def fsMissing : Nat := 5
def fsRdonly : Nat := 6
def fsPool : Nat := 7
def fsRootfull : Nat := 8
def fsBaddesc : Nat := 10
def fsAccess : Nat := 11

/-- A status word: its code stands in bits 31:24. -/
def fieldStatus (code low : Nat) : Word := BitVec.ofNat 32 (code * 2 ^ 24 + low)

/-! ### Geometry (R178, R179, R183) -/

/-- Bytes of a voxel by VFMT. -/
def vfmtBytes (f : Nat) : Nat := match f with | 0 => 4 | 1 => 2 | _ => 8

/-- Leaf slot stride by VFMT. -/
def leafStride (f : Nat) : Nat := match f with | 0 => 2176 | 1 => 1152 | _ => 4224

/-- Channels of a leaf by VFMT (R182). -/
def vfmtChannels (f : Nat) : Nat := if f = 3 then 2 else 1

/-- The bytes of an 8-byte encoding that a format uses. -/
def vfmtMask (f v : Nat) : Nat := v % 2 ^ (8 * vfmtBytes f)

/-- A voxel's coordinates. -/
structure Vox where
  x : Int
  y : Int
  z : Int
  deriving DecidableEq, Repr

/-- Coordinates rounded down to a multiple of a span. -/
def Vox.origin (v : Vox) (n : Nat) : Vox := { x := v.x - v.x % n, y := v.y - v.y % n, z := v.z - v.z % n }

/-- Span of a level: 8, 32, 128 and 512. -/
def levelSpan (l : Nat) : Nat := 2 ^ (2 * l + 3)

/-- Index of the child of a node of level l that a voxel lies in. -/
def Vox.child (v : Vox) (l : Nat) : Nat :=
  let o := v.origin (levelSpan l)
  let k := 2 ^ (2 * l + 1)
  ((v.x - o.x) / k + 4 * ((v.y - o.y) / k) + 16 * ((v.z - o.z) / k)).toNat

/-- Index of a voxel in its leaf. -/
def Vox.index (v : Vox) : Nat := (v.x % 8 + 8 * (v.y % 8) + 64 * (v.z % 8)).toNat

/-- Whether every coordinate is a signed 32-bit value. -/
def Vox.inSpace (v : Vox) : Bool :=
  [v.x, v.y, v.z].all fun c => decide (-(2 ^ 31 : Int) ≤ c ∧ c < 2 ^ 31)

/-- The voxel that registers name. -/
def voxOf (x y z : Word) : Vox := { x := x.toInt, y := y.toInt, z := z.toInt }

/-! ### Descriptors (R185) -/

/-- A signed 32-bit field of a record. -/
def fldInt (b : List Byte) (off : Nat) : Int := sval 32 (fld b off 4)

/-- Whether an FP32 pattern is finite. -/
def f32Finite (v : Nat) : Bool := match fdec f32 v with | .fin .. => true | _ => false

/-- Reads a tree descriptor, or rejects it (R185, R192). -/
def parseTree (addr : Nat) (b : List Byte) : Option TreeDesc :=
  let tc := fld b 8 4
  let root := fld b 0 8
  let vf := bits tc 15 2
  let sc := [0x28, 0x2C, 0x30].map fun o => fld b o 4
  let off := [0x34, 0x38, 0x3C].map fun o => fld b o 4
  let ok := addr % 64 == 0 && root != 0 && root % 128 == 0 && bits tc 18 14 == 0 && fld b 0xC 4 == 0
    && fld b 0x18 8 % 64 == 0 && fld b 0x20 8 % 128 == 0
    && decide (1 ≤ bits tc 10 5 ∧ bits tc 10 5 ≤ 24 ∧ 1 ≤ bits tc 5 5 ∧ bits tc 5 5 ≤ 26 ∧ bits tc 0 5 ≤ 24)
    && sc.all (fun v => f32Finite v && !(fdec f32 v).isZero) && off.all f32Finite
  if ok then
    some { addr := BitVec.ofNat 64 addr, root := BitVec.ofNat 64 root, rdonly := bits tc 17 1 == 1, vfmt := vf, lbits := bits tc 10 5
           nbits := bits tc 5 5, rbits := bits tc 0 5, bg := BitVec.ofNat 64 (vfmtMask vf (fld b 0x10 8)), nodep := BitVec.ofNat 64 (fld b 0x18 8)
           leafp := BitVec.ofNat 64 (fld b 0x20 8), sc := sc.map (BitVec.ofNat 32), off := off.map (BitVec.ofNat 32) }
  else none

/-! ### Reading a tree (R180-R187) -/

/-- Who reads: a translation unit, its die and a context, and for a thread's field word its group and thread. -/
structure Reader where
  unit : Nat
  die : Nat
  asid : Nat
  own : Option (Nat × Nat) := none

/-- Not a fault: a field word that waits, its thread not ready, for a write of its thread to the bytes that it reads (R212), or for the
sweep of the tree that it binds (R192). -/
def fkWait : Nat := 63

/-- Whether the side log holds an add that a thread's field words made to some bytes: a later field word of the thread goes behind
it there (R203, R212, R376). -/
def State.fieldLogged (s : State) (own : Option (Nat × Nat)) (va n : Nat) : Bool :=
  s.sideLog.any fun e => e.acc.fld && own == some (e.acc.gid, e.acc.tid)
    && decide (e.acc.va.toNat < va + n ∧ va < e.acc.va.toNat + e.acc.size)

/-- A byte of device memory as a core's field path reads it, and whether it is poisoned: from the core's L1 where it has a valid
copy of the line (R202). -/
def State.fieldByte (s : State) (core pa : Nat) : Byte × Bool :=
  match s.l1Hit core (pa / 128) with
  | some x => (lineByte x.data (pa % 128), x.poison)
  | none => (s.physByte pa, s.poisonLines.contains (pa / 128))

/-- Reads bytes for a reader: the allocator engine, which has no L1, or a core's field unit. -/
def State.rd (s : State) (r : Reader) (va n : Nat) : Except (Nat × Nat) (List Byte × Bool) :=
  if r.die = 0 then s.vread r.unit r.die r.asid va n
  else if s.fieldLogged r.own va n then .error (va, fkWait)
  else match s.reach r.unit r.die r.asid va n { r := true } with
    | .error e => .error e
    | .ok ps =>
      let bs := ps.flatMap fun p =>
        if p.1.dev || p.1.host.isSome then (s.readTrans p.1 p.2).map fun b => (b, !p.1.dev && s.physPoison p.1.cell p.2)
        else (List.range p.2).map fun k => s.fieldByte r.unit (p.1.pa + k)
      .ok (bs.map (·.1), bs.any (·.2))

/-- What a field word's reads have met: their addresses and lengths, and whether any found poison. -/
structure Trail where
  bad : Bool := false
  reads : List (Nat × Nat) := []

/-- A further read. -/
def Trail.add (t : Trail) (va n : Nat) (p : Bool) : Trail := { bad := t.bad || p, reads := t.reads ++ [(va, n)] }

/-- The hash of a level-3 origin (R180). -/
def rootHash (o : Vox) : Nat :=
  let w := fun (i : Int) => BitVec.ofInt 32 (i / 512)
  ((w o.x * 0x2C1B3C6D#32) ^^^ (w o.y * 0x297A2D39#32) ^^^ (w o.z * 0x7D3E5A27#32)).toNat

/-- What the probe of the root table finds: the node's slot, the first entry that could be filled, and poison. -/
structure RootFind where
  node : Option Nat := none
  entry : Option Nat := none       -- address of the entry that matched
  free : Option Nat := none        -- first EMPTY or REMOVED entry
  tr : Trail := {}

/-- Looks through the entries of a bucket; the answer says whether the probe ends here. An insertion fills the first EMPTY or REMOVED
entry in probe order. DESIGN CHOICE (log 89). -/
def scanBucket (b : List Byte) (base : Nat) (o : Vox) : List Nat → RootFind → Bool × RootFind
  | [], f => (false, f)
  | e :: es, f =>
    let n := fld b (16 * e + 12) 4
    let a := base + 16 * e
    if n = 0xFFFFFFFF then (true, { f with free := f.free.orElse fun _ => some a })
    else if n = 0xFFFFFFFE then scanBucket b base o es { f with free := f.free.orElse fun _ => some a }
    else if fldInt b (16 * e) = o.x ∧ fldInt b (16 * e + 4) = o.y ∧ fldInt b (16 * e + 8) = o.z then
      (true, { f with node := some n, entry := some a })
    else scanBucket b base o es f

/-- Probes the root table for a level-3 origin (R180). -/
def State.rootProbe (s : State) (r : Reader) (t : TreeDesc) (o : Vox) (b : Nat) (f : RootFind) : Nat → Except (Nat × Nat) RootFind
  | 0 => .ok f
  | n + 1 =>
    let base := t.root.toNat + 128 * b
    match s.rd r base 128 with
    | .error e => .error e
    | .ok (bs, p) =>
      let x := scanBucket bs base o (List.range 8) { f with tr := f.tr.add base 128 p }
      if x.1 then .ok x.2 else s.rootProbe r t o ((b + 1) % 2 ^ t.rbits) x.2 n

/-- The root table's answer for an origin. -/
def State.rootFind (s : State) (r : Reader) (t : TreeDesc) (o : Vox) : Except (Nat × Nat) RootFind :=
  s.rootProbe r t o (rootHash o % 2 ^ t.rbits) {} (min 8 (2 ^ t.rbits))

/-- The header of an internal node (R181). -/
structure TNode where
  va : Nat
  o : Vox
  level : Nat
  childn : Nat
  parent : Nat
  bg : Nat
  cm : Nat
  tm : Nat
  am : Nat

/-- Reads a node's header. -/
def readNode (va : Nat) (b : List Byte) : TNode :=
  { va := va, o := { x := fldInt b 0, y := fldInt b 4, z := fldInt b 8 }, level := fld b 12 1, childn := fld b 0xE 2, parent := fld b 0x10 8
    bg := fld b 0x18 8, cm := fld b 0x20 8, tm := fld b 0x28 8, am := fld b 0x30 8 }

/-- What a lookup returns (R186), with the box of the region that it ends in and the deepest node reached. -/
structure Look where
  code : Nat := 0
  val : Nat := 0
  act : Bool := false
  miss : Bool := true
  tile : Bool := false
  src : Nat := 4
  leaf : Option Nat := none        -- the leaf's address
  slot : Nat := 0xFFFFFFFF         -- its slot index
  del : Bool := false
  shift : Nat := 9                 -- log2 of the span of the region
  deep : Option (TNode × Nat) := none
  free : Option Nat := none
  tr : Trail := {}

/-- Whether a lookup read poison. -/
def Look.bad (k : Look) : Bool := k.tr.bad

/-- A check of R187 failed. -/
def corrupt : Look := { code := fsCorrupt, miss := false, src := 0 }

/-- The slot index that an address of a pool names. -/
def slotOf (base stride count va : Nat) : Option Nat :=
  if va ≥ base ∧ (va - base) % stride = 0 ∧ 0 < (va - base) / stride ∧ (va - base) / stride < count then some ((va - base) / stride) else none

/-- Reads a voxel of a leaf. -/
def State.readLeaf (s : State) (r : Reader) (t : TreeDesc) (v : Vox) (va slot : Nat) (deep : Option (TNode × Nat)) (tr : Trail) : Except (Nat × Nat) Look := do
  let (h, p1) ← s.rd r va 0x20
  let tr := tr.add va 0x20 p1
  let o := v.origin 8
  if fldInt h 0 ≠ o.x ∨ fldInt h 4 ≠ o.y ∨ fldInt h 8 ≠ o.z ∨ fld h 12 1 ≠ t.vfmt ∨ fld h 13 1 ≠ vfmtChannels t.vfmt then
    return { corrupt with tr := tr }
  let n := v.index
  let (a, p2) ← s.rd r (va + 0x20 + n / 8) 1
  let (b, p3) ← s.rd r (va + 0x60 + n * vfmtBytes t.vfmt) (vfmtBytes t.vfmt)
  return { val := bytesToNat b, act := bits (bytesToNat a) (n % 8) 1 == 1, miss := false, src := 0, leaf := some va, slot := slot
           del := bits (fld h 0xE 2) 0 1 == 1, shift := 3, deep := deep
           tr := (tr.add (va + 0x20 + n / 8) 1 p2).add (va + 0x60 + n * vfmtBytes t.vfmt) (vfmtBytes t.vfmt) p3 }

/-- Walks down from a node of level l (R186). -/
def State.walkNode (s : State) (r : Reader) (t : TreeDesc) (v : Vox) (va : Nat) (tr : Trail) : Nat → Except (Nat × Nat) Look
  | 0 => .ok { corrupt with tr := tr }
  | l + 1 => do
    let (h, p1) ← s.rd r va 0x40
    let nd := readNode va h
    let tr := tr.add va 0x40 p1
    if nd.level ≠ l + 1 ∨ nd.o ≠ v.origin (levelSpan (l + 1)) ∨ nd.cm &&& nd.tm ≠ 0 then return { corrupt with tr := tr }
    let i := v.child (l + 1)
    let deep := some (nd, i)
    if bits nd.cm i 1 = 0 ∧ bits nd.tm i 1 = 0 then
      return { val := vfmtMask t.vfmt nd.bg, src := l + 1, shift := 2 * (l + 1) + 1, deep := deep, tr := tr }
    let (e, p2) ← s.rd r (va + 0x40 + 8 * i) 8
    let p := bytesToNat e
    let tr := tr.add (va + 0x40 + 8 * i) 8 p2
    if bits nd.cm i 1 = 0 then
      return { val := vfmtMask t.vfmt p, act := bits nd.am i 1 == 1, tile := true, src := l + 1, shift := 2 * (l + 1) + 1, deep := deep, tr := tr }
    if l = 0 then
      match slotOf t.leafp.toNat (leafStride t.vfmt) (2 ^ t.lbits) p with
      | none => return { corrupt with tr := tr }
      | some q => s.readLeaf r t v p q deep tr
    else
      match slotOf t.nodep.toNat 576 (2 ^ t.nbits) p with
      | none => return { corrupt with tr := tr }
      | some _ => s.walkNode r t v p tr l

/-- The entry of a core's leaf-pointer cache for a voxel's leaf (R189). -/
def State.cached? (s : State) (r : Reader) (t : TreeDesc) (v : Vox) : Option LeafCache :=
  let o := v.origin 8
  s.leafCache.find? fun c => c.core == r.unit && c.asid == r.asid && c.root == t.root && c.x == BitVec.ofInt 32 o.x && c.y == BitVec.ofInt 32 o.y && c.z == BitVec.ofInt 32 o.z

/-- The walk of R186 from the root table, with the checks of R187. -/
def State.walkRoot (s : State) (r : Reader) (t : TreeDesc) (v : Vox) : Except (Nat × Nat) Look := do
  let f ← s.rootFind r t (v.origin 512)
  match f.node with
  | none => return { val := t.bg.toNat, free := f.free, tr := f.tr }
  | some n =>
    if n = 0 ∨ n ≥ 2 ^ t.nbits then return { corrupt with tr := f.tr }
    s.walkNode r t v (t.nodep.toNat + 576 * n) f.tr 3

/-- lookup(v) of R186: the walk begins at the leaf, or at the node that supplies the value, where the reader's cache names it (R189). -/
def State.lookup (s : State) (r : Reader) (t : TreeDesc) (v : Vox) : Except (Nat × Nat) Look :=
  match s.cached? r t v with
  | some c => match c.leaf, c.anc with
    | some va, _ => match slotOf t.leafp.toNat (leafStride t.vfmt) (2 ^ t.lbits) va.toNat with
      | some q => s.readLeaf r t v va.toNat q none {}
      | none => s.walkRoot r t v
    | none, some (va, l) => s.walkNode r t v va.toNat {} l
    | none, none => s.walkRoot r t v
  | none => s.walkRoot r t v

/-! ### The leaf-pointer cache (R189) -/

/-- A core's field unit keeps the result of a walk to a leaf; the entry used last stands first, and the last
of 2,048 leaves. -/
def State.cacheLeaf (s : State) (core asid : Nat) (t : TreeDesc) (v : Vox) (k : Look) : State :=
  let o := v.origin 8
  let e : LeafCache :=
    { core := core, asid := asid, root := t.root, x := BitVec.ofInt 32 o.x, y := BitVec.ofInt 32 o.y, z := BitVec.ofInt 32 o.z, leaf := k.leaf.map (BitVec.ofNat 64)
      anc := if k.leaf.isSome then none else k.deep.map fun n => (BitVec.ofNat 64 n.1.va, n.1.level) }
  let rest := s.leafCache.filter fun c => !(c.core == core && c.asid == asid && c.root == e.root && c.x == e.x && c.y == e.y && c.z == e.z)
  let mine := rest.filter fun c => c.core == core
  let keep := if mine.length ≥ 2048 then (match mine.getLast? with | some z => rest.erase z | none => rest) else rest
  { s with leafCache := e :: keep }

/-- The broadcast of an insertion (R189, R198): no cache keeps the leaf as absent. -/
def State.dropAbsent (s : State) (root : DWord) (v : Vox) : State :=
  let o := v.origin 8
  { s with leafCache := s.leafCache.filter fun c =>
      !(c.root == root && c.leaf.isNone && c.x == BitVec.ofInt 32 o.x && c.y == BitVec.ofInt 32 o.y && c.z == BitVec.ofInt 32 o.z) }

/-! ### Field words (R190, R191, R203) -/

/-- A die takes a copy of a line from its home as one action, where neither has a request on it: exclusive where no die holds the
line and it is not monitored, else shared (R272, log 7). Lines that carry the data cross the links, and the lookup of the far-line cache
is counted (R271, R280, R286). -/
def State.shareNow (s : State) (d home l : Nat) : State :=
  let x := s.dir l home
  let put := fun (s : State) (y : Dir) (st : LineSt) =>
    let data := (s.heldLine l).getD (Memory.line s.mem l)
    (s.setDir y).setDieLine d { line := l, st := st, data := data, lw := (s.valueTimes l).1, gw := (s.valueTimes l).2, last := s.tsc }
      |>.carryLine home d l data
  let mine := s.dieLine d l
  if mine.st != .I then s.fromFlc d l
  else if !mine.held.isEmpty || mine.atHomeBusy || !x.st.stable || !x.queue.isEmpty then s
  else
    let s := if (s.die d).flc != 0 && home != d then s.count d cFlcMiss 1 else s
    if x.st == .I && !s.monitored l then put s { x with st := .E, owner := d, sharers := [] } .E
    else if !x.st.owned then put s { x with st := .S, sharers := insertNat d x.sharers } .S
    else
      let o := s.dieLine x.owner l
      if !o.idle then s
      else
        let dirty := o.st == .M || o.st == .O
        put (((s.setDieLine x.owner { o with st := if dirty then .O else .S, own := none }).count x.home cDirFwd 1).carryLine x.owner home l o.data)
          { x with st := if dirty then .O else .S, sharers := insertNat d (insertNat x.owner x.sharers) } .S

/-- A core's field unit has read a line: the core's L1 takes it under a lease unless it has it, or a lease may not be given now
(R202, R217, R220). The answer carries the completion times that the reading returned. -/
def State.fieldLine (s : State) (core asid home l : Nat) : State × Nat × Nat :=
  let d := coreDie core
  match s.l1Hit core l with
  | some x => (s.touch d l, if s.tsc ≤ x.gw then (x.lw, x.gw) else (0, 0))
  | none =>
    let t := s.valueTimes l
    let s1 := s.shareNow d home l
    let x := s1.dieLine d l
    let held := x.st == .S || x.st == .E || x.st == .O || x.st == .M
    let noLease := !held || x.own.isSome || s.pendingOn core l || s.ownWaits d l
    let s2 := if noLease then s1
      else s1.grantLease core { core := core, line := l, expiry := s.tsc + s.leaseOf asid, data := x.data, lw := t.1, gw := t.2, poison := s.poisonLines.contains l }
    (s2.touch d l, t)

/-- The lines of device memory under some reads, with their home dies. -/
def State.readLines (s : State) (r : Reader) (reads : List (Nat × Nat)) : List (Nat × Nat) :=
  reads.foldl (fun ls x => match s.translateAll r.unit r.die r.asid x.1 x.2 { r := true } with
    | .error _ => ls
    | .ok ps => (ps.flatMap fun p => if p.1.dev || p.1.host.isSome then [] else (linesOf p.1.pa p.2).map fun l => (l, p.1.home)).foldl
        (fun ls y => if ls.contains y then ls else ls ++ [y]) ls) []

/-- The write completion times that some reads meet (R217). -/
def State.readTimes (s : State) (r : Reader) (reads : List (Nat × Nat)) : Nat × Nat :=
  (s.readLines r reads).foldl (fun t x => (max t.1 (s.valueTimes x.1).1, max t.2 (s.valueTimes x.1).2)) (0, 0)

/-- A field unit keeps the results of its walks, in their order: not of one that a check stopped, nor of one that met a write which is
not yet complete everywhere, for a leased line may still hold what was there before it (R189, R199, R217). -/
def State.cacheWalks (s : State) (r : Reader) (t : TreeDesc) (ks : List (Vox × Look)) : State :=
  ks.foldl (fun s x => if x.2.code = 0 && (s.readTimes r x.2.tr.reads).2 == 0 then s.cacheLeaf r.unit r.asid t x.1 x.2 else s) s

/-- What follows the reads of a field word: its core's L1 and the thread's completion times (R202, R217). -/
def State.afterReads (s : State) (l : Lane) (reads : List (Nat × Nat)) : State :=
  let r : State × Nat × Nat := (s.readLines { unit := l.g.core, die := coreDie l.g.core, asid := l.g.asid } reads).foldl (fun a x =>
    let y := a.1.fieldLine l.g.core l.g.asid x.2 x.1
    (y.1, max a.2.1 y.2.1, max a.2.2 y.2.2)) (s, 0, 0)
  (r.1.owe l.g.gid l.cur.tid s.nextId r.2.1 r.2.2).updLane l fun t => { t with lw := max t.lw r.2.1, gw := max t.gw r.2.2 }

/-- The address at which the first of some reads finds poison; 0 where none does. -/
def State.poisonVa? (s : State) (r : Reader) (reads : List (Nat × Nat)) : DWord :=
  match reads.find? fun x => match s.rd r x.1 x.2 with | .ok (_, p) => p | .error _ => false with
  | some x => BitVec.ofNat 64 x.1
  | none => 0

/-- What a field word has done: its result and flags, poison and where it came from, the write completion time of what it wrote, and
the state after. -/
structure FieldDone where
  words : List Word
  flags : Flags := 0
  bad : Bool := false
  va : DWord := 0
  gw : Nat := 0
  s : State

/-- A fault of a field word: address, kind, and access kind. -/
abbrev FieldFault := Nat × Nat × Nat

/-- Turns a read's fault into a field word's. -/
def asRead {α : Type} (x : Except (Nat × Nat) α) : Except FieldFault α :=
  match x with
  | .error e => .error (e.1, e.2, 0)
  | .ok v => .ok v

/-- The reader of a lane's field unit. -/
def Lane.reader (l : Lane) : Reader := { unit := l.g.core, die := coreDie l.g.core, asid := l.g.asid, own := some (l.g.gid, l.cur.tid) }

/-- A field word's result after its reads. -/
def State.doneReading (s : State) (l : Lane) (tr : Trail) (ws : List Word) (fl : Flags := 0) : FieldDone :=
  { words := ws, flags := fl, bad := tr.bad, va := if tr.bad then s.poisonVa? l.reader tr.reads else 0, s := s.afterReads l tr.reads }

/-- The trail of several lookups. -/
def trailOf (ks : List Look) : Trail := { bad := ks.any (·.bad), reads := ks.flatMap fun k => k.tr.reads }

/-- Puts a field word in flight: its count, its pending destination, and its result (R45, R190). -/
def State.fieldStart (s : State) (l : Lane) (o : FieldOp) : State :=
  let s1 := s.beginOp l o.cls o.dst o.dcnt
  { s1 with
    fieldOps := s1.fieldOps ++ [{ o with id := s1.nextId, gid := l.g.gid, tid := l.cur.tid, asid := l.g.asid, shadow := l.src.popen }]
    nextId := s1.nextId + 1 }

/-- A field word in flight, before its thread is known. -/
def blankOp (fn dst dcnt cls : Nat) : FieldOp :=
  { id := 0, gid := 0, tid := 0, asid := 0, fn := fn, dst := dst, dcnt := dcnt, shadow := false, cls := cls }

/-- A thread's field words take effect in its program order (R191): one behind a request that the allocator
engine has waits. -/
def State.behindAlloc (s : State) (l : Lane) : Bool := s.fieldOps.any fun o => o.gid == l.g.gid && o.tid == l.cur.tid && o.result.isNone

/-- A field word for each thread of the pack (R190, R191): its count, its poisoned operands (R383, R384), tandem
mode (R398), its faults (R203), and its effect. `sig` is none for a word that makes no access. DEDUCED (log 46). -/
def fieldWord (i : Instr) (fn dst dcnt cls : Nat) (addrRegs : Lane → List Nat) (dataRegs : List Nat) (sig : Lane → Option (List Nat))
    (eff : Lane → Bool → State → Except FieldFault FieldDone) (s : State) : Res :=
  runWord i (fun l s =>
    if overCount l cls then .error (.park (.counter cls))
    else if s.behindAlloc l then .error .hold
    else match l.consume (addrRegs l), l.consume dataRegs with
      | .error e, _ => .error e
      | _, .error e => .error e
      | .ok true, _ => .ok s
      | .ok false, .ok dp =>
        let tan : Except Stop Tan := match sig l with | some x => l.tandem s ((0x100 + fn) :: x) | none => .ok .solo
        match tan with
        | .error e => .error e
        | .ok (.value ws p) =>
          let fl := (ws.getLastD 0).setWidth 5
          let s1 := s.updLane l fun t => (t.countAccess l.g.role).raise fl
          .ok (s1.fieldStart l { blankOp fn dst dcnt cls with result := some ws.dropLast, poison := p })
        | .ok .wait => .ok s
        | .ok tan =>
          match eff l dp s with
          | .error (va, k, a) => 
            .error (if k = fkWait then .hold else tanFault tan (BitVec.ofNat 64 va) k (12 + a) ((0x100 + fn) :: (sig l).getD []))
          | .ok r =>
            let s1 := r.s.updLane l fun t => t.raise r.flags
            let s2 := s1.fieldStart l { blankOp fn dst dcnt cls with result := some r.words, gw := r.gw, poison := r.bad, va := r.va }
            match tan, sig l with
            | .lead k, some x =>
              let s3 := s2.updLane l fun t => t.countAccess l.g.role
              .ok (s3.addEntry l { tid := 0, k := k, sig := (0x100 + fn) :: x, made := 0, value := some (r.words ++ [r.flags.setWidth 32], r.bad) })
            | _, _ => .ok s2) s

/-- The words of a lane's operand group as numbers. -/
def Lane.nums (l : Lane) (a n : Nat) : List Nat := (l.src.words a n).map (·.toNat)

/-- The tree that a slot binds (R191). -/
def Lane.tree (l : Lane) (slot : Nat) : Option TreeDesc := (l.g.walkers.find? fun p => p.1 == slot).map (·.2)

/-- The hash grid that a slot binds. -/
def Lane.grid (l : Lane) (slot : Nat) : Option GridDesc := (l.g.grids.find? fun p => p.1 == slot).map (·.2)

/-! ### Binding (R192) -/

/-- Binds or unbinds a group's walker slot. -/
def Group.bindWalker (g : Group) (slot : Nat) (t : Option TreeDesc) : Group :=
  let rest := g.walkers.filter fun p => p.1 != slot
  { g with walkers := match t with | some t => rest ++ [(slot, t)] | none => rest }

/-- Binds or unbinds a group's hash-grid slot. -/
def Group.bindGrid (g : Group) (slot : Nat) (t : Option GridDesc) : Group :=
  let rest := g.grids.filter fun p => p.1 != slot
  { g with grids := match t with | some t => rest ++ [(slot, t)] | none => rest }

/-- The lane of the pack's lowest-numbered thread. -/
def State.lowLane (s : State) (l : Lane) : Lane := (s.lane? (s.issue.pack.foldl min l.cur.tid)).getD l

/-- A binding word: the pack's lowest-numbered thread gives the address, the slot is bound once, and every thread of the
pack gets its status (R192), poisoned where the descriptor is uncorrectable (R203). `set` binds what the descriptor's bytes say, and
answers whether they are accepted; `busy` tells whether they name a tree whose sweep is running. -/
def bindEffect (a : Nat) (busy : List Byte → Bool) (set : Nat → List Byte → Option (Group → Group)) (unset : Group → Group) (l : Lane)
    (s : State) : Except FieldFault FieldDone :=
  match s.issue.bound with
  | some (st, bad, va) => .ok { words := [fieldStatus st 0], bad := bad, va := va, s := s }
  | none =>
    let low := s.lowLane l
    let va := low.src.group a 2
    let put := fun (st : Nat) (f : Group → Group) (tr : Trail) =>
      let s1 := s.updGroup l.g.gid f
      Except.ok (({ s1 with issue := { s1.issue with bound := some (st, tr.bad, if tr.bad then BitVec.ofNat 64 va else 0) } } : State).doneReading l tr
        [fieldStatus st 0])
    if low.src.anyPoison [a, a + 1] then .ok { words := [0], bad := true, s := s }
    else if va = 0 then put 0 unset {}
    else if va % 64 ≠ 0 then put fsBaddesc unset {}
    else match s.rd l.reader va 64 with
      | .error e => .error (e.1, e.2, 0)
      | .ok (b, p) =>
        if busy b then .error (va, fkWait, 0) else
        match set va b with
        | some f => if p then put fsBaddesc unset { bad := true, reads := [(va, 64)] } else put 0 f { reads := [(va, 64)] }
        | none => put fsBaddesc unset { bad := p, reads := [(va, 64)] }

/-- A binding word puts its status in flight (R192): the address of the pack's lowest-numbered thread is used. -/
def bindWord (i : Instr) (fn d a : Nat) (busy : State → List Byte → Bool) (set : Nat → List Byte → Option (Group → Group)) (unset : Group → Group) (s : State) : Res :=
  fieldWord i fn d 1 0 (fun l => if s.issue.pack.foldl min l.cur.tid = l.cur.tid then [a, a + 1] else []) [] (fun _ => none)
    (fun l _ s => bindEffect a (busy s) set unset l s) s

/-- Whether a tree's sweep is running: held under a fault, or with its writes not yet past their GWCT (R192, R200). -/
def State.sweeping (s : State) (root : DWord) : Bool := s.marked.any fun m => m.tree.root == root && (m.held || m.swept)

/-- VBIND (R185, R192). -/
def execVbind (c : BitVec 1) (d a : BitVec 6) (sl : BitVec 3) (s : State) : Res :=
  bindWord (.vbind c d a sl) 0 d.toNat a.toNat (fun s b => ((parseTree 0 b).map fun t => s.sweeping t.root).getD false) (fun va b => (parseTree va b).map fun t => fun g => g.bindWalker sl.toNat (some t))
    (fun g => g.bindWalker sl.toNat none) s

/-! ### Words that read voxels -/

/-- A word that reads the tree of a slot; an unbound slot gives its own result. -/
def treeEffect (slot : Nat) (unbound : List Word) (eff : Lane → TreeDesc → State → Except FieldFault FieldDone) (l : Lane) (s : State) : Except FieldFault FieldDone :=
  match l.tree slot with
  | none => .ok { words := unbound, s := s }
  | some t => eff l t s

/-- A word that reads a tree (R190, R191). `an` registers of its group A are read; the others are ignored. -/
def treeWord (i : Instr) (fn d dn a an slot : Nat) (unbound : List Word) (eff : Lane → TreeDesc → State → Except FieldFault FieldDone) (s : State) : Res :=
  fieldWord i fn d dn 0 (fun _ => (List.range an).map (a + ·)) [] (fun l => some (slot :: l.nums a an)) (fun l _ s => treeEffect slot unbound eff l s) s

/-- The voxel that a lane's quad names. -/
def Lane.vox (l : Lane) (a : Nat) : Vox := voxOf (l.src.reg a) (l.src.reg (a + 1)) (l.src.reg (a + 2))

/-- What VLD reads: the voxel's value, its status word and the leaf's slot (R193). DEDUCED (log 47). -/
def vldEffect (a : Nat) (l : Lane) (t : TreeDesc) (s : State) : Except FieldFault FieldDone := do
  let k ← asRead (s.lookup l.reader t (l.vox a))
  let st := (if k.act then 1 else 0) + (if k.miss then 256 else 0) + (if k.tile then 512 else 0) + k.src * 4096
  return (s.cacheWalks l.reader t [(l.vox a, k)]).doneReading l k.tr (natToWords 2 k.val ++ [fieldStatus k.code st, BitVec.ofNat 32 k.slot])

/-- VLD (R193). -/
def execVld (c : BitVec 1) (d a : BitVec 6) (sl : BitVec 3) (s : State) : Res :=
  treeWord (.vld c d a sl) 1 d.toNat 4 a.toNat 3 sl.toNat [0, 0, fieldStatus fsUnbound 0, 0xFFFFFFFF] (vldEffect a.toNat) s

/-- The seven voxels of VSTEN7, in slot order (R194). -/
def stencil (v : Vox) : List Vox :=
  [v, { v with x := v.x - 1 }, { v with x := v.x + 1 }, { v with y := v.y - 1 }, { v with y := v.y + 1 }, { v with z := v.z - 1 }, { v with z := v.z + 1 }]

/-- An FP32 value of a tree of VFMT 0 or 1: an FP16 value is widened exactly. -/
def widen (vfmt v : Nat) : Nat := if vfmt = 1 then (cvtFF f16 f32 .rne false v).1 else v % 2 ^ 32

/-- What VSTEN7 reads: the seven voxels and their status word (R194). Beside a nonzero code the status word's other bits are 0. DESIGN
CHOICE (log 89). -/
def vstenEffect (a : Nat) (l : Lane) (t : TreeDesc) (s : State) : Except FieldFault FieldDone :=
  if t.vfmt ≥ 2 then .ok { words := List.replicate 7 0 ++ [fieldStatus fsFormat 0], s := s }
  else do
    let vs := stencil (l.vox a)
    let ks ← vs.mapM fun v => if v.inSpace then asRead (s.lookup l.reader t v) else .ok { val := t.bg.toNat }
    let s1 := s.cacheWalks l.reader t ((vs.zip ks).filter fun x => x.1.inSpace)
    match ks.find? fun k => k.code != 0 with
    | some k => return s1.doneReading l (trailOf ks) (List.replicate 7 0 ++ [fieldStatus k.code 0])
    | none =>
      let mask := fun (f : Look → Bool) => ks.foldr (fun k n => (if f k then 1 else 0) + 2 * n) 0
      return s1.doneReading l (trailOf ks) ((ks.map fun k => BitVec.ofNat 32 (widen t.vfmt k.val)) ++ [fieldStatus 0 (mask (·.act) + 256 * mask (·.miss))])

/-- VSTEN7 (R194). -/
def execVsten7 (c : BitVec 1) (d a : BitVec 6) (sl : BitVec 3) (s : State) : Res :=
  treeWord (.vsten7 c d a sl) 2 d.toNat 8 a.toNat 3 sl.toNat (List.replicate 7 0 ++ [fieldStatus fsUnbound 0]) (vstenEffect a.toNat) s

/-- Floor of a finite value. -/
def floorOf (s : Bool) (m : Nat) (e : Int) : Int :=
  if e ≥ 0 then signed s (m * 2 ^ e.toNat) else signed s m / (2 ^ (-e).toNat : Nat)

/-- An integer as an exact value. -/
def exactInt (i : Int) : FVal := .fin (decide (i < 0)) i.natAbs 0

/-- A coordinate split into its cell and the two weights (R195, R206): floor, rne(p - c), rne(1 - f); none for a
value that is not finite. -/
def splitAxis (p : Nat) : Option (Int × Nat × Nat × Flags) :=
  match fdec f32 p with
  | .fin s m e =>
    let c := floorOf s m e
    let f := faddV f32 .rne (.fin s m e) (exactInt (-c))
    let g := faddV f32 .rne (exactInt 1) (fdec f32 f.1).neg
    some (c, f.1, g.1, f.2 ||| g.2)
  | _ => none

/-- The weight of a corner: the product of one factor per axis, each product rounded (R195, R206). -/
def cornerWeight (fs : List Nat) : Nat × Flags :=
  match fs with
  | [] => (0, 0)
  | f :: fs => fs.foldl (fun a g => let r := fmul f32 .rne a.1 g; (r.1, a.2 ||| r.2)) (f, 0)

/-- The corners of a cell: for each the voxel and its weight (R195). -/
def corners (ax : List (Int × Nat × Nat × Flags)) : List (List Int × Nat × Flags) :=
  (List.range (2 ^ ax.length)).map fun m =>
    let sel := (List.range ax.length).zip ax |>.map fun x =>
      let b := bits m x.1 1
      (x.2.1 + (b : Int), if b = 1 then x.2.2.1 else x.2.2.2.1)
    let w := cornerWeight (sel.map (fun x => x.2))
    (sel.map (·.1), w.1, w.2)

/-- Accumulates a corner into a sum: rne(wt * val + acc). -/
def accCorner (f : Fmt) (wt val : FVal) (acc : Nat × Flags) : Nat × Flags :=
  let r := ffmaV f .rne wt val (fdec f acc.1)
  (r.1, acc.2 ||| r.2)

/-- What VSAMP computes: the weighted sum of the eight corners (R195). One that ends with CORRUPT raises no flag (log 83), and the other
bits of its status word are 0 (log 89). DESIGN CHOICE (log 83). -/
def vsampEffect (a : Nat) (l : Lane) (t : TreeDesc) (s : State) : Except FieldFault FieldDone :=
  let nan : List Word := match t.vfmt with
    | 2 => natToWords 2 f64.nan
    | 3 => [BitVec.ofNat 32 f32.nan, BitVec.ofNat 32 f32.nan]
    | _ => [BitVec.ofNat 32 f32.nan, 0]
  match ((l.nums a 3).mapM splitAxis) with
  | none => .ok { words := nan ++ [fieldStatus fsRange 0, 0], flags := fNV, s := s }
  | some ax =>
    if !(ax.all fun x => decide (-(2 ^ 31 : Int) ≤ x.1 ∧ x.1 + 1 < 2 ^ 31)) then
      .ok { words := nan ++ [fieldStatus fsRange 0, 0], flags := fNV, s := s }
    else do
      let cs := corners ax
      let vs := cs.map fun x => ({ x := x.1.getD 0 0, y := x.1.getD 1 0, z := x.1.getD 2 0 } : Vox)
      let ks ← vs.mapM fun v => asRead (s.lookup l.reader t v)
      let s1 := s.cacheWalks l.reader t (vs.zip ks)
      match ks.find? fun k => k.code != 0 with
      | some k => return s1.doneReading l (trailOf ks) [0, 0, fieldStatus k.code 0, 0]
      | none =>
        let fl := ax.foldl (fun f x => f ||| x.2.2.2) 0 ||| cs.foldl (fun f x => f ||| x.2.2) 0
        let sum := fun (f : Fmt) (val : Nat → FVal) =>
          (cs.zip ks).foldl (fun acc x => accCorner f (fdec f32 x.1.2.1) (val x.2.val) acc) ((0, 0) : Nat × Flags)
        let mask := fun (f : Look → Bool) => ks.foldr (fun k n => (if f k then 1 else 0) + 2 * n) 0
        let r : List Word × Flags := match t.vfmt with
          | 2 =>
            let x := sum f64 (fdec f64)
            (natToWords 2 x.1, x.2)
          | 3 =>
            let x := sum f32 fun v => fdec f32 (v % 2 ^ 32)
            let y := sum f32 fun v => fdec f32 (v / 2 ^ 32)
            ([BitVec.ofNat 32 x.1, BitVec.ofNat 32 y.1], x.2 ||| y.2)
          | f =>
            let x := sum f32 (fdec (if f = 1 then f16 else f32))
            ([BitVec.ofNat 32 x.1, 0], x.2)
        return s1.doneReading l (trailOf ks) (r.1 ++ [fieldStatus 0 (mask (·.act) + 256 * mask (·.miss)), 0]) (fl ||| r.2)

/-- VSAMP (R195). -/
def execVsamp (c : BitVec 1) (d a : BitVec 6) (sl : BitVec 3) (s : State) : Res :=
  treeWord (.vsamp c d a sl) 3 d.toNat 4 a.toNat 3 sl.toNat [0, 0, fieldStatus fsUnbound 0, 0] (vsampEffect a.toNat) s

/-! ### VRAY (R196) -/

/-- A ray in index space: origin and direction per axis. -/
structure Ray where
  o : List Nat
  d : List Nat
  tmax : Nat

/-- (w - OF) / S with one rounding (R196). -/
def toIndex (w off sc : Nat) : Nat × Flags :=
  match fdec f32 w, (fdec f32 off).neg with
  | .fin s1 m1 e1, .fin s2 m2 e2 =>
    let r := sumExact s1 m1 e1 s2 m2 e2
    fdivV f32 (.fin (decide (r.1 < 0)) r.1.natAbs r.2) (fdec f32 sc)
  | _, _ => (f32.nan, 0)

/-- floor(rne(d t + o) + 0.5) on an axis; none where it is not finite. -/
def rayCell (d t o : Nat) : Option Int × Flags :=
  let r := ffma f32 .rne d t o
  match fdec f32 r.1 with
  | .fin s m e =>
    let x := sumExact s m e false 1 (-1)
    (some (floorOf (decide (x.1 < 0)) x.1.natAbs x.2), r.2)
  | _ => (none, r.2)

/-- Clamps a cell to a box's range on an axis; an infinite value goes to the end it lies beyond. -/
def clampCell (d t o : Nat) (lo hi : Int) : Int × Flags :=
  let r := ffma f32 .rne d t o
  match fdec f32 r.1 with
  | .fin s m e =>
    let x := sumExact s m e false 1 (-1)
    (max lo (min hi (floorOf (decide (x.1 < 0)) x.1.natAbs x.2)), r.2)
  | .inf true => (lo, r.2)
  | _ => (hi, r.2)

/-- rne((face - o) / d) on an axis of a box that begins at g and spans n voxels (R196). -/
def exitAxis (o d : Nat) (g : Int) (n : Nat) : Nat × Flags :=
  let twice : Int := if fsign f32 d then 2 * g - 1 else 2 * (g + n) - 1
  match (fdec f32 o).neg with
  | .fin s m e =>
    let r := sumExact (decide (twice < 0)) twice.natAbs (-1) s m e
    fdivV f32 (.fin (decide (r.1 < 0)) r.1.natAbs r.2) (fdec f32 d)
  | _ => (f32.nan, 0)

/-- exit(box): the least exit parameter and its axis; ties go to x, then y, then z (R196). -/
def exitBox (r : Ray) (g : List Int) (n : Nat) : Nat × Nat × Flags :=
  (List.range 3).foldl (fun (best : Nat × Nat × Flags) a =>
    if (fdec f32 (r.d.getD a 0)).isZero then best
    else
      let x := exitAxis (r.o.getD a 0) (r.d.getD a 0) (g.getD a 0) n
      if fltV (fdec f32 x.1) (fdec f32 best.1) then (x.1, a, best.2.2 ||| x.2) else (best.1, best.2.1, best.2.2 ||| x.2))
    (f32.inf false, 0, 0)

/-- How a ray's step ends: t, its exit, what D+2 holds, the hit code, the level and the status code. -/
structure RayEnd where
  t : Nat
  exit : Nat
  what : Nat := 0
  hit : Nat := 0
  level : Nat := 0
  code : Nat := 0
  flags : Flags := 0
  walks : List (Vox × Look) := []

/-- Crosses empty boxes until a hit, the end, or 64 crossings (R196). -/
def State.rayLoop (s : State) (rd : Reader) (tr : TreeDesc) (r : Ray) (t : Nat) (u : List Int) (fl : Flags) (ws : List (Vox × Look)) : Nat → Except (Nat × Nat) RayEnd
  | 0 => .ok { t := t, exit := t, hit := 3, flags := fl, walks := ws }
  | n + 1 => do
    let v : Vox := { x := u.getD 0 0, y := u.getD 1 0, z := u.getD 2 0 }
    let k ← s.lookup rd tr v
    let ws := ws ++ [(v, k)]
    if k.code ≠ 0 then return { t := 0, exit := 0, code := k.code, flags := fl, walks := ws }
    let span : Nat := 2 ^ k.shift
    let g := u.map fun c => c - c % (span : Int)
    let ex := exitBox r g span
    let fl := fl ||| ex.2.2
    if k.leaf.isSome then return { t := t, exit := ex.1, what := k.slot, hit := 1, flags := fl, walks := ws }
    if k.tile && k.act then return { t := t, exit := ex.1, what := k.val % 2 ^ 32, hit := 2, level := k.src, flags := fl, walks := ws }
    if ex.1 = f32.inf false ∨ fltV (fdec f32 r.tmax) (fdec f32 ex.1) then return { t := r.tmax, exit := r.tmax, flags := fl, walks := ws }
    let t1 := if fltV (fdec f32 t) (fdec f32 ex.1) then ex.1 else t
    let cs := (List.range 3).map fun a =>
      let lo := g.getD a 0
      if a = ex.2.1 then ((if fsign f32 (r.d.getD a 0) then lo - 1 else lo + (span : Int)), (0 : Flags))
      else clampCell (r.d.getD a 0) t1 (r.o.getD a 0) lo (lo + (span : Int) - 1)
    let fl := cs.foldl (fun f x => f ||| x.2) fl
    let u1 := cs.map (·.1)
    if !(u1.all fun c => decide (-(2 ^ 31 : Int) ≤ c ∧ c < 2 ^ 31)) then return { t := t1, exit := t1, flags := fl, walks := ws }
    s.rayLoop rd tr r t1 u1 fl ws n

/-- What VRAY computes: the walk of a ray through the tree (R196). -/
def vrayEffect (a : Nat) (l : Lane) (t : TreeDesc) (s : State) : Except FieldFault FieldDone :=
  let w := l.nums a 8
  let out := fun (e : RayEnd) =>
    (s.cacheWalks l.reader t e.walks).doneReading l (trailOf (e.walks.map (·.2)))
      [BitVec.ofNat 32 e.t, BitVec.ofNat 32 e.exit, BitVec.ofNat 32 e.what, fieldStatus e.code (e.hit + 16 * e.level)] e.flags
  if !(w.all f32Finite) then .ok (out { t := 0, exit := 0, code := fsRange, flags := fNV })
  else
    let os := (List.range 3).map fun k => toIndex (w.getD k 0) ((t.off.getD k 0).toNat) ((t.sc.getD k 0).toNat)
    let ds := (List.range 3).map fun k => fdivV f32 (fdec f32 (w.getD (3 + k) 0)) (fdec f32 (t.sc.getD k 0).toNat)
    let fl := (os ++ ds).foldl (fun f x => f ||| x.2) 0
    let tmin := w.getD 6 0
    let tmax := w.getD 7 0
    if fltV (fdec f32 tmax) (fdec f32 tmin) then .ok (out { t := tmin, exit := tmin, flags := fl })
    else
      let us := (List.range 3).map fun k => rayCell ((ds.getD k (0, 0)).1) tmin ((os.getD k (0, 0)).1)
      let fl := us.foldl (fun f x => f ||| x.2) fl
      match us.mapM (·.1) with
      | none => .ok (out { t := 0, exit := 0, code := fsRange, flags := fl })
      | some u =>
        if !(u.all fun c => decide (-(2 ^ 31 : Int) ≤ c ∧ c < 2 ^ 31)) then .ok (out { t := 0, exit := 0, code := fsRange, flags := fl })
        else match s.rayLoop l.reader t { o := os.map (·.1), d := ds.map (·.1), tmax := tmax } tmin u fl [] 64 with
          | .error e => .error (e.1, e.2, 0)
          | .ok e => .ok (out e)

/-- VRAY (R196). The 64th crossing ends the step with LIMIT. -/
def execVray (c : BitVec 1) (d a : BitVec 6) (sl : BitVec 3) (s : State) : Res :=
  treeWord (.vray c d a sl) 4 d.toNat 4 a.toNat 8 sl.toNat [0, 0, 0, fieldStatus fsUnbound 0] (vrayEffect a.toNat) s

/-- What VLEAF answers: the leaf that the group was dealt, where the slot binds its tree (R197). -/
def Lane.leafWords (l : Lane) (slot : Nat) : List Word :=
  match l.g.leaf, l.tree slot with
  | some f, some t => if t.root = f.root then [f.x, f.y, f.z, BitVec.ofNat 32 f.slot] else [0x7FFFFFFF, 0x7FFFFFFF, 0x7FFFFFFF, 0xFFFFFFFF]
  | _, _ => [0x7FFFFFFF, 0x7FFFFFFF, 0x7FFFFFFF, 0xFFFFFFFF]

/-- VLEAF (R197): reads no memory. -/
def execVleaf (c : BitVec 1) (d : BitVec 6) (sl : BitVec 3) (s : State) : Res :=
  fieldWord (.vleaf c d sl) 5 d.toNat 4 0 (fun _ => []) [] (fun _ => none) (fun l _ s => .ok { words := l.leafWords sl.toNat, s := s }) s

/-! ### Edits of voxels (R201) -/

/-- Translates an edit's bytes and writes what a function makes of the old ones, through the core's own L1 copy (R202, R217): the old
value, the GWCT of the write, and the state after. The bytes of an edit lie in one line. -/
def State.fieldWrite (s : State) (l : Lane) (va n acc : Nat) (f : Nat → Nat) (poison : Bool) : Except FieldFault (Nat × Nat × State) :=
  if s.fieldLogged l.reader.own va n then .error (va, fkWait, acc) else
  match s.reach l.g.core (coreDie l.g.core) l.g.asid va n { r := acc == 2, w := true } with
  | .error e => .error (e.1, e.2, acc)
  | .ok ps =>
    let old := bytesToNat (ps.flatMap fun p => s.readTrans p.1 p.2)
    let bs := natToBytes n (f old)
    let r := ps.foldl (fun (a : State × Nat × List Byte) p =>
      let s0 := a.1.writeTrans (coreDie l.g.core) l.g.asid p.1 (a.2.2.take p.2)
      let s1 := if p.1.dev || p.1.host.isSome then s0
        else (s0.writeL1 l.g.core (p.1.pa / 128) (p.1.pa % 128) (a.2.2.take p.2) (a.1.lwctOf (coreDie l.g.core) p.1 p.2) (a.1.gwctOf p.1 p.2) poison).touch (coreDie l.g.core) (p.1.pa / 128)
      let s2 := if poison && !p.1.dev then s1.poisonLine (p.1.cell / 128) else s1
      (s2, max a.2.1 (a.1.gwctOf p.1 p.2), a.2.2.drop p.2)) (s, 0, bs)
    .ok (old, r.2.1, r.1)

/-- An edit of a voxel of a present leaf: a status code, or what `act` does with the leaf's address and the
voxel's index. A result that rests on uncorrectable data is poisoned (R203). -/
def editEffect (a slot : Nat) (act : Lane → Bool → TreeDesc → Nat → Nat → State → Except FieldFault FieldDone) (l : Lane) (dp : Bool) (s : State) : Except FieldFault FieldDone :=
  let stop := fun (code : Nat) => Except.ok { words := [fieldStatus code 0], s := s }
  match l.tree slot with
  | none => stop fsUnbound
  | some t =>
    if t.rdonly then stop fsRdonly
    else match s.lookup l.reader t (l.vox a) with
      | .error e => .error (e.1, e.2, 0)
      | .ok k =>
        let s1 := s.cacheWalks l.reader t [(l.vox a, k)]
        if k.code ≠ 0 then .ok (s1.doneReading l k.tr [fieldStatus k.code 0])
        else match k.leaf with
          | none => .ok (s1.doneReading l k.tr [fieldStatus fsMissing 0])
          | some va =>
            let seen := s1.doneReading l k.tr []
            (act l dp t va (l.vox a).index seen.s).map fun r => if k.bad then { r with bad := true, va := seen.va } else r

/-- A word that edits a voxel (R201). -/
def editWord (i : Instr) (fn d a an slot : Nat) (dataRegs : List Nat) (act : Lane → Bool → TreeDesc → Nat → Nat → State → Except FieldFault FieldDone) (s : State) : Res :=
  fieldWord i fn d 1 0 (fun _ => (List.range 3).map (a + ·)) dataRegs (fun l => some (slot :: (l.nums a 3 ++ l.nums (a + 4) (an - 4)))) (editEffect a slot act) s

/-- VACT.SET and VACT.CLR (R201). -/
def activeEffect (set : Bool) (l : Lane) (_dp : Bool) (_t : TreeDesc) (va n : Nat) (s : State) : Except FieldFault FieldDone :=
  match s.fieldWrite l (va + 0x20 + n / 8) 1 2 (fun b => (putBit (BitVec.ofNat 8 b) (n % 8) set).toNat) false with
  | .error e => .error e
  | .ok (old, gw, s1) =>
    let p := match s.vread l.g.core (coreDie l.g.core) l.g.asid (va + 0x20 + n / 8) 1 with | .ok (_, p) => p | .error _ => false
    .ok { words := [BitVec.ofNat 32 (bits old (n % 8) 1)], bad := p, va := if p then BitVec.ofNat 64 (va + 0x20 + n / 8) else 0, gw := gw, s := s1 }

/-- A word that changes an active bit (R201). -/
def activeBit (i : Instr) (set : Bool) (d a slot : Nat) (s : State) : Res := editWord i 8 d a 4 slot [] (activeEffect set) s

/-- VACT.CLR (R201). -/
def execVactClr (c : BitVec 1) (d a : BitVec 6) (sl : BitVec 3) (s : State) : Res := activeBit (.vactClr c d a sl) false d.toNat a.toNat sl.toNat s
/-- VACT.SET (R201). -/
def execVactSet (c : BitVec 1) (d a : BitVec 6) (sl : BitVec 3) (s : State) : Res := activeBit (.vactSet c d a sl) true d.toNat a.toNat sl.toNat s

/-- What VST does: the voxel's bytes are written, its active bit stays (R201). -/
def storeEffect (a : Nat) (l : Lane) (dp : Bool) (t : TreeDesc) (va n : Nat) (s : State) : Except FieldFault FieldDone :=
  let es := vfmtBytes t.vfmt
  match s.fieldWrite l (va + 0x60 + n * es) es 1 (fun _ => l.src.group (a + 4) 2) dp with
  | .error e => .error e
  | .ok (_, gw, s1) => .ok { words := [0], gw := gw, s := s1 }

/-- VST (R201). -/
def execVst (c : BitVec 1) (d a : BitVec 6) (sl : BitVec 3) (s : State) : Res :=
  editWord (.vst c d a sl) 9 d.toNat a.toNat 6 sl.toNat [a.toNat + 4, a.toNat + 5] (storeEffect a.toNat) s

/-- FIELD_WORD_COMPLETE (R190, R217): past the GWCT of its writes the word's result returns, its destination is
written, and its count falls. -/
def execFieldWordComplete (id : Nat) (s : State) : Res :=
  match s.fieldOps.find? fun o => o.id == id with
  | none => notEnabled
  | some o =>
    match o.result with
    | none => notEnabled
    | some ws =>
      if o.gw ≠ 0 ∧ o.gw ≥ s.tsc then notEnabled
      else
        let rs := (List.range o.dcnt).map (o.dst + ·)
        let recv := fun (t : Thread) =>
          let t := t.finish o.cls
          if t.st = .exited || o.dcnt == 0 then t
          else
            (t.inBank o.shadow fun t => (t.setWords o.dst ws).taint rs [] (entering o.poison o.va)).clearPend rs
        .next ({ s with fieldOps := s.fieldOps.filter fun x => x.id != id }.updThread o.gid o.tid recv)

end Sys2Proof.Machine
end

