-- ==== Sys2Proof/Machine/Alloc.lean ====
section
/-! DEFINITION. The allocator engine: pools (R184), insertions (R198, R199), deletion marks and sweeps (R200), and the
faults that hold its requests (R203). -/

namespace Sys2Proof.Machine

/-- The allocator engine as a reader: it walks the page table for itself. -/
def allocReader (asid : Nat) : Reader := { unit := ctlUnit, die := 0, asid := asid }

/-- Source number of the allocator engine (R388). -/
def allocSrc : Nat := srcNum 0 0x010

/-- The pool header of R184. -/
structure Pool where
  nused : Nat
  lused : Nat
  nnext : Nat
  lnext : Nat
  nfree : Nat
  lfree : Nat
  sweeps : Nat

/-- Reads the pool header. -/
def readPool (b : List Byte) : Pool :=
  { nused := fld b 0 4, lused := fld b 4 4, nnext := fld b 8 4, lnext := fld b 0xC 4, nfree := fld b 0x10 4, lfree := fld b 0x14 4
    sweeps := fld b 0x18 4 }

/-- Bytes of the pool header. -/
def Pool.bytes (p : Pool) : List Byte :=
  natToBytes 4 p.nused ++ natToBytes 4 p.lused ++ natToBytes 4 p.nnext ++ natToBytes 4 p.lnext ++ natToBytes 4 p.nfree
    ++ natToBytes 4 p.lfree ++ natToBytes 4 p.sweeps

/-- What taking slots gives (R184): the slots, the chain's head and NEXT after, or why it cannot. -/
inductive Taken where
  | got (slots : List Nat) (head next : Nat)
  | short
  | damaged
  | spoiled          -- a link of the chain is uncorrectable

/-- Takes n slots of a pool: the freed chain first, then NEXT (R184). -/
def State.takeSlots (s : State) (r : Reader) (base stride count head next : Nat) (have_ : List Nat) : Nat → Except (Nat × Nat) Taken
  | 0 => .ok (.got have_ head next)
  | n + 1 =>
    if head ≠ 0xFFFFFFFF then
      if head = 0 ∨ head ≥ count ∨ have_.contains head then .ok .damaged
      else match s.rd r (base + stride * head) 4 with
        | .error e => .error e
        | .ok (b, p) => if p then .ok .spoiled else s.takeSlots r base stride count (bytesToNat b) next (have_ ++ [head]) n
    else if next < count then s.takeSlots r base stride count head (next + 1) (have_ ++ [next]) n
    else .ok .short

/-- The twelve bytes of an origin. -/
def Vox.bytes (v : Vox) : List Byte := natToBytes 4 (ofInt 32 v.x) ++ natToBytes 4 (ofInt 32 v.y) ++ natToBytes 4 (ofInt 32 v.z)

/-- The parent into which the next structure is published. -/
structure Parent where
  va : Nat
  cm : Nat
  tm : Nat
  am : Nat
  childn : Nat
  child : Nat

/-- A cleared bit of a mask. -/
def clearBit (m i : Nat) : Nat := m - (if bits m i 1 = 1 then 2 ^ i else 0)
/-- A set bit of a mask. -/
def setBit (m i : Nat) : Nat := clearBit m i + 2 ^ i

/-- The writes that publish a structure in its parent: the entry, the masks, the count (R198). -/
def Parent.publish (p : Parent) (va : Nat) : List (Nat × List Byte) :=
  [(p.va + 0x40 + 8 * p.child, natToBytes 8 va),
   (p.va + 0x20, natToBytes 8 (setBit p.cm p.child) ++ natToBytes 8 (clearBit p.tm p.child) ++ natToBytes 8 (clearBit p.am p.child)),
   (p.va + 0xE, natToBytes 2 (p.childn + 1))]

/-- The content of a new node (R198): `tile` is the value and active bit of the tile that covered it. -/
def newNodeBytes (o : Vox) (l parent bg : Nat) (tile : Option (Nat × Bool)) : List Byte :=
  let all := 2 ^ 64 - 1
  let tm := if tile.isSome then all else 0
  let am := match tile with | some (_, true) => all | _ => 0
  o.bytes ++ natToBytes 1 l ++ natToBytes 1 0 ++ natToBytes 2 0 ++ natToBytes 8 parent ++ natToBytes 8 bg ++ natToBytes 8 0 ++ natToBytes 8 tm
    ++ natToBytes 8 am ++ natToBytes 8 0
    ++ (List.range 64).flatMap fun _ => natToBytes 8 (match tile with | some (v, _) => v | none => 0)

/-- The content of a new leaf (R198). -/
def newLeafBytes (o : Vox) (vfmt parent bg : Nat) (tile : Option (Nat × Bool)) : List Byte :=
  let am := match tile with | some (_, true) => 255 | _ => 0
  let v := match tile with | some (v, _) => v | none => bg
  o.bytes ++ natToBytes 1 vfmt ++ natToBytes 1 (vfmtChannels vfmt) ++ natToBytes 2 0 ++ natToBytes 8 parent ++ natToBytes 8 0
    ++ (List.range 64).flatMap (fun _ => natToBytes 1 am) ++ (List.range 512).flatMap fun _ => natToBytes (vfmtBytes vfmt) v

/-- The writes of an insertion, from the top down: every structure in full before the write that publishes it.
`slots` are the node slots for the levels, `leaf` the leaf slot. -/
def buildPath (t : TreeDesc) (v : Vox) (bg : Nat) (tile : Option (Nat × Bool)) (leaf rootEntry : Nat) : Nat → List Nat → Option Parent → List (Nat × List Byte)
  | 0, _, p =>
    let va := t.leafp.toNat + leafStride t.vfmt * leaf
    (va, newLeafBytes (v.origin 8) t.vfmt ((p.map (·.va)).getD 0) bg tile) :: (match p with | some p => p.publish va | none => [])
  | l + 1, slots, p =>
    let slot := slots.headD 0
    let va := t.nodep.toNat + 576 * slot
    let o := v.origin (levelSpan (l + 1))
    let all := 2 ^ 64 - 1
    let pub := match p with
      | some p => p.publish va
      | none => [(rootEntry, o.bytes ++ natToBytes 4 slot)]
    let next : Parent :=
      { va := va, cm := 0, tm := if tile.isSome then all else 0, am := (match tile with | some (_, true) => all | _ => 0), childn := 0, child := v.child (l + 1) }
    (va, newNodeBytes o (l + 1) ((p.map (·.va)).getD 0) bg tile) :: pub ++ buildPath t v bg tile leaf rootEntry l (slots.drop 1) (some next)

/-- A planned request: its slot index, status, and writes. -/
structure Plan where
  slot : Nat := 0
  code : Nat := 0
  created : Bool := false
  writes : List (Nat × List Byte) := []
  bad : Bool := false
  seen : Nat := 0                  -- GWCT of the insertions that the walk met, where it has not passed (R199)

/-- Plans the insertion of the leaf that contains a voxel (R198). Nothing is written where it cannot be supplied whole. Of several
reasons the first here is reported: a status of the walk, a full root table, a damaged chain, a pool that is short. A plan that rests
on uncorrectable data writes nothing, and its result is poisoned (R203). DESIGN CHOICE (log 83). -/
def State.planInsert (s : State) (r : Reader) (t : TreeDesc) (v : Vox) : Except (Nat × Nat) Plan := do
  if t.rdonly then return { code := fsRdonly }
  let k ← s.lookup r t v
  if k.bad then return { code := fsCorrupt, bad := true }
  if k.code ≠ 0 then return { code := k.code }
  match k.leaf with
  | some va =>
    if k.del then
      let (b, _) ← s.rd r (va + 0xE) 2
      return { slot := k.slot, writes := [(va + 0xE, natToBytes 2 (clearBit (bytesToNat b) 0))], seen := (s.readTimes r k.tr.reads).2 }
    return { slot := k.slot, seen := (s.readTimes r k.tr.reads).2 }
  | none =>
    let top := match k.deep with | some (nd, _) => nd.level - 1 | none => 3
    if k.deep.isNone && k.free.isNone then return { code := fsRootfull }
    let (hb, pb) ← s.rd r t.nodep.toNat 0x1C
    if pb then return { code := fsCorrupt, bad := true }
    let p := readPool hb
    let ns ← s.takeSlots r t.nodep.toNat 576 (2 ^ t.nbits) p.nfree p.nnext [] top
    let ls ← s.takeSlots r t.leafp.toNat (leafStride t.vfmt) (2 ^ t.lbits) p.lfree p.lnext [] 1
    match ns, ls with
    | .spoiled, _ => return { code := fsCorrupt, bad := true }
    | _, .spoiled => return { code := fsCorrupt, bad := true }
    | .damaged, _ => return { code := fsCorrupt }
    | _, .damaged => return { code := fsCorrupt }
    | .got slots nf nn, .got leaf lf ln =>
      let tile := if k.tile then some (k.val, k.act) else none
      let bg := match k.deep with | some (nd, _) => vfmtMask t.vfmt nd.bg | none => t.bg.toNat
      let par := k.deep.map fun x =>
        { va := x.1.va, cm := x.1.cm, tm := x.1.tm, am := x.1.am, childn := x.1.childn, child := x.2 : Parent }
      let hdr : Pool := { p with nused := p.nused + top, lused := p.lused + 1, nnext := nn, lnext := ln, nfree := nf, lfree := lf }
      return { slot := leaf.headD 0, created := true, seen := (s.readTimes r k.tr.reads).2
               writes := buildPath t v bg tile (leaf.headD 0) (k.free.getD 0) top slots par ++ [(t.nodep.toNat, hdr.bytes)] }
    | _, _ => return { code := fsPool }

/-- Plans a deletion mark (R200). -/
def State.planDelete (s : State) (r : Reader) (t : TreeDesc) (v : Vox) : Except (Nat × Nat) Plan := do
  if t.rdonly then return { code := fsRdonly }
  let k ← s.lookup r t v
  if k.code ≠ 0 then return { code := k.code, bad := k.bad }
  match k.leaf with
  | none => return { code := fsMissing, bad := k.bad }
  | some va =>
    let (b, _) ← s.rd r (va + 0xE) 2
    return { created := true, writes := [(va + 0xE, natToBytes 2 (setBit (bytesToNat b) 0))], bad := k.bad }

/-- Translates every write of a plan before any is made. -/
def State.canWrite (s : State) (r : Reader) : List (Nat × List Byte) → Except (Nat × Nat) Unit
  | [] => .ok ()
  | x :: xs => match s.translateAll r.unit r.die r.asid x.1 x.2.length { w := true } with
    | .error e => .error e
    | .ok _ => s.canWrite r xs

/-- Makes the writes of a plan, with the greatest GWCT. -/
def State.planWrite (s : State) (r : Reader) (gw : Nat) : List (Nat × List Byte) → State × Nat
  | [] => (s, gw)
  | x :: xs => match s.vwrite r.unit r.die r.asid x.1 x.2 with
    | .error _ => (s, gw)
    | .ok (s1, g) => s1.planWrite r (max gw g) xs

/-- Inserts a leaf for a request (R198): the plan, the state after, and the write completion time. -/
def State.insertLeaf (s : State) (asid : Nat) (t : TreeDesc) (v : Vox) : Except (Nat × Nat × Nat) (Plan × State × Nat) :=
  let r := allocReader asid
  match s.planInsert r t v with
  | .error e => .error (e.1, e.2, 0)
  | .ok p => match s.canWrite r p.writes with
    | .error e => .error (e.1, e.2, 1)
    | .ok _ =>
      let x := s.planWrite r 0 p.writes
      .ok (p, if p.created then x.1.dropAbsent t.root v else x.1, max x.2 p.seen)

/-- Marks the leaf of a voxel for removal (R200). -/
def State.markLeaf (s : State) (asid : Nat) (t : TreeDesc) (v : Vox) : Except (Nat × Nat × Nat) (Plan × State × Nat) :=
  let r := allocReader asid
  match s.planDelete r t v with
  | .error e => .error (e.1, e.2, 0)
  | .ok p => match s.canWrite r p.writes with
    | .error e => .error (e.1, e.2, 1)
    | .ok _ =>
      let x := s.planWrite r 0 p.writes
      let s1 := if p.created && !(s.marked.any fun m => m.asid == asid && m.tree.root == t.root) then
          { x.1 with marked := x.1.marked ++ [{ asid := asid, tree := t }] } else x.1
      .ok (p, s1, x.2)

/-! ### VINS and VDEL -/

/-- A word that the allocator engine carries out: it joins the engine's queue (R198, R200). -/
def allocWord (i : Instr) (fn d dn a slot : Nat) (unbound : List Word) (s : State) : Res :=
  runWord i (fun l s =>
    if overCount l 0 then .error (.park (.counter 0))
    else match l.consume ((List.range 3).map (a + ·)) with   -- the fourth register of the quad is ignored
      | .error e => .error e
      | .ok true => .ok s
      | .ok false =>
        match l.tree slot with
        | none => .ok (s.fieldStart l { blankOp fn d dn 0 with result := some unbound })
        | some t =>
          let v := l.vox a
          let s1 := s.fieldStart l { blankOp fn d dn 0 with tree := some t, x := v.x, y := v.y, z := v.z }
          .ok { s1 with allocQ := s1.allocQ ++ [.word (s1.nextId - 1)] }) s

/-- VINS (R198). -/
def execVins (c : BitVec 1) (d a : BitVec 6) (sl : BitVec 3) (s : State) : Res :=
  allocWord (.vins c d a sl) 6 d.toNat 2 a.toNat sl.toNat [0, fieldStatus fsUnbound 0] s
/-- VDEL (R200). -/
def execVdel (c : BitVec 1) (d a : BitVec 6) (sl : BitVec 3) (s : State) : Res :=
  allocWord (.vdel c d a sl) 7 d.toNat 1 a.toNat sl.toNat [fieldStatus fsUnbound 0] s

/-- Registers that a word of the allocator engine receives. -/
def allocResult (fn : Nat) (p : Plan) : List Word :=
  if fn = 6 then [BitVec.ofNat 32 p.slot, fieldStatus p.code (if p.created then 1 else 0)] else [fieldStatus p.code (if p.created then 1 else 0)]

/-- Serves a VINS or VDEL at the head of the queue; a fault holds it (R203). -/
def State.serveWord_ (s : State) (o : FieldOp) (t : TreeDesc) : State :=
  let v : Vox := { x := o.x, y := o.y, z := o.z }
  match (if o.fn = 6 then s.insertLeaf o.asid t v else s.markLeaf o.asid t v) with
  | .error (va, k, a) =>
    let s1 := s.postFault o.asid va k (12 + a) allocSrc .alloc
    if k ≥ 4 then
      let fail := fun (x : FieldOp) => { x with result := some (allocResult o.fn { code := fsAccess }) }
      { s1 with allocQ := s1.allocQ.drop 1, fieldOps := updWhere (fun x => x.id == o.id) fail s1.fieldOps }
    else { s1 with allocHeld := true }
  | .ok (p, s1, gw) =>
    let done := fun (x : FieldOp) => { x with result := some (allocResult o.fn p), gw := gw, poison := p.bad }
    { s1 with allocQ := s1.allocQ.drop 1, fieldOps := updWhere (fun x => x.id == o.id) done s1.fieldOps }

/-- A request that the context reports as unresolvable gets ACCESS, and nothing is published (R203). -/
def State.failAlloc (s : State) : State :=
  match s.allocQ with
  | .word id :: q =>
    let fail := fun (x : FieldOp) => { x with result := some (allocResult x.fn { code := fsAccess }) }
    { s with allocHeld := false, allocQ := q, fieldOps := updWhere (fun x => x.id == id) fail s.fieldOps }
  | .halo id :: q => { s with allocHeld := false, allocQ := q, arrivals := s.arrivals.filter fun a => a.id != id }
  | [] => { s with allocHeld := false }

/-! ### The sweep (R192, R200) -/

/-- Whether a tree is held: a slot of a group of any context, resident or saved, binds its ROOT, or a leaf launch of it has not ended
(R192). DEDUCED (log 49). -/
def State.treeHeld (s : State) (root : DWord) : Bool :=
  (s.groups.any fun g => g.walkers.any fun w => w.2.root == root) || (s.saved.any fun v => v.roots.contains root)
    || s.spans.any fun x => (x.tree.map fun t => t.root == root).getD false

/-- The slots of a freed chain (R184). -/
def State.freeChain (s : State) (r : Reader) (base stride count head : Nat) (seen : List Nat) : Nat → Except (Nat × Nat) (List Nat)
  | 0 => .ok seen
  | n + 1 =>
    if head = 0 ∨ head ≥ count ∨ seen.contains head then .ok seen
    else match s.rd r (base + stride * head) 4 with
      | .error e => .error e
      | .ok (b, _) => s.freeChain r base stride count (bytesToNat b) (seen ++ [head]) n

/-- A leaf that a walk of the node pool finds: slot, address, header, its parent and its place there. -/
structure PoolLeaf where
  slot : Nat
  va : Nat
  o : Vox
  del : Bool
  active : Bool

/-- The leaves that a node of level 1 points to. -/
def State.nodeLeaves (s : State) (r : Reader) (t : TreeDesc) (nd : TNode) : List Nat → Except (Nat × Nat) (List PoolLeaf)
  | [] => .ok []
  | i :: is => do
    let rest ← s.nodeLeaves r t nd is
    if bits nd.cm i 1 = 0 then return rest
    let (e, _) ← s.rd r (nd.va + 0x40 + 8 * i) 8
    match slotOf t.leafp.toNat (leafStride t.vfmt) (2 ^ t.lbits) (bytesToNat e) with
    | none => return rest
    | some q =>
      let (h, _) ← s.rd r (bytesToNat e) 0x60
      return { slot := q, va := bytesToNat e, o := { x := fldInt h 0, y := fldInt h 4, z := fldInt h 8 }
               del := bits (fld h 0xE 2) 0 1 == 1, active := (h.drop 0x20).any (· != 0) } :: rest

/-- Walks the slots of the node pool once (R302): every present leaf, in ascending slot index. -/
def State.poolLeaves (s : State) (r : Reader) (t : TreeDesc) : Except (Nat × Nat) (List PoolLeaf) := do
  let (hb, _) ← s.rd r t.nodep.toNat 0x1C
  let p := readPool hb
  let count := min p.nnext (2 ^ t.nbits)
  let freed ← s.freeChain r t.nodep.toNat 576 (2 ^ t.nbits) p.nfree [] count
  let found ← ((List.range count).filter fun k => k != 0 && !freed.contains k).mapM fun k => do
    let (h, _) ← s.rd r (t.nodep.toNat + 576 * k) 0x40
    let nd := readNode (t.nodep.toNat + 576 * k) h
    if nd.level = 1 then s.nodeLeaves r t nd (List.range 64) else return []
  return sortBy (·.slot) found.flatten

/-- Removes a child from a node, and frees every ancestor left empty, up to the root entry (R200). -/
def State.unlink (s : State) (r : Reader) (t : TreeDesc) (v : Vox) (va : Nat) (l : Nat) : Nat → Except (Nat × Nat) State
  | 0 => .ok s
  | n + 1 => do
    let (h, _) ← s.rd r va 0x40
    let nd := readNode va h
    let i := v.child l
    let (s1, _) ← s.vwrite r.unit r.die r.asid (va + 0x40 + 8 * i) (natToBytes 8 0)
    let (s2, _) ← s1.vwrite r.unit r.die r.asid (va + 0x20) (natToBytes 8 (clearBit nd.cm i))
    let (s3, _) ← s2.vwrite r.unit r.die r.asid (va + 0xE) (natToBytes 2 (nd.childn - 1))
    if nd.childn ≤ 1 ∧ nd.tm = 0 then
      let (hb, _) ← s3.rd r t.nodep.toNat 0x1C
      let p := readPool hb
      let (s4, _) ← s3.vwrite r.unit r.die r.asid va (natToBytes 4 p.nfree)
      let hdr : Pool := { p with nused := p.nused - 1, nfree := (va - t.nodep.toNat) / 576 }
      let (s5, _) ← s4.vwrite r.unit r.die r.asid t.nodep.toNat hdr.bytes
      if l = 3 then
        let f ← s5.rootFind r t (v.origin 512)
        match f.entry with
        | some a =>
          let (s6, _) ← s5.vwrite r.unit r.die r.asid (a + 12) (natToBytes 4 0xFFFFFFFE)
          return s6
        | none => return s5
      else s5.unlink r t v nd.parent (l + 1) n
    else return s3

/-- Removes the marked leaves one after another, in ascending slot; each goes on LFREE as it is removed, and the nodes that it empties
on NFREE before it (R200). DESIGN CHOICE (log 83). -/
def State.removeLeaves (s : State) (r : Reader) (t : TreeDesc) : List PoolLeaf → Except (Nat × Nat) State
  | [] => .ok s
  | f :: fs => do
    let (h, _) ← s.rd r f.va 0x20
    let s1 ← s.unlink r t f.o (fld h 0x10 8) 1 3
    let (hb, _) ← s1.rd r t.nodep.toNat 0x1C
    let p := readPool hb
    let (s2, _) ← s1.vwrite r.unit r.die r.asid f.va (natToBytes 4 p.lfree)
    let hdr : Pool := { p with lused := p.lused - 1, lfree := f.slot }
    let (s3, _) ← s2.vwrite r.unit r.die r.asid t.nodep.toNat hdr.bytes
    s3.removeLeaves r t fs

/-- The broadcast of a sweep (R189, R200): no cache keeps a leaf of the tree. -/
def State.dropTree (s : State) (root : DWord) : State := { s with leafCache := s.leafCache.filter fun c => c.root != root }

/-- A whole sweep (R200). -/
def State.sweepTree (s : State) (asid : Nat) (t : TreeDesc) : Except (Nat × Nat) State := do
  let r := allocReader asid
  let s0 := s.dropTree t.root
  let ls ← s0.poolLeaves r t
  if !(ls.any (·.del)) then return s
  let s1 ← s0.removeLeaves r t (ls.filter (·.del))
  let (hb, _) ← s1.rd r t.nodep.toNat 0x1C
  let p := readPool hb
  let hdr : Pool := { p with sweeps := (p.sweeps + 1) % 2 ^ 32 }
  let (s2, _) ← s1.vwrite r.unit r.die r.asid t.nodep.toNat hdr.bytes
  return s2

/-- The latest tick at which a write that has been made to device memory is complete everywhere (R217). -/
def State.lastGwct (s : State) : Nat := s.wtimes.foldl (fun m w => max m w.2.2) 0

/-- SWEEP (R200): of a tree that is not held and has marked leaves. Its writes made, the sweep ends once they are past their GWCT
(R189, R217). A fault holds it with nothing written; one that is unresolvable ends it, and the tree's mark goes. DESIGN CHOICE (log 83). -/
def execSweep (asid root : Nat) (s : State) : Res :=
  match s.marked.find? fun m => m.asid == asid && m.tree.root.toNat == root with
  | none => notEnabled
  | some m =>
    let other := fun (x : Marked) => !(x.asid == asid && x.tree.root == m.tree.root)
    if m.swept then
      if s.tsc > m.gw then .next { s with marked := s.marked.filter other } else notEnabled
    else if m.held || s.allocHeld || s.marked.any (·.swept) || s.treeHeld m.tree.root then notEnabled
    else
      match s.sweepTree asid m.tree with
      | .ok s1 => .next { s1 with marked := s1.marked.map fun x => if other x then x else { x with swept := true, gw := s1.lastGwct } }
      | .error (va, k) =>
        let s1 := s.postFault asid va k 12 allocSrc (.sweep asid m.tree.root)
        if k ≥ 4 then .next { s1 with marked := s1.marked.filter other }
        else .next { s1 with marked := s1.marked.map fun x => if other x then x else { x with held := true } }

end Sys2Proof.Machine
end

