-- ==== Sys2Proof/Machine/Copy.lean ====
section
/-! DEFINITION. Tensor-identifier and copy commands: acceptance, the movement of data, and completion (R261-R267). -/

namespace Sys2Proof.Machine

/-- Fields of a copy octet (R262). -/
structure CopyOct where
  x1 : Nat
  fill : Bool
  ring : Bool
  handle : Nat
  xq : Nat
  x0 : Nat
  boxh : Nat
  boxw : Nat
  idx0 : Nat
  idx1 : Nat
  q : Nat
  cw : Nat
  rsv : Nat

/-- Reads an octet (R262). -/
def copyOct (o : List Word) : CopyOct :=
  let w := fun k => (o.getD k 0).toNat
  { x1 := bits (w 0) 16 16, rsv := bits (w 0) 7 9, fill := bits (w 0) 6 1 == 1, ring := bits (w 0) 5 1 == 1, handle := bits (w 0) 0 5
    xq := bits (w 1) 16 16, x0 := bits (w 1) 0 16, boxh := bits (w 2) 16 16, boxw := bits (w 2) 0 16
    idx0 := w 3, idx1 := w 4, q := w 5, cw := octPair o 6 }

/-- ECODE that pairs with a format (R263). -/
def pairedEcode (f : Nat) : Option Nat :=
  match f with | 1 => some 0 | 2 => some 1 | 3 => some 2 | 4 => some 3 | 5 => some 4 | 0x10 => some 5 | _ => none

/-- What an acceptance of a copy finds (R263-R266): the lowest code, 0 for none. `t1` is K, `t2` is K2. RING counts where the tile is the
destination (R262). DEDUCED (log 43). The rows of a ring are those of the slot: a box that passes them fails with RANGE. DESIGN CHOICE
(log 85). -/
def copyCheck (fn : Nat) (o : CopyOct) (t1 t2 : Option Tensor) (tile : Option Tile) : Nat :=
  let two := fn == 0 || fn == 3 || fn == 4
  let toTile := fn == 1 || fn == 3
  let byIdx := fn == 3 || fn == 4
  let invalid := t1.isNone || (two && t2.isNone)
  let handle := (fn != 0 && tile.isNone) || (o.ring && toTile && ((tile.bind (·.ring)).isNone))
  let level := (fn == 2 || fn == 4) && ((tile.map fun t => t.level == 1).getD false)
  let field := o.rsv != 0 || (fn == 0 && o.handle != 0) || (fn != 0 && o.xq != 0) || o.boxw == 0 || o.boxh == 0 || o.cw % 8 != 0
  let format := match t1 with
    | none => false
    | some a =>
      (fn == 0 && (t2.map fun b => b.fmt != a.fmt).getD false)
      || (fn != 0 && (tile.map fun t => pairedEcode a.fmt != some t.ecode).getD false)
      || (byIdx && (t2.map fun b => b.fmt != 5 || b.rank != 1).getD false)
  let range := match t1 with
    | none => false
    | some a =>
      (a.rank == 1 && (decide (o.boxh > 1) || o.idx1 != 0 || o.q != 0)) || decide (o.q ≥ a.outer)
      || (fn == 0 && (t2.map fun b => decide (o.xq ≥ b.outer) || (b.rank == 1 && (decide (o.boxh > 1) || o.xq != 0 || o.x1 != 0))).getD false)
      || (byIdx && (t2.map fun b => decide (o.idx1 + o.boxh > b.extent 0)).getD false)
      || (fn != 0 && (tile.map fun t =>
        let rows := if o.ring && toTile then t.rows / ((t.ring.map (·.slots)).getD 1) else t.rows
        decide (o.x1 + o.boxh > rows) || decide (o.x0 + o.boxw > t.cols)).getD false)
  let planes := match t1 with
    | none => false
    | some a =>
      a.fmt == 0x10 && (o.idx0 % 32 != 0 || o.x0 % 32 != 0 || o.boxw % 32 != 0 || a.extent 0 % 8 != 0
        || (toTile && (tile.map fun t => decide (t.planes > a.planes)).getD false)
        || ((fn == 2 || fn == 4) && (tile.map fun t => decide (t.planes < a.planes)).getD false)
        || (fn == 0 && (t2.map fun b => decide (b.planes > a.planes) || b.extent 0 % 8 != 0).getD false))
  lowest [(0x11, invalid), (0x12, handle), (0x13, level), (0x14, format), (0x15, range), (0x16, planes), (0x17, field)]

/-- Whether the octet of TIDSET or TIDGET breaks a rule of FIELD (R261). -/
def tidField (o : List Word) : Bool := octPair o 0 % 64 != 0 || octPair o 2 % 8 != 0 || (o.drop 4).any (· != 0)

/-- What an acceptance of TIDSET or TIDGET finds (R261): 0x17 FIELD, or TIDGET's INVALID. An invalid entry with an octet that FIELD
turns away reports INVALID and writes nothing. DESIGN CHOICE (log 81). -/
def tidCheck (fn : Nat) (o : List Word) (t : Option Tensor) : Nat := lowest [(0x17, tidField o), (0x11, fn == 6 && t.isNone)]

/-- Makes a copy command at acceptance (R262): its checks, its entries, its tile, and its ring slot where one
is free (R247). -/
def State.makeCopy (s : State) (core : Nat) (g : Option Group) (asid fn k k2 : Nat) (o : List Word) (bad : Bool)
    (queue : Option (Nat × Nat)) : Nat × State :=
  let t1 := s.tensor? asid k
  let t2 := if fn = 0 ∨ fn = 3 ∨ fn = 4 then s.tensor? asid k2 else none
  let co := copyOct o
  let tile := if fn ≥ 1 ∧ fn ≤ 4 then g.bind fun g => s.handle? g co.handle else none
  let fail := if fn ≥ 5 then tidCheck fn o t1 else copyCheck fn co t1 t2 tile
  let fail := if bad && fail == 0 then 0x19 else fail
  let c : Copy :=
    { id := s.nextId, core := core, gid := g.map (·.gid), asid := asid, fn := fn, k := k, oct := o, pc := if g.isSome then s.issue.pc0.pkt else 0, t1 := t1, t2 := t2
      tile := tile.map (·.uid), queue := queue, poisoned := bad, fail := fail }
  let s1 := s.fresh
  match tile with
  | some t => match t.ring with
    | some r =>
      if co.ring && (fn == 1 || fn == 3) && (fail == 0 || fail == 0x19) && r.canAcquire false then
        let q := r.acquire false
        (c.id, { s1.updTile t.uid fun t => { t with ring := some q.2 } with copies := s1.copies ++ [{ c with ringSeq := some q.1 }] })
      else (c.id, { s1 with copies := s1.copies ++ [c] })
    | none => (c.id, { s1 with copies := s1.copies ++ [c] })
  | none => (c.id, { s1 with copies := s1.copies ++ [c] })

/-- Adds a thread to a copy command. -/
def joinCopy (id tid : Nat) (s : State) : State :=
  { s with copies := s.copies.map fun c => if c.id == id then { c with tids := c.tids ++ [tid] } else c }

/-- A copy word (R262): a core has at most 128 copy commands in flight. -/
def copyWord (i : Instr) (fn sreg k k2 : Nat) (s : State) : Res :=
  engineWord i 2 sreg (fun g s => decide ((s.copies.filter fun c => c.core == g.core && c.gid.isSome).length ≥ 128))
    (fun l bad s => .ok (s.makeCopy l.g.core (s.group? l.g.gid) l.g.asid fn k k2 (l.g.octet sreg) bad none)) joinCopy s

/-- TIDSET (R261). -/
def execTidset (c : BitVec 1) (sr : BitVec 6) (k : BitVec 8) (s : State) : Res := copyWord (.tidset c sr k) 5 sr.toNat k.toNat 0 s
/-- TIDGET (R261). -/
def execTidget (c : BitVec 1) (sr : BitVec 6) (k : BitVec 8) (s : State) : Res := copyWord (.tidget c sr k) 6 sr.toNat k.toNat 0 s
/-- COPY (R263). -/
def execCopy (c : BitVec 1) (sr : BitVec 6) (k j : BitVec 8) (s : State) : Res := copyWord (.copy c sr k j) 0 sr.toNat k.toNat j.toNat s
/-- COPY.TL (R263). -/
def execCopyTl (c : BitVec 1) (sr : BitVec 6) (k : BitVec 8) (s : State) : Res := copyWord (.copyTl c sr k) 1 sr.toNat k.toNat 0 s
/-- COPY.LT (R263). -/
def execCopyLt (c : BitVec 1) (sr : BitVec 6) (k : BitVec 8) (s : State) : Res := copyWord (.copyLt c sr k) 2 sr.toNat k.toNat 0 s
/-- GATHER (R264). -/
def execGather (c : BitVec 1) (sr : BitVec 6) (k j : BitVec 8) (s : State) : Res := copyWord (.gather c sr k j) 3 sr.toNat k.toNat j.toNat s
/-- SCATTER (R264). -/
def execScatter (c : BitVec 1) (sr : BitVec 6) (k j : BitVec 8) (s : State) : Res := copyWord (.scatter c sr k j) 4 sr.toNat k.toNat j.toNat s

/-! ### Moving data -/

/-- How an engine's movement stands: the state, the greatest GWCT of its writes, and whether it read
uncorrectable data. -/
structure Moved where
  s : State
  gw : Nat := 0
  bad : Bool := false

/-- A fault of an engine's access: address, kind, and read or write. -/
abbrev EngFault := Nat × Nat × Nat

/-- Reads a value of n bytes for an engine. -/
def Moved.read (m : Moved) (core asid va n : Nat) : Except EngFault (Nat × Moved) :=
  match m.s.vread core (coreDie core) asid va n with
  | .error e => .error (e.1, e.2, 0)
  | .ok (bs, p) => .ok (bytesToNat bs, { m with s := m.s.touchRead core (coreDie core) asid va n, bad := m.bad || p })

/-- Writes a value of n bytes for an engine. -/
def Moved.write (m : Moved) (core asid va n v : Nat) : Except EngFault Moved :=
  match m.s.vwrite core (coreDie core) asid va (natToBytes n v) with
  | .error e => .error (e.1, e.2, 1)
  | .ok (s1, g) => .ok { m with s := s1, gw := max m.gw g }

/-- Writes one bit of a byte of memory, of which the low `used` bits stand for elements: the others are written as zero. -/
def Moved.writeBit (m : Moved) (core asid va b used : Nat) (v : Bool) : Except EngFault Moved :=
  let old := bytesToNat (m.s.under core (coreDie core) asid va 1)
  m.write core asid va 1 ((old - old / 2 ^ b % 2 * 2 ^ b + if v then 2 ^ b else 0) % 2 ^ used)

/-- Writes bit i of plane j (R88): the unused bits of the plane's last byte go with its bits, and the padding bytes with its last
element. DESIGN CHOICE (log 80). -/
def Moved.writePlane (m : Moved) (core asid : Nat) (t : Tensor) (j i : Nat) (v : Bool) : Except EngFault Moved :=
  let used := min 8 (t.count - i / 8 * 8)
  let full := (t.count + 7) / 8
  match m.writeBit core asid (t.planeAddr j i) (i % 8) used v with
  | .error e => .error e
  | .ok m => if i + 1 = t.count ∧ full < t.pbytes then m.write core asid (t.planeAddr j (8 * full)) (t.pbytes - full) 0 else .ok m

/-- Runs an engine step over a list. -/
def Moved.each {α : Type} (f : Moved → α → Except EngFault Moved) : List α → Moved → Except EngFault Moved
  | [], m => .ok m
  | x :: xs, m => match f m x with
    | .ok m => Moved.each f xs m
    | .error e => .error e

/-- The positions of a box, rows ascending and then columns. -/
def boxPositions (h w : Nat) : List (Nat × Nat) := (List.range h).flatMap fun r => (List.range w).map fun c => (r, c)

/-- Source or destination row of an index tensor: none where it is out of range (R264). -/
def indexRow (m : Moved) (core asid : Nat) (t1 t2 : Tensor) (o : CopyOct) (r : Nat) : Except EngFault (Option Nat × Moved) :=
  match m.read core asid (t2.addr (o.idx1 + r) 0 0) 4 with
  | .error e => .error e
  | .ok (v, m) => .ok (if v < t1.extent 1 ∧ v < 2 ^ 31 then some v else none, m)

/-- One element of a copy between memory and memory, or memory and tile (R263): source, then destination. -/
def moveElem (c : Copy) (o : CopyOct) (t1 : Tensor) (row0 : Nat) (m : Moved) (p : Nat × Nat) : Except EngFault Moved :=
  let r := p.1
  let col := p.2
  let n := 2 ^ t1.esize
  let fromTensor := fun (m : Moved) (i0 i1 q : Nat) =>
    if t1.has i0 i1 then m.read c.core c.asid (t1.addr i0 i1 q) n else .ok (0, m)
  let toTile := fun (m : Moved) (v : Nat) =>
    match c.tile with
    | none => m
    | some u => { m with s := m.s.updTile u fun t => t.setElem (row0 + o.x1 + r) (o.x0 + col) v false o.fill }
  let ofTile := fun (m : Moved) =>
    match c.tile.bind m.s.tile? with
    | none => (0, m)
    | some t => (t.elem (o.x1 + r) (o.x0 + col), { m with bad := m.bad || t.elemPoison (o.x1 + r) (o.x0 + col) })
  match c.fn, c.t2 with
  | 0, some t2 =>
    match fromTensor m (o.idx0 + col) (o.idx1 + r) o.q with
    | .error e => .error e
    | .ok (v, m) =>
      if t2.has (o.x0 + col) (o.x1 + r) then m.write c.core c.asid (t2.addr (o.x0 + col) (o.x1 + r) o.xq) n v else .ok m
  | 1, _ =>
    match fromTensor m (o.idx0 + col) (o.idx1 + r) o.q with
    | .error e => .error e
    | .ok (v, m) => .ok (toTile m v)
  | 2, _ =>
    let x := ofTile m
    if t1.has (o.idx0 + col) (o.idx1 + r) then x.2.write c.core c.asid (t1.addr (o.idx0 + col) (o.idx1 + r) o.q) n x.1 else .ok x.2
  | 3, some t2 =>
    match indexRow m c.core c.asid t1 t2 o r with
    | .error e => .error e
    | .ok (none, m) => .ok (toTile m 0)
    | .ok (some i, m) => match fromTensor m (o.idx0 + col) i o.q with
      | .error e => .error e
      | .ok (v, m) => .ok (toTile m v)
  | _, some t2 =>
    match indexRow m c.core c.asid t1 t2 o r with
    | .error e => .error e
    | .ok (none, m) => .ok m
    | .ok (some i, m) =>
      let x := ofTile m
      if t1.has (o.idx0 + col) i then x.2.write c.core c.asid (t1.addr (o.idx0 + col) i o.q) n x.1 else .ok x.2
  | _, none => .ok m

/-- One bit of a bit-plane copy: plane j of an element (R265). -/
def moveBit (c : Copy) (o : CopyOct) (t1 : Tensor) (row0 : Nat) (m : Moved) (x : Nat × Nat × Nat) : Except EngFault Moved :=
  let j := x.1
  let r := x.2.1
  let col := x.2.2
  let fromTensor := fun (m : Moved) (i0 i1 : Nat) =>
    if t1.has i0 i1 then
      let i := t1.linear i0 i1 o.q
      match m.read c.core c.asid (t1.planeAddr j i) 1 with
      | .error e => Except.error e
      | .ok (v, m) => .ok (v / 2 ^ (i % 8) % 2 == 1, m)
    else .ok (false, m)
  let toTensor := fun (m : Moved) (t : Tensor) (i0 i1 q : Nat) (v : Bool) =>
    if t.has i0 i1 then
      let i := t.linear i0 i1 q
      m.writePlane c.core c.asid t j i v
    else .ok m
  let toTile := fun (m : Moved) (v : Bool) =>
    match c.tile with
    | none => m
    | some u => { m with s := m.s.updTile u fun t =>
        let w := t.planeWord (row0 + o.x1 + r) j (o.x0 + col)
        let t := t.setWord w.1 (putBit (t.word w.1) w.2 v) (t.poison.contains w.1)
        if o.fill then t.setFull w.1 true else t }
  let ofTile := fun (m : Moved) =>
    match c.tile.bind m.s.tile? with
    | none => (false, m)
    | some t => (t.planeBit (o.x1 + r) j (o.x0 + col), { m with bad := m.bad || t.poison.contains (t.planeWord (o.x1 + r) j (o.x0 + col)).1 })
  match c.fn, c.t2 with
  | 0, some t2 => match fromTensor m (o.idx0 + col) (o.idx1 + r) with
    | .error e => .error e
    | .ok (v, m) => toTensor m t2 (o.x0 + col) (o.x1 + r) o.xq v
  | 1, _ => match fromTensor m (o.idx0 + col) (o.idx1 + r) with
    | .error e => .error e
    | .ok (v, m) => .ok (toTile m v)
  | 2, _ => let x := ofTile m; toTensor x.2 t1 (o.idx0 + col) (o.idx1 + r) o.q x.1
  | 3, some t2 => match indexRow m c.core c.asid t1 t2 o r with
    | .error e => .error e
    | .ok (none, m) => .ok (toTile m false)
    | .ok (some i, m) => match fromTensor m (o.idx0 + col) i with
      | .error e => .error e
      | .ok (v, m) => .ok (toTile m v)
  | _, some t2 => match indexRow m c.core c.asid t1 t2 o r with
    | .error e => .error e
    | .ok (none, m) => .ok m
    | .ok (some i, m) => let x := ofTile m; toTensor x.2 t1 (o.idx0 + col) i o.q x.1
  | _, none => .ok m

/-- First row of the slot that a command reserved (R247, R262). -/
def Copy.row0 (c : Copy) (t : Option Tile) : Nat :=
  match c.ringSeq, t.bind fun t => t.ring.map fun r => (t, r) with
  | some q, some (t, r) => q.toNat % r.slots * (t.rows / r.slots)
  | _, _ => 0

/-- Planes that a bit-plane copy moves (R265). -/
def Copy.planes (c : Copy) (t1 : Tensor) (t : Option Tile) : Nat :=
  match c.fn, c.t2 with
  | 0, some t2 => t2.planes
  | 2, _ => t1.planes
  | 4, _ => t1.planes
  | _, _ => (t.map (·.planes)).getD 0

/-- The box rows of a copy in the order in which they move: SCATTER's by ascending destination row, so that what overlaps in memory
ends with the element of highest linear index, and of repeated rows with the highest r (R96, R264). With them the destination rows. -/
def Copy.rowsOf (c : Copy) (o : CopyOct) (t1 : Tensor) (m : Moved) : Except EngFault (List (Nat × Option Nat) × Moved) :=
  match c.fn, c.t2 with
  | 4, some t2 =>
    ((List.range o.boxh).foldlM (fun (p : List (Nat × Option Nat) × Moved) r =>
      (indexRow p.2 c.core c.asid t1 t2 o r).map fun x => (p.1 ++ [(r, x.1)], x.2)) ([], m)).map fun p => (sortBy (fun x => x.2.getD 0) p.1, p.2)
  | _, _ => .ok ((List.range o.boxh).map fun r => (r, none), m)

/-- Positions of the box by row. -/
def boxOf (rows : List Nat) (w : Nat) : List (Nat × Nat) := rows.flatMap fun r => (List.range w).map fun c => (r, c)

/-- Tile words that a copy writes, once each. -/
def Copy.tileWords (_c : Copy) (o : CopyOct) (t : Tile) (row0 planes : Nat) : List Nat :=
  ((boxPositions o.boxh o.boxw).flatMap fun p =>
    if t.ecode = 5 then (List.range planes).map fun j => (t.planeWord (row0 + o.x1 + p.1) j (o.x0 + p.2)).1
    else t.elemWords (row0 + o.x1 + p.1) (o.x0 + p.2)).foldl (fun l w => insertNat w l) []

/-- Words of a tile of which a copy writes every element: its plane words, and those of 16-bit elements whose other half is in the box or
is none. -/
def Copy.wholeWords (c : Copy) (o : CopyOct) (t : Tile) (row0 planes : Nat) : List Nat :=
  (c.tileWords o t row0 planes).filter fun i =>
    ecodeBytes t.ecode != 2 || [0, 1].all fun h =>
      let col := i % t.rw * 2 + h
      decide (col ≥ t.cols) || decide (o.x0 ≤ col ∧ col < o.x0 + o.boxw)

/-- The bytes of an element of a tensor, by their first and last, in every plane; none where the tensor lacks the element. -/
def Tensor.elemVas (t : Tensor) (planes i0 i1 q : Nat) : List Nat :=
  if !t.has i0 i1 then []
  else if t.fmt = 0x10 then (List.range planes).map fun j => t.planeAddr j (t.linear i0 i1 q)
  else [t.addr i0 i1 q, t.addr i0 i1 q + (2 ^ t.esize - 1)]

/-- Lines of memory that a copy writes: for the mark of DATA (R267). -/
def Copy.destVas (c : Copy) (o : CopyOct) (t1 : Tensor) (rows : List (Nat × Option Nat)) (planes : Nat) : List Nat :=
  match c.fn, c.t2 with
  | 0, some t2 => (boxPositions o.boxh o.boxw).flatMap fun p => t2.elemVas planes (o.x0 + p.2) (o.x1 + p.1) o.xq
  | 2, _ => (boxPositions o.boxh o.boxw).flatMap fun p => t1.elemVas planes (o.idx0 + p.2) (o.idx1 + p.1) o.q
  | 4, _ => rows.flatMap fun r => match r.2 with
    | some i => (List.range o.boxw).flatMap fun col => t1.elemVas planes (o.idx0 + col) i o.q
    | none => []
  | _, _ => []

/-- Marks the line of an address poisoned. -/
def State.poisonVa (s : State) (core asid va : Nat) : State := s.poisonBytes core (coreDie core) asid va 1

/-- TIDSET reads its descriptor, and the extension block where RANK is above 4 and nothing in the descriptor rejects it; the entry, or
none where it is rejected (R97, R261). -/
def readTensor (m : Moved) (core asid addr : Nat) : Except EngFault (Option Tensor × Moved) :=
  match m.s.vread core (coreDie core) asid addr 64 with
  | .error e => .error (e.1, e.2, 0)
  | .ok (b, p) =>
    let m1 : Moved := { m with s := m.s.touchRead core (coreDie core) asid addr 64, bad := m.bad || p }
    if descriptorOk b ∧ bits (fld b 0 4) 12 4 > 4 then
      let extb := fld b 0x38 8
      match m1.s.vread core (coreDie core) asid extb 64 with
      | .error e => .error (e.1, e.2, 0)
      | .ok (x, p2) => .ok (parseTensor b x, { m1 with s := m1.s.touchRead core (coreDie core) asid extb 64, bad := m1.bad || p2 })
    else .ok (parseTensor b (List.replicate 64 0), m1)

/-- Replaces or removes an entry of the tensor identifier table. -/
def State.setTensor (s : State) (asid k : Nat) (t : Option Tensor) : State :=
  s.updCtx asid fun c =>
    { c with tids := (match t with | some t => [(k, t)] | none => []) ++ c.tids.filter fun p => p.1 != k }

/-- Carries a command out: its data moved as one action, or the fault that holds it. The code is 0 on success. One whose octet is
poisoned is carried out with its destination marked (R267, R384, log 85); a TIDSET whose descriptor is uncorrectable leaves its entry as it
was. DESIGN CHOICE (log 85). -/
def State.moveCopy (s : State) (c : Copy) : Except EngFault (Moved × Nat) :=
  let o := copyOct c.oct
  match c.fn with
  | 5 =>
    match readTensor { s := s } c.core c.asid (octPair c.oct 0) with
    | .error e => .error e
    | .ok (t, m) =>
      if m.bad then .ok (m, 0x19) else .ok ({ m with s := m.s.setTensor c.asid c.k t }, if t.isNone then 0x10 else 0)
  | 6 =>
    let bs := match c.t1 with | some t => t.bytes | none => List.replicate 64 0
    match s.vwrite c.core (coreDie c.core) c.asid (octPair c.oct 0) bs with
    | .error e => .error (e.1, e.2, 1)
    | .ok (s1, g) => .ok ({ s := s1, gw := g }, 0)
  | _ =>
    match c.t1 with
    | none => .ok ({ s := s }, 0x11)
    | some t1 =>
      let tile := c.tile.bind s.tile?
      let row0 := c.row0 tile
      let rows := (List.range o.boxh).map fun r => row0 + o.x1 + r
      let filled := match c.tile with | some u => s.fillRows c.core u rows | none => .ok s
      match filled with
      | .error e => .error (e.1, e.2, 0)
      | .ok s =>
        let planes := c.planes t1 tile
        match c.rowsOf o t1 { s := s, bad := c.poisoned } with
        | .error e => .error e
        | .ok (order, m0) =>
          let toTile := if c.fn = 1 ∨ c.fn = 3 then tile else none
          let m1 : Moved := match toTile with
            | some t => { m0 with s := m0.s.updTile t.uid fun x => x.renewed (c.wholeWords o t row0 planes) }
            | none => m0
          let box := boxOf (order.map (·.1)) o.boxw
          let r := if t1.fmt = 0x10 then Moved.each (moveBit c o t1 row0) ((List.range planes).flatMap fun j => box.map fun p => (j, p.1, p.2)) m1
            else Moved.each (moveElem c o t1 row0) box m1
          match r with
          | .error e => .error e
          | .ok m =>
            let s1 := match toTile with
              | some t => if m.bad then m.s.updTile t.uid fun t => { t with poison := (c.tileWords o t row0 planes).foldl (fun l w => insertNat w l) t.poison } else m.s
              | none => m.s
            -- the threads that wait for words that the command has set full (R223)
            let s2 := match toTile with
              | some t => if o.fill then (c.tileWords o t row0 planes).foldl (fun s w => s.serve t.uid w) s1 else s1
              | none => s1
            if m.bad then .ok ({ m with s := (c.destVas o t1 order planes).foldl (fun s va => s.poisonVa c.core c.asid va) s2 }, 0x19)
            else .ok ({ m with s := s2 }, 0)

/-- Bytes that a copy counts into its tile (R266). -/
def Copy.tileBytes (_c : Copy) (o : CopyOct) (t : Tile) : Nat :=
  if t.ecode = 5 then t.planes * (o.boxw / 8) * o.boxh else o.boxw * o.boxh * ecodeBytes t.ecode

/-- Error record of a failed engine command (R266, R389): the command's first words stand as its syndrome. It names the first of the
command's threads. -/
def engineRecord (asid src code : Nat) (addr : Nat) (pc : DWord) (oct : List Word) (g : Option Group) (tids : List Nat) : ErrRec :=
  { id := 0, asid := asid, tsc := 0, src := src, kind := 6, sev := 1, addr := BitVec.ofNat 64 addr, code := code
    grp := (g.map (·.grp)).getD 0xFFFFFFFF, tid := tids.head?.getD 0xFFFF, tids := tids, pc := pc, synd := BitVec.ofNat 128 (wordsToNat (oct.take 4)), gid := g.map (·.gid) }

/-- Source number of a core's copy engine (R388). -/
def copySrc (core : Nat) : Nat := srcNum (coreDie core) (0x200 + coreCluster core)

/-- Replaces a copy command. -/
def State.setCopy (s : State) (c : Copy) : State := { s with copies := s.copies.map fun x => if x.id == c.id then c else x }

/-- A copy command that has been carried out tells its result in arrival counts and the ring, and its failure
in the count and a record (R248, R266). -/
def State.tellCopy (s : State) (c : Copy) : State :=
  let o := copyOct c.oct
  let s1 := match c.tile.bind s.tile? with
    | none => s
    | some t =>
      if c.fn = 1 ∨ c.fn = 3 then
        let s1 := if c.fail = 0 then s.tileArrive t.uid (c.tileBytes o t) else s.tileFail t.uid c.fail
        match c.ringSeq, t.ring with
        | some q, some r => match r.release false q with
          | some r' => (s1.updTile t.uid fun t => { t with ring := some r' }).serveRing t.uid
          | none => s1
        | _, _ => s1
      else s
  if c.fail = 0 then s1
  else s1.raiseErr (engineRecord c.asid (copySrc c.core) c.fail 0 c.pc c.oct (c.gid.bind s.group?) c.tids)

/-- The completion word of a copy octet, or of a tensor-identifier octet (R261, R262). -/
def Copy.cw (c : Copy) : Nat := if c.fn ≥ 5 then octPair c.oct 2 else octPair c.oct 6

/-- Ends a copy command (R232): the copy class count falls in its threads. -/
def State.endCopy (s : State) (c : Copy) : State :=
  let s1 : State := { s with copies := s.copies.filter fun x => x.id != c.id }
  let s2 := match c.gid with | some g => s1.finishAll g c.tids 2 | none => s1
  match c.queue with
  | some (q, n) => s2.queueCmdDone q n
  | none => s2

/-- The value of a completion word (R266): 1 on success, bit 63 and the code on failure. -/
def cwValue (code : Nat) : Nat := if code = 0 then 1 else 2 ^ 63 + code

/-- Commands that write although they have failed at acceptance: TIDGET of an invalid entry (R261), and those whose octet is poisoned,
which mark their destination (R267). -/
def Copy.movesFailed (c : Copy) : Bool := (c.fn == 6 && c.fail == 0x11 && !tidField c.oct) || (decide (c.fn ≤ 4) && c.fail == 0x19)

/-- COPY_COMPLETE (R261-R267): the command's data moves; once its writes have passed their GWCT it tells its
result, writes its completion word and ends. A fault holds it. -/
def execCopyComplete (id : Nat) (s : State) : Res :=
  match s.copies.find? fun c => c.id == id with
  | none => notEnabled
  | some c0 =>
    if c0.heldFault then notEnabled
    else
      -- a command that still needs a ring slot takes it now
      let o := copyOct c0.oct
      let needSlot := (c0.fn == 1 || c0.fn == 3) && o.ring && (c0.fail == 0 || c0.fail == 0x19) && c0.ringSeq.isNone && !c0.moved
      let slot := if needSlot then ((c0.tile.bind s.tile?).bind (·.ring)).bind fun r => if r.canAcquire false then some (r.acquire false) else none else none
      if needSlot && slot.isNone then notEnabled
      else
        let s := match slot, c0.tile with
          | some q, some u => s.updTile u fun t => { t with ring := some q.2 }
          | _, _ => s
        let c := match slot with | some q => { c0 with ringSeq := some q.1 } | none => c0
        let r : Except EngFault (State × Copy) :=
          if c.moved || (c.fail != 0 && !c.movesFailed) then .ok (s, { c with moved := true })
          else match s.moveCopy c with
            | .error e => .error e
            | .ok (m, code) => .ok (m.s, { c with moved := true, gw := m.gw, fail := if c.fail ≠ 0 then c.fail else code })
        match r with
        | .error (va, k, acc) =>
          let held := if k ≥ 4 then { c with fail := lowest [(c.fail, c.fail != 0), (0x18, true)], moved := true } else { c with heldFault := true }
          .next ((s.setCopy held).postFault c.asid va k (faccOf 1 acc) (copySrc c.core) (.copy id))
        | .ok (s, c) =>
          if c.gw ≥ s.tsc ∧ c.gw ≠ 0 then .next (s.setCopy c)
          else
            let s1 := if c.told then s else s.tellCopy c
            let c := { c with told := true }
            if c.cw = 0 then .next (s1.endCopy c)
            else match s1.vwrite c.core (coreDie c.core) c.asid c.cw (natToBytes 8 (cwValue c.fail + if c.late then 2 ^ 62 else 0)) with
              | .ok (s2, _) => .next (s2.endCopy c)
              | .error (va, k) =>
                if k ≥ 4 then
                  .next (((s1.postFault c.asid va k (faccOf 1 1) (copySrc c.core) (.copy id)).raiseErr
                    (engineRecord c.asid (copySrc c.core) 0x18 c.cw c.pc c.oct (c.gid.bind s1.group?) c.tids)).endCopy c)
                else .next ((s1.setCopy { c with heldFault := true }).postFault c.asid va k (faccOf 1 1) (copySrc c.core) (.copy id))

/-- A copy held under a fault that the context reports as unresolvable (R266, R267): ACCESS, or, where only
its completion word is left, the end of the command with a record. -/
def State.failCopy (s : State) (id : Nat) : State :=
  match s.copies.find? fun c => c.id == id with
  | none => s
  | some c =>
    if c.told then
      (s.raiseErr (engineRecord c.asid (copySrc c.core) 0x18 c.cw c.pc c.oct (c.gid.bind s.group?) c.tids)).endCopy c
    else s.setCopy { c with heldFault := false, moved := true, fail := lowest [(c.fail, c.fail != 0), (0x18, true)] }

end Sys2Proof.Machine
end

