-- ==== Sys2Proof/Machine/Hash.lean ====
section
/-! DEFINITION. Hash grids: binding (R204), evaluation (R205, R206), gradients (R207, R208), and the adds that a pack
makes once its last thread has run (R207, R203). -/

namespace Sys2Proof.Machine

/-- Features per entry (R204). -/
def GridDesc.f (g : GridDesc) : Nat := 2 * 2 ^ g.fc

/-- Dimensions. -/
def GridDesc.dims (g : GridDesc) : Nat := if g.d3 then 3 else 2

/-- Reads a hash-grid descriptor, or rejects it (R204). -/
def parseGrid (addr : Nat) (b : List Byte) : Option GridDesc :=
  let c := fld b 0 4
  let l := bits c 0 4 + 1
  let n := (List.range 16).map fun k => fld b (0x20 + 2 * k) 2
  let ok := addr % 64 == 0 && bits c 30 2 == 0 && bits c 17 7 == 0 && bits c 10 2 == 0 && bits c 5 3 == 0 && fld b 4 4 == 0
    && fld b 8 8 % 64 == 0 && fld b 0x10 8 % 64 == 0 && fld b 0x18 8 % 64 == 0 && bits c 8 2 != 3
    && decide (10 ≤ bits c 12 5 ∧ bits c 12 5 ≤ 24) && (n.take l).all (· != 0) && (n.drop l).all (· == 0)
  if ok then
    some { addr := BitVec.ofNat 64 addr, sh := bits c 24 6, t := bits c 12 5, fc := bits c 8 2, d3 := bits c 4 1 == 1, lm1 := bits c 0 4
           feat := BitVec.ofNat 64 (fld b 8 8), grad := BitVec.ofNat 64 (fld b 0x10 8), part := BitVec.ofNat 64 (fld b 0x18 8), nres := n }
  else none

/-- HBIND (R192, R204). -/
def execHbind (c : BitVec 1) (d a : BitVec 6) (sl : BitVec 2) (s : State) : Res :=
  bindWord (.hbind c d a sl) 16 d.toNat a.toNat (fun _ _ => false) (fun va b => (parseGrid va b).map fun t => fun g => g.bindGrid sl.toNat (some t))
    (fun g => g.bindGrid sl.toNat none) s

/-- Index of feature k of entry e of level l in the tables (R204). -/
def GridDesc.index (g : GridDesc) (l e k : Nat) : Nat := (l * 2 ^ g.t + e) * g.f + k

/-- The entry that a corner maps to (R206). -/
def GridDesc.entry (g : GridDesc) (l : Nat) (c : List Int) : Nat :=
  let n := g.nres.getD l 0
  if (n + 1) ^ g.dims ≤ 2 ^ g.t then
    let k := c.map fun (x : Int) => (max 0 (min (n : Int) x)).toNat
    k.getD 0 0 + k.getD 1 0 * (n + 1) + k.getD 2 0 * (n + 1) ^ 2
  else
    let w := c.map fun x => BitVec.ofInt 32 x
    (w.getD 0 0 ^^^ (w.getD 1 0 * 0x6F4A7C15#32) ^^^ (w.getD 2 0 * 0x3B9CD2E7#32)).toNat % 2 ^ g.t

/-- The corners of a position at a level: entry and weight of each, with the flags of their roundings; none where
the position is not finite there or leaves the signed 32-bit range (R206). -/
def GridDesc.corners (g : GridDesc) (l : Nat) (p : List Nat) : Option (List (Nat × Nat) × Flags) :=
  let n := g.nres.getD l 0
  let ss := (p.take g.dims).map fun x => fmulV f32 .rne (fdec f32 x) (.fin false n 0)
  if !((p.take g.dims).all f32Finite) then none
  else match ss.mapM (fun x => splitAxis x.1) with
    | none => none
    | some ax =>
      if !(ax.all fun x => decide (-(2 ^ 31 : Int) ≤ x.1 ∧ x.1 < 2 ^ 31)) then none
      else
        let cs := Sys2Proof.Machine.corners ax
        let fl := ss.foldl (fun f x => f ||| x.2) 0 ||| ax.foldl (fun f x => f ||| x.2.2.2) 0 ||| cs.foldl (fun f x => f ||| x.2.2) 0
        some (cs.map fun x => (g.entry l x.1, x.2.1), fl)

/-- One level's features at a position (R206), with what was read. -/
def State.gridLevel (s : State) (r : Reader) (g : GridDesc) (l : Nat) (p : List Nat) : Except (Nat × Nat) (List Nat × Flags × Trail) :=
  match g.corners l p with
  | none => .ok (List.replicate g.f f16.nan, fNV, {})
  | some (cs, fl) => do
    let accs ← (List.range g.f).mapM fun k =>
      cs.foldlM (fun (a : (Nat × Flags) × Trail) x => do
        let va := g.feat.toNat + 2 * g.index l x.1 k
        let (b, bad) ← s.rd r va 2
        return (accCorner f32 (fdec f32 x.2) (fdec f16 (bytesToNat b)) a.1, a.2.add va 2 bad)) ((0, 0), ({} : Trail))
    let outs := accs.map fun a => let o := cvtFF f32 f16 .rne false a.1.1; (o.1, a.1.2 ||| o.2, a.2)
    return (outs.map (·.1), outs.foldl (fun f o => f ||| o.2.1) fl, { bad := outs.any (·.2.2.bad), reads := outs.flatMap fun o => o.2.2.reads })

/-- Eight words of sixteen halves (R205). -/
def packHalves (hs : List Nat) : List Word := (List.range 8).map fun k => BitVec.ofNat 32 (hs.getD (2 * k) 0 + 65536 * hs.getD (2 * k + 1) 0)

/-- An error record of field kind (R206-R208). -/
def State.fieldRecord (s : State) (l : Lane) (code : Nat) : State :=
  s.raiseErr { id := 0, asid := l.g.asid, tsc := 0, src := fieldSrc l.g.core, kind := 7, sev := 1, code := code, grp := l.g.grp
               tid := l.cur.tid, pc := s.issue.pc0.pkt, gid := some l.g.gid }

/-- What HGRID reads: the features of its levels in halves; an unbound slot gives NaN and a record (R206). -/
def gridEffect (a slot first : Nat) (l : Lane) (s : State) : Except FieldFault FieldDone :=
  match l.grid slot with
  | none => .ok { words := packHalves (List.replicate 16 f16.nan), s := s.fieldRecord l fsUnbound }
  | some g => do
    let ls ← (List.range (16 / g.f)).mapM fun k =>
      if first + k > g.lm1 then .ok (List.replicate g.f 0, (0 : Flags), ({} : Trail))
      else asRead (s.gridLevel l.reader g (first + k) (l.nums a 3))
    return s.doneReading l { bad := ls.any (·.2.2.bad), reads := ls.flatMap fun x => x.2.2.reads } (packHalves (ls.flatMap (·.1)))
      (ls.foldl (fun f x => f ||| x.2.1) 0)

/-- The registers of a position that a slot's grid reads: none of an unbound slot, two in two dimensions (R206). -/
def Lane.posRegs (l : Lane) (a slot : Nat) : List Nat := (List.range (((l.grid slot).map (·.dims)).getD 0)).map (a + ·)

/-- HGRID (R206). -/
def execHgrid (c : BitVec 1) (d a : BitVec 6) (sl : BitVec 2) (lv : BitVec 4) (s : State) : Res :=
  fieldWord (.hgrid c d a sl lv) 17 d.toNat 8 0 (fun l => l.posRegs a.toNat sl.toNat) []
    (fun l => some (sl.toNat :: lv.toNat :: (l.posRegs a.toNat sl.toNat).map fun k => (l.src.reg k).toNat)) (fun l _ s => gridEffect a.toNat sl.toNat lv.toNat l s) s

/-! ### Gradients (R207, R208) -/

/-- A contribution: its element's address, its value, and the flags that forming it raises in its thread. -/
structure Contribution where
  va : Nat
  value : Nat
  flags : Flags

/-- z of R208: q 2^SH rounded to an integer, saturated to 64 bits; none for a NaN. -/
def gradInt (sh q : Nat) : Option Int × Flags :=
  match fdec f32 q with
  | .nan _ => (none, fNV)
  | .inf s => (some (if s then -(2 ^ 63 : Int) else 2 ^ 63 - 1), fOF ||| fNX)
  | .fin s m e =>
    let r := roundToInt .rne s m (e + sh)
    let v := signed s r.1
    if v > 2 ^ 63 - 1 then (some (2 ^ 63 - 1), fOF ||| fNX)
    else if v < -(2 ^ 63 : Int) then (some (-(2 ^ 63 : Int)), fOF ||| fNX)
    else (some v, flagIf (!r.2) fNX)

/-- The contributions of a thread, corner by corner for each level and feature, and the flags of its word (R207, R208).
`part` is the base of the core's partial table for HGRADD. DEDUCED (log 48). The roundings of s, f, g and the weights raise their flags as
in HGRID. DESIGN CHOICE (log 83). -/
def contributions (g : GridDesc) (first : Nat) (p : List Nat) (up : List Word) (part : Option Nat) : List Contribution × Flags :=
  ((List.range (16 / g.f)).filter fun k => first + k ≤ g.lm1).foldl (fun acc k =>
    let l := first + k
    match g.corners l p with
    | none => (acc.1, acc.2 ||| fNV)
    | some (cs, fl) =>
      let items := cs.flatMap fun x => (List.range g.f).filterMap fun j =>
        let m := k * g.f + j
        let gamma := bits (up.getD (m / 2) 0).toNat (16 * (m % 2)) 16
        let q := fmulV f32 .rne (fdec f32 x.2) (fdec f16 gamma)
        if (fdec f32 q.1).isZero then some { va := 0, value := 0, flags := q.2 : Contribution }
        else match part with
          | none => some { va := g.grad.toNat + 4 * g.index l x.1 j, value := q.1, flags := q.2 }
          | some base => match gradInt g.sh q.1 with
            | (none, f) => some { va := 0, value := 0, flags := q.2 ||| f }
            | (some z, f) => some { va := base + 8 * g.index l x.1 j, value := ofInt 64 z, flags := q.2 ||| f }
      (acc.1 ++ items.filter (·.va != 0), items.foldl (fun f i => f ||| i.flags) (acc.2 ||| fl))) ([], 0)

/-- Adds a contribution to what the pack adds (R207): the first stands as it is, each further one is added with
one rounding, or as an integer. -/
def addSum (tid : Nat) (wide poison : Bool) (l : List PackSum) (c : Contribution) : List PackSum :=
  if l.any fun x => x.va == c.va && x.wide == wide then
    l.map fun x =>
      if x.va == c.va && x.wide == wide then
        if wide then { x with value := (x.value + c.value) % 2 ^ 64, poison := x.poison || poison }
        else
          let r := fadd f32 .rne x.value c.value
          { x with value := r.1, flags := x.flags ||| r.2, poison := x.poison || poison }
      else x
  else l ++ [{ va := c.va, wide := wide, value := c.value, tid := tid, poison := poison }]

/-- Whether an element can be added to where it lies: mapped for writing, in device memory (R255), on a die that is enabled (R279). -/
def State.addTarget (s : State) (core asid va : Nat) : Except Nat Trans :=
  match s.translate core (coreDie core) asid va { w := true } with
  | .error k => .error k
  | .ok t => if t.host.isSome || t.dev then .error fkNever else if (s.die t.home).enabled then .ok t else .error fkAway

/-- HGRAD and HGRADD (R207, R208): the thread's contributions join those of its pack. A pack whose faulting adds
the side log cannot hold parks (R376). -/
def gradWord (i : Instr) (wide : Bool) (d a slot first : Nat) (s : State) : Res :=
  let fn := if wide then 19 else 18
  runWord i (fun l s =>
    if overCount l 1 then .error (.park (.counter 1))
    else if s.behindAlloc l then .error .hold
    else match l.consume (l.posRegs a slot), l.consume ((List.range 8).map (d + ·)) with
      | .error e, _ => .error e
      | _, .error e => .error e
      | .ok true, _ => .ok s
      | .ok false, .ok dp =>
        let begun := fun (s : State) => s.fieldStart l { blankOp fn 0 0 1 with result := some [] }
        match l.grid slot with
        | none => .ok (begun (s.fieldRecord l fsUnbound))
        | some g =>
          if (wide && g.part == 0) || (!wide && g.grad == 0) then .ok (begun (s.fieldRecord l fsUnbound))
          else
            let psize := 8 * (g.lm1 + 1) * 2 ^ g.t * g.f
            let at_ := match s.span? l.g.sid with
              | some sp => (s.rectCores sp.x0 sp.y0 sp.w sp.h).findIdx (· == l.g.core)
              | none => 0
            let cs := contributions g first (l.nums a 3) (l.src.words d 8) (if wide then some (g.part.toNat + at_ * psize) else none)
            let failing := cs.1.filter fun c => match s.addTarget l.g.core l.g.asid c.va with | .ok _ => false | .error _ => true
            let used := (s.sideLog.filter fun e => e.acc.core == l.g.core).length
            if !failing.isEmpty && decide (used ≠ 0 ∧ used + failing.length + s.issue.sums.length > 256) then .error (.park .sideLog)
            else
              let s1 := { s with issue := { s.issue with sums := cs.1.foldl (addSum l.cur.tid wide dp) s.issue.sums } }
              .ok (begun (s1.updLane l fun t => t.raise cs.2))) s

/-- HGRAD (R207). -/
def execHgrad (c : BitVec 1) (d a : BitVec 6) (sl : BitVec 2) (lv : BitVec 4) (s : State) : Res :=
  gradWord (.hgrad c d a sl lv) false d.toNat a.toNat sl.toNat lv.toNat s
/-- HGRADD (R208). -/
def execHgradd (c : BitVec 1) (d a : BitVec 6) (sl : BitVec 2) (lv : BitVec 4) (s : State) : Res :=
  gradWord (.hgradd c d a sl lv) true d.toNat a.toNat sl.toNat lv.toNat s

/-- One add of a pack at its element's slice, or its entry in the side log (R203, R207, R376). An add of the word that cannot be
made is reported at once, whatever its thread's earlier adds of the word have come to (R404); behind an entry of an earlier word,
before the name `base`, it enters the log as it is. -/
def State.packAdd (s : State) (g : Group) (base : Nat) (x : PackSum) : State :=
  let n := if x.wide then 8 else 4
  let s0 := s.updThread g.gid x.tid fun t => t.raise x.flags
  let a : Acc :=
    { id := s0.nextId, asid := g.asid, gid := g.gid, tid := x.tid, core := g.core, kind := .rmw (if x.wide then 0 else 11), va := BitVec.ofNat 64 x.va
      parts := [], size := n, data := x.value, cls := 1, noret := true, poison := x.poison, fld := true }
  let logged := fun (held : Bool) => (s0.updThread g.gid x.tid fun t => t.begin 1).sideEnter a held
  if s0.sideLog.any fun e => e.acc.gid == g.gid && e.acc.tid == x.tid && decide (e.id < base) then logged false
  else match s0.addTarget g.core g.asid x.va with
    | .error k =>
      let s1 := (logged true).postFault g.asid x.va k 14 (fieldSrc g.core) (.side a.id)
      if k % 64 ≥ 4 then s1.terminate g.gid else s1
    | .ok t =>
      if s0.sideLogHas g.gid x.tid then logged false else
      let old := bytesToNat (s0.physBytes t.pa n)
      let s1 := s0.writePhys (coreDie g.core) g.asid t.pa (natToBytes n (rmwNew (if x.wide then 0 else 11) (8 * n) old x.value))
      let s2 := if x.poison then s1.poisonLine (t.cell / 128) else s1
      let gw := s0.gwctOf t n
      let late := fun (o : FieldOp) => { o with gw := max o.gw gw }
      { s2 with fieldOps := updWhere (fun o => o.gid == g.gid && o.cls == 1 && s0.issue.pack.contains o.tid) late s2.fieldOps }

/-- After the last thread of a pack: its adds, and the arithmetic traps of the combining sums (R207, R381). -/
def State.flushSums (s : State) : State :=
  match s.issue.sums, s.group? s.issue.gid with
  | [], _ => s
  | xs, some g =>
    let s1 := xs.foldl (fun u x => u.packAdd g s.nextId x) { s with issue := { s.issue with sums := [], last := true } }
    s.issue.pack.foldl (fun s t => s.arithTrap g.gid t) s1
  | _, none => s

end Sys2Proof.Machine
end

