-- ==== Sys2Proof/Machine/Matrix.lean ====
section
/-! DEFINITION. The matrix engine: the rein (R158), acceptance and its checks (R159-R162, R166, R168, R175),
MLOOP, MZERO and MDRAIN (R163-R172), completion and flags (R160, R173), and the events of its sequence. -/

namespace Sys2Proof.Machine

/-! ### TAKE and PASS (R158) -/

/-- TAKE (R158): a thread whose group neither holds the rein nor can take it parks in the group's queue entry. -/
def execTake (c : BitVec 1) (s : State) : Res :=
  runWord (.take c) (fun l s =>
    let k := s.core l.g.core
    if k.rein = some l.g.gid then .ok s
    else if k.rein.isNone && k.reinQ.isEmpty then .ok (s.joinRein l.g.core l.g.gid)
    else .error (.park .rein)) s

/-- PASS (R158): the release does not wait for the group's commands. -/
def execPass (c : BitVec 1) (s : State) : Res :=
  runWord (.pass c) (fun l s =>
    .ok (if (s.core l.g.core).rein = some l.g.gid then s.reinRelease l.g.core else s)) s

/-! ### Octets (R162, R166, R168) -/

/-- Fields of an MLOOP octet. -/
structure LoopOct where
  npl : Nat
  fmt : Nat
  bh : Nat
  ah : Nat
  acc : Nat
  klen : Nat
  acol : Nat
  brow : Nat
  iter : Nat
  binc : Nat
  ainc : Nat
  rsv : Bool

/-- Reads an MLOOP octet (R162). -/
def loopOct (o : List Word) : LoopOct :=
  let w := fun k => (o.getD k 0).toNat
  { npl := bits (w 0) 28 4, fmt := bits (w 0) 24 4, bh := bits (w 0) 16 5, ah := bits (w 0) 8 5, acc := bits (w 0) 0 5
    klen := bits (w 1) 0 16, acol := bits (w 2) 0 16, brow := bits (w 3) 0 16, iter := bits (w 4) 0 16, binc := bits (w 5) 16 16
    ainc := bits (w 5) 0 16
    rsv := bits (w 0) 21 3 != 0 || bits (w 0) 13 3 != 0 || bits (w 0) 5 3 != 0 || bits (w 1) 16 16 != 0 || bits (w 2) 16 16 != 0
      || bits (w 3) 16 16 != 0 || bits (w 4) 16 16 != 0 || w 6 != 0 || w 7 != 0 }

/-- Fields of an MDRAIN octet. -/
structure DrainOct where
  p16 : Nat
  drop : Bool
  resen : Bool
  res : Nat
  acc : Nat
  col0 : Nat
  row0 : Nat
  idx2 : Nat
  idx3 : Nat
  cscale : Nat
  seed : Word
  step : Word
  keep : Nat
  rsv : Bool

/-- Reads an MDRAIN octet (R168). -/
def drainOct (o : List Word) : DrainOct :=
  let w := fun k => (o.getD k 0).toNat
  { p16 := bits (w 0) 16 16, drop := bits (w 0) 14 1 == 1, resen := bits (w 0) 13 1 == 1, res := bits (w 0) 8 5, acc := bits (w 0) 0 5
    col0 := w 1, row0 := w 2, idx2 := bits (w 3) 0 16, idx3 := bits (w 3) 16 16, cscale := w 4, seed := o.getD 5 0, step := o.getD 6 0
    keep := w 7
    rsv := bits (w 0) 15 1 != 0 || bits (w 0) 5 3 != 0 || (bits (w 0) 13 1 == 0 && bits (w 0) 8 5 != 0)
      || (bits (w 0) 14 1 == 0 && bits (w 0) 16 16 != 0) }

/-- Element code of operand tiles by FMT; none for a reserved FMT (R156). -/
def operandEcode (f : Nat) : Option Nat := match f with | 0 => some 3 | 1 => some 2 | 2 => some 0 | 3 => some 1 | 4 => some 5 | _ => none

/-- Element code of the accumulator by FMT (R156). -/
def accEcode (f : Nat) : Nat := match f with | 3 => 1 | 4 => 4 | _ => 0

/-- Pairs per step of a floating-point FMT (R100, R156). -/
def stepPairs (f : Nat) : Nat := match f with | 2 => 8 | 3 => 4 | _ => 32

/-- Floating-point format of an element code. -/
def ecodeFmt (e : Nat) : Fmt := match e with | 1 => f64 | 2 => f16 | 3 => bf16 | _ => f32

/-- Whether a tile has the shape of an accumulator (R156). -/
def Tile.accShape (t : Tile) : Bool := t.rows == 128 && t.cols == 64

/-- Columns or rows that the last iteration of a loop reaches. -/
def loopReach (start inc klen iter : Nat) : Nat := if iter = 0 then 0 else start + (iter - 1) * inc + klen

/-- What the acceptance of an MLOOP finds (R175). DEDUCED (log 44). -/
def loopCheck (o : LoopOct) (a b c : Option Tile) : Nat :=
  match a, b, c with
  | some a, some b, some c =>
    let ring := a.ring.isSome
    lowest [(0x02, a.level != 0 || c.level != 0 || b.level != 1),
      (0x03, (!ring && a.rows != 128) || decide (o.acol + o.klen > a.cols) || b.cols != 64 || !c.accShape),
      (0x04, match operandEcode o.fmt with
        | some e => a.ecode != e || b.ecode != e || c.ecode != accEcode o.fmt
        | none => false),
      (0x05, (operandEcode o.fmt).isNone || o.rsv),
      (0x06, o.klen == 0 || decide (loopReach o.acol o.ainc o.klen o.iter > a.cols) || decide (loopReach o.brow o.binc o.klen o.iter > b.rows)),
      (0x07, if o.fmt = 4 then decide (o.npl < 2 ∨ o.npl > 8 ∨ o.npl > a.planes ∨ o.npl > b.planes) else decide (o.fmt < 4 ∧ o.npl ≠ 0)),
      (0x08, ring && (o.ainc != 0 || a.rows / ((a.ring.map (·.slots)).getD 1) != 128)),
      (0x0C, o.acc == o.ah)]
  | _, _, _ => 0x01

/-- What the acceptance of an MZERO finds. -/
def zeroCheck (o : List Word) (c : Option Tile) : Nat :=
  match c with
  | some c => lowest [(0x02, c.level != 0), (0x03, !c.accShape), (0x04, c.ecode != 0 && c.ecode != 1 && c.ecode != 4),
      (0x05, decide ((o.getD 0 0).toNat ≥ 32))]
  | none => 0x01

/-- What the acceptance of an MDRAIN finds. -/
def drainCheck (o : DrainOct) (c r : Option Tile) (out : Option Tensor) : Nat :=
  match c with
  | none => 0x01
  | some c =>
    if o.resen && r.isNone then 0x01
    else
      let res := if o.resen then r else none
      lowest [(0x02, c.level != 0 || (res.map fun r => r.level != 0).getD false),
        (0x03, !c.accShape || (res.map fun r => !r.accShape).getD false),
        (0x04, (c.ecode != 0 && c.ecode != 1 && c.ecode != 4)
          || (res.map fun r => if c.ecode = 1 then r.ecode != 0 && r.ecode != 1 else r.ecode != 0 && r.ecode != 2 && r.ecode != 3).getD false),
        (0x05, o.rsv),
        (0x09, out.isNone),
        (0x0A, (out.map fun t => !([1, 2, 3, 4, 0x10].contains t.fmt)).getD false),
        (0x0B, (out.map fun t => t.fmt == 0x10 && (o.col0 % 32 != 0 || t.extent 0 % 8 != 0)).getD false)]

/-! ### Acceptance (R159, R160) -/

/-- Makes a matrix command at acceptance. -/
def State.makeMx (s : State) (g : Group) (fn k : Nat) (o : List Word) (bad : Bool) : Nat × State :=
  let lo := loopOct o
  let dr := drainOct o
  let h := fun n => s.handle? g n
  let out := if fn = 1 then s.tensor? g.asid k else none
  let acc := h (bits (o.getD 0 0).toNat 0 5)
  let named := match fn with
    | 0 => [acc, h lo.ah, h lo.bh]
    | 1 => if dr.resen then [acc, h dr.res] else [acc]
    | _ => [acc]
  let fail := match fn with
    | 0 => loopCheck lo (h lo.ah) (h lo.bh) acc
    | 1 => drainCheck dr acc (h dr.res) out
    | _ => zeroCheck o acc
  let m : Mx :=
    { id := s.nextId, core := g.core, gid := g.gid, asid := g.asid, fn := fn, oct := o, pc := s.issue.pc0.pkt, out := out, tids := [], tiles := (named.filterMap id).map (·.uid)
      poisoned := bad, fail := fail }
  (m.id, { s with mxs := s.mxs ++ [m], nextId := s.nextId + 1 })

/-- Adds a thread to a matrix command. -/
def joinMx (id tid : Nat) (s : State) : State :=
  { s with mxs := s.mxs.map fun m => if m.id == id then { m with tids := m.tids ++ [tid] } else m }

/-- A matrix command word (R160): at most four of a group are in flight; MLOOP and MDRAIN need the rein. -/
def mxWord (i : Instr) (fn sreg k : Nat) (s : State) : Res :=
  engineWord i 3 sreg (fun g s => decide ((s.mxs.filter fun m => m.gid == g.gid).length ≥ 4) && (fn == 2 || (s.core g.core).rein == some g.gid))
    (fun l bad s =>
      if fn ≠ 2 ∧ (s.core l.g.core).rein ≠ some l.g.gid then .error illegal
      else match s.group? l.g.gid with
        | some g => .ok (s.makeMx { g with uregs := l.g.uregs } fn k (l.g.octet sreg) bad)
        | none => .error illegal) joinMx s

/-- MLOOP (R162, R163). -/
def execMloop (c : BitVec 1) (sr : BitVec 6) (s : State) : Res := mxWord (.mloop c sr) 0 sr.toNat 0 s
/-- MDRAIN (R168, R169). -/
def execMdrain (c : BitVec 1) (sr : BitVec 6) (k : BitVec 8) (s : State) : Res := mxWord (.mdrain c sr k) 1 sr.toNat k.toNat s
/-- MZERO (R166). -/
def execMzero (c : BitVec 1) (sr : BitVec 6) (s : State) : Res := mxWord (.mzero c sr) 2 sr.toNat 0 s

/-! ### MLOOP (R100, R101, R163-R165) -/

/-- The product of a pair as an exact value; none where it is not a number. -/
def exactProduct (x y : FVal) : Option FVal :=
  match x, y with
  | .fin s1 m1 e1, .fin s2 m2 e2 => some (.fin (s1 != s2) (m1 * m2) (e1 + e2))
  | .inf s1, .inf s2 => some (.inf (s1 != s2))
  | .inf s1, .fin s2 m _ => if m = 0 then none else some (.inf (s1 != s2))
  | .fin s1 m _, .inf s2 => if m = 0 then none else some (.inf (s1 != s2))
  | _, _ => none

/-- The exact sum of finite values as an integer times a power of two; the rest is left out. -/
def exactSum (l : List FVal) : Int × Int :=
  l.foldl (fun a x => match x with
    | .fin s m e =>
      let b := min a.2 e
      (a.1 * 2 ^ (a.2 - b).toNat + signed s m * 2 ^ (e - b).toNat, b)
    | _ => a) (0, 0)

/-- The sum of a step (R101): special values first, else the exact sum rounded once. -/
def stepSum (f : Fmt) (ps : List (FVal × FVal)) : Nat × Flags :=
  let prods := ps.map fun p => exactProduct p.1 p.2
  let nan := ps.any fun p => p.1.isNan || p.2.isNan
  let snan := ps.any fun p => p.1.isSnan || p.2.isSnan
  let zeroInf := ps.any fun p => !p.1.isNan && !p.2.isNan && (exactProduct p.1 p.2).isNone
  let pos := prods.contains (some (.inf false))
  let neg := prods.contains (some (.inf true))
  if nan || zeroInf || (pos && neg) then (f.nan, flagIf (snan || zeroInf || (pos && neg)) fNV)
  else if pos then (f.inf false, 0)
  else if neg then (f.inf true, 0)
  else
    let r := exactSum (prods.filterMap id)
    roundInt f .rne r.1 r.2 (prods.all fun p => match p with | some (.fin true 0 _) => true | _ => false)

/-- Accumulates the steps of one iteration, in increasing k (R163). -/
def accumulate (f : Fmt) (p : Nat) : Nat → List (FVal × FVal) → Nat × Flags → Nat × Flags
  | 0, _, a => a
  | n + 1, ps, a =>
    if ps.isEmpty then a
    else
      let t := stepSum f (ps.take p)
      let r := fadd f .rne a.1 t.1
      accumulate f p n (ps.drop p) (r.1, a.2 ||| t.2 ||| r.2)

/-- An element of a bit-plane tile read at n planes (R87). -/
def Tile.planeValue (t : Tile) (n r c : Nat) : Int :=
  sval n ((List.range n).foldl (fun v j => 2 * v + if t.planeBit r j c then 1 else 0) 0)

/-- The sum of an integer iteration and whether it overflowed (R96): judged after every 32nd index and at
the end. -/
def intSum (ps : List Int) (acc : Int) : Int × Bool :=
  let r := ps.foldl (fun (x : Int × Nat × Bool) p =>
    let v := x.1 + p
    (v, x.2.1 + 1, x.2.2 || ((x.2.1 + 1) % 32 == 0 && decide (v < -(2 ^ 31 : Int) ∨ v > 2 ^ 31 - 1)))) (acc, 0, false)
  (r.1, r.2.2 || decide (r.1 < -(2 ^ 31 : Int) ∨ r.1 > 2 ^ 31 - 1))

/-- Positions of an accumulator, in row-major order. -/
def accPositions : List (Nat × Nat) := (List.range 128).flatMap fun i => (List.range 64).map fun j => (i, j)

/-- The new value of element (i, j) of the accumulator after an iteration, with its flags (R163). `row0` is
the first row of the A slot, `ka` and `kb` the first column and row. -/
def loopElement (o : LoopOct) (a b c : Tile) (row0 ka kb i j : Nat) : Nat × Flags :=
  if o.fmt = 4 then
    let ps := (List.range o.klen).map fun k => a.planeValue o.npl (row0 + i) (ka + k) * b.planeValue o.npl (kb + k) j
    let r := intSum ps (sval 32 (c.elem i j))
    (ofInt 32 r.1, flagIf r.2 (fOF ||| fNX))   -- OF raises NX as well (R84)
  else
    let f := ecodeFmt (accEcode o.fmt)
    let src := ecodeFmt ((operandEcode o.fmt).getD 0)
    let ps := (List.range o.klen).map fun k => (fdec src (a.elem (row0 + i) (ka + k)), fdec src (b.elem (kb + k) j))
    accumulate f (stepPairs o.fmt) (o.klen + 1) ps (c.elem i j, 0)

/-- Words of a tile that hold an element, plane by plane for a bit-plane tile. -/
def Tile.holdWords (t : Tile) (n r c : Nat) : List Nat :=
  if t.ecode = 5 then (List.range n).map fun j => (t.planeWord r j c).1 else t.elemWords r c

/-- Whether an iteration reads a poisoned word. -/
def loopPoison (o : LoopOct) (a b c : Tile) (row0 ka kb : Nat) : Bool :=
  !c.poison.isEmpty
  || (!a.poison.isEmpty && (List.range 128).any fun i => (List.range o.klen).any fun k => (a.holdWords o.npl (row0 + i) (ka + k)).any a.poison.contains)
  || (!b.poison.isEmpty && (List.range o.klen).any fun k => (List.range 64).any fun j => (b.holdWords o.npl (kb + k) j).any b.poison.contains)

/-- Replaces a matrix command. -/
def State.setMx (s : State) (m : Mx) : State := { s with mxs := s.mxs.map fun x => if x.id == m.id then m else x }

/-- A tile of which an engine has written every word: no row of a bound one is left to fill, and what a fill sets full is full (R246). -/
def Tile.allFilled (t : Tile) : Tile :=
  if t.bind.isNone then t
  else
    let fresh := (List.range t.rows).filter fun r => !t.filled.contains r
    { t with filled := List.range t.rows
             full := (fresh.flatMap fun r => (List.range t.rw).map fun k => r * t.rw + k).foldl (fun l i => insertNat i l) t.full }

/-- Every element of the accumulator is written with the poison mark (R175). -/
def State.poisonAcc (s : State) (m : Mx) : State :=
  match m.tiles.head? with
  | none => s
  | some u => s.updTile u fun t => ((List.range (t.rows * t.rw)).foldl (fun t i => t.setWord i (Config.poisonWord m.id i) true) t).allFilled

/-- A command ends with a failure of its execution. -/
def Mx.failed (m : Mx) (code : Nat) : Mx := { m with fail := code, finished := true, waitRing := false, heldFault := false }

/-- A fault of a command's own access or row fill: a FINAL one fails it with ACCESS, any other holds it (R175, R246). -/
def State.mxFault (s : State) (m : Mx) (va k facc : Nat) : State :=
  let m1 := if k ≥ 4 then m.failed 0x0E else { m with heldFault := true }
  (s.setMx m1).postFault m.asid va k facc (coreSrc m.core) (.mx m.id)

/-- Runs the iterations of an MLOOP from the next one until it ends, waits for a slot, is held or fails. The ring slot of an iteration
that fails with DATA is not released. DESIGN CHOICE (log 82). -/
def State.loopFrom (s : State) (m : Mx) (o : LoopOct) (ua ub uc : Nat) : Nat → State
  | 0 => s.setMx { m with finished := true, waitRing := false }
  | n + 1 =>
    match s.tile? ua, s.tile? ub with
    | some a, some b =>
      let ready := match a.ring with | some r => decide (1 ≤ (r.prod - r.cons).toNat ∧ (r.prod - r.cons).toNat < 2 ^ 31) | none => true
      if !ready then s.setMx { m with waitRing := true }
      else
        let row0 := match a.ring with | some r => r.cons.toNat % r.slots * (a.rows / r.slots) | none => 0
        let ka := o.acol + m.it * o.ainc
        let kb := o.brow + m.it * o.binc
        match s.fillRows m.core ua ((List.range 128).map (row0 + ·)) with
        | .error e => s.mxFault m e.1 e.2 (faccOf 1 0)
        | .ok s1 => match s1.fillRows m.core uc (List.range 128) with
          | .error e => s1.mxFault m e.1 e.2 (faccOf 1 0)
          | .ok s2 =>
            match s2.tile? ua, s2.tile? uc with
            | some a, some c =>
              if loopPoison o a b c row0 ka kb then (s2.poisonAcc m).setMx (m.failed 0x0D)
              else
                let vals := accPositions.map fun p => (p, loopElement o a b c row0 ka kb p.1 p.2)
                let s3 := s2.updTile uc fun t => vals.foldl (fun t x => t.setElem x.1.1 x.1.2 x.2.1 false false) t
                let s4 := match a.ring with
                  | some r =>
                    -- the engine reserves the slot and releases it at once
                    let r1 := { r with cres := if r.cres = r.cons then r.cons + 1 else r.cres, cons := r.cons + 1 }
                    (s3.updTile ua fun t => { t with ring := some r1 }).serveRing ua
                  | none => s3
                let m1 := { m with it := m.it + 1, waitRing := false, flags := vals.foldl (fun f x => f ||| x.2.2) m.flags }
                s4.loopFrom m1 o ua ub uc n
            | _, _ => s2.setMx (m.failed 0x0E)
    | _, _ => s.setMx (m.failed 0x0E)

/-! ### MDRAIN (R169-R172) -/

/-- The element y3 of a drain in its working format, with its flags (R169). -/
def drainElement (o : DrainOct) (acc : Tile) (res : Option Tile) (i j : Nat) : Nat × Flags :=
  let w := if acc.ecode = 1 then f64 else f32
  let v := acc.elem i j
  let x : FVal := if acc.ecode = 4 then .fin (decide (sval 32 v < 0)) (sval 32 v).natAbs 0 else fdec w v
  let y1 := fmulV w .rne x (fdec f32 o.cscale)
  let r := mix32 o.seed (BitVec.ofNat 32 ((o.row0 + i) % 2 ^ 16 * 2 ^ 16 + (o.col0 + j) % 2 ^ 16))
  let y2 :=
    if o.drop then
      if ((r ^^^ o.step) >>> 16).toNat ≥ o.p16 then
        let y := fmulV w .rne (fdec w y1.1) (fdec f32 o.keep)
        (y.1, y1.2 ||| y.2)
      else (w.zero false, 0)
    else y1
  match res with
  | some t =>
    let y := faddV w .rne (fdec w y2.1) (fdec (ecodeFmt t.ecode) (t.elem i j))
    (y.1, y2.2 ||| y.2)
  | none => y2

/-- The quotient of a magnitude by a scale, rounded RNE to an integer, and whether it was exact (R170). -/
def scaleQuotient (m : Nat) (e : Int) (sm : Nat) (se : Int) : Nat × Bool :=
  let num := m * 2 ^ (e - se).toNat
  let den := sm * 2 ^ (se - e).toNat
  let q := num / den
  let r := num % den
  (if roundsUp .rne false (q % 2 == 1) r den then q + 1 else q, r == 0)

/-- The integer that a bit-plane drain writes, and its flags (R170). -/
def drainInt (w : Fmt) (code y : Nat) : Int × Flags :=
  let x := fdec w y
  if code = 0 then (0, flagIf (!x.isZero) fNX)
  else if code ≥ 0xF8 then (0, fNV)
  else match x with
    | .nan _ => (0, fNV)
    | .inf s => (if s then -127 else 127, fNV)
    | .fin s m e =>
      let q := scaleQuotient m e (s8Value code).1 (s8Value code).2
      if q.1 > 127 then (if s then -127 else 127, fNX) else (signed s q.1, flagIf (!q.2) fNX)

/-- Greater of two magnitudes; a NaN wins (R171). -/
def peakOf (w : Fmt) (a : Option Nat) (y : Nat) : Option Nat :=
  let v := if (fdec w y).isNan then w.nan else y % w.signBit
  match a with
  | none => some v
  | some u => some (if u = w.nan ∨ v = w.nan then w.nan else max u v)

/-- The indices of a drained element; none where any lies beyond its extent (R169). -/
def drainIndex (o : DrainOct) (t : Tensor) (i j : Nat) : Option (Nat × Nat × Nat) :=
  let col := o.col0 + j
  let row := o.row0 + i
  if col < t.extent 0 ∧ row < t.extent 1 ∧ o.idx2 < t.extent 2 ∧ o.idx3 < t.extent 3 then some (col, row, o.idx2 + t.extent 2 * o.idx3)
  else none

/-- Address of the S8 code of an element's block (R92). -/
def Tensor.scaleAddr (t : Tensor) (i0 i1 q : Nat) : Nat :=
  if t.scg = 2 then t.scale.toNat + (i1 + t.extent 1 * q) * ((t.extent 0 + 31) / 32) + i0 / 32 else t.scale.toNat

/-- What one piece of a drain writes: addresses and bytes, the elements' magnitudes, and the flags; or the
fault of its scale code's read. A piece is one element, or eight elements of a bit-plane row. -/
structure Piece where
  writes : List (Nat × List Byte) := []
  peak : Option Nat := none
  flags : Flags := 0
  bad : Bool := false

/-- Piece n of a drain. -/
def State.drainPiece (s : State) (m : Mx) (o : DrainOct) (t : Tensor) (acc : Tile) (res : Option Tile) (n : Nat) : Except (Nat × Nat) Piece :=
  let w := if acc.ecode = 1 then f64 else f32
  let bad := fun (i j : Nat) => acc.elemPoison i j || (res.map fun r => r.elemPoison i j).getD false
  if t.fmt = 0x10 then
    let i := n / 8
    let j := n % 8 * 8
    match drainIndex o t i j with
    | none => .ok {}
    | some (c, r, q) =>
      match s.vread m.core (coreDie m.core) m.asid (t.scaleAddr c r q) 1 with
      | .error e => .error e
      | .ok (bs, p) =>
        let ys := (List.range 8).map fun k => drainElement o acc res i (j + k)
        let vs := ys.map fun y => drainInt w (bytesToNat bs) y.1
        let byte := fun (pl : Nat) => (List.range 8).foldl (fun b k => b + ofInt 8 ((vs.getD k (0, 0)).1) / 2 ^ (7 - pl) % 2 * 2 ^ k) 0
        -- the padding of a plane goes with its last elements (R88)
        let pad := if t.linear c r q + 8 = t.count then List.replicate (t.pbytes - t.count / 8) 0 else []
        .ok { writes := (List.range t.planes).map fun pl => (t.planeAddr pl (t.linear c r q), natToBytes 1 (byte pl) ++ pad)
              peak := ys.foldl (fun a y => peakOf w a y.1) none
              flags := (ys.map (·.2) ++ vs.map (·.2)).foldl (· ||| ·) 0
              bad := p || (List.range 8).any fun k => bad i (j + k) }
  else
    let i := n / 64
    let j := n % 64
    match drainIndex o t i j with
    | none => .ok {}
    | some (c, r, q) =>
      let y := drainElement o acc res i j
      let v := cvtFF w (ecodeFmt (t.fmt - 1)) .rne false y.1
      .ok { writes := [(t.addr c r q, natToBytes (2 ^ t.esize) v.1)], peak := peakOf w none y.1, flags := y.2 ||| v.2, bad := bad i j }

/-- The scale code that piece n of a bit-plane drain has read: its line has been accessed now (R290). -/
def State.touchScale (s : State) (m : Mx) (o : DrainOct) (t : Tensor) (n : Nat) : State :=
  match if t.fmt = 0x10 then drainIndex o t (n / 8) (n % 8 * 8) else none with
  | some (c, r, q) => s.touchRead m.core (coreDie m.core) m.asid (t.scaleAddr c r q) 1
  | none => s

/-- Number of pieces of a drain. -/
def drainPieces (t : Tensor) : Nat := if t.fmt = 0x10 then 128 * 8 else 128 * 64

/-- Writes the pieces' bytes in order. -/
def State.writeAll (s : State) (core asid gw : Nat) : List (Nat × List Byte) → Except (Nat × Nat) (State × Nat)
  | [] => .ok (s, gw)
  | x :: xs => match s.vwrite core (coreDie core) asid x.1 x.2 with
    | .error e => .error e
    | .ok (s1, g) => s1.writeAll core asid (max gw g) xs

/-- Addresses and lengths of what piece n of a drain writes. -/
def drainVas (o : DrainOct) (t : Tensor) (n : Nat) : List (Nat × Nat) :=
  let bit := t.fmt == 0x10
  match if bit then drainIndex o t (n / 8) (n % 8 * 8) else drainIndex o t (n / 64) (n % 64) with
  | none => []
  | some (c, r, q) =>
    if bit then (List.range t.planes).map fun pl => (t.planeAddr pl (t.linear c r q), 1) else [(t.addr c r q, 2 ^ t.esize)]

/-- Writes free values at addresses and marks every line of device memory that they touch poisoned. -/
def State.spoilVas (s : State) (m : Mx) (n : Nat) : List (Nat × Nat) → Except (Nat × Nat) State
  | [] => .ok s
  | x :: xs => match s.vwrite m.core (coreDie m.core) m.asid x.1 (natToBytes x.2 (Config.poisonWord m.id n).toNat) with
    | .error e => .error e
    | .ok (s1, _) => (s1.poisonBytes m.core (coreDie m.core) m.asid x.1 x.2).spoilVas m n xs

/-- Writes a drain's output poisoned from the piece where it stands, and the command has failed with DATA (R175). A fault holds it;
a FINAL one is reported, and its piece stays as it was. -/
def State.spoilFrom (s : State) (m : Mx) (o : DrainOct) (t : Tensor) : Nat → State
  | 0 => s.setMx (m.failed 0x0D)
  | n + 1 =>
    match s.spoilVas m m.it (drainVas o t m.it) with
    | .ok s1 => s1.spoilFrom { m with it := m.it + 1 } o t n
    | .error (va, k) =>
      if k ≥ 4 then (s.postFault m.asid va k (faccOf 2 1) (coreSrc m.core) (.mx m.id)).spoilFrom { m with it := m.it + 1 } o t n
      else s.mxFault m va k (faccOf 2 1)

/-- A drain fails with DATA: every element of its output is written poisoned (R175). -/
def State.spoilDrain (s : State) (m : Mx) (o : DrainOct) (t : Tensor) : State := s.spoilFrom { m with spoil := true, it := 0 } o t (drainPieces t)

/-- The amax fold, a drain's last action (R171). -/
def State.foldAmax (s : State) (m : Mx) (t : Tensor) (w : Fmt) : State :=
  match m.peak with
  | none => s.setMx { m with finished := true }
  | some v =>
    if t.amaxa = 0 then s.setMx { m with finished := true }
    else
      let b := if w = f64 then (cvtFF f64 f32 .rup false v).1 else v
      match s.translate m.core (coreDie m.core) m.asid t.amaxa.toNat { w := true } with
      | .error k => s.mxFault m t.amaxa.toNat k (faccOf 2 2)
      | .ok tr =>
        if tr.host.isSome || tr.dev then s.setMx (m.failed 0x0E)
        else if !(s.die tr.home).enabled then s.mxFault m t.amaxa.toNat fkAway (faccOf 2 2)
        else
          let old := bytesToNat (s.physBytes tr.pa 4)
          ((s.writePhys (coreDie m.core) m.asid tr.pa (natToBytes 4 (amaxNew old b))).touch (coreDie m.core) (tr.pa / 128)).setMx { m with finished := true, gw := max m.gw (s.gwctOf tr 4) }

/-- Runs the pieces of an MDRAIN from the next one, then its fold. DEDUCED (log 45). -/
def State.drainFrom (s : State) (m : Mx) (o : DrainOct) (t : Tensor) (acc : Tile) (res : Option Tile) : Nat → State
  | 0 => s.foldAmax m t (if acc.ecode = 1 then f64 else f32)
  | n + 1 =>
    match s.drainPiece m o t acc res m.it with
    | .error e => s.mxFault m e.1 e.2 (faccOf 2 0)
    | .ok p =>
      let s := s.touchScale m o t m.it
      if p.bad then s.spoilDrain m o t
      else match s.writeAll m.core m.asid m.gw p.writes with
        | .error e => s.mxFault m e.1 e.2 (faccOf 2 1)
        | .ok (s1, gw) =>
          let w := if acc.ecode = 1 then f64 else f32
          let peak := match p.peak with | some y => peakOf w m.peak y | none => m.peak
          s1.drainFrom { m with it := m.it + 1, gw := gw, peak := peak, flags := m.flags ||| p.flags } o t acc res n

/-- Carries out an MDRAIN from where it stands. -/
def State.runDrain (s : State) (m : Mx) (o : DrainOct) (t : Tensor) : State :=
  match s.fillRows m.core (m.tiles.headD 0) (List.range 128) with
  | .error e => s.mxFault m e.1 e.2 (faccOf 1 0)
  | .ok s1 => match (if o.resen then s1.fillRows m.core (m.tiles.getD 1 0) (List.range 128) else .ok s1) with
    | .error e => s1.mxFault m e.1 e.2 (faccOf 1 0)
    | .ok s2 => match s2.tile? (m.tiles.headD 0) with
      | none => s2.setMx (m.failed 0x0E)
      | some acc => s2.drainFrom m o t acc (if o.resen then s2.tile? (m.tiles.getD 1 0) else none) (drainPieces t - m.it)

/-! ### The engine's sequence (R159) -/

/-- Carries out a command from where it stands. A command that failed a check at acceptance reads no operand
and changes nothing; one with a poisoned octet fails with DATA (R175, R384). -/
def State.runMx (s : State) (m0 : Mx) : State :=
  let m := { m0 with started := true }
  if m.fail ≠ 0 then s.setMx { m with finished := true }
  else if m.spoil then match m.out with
    | some t => s.spoilFrom m (drainOct m.oct) t (drainPieces t - m.it)
    | none => s.setMx (m.failed 0x0D)
  else if m.poisoned then match m.fn, m.out with
    | 1, some t => s.spoilDrain m (drainOct m.oct) t
    | 1, none => s.setMx (m.failed 0x0D)
    | _, _ => (s.poisonAcc m).setMx (m.failed 0x0D)
  else match m.fn with
    | 0 =>
      let o := loopOct m.oct
      match m.tiles with
      | [uc, ua, ub] => s.loopFrom m o ua ub uc (o.iter - m.it)
      | _ => s.setMx (m.failed 0x0E)
    | 1 => match m.out with
      | some t => s.runDrain m (drainOct m.oct) t
      | none => s.setMx (m.failed 0x09)
    | _ =>
      let zero := fun (t : Tile) =>
        (List.range (t.rows * t.rw)).foldl (fun (t : Tile) i => t.setWord i 0 false) { t with filled := if t.bind.isSome then List.range t.rows else t.filled }
      match s.fillRows m.core (m.tiles.headD 0) (List.range 128) with
      | .error e => s.mxFault m e.1 e.2 (faccOf 1 0)
      | .ok s1 => (s1.updTile (m.tiles.headD 0) zero).setMx { m with finished := true }

/-- The command at the head of a core's sequence. -/
def State.mxHead (s : State) (core : Nat) : Option Mx := s.mxs.find? fun m => m.core == core

/-- MATRIX_COMMAND_START (R159): the head of the sequence is carried out, as far as rings and faults let it. -/
def execMatrixCommandStart (core : Nat) (s : State) : Res :=
  match s.mxHead core with
  | some m => if m.started || m.heldFault then notEnabled else .next (s.runMx m)
  | none => notEnabled

/-- RING_SLOT_READY (R164): the slot that the head waits for is published, and the loop goes on. -/
def execRingSlotReady (core : Nat) (s : State) : Res :=
  match s.mxHead core with
  | some m =>
    let ready := match (m.tiles[1]?).bind s.tile? with
      | some t => match t.ring with | some r => decide (1 ≤ (r.prod - r.cons).toNat ∧ (r.prod - r.cons).toNat < 2 ^ 31) | none => false
      | none => false
    if m.waitRing && ready then .next (s.runMx m) else notEnabled
  | none => notEnabled

/-- Error record of a failed matrix command: its status stands as the syndrome (R175, R388). It names the first of the command's threads. -/
def mxRecord (m : Mx) (g : Option Group) : ErrRec :=
  { id := 0, asid := m.asid, tsc := 0, src := coreSrc m.core, kind := 6, sev := 1, code := m.fail, grp := (g.map (·.grp)).getD 0xFFFFFFFF
    tid := m.tids.head?.getD 0xFFFF, tids := m.tids, pc := m.pc, synd := BitVec.ofNat 128 m.fail, gid := some m.gid }

/-- MATRIX_COMMAND_COMPLETE (R160, R173, R175, R217): once its writes have passed their GWCT, the count falls in the command's threads, its flags become
pending there, and a failure is written into the accumulator's count and into a record. -/
def execMatrixCommandComplete (core : Nat) (s : State) : Res :=
  match s.mxHead core with
  | some m =>
    if !m.finished || (m.gw != 0 && decide (m.gw ≥ s.tsc)) then notEnabled
    else
      let s1 : State := { s with
        mxs := s.mxs.filter fun x => x.id != m.id
        -- the flags of a thread that has ended are discarded (R173)
        mxDone := s.mxDone ++ (m.tids.filter fun t => ((s.thread? m.gid t).map fun x => x.st != .exited).getD false).map fun t => { gid := m.gid, tid := t, flags := m.flags } }
      let s2 := s1.finishAll m.gid m.tids 3
      if m.fail = 0 then .next s2
      else
        let g := s2.group? m.gid
        let s3 := match (g.bind fun g => s2.handle? g (bits (m.oct.getD 0 0).toNat 0 5)) with
          | some t => if t.level = 0 then s2.tileFail t.uid m.fail else s2
          | none => s2
        .next (s3.raiseErr (mxRecord m g))
  | none => notEnabled

/-- A held matrix command tries again (R382). -/
def State.retryMx (s : State) (id : Nat) : State :=
  { s with mxs := s.mxs.map fun m => if m.id == id then { m with heldFault := false, started := false } else m }

/-- A held matrix command fails with ACCESS (R175, R382); one that writes its output poisoned leaves out the piece that it cannot
write. -/
def State.failMx (s : State) (id : Nat) : State :=
  { s with mxs := s.mxs.map fun m =>
      if m.id == id then (if m.spoil then { m with heldFault := false, started := false, it := m.it + 1 } else { m.failed 0x0E with started := true })
      else m }

end Sys2Proof.Machine
end

