-- ==== Sys2Proof/Machine/Launch.lean ====
section
/-! DEFINITION. Launches: what the command processor reads (R324, R325, R417), the refusals (R326), dealing (R28,
R29, R302, R303), completion words, and the start of a span. -/

namespace Sys2Proof.Machine

/-! ### The command processor's accesses (R417) -/

/-- Source number of the command processor (R388). -/
def cpSrc : Nat := srcNum 0 1

/-- A fault of an access of the command processor: address, kind, and 0 for a read or 1 for a write. -/
abbrev CpFault := Nat × Nat × Nat

/-- FACC of such a fault, on the host path. -/
def CpFault.facc (f : CpFault) : Nat := 20 + f.2.2

/-- A read of the command processor; none where the page was answered as unresolvable. -/
def State.cpRead (s : State) (asid : Nat) (dead : List Nat) (va n : Nat) : Except CpFault (Option (List Byte)) :=
  match s.vread ctlUnit 0 asid va n with
  | .ok (b, _) => .ok (some b)
  | .error (a, k) => if dead.contains (a / 65536) then .ok none else .error (a, k, 0)

/-- A write of the command processor, with its GWCT; none where the page was answered as unresolvable. -/
def State.cpWrite (s : State) (asid : Nat) (dead : List Nat) (va : Nat) (bs : List Byte) : Except CpFault (Option (State × Nat)) :=
  match s.vwrite ctlUnit 0 asid va bs with
  | .ok r => .ok (some r)
  | .error (a, k) => if dead.contains (a / 65536) then .ok none else .error (a, k, 1)

/-- The reads of one command: a fault leaves what was read before it, which a retry does not read again (R325, R417). -/
abbrev CpM := StateT Kept (Except (CpFault × Kept))

/-- One read of a command: what it read before the command was held stands. -/
def State.cpFetch (s : State) (asid : Nat) (dead : List Nat) (va n : Nat) : CpM (Option (List Byte × Bool)) := fun kept =>
  match kept.find? fun x => x.1 == va && x.2.1 == n with
  | some x => .ok (x.2.2, kept)
  | none => match s.vread ctlUnit 0 asid va n with
    | .ok b => .ok (some b, (va, n, some b) :: kept)
    | .error (a, k) => if dead.contains (a / 65536) then .ok (none, (va, n, none) :: kept) else .error ((a, k, 0), kept)

/-- The bytes of such a read. -/
def State.cpBytes (s : State) (asid : Nat) (dead : List Nat) (va n : Nat) : CpM (Option (List Byte)) :=
  (Option.map (·.1)) <$> s.cpFetch asid dead va n

/-- A record of command kind (R362). -/
def State.cmdErr (s : State) (asid code addr synd : Nat) : State :=
  s.raiseErr { id := 0, asid := asid, tsc := 0, src := cpSrc, kind := 0xA, sev := 1, addr := BitVec.ofNat 64 addr, code := code
               synd := BitVec.ofNat 128 synd }

/-- A record of graph kind (R309, R337). -/
def State.graphErr (s : State) (asid : Nat) (l : Option Lane) (cause : Nat) : State :=
  s.raiseErr { id := 0, asid := asid, tsc := 0, src := cpSrc, kind := 8, sev := 1, code := (Config.reason 8 cause).toNat
               grp := (l.map (·.g.grp)).getD 0xFFFFFFFF, tid := (l.map (·.cur.tid)).getD 0xFFFF
               pc := if l.isSome then s.issue.pc0.pkt else 0, gid := l.map (·.g.gid) }

/-- The queue whose accesses a status word is among: none for a LAUNCH word's (R338). -/
def wordQueue (q : Nat) (cmd : Option Nat) : Nat := if cmd.isNone then 256 else q

/-- A command ends with a status: its completion word is written, and the command is complete. A word that cannot
be written leaves a record of code CWORD (R417); a fault that can be answered holds it. -/
def State.finishCmd (s : State) (asid q : Nat) (cmd : Option Nat) (cw value : Nat) : State :=
  let done := fun (s : State) => match cmd with | some n => s.queueCmdDone q n | none => s
  if cw = 0 then done s
  else if cw % 8 ≠ 0 then done (s.cmdErr asid 6 cw value)
  else match s.vwrite ctlUnit 0 asid cw (natToBytes 8 value) with
    | .ok (s1, _) => done s1
    | .error (va, k) =>
      if k ≥ 4 then done ((s.postFault asid va k 21 cpSrc (.cword 0)).cmdErr asid 6 cw value)
      else
        let w : CWrite := { id := s.nextId, asid := asid, q := q, cmd := cmd, va := cw, value := value }
        ({ s.fresh with cwrites := s.cwrites ++ [w] }).postFault asid va k 21 cpSrc (.cword w.id)

/-- A result word of a span (R337): as a completion word, and a record of graph kind where it cannot be written. The span's
completion word follows its GWCT (R231). -/
def State.writeResult (s : State) (asid sid va value : Nat) : State :=
  match s.vwrite ctlUnit 0 asid va (natToBytes 8 value) with
  | .ok (s1, gw) => s1.updSpan sid fun x => { x with gw := max x.gw gw }
  | .error (a, k) =>
    if k ≥ 4 then (s.postFault asid a k 21 cpSrc (.cword 0)).graphErr asid none 3
    else
      let w : CWrite := { id := s.nextId, asid := asid, q := 256, cmd := none, va := va, value := value, result := true, sid := sid }
      ({ s.fresh with cwrites := s.cwrites ++ [w] }).postFault asid a k 21 cpSrc (.cword w.id)

/-- An answered word is written again, or left unwritten with its record. -/
def State.answerWord (s : State) (id : Nat) (unresolvable : Bool) : State :=
  match s.cwrites.find? fun w => w.id == id with
  | none => s
  | some w =>
    let s1 : State := { s with cwrites := s.cwrites.filter fun x => x.id != id }
    if w.result then (if unresolvable then s1.graphErr w.asid none 3 else s1.writeResult w.asid w.sid w.va w.value)
    else if unresolvable then
      let s2 := s1.cmdErr w.asid 6 w.va w.value
      match w.cmd with | some n => s2.queueCmdDone w.q n | none => s2
    else s1.finishCmd w.asid w.q w.cmd w.va w.value

/-! ### Records of a launch (R324, R325) -/

/-- A failure status (R326, R330, R339). -/
def statusOf (code : Nat) : Nat := 2 ^ 63 + code

/-- What a kernel header gives: code base, entry packet, allocation (zero for ALLOC = 3), the BARS mark, the tile declarations as
far as they can be read, and whether KHDR refuses it. -/
structure Kernel where
  code : Nat
  entry : Nat
  alloc : Nat
  bars : Bool
  tiles : List (Word × Word)
  bad : Bool := false

/-- Whether a tile declaration passes TALLOC with LEVEL 0 or 1 (R324, R242). -/
def declOk (p : Word × Word) : Bool := shapeOk p.1 p.2 && decide (bits p.2.toNat 8 2 ≤ 1) && bits p.2.toNat 10 22 == 0

/-- Reads a kernel header and its declarations; none where the header cannot be read (R324, R326, R417). -/
def State.readKernel (s : State) (asid : Nat) (dead : List Nat) (va : Nat) : CpM (Option Kernel) := do
  match ← s.cpBytes asid dead va 64 with
  | none => return none
  | some b =>
    let fl := fld b 4 4
    let code := fld b 8 8
    let nt := fld b 0x14 4
    let ts := fld b 0x18 8
    let decl ← if nt = 0 then pure (some []) else if nt > 32 ∨ ts % 8 ≠ 0 then pure none else s.cpBytes asid dead ts (8 * nt)
    let d := decl.getD []
    let tiles := (List.range (d.length / 8)).map fun k => (BitVec.ofNat 32 (fld d (8 * k) 4), BitVec.ofNat 32 (fld d (8 * k + 4) 4))
    let bad := fld b 0 4 != 1 || fl / 8 != 0 || bits fl 1 2 == 3 || code % 64 != 0 || decl.isNone || (nt == 0 && ts != 0)
      || (b.drop 0x20).any (· != 0) || !tiles.all declOk
    let alloc := if bits fl 1 2 = 3 then 0 else 16 * 2 ^ bits fl 1 2
    return some { code := code, entry := fld b 0x10 4, alloc := alloc, bars := bits fl 0 1 == 1, tiles := tiles, bad := bad }

/-- Bytes that declarations take of a level. -/
def declBytes (tiles : List (Word × Word)) (level : Nat) : Nat :=
  (tiles.filter fun p => bits p.2.toNat 8 2 == level).foldl (fun n p =>
    n + tileBytes (bits p.1.toNat 0 16) (rowWords (bits p.1.toNat 16 16) (bits p.2.toNat 0 4) (bits p.2.toNat 4 4))) 0

/-- What a launch descriptor names. -/
structure LaunchInfo where
  cw : Nat
  codes : List Nat
  x0 : Nat
  y0 : Nat
  w : Nat
  h : Nat
  n : Nat
  gsz : Nat
  leaf : Bool
  sel : Nat
  mask : Nat
  args : List Word
  argBad : List Nat                -- words of the argument block that are poisoned
  kernel : Option Kernel
  cores : List Nat
  tree : Option TreeDesc

/-- Reads a launch descriptor and what it names, with the refusals that hold (R325, R326); none where the
descriptor itself cannot be read. `want` is the LEAF bit that the command asks for. DEDUCED (log 51). -/
def State.readLaunch (s : State) (asid : Nat) (dead : List Nat) (va : Nat) (want : Option Bool) : CpM (Option LaunchInfo) := do
  match ← s.cpBytes asid dead va 64 with
  | none => return none
  | some b =>
    let khdr := fld b 0 8
    let x0 := fld b 8 1
    let y0 := fld b 9 1
    let lw := fld b 0xA 1
    let lh := fld b 0xB 1
    let n := fld b 0xC 4
    let gsz := fld b 0x10 2
    let lf := fld b 0x12 2
    let leaf := bits lf 0 1 == 1
    let sel := bits lf 1 2
    let argp := fld b 0x18 8
    let cw := fld b 0x20 8
    let tree := fld b 0x28 8
    let mask := fld b 0x30 8
    let w := 2 ^ min lw 5
    let h := 2 ^ min lh 4
    let cores := s.rectCores x0 y0 w h
    let argb ← if argp = 0 ∨ argp % 4 ≠ 0 then pure (List.replicate 15 (some (List.replicate 4 0, false)))
      else (List.range 15).mapM fun j => s.cpFetch asid dead (argp + 4 * j) 4
    let k ← if khdr % 64 ≠ 0 then pure none else s.readKernel asid dead khdr
    let tb ← if leaf && tree % 64 == 0 && tree != 0 then s.cpBytes asid dead tree 64 else pure none
    let t := tb.bind (parseTree tree)
    let ldesc := fld b 0x14 4 != 0 || fld b 0x38 8 != 0 || lf / 8 != 0 || khdr % 64 != 0 || argp % 4 != 0 || cw % 8 != 0 || tree % 64 != 0
      || sel == 3 || (tree != 0) != leaf || (mask != 0) != (sel == 2) || (sel != 0 && !leaf) || (want.map (· != leaf)).getD false || argb.contains none
    let codes :=
      [(0x20, decide (lw > 5 ∨ lh > 4 ∨ x0 > 31 ∨ y0 > 15) || x0 % w != 0 || y0 % h != 0), (0x21, cores.isEmpty),
       (0x22, (if leaf then n != 0 else n == 0) || decide (gsz = 0 ∨ gsz > 1024)),
       (0x23, match k with | some k => decide (declBytes k.tiles 0 > levelSize 0 ∨ declBytes k.tiles 1 > levelSize 1) | none => false),
       (0x25, khdr % 64 == 0 && (k.map (·.bad)).getD true), (0x26, ldesc), (0x2D, leaf && tree % 64 == 0 && tree != 0 && t.isNone)]
    return some
      { cw := cw, codes := (codes.filter (·.2)).map (·.1), x0 := x0, y0 := y0, w := w, h := h, n := n, gsz := gsz, leaf := leaf, sel := sel, mask := mask
        args := argb.map fun a => BitVec.ofNat 32 (bytesToNat ((a.map (·.1)).getD []))
        argBad := (List.range 15).filter fun j => (((argb.getD j none).map (·.2)).getD false)
        kernel := k, cores := cores, tree := t }

/-! ### Leaf selection and dealing (R302, R303) -/

/-- A leaf that the walk of the node pool finds. -/
structure LeafSlot where
  slot : Nat
  va : Nat
  o : Vox

/-- The leaves that a node of level 1 points to; no leaf is read. -/
def nodeSlots (t : TreeDesc) (nd : TNode) (entries : List Byte) : List LeafSlot :=
  (List.range 64).filterMap fun i =>
    if bits nd.cm i 1 = 0 then none
    else
      let va := fld entries (8 * i) 8
      (slotOf t.leafp.toNat (leafStride t.vfmt) (2 ^ t.lbits) va).map fun q =>
        { slot := q, va := va, o := { x := nd.o.x + 8 * (i % 4 : Nat), y := nd.o.y + 8 * (i / 4 % 4 : Nat), z := nd.o.z + 8 * (i / 16 : Nat) } }

/-- The slots of a freed chain of the node pool (R184). -/
def State.cpChain (s : State) (asid : Nat) (dead : List Nat) (base count head : Nat) (seen : List Nat) : Nat → OptionT CpM (List Nat)
  | 0 => pure seen
  | n + 1 =>
    if head = 0 ∨ head ≥ count ∨ seen.contains head then pure seen
    else do
      let b ← OptionT.mk (s.cpBytes asid dead (base + 576 * head) 4)
      s.cpChain asid dead base count (bytesToNat b) (seen ++ [head]) n

/-- Walks the node pool once: every present leaf, in ascending slot index (R302); none where a page of it cannot be read. -/
def State.leafSlots (s : State) (asid : Nat) (dead : List Nat) (t : TreeDesc) : OptionT CpM (List LeafSlot) := do
  let p := readPool (← OptionT.mk (s.cpBytes asid dead t.nodep.toNat 0x1C))
  let count := min p.nnext (2 ^ t.nbits)
  let freed ← s.cpChain asid dead t.nodep.toNat (2 ^ t.nbits) p.nfree [] count
  let found ← ((List.range count).filter fun k => k != 0 && !freed.contains k).mapM fun k => do
    let h ← OptionT.mk (s.cpBytes asid dead (t.nodep.toNat + 576 * k) 576)
    let nd := readNode (t.nodep.toNat + 576 * k) h
    return if nd.level = 1 then nodeSlots t nd (h.drop 0x40) else []
  return sortBy (·.slot) found.flatten

/-- Selects leaves by a condition on bytes that are read for each; none where they cannot be read. -/
def selectBy (read : LeafSlot → CpM (Option (List Byte))) (test : LeafSlot → List Byte → Bool) : List LeafSlot → OptionT CpM (List LeafSlot)
  | [] => pure []
  | x :: xs => do
    let b ← OptionT.mk (read x)
    let rest ← selectBy read test xs
    return if test x b then x :: rest else rest

/-- The leaves that a launch selects (R302), or the code of its refusal (R417). -/
def State.selectLeaves (s : State) (asid : Nat) (dead : List Nat) (i : LaunchInfo) (t : TreeDesc) : CpM (Except Nat (List LeafSlot)) := do
  match ← (s.leafSlots asid dead t).run with
  | none => return .error 0x2D
  | some l =>
    let orCode := fun (code : Nat) (r : Option (List LeafSlot)) => match r with | some l => Except.ok l | none => .error code
    match i.sel with
    | 1 => return orCode 0x2D (← (selectBy (fun x => s.cpBytes asid dead (x.va + 0x20) 64) (fun _ b => b.any (· != 0)) l).run)
    | 2 => return orCode 0x26 (← (selectBy (fun x => s.cpBytes asid dead (i.mask + x.slot / 8) 1)
        (fun x b => bits (bytesToNat b) (x.slot % 8) 1 == 1) l).run)
    | _ => return .ok l

/-- Deals leaf groups (R303): `ch` are the counters of the dies, `cx` the other counter, `g` the next group. -/
def State.dealLeaves (s : State) (asid : Nat) (root : DWord) (cores : List Nat) : List LeafSlot → List Nat → Nat → Nat → List (Nat × Nat × LeafInfo)
  | [], _, _, _ => []
  | x :: xs, ch, cx, g =>
    let home := match s.translate ctlUnit 0 asid x.va {} with
      | .ok t => if t.host.isSome || t.dev then 0 else t.home
      | .error _ => 0
    let near := cores.filter fun c => coreDie c == home
    let info : LeafInfo := { root := root, slot := x.slot, x := BitVec.ofInt 32 x.o.x, y := BitVec.ofInt 32 x.o.y, z := BitVec.ofInt 32 x.o.z }
    if near.isEmpty then (cores.getD (cx % cores.length) 0, g, info) :: s.dealLeaves asid root cores xs ch (cx + 1) (g + 1)
    else
      let c := ch.getD home 0
      (near.getD (c % near.length) 0, g, info) :: s.dealLeaves asid root cores xs (setAt ch home (c + 1)) cx (g + 1)

/-- Groups that each core receives. -/
def dealCounts (i : LaunchInfo) (items : List (Nat × Nat × LeafInfo)) : List Nat :=
  if i.leaf then i.cores.map fun c => (items.filter fun x => x.1 == c).length
  else
    let p := i.cores.length
    (List.range p).map fun k => (i.n + p - 1 - k) / p

/-- Threads of a group that a quarter holds (R22). -/
def quarterThreads (gsz q : Nat) : Nat :=
  ((List.range 16).filter fun b => b % 4 == q).foldl (fun n b => n + min 64 (gsz - 64 * b)) 0

/-- Whether k groups of a launch can be resident together on one core (R25, R125). -/
def fitTogether (maxg : Nat) (k : Kernel) (gsz n : Nat) : Bool :=
  decide (n ≤ 16 ∧ n ≤ maxg ∧ n * declBytes k.tiles 0 ≤ levelSize 0 ∧ n * declBytes k.tiles 1 ≤ levelSize 1)
    && (List.range 4).all fun q => decide (n * quarterThreads gsz q * k.alloc * 4 ≤ 65536)

/-- What becomes of a launch: its descriptor cannot be read, it waits, it is refused, it selects no leaf, or it is dealt. -/
inductive Launched where
  | unreadable
  | waits (root : DWord)           -- for the end of the sweep of its tree (R192, R200)
  | refused (cw code : Nat)
  | nothing (cw : Nat)
  | dealt (i : LaunchInfo) (k : Kernel) (d : Deal) (n : Nat)

/-- Where a launch is refused already, only BARSFIT, which asks how its groups are dealt, can still be of a lower code: the walk of a leaf
launch is made for it, and does not hold the refusal (R326). -/
def refuseBy (i : LaunchInfo) (k : Kernel) (code : Nat) (walk : CpM Launched) : CpM Launched := fun kept =>
  if code = 0 then walk kept
  else if !k.bars || (i.leaf && i.codes.contains 0x26) then .ok (.refused i.cw code, kept)
  else match walk kept with
    | .ok (.waits _, k) => .ok (.refused i.cw code, k)
    | .ok r => .ok r
    | .error _ => .ok (.refused i.cw code, kept)

/-- Reads, checks and deals a launch (R325, R326, R28, R29, R302, R303, R125). Of several refusals the lowest code
is written. A leaf launch of a tree whose sweep is running waits for its end (R200). -/
def State.tryLaunch (s : State) (asid : Nat) (dead : List Nat) (va : Nat) (want : Option Bool) (extra : List Nat) : CpM Launched := do
  match ← s.readLaunch asid dead va want with
  | none => return .unreadable
  | some i =>
    let low := fun (l : List Nat) => lowest (l.map fun c => (c, true))
    let code := low (i.codes ++ extra)
    match i.kernel, i.tree with
    | some k, t =>
      if code ≠ 0 ∧ code ≤ 0x24 then return .refused i.cw code
      if i.cores.isEmpty || (i.leaf && t.isNone) then return .refused i.cw code
      refuseBy i k code do
      if let some root := (if i.leaf then t.map (·.root) else none) then if s.sweeping root then return .waits root
      let sel ← match i.leaf, t with | true, some t => s.selectLeaves asid dead i t | _, _ => pure (.ok [])
      match sel with
      | .error c => return .refused i.cw (low ([c] ++ i.codes ++ extra))
      | .ok l =>
        let items := s.dealLeaves asid ((t.map (·.root)).getD 0) i.cores l (List.replicate 8 0) 0 0
        let maxg := ((s.ctx? asid).map (·.maxg)).getD 0
        let fits := !k.bars || (dealCounts i items).all (fitTogether maxg k i.gsz)
        let code := low ((if fits then [] else [0x24]) ++ i.codes ++ extra)
        if code ≠ 0 then return .refused i.cw code
        if i.leaf && l.isEmpty then return .nothing i.cw
        let d := if i.leaf then Deal.leaves items else Deal.rect i.cores (List.range i.cores.length)
        return .dealt i k d (if i.leaf then l.length else i.n)
    | none, _ => return .refused i.cw code

/-- Whether the command processor has started a span in this tick: it starts them one at a time, so each has a tick of
dispatch of its own (R294, log 23). -/
def State.startedNow (s : State) : Bool := s.spans.any fun x => x.tick == s.tsc

/-- Starts the span of a dealt launch: its groups wait for their cores (R28, R29). -/
def State.startSpan (s : State) (asid q tag prio : Nat) (cmd : Option Nat) (i : LaunchInfo) (k : Kernel) (d : Deal) (n : Nat)
    (node : Option NodeRun) (args : List Word) (argBad : List Nat) (after : Nat) : State :=
  let sp : Span :=
    { sid := s.nextId, asid := asid, q := q, tag := tag, cmd := cmd, prio := prio, x0 := i.x0, y0 := i.y0, w := i.w, h := i.h, n := n, gsz := i.gsz
      alloc := k.alloc, cbase := BitVec.ofNat 64 k.code, entry := k.entry, bars := k.bars, tiles := k.tiles, args := args, argBad := argBad, after := after
      cw := BitVec.ofNat 64 i.cw, deal := d, tick := s.tsc, tree := if i.leaf then i.tree else none, node := node }
  { s.fresh with spans := s.spans ++ [sp] }

end Sys2Proof.Machine
end

