-- ==== Sys2Proof/Machine/Queue.lean ====
section
/-! DEFINITION. Hardware queues and their commands (R293, R294, R360-R363, R417), and what an exchange holds back
(R313). -/

namespace Sys2Proof.Machine

/-! ### Exchanges and their release lists (R313) -/

/-- Whether a step is at least k, as a signed value of the difference (R313). -/
def stepReached (c k : Word) : Bool := !(c - k).msb

/-- Whether step k is complete on this device (R313). -/
def Exch.complete (e : Exch) (k : Word) : Bool := stepReached e.self k && (e.nbr.take e.nn).all fun c => stepReached c k

/-- Whether a context's exchanges hold a queue or a graph node back (R313). -/
def State.heldBack (s : State) (asid num : Nat) (isNode : Bool) : Bool :=
  match s.ctx? asid with
  | none => false
  | some c => c.exch.any fun e => e.rel.any fun r => r.2.1 == num && r.2.2 == isNode && !e.complete (BitVec.ofNat 32 r.1)

/-! ### Fetching a record (R293, R294, R360, R362) -/

/-- Fields of a record (R361). -/
def recOp (b : List Byte) : Nat := fld b 2 1

/-- Whether the octet of a COPY or RELEASE record keeps its zero fields: bits 15:7 of S+0, and HANDLE (R262, R361). -/
def copyOctOk (oct : Nat) : Bool := bits oct 0 5 == 0 && bits oct 7 9 == 0

/-- Whether the octet of a COLL record keeps its zero fields (R340, R361). -/
def collOctOk (oct : Nat) : Bool :=
  bits oct 6 2 == 0 && bits oct 12 20 == 0 && bits oct 37 27 == 0 && bits oct 128 64 == 0

/-- Whether a matched record may be acted on (R361, R362). DEDUCED (log 50). -/
def recordOk (b : List Byte) : Bool :=
  let op := recOp b
  let a0 := fld b 8 8
  let a1 := fld b 0x10 8
  let a2 := fld b 0x18 8
  let oct := fld b 0x20 32
  let k := fld b 4 2
  decide (1 ≤ op ∧ op ≤ 8) && decide (fld b 3 1 < 2) && decide (fld b 6 2 ≤ 2047) && (op == 4 || op == 6 || op == 7 || k == 0)
    && match op with
      | 4 => a0 == 0 && a1 == 0 && a2 == 0 && copyOctOk oct
      | 5 => decide (a2 < 16) && oct == 0 && a0 % (if bits a2 3 1 = 1 then 8 else 4) == 0
      | 6 => a0 == 0 && a2 == 0 && copyOctOk oct
      | 7 => a0 == 0 && a1 == 0 && a2 == 0 && collOctOk oct
      | 8 => a0 == 0 && a1 == 0 && a2 == 0 && oct == 0
      | _ => a1 == 0 && a2 == 0 && oct == 0

/-- Whether a queue is held at an access of one of its commands (R417). -/
def State.queueHeld (s : State) (x : Queue) : Bool :=
  x.heldFault || (s.cwrites.any fun w => w.q == x.q && w.asid == x.asid)
    || s.graphs.any fun g => g.q == x.q && g.asid == x.asid && g.nodes.any (·.hold)

/-- Whether a queue can start its head command: bound, not stopped, not held, the command before it dispatched
(R293). -/
def State.canStart (s : State) (x : Queue) : Bool :=
  !x.stopped && !s.queueHeld x && x.record.isNone && x.refetch.isNone && x.head != x.tail
    && (x.cmds.all fun c => c.dispatched || c.complete) && !s.heldBack x.asid x.q false

/-- Whether a LAUNCH word waits for the end of a sweep (R200). -/
def State.wordWaits (s : State) (r : LaunchReq) : Bool := (r.waits.map s.sweeping).getD false

/-- The oldest LAUNCH word that names a queue of its context and may start (R338). -/
def State.wordOf (s : State) (x : Queue) : Option LaunchReq := s.launches.find? fun r => r.q == x.q && r.asid == x.asid && !r.held && !s.wordWaits r

/-- Whether a LAUNCH word stands as though it were the head command of a queue that can start it: it waits for a stopped or a held
queue, and not for the queue's own commands (R294, R313, R338, R362). -/
def State.wordReady (s : State) (x : Queue) : Bool :=
  (s.wordOf x).isSome && !x.stopped && !s.queueHeld x && !s.heldBack x.asid x.q false

/-- The queue that the command processor serves next: the highest priority, round-robin after the one served last
(R294). -/
def State.nextQueue (s : State) : Option Queue :=
  minBy? (fun x =>
    let last := ((s.proc.last.find? fun p => p.1 == x.prio).map (·.2)).getD 255
    (7 - x.prio) * 256 + (x.q + 511 - last) % 256) (s.queues.filter fun x => s.canStart x || s.wordReady x)

/-- The command processor has served a queue last. -/
def State.servedQueue (s : State) (x : Queue) : State :=
  let p : CmdProc := { last := (x.prio, x.q) :: s.proc.last.filter fun p => p.1 != x.prio }
  { s with proc := p }

/-- A queue stops with a record of command kind (R362). A command that had been started and not dispatched is
dropped. -/
def State.stopQueue (s : State) (q code addr : Nat) : State :=
  match s.queue? q with
  | none => s
  | some x =>
    (s.updQueue q fun x =>
      { x with stopped := true, misses := 0, refetch := none, record := none, release := none, heldFault := false, dead := [], kept := []
               cmds := x.cmds.filter fun c => c.dispatched }).cmdErr x.asid code addr 0

/-- A command is held at an access that faults, with what it has read (R417). -/
def State.holdQueue (s : State) (x : Queue) (f : CpFault) (kept : Kept := []) : State :=
  let s1 := s.postFault x.asid f.1 f.2.1 f.facc cpSrc (.command x.q)
  s1.updQueue x.q fun y => { y with heldFault := y.heldFault || decide (f.2.1 < 4), dead := (f.1 / 65536) :: y.dead, kept := kept }

/-- Fetches and checks the head record of a queue (R362). -/
def State.fetchRecord (s : State) (x : Queue) : State :=
  let va := x.base.toNat + 64 * x.head
  match s.cpRead x.asid x.dead va 64 with
  | .error f => s.holdQueue x f
  | .ok none => s.stopQueue x.q 3 va
  | .ok (some b) =>
    if fld b 0 2 ≠ x.tag then
      if x.misses ≥ 64 then s.stopQueue x.q 1 va
      else s.updQueue x.q fun y => { y with misses := y.misses + 1, refetch := some (s.tsc + 1000), dead := [] }
    else if !recordOk b then s.stopQueue x.q 2 va
    else
      let c : CmdRec :=
        { n := x.count, op := recOp b, msix := if bits (fld b 3 1) 0 1 = 1 then some (fld b 6 2) else none, port := x.port }
      s.updQueue x.q fun y =>
        { y with
          head := (y.head + 1) % 2 ^ y.logn, tag := (y.tag + 1) % 2 ^ 16, misses := 0, refetch := none, dead := []
          record := some b, count := y.count + 1, cmds := (y.cmds.filter fun c => !c.complete) ++ [c] }

/-- COMMAND_FETCH (R293, R294, R362). -/
def execCommandFetch (s : State) : Res :=
  match s.nextQueue with
  | none => notEnabled
  | some x => if s.canStart x then .next ((s.servedQueue x).fetchRecord x) else notEnabled

/-- RECORD_REFETCH (R362): 1 µs after a mismatch the record is fetched again. -/
def execRecordRefetch (q : Nat) (s : State) : Res :=
  match s.queue? q with
  | some x =>
    match x.refetch with
    | some t => if t ≤ s.tsc ∧ !x.stopped ∧ !x.heldFault then .next (s.fetchRecord x) else notEnabled
    | none => notEnabled
  | none => notEnabled

/-- The record that a queue's started command is, where it has one of the operation that is not held. -/
def State.started (s : State) (q op : Nat) : Option (Queue × List Byte × Nat) :=
  match s.queue? q with
  | none => none
  | some x => match x.record with
    | some b => if recOp b = op && !x.heldFault && !x.stopped then some (x, b, x.count - 1) else none
    | none => none

/-- A started command has been dispatched: the next of its queue can start (R293). -/
def State.dispatched (s : State) (q n : Nat) : State :=
  let mark := fun (c : CmdRec) => { c with dispatched := true }
  s.updQueue q fun x =>
    { x with record := none, dead := [], kept := [], heldFault := false, release := none, cmds := updWhere (fun c => c.n == n) mark x.cmds }

/-! ### LAUNCH and LAUNCH.LEAF (R293, R302, R325, R326, R338) -/

/-- What a launch comes to (R326, R417): its span starts, or its status is written. The status word of a LAUNCH word is no access of the
queue that it names (R338). -/
def State.launchOutcome (s : State) (asid q tag prio : Nat) (cmd : Option Nat) (desc : Nat) (r : Launched) : State :=
  let done := fun (s : State) => match cmd with | some n => s.queueCmdDone q n | none => s
  match r with
  | .unreadable => done (s.cmdErr asid 5 desc (statusOf 0x26))
  | .waits _ => s
  | .refused cw code => s.finishCmd asid (wordQueue q cmd) cmd cw (statusOf code)
  | .nothing cw => s.finishCmd asid (wordQueue q cmd) cmd cw 1
  | .dealt i k d n => s.startSpan asid q tag prio cmd i k d n none i.args i.argBad 0

/-- Carries out a launch record. A misaligned descriptor address is refused with a status that no word receives. -/
def launchRecord (q op : Nat) (s : State) : Res :=
  match s.started q op with
  | none => notEnabled
  | some (x, b, n) =>
    let desc := fld b 8 8
    if s.startedNow then notEnabled
    else if desc % 64 ≠ 0 then .next ((s.dispatched q n).cmdErr x.asid 6 0 (statusOf 0x26) |>.queueCmdDone q n)
    else match s.tryLaunch x.asid x.dead desc (some (op == 2)) [] x.kept with
      | .error (f, kept) => .next (s.holdQueue x f kept)
      | .ok (.waits _, kept) => if x.kept = kept then notEnabled else .next (s.updQueue q fun y => { y with kept := kept })
      | .ok (r, _) => .next ((s.dispatched q n).launchOutcome x.asid q (fld b 0 2) x.prio (some n) desc r)

/-- Starts a LAUNCH word's span as though it were the head command of its queue (R338). DEDUCED (log 53). -/
def State.launchWord (s : State) (r : LaunchReq) : State :=
  let x := (s.queue? r.q).bind fun x => if x.asid == r.asid then some x else none
  let extra := (if x.isNone then [0x27] else []) ++ (if r.bad then [0x26] else [])
  let s0 : State := { s with launches := s.launches.filter fun y => y.id != r.id }
  if r.desc % 64 ≠ 0 then s0.cmdErr r.asid 6 0 (statusOf 0x26)
  else match s.tryLaunch r.asid r.dead r.desc none extra r.kept with
    | .error (f, kept) =>
      let hold := fun (y : LaunchReq) => { y with held := decide (f.2.1 < 4), dead := (f.1 / 65536) :: y.dead, kept := kept }
      { s with launches := updWhere (fun y => y.id == r.id) hold s.launches }.postFault r.asid f.1 f.2.1 f.facc cpSrc (.launchWord r.id)
    | .ok (.waits root, kept) =>
      let wait := fun (y : LaunchReq) => { y with waits := some root, kept := kept }
      { s with launches := updWhere (fun y => y.id == r.id) wait s.launches }
    | .ok (l, _) => s0.launchOutcome r.asid r.q ((Config.spanWord s.nextId 0).toNat % 2 ^ 16) ((x.map (·.prio)).getD 0) none r.desc l

/-- The LAUNCH word that the command processor may start for a queue now, with the queue (R294, R338): of a queue bound to the word's
context, in its turn; where no queue of that number is bound to it, at once, to be refused with CONTEXT. -/
def State.startableWord (s : State) (q : Nat) : Option (LaunchReq × Option Queue) :=
  match s.launches.find? fun r => r.q == q && !r.held && !s.wordWaits r && !((s.queue? q).map fun x => x.asid == r.asid).getD false with
  | some r => some (r, none)
  | none => match s.nextQueue with
    | some x => if x.q = q && s.wordReady x then (s.wordOf x).map fun r => (r, some x) else none
    | none => none

/-- LAUNCH_COMMAND (R293, R325, R338): a LAUNCH record of the queue, else the oldest LAUNCH word that names it, in the queue's turn. -/
def execLaunchCommand (q : Nat) (s : State) : Res :=
  match s.started q 1 with
  | some _ => launchRecord q 1 s
  | none => match s.startableWord q with
    | some (r, x) => if s.startedNow then notEnabled else .next (((x.map s.servedQueue).getD s).launchWord r)
    | none => notEnabled

/-- LAUNCH_LEAF (R302). -/
def execLaunchLeaf (q : Nat) (s : State) : Res := launchRecord q 2 s

/-! ### COPY, RELEASE, WAITWORD and FENCE (R293, R311, R361) -/

/-- The core whose cluster's copy engine takes a queue's copies: the first that is present (log 20). -/
def State.queueCore (s : State) : Nat := ((List.range 320).find? s.present).getD 0

/-- Hands a record's copy to a copy engine (R293). -/
def State.handCopy (s : State) (x : Queue) (b : List Byte) (n : Nat) (late : Bool) : State :=
  let r := s.makeCopy s.queueCore none x.asid 0 (fld b 4 1) (fld b 5 1) (natToWords 8 (fld b 0x20 32)) false (some (x.q, n))
  let mark := fun (c : Copy) => { c with late := late }
  { r.2 with copies := updWhere (fun c => c.id == r.1) mark r.2.copies }.dispatched x.q n

/-- COPY_COMMAND (R361). -/
def execCopyCommand (q : Nat) (s : State) : Res :=
  match s.started q 4 with
  | none => notEnabled
  | some (x, b, n) => .next (s.handCopy x b n false)

/-- RELEASE (R311): its copy is handed over at its release time, or at once after it, marked late. -/
def execRelease (q : Nat) (s : State) : Res :=
  match s.started q 6 with
  | none => notEnabled
  | some (x, b, n) =>
    let t := fld b 0x10 8
    if x.release.isSome then notEnabled
    else if s.tsc < t then .next (s.updQueue q fun x => { x with release := some t })
    else .next (s.handCopy x b n (decide (s.tsc > t)))

/-- RELEASE_TIME (R311). -/
def execReleaseTime (q : Nat) (s : State) : Res :=
  match s.started q 6 with
  | none => notEnabled
  | some (x, b, n) => match x.release with
    | some t => if t ≤ s.tsc then .next (s.handCopy x b n false) else notEnabled
    | none => notEnabled

/-- WAITWORD (R293): registers an entry, and its command completes when the entry wakes. -/
def execWaitword (q : Nat) (s : State) : Res :=
  match s.started q 5 with
  | none => notEnabled
  | some (x, b, _) =>
    let va := fld b 8 8
    let a2 := fld b 0x18 8
    let wide := bits a2 3 1 == 1
    let n := if wide then 8 else 4
    match s.translateAll ctlUnit 0 x.asid va n { r := true } with
    | .error (a, k) => if x.dead.contains (a / 65536) then .next (s.stopQueue q 4 va) else .next (s.holdQueue x (a, k, 0))
    | .ok [] => .next (s.stopQueue q 4 va)
    | .ok ((t, _) :: _) =>
      if t.host.isSome || t.dev || t.fut then .next (s.stopQueue q 4 va)
      else
        let e : Monitor :=
          { id := s.nextId, asid := x.asid, die := t.home, slice := homeSlice (t.pa / 128), pa := t.pa, va := BitVec.ofNat 64 va, wide := wide
            cmp := bits a2 0 3, opnd := BitVec.ofNat 64 (fld b 0x10 8), timeout := 0, who := .queue q }
        .next ({ s.fresh with monitors := s.monitors ++ [e] }.updQueue q fun x => { x with record := none, dead := [], kept := [] })

/-- FENCE_COMMAND (R293): complete once every earlier command of its queue is. -/
def execFenceCommand (q : Nat) (s : State) : Res :=
  match s.started q 8 with
  | none => notEnabled
  | some (x, _, n) =>
    if x.cmds.all fun c => c.n == n || c.complete then .next ((s.dispatched q n).queueCmdDone q n) else notEnabled

/-! ### LAUNCH (R338) -/

/-- A graph word that acts once for its pack and occupies no counter (R333): poison (R384), then its effect. -/
def packOnce (i : Instr) (sreg : Nat) (act : Lane → State → State) (s : State) : Res :=
  runWord i (fun l s =>
    match s.issue.cmd with
    | some _ => .ok s
    | none => match l.consumeOct sreg with
      | .error e => .error e
      | .ok bad =>
        let s1 : State := { s with issue := { s.issue with cmd := some 0 } }
        .ok (if bad then s1.graphErr l.g.asid (some l) 0 else act l s1)) s

/-- LAUNCH (R338): the command processor gets a launch to start; the thread goes on. -/
def execLaunch (c : BitVec 1) (sr : BitVec 6) (s : State) : Res :=
  packOnce (.launch c sr) sr.toNat (fun l s =>
    let o := l.g.octet sr.toNat
    let w2 := (o.getD 2 0).toNat
    let r : LaunchReq :=
      { id := s.nextId, asid := l.g.asid, q := w2 % 256, desc := octPair o 0, bad := w2 / 256 != 0 || (o.drop 3).any (· != 0) }
    { s.fresh with launches := s.launches ++ [r] }) s

end Sys2Proof.Machine
end

