-- ==== Sys2Proof/Machine/Coll.lean ====
section
/-! DEFINITION. Work across devices: exchanges and steps (R312-R314), COLL, HALO, STEP and STEPWAIT (R339-R343),
and what another device sends (R209, R341). -/

namespace Sys2Proof.Machine

/-- Source number of the collective engine (R388). -/
def linkSrc : Nat := srcNum 0 0x020

/-- A record of link kind (R339, R342, R343). -/
def State.linkErr (s : State) (asid code addr : Nat) (g : Option Group) (tid : Option Nat) (pc : DWord) (oct : List Word) : State :=
  s.raiseErr { id := 0, asid := asid, tsc := 0, src := linkSrc, kind := 9, sev := 1, addr := BitVec.ofNat 64 addr, code := code
               grp := (g.map (·.grp)).getD 0xFFFFFFFF, tid := tid.getD 0xFFFF, pc := pc, synd := BitVec.ofNat 128 (wordsToNat (oct.take 4)), gid := g.map (·.gid) }

/-! ### Exchanges (R313) -/

/-- Reads an entry of the exchange table and its release list. An entry whose fields are out of range is an
unconfigured exchange, which has no neighbour. What the words of NBR beyond NN hold is not looked at. DESIGN CHOICE (log 56). -/
def parseExch (n : Nat) (b rel : List Byte) : Exch :=
  let nn := fld b 4 1
  let len := fld b 0x10 4
  let ws := (List.range len).map fun k => fld rel (8 * k) 8
  let ok := decide (1 ≤ nn ∧ nn ≤ 16 ∧ 1 ≤ fld b 5 1 ∧ fld b 5 1 ≤ 15 ∧ len ≤ 256) && fld b 6 2 == 0 && fld b 8 8 % 8 == 0
    && ((b.drop 0x14).take 44).all (· == 0) && ws.all fun w => decide (w < 2 ^ 49)
  if ok then
    { n := n, self := BitVec.ofNat 32 (fld b 0 4), nn := nn, lead := fld b 5 1, rlist := BitVec.ofNat 64 (fld b 8 8), rlen := len
      nbr := (List.range 16).map fun k => BitVec.ofNat 32 (fld b (0x40 + 4 * k) 4)
      rel := ws.map fun w => (w % 2 ^ 32, bits w 32 16, bits w 48 1 == 1) }
  else { n := n, self := 0, nn := 0, lead := 0, rlist := 0, rlen := 0, nbr := [] }

/-- The exchange of a number, where it has been used before. -/
def State.exch? (s : State) (asid n : Nat) : Option Exch := (s.ctx? asid).bind fun c => c.exch.find? fun e => e.n == n

/-- Puts an exchange's entry into its context. -/
def State.setExch (s : State) (asid : Nat) (e : Exch) : State :=
  s.updCtx asid fun c => { c with exch := e :: c.exch.filter fun x => x.n != e.n }

/-- Reads an exchange's entry from a virtual address. DEDUCED (log 56). -/
def State.readExch (s : State) (asid n va : Nat) : Except (Nat × Nat) Exch :=
  match s.ctlRead asid va 128 with
  | .error e => .error e
  | .ok b =>
    let l := fld b 8 8
    let len := fld b 0x10 4
    if l = 0 ∨ l % 8 ≠ 0 ∨ len = 0 ∨ len > 256 then .ok (parseExch n (if l = 0 then b.take 0x10 ++ natToBytes 4 0 ++ b.drop 0x14 else b) [])
    else match s.ctlRead asid l (8 * len) with
      | .error e => .error e
      | .ok r => .ok (parseExch n b r)

/-- The exchange table is read at the first use of each exchange (R349). -/
def State.loadExch (s : State) (asid n : Nat) : Except (Nat × Nat) State :=
  match s.ctx? asid with
  | none => .ok s
  | some c =>
    if c.exch.any fun e => e.n == n then .ok s
    else if c.exchp = 0 then .ok (s.setExch asid (parseExch n [] []))
    else match s.readExch asid n (c.exchp.toNat + 128 * n) with
      | .error e => .error e
      | .ok x => .ok (s.setExch asid x)

/-- Whether the lead allowance holds (R314). -/
def Exch.leadOk (e : Exch) : Bool := (e.nbr.take e.nn).all fun n => decide ((e.self - n).toInt ≤ e.lead)

/-! ### STEPWAIT (R343) -/

/-- Threads that wait at an exchange, with their cores. -/
def State.stepWaiters (s : State) (asid n : Nat) : List (Group × Nat) :=
  (s.groups.filter fun g => g.asid == asid).flatMap fun g =>
    (g.threads.filter fun t => t.st == .parked (.stepWait n)).map fun t => (g, t.tid)

/-- Waiting threads go on. The edge of R314: their cores keep no older copy of a line. -/
def State.passSteps (s : State) : List (Group × Nat) → State
  | [] => s
  | (g, t) :: ws =>
    let drop : State := { s with l1 := s.l1.filter fun x => x.core != g.core }
    (drop.deliver g.gid t 0 [] none).passSteps ws

/-- Waiting threads go on with a record each. -/
def State.failSteps (s : State) (code : Nat) : List (Group × Nat) → State
  | [] => s
  | (g, t) :: ws => ((s.linkErr g.asid code 0 (some g) (some t) (((g.thread? t).map (·.pc.pkt)).getD 0) []).deliver g.gid t 0 [] none).failSteps code ws

/-- Serves the threads that wait at an exchange whose entry is read. -/
def State.serveSteps (s : State) (asid n : Nat) : State :=
  match s.exch? asid n with
  | none => s
  | some e =>
    if e.nn = 0 then s.failSteps 0x30 (s.stepWaiters asid n)
    else if e.leadOk then s.passSteps (s.stepWaiters asid n)
    else s

/-- Serves the threads that wait at an exchange, whose entry is read for them at its first use. -/
def State.settleExch (s : State) (asid n : Nat) : State :=
  if (s.stepWaiters asid n).isEmpty || (s.linkCmds.any fun c => c.fn == 3 && c.asid == asid && c.exch == n) then s
  else match s.loadExch asid n with
    | .ok s1 => s1.serveSteps asid n
    | .error (va, k) =>
      if k ≥ 4 then (s.postFault asid va k 16 linkSrc (.link 0)).failSteps 0x36 (s.stepWaiters asid n)
      else
        let c : LinkCmd := { id := s.nextId, gid := none, tids := [], asid := asid, fn := 3, oct := [], exch := n, heldFault := true }
        ({ s.fresh with linkCmds := s.linkCmds ++ [c] }).postFault asid va k 16 linkSrc (.link c.id)

/-- The exchanges at which threads wait. -/
def State.waitedExch (s : State) : List (Nat × Nat) :=
  s.groups.flatMap fun g => g.threads.filterMap fun t => match t.st with | .parked (.stepWait n) => some (g.asid, n) | _ => none

/-- Applies the wake rule of STEPWAIT everywhere (R314). -/
def State.settleSteps (s : State) : State := s.waitedExch.foldl (fun s p => s.settleExch p.1 p.2) s

/-- STEPWAIT (R343): the thread goes on at once where the allowance holds, and parks otherwise. -/
def execStepwait (c : BitVec 1) (sr : BitVec 6) (s : State) : Res :=
  runWord (.stepwait c sr) (fun l s =>
    match l.grant s with
    | some _ => .ok s
    | none => match l.consumeOct sr.toNat with
      | .error e => .error e
      | .ok bad =>
        let o := l.g.octet sr.toNat
        let n := (o.getD 0 0).toNat
        let err := fun (code : Nat) => s.linkErr l.g.asid code 0 (some l.g) (some l.cur.tid) s.issue.pc0.pkt o
        if bad then .ok (err 0x19)
        else if n ≥ 64 then .ok (err 0x30)
        else if (o.drop 1).any (· != 0) then .ok (err 0x34)
        else match s.exch? l.g.asid n with
          | none => .error (.park (.stepWait n))
          | some e =>
            if e.nn = 0 then .ok (err 0x30)
            else if e.leadOk then .ok { s with l1 := s.l1.filter fun x => x.core != l.g.core }
            else .error (.park (.stepWait n))) s

/-! ### Acceptance of COLL, HALO and STEP (R333, R339) -/

/-- Makes a link command at acceptance: its octet and its tensor entries stand from then on. DEDUCED (log 57). -/
def State.makeLink (s : State) (gid : Option Nat) (asid fn k k2 : Nat) (o : List Word) (bad : Bool) (queue : Option (Nat × Nat)) : Nat × State :=
  let c : LinkCmd :=
    { id := s.nextId, gid := gid, tids := [], asid := asid, fn := fn, oct := o, pc := if gid.isSome then s.issue.pc0.pkt else 0, queue := queue, poisoned := bad
      t1 := if fn = 0 then s.tensor? asid k else none, t2 := if fn = 0 then s.tensor? asid k2 else none, exch := (o.getD 0 0).toNat % 64 }
  (c.id, { s.fresh with linkCmds := s.linkCmds ++ [c] })

/-- Adds a thread to a link command. -/
def joinLink (id tid : Nat) (s : State) : State :=
  { s with linkCmds := s.linkCmds.map fun c => if c.id == id then { c with tids := c.tids ++ [tid] } else c }

/-- A link word that gives rise to a command: it counts in the copy class (R333). -/
def linkWord (i : Instr) (fn sreg k k2 : Nat) (s : State) : Res :=
  engineWord i 2 sreg (fun _ _ => false) (fun l bad s => .ok (s.makeLink (some l.g.gid) l.g.asid fn k k2 (l.g.octet sreg) bad none)) joinLink s

/-- COLL (R340). -/
def execColl (c : BitVec 1) (sr : BitVec 6) (k j : BitVec 8) (s : State) : Res := linkWord (.coll c sr k j) 0 sr.toNat k.toNat j.toNat s
/-- HALO (R341). -/
def execHalo (c : BitVec 1) (sr : BitVec 6) (s : State) : Res := linkWord (.halo c sr) 1 sr.toNat 0 0 s
/-- STEP (R342). -/
def execStep (c : BitVec 1) (sr : BitVec 6) (s : State) : Res := linkWord (.step c sr) 2 sr.toNat 0 0 s

/-- COLL_COMMAND (R361): the collective engine accepts a queue's COLL. -/
def execCollCommand (q : Nat) (s : State) : Res :=
  match s.started q 7 with
  | none => notEnabled
  | some (x, b, n) =>
    .next ((s.makeLink none x.asid 0 (fld b 4 1) (fld b 5 1) (natToWords 8 (fld b 0x20 32)) false (some (q, n))).2.dispatched q n)

/-! ### The transfers (R340, R341) -/

/-- An access of the collective engine that reads n bytes. -/
def State.linkRead (s : State) (asid va n : Nat) : Except EngFault (List Byte × Bool) :=
  match s.vread ctlUnit 0 asid va n with
  | .error e => .error (e.1, e.2, 0)
  | .ok r => .ok r

/-- Address of an element by its number in the order of R88. -/
def Tensor.nth (t : Tensor) (i : Nat) : Nat := t.addr (i % t.extent 0) (i / t.extent 0 % t.extent 1) (i / (t.extent 0 * t.extent 1))

/-- Reads the elements of a tensor in order, and whether any is poisoned. -/
def State.readElems (s : State) (asid : Nat) (t : Tensor) : List Nat → Except EngFault (List Nat × Bool)
  | [] => .ok ([], false)
  | i :: is => do
    let (b, p) ← s.linkRead asid (t.nth i) (2 ^ t.esize)
    let (vs, q) ← s.readElems asid t is
    return (bytesToNat b :: vs, p || q)

/-- Writes the elements of a tensor in order, with the greatest GWCT. -/
def State.writeElems (s : State) (asid : Nat) (t : Tensor) (poison : Bool) (gw : Nat) : List (Nat × Nat) → Except EngFault (State × Nat)
  | [] => .ok (s, gw)
  | (i, v) :: ws => match s.vwrite ctlUnit 0 asid (t.nth i) (natToBytes (2 ^ t.esize) v) with
    | .error e => .error (e.1, e.2, 1)
    | .ok (s1, g) =>
      let s2 := if poison then (match s1.translate ctlUnit 0 asid (t.nth i) { w := true } with
        | .ok tr => if tr.dev then s1 else s1.poisonLine (tr.cell / 128)
        | .error _ => s1) else s1
      s2.writeElems asid t poison (max gw g) ws

/-- Floating-point format of an element format, and of the sums that it takes part in (R340). -/
def collFmt (f : Nat) : Option (Fmt × Fmt) :=
  match f with
  | 1 => some (f32, f32) | 2 => some (f64, f64) | 3 => some (f16, f32) | 4 => some (bf16, f32) | _ => none

/-- The sum over the ranks, in rank order, and the flags of its roundings (R340). -/
def collSum (fmt : Nat) (vs : List Nat) : Nat × Flags :=
  match collFmt fmt, vs with
  | some (f, w), v :: vs =>
    let r := vs.foldl (fun (a : FVal × Nat × Flags) x =>
      let y := faddV w .rne a.1 (fdec f x)
      (fdec w y.1, y.1, a.2.2 ||| y.2)) (fdec f v, v, 0)
    if f.width = w.width then (r.2.1, r.2.2)
    else
      let y := cvtFF w f .rne false r.2.1
      (y.1, r.2.2 ||| y.2)
  | _, vs => (vs.foldl (· + ·) 0 % 2 ^ 32, 0)

/-- What rank r holds as element i of its source: this device's own, or what the member sends (log 19). -/
def collElem (c : LinkCmd) (es r0 : Nat) (own : List Nat) (r i : Nat) : Nat :=
  if r = r0 then own.getD i 0
  else bytesToNat ((List.range (2 ^ es)).map fun b => Config.peerByte c.id r (i * 2 ^ es + b))

/-- The elements that this member writes, and the flags raised (R340). -/
def collResult (c : LinkCmd) (t : Tensor) (kind r0 m e : Nat) (own : List Nat) : List Nat × Flags :=
  let el := collElem c t.esize r0 own
  let sums := fun (base : Nat) => (List.range e).map fun i => collSum t.fmt ((List.range m).map fun r => el r (base + i))
  match kind with
  | 0 => ((sums 0).map (·.1), (sums 0).foldl (fun f x => f ||| x.2) 0)
  | 1 => ((List.range m).flatMap fun r => (List.range e).map fun i => el r i, 0)
  | 2 => ((sums (r0 * e)).map (·.1), (sums (r0 * e)).foldl (fun f x => f ||| x.2) 0)
  | _ => ((List.range e).map fun i => el 0 i, 0)

/-- Fields of a COLL octet that are out of order (R340). -/
def collBadFields (o : List Word) (nn : Nat) : Bool :=
  bits (o.getD 0 0).toNat 12 20 != 0 || o.getD 4 0 != 0 || o.getD 5 0 != 0 || octPair o 6 % 8 != 0 || decide ((o.getD 1 0).toNat > nn)

/-- Whether the ranks of a COLL's members are not the numbers from 0 on, each used once (R340). -/
def collBadRanks (o : List Word) (nn : Nat) (table : List Nat) : Bool :=
  let r0 := (o.getD 1 0).toNat
  !((List.range (nn + 1)).all fun r => r == r0 || table.contains r) || (table.any fun r => r == r0)

/-- Counts of a COLL that differ from what its kind asks for (R340). -/
def collBadCounts (kind r0 m : Nat) (t1 t2 : Option Tensor) : Bool :=
  let a := (t1.map Tensor.count).getD 0
  let b := (t2.map Tensor.count).getD 0
  match kind with
  | 0 => a != b
  | 1 => b != m * a
  | 2 => a != m * b
  | _ => r0 == 0 && a != b

/-- COLL (R340): its checks and then its transfers. The rank table is read where no other check has failed, each of whose codes is the
lower one (R339). -/
def State.moveColl (s : State) (c : LinkCmd) (e : Exch) : Except EngFault (State × LinkCmd) := do
  let o := c.oct
  let kind := bits (o.getD 0 0).toNat 8 4
  let r0 := (o.getD 1 0).toNat
  let m := e.nn + 1
  let useK := decide (kind ≠ 3 ∨ r0 = 0)
  let fmts := fun (t : Option Tensor) => (t.map (·.fmt)).getD 0
  let allowed := decide (kind ≥ 4) || if kind = 1 ∨ kind = 3 then fmts c.t2 != 0x10 else [1, 2, 3, 4, 5].contains (fmts c.t2)
  let fail := lowest
    [(0x31, !((List.range e.nn).all fun n => Config.peerUp c.id n)),
     (0x32, c.t2.isNone || (useK && c.t1.isNone)),
     (0x33, !allowed || (useK && fmts c.t1 != fmts c.t2)),
     (0x34, decide (kind ≥ 4) || collBadFields o e.nn || collBadCounts kind r0 m c.t1 c.t2 || !Config.peerAgrees c.id)]
  match c.t2 with
  | none => return (s, { c with moved := true, fail := fail })
  | some t2 =>
    if fail ≠ 0 then return (s, { c with moved := true, fail := fail })
    let (tb, _) ← s.linkRead c.asid (octPair o 2) (4 * e.nn)
    if collBadRanks o e.nn ((List.range e.nn).map fun n => fld tb (4 * n) 4) then return (s, { c with moved := true, fail := 0x34 })
    let src := if useK then c.t1 else none
    let (own, bad) ← match src with
      | some t1 => s.readElems c.asid t1 (List.range t1.count)
      | none => .ok ([], false)
    let n := match kind, c.t1 with | 1, some t1 => t1.count | _, _ => t2.count
    let (dst, fl) := collResult c t2 kind r0 m n own
    let (s1, gw) ← s.writeElems c.asid t2 bad 0 ((List.range dst.length).zip dst)
    return (s1, { c with moved := true, gw := gw, flags := fl, fail := if bad then 0x19 else 0 })

/-- One entry of a HALO list: whether a zero field is nonzero, and the field code with which it fails. The source
leaf is read whole. The code of a neighbour that there is not is free, and no success (R341, log 57). -/
def State.haloEntry (s : State) (c : LinkCmd) (e : Exch) (k : Nat) : Except EngFault (Bool × Nat) := do
  let (b, _) ← s.linkRead c.asid (octPair c.oct 2 + 32 * k) 32
  let bad := (b.drop 9).take 7 |>.any (· != 0)
  if bad || fld b 0x1C 4 != 0 then return (true, 0)
  if fld b 8 1 ≥ e.nn then return (false, (Config.reason 9 1).toNat % 255 + 1)
  let (h, _) ← s.linkRead c.asid (fld b 0 8) 0x60
  let _ ← s.linkRead c.asid (fld b 0 8 + 0x60) (512 * vfmtBytes (fld h 12 1))
  return (false, (Config.peerStatus c.id k).toNat)

/-- The entries of a HALO list in order, from the k-th on: those that the context reported as unresolvable are passed over (R339). A
fault comes with its entry. -/
def State.haloEntries (s : State) (c : LinkCmd) (e : Exch) : List Nat → Except (EngFault × Nat) (List (Bool × Nat))
  | [] => .ok []
  | k :: ks => do
    let x ← if c.skip.contains (k + 1) then pure (false, 0) else (s.haloEntry c e k).mapError fun f => (f, k + 1)
    let xs ← s.haloEntries c e ks
    return x :: xs

/-- HALO (R341): leaves go to the neighbours' allocator engines, whose answers come back. Of several failures the lowest code stands
(R339). -/
def State.moveHalo (s : State) (c : LinkCmd) (e : Exch) : Except (EngFault × Nat) (State × LinkCmd) := do
  let o := c.oct
  let n := (o.getD 1 0).toNat
  let down := !((List.range e.nn).all fun n => Config.peerUp c.id n)
  let zero := decide (n ≥ 2 ^ 16) || octPair o 2 % 32 != 0 || octPair o 6 % 8 != 0
  if down || zero then return (s, { c with moved := true, fail := lowest [(0x31, down), (0x34, zero)] })
  if !c.skip.contains 0 then
    let _ ← (s.linkRead c.asid (octPair o 4) (8 * e.nn)).mapError fun f => (f, 0)
  let xs ← s.haloEntries c e (List.range n)
  let first := ((xs.find? fun x => x.2 != 0).map (·.2)).getD 0
  let fail := if xs.any (·.1) then 0x34 else if first ≠ 0 then 0x35 + first * 256 else if c.skip.isEmpty then 0 else 0x36
  return (s, { c with moved := true, fail := fail })

/-- Carries out a link command's transfers, or finds its failure (R339). -/
def State.moveLink (s : State) (c : LinkCmd) : Except (EngFault × Nat) (State × LinkCmd) :=
  let w := (c.oct.getD 0 0).toNat
  let outside := if c.fn = 0 then bits w 6 2 != 0 else decide (w ≥ 64)
  match s.loadExch c.asid c.exch with
  | .error e => .error ((e.1, e.2, 0), 0)
  | .ok s1 =>
    match s1.exch? c.asid c.exch with
    | none => .ok (s1, { c with moved := true, fail := 0x30 })
    | some e =>
      if c.poisoned then .ok (s1, { c with moved := true, fail := 0x19 })
      else if outside || e.nn == 0 then .ok (s1, { c with moved := true, fail := 0x30 })
      else match c.fn with
        | 0 => (s1.moveColl c e).mapError fun f => (f, 0)
        | 1 => s1.moveHalo c e
        | _ =>
          let down := !((List.range e.nn).all fun n => Config.peerUp c.id n)
          .ok (s1, { c with moved := true, fail := lowest [(0x31, down), (0x34, (c.oct.drop 1).any (· != 0))] })

/-! ### Completion (R339) -/

/-- Replaces a link command. -/
def State.setLink (s : State) (c : LinkCmd) : State := { s with linkCmds := s.linkCmds.map fun x => if x.id == c.id then c else x }

/-- Ends a link command: the copy class count falls in its threads. -/
def State.endLink (s : State) (c : LinkCmd) : State :=
  let s1 : State := { s with linkCmds := s.linkCmds.filter fun x => x.id != c.id }
  let s2 := match c.gid with | some g => s1.finishAll g c.tids 2 | none => s1
  match c.queue with
  | some (q, n) => s2.queueCmdDone q n
  | none => s2

/-- The completion word of a link command; STEP has none. -/
def LinkCmd.cw (c : LinkCmd) : Nat := if c.fn = 2 then 0 else octPair c.oct 6

/-- Value of the completion word (R339, R340). -/
def LinkCmd.value (c : LinkCmd) : Nat := if c.fail = 0 then 1 + c.flags.toNat * 256 else statusOf c.fail

/-- The third stage: SELF rises by one and the neighbours have the report (R314); a failure leaves its record. -/
def State.tellLink (s : State) (c : LinkCmd) : State :=
  let up := fun (x : Exch) => if x.n == c.exch && x.nn != 0 && c.fail != 0x30 then { x with self := x.self + 1 } else x
  let s1 := s.updCtx c.asid fun x => { x with exch := x.exch.map up }
  if c.fail = 0 then s1 else s1.linkErr c.asid c.fail 0 (c.gid.bind s.group?) c.tids.head? c.pc c.oct

/-- A link command with an access that the context reports as unresolvable: ACCESS, and a HALO whose exchange is read goes on with its
other entries (R339, R341). -/
def State.denied (s : State) (c : LinkCmd) (n : Nat) : LinkCmd :=
  if c.fn = 1 ∧ (s.exch? c.asid c.exch).isSome then { c with heldFault := false, skip := n :: c.skip } else { c with heldFault := false, moved := true, fail := 0x36 }

/-- LINK_COMMAND_COMPLETE (R339): the transfers, the wait for the write completion times, then the report, the
completion word and the end, in acceptance order on an exchange. -/
def execLinkCommandComplete (id : Nat) (s : State) : Res :=
  match s.linkCmds.find? fun c => c.id == id with
  | none => notEnabled
  | some c =>
    if c.heldFault || (s.linkCmds.any fun x => x.asid == c.asid && x.exch == c.exch && x.fn != 3 && c.fn != 3 && decide (x.id < c.id)) then notEnabled
    else if c.fn = 3 then .next { s with linkCmds := s.linkCmds.filter fun x => x.id != id }.settleSteps
    else match (if c.moved then .ok (s, c) else s.moveLink c) with
      | .error ((va, k, acc), n) =>
        let held := if k ≥ 4 then s.denied c n else { c with heldFault := true, entry := n }
        .next ((s.setLink held).postFault c.asid va k (16 + acc) linkSrc (.link id))
      | .ok (s, c) =>
        if c.gw ≥ s.tsc ∧ c.gw ≠ 0 then .next (s.setLink c)
        else
          let s1 := if c.told then s else s.tellLink c
          let c := { c with told := true }
          if c.cw = 0 then .next (s1.endLink c).settleSteps
          else match s1.vwrite ctlUnit 0 c.asid c.cw (natToBytes 8 c.value) with
            | .ok (s2, _) => .next (s2.endLink c).settleSteps
            | .error (va, k) =>
              if k ≥ 4 then
                .next (((s1.postFault c.asid va k 17 linkSrc (.link id)).linkErr c.asid 0x36 c.cw (c.gid.bind s1.group?) c.tids.head? c.pc c.oct).endLink c).settleSteps
              else .next (((s1.setLink { c with heldFault := true }).postFault c.asid va k 17 linkSrc (.link id)).settleSteps)

/-- A link command held under a fault that the context reports as unresolvable: ACCESS, or, where only its
completion word is left, its end with a record. -/
def State.failLink (s : State) (id : Nat) : State :=
  match s.linkCmds.find? fun c => c.id == id with
  | none => s
  | some c =>
    if c.fn = 3 then { s with linkCmds := s.linkCmds.filter fun x => x.id != id }.failSteps 0x36 (s.stepWaiters c.asid c.exch)
    else if c.told then (s.linkErr c.asid 0x36 c.cw (c.gid.bind s.group?) c.tids.head? c.pc c.oct).endLink c
    else s.setLink (s.denied c c.entry)

/-- STEP_REPORT (R314): a neighbour's step lands as its NBR entry, after what has come for the context before it has landed (R341).
DEDUCED (log 58). -/
def execStepReport (asid exch n : Nat) (step : Word) (s : State) : Res :=
  if (s.ctx? asid).isNone || decide (exch ≥ 64) || s.arrivals.any (fun a => a.asid == asid) then notEnabled
  else match s.loadExch asid exch with
    | .error _ => notEnabled
    | .ok s1 =>
      match s1.exch? asid exch with
      | none => notEnabled
      | some e =>
        if n < e.nn then .next (s1.setExch asid { e with nbr := setAt e.nbr n step }).settleSteps
        else .next s1

/-! ### What another device sends (R209, R341) -/

/-- Source number of the Galgal Link port of an arrival (R388). -/
def portSrc (id : Nat) : Nat := srcNum 0 (0x100 + (Config.arrivalPort id).val)

/-- Bytes of another device land at their address; a fault holds them. -/
def State.landArrival (s : State) (a : Arrival) : State :=
  let rest := s.arrivals.filter fun x => x.id != a.id
  match s.vwrite ctlUnit 0 a.asid a.va a.data with
  | .ok (s1, _) => { s1 with arrivals := rest }
  | .error (va, k) =>
    let s1 : State := { s with arrivals := if k ≥ 4 then rest else { a with held := true } :: rest }
    s1.postFault a.asid va k 17 (portSrc a.id) (.arrival a.id)

/-- LINK_WRITE_ARRIVAL (R209, R341): bytes land on the link path; a leaf goes to the allocator engine. -/
def execLinkWriteArrival (asid va : Nat) (data : List Byte) (origin : Option (Word × Word × Word)) (s : State) : Res :=
  match s.ctx? asid with
  | none => notEnabled
  | some _ =>
    let a : Arrival := { id := s.nextId, asid := asid, va := va, data := data, origin := origin }
    match origin with
    | none => .next (s.fresh.landArrival a)
    | some _ => .next { s.fresh with arrivals := s.arrivals ++ [a], allocQ := s.allocQ ++ [.halo a.id] }

/-- A held arrival is tried again, or dropped where the context reports its page as unresolvable. -/
def State.answerArrival (s : State) (id : Nat) (unresolvable : Bool) : State :=
  match s.arrivals.find? fun a => a.id == id with
  | none => s
  | some a => if unresolvable then { s with arrivals := s.arrivals.filter fun x => x.id != id } else s.landArrival { a with held := false }

/-- Inserts a neighbour's leaf and writes its mask and values over it (R341); nothing where it fails. -/
def State.placeHalo (s : State) (a : Arrival) (v : Vox) : Except (Nat × Nat × Nat) State :=
  match s.ctlRead a.asid a.va 64 with
  | .error e => .error (e.1, e.2, 12)
  | .ok b =>
    match parseTree a.va b with
    | none => .ok s
    | some t =>
      if t.vfmt ≠ fld a.data 0 1 then .ok s
      else match s.insertLeaf a.asid t v with
        | .error e => .error (e.1, e.2.1, 12 + e.2.2)
        | .ok (p, s1, _) =>
          if p.code ≠ 0 then .ok s
          else match s1.vwrite ctlUnit 0 a.asid (t.leafp.toNat + leafStride t.vfmt * p.slot + 0x20) (a.data.drop 1) with
            | .error e => .error (e.1, e.2, 17)
            | .ok (s2, _) => .ok s2

/-- ALLOCATOR_REQUEST (R198, R200, R341): the request at the head of the allocator engine's queue is served, once the engine's sweep has
ended. -/
def execAllocatorRequest (s : State) : Res :=
  if s.allocHeld || s.marked.any fun m => m.held || m.swept then notEnabled
  else match s.allocQ with
    | [] => notEnabled
    | .word id :: q =>
      match s.fieldOps.find? fun o => o.id == id with
      | none => .next { s with allocQ := q }
      | some o => match o.tree with
        | none => .next { s with allocQ := q }
        | some t => .next (s.serveWord_ o t)
    | .halo id :: q =>
      match s.arrivals.find? fun a => a.id == id with
      | none => .next { s with allocQ := q }
      | some a =>
        let o := a.origin.getD (0, 0, 0)
        let gone := s.arrivals.filter fun x => x.id != id
        match s.placeHalo a (voxOf o.1 o.2.1 o.2.2) with
        | .ok s1 => .next { s1 with allocQ := q, arrivals := gone }
        | .error (va, k, facc) =>
          if k ≥ 4 then .next { s.postFault a.asid va k facc allocSrc .alloc with allocQ := q, arrivals := gone }
          else .next { s.postFault a.asid va k facc allocSrc .alloc with allocHeld := true }

end Sys2Proof.Machine
end

