-- ==== Sys2Proof/Machine/Graph.lean ====
section
/-! DEFINITION. Work graphs: the checks of a graph (R327-R330), reservations (R305, R306, R334-R336), selectors and
result words (R309, R337), and the dispatch and end of nodes (R307, R310, R331, R332). -/

namespace Sys2Proof.Machine

/-! ### Reading and checking a graph (R327-R330) -/

/-- A node record (R329). -/
def readGNode (b : List Byte) (n : Nat) : GNode :=
  let o := 64 * n
  { n := n, kind := fld b o 1, inedge := fld b (o + 1) 1, nbranch := fld b (o + 2) 1, fallback := fld b (o + 3) 1, nb := fld b (o + 4) 4
    ldesc := BitVec.ofNat 64 (fld b (o + 8) 8), deadline := fld b (o + 0x10) 8, margin := fld b (o + 0x18) 4, timer := fld b (o + 0x1C) 4
    branch := (List.range 16).map fun k => fld b (o + 0x20 + k) 1 }

/-- An edge record (R328). -/
def readGEdge (b : List Byte) (n : Nat) : GEdge :=
  { n := n, slots := fld b (16 * n) 4, prod := fld b (16 * n + 4) 1, cons := fld b (16 * n + 5) 1 }

/-- The nodes that a node's branches name (R329). -/
def GNode.targets (x : GNode) : List Nat := (x.branch.take (min x.nbranch 16)).filter (· != 0xFF)

/-- The links of a graph (R330). -/
def graphLinks (ns : List GNode) (es : List GEdge) : List (Nat × Nat) :=
  (es.map fun e => (e.prod, e.cons)) ++ ns.flatMap fun x => (x.targets ++ if x.fallback = 0xFF then [] else [x.fallback]).map fun m => (x.n, m)

/-- Nodes that stay after removing, n times, those without a link to a node that stays. -/
def cyclic (links : List (Nat × Nat)) : Nat → List Nat → List Nat
  | 0, l => l
  | n + 1, l => cyclic links n (l.filter fun a => links.any fun p => p.1 == a && l.contains p.2)

/-- Whether a node record breaks R329 or R330. -/
def GNode.bad (x : GNode) (b : List Byte) (nn ne : Nat) (kinds : List Nat) : Bool :=
  let once := x.kind == 0
  let names := x.targets ++ (if x.fallback = 0xFF then [] else [x.fallback])
  decide (x.kind > 3) || (if once then x.inedge != 0xFF else decide (x.inedge ≥ ne))
    || decide (x.nbranch > 16) || (!once && x.nbranch != 0)
    || (if x.kind = 2 then decide (x.nb < 1 ∨ x.nb > 1024 ∨ x.timer < 1 ∨ x.timer > 1000000) else x.nb != 0 || x.timer != 0)
    || (x.deadline == 0 && x.margin != 0) || ((x.branch.drop x.nbranch).any (· != 0xFF))
    || (names.any fun m => decide (m ≥ nn) || kinds.getD m 0 != 0) || ((b.drop (64 * x.n + 0x30)).take 16).any (· != 0)

/-- Whether an edge record breaks R328 or R330. -/
def GEdge.bad (e : GEdge) (b : List Byte) (ns : List GNode) : Bool :=
  decide (e.slots < 1 ∨ e.slots > 65535 ∨ e.prod ≥ ns.length) || ((b.drop (16 * e.n + 6)).take 10).any (· != 0)
    || match ns.find? fun x => x.n == e.cons with
      | some x => x.kind == 0 || x.inedge != e.n
      | none => true

/-- A node of kind 0 with two branches or more needs a launch of one group (R330): whether one has another. -/
def State.branchCounts (s : State) (asid : Nat) (dead : List Nat) : List GNode → CpM Bool
  | [] => pure false
  | x :: xs => do
    let rest ← s.branchCounts asid dead xs
    if x.kind = 0 ∧ x.nbranch ≥ 2 ∧ x.ldesc.toNat % 64 = 0 then
      match ← s.cpBytes asid dead (x.ldesc.toNat + 0xC) 4 with
      | none => return rest        -- the node's own launch is refused when it is dispatched (R417)
      | some b => return rest || bytesToNat b != 1
    else return rest

/-- What becomes of a GRAPH command. -/
inductive Graphed where
  | unreadable
  | refused (cw code : Nat)
  | started (g : Graph)

/-- The entry nodes (R329): of kind 0, named by no branch and no fallback. -/
def entryNodes (ns : List GNode) : List Nat :=
  (ns.filter fun x => x.kind == 0 && ns.all fun y => !y.targets.contains x.n && y.fallback != x.n).map (·.n)

/-- Reads and checks a graph (R327-R330). A table that cannot be read, or whose address is misaligned, gives NODE, beside what the
other table shows. -/
def State.tryGraph (s : State) (x : Queue) (cmd tag va : Nat) : CpM Graphed := do
  match ← s.cpBytes x.asid x.dead va 64 with
  | none => return .unreadable
  | some b =>
    let nodes := fld b 0 8
    let edges := fld b 8 8
    let nn := fld b 0x10 2
    let ne := fld b 0x12 2
    let rsize := fld b 0x14 4
    let back := fld b 0x18 8
    let rcount := fld b 0x20 4
    let cw := fld b 0x28 8
    let shape := decide (1 ≤ nn ∧ nn ≤ 255 ∧ ne ≤ 256 ∧ 16 ≤ rsize ∧ rsize ≤ 65536) && rsize % 16 == 0 && nodes % 64 == 0 && edges % 16 == 0
      && (ne != 0 || edges == 0) && back % 64 == 0 && (ne == 0 || rcount != 0) && cw % 8 == 0 && fld b 0x24 4 == 0 && (b.drop 0x30).all (· == 0)
    let table := fun (n size va align : Nat) => if n = 0 then pure (some []) else if va % align ≠ 0 then pure none else s.cpBytes x.asid x.dead va (size * n)
    let nb ← table nn 64 nodes 64
    let eb ← table ne 16 edges 16
    let ns := ((List.range nn).map (readGNode (nb.getD []))).take ((nb.getD []).length / 64)
    let es := ((List.range ne).map (readGEdge (eb.getD []))).take ((eb.getD []).length / 16)
    let cyc := !(cyclic (graphLinks ns es) nn (List.range nn)).isEmpty
    let nofb := ns.any fun x => x.deadline != 0 && x.fallback == 0xFF
    let bad := !shape || nb.isNone || eb.isNone || (ns.any fun y => y.bad (nb.getD []) nn ne (ns.map (·.kind)))
      || (es.any fun e => e.bad (eb.getD []) ns)
    let code := lowest [(0x2A, cyc), (0x2B, nofb), (0x2C, bad)]
    if code ≠ 0 then return .refused cw code
    if ← s.branchCounts x.asid x.dead ns then return .refused cw 0x2C
    let ent := entryNodes ns
    return .started
      { id := s.nextId, asid := x.asid, q := x.q, cmd := some cmd, tag := tag, prio := x.prio
        nodes := ns.map fun y => if ent.contains y.n then { y with ready := [(s.tsc, y.n, [])] } else y
        edges := es, rsize := rsize, back := BitVec.ofNat 64 back, rcount := rcount, cw := BitVec.ofNat 64 cw }

/-! ### Blocks, slots and reservations (R304-R306, R334-R336) -/

/-- Changes a node of a graph. -/
def State.updNode (s : State) (graph n : Nat) (f : GNode → GNode) : State :=
  s.updGraph graph fun g => { g with nodes := updWhere (fun x => x.n == n) f g.nodes }

/-- Changes an edge of a graph. -/
def State.updEdge (s : State) (graph e : Nat) (f : GEdge → GEdge) : State :=
  s.updGraph graph fun g => { g with edges := updWhere (fun x => x.n == e) f g.edges }

/-- The place in a graph of a group that a node started, and its graph. -/
def State.placeOf (s : State) (g : Group) : Option (NodeRun × Graph) :=
  ((s.span? g.sid).bind (·.node)).bind fun r => (s.graph? r.graph).map fun gr => (r, gr)

/-- Payload address of a block (R327, R334). -/
def Graph.payload (g : Graph) (block : Nat) : Nat := g.back.toNat + block * g.rsize + 8

/-- The free slot of the lowest index, and the free block of the lowest number (R335; log 21). DEDUCED (log 21). -/
def lowestFree (n : Nat) (used : List Nat) : Option Nat := (List.range n).find? fun k => !used.contains k

/-- A slot and a block return (R306). -/
def State.freeRecord (s : State) (graph e slot block : Nat) : State :=
  (s.updEdge graph e fun x => { x with used := x.used.filter (· != slot) }).updGraph graph fun g =>
    { g with usedBlocks := g.usedBlocks.filter (· != block) }

/-- Gives a thread a slot and a block of an edge (R335). -/
def State.reserve (s : State) (graph e slot block gid tid : Nat) : State :=
  let s1 := (s.updEdge graph e fun x => { x with used := insertNat slot x.used }).updGraph graph fun g => { g with usedBlocks := insertNat block g.usedBlocks }
  s1.updThread gid tid fun t => { t with res := t.res ++ [{ edge := e, slot := slot, block := block }] }

/-- Releases a thread's reservation on an edge unpublished. -/
def State.dropReservation (s : State) (graph gid tid e : Nat) : State :=
  match (s.thread? gid tid).bind fun t => t.res.find? fun r => r.edge == e with
  | none => s
  | some r => (s.freeRecord graph e r.slot r.block).updThread gid tid fun t => { t with res := t.res.filter fun r => r.edge != e }

/-- Publishes a thread's reservation in commit order (R336). -/
def State.publish (s : State) (graph gid tid e : Nat) : State :=
  match (s.thread? gid tid).bind fun t => t.res.find? fun r => r.edge == e with
  | none => s
  | some r => (s.updEdge graph e fun x => { x with committed := x.committed ++ [(r.slot, r.block, s.tsc)] }).updThread gid tid
      fun t => { t with res := t.res.filter fun r => r.edge != e }

/-- The control die writes a thread's table entry, and the thread goes on (R334): its core holds no copy of the entry's line from before
the write, which is a synchronisation edge to the thread's later accesses. A fault on the table holds the
answer; one that cannot be answered gives the tile access trap, and the reservation made is released. -/
def State.answerAsk (s : State) (gid tid : Nat) (commit : Bool) (e : Nat) (table raddr : DWord) (slot stat : Nat) : State :=
  match s.group? gid with
  | none => s
  | some g =>
    let graph := ((s.placeOf g).map fun p => p.1.graph).getD 0
    let at_ := table.toNat + 16 * tid
    let w := if commit then s.vwrite ctlUnit 0 g.asid (at_ + 0xC) (natToBytes 4 stat)
      else s.vwrite ctlUnit 0 g.asid at_ (natToBytes 8 raddr.toNat ++ natToBytes 4 slot ++ natToBytes 4 stat)
    match w with
    | .ok (s1, _) =>
      let s2 := s1.dropRead g.core g.asid at_ 16
      (if commit && stat == 0 then s2.publish graph gid tid e else s2).deliver gid tid 0 [] none
    | .error (va, k) =>
      let s1 := s.postFault g.asid va k 21 cpSrc (.enq gid tid)
      if k ≥ 4 then (s1.dropReservation graph gid tid e).takeTrap gid tid 3 0 0
      else s1.updThread gid tid fun t => { t with st := .answering commit e table raddr slot stat }

/-- A held answer is written again, or given up (R334). -/
def State.retryAsk (s : State) (gid tid : Nat) (unresolvable : Bool) : State :=
  match s.group? gid, s.thread? gid tid with
  | some g, some t => match t.st with
    | .answering c e table raddr slot stat =>
      if unresolvable then
        (s.dropReservation (((s.placeOf g).map fun p => p.1.graph).getD 0) gid tid e).takeTrap gid tid 3 0 0
      else s.answerAsk gid tid c e table raddr slot stat
    | _ => s
  | _, _ => s

/-- Gives a free slot of an edge to a thread, with a block; NOBACK, and the slot stays free, where no block is
free (R305, R335). -/
def State.giveSlot (s : State) (gr : Graph) (e slot gid tid : Nat) (table : DWord) : State :=
  match lowestFree gr.rcount gr.usedBlocks with
  | none => s.answerAsk gid tid false e table 0 0 1
  | some b => (s.reserve gr.id e slot b gid tid).answerAsk gid tid false e table (BitVec.ofNat 64 (gr.payload b)) slot 0

/-- Threads parked for a slot of an edge, in park order (R306). -/
def State.enqWaiters (s : State) (graph e : Nat) : List (Nat × Nat × DWord) :=
  (sortBy (fun x => x.2.2.2) (s.groups.flatMap fun g =>
    if ((s.placeOf g).map fun p => p.1.graph) = some graph then
      g.threads.filterMap fun t => match t.st with
        | .parked (.enq x table) => if x = e then some (g.gid, t.tid, table, t.pseq) else none
        | _ => none
    else [])).map fun x => (x.1, x.2.1, x.2.2.1)

/-- Hands the free slots of an edge to its waiters. -/
def State.serveWaiters (s : State) (graph e : Nat) : List (Nat × Nat × DWord) → State
  | [] => s
  | (gid, tid, table) :: ws =>
    match (s.graph? graph).bind fun g => (g.edges.find? fun x => x.n == e).map fun x => (g, x) with
    | none => s
    | some (g, x) => match lowestFree x.slots x.used with
      | none => s
      | some slot => (s.giveSlot g e slot gid tid table).serveWaiters graph e ws

/-- Serves every edge of every graph; a saved producer whose edge has a free slot becomes runnable (R308, R318). -/
def State.serveEdges (s : State) : State :=
  let s1 := s.graphs.foldl (fun s g => g.edges.foldl (fun s e => s.serveWaiters g.id e.n (s.enqWaiters g.id e.n)) s) s
  { s1 with saved := s1.saved.map fun v =>
    let free := ((s1.span? v.sid).bind (·.node)).bind fun r => (s1.graph? r.graph).map fun g =>
      g.edges.any fun e => v.atEnq.contains e.n && (lowestFree e.slots e.used).isSome
    if free.getD false then { v with runnable := true } else v }

/-- The fence that COMMIT waits for before it publishes (R336). -/
def State.commitFence (s : State) (t : Thread) : FenceWait := s.fenceOf t 2 1 1

/-- Serves a thread that asks the control die (R335, R336): a COMMIT waits for its fence. -/
def State.serveAsk (s : State) (gid tid : Nat) : State :=
  match s.group? gid, s.thread? gid tid with
  | some g, some t => match t.st with
    | .asking true e table =>
      if s.fenceDone g t (s.commitFence t) then s.answerAsk gid tid true e table 0 0 (if t.res.any fun r => r.edge == e then 0 else 5) else s
    | .asking false e table =>
      match s.placeOf g with
      | none => s.answerAsk gid tid false e table 0 0 2
      | some (r, gr) => match gr.edges.find? fun x => x.n == e with
        | none => s.answerAsk gid tid false e table 0 0 3
        | some x =>
          if x.prod ≠ r.node then s.answerAsk gid tid false e table 0 0 3
          else if t.res.any fun r => r.edge == e then s.answerAsk gid tid false e table 0 0 4
          else match lowestFree x.slots x.used with
            | none => (s.updThread gid tid fun t => { t with st := .parked (.enq e table), pseq := s.nextId, waitTick := s.tsc }).fresh
            | some slot => s.giveSlot gr e slot gid tid table
    | _ => s
  | _, _ => s

/-- Serves the threads of a group that ask, in increasing thread index (R335). -/
def State.serveAsks (s : State) (gid : Nat) : State :=
  match s.group? gid with
  | none => s
  | some g => (g.threads.filter fun t => match t.st with | .asking .. => true | _ => false).foldl (fun s t => s.serveAsk gid t.tid) s

/-- A request to the control die (R334), with its octet read at acceptance (R333): the octet's check; COMMIT's wait for a device fence
comes after it (R336). A misaligned table or a nonzero zero word takes the tile access trap (log 22). -/
def askWord (i : Instr) (commit : Bool) (sreg e : Nat) (s : State) : Res :=
  match runWord i (fun l s =>
    match l.grant s with
    | some _ => .ok s
    | none => match l.consumeOct sreg with
      | .error st => .error st
      | .ok true => .ok (s.graphErr l.g.asid (some l) 0)
      | .ok false =>
        let o := l.g.octet sreg
        if octPair o 0 % 16 ≠ 0 ∨ (o.drop 2).any (· != 0) then .error tileTrap
        else .error (.ask commit e (BitVec.ofNat 64 (octPair o 0)))) s with
  | .next s => .next (s.serveAsks s.issue.gid)
  | r => r

/-- FENCE_COMPLETE: a fence's waits have ended, and its chain may issue (R219); or those of a COMMIT, which then publishes (R336). -/
def execFenceComplete (g t : Nat) (s : State) : Res :=
  match s.group? g, s.thread? g t with
  | some gr, some th =>
    match th.st with
    | .fencing f => if s.fenceDone gr th f then .next (s.wakeThread g t) else notEnabled
    | .asking true _ _ => if s.fenceDone gr th (s.commitFence th) then .next (s.serveAsk g t) else notEnabled
    | _ => notEnabled
  | _, _ => notEnabled

/-- ENQ (R305, R334, R335). -/
def execEnq (c : BitVec 1) (sr : BitVec 6) (k : BitVec 8) (s : State) : Res := askWord (.enq c sr k) false sr.toNat k.toNat s
/-- COMMIT (R334, R336). DEDUCED (log 52). -/
def execCommit (c : BitVec 1) (sr : BitVec 6) (k : BitVec 8) (s : State) : Res := askWord (.commit c sr k) true sr.toNat k.toNat s

/-- RESULT (R309, R337). -/
def execResult (c : BitVec 1) (sr : BitVec 6) (s : State) : Res :=
  packOnce (.result c sr) sr.toNat (fun l s =>
    let o := l.g.octet sr.toNat
    let va := octPair o 2
    if o.getD 1 0 != 0 || o.getD 6 0 != 0 || o.getD 7 0 != 0 || va % 8 != 0 then s.graphErr l.g.asid (some l) 2
    else
      let branching := ((s.placeOf l.g).map fun p =>
        p.2.nodes.any fun x => x.n == p.1.succ && x.kind == 0 && decide (x.nbranch ≥ 2)).getD false
      let s1 := if branching then s.updSpan l.g.sid fun x => { x with selector := some (o.getD 0 0) } else s
      if va = 0 then s1 else s1.writeResult l.g.asid l.g.sid va (octPair o 4)) s

/-! ### Nodes (R307, R309, R310, R331, R332) -/

/-- Whether a node can have no further groups: nothing of it runs or waits, and nothing before it can start it. -/
def Graph.nodeDone (g : Graph) : Nat → Nat → Bool
  | 0, _ => true
  | f + 1, n =>
    match g.nodes.find? fun x => x.n == n with
    | none => true
    | some x =>
      x.live == 0 && x.ready.isEmpty
        && if x.kind = 0 then g.nodes.all fun y => !(y.targets.contains n || y.fallback == n) || g.nodeDone f y.n
          else match g.edges.find? fun e => e.n == x.inedge with
            | some e => e.committed.isEmpty && g.nodeDone f e.prod
            | none => true

/-- The tick at which a node came to have no further groups: the last end of a span of it or of what comes before it. -/
def Graph.doneTick (g : Graph) : Nat → Nat → Nat
  | 0, _ => 0
  | f + 1, n =>
    match g.nodes.find? fun x => x.n == n with
    | none => 0
    | some x =>
      let before := if x.kind = 0 then (g.nodes.filter fun y => y.targets.contains n || y.fallback == n).map (·.n)
        else ((g.edges.filter fun e => e.n == x.inedge).map (·.prod))
      before.foldl (fun t m => max t (g.doneTick f m)) x.lastEnd

/-- A node's span has ended with a value (R309, R332): its records return, its branch is taken. -/
def State.nodeEnd (s : State) (r : NodeRun) (value : Nat) (selector : Option Word) : State :=
  match s.graph? r.graph with
  | none => s
  | some g =>
    let s1 := r.recs.foldl (fun s x => s.freeRecord g.id x.1 x.2.1 x.2.2) s
    let fail := if value = 1 then g.failAt else match g.failAt with
      | some (t, n, v) => if t < s.tsc ∨ (t = s.tsc ∧ n < r.node) then some (t, n, v) else some (s.tsc, r.node, value)
      | none => some (s.tsc, r.node, value)
    let s2 := (s1.updGraph g.id fun g => { g with failAt := fail }).updNode g.id r.node fun x => { x with live := x.live - 1, lastEnd := s.tsc }
    let s3 := match g.nodes.find? fun x => x.n == r.succ with
      | none => s2
      | some x =>
        if x.kind ≠ 0 ∨ x.nbranch = 0 then s2
        else
          let sel := if x.nbranch = 1 then 0 else (selector.getD 0).toNat
          let past := decide (sel ≥ x.nbranch)
          let m := x.branch.getD (if past then 0 else sel) 0xFF
          let s3 := if past then s2.graphErr g.asid none 1 else s2
          if m = 0xFF then s3 else s3.updNode g.id m fun y => { y with ready := y.ready ++ [(s.tsc, y.n, [])] }
    s3.serveEdges

/-- The GRAPH command is dispatched when its entry nodes have been, and the graph ends when every node dispatched
for it has ended (R293, R332). -/
def State.settleGraph (s : State) (id : Nat) : State :=
  match s.graph? id with
  | none => s
  | some g =>
    let ents := entryNodes g.nodes
    let mark := fun (c : CmdRec) => { c with dispatched := true }
    let s1 := match g.cmd with
      | some n => if g.nodes.all fun x => !ents.contains x.n || x.ran then
          s.updQueue g.q fun q => { q with cmds := updWhere (fun c => c.n == n) mark q.cmds } else s
      | none => s
    if (g.nodes.all fun x => x.live == 0 && x.ready.isEmpty) && g.edges.all fun e => e.committed.isEmpty then
      ({ s1 with graphs := s1.graphs.filter fun x => x.id != id }).finishCmd g.asid g.q g.cmd g.cw.toNat (((g.failAt.map fun (f : Nat × Nat × Nat) => f.2.2).getD 1))
    else s1

/-- GRAPH_COMMAND (R327-R330). -/
def execGraphCommand (q : Nat) (s : State) : Res :=
  match s.started q 3 with
  | none => notEnabled
  | some (x, b, n) =>
    let va := fld b 8 8
    if va % 64 ≠ 0 then .next ((s.dispatched q n).cmdErr x.asid 6 0 (statusOf 0x2C) |>.queueCmdDone q n)
    else match s.tryGraph x n (fld b 0 2) va x.kept with
      | .error (f, kept) => .next (s.holdQueue x f kept)
      | .ok (.unreadable, _) => .next (((s.dispatched q n).cmdErr x.asid 5 va (statusOf 0x2C)).queueCmdDone q n)
      | .ok (.refused cw code, _) => .next ((s.dispatched q n).finishCmd x.asid q (some n) cw (statusOf code))
      | .ok (.started g, _) =>
        let s1 := s.fresh.updQueue q fun x => { x with record := none, dead := [], kept := [] }
        .next ({ s1 with graphs := s1.graphs ++ [g] }.settleGraph g.id)

/-- Links the blocks of a batch (R331): each header gets the payload offset of the next record. The first `skip` headers stand
written. Answers the state, the headers that are written now, their last GWCT, and the fault that holds the next one, or whether a
header cannot be written. -/
def State.linkBlocks (s : State) (g : Graph) (dead : List Nat) : Nat → List (Nat × Nat × Nat) → State × Nat × Nat × Except CpFault Bool
  | _, [] => (s, 0, 0, .ok false)
  | skip, x :: xs =>
    let next := match xs with | y :: _ => (y.2.2 * g.rsize + 8) % 2 ^ 32 | [] => 0xFFFFFFFF
    let w := if skip > 0 then .ok (some (s, 0)) else s.cpWrite g.asid dead (g.back.toNat + x.2.2 * g.rsize) (natToBytes 8 next)
    match w with
    | .error f => (s, 0, 0, .error f)
    | .ok none => (s, 0, 0, .ok true)
    | .ok (some (s1, gw)) =>
      let r := s1.linkBlocks g dead (skip - 1) xs
      (r.1, r.2.1 + 1, max gw r.2.2.1, r.2.2.2)

/-- The argument words of a node of kind 1 to 3 (R331): s8 to s11 in place of words 7 to 10. -/
def batchArgs (g : Graph) (args : List Word) (recs : List (Nat × Nat × Nat)) : List Word :=
  let first := match recs with | x :: _ => x.2.2 * g.rsize + 8 | [] => 0
  args.take 7 ++ [BitVec.ofNat 32 recs.length, BitVec.ofNat 32 first, BitVec.ofNat 32 g.back.toNat, BitVec.ofNat 32 (g.back.toNat / 2 ^ 32)] ++ args.drop 11

/-- A node's launch comes to its end, or its span starts (R331, R332, R417). -/
def State.nodeOutcome (s : State) (g : Graph) (x : GNode) (run : NodeRun) (after : Nat) (r : Launched) : State :=
  match r with
  | .unreadable => (s.cmdErr g.asid 5 x.ldesc.toNat (statusOf 0x26)).nodeEnd run (statusOf 0x26) none
  | .waits _ => s
  | .refused cw code => (s.finishCmd g.asid g.q none cw (statusOf code)).nodeEnd run (statusOf code) none
  | .nothing cw => (s.finishCmd g.asid g.q none cw 1).nodeEnd run 1 none
  | .dealt i k d n =>
    let batch := x.kind != 0
    s.startSpan g.asid g.q g.tag g.prio none i k d n (some run) (if batch then batchArgs g i.args run.recs else i.args)
      (if batch then i.argBad.filter fun j => decide (j < 7 ∨ j > 10) else i.argBad) after

/-- Dispatches a node, or at or past its cut-off its fallback (R310). `t` is the tick at which it became
dispatchable, `drop` removes what the dispatch consumes. A fault holds it with nothing consumed; what it has read and the block
headers that it has written stand. A block header that cannot be written refuses the launch with LDESC (R417). -/
def State.dispatchNode (s : State) (g : Graph) (x : GNode) (t succ : Nat) (recs : List (Nat × Nat × Nat)) (drop : State → State) : State :=
  if x.deadline ≠ 0 ∧ t + x.margin ≥ x.deadline then
    (((drop s).updNode g.id x.n fun y => { y with ran := true, lastEnd := s.tsc }).updNode g.id x.fallback fun y =>
      { y with ready := y.ready ++ [(t, succ, recs)] }).settleGraph g.id
  else
    let run : NodeRun := { graph := g.id, node := x.n, succ := succ, recs := recs }
    let (s1, linked, gw, r) := if x.kind = 0 then (s, 0, 0, .ok false) else s.linkBlocks g x.dead x.linked recs
    let hold := fun (f : CpFault) (kept : Kept) =>
      (s1.postFault g.asid f.1 f.2.1 f.facc cpSrc (.node g.id x.n)).updNode g.id x.n fun y =>
        { y with hold := decide (f.2.1 < 4), dead := (f.1 / 65536) :: y.dead, kept := kept, linked := linked, lgw := max x.lgw gw }
    let go := fun (s : State) =>
      (drop s).updNode g.id x.n fun y => { y with ran := true, live := y.live + 1, dead := [], kept := [], linked := 0, lgw := 0 }
    match r with
    | .error f => hold f x.kept
    | .ok bad =>
      if x.ldesc.toNat % 64 ≠ 0 then (((go s1).cmdErr g.asid 6 0 (statusOf 0x26)).nodeEnd run (statusOf 0x26) none).settleGraph g.id
      else match s1.tryLaunch g.asid x.dead x.ldesc.toNat (some (x.kind == 3)) (if bad then [0x26] else []) x.kept with
        | .error (f, kept) => hold f kept
        | .ok (.waits _, kept) => s1.updNode g.id x.n fun y => { y with kept := kept, linked := linked, lgw := max x.lgw gw }
        | .ok (l, _) => ((go s1).nodeOutcome g x run (max x.lgw gw) l).settleGraph g.id

/-- Takes the first n committed records of a node's edge. -/
def takeRecords (g : Graph) (x : GNode) (n : Nat) : List (Nat × Nat × Nat) :=
  match g.edges.find? fun e => e.n == x.inedge with
  | some e => (e.committed.take n).map fun c => (e.n, c.1, c.2.1)
  | none => []

/-- Committed records of a node's edge. -/
def Graph.waiting (g : Graph) (x : GNode) : List (Nat × Nat × Nat) :=
  if x.kind = 0 then [] else ((g.edges.find? fun e => e.n == x.inedge).map (·.committed)).getD []

/-- Dispatches the first n records of a node. -/
def State.dispatchRecords (s : State) (g : Graph) (x : GNode) (t n : Nat) : State :=
  s.dispatchNode g x t x.n (takeRecords g x n) fun s => s.updEdge g.id x.inedge fun e => { e with committed := e.committed.drop n }

/-- A node that is not held by a fault or by a release list (R313), while the command processor may start a span. -/
def State.openNode (s : State) (graph n : Nat) : Option (Graph × GNode) :=
  (s.graph? graph).bind fun g => (g.nodes.find? fun x => x.n == n && !x.hold && !s.heldBack g.asid n true && !s.startedNow).map fun x => (g, x)

/-- The batch of a coalescing node that is due (R307): the tick at which its inputs became complete, which is the first of the three
moments, and how many records were held then. `timer` tells whether it was the timer's moment. -/
def State.batchDue (s : State) (g : Graph) (x : GNode) : Option (Nat × Nat × Bool) :=
  match g.waiting x with
  | [] => none
  | c :: w =>
    let held := c :: w
    let full := (held[x.nb - 1]?).map (·.2.2)
    let prod := (g.edges.find? fun e => e.n == x.inedge).map (·.prod)
    let ended := prod.bind fun p => if g.nodeDone (g.nodes.length + 1) p then some (max c.2.2 (g.doneTick (g.nodes.length + 1) p)) else none
    let timer := if c.2.2 + x.timer ≤ s.tsc then some (c.2.2 + x.timer) else none
    (minBy? (fun (p : Nat × Bool) => 2 * p.1 + p.2.toNat) ((full.toList ++ ended.toList).map (·, false) ++ timer.toList.map (·, true))).map fun p =>
      (p.1, min x.nb (held.filter fun r => decide (r.2.2 ≤ p.1)).length, p.2)

/-- NODE_DISPATCH (R307, R310): of a dispatch that is due, of a committed record, or of a batch that is full or
whose producers have ended. -/
def execNodeDispatch (graph n : Nat) (s : State) : Res :=
  match s.openNode graph n with
  | none => notEnabled
  | some (g, x) =>
    match x.ready with
    | (t, succ, recs) :: rest => .next (s.dispatchNode g x t succ recs fun s => s.updNode g.id x.n fun y => { y with ready := rest })
    | [] =>
      match g.waiting x with
      | [] => notEnabled
      | c :: _ =>
        if x.kind = 2 then match s.batchDue g x with
          | some (t, n, false) => .next (s.dispatchRecords g x t n)
          | _ => notEnabled
        else .next (s.dispatchRecords g x c.2.2 1)

/-- COALESCE_TIMER (R307): the timer has run since the oldest held record was committed. -/
def execCoalesceTimer (graph n : Nat) (s : State) : Res :=
  match s.openNode graph n with
  | none => notEnabled
  | some (g, x) =>
    match x.kind, s.batchDue g x with
    | 2, some (t, n, true) => .next (s.dispatchRecords g x t n)
    | _, _ => notEnabled

end Sys2Proof.Machine
end

