-- ==== Sys2Proof/Machine/Sched.lean ====
section
/-! DEFINITION. The launcher and the end of groups and spans (R22-R30, R294, R308, R326), and pre-emption
(R315, R316, R319). -/

namespace Sys2Proof.Machine

/-! ### Room on a core (R21, R25, R33) -/

/-- Bytes of register file that the groups of a core take on a quarter (R21, R22). -/
def State.quarterUse (s : State) (core q : Nat) : Nat :=
  (s.groups.filter fun g => g.core == core).foldl (fun n g => n + quarterThreads g.gsz q * g.alloc * 4) 0

/-- Threads that a context holds, resident or saved (R347). -/
def State.threadsOf (s : State) (asid : Nat) : Nat :=
  (s.groups.filter fun g => g.asid == asid && g.role != .trailer).foldl (fun n g => n + g.gsz) 0
    + (s.saved.filter fun v => v.asid == asid).foldl (fun n v => n + v.gsz) 0

/-- Whether a group fits a core now (R25). -/
def State.fits (s : State) (core asid gsz alloc need0 need1 : Nat) : Bool :=
  let here := s.groups.filter fun g => g.core == core
  let maxg := ((s.ctx? asid).map (·.maxg)).getD 0
  s.present core && (s.die (coreDie core)).enabled && decide (here.length < 16) && decide ((here.filter fun g => g.asid == asid).length < maxg)
    && ((List.range 4).all fun q => decide (s.quarterUse core q + quarterThreads gsz q * alloc * 4 ≤ 65536))
    && decide (s.tileUse 0 core + need0 ≤ levelSize 0) && decide (s.tileUse 1 core + need1 ≤ levelSize 1)

/-- The group slot that a core gives (R26). -/
def State.freeGroupSlot (s : State) (core : Nat) : Nat :=
  ((List.range 16).find? fun k => !(s.groups.any fun g => g.core == core && g.slot == k)).getD 0

/-! ### The launcher's order (R294) -/

/-- A group that waits for a core: a group of a span still to start, or a saved one. -/
inductive Waiting where
  | fresh (sid grp : Nat) (leaf : Option LeafInfo)
  | saved (gid : Nat)
  deriving DecidableEq, Repr

/-- Effective priority (R294). -/
def effPrio (prio waited : Nat) : Nat := min 7 (prio + waited / 2000000)

/-- The rank of a waiting group: effective priority, tick of dispatch, group number, then span. -/
def waitRank (s : State) (x : Span) (since grp : Nat) : Nat :=
  (((7 - effPrio x.prio (s.tsc - since)) * 2 ^ 64 + x.tick) * 2 ^ 32 + grp) * 2 ^ 64 + x.sid

/-- The next group of a span for a core, with its leaf. -/
def Span.nextFor (x : Span) (core : Nat) : Option (Nat × Option LeafInfo) :=
  match x.deal with
  | .rect cores next => match (cores.zip next).find? fun p => p.1 == core with
    | some p => if p.2 < x.n then some (p.2, none) else none
    | none => none
  | .leaves items => (items.find? fun p => p.1 == core).map fun p => (p.2.1, some p.2.2)

/-- Whether a pre-emption keeps a context's groups from a core (R316): not a group of a marked span of which
another group is resident or has ended. One that the core's launcher requested has done its work once no group of the context is left
there (log 23). -/
def State.barred (s : State) (x : Span) (core : Nat) : Bool :=
  ((s.ctx? x.asid).map fun c => c.preempts.any fun p =>
      p.core == core && (!p.auto || s.groups.any fun g => g.asid == x.asid && g.core == core)).getD false
    && !(x.bars && (decide (x.ended > 0) || s.groups.any fun g => g.sid == x.sid))

/-- Groups that wait for a core with their ranks and the tick from which they wait. One whose restoration is held under a fault waits for
the answer, and not for the core meanwhile. DESIGN CHOICE (log 90). -/
def State.waitersOf (s : State) (core : Nat) : List (Nat × Nat × Span × Waiting) :=
  (s.spans.filterMap fun x => (x.nextFor core).bind fun p =>
    if s.barred x core || x.preempted then none else some (waitRank s x x.tick p.1, x.tick, x, Waiting.fresh x.sid p.1 p.2))
  ++ s.saved.filterMap fun v => (s.span? v.sid).bind fun x =>
    if v.core == core && v.runnable && !v.held && !v.complete && !s.barred x core then some (waitRank s x v.tick v.grp, v.tick, x, Waiting.saved v.gid) else none

/-- The first group that waits for a core (R294). -/
def State.firstWaiting (s : State) (core : Nat) : Option (Nat × Nat × Span × Waiting) := minBy? (fun p => p.1) (s.waitersOf core)

/-! ### Residence (R19, R23, R25, R324) -/

/-- The uniform registers of a new group (R23). -/
def startUregs (args : List Word) : Vector Word 64 := Vector.ofFn fun k => if 1 ≤ k.val ∧ k.val ≤ 15 then args.getD (k.val - 1) 0 else 0

/-- The group of a span at its start (R19, R23). -/
def Span.group (x : Span) (gid grp core slot cycle : Nat) (leaf : Option LeafInfo) : Group :=
  { gid := gid, asid := x.asid, sid := x.sid, grp := grp, gsz := x.gsz, alloc := x.alloc, core := core, slot := slot, cbase := x.cbase
    uregs := startUregs x.args, upoison := maskOf 64 (x.argBad.map (· + 1)), leaf := leaf
    threads := (List.range x.gsz).map fun t =>
      { tid := t, pc := { pkt := x.cbase + BitVec.ofNat 64 (12 * x.entry), slot := 0 }, waitSince := cycle } }

/-- A group of a span is taken out of its deal. -/
def Span.take (x : Span) (core grp : Nat) : Span :=
  match x.deal with
  | .rect cores next =>
    { x with deal := .rect cores ((cores.zip next).map fun p => if p.1 = core then p.2 + cores.length else p.2) }
  | .leaves items => { x with deal := .leaves (items.filter fun p => p.2.1 != grp) }

/-- Save slots for the threads of a new group: the lowest that no group of the context has (R299). -/
def State.saveSlots (s : State) (asid n : Nat) : List Nat :=
  let used := ((s.groups.filter fun g => g.asid == asid).flatMap (·.tslots)) ++ (s.saved.filter fun v => v.asid == asid).flatMap (·.tslots)
  ((List.range (n + used.length)).filter fun k => !used.contains k).take n

/-- Makes a group resident: its slot, its threads and its declared tiles in handle order (R23, R324). -/
def State.makeResident (s : State) (x : Span) (core grp : Nat) (leaf : Option LeafInfo) : State :=
  let g := { x.group s.nextId grp core (s.freeGroupSlot core) s.cycle leaf with tslots := s.saveSlots x.asid x.gsz }
  let s1 : State := { s.fresh with groups := s.groups ++ [g] }
  let s2 := s1.updSpan x.sid fun y => y.take core grp
  (x.tiles.zip (List.range x.tiles.length)).foldl (fun s p =>
    match s.group? g.gid with
    | some g => (s.allocTile g p.2 p.1.1 p.1.2).2
    | none => s) s2

/-- A launcher's own pre-emption of a core ends when a group has become resident there: one of another context, or one of its own
after the context had left the core (log 23). -/
def State.liftAuto (s : State) (core asid : Nat) : State :=
  let here := (s.groups.filter fun g => g.asid == asid && g.core == core).length
  { s with contexts := s.contexts.map fun c =>
      if c.asid == asid && decide (here > 1) then c else { c with preempts := c.preempts.filter fun p => !(p.auto && p.core == core) } }

/-- GROUP_RESIDENT (R25, R294): the first waiting group of a core, once it fits, and once the block headers written for it are past
their GWCT (R231). -/
def execGroupResident (core : Nat) (s : State) : Res :=
  match s.firstWaiting core with
  | some (_, _, x, .fresh _ grp leaf) =>
    let limit := ((s.ctx? x.asid).map (·.thrlim)).getD 0
    if s.fits core x.asid x.gsz x.alloc (declBytes x.tiles 0) (declBytes x.tiles 1) && decide (s.threadsOf x.asid + x.gsz ≤ limit) && (x.after == 0 || decide (x.after < s.tsc)) then
      .next ((s.makeResident x core grp leaf).liftAuto core x.asid)
    else notEnabled
  | _ => notEnabled

/-! ### The end of a group and of a span (R30, R122, R326, R376, R403) -/

/-- Whether nothing that a group's threads issued is still in progress (R122, R376). -/
def State.quiet (s : State) (gid : Nat) : Bool :=
  !(s.accs.any fun a => a.gid == gid && a.phase != .deferred) && !(s.sideLog.any fun e => e.acc.gid == gid)
    && !(s.fieldOps.any fun o => o.gid == gid) && !(s.mxs.any fun m => m.gid == gid) && !(s.copies.any fun c => c.gid == some gid)
    && !(s.tileOps.any fun o => o.gid == gid) && !(s.linkCmds.any fun l => l.gid == some gid)

/-- Writes back the bound tiles of a group, one after another (R30, R244). -/
def State.flushHandles (s : State) (core : Nat) : List Nat → Except (Nat × Nat) (State × Nat)
  | [] => .ok (s, 0)
  | u :: us => match s.flushTile core u with
    | .error e => .error e
    | .ok (s1, g) => match s1.flushHandles core us with
      | .error e => .error e
      | .ok (s2, g2) => .ok (s2, max g g2)

/-- The tiles of a group that hold dirty words. -/
def State.dirtyTiles (s : State) (g : Group) : List Nat :=
  (g.handles.map (·.2)).filter fun u => ((s.tile? u).map fun t => t.bind.isSome && !t.dirty.isEmpty).getD false

/-- The value of a span's completion word (R326). -/
def Span.status (x : Span) : Nat := if x.preempted then statusOf 0x28 else if x.terminated then statusOf 0x29 else 1

/-- A span ends (R30): its completion word, its command, and its node. -/
def State.endSpan (s : State) (x : Span) : State :=
  let q := if x.node.isSome then x.q else wordQueue x.q x.cmd
  let s1 := ({ s with spans := s.spans.filter fun y => y.sid != x.sid }).finishCmd x.asid q x.cmd x.cw.toNat x.status
  match x.node with
  | some r => (s1.nodeEnd r x.status x.selector).settleGraph r.graph
  | none => s1

/-- Takes a group off its core: its rein, handles, reservations and slots go (R30). -/
def State.dropGroup (s : State) (g : Group) : State :=
  let s1 := s.leaveRein g.core g.gid
  let s2 := g.handles.foldl (fun s p => s.releaseHandle g.gid p.1) s1
  let graph := ((s.placeOf g).map fun p => p.1.graph).getD 0
  let s3 := g.threads.foldl (fun s t => t.res.foldl (fun s r => s.dropReservation graph g.gid t.tid r.edge) s) s2
  let s4 := s3.unhold fun h => match h.owner with | some (x, _) => x == g.gid | none => false
  { s4 with
    groups := s4.groups.filter fun x => x.gid != g.gid
    mxDone := s4.mxDone.filter fun m => m.gid != g.gid
    mailboxes := s4.mailboxes.map fun m => { m with pending := m.pending.filter fun x => x.gid != g.gid } }

/-- Whether every access of a span is complete, so that its completion word may be written (R231, R337): its result words are written
and past their GWCT, and so are the writes of its groups, those that were ended with it among them. -/
def State.spanPast (s : State) (x : Span) : Bool :=
  (decide (x.gw < s.tsc) || x.gw == 0) && !(s.cwrites.any fun w => w.result && w.sid == x.sid)
    && (s.owed.all fun o => o.sid != x.sid || decide (o.gw < s.tsc)) && !(s.accs.any fun a => x.killed.contains a.gid)

/-- A group of a span is done (R30): with the last one the span ends, once its accesses are complete. -/
def State.groupDone (s : State) (sid grp : Nat) : State :=
  let s1 := s.updSpan sid fun x => { x with ended := x.ended + 1, endedGroups := x.endedGroups ++ [grp] }
  match s1.span? sid with
  | some x => if decide (x.ended ≥ x.n) && s1.spanPast x then s1.endSpan x else s1
  | none => s1

/-- The end of a span whose groups are done and whose accesses have been completed since (R231, R319). -/
def State.spanEnd (sid : Nat) (s : State) : Res :=
  match s.span? sid with
  | some x => if decide (x.ended ≥ x.n) && s.spanPast x then .next (s.endSpan x).serveEdges else notEnabled
  | none => notEnabled

/-- The reservations of a saved group return unpublished (R305). -/
def State.freeSaved (s : State) (v : Saved) : State :=
  match (s.span? v.sid).bind (·.node) with
  | some r => if (s.graph? r.graph).isSome then v.res.foldl (fun s x => s.freeRecord r.graph x.2.edge x.2.slot x.2.block) s else s
  | none => s

/-- Whether every completion time that a group's accesses have returned has passed (R231). -/
def State.timesPast (s : State) (gid : Nat) : Bool := s.owed.all fun o => o.gid != gid || decide (o.gw < s.tsc)

/-- Whether a group's end may end its span: every access of the span is complete (R231, R337). -/
def State.resultsDone (s : State) (g : Group) : Bool :=
  match s.span? g.sid with
  | some x => decide (x.ended + 1 < x.n) || s.spanPast x
  | none => true

/-- The other copy of a group in tandem mode. -/
def State.partner? (s : State) (g : Group) : Option Group := if g.role = .solo then none else s.group? g.partner

/-- GROUP_END (R30, R122, R403): the group's threads have ended and its operations are complete, in both copies in
tandem mode; its bound tiles are written back, and once its writes have passed their GWCT it ends. A fault of the
write-back holds the end. -/
def execGroupEnd (gid : Nat) (s : State) : Res :=
  match s.group? gid with
  | none => notEnabled
  | some g =>
    let both := match s.partner? g with | some p => p.threads.all (fun t => t.st == .exited) && s.quiet p.gid | none => true
    if g.hold || g.role == .trailer || !(g.threads.all fun t => t.st == .exited) || !s.quiet gid || !both then notEnabled
    else match s.dirtyTiles g with
      | u :: us => match s.flushHandles g.core (u :: us) with
        | .ok (s1, gw) => .next (s1.updGroup gid fun g => { g with threads := g.threads.map fun t => { t with gw := max t.gw gw } })
        | .error (va, k) =>
          let s1 := s.postFault g.asid va k (faccOf 1 1) (coreSrc g.core) (.groupEnd gid)
          if k ≥ 4 then
            .next ((u :: us).foldl (fun s u => s.updTile u fun t => { t with dirty := [] }) (s1.faultRecord g 0xFFFF (BitVec.ofNat 64 va) 1))
          else .next (s1.updGroup gid fun g => { g with hold := true })
      | [] =>
        if (g.threads.all fun t => decide (t.gw < s.tsc)) && s.timesPast gid && s.resultsDone g then
          let s1 := match s.partner? g with | some p => s.dropGroup p | none => s
          let s2 : State := { s1 with tandems := s1.tandems.filter fun t => t.leader != gid }
          .next (((s2.dropGroup g).groupDone g.sid g.grp).serveEdges)
        else notEnabled

/-- A held end is tried again, or goes on without its write-back. -/
def State.answerEnd (s : State) (gid : Nat) (unresolvable : Bool) : State :=
  match s.group? gid with
  | none => s
  | some g =>
    let s1 := s.updGroup gid fun g => { g with hold := false }
    if unresolvable then
      (s.dirtyTiles g).foldl (fun s u => s.updTile u fun t => { t with dirty := [] }) (s1.faultRecord g 0xFFFF 0 1)
    else s1

/-! ### Pre-emption (R315, R316, R319) -/

/-- The lowest queue priority of the contexts resident on a core, with its context. -/
def State.lowestOn (s : State) (core : Nat) : Option (Nat × Nat) :=
  (minBy? (fun x => x.prio) ((s.groups.filter fun g => g.core == core).filterMap fun g => s.span? g.sid)).map fun x => (x.prio, x.asid)

/-- Requests a pre-emption of a context on cores; the deadline timer starts (R319). -/
def State.preemptOn (s : State) (asid : Nat) (cores : List Nat) (auto : Bool) : State :=
  s.updCtx asid fun c =>
    let new := cores.map fun k => { core := k, due := s.tsc + c.dlt * 1000, auto := auto : Preempt }
    { c with preempts := (c.preempts.filter fun p => !cores.contains p.core) ++ new }

/-- AUTO_PREEMPT (R315): a group has waited 100 µs for a core, and its queue priority is at least two above the lowest of the
contexts there, which is pre-empted on the core. -/
def execAutoPreempt (core : Nat) (s : State) : Res :=
  match s.lowestOn core with
  | some (p, asid) =>
    let already := ((s.ctx? asid).map fun c => c.preempts.any fun q => q.core == core).getD false
    let asks := (s.waitersOf core).any fun w => decide (w.2.1 + 100000 ≤ s.tsc ∧ w.2.2.1.prio ≥ p + 2)
    if asks && !already then .next (s.preemptOn asid [core] true) else notEnabled
  | none => notEnabled

/-- Ends what a group has in progress: its accesses that wait, its commands and operations. -/
def State.cancelGroup (s : State) (gid : Nat) : State :=
  { s.dropAccs (fun a => a.gid == gid && (a.phase == .deferred || a.side)) with
    fieldOps := s.fieldOps.filter fun o => o.gid != gid
    mxs := s.mxs.filter fun m => m.gid != gid
    copies := s.copies.filter fun c => c.gid != some gid
    tileOps := s.tileOps.filter fun o => o.gid != gid
    linkCmds := s.linkCmds.filter fun l => l.gid != some gid
    allocQ := s.allocQ.filter fun q => match q with
      | .word id => !(s.fieldOps.any fun o => o.id == id && o.gid == gid)
      | .halo _ => true
    allocHeld := s.allocHeld && !(match s.allocQ with | .word id :: _ => s.fieldOps.any fun o => o.id == id && o.gid == gid | _ => false) }

/-- Writes back a group's bound tiles where that can be done at once. -/
def State.flushNow (s : State) (g : Group) : State :=
  (s.dirtyTiles g).foldl (fun s u => match s.flushTile g.core u with
    | .ok (s1, gw) => s1.owe g.gid 0xFFFF s.nextId gw gw
    | .error (va, _) => (s.updTile u fun t => { t with dirty := [] }).faultRecord g 0xFFFF (BitVec.ofNat 64 va) 3) s

/-- A span's groups end at once, its saved groups included (R319, R394), and the span with them, its completion word once what they had
under way is complete (R231). -/
def State.killSpan (s : State) (sid : Nat) : State :=
  let s1 := (s.groups.filter fun g => g.sid == sid && g.role != .trailer).foldl (fun s g =>
    let s1 := ((s.terminate g.gid).flushNow g).cancelGroup g.gid
    let s2 := match s1.partner? g with | some p => (s1.cancelGroup p.gid).dropGroup p | none => s1
    ({ s2 with tandems := s2.tandems.filter fun t => t.leader != g.gid }.dropGroup g)) (s.updSpan sid fun x => { x with preempted := true })
  let gids := (s1.saved.filter fun v => v.sid == sid).map (·.gid)
  let s1 := (s1.saved.filter fun v => v.sid == sid).foldl State.freeSaved s1
  let s2 : State := { s1 with
    saved := s1.saved.filter fun v => v.sid != sid
    monitors := s1.monitors.filter fun m => match m.who with | .thread x _ => !gids.contains x | _ => true }
  let ended := (s.groups.filter fun g => g.sid == sid).map (·.gid)
  let s3 := s2.updSpan sid fun x => { x with ended := x.n, killed := ended }
  match s3.span? sid with
  | some x => if s3.spanPast x then (s3.endSpan x).serveEdges else s3.serveEdges
  | none => s3.serveEdges

/-- DEADLINE_EXPIRY (R319): the cores that still hold a group of the context when its timer expires are reset for
the context: every span with a group there ends with the pre-empted status. DEDUCED (log 55). -/
def execDeadlineExpiry (asid : Nat) (s : State) : Res :=
  match s.ctx? asid with
  | none => notEnabled
  | some c =>
    let due := (c.preempts.filter fun p => p.due != 0 && decide (p.due ≤ s.tsc)).map (·.core)
    if due.isEmpty then notEnabled
    else
      let gs := s.groups.filter fun g => g.asid == asid && due.contains g.core
      let sids := gs.foldl (fun l g => insertNat g.sid l) []
      let s1 := s.updCtx asid fun c => { c with preempts := c.preempts.map fun p => if due.contains p.core then { p with due := 0 } else p }
      let s2 := sids.foldl State.killSpan s1
      .next (if sids.isEmpty then s2 else s2.raiseErr { id := 0, asid := asid, tsc := 0, src := cpSrc, kind := 0xB, sev := 3 })

end Sys2Proof.Machine
end

