-- ==== Sys2Proof/Machine/Save.lean ====
section
/-! DEFINITION. Saving and restoring groups (R299, R301, R308, R317, R318, R320-R323). -/

namespace Sys2Proof.Machine

/-! ### The image (R320-R322) -/

/-- Row of R298 of a cause, and whether a group whose threads wait there may be saved on the spot. -/
def Cause.row : Cause → Nat × Bool
  | .monitor _ => (1, true)
  | .tileWord .. => (2, true)
  | .arrival .. => (3, true)
  | .ring .. => (4, true)
  | .rein => (5, true)
  | .converge .. => (6, true)
  | .barG _ => (7, true)
  | .barS .. => (8, false)
  | .enq .. => (9, true)
  | .future .. => (10, true)
  | .stepWait _ => (11, true)
  | .access => (12, false)
  | .counter _ => (13, false)
  | .sideLog => (14, false)
  | .waitCtr .. => (15, false)
  | .mwait => (16, false)
  | .trap => (17, false)
  | .errq _ => (18, false)
  | .tbegin => (19, true)
  | .rendezvous _ => (20, false)

/-- Number of a rounding mode (R79). -/
def RMode.num : RMode → Nat
  | .rne => 0 | .rtz => 1 | .rdn => 2 | .rup => 3 | .rna => 4

/-- The rounding mode of a number. -/
def rmodeOf (n : Nat) : RMode := match n with | 1 => .rtz | 2 => .rdn | 3 => .rup | 4 => .rna | _ => .rne

/-- Bytes of a thread record by allocation (R321). -/
def threadRecLen (alloc : Nat) : Nat := match alloc with | 16 => 128 | 32 => 192 | _ => 384

/-- The status, register and future fields of a thread record: TST, CAUSE, WREG, FDST, FADDR (R321). -/
def Thread.waitFields (t : Thread) : Nat × Nat × Nat × Nat × Nat :=
  match t.st with
  | .exited => (2, 0, 0xFF, 0xFF, 0)
  | .parked (.monitor d) => (1, 1, d, 0xFF, 0)
  | .parked (.future d st cell) => (1, 10, st, d, cell.toNat)
  | .parked c => (1, c.row.1, 0xFF, 0xFF, 0)
  | _ => match t.afresh with
    | some a => (1, a.2, 0xFF, 0xFF, 0)
    | none => (0, 0, 0xFF, 0xFF, 0)

/-- A thread record (R321). Matrix flags that no word has merged are recorded as pending. -/
def Thread.record (t : Thread) (alloc : Nat) (mx : Flags) : List Byte :=
  let w := t.waitFields
  natToBytes 8 t.pc.pkt.toNat ++ natToBytes 1 t.pc.slot ++ natToBytes 1 ((t.preds ||| 1).toNat) ++ natToBytes 1 t.flags.toNat
    ++ natToBytes 1 (t.mflags ||| mx).toNat ++ natToBytes 1 t.rmode.num ++ natToBytes 1 w.1 ++ natToBytes 1 w.2.1 ++ natToBytes 1 (if t.popen then 1 else 0)
    ++ natToBytes 4 t.key.toNat ++ natToBytes 4 t.ctr.toNat ++ natToBytes 4 t.ptot.toNat ++ natToBytes 4 t.pacc.toNat
    ++ natToBytes 4 t.barG ++ natToBytes 4 t.barS ++ natToBytes 4 0 ++ natToBytes 1 w.2.2.1 ++ natToBytes 1 w.2.2.2.1 ++ natToBytes 2 0
    ++ natToBytes 4 (if w.1 = 1 then (t.afresh.map (·.1)).getD t.pseq else 0) ++ natToBytes 4 t.tacc ++ natToBytes 8 w.2.2.2.2
    ++ ((List.range alloc).flatMap fun k => natToBytes 4 (t.regs.toList.getD k 0).toNat)
    ++ if alloc = 64 then t.shadow.toList.flatMap fun v => natToBytes 4 v.toNat else []

/-- A tile record (R322). -/
def Tile.record (t : Tile) (h : Nat) : List Byte :=
  let r := t.ring.getD { slots := 0 }
  let n := t.rows * t.rw
  let b := t.bind.getD (0, 0)
  natToBytes 4 (h + t.level * 2 ^ 8 + (if t.bind.isSome then 2 ^ 10 else 0) + (if t.ring.isSome then 2 ^ 11 else 0) + (if t.level = 2 then 2 ^ 12 else 0))
    ++ natToBytes 4 (t.rows + t.cols * 2 ^ 16) ++ natToBytes 4 (t.ecode + t.planes * 2 ^ 4 + r.slots * 2 ^ 16 + t.key * 2 ^ 24)
    ++ natToBytes 4 (t.lw + t.lh * 2 ^ 4) ++ natToBytes 8 b.1.toNat ++ natToBytes 4 b.2 ++ natToBytes 4 t.gen.toNat
    ++ natToBytes 8 t.count.toNat ++ natToBytes 8 t.target.toNat
    ++ natToBytes 4 r.pres.toNat ++ natToBytes 4 r.cres.toNat ++ natToBytes 4 r.prod.toNat ++ natToBytes 4 r.cons.toNat
    ++ ((List.range n).flatMap fun i => natToBytes 4 (t.word i).toNat)
    ++ (List.range ((n + 63) / 64)).flatMap fun k => natToBytes 8 ((List.range 64).foldl (fun v i => if t.full.contains (64 * k + i) then v + 2 ^ i else v) 0)

/-- The handles of a group in order, with their tiles. -/
def State.tilesOf (s : State) (g : Group) : List (Nat × Tile) := sortBy (·.1) (g.handles.filterMap fun p => (s.tile? p.2).map fun t => (p.1, t))

/-- Flags of completed matrix commands that have not merged into a thread (R173, R177). -/
def State.mxPending (s : State) (gid tid : Nat) : Flags :=
  (s.mxDone.filter fun m => m.gid == gid && m.tid == tid).foldl (fun f m => f ||| m.flags) 0

/-- Whether a group holds the rein, waits for it, or neither (R177): 1, 2 or 0. -/
def State.reinState (s : State) (g : Group) : Nat :=
  if (s.core g.core).rein = some g.gid || g.awaitRein then 1 else if (s.core g.core).reinQ.contains g.gid then 2 else 0

/-- The header of an image (R320). -/
def State.imageHeader (s : State) (g : Group) (size : Nat) : List Byte :=
  let x := s.span? g.sid
  let nres := g.threads.foldl (fun n t => n + t.res.length) 0
  natToBytes 4 1 ++ natToBytes 4 g.gsz ++ natToBytes 8 size ++ natToBytes 2 g.asid ++ natToBytes 2 g.handles.length ++ natToBytes 4 g.grp
    ++ natToBytes 4 (((x.map (·.q)).getD 0) + ((x.map (·.tag)).getD 0) * 2 ^ 16)
    ++ natToBytes 4 (coreX g.core + coreY g.core * 2 ^ 8 + coreDie g.core * 2 ^ 16 + coreNum g.core * 2 ^ 24) ++ natToBytes 8 g.cbase.toNat
    ++ natToBytes 4 ((match g.alloc with | 16 => 0 | 32 => 1 | _ => 2) + s.reinState g * 4 + if g.leaf.isSome then 16 else 0)
    ++ natToBytes 4 ((g.leaf.map (·.slot)).getD 0) ++ natToBytes 4 nres ++ natToBytes 12 0
    ++ (g.uregs.toList.zip (List.range 64)).flatMap (fun p => natToBytes 4 (if p.2 = 0 then 0 else p.1.toNat))
    ++ ((List.range 8).flatMap fun k => natToBytes 8 (((g.walkers.find? fun p => p.1 == k).map fun p => p.2.addr.toNat).getD 0))
    ++ (List.range 4).flatMap fun k => natToBytes 8 (((g.grids.find? fun p => p.1 == k).map fun p => p.2.addr.toNat).getD 0)

/-- Bytes of an image (R320-R322). -/
def State.imageSize (s : State) (g : Group) : Nat :=
  0x1A0 + g.gsz * threadRecLen g.alloc + (s.tilesOf g).foldl (fun n p => n + 0x40 + p.2.rows * p.2.rw * 4 + (p.2.rows * p.2.rw + 63) / 64 * 8) 0
    + 8 * g.threads.foldl (fun n t => n + t.res.length) 0

/-- The image of a group. -/
def State.image (s : State) (g : Group) : List Byte :=
  s.imageHeader g (s.imageSize g) ++ (g.threads.flatMap fun t => t.record g.alloc (s.mxPending g.gid t.tid))
    ++ ((s.tilesOf g).flatMap fun p => p.2.record p.1)
    ++ g.threads.flatMap fun t => t.res.flatMap fun r => natToBytes 4 r.edge ++ natToBytes 4 r.slot

/-- Addresses in an image, from its base, of what is poisoned (R383): the registers of both banks, uniform registers, tile words. A
register in which a parity error waits to be found (R385) is found by the save. -/
def State.imagePoison (s : State) (g : Group) : List Nat :=
  let len := threadRecLen g.alloc
  let regs := g.threads.flatMap fun t =>
    (((List.range g.alloc).filter fun k => (t.poison ||| t.parity).getLsbD k).map fun k => 0x1A0 + t.tid * len + 0x40 + 4 * k)
      ++ if g.alloc = 64 then ((List.range 16).filter fun k => (t.spoison ||| t.sparity).getLsbD k).map fun k => 0x1A0 + t.tid * len + 0x140 + 4 * k else []
  let ur := ((List.range 64).filter fun k => (g.upoison ||| g.uparity).getLsbD k).map fun k => 0x40 + 4 * k
  let tl := ((s.tilesOf g).foldl (fun (p : Nat × List Nat) x =>
    let n := x.2.rows * x.2.rw
    (p.1 + 0x40 + n * 4 + (n + 63) / 64 * 8, p.2 ++ x.2.poison.map fun i => p.1 + 0x40 + 4 * i)) (0x1A0 + g.gsz * len, [])).2
  regs ++ ur ++ tl

/-- Where images lie in a context's save area: address and size. -/
def State.savedAt (s : State) (asid : Nat) : List (Nat × Nat) :=
  ((s.saved.filter fun v => v.asid == asid).map fun v => (v.image.toNat, v.size))
    ++ s.tandems.flatMap fun t => if ((s.group? t.leader).map fun g => g.asid == asid).getD false then
        [(t.ckptL.toNat, t.ckptSize), (t.ckptT.toNat, t.ckptSize)] else []

/-- The lowest place in the save area where an image fits; none where there is none. -/
def State.saveRoom (s : State) (c : Context) (size : Nat) (more : List (Nat × Nat)) : Option Nat :=
  let at_ := s.savedAt c.asid ++ more
  let round := fun (n : Nat) => (n + 63) / 64 * 64
  let base := c.save.toNat
  let free := fun (a : Nat) => decide (a + size ≤ base + c.savelen) && at_.all fun p => decide (a + size ≤ p.1 ∨ p.1 + p.2 ≤ a)
  (sortBy id (base :: at_.map fun p => round (p.1 + p.2))).find? free

/-- Fills every row of a group's bound tiles that has still to be filled: a record holds a bound tile's rows as
filled (R323). -/
def State.fillBound (s : State) (core : Nat) : List (Nat × Tile) → Except (Nat × Nat) State
  | [] => .ok s
  | p :: ps => match (if p.2.bind.isSome then s.fillRows core p.2.uid (List.range p.2.rows) else .ok s) with
    | .error e => .error e
    | .ok s1 => s1.fillBound core ps

/-- Writes an image through the copy path, with the lines of poisoned values marked. -/
def State.writeImage (s : State) (g : Group) (va : Nat) : Except (Nat × Nat) (State × Nat) :=
  match s.vwrite g.core (coreDie g.core) g.asid va (s.image g) with
  | .error e => .error e
  | .ok (s1, gw) => .ok ((s.imagePoison g).foldl (fun s k => s.poisonVa g.core g.asid (va + k)) s1, gw)

/-! ### Saving on the spot (R317, R318) -/

/-- Whether a thread may be saved where it stands (R317): parked on a cause of R298 that allows it, with nothing
outstanding but a held future load. -/
def State.savable (s : State) (gid : Nat) (t : Thread) : Bool :=
  match t.st with
  | .exited => true
  | .parked c =>
    let fut := match c with | .future .. => true | _ => false
    c.row.2 && t.nStore == 0 && t.nCopy == 0 && t.nTile == 0 && t.nLoad == (if fut then 1 else 0) && t.pend == 0
      && (!fut || s.accs.any fun a => a.gid == gid && a.tid == t.tid && a.phase == .deferred)
  | _ => false

/-- Whether a whole group may be saved where it stands. The threads of a group that was restored without the rein it held stand at
the words at which they were saved until it has the rein (R177, R298 row 5). -/
def State.groupSavable (s : State) (g : Group) : Bool :=
  g.role == .solo && !g.hold && !g.noSave && !g.live.isEmpty && s.quiet g.gid
    && g.threads.all fun t => s.savable g.gid t || (g.awaitRein && t.st == .ready && t.afresh.isSome)

/-- The groups that share a level-2 tile with one of some groups, those among them; n times over. -/
def State.sharing (s : State) : Nat → List Nat → List Nat
  | 0, gids => gids
  | n + 1, gids =>
    let shared := (s.groups.filter fun g => gids.contains g.gid).flatMap fun g =>
      (s.tilesOf g).filterMap fun p => if p.2.level = 2 then some p.2.uid else none
    s.sharing n ((s.groups.filter fun h => gids.contains h.gid || h.handles.any fun p => shared.contains p.2).map (·.gid))

/-- Groups attached to the level-2 tiles of a group, and to those of the groups saved with it, itself among them (R317). -/
def State.attached (s : State) (g : Group) : List Group :=
  let gids := s.sharing s.groups.length [g.gid]
  s.groups.filter fun h => gids.contains h.gid

/-- Whether a group's context is pre-empted on its core. -/
def State.preempted (s : State) (g : Group) : Bool := ((s.ctx? g.asid).map fun c => c.preempts.any fun p => p.core == g.core).getD false

/-- Whether a waiting group fits its core now. -/
def State.waiterFits (s : State) (core : Nat) (w : Span × Waiting) : Bool :=
  match w.2 with
  | .fresh .. => s.fits core w.1.asid w.1.gsz w.1.alloc (declBytes w.1.tiles 0) (declBytes w.1.tiles 1)
  | .saved gid => match s.saved.find? fun v => v.gid == gid with
    | some v => s.fits core v.asid v.gsz v.alloc v.need0 v.need1
    | none => false

/-- Whether a span runs a node that consumes records of a graph. -/
def State.consumes (s : State) (x : Span) (graph : Nat) : Bool :=
  match x.node with
  | some r => r.graph == graph && ((s.graph? graph).map fun g => g.edges.any fun e => e.cons == r.node).getD false
  | none => false

/-- Whether every live thread of a group waits at ENQ. -/
def Group.stuckAtEnq (g : Group) : Bool := !g.live.isEmpty && g.live.all fun t => match t.st with | .parked (.enq ..) => true | _ => false

/-- Whether the launcher saves a producer (R308): every live thread waits at ENQ, the core is full for the first group that waits for
it, a consumer group of the graph waits there too, and no such producer of the graph that can be saved has a higher group number there. -/
def State.enqBlocked (s : State) (g : Group) : Bool :=
  let stuck := fun (h : Group) => h.stuckAtEnq && (s.attached h).all s.groupSavable
  let graphOf := fun (sid : Nat) => ((s.span? sid).bind (·.node)).map (·.graph)
  match graphOf g.sid with
  | none => false
  | some graph =>
    stuck g && ((s.firstWaiting g.core).map fun w => !s.waiterFits g.core w.2.2).getD false
      && ((s.waitersOf g.core).any fun w => s.consumes w.2.2.1 graph)
      && !(s.groups.any fun h => h.core == g.core && decide (h.grp > g.grp) && graphOf h.sid == some graph && stuck h)

/-- Edges at which a group's threads wait. -/
def Group.enqEdges (g : Group) : List Nat :=
  g.threads.filterMap fun t => match t.st with | .parked (.enq e _) => some e | _ => none

/-- Whether every live thread of a group is in a monitor wait (R301). -/
def Group.allMonitor (g : Group) : Bool := g.live.all fun t => match t.st with | .parked (.monitor _) => true | _ => false

/-- Removes a saved group from its core: it keeps its monitor entries, its held future loads are withdrawn, its
reservations stay taken, its tiles leave with it (R317). DEDUCED (log 54). -/
def State.takeOff (s : State) (g : Group) (va size : Nat) (byEnq : Bool) : State :=
  let v : Saved :=
    { gid := g.gid, asid := g.asid, sid := g.sid, grp := g.grp, core := g.core, image := BitVec.ofNat 64 va, size := size, tick := s.tsc
      gsz := g.gsz, alloc := g.alloc
      need0 := ((s.tilesOf g).filter fun p => p.2.level == 0).foldl (fun n p => n + tileBytes p.2.rows p.2.rw) 0
      need1 := ((s.tilesOf g).filter fun p => p.2.level == 1).foldl (fun n p => n + tileBytes p.2.rows p.2.rw) 0
      runnable := !(byEnq && g.stuckAtEnq) && !g.allMonitor, atEnq := g.enqEdges, leaf := g.leaf
      atStep := g.threads.filterMap fun t => match t.st with | .parked (.stepWait n) => some n | _ => none
      tslots := g.tslots, roots := g.walkers.map (·.2.root)
      grants := (g.threads.filter fun t => !t.grants.isEmpty).map fun t => (t.tid, t.grants)
      marks := g.threads.map fun t => (t.tid, t.ppoison ||| t.pparity, t.skids)
      umarks := (g.upva, g.utaken)
      uids := (s.tilesOf g).map fun p => (p.1, p.2.uid)
      rels := (s.tilesOf g).filterMap fun p => p.2.ring.map fun r => (p.1, r.relP, r.relC)
      res := g.threads.flatMap fun t => t.res.map fun r => (t.tid, r) }
  let s1 := s.leaveRein g.core g.gid
  let gs := s1.groups.filter fun h => h.gid != g.gid
  { s1 with
    groups := gs, saved := s1.saved ++ [v]
    accs := s1.accs.filter fun a => !(a.gid == g.gid && a.phase == Phase.deferred)
    mxDone := s1.mxDone.filter fun m => m.gid != g.gid : State }.dropTiles fun t =>
      (g.handles.any fun p => p.2 == t.uid) && !(gs.any fun h => h.handles.any fun p => p.2 == t.uid)

/-- Saves groups one after another; a fault or a full save area ends it with nothing changed. -/
def State.saveAll (s : State) (byEnq : Bool) : List Group → Except (Option (Group × Nat × Nat)) State
  | [] => .ok s
  | g :: gs =>
    match s.ctx? g.asid with
    | none => .error none
    | some c => match s.saveRoom c (s.imageSize g) [] with
      | none => .error none
      | some va => match s.writeImage g va with
        | .error e => .error (some (g, e))
        | .ok (s1, gw) => ((s1.oweUnit g.asid g.core gw).takeOff g va (s.imageSize g) byEnq).saveAll byEnq gs

/-- GROUP_SAVE (R317, R308): saves a group, with every group attached to a level-2 tile of it, in one action. Its
bound tiles are written back first (R322). A fault holds the save. -/
def execGroupSave (gid : Nat) (s : State) : Res :=
  match s.group? gid with
  | none => notEnabled
  | some g =>
    let all := s.attached g
    let byEnq := !s.preempted g && s.enqBlocked g
    if !(byEnq || all.all s.preempted) || !(all.all s.groupSavable) then notEnabled
    else
      let fault := fun (s : State) (h : Group) (va k : Nat) =>
        let s1 := s.postFault h.asid va k (faccOf 1 1) (copySrc h.core) (.save h.gid)
        s1.updGroup h.gid fun x => { x with hold := decide (k < 4), noSave := x.noSave || decide (k ≥ 4) }
      let flushed : Except (Group × Nat × Nat) State := all.foldl (fun r h => match r with
        | .error e => .error e
        | .ok s => match s.fillBound h.core (s.tilesOf h) with
          | .error e => .error (h, e)
          | .ok s => match s.flushHandles h.core (s.dirtyTiles h) with
            | .ok (s1, gw) => .ok (s1.oweUnit h.asid h.core gw)
            | .error e => .error (h, e)) (.ok s)
      match flushed with
      | .error (h, va, k) => .next (fault s h va k)
      | .ok s1 => match s1.saveAll byEnq all with
        | .ok s2 => .next s2
        | .error (some (h, va, k)) => .next (fault s1 h va k)
        | .error none => notEnabled

/-- A held save is tried again, or the group drains (R317). -/
def State.answerSave (s : State) (gid : Nat) (unresolvable : Bool) : State :=
  s.updGroup gid fun g => { g with hold := false, noSave := g.noSave || unresolvable }

/-- The statuses of threads that were woken while their group was saved go into its image, which marks them woken
and no more parked (R301, R318, R321). -/
def State.writeWoken (s : State) : State :=
  s.saved.foldl (fun s v => v.woken.foldl (fun s w =>
      let at_ := v.image.toNat + 0x1A0 + w.tid * threadRecLen v.alloc
      let s1 := (s.ctlWrite v.asid (at_ + 0x28) (natToBytes 4 w.status)).getD s
      (s1.ctlWrite v.asid (at_ + 0xD) (natToBytes 2 3)).getD s1) s) s

/-! ### Restoring (R323, R177) -/

/-- The thread of a record (R321). A parked thread that waits afresh stands ready at its word, to issue in its park sequence (R131,
R323). A thread that was woken receives its status where `deliver` says that the image alone tells it; one woken with status 0 then
waits as R229 states. -/
def readThread (b : List Byte) (alloc tid cycle upto : Nat) (deliver : Bool) : Thread :=
  let f := fld b
  let reg := fun (k : Nat) => BitVec.ofNat 32 (f (0x40 + 4 * k) 4)
  let regs : Vector Word 64 := Vector.ofFn fun k => if k.val = 0 ∨ k.val ≥ alloc then 0 else reg k.val
  let shadow : Vector Word 16 := Vector.ofFn fun k => if alloc = 64 then BitVec.ofNat 32 (f (0x40 + 4 * alloc + 4 * k.val) 4) else 0
  let t : Thread :=
    { tid := tid, regs := regs, preds := BitVec.ofNat 8 (f 9 1) ||| 1, pc := { pkt := BitVec.ofNat 64 (f 0 8), slot := f 8 1 }
      flags := BitVec.ofNat 5 (f 0xA 1), mflags := BitVec.ofNat 5 (f 0xB 1), rmode := rmodeOf (f 0xC 1), popen := bits (f 0xF 1) 0 1 == 1
      shadow := shadow, key := BitVec.ofNat 32 (f 0x10 4), ctr := BitVec.ofNat 32 (f 0x14 4), ptot := BitVec.ofNat 32 (f 0x18 4), pacc := BitVec.ofNat 32 (f 0x1C 4)
      barG := f 0x20 4, barS := f 0x24 4, tacc := f 0x34 4, waitSince := cycle, pseq := f 0x30 4 }
  let wreg := f 0x2C 1
  match f 0xD 1 with
  | 2 => { t with st := .exited }
  | 3 => if deliver && decide (wreg < 64) then t.monitorWoken wreg (f 0x28 4) t.popen (0, 0) cycle upto else t
  | 1 => if f 0xE 1 = 1 then { t with st := .parked (.monitor wreg) }
    else if f 0xE 1 = 10 then { t with st := .parked (.future (f 0x2D 1) wreg (BitVec.ofNat 64 (f 0x38 8))), nLoad := 1, parkAlone := false }
    else { t with afresh := some (f 0x30 4, f 0xE 1) }
  | _ => t

/-- The tile of a record (R322), and the record's length. A bound tile's rows count as filled. -/
def readTile (b : List Byte) (uid : Nat) (asid sid core : Nat) (rel : Option (List Word × List Word)) : Nat × Tile × Nat :=
  let td := fld b 0 4
  let fm := fld b 8 4
  let sh := fld b 0xC 4
  let rows := fld b 4 2
  let cols := fld b 6 2
  let rw := rowWords cols (bits fm 0 4) (bits fm 4 4)
  let n := rows * rw
  let w32 := fun (o : Nat) => BitVec.ofNat 32 (fld b o 4)
  let upTo := fun (a c : Word) => (List.range (c - a).toNat).map fun k => a + BitVec.ofNat 32 k
  let relP := (rel.map (·.1)).getD []
  let relC := (rel.map (·.2)).getD []
  let ring : Ring :=
    { slots := bits fm 16 8, pres := w32 0x30, cres := w32 0x34, prod := w32 0x38, cons := w32 0x3C
      heldP := (upTo (w32 0x38) (w32 0x30)).filter fun q => !relP.contains q, heldC := (upTo (w32 0x3C) (w32 0x34)).filter fun q => !relC.contains q
      relP := relP, relC := relC }
  let lw := bits sh 0 4
  let lh := bits sh 4 4
  let bound := bits td 10 1 == 1
  let t : Tile :=
    { uid := uid, asid := asid, sid := sid, level := bits td 8 2, core := core, die := coreDie core
      rx := coreX core / 2 ^ lw * 2 ^ lw, ry := coreY core / 2 ^ lh * 2 ^ lh, lw := lw, lh := lh, key := bits fm 24 8
      rows := rows, cols := cols, ecode := bits fm 0 4, planes := bits fm 4 4
      words := (List.range n).map fun i => (i, w32 (0x40 + 4 * i))
      full := (List.range n).filter fun i => bits (fld b (0x40 + 4 * n + i / 8) 1) (i % 8) 1 == 1
      count := BitVec.ofNat 64 (fld b 0x20 8), target := BitVec.ofNat 64 (fld b 0x28 8), gen := w32 0x1C
      ring := if bits td 11 1 = 1 then some ring else none
      bind := if bound then some (BitVec.ofNat 64 (fld b 0x10 8), fld b 0x18 4) else none, filled := if bound then List.range rows else [] }
  (bits td 0 5, t, 0x40 + 4 * n + (n + 63) / 64 * 8)

/-- Reads the tile records of an image one after another, with the places of their words. -/
def readTiles (b : List Byte) (v : Saved) (next : Nat) : Nat → Nat → List (Nat × Tile × Nat)
  | 0, _ => []
  | n + 1, off =>
    let h := bits (fld b off 4) 0 5
    let uid := ((v.uids.find? fun p => p.1 == h).map (·.2)).getD (next + n)
    let rel := (v.rels.find? fun p => p.1 == h).map (·.2)
    let x := readTile (b.drop off) uid v.asid v.sid v.core rel
    (x.1, x.2.1, off) :: readTiles b v next n (off + x.2.2)

/-- Reads an image through the copy path. -/
def State.readImage (s : State) (v : Saved) : Except (Nat × Nat) (List Byte × Bool) := s.vread v.core (coreDie v.core) v.asid v.image.toNat v.size

/-- Whether a word of an image lies in a poisoned line. -/
def State.imageBad (s : State) (v : Saved) (off : Nat) : Bool :=
  match s.vread v.core (coreDie v.core) v.asid (v.image.toNat + off) 4 with | .ok (_, p) => p | .error _ => false

/-- Binds the slots of an image again from BINDS; a rejected descriptor leaves its slot unbound, with a record
(R323). -/
def State.rebind (s : State) (g : Group) (b : List Byte) : List Nat → Except (Nat × Nat) (State × Group)
  | [] => .ok (s, g)
  | k :: ks =>
    let va := fld b (0x140 + 8 * k) 8
    if va = 0 then s.rebind g b ks
    else match s.vread g.core (coreDie g.core) g.asid va 64 with
      | .error e => .error e
      | .ok (d, p) =>
        let lost := s.raiseErr { id := 0, asid := g.asid, tsc := 0, src := coreSrc g.core, kind := 0x15, sev := 1, addr := BitVec.ofNat 64 va, grp := g.grp, gid := some g.gid }
        if k < 8 then match if p then none else parseTree va d with
          | some t => s.rebind (g.bindWalker k (some t)) b ks
          | none => lost.rebind g b ks
        else match if p then none else parseGrid va d with
          | some t => s.rebind (g.bindGrid (k - 8) (some t)) b ks
          | none => lost.rebind g b ks

/-- The held future loads of a restored group issue again alone (R323, R256): each gets an access for its cell. -/
def State.reissueFut (s : State) (g : Group) : List Thread → Except (Nat × Nat) State
  | [] => .ok s
  | t :: ts =>
    match t.st with
    | .parked (.future d st cell) =>
      match s.translateAll g.core (coreDie g.core) g.asid cell.toNat 8 { r := true } with
      | .error e => .error e
      | .ok ps =>
        let a : Acc :=
          { id := s.nextId, asid := g.asid, gid := g.gid, tid := t.tid, core := g.core, kind := .ldFut, va := cell, parts := partsOf ps cell.toNat 8, size := 8
            dst := d, dcnt := 2, streg := st, shadow := t.popen }
        let a := if ps.any (fun p => !p.1.fut) then { a with parts := [], phase := .done, status := 2 } else a
        ({ s.fresh with accs := s.accs ++ [a] }).reissueFut g ts
    | _ => s.reissueFut g ts

/-- What a restored thread keeps beside its image: its granted words, the status of a wake with its bank and its times (R301), its
poisonings, and the poison of what it reads from the image. The offset of its record is `off`. -/
def Saved.thread (v : Saved) (t : Thread) (off : Nat) (bad : Nat → Bool) (cycle upto : Nat) : Thread :=
  let t := match v.woken.find? fun w => w.tid == t.tid with
    | some w => t.monitorWoken w.dst w.status w.shadow w.times cycle upto
    | none => t
  let poison := maskOf 64 ((List.range v.alloc).filter fun k => bad (off + 0x40 + 4 * k))
  let spoison := maskOf 16 ((List.range 16).filter fun k => v.alloc == 64 && bad (off + 0x140 + 4 * k))
  let mark := v.marks.find? fun m => m.1 == t.tid
  let skids := (mark.map (·.2.2)).getD []
  let regs := poison &&& ~~~(skids.foldl (fun m k => m ||| k.regs) 0)
  let shadow := spoison &&& ~~~(skids.foldl (fun m k => m ||| k.shadow) 0)
  { t with
    poison := poison, spoison := spoison
    ppoison := (mark.map (·.2.1)).getD (if bad (off + 8) then 0xFE else 0)
    skids := skids ++ if regs == 0 && shadow == 0 then []
      else [{ n := { t with skids := skids }.skidNo, va := v.image + BitVec.ofNat 64 off, regs := regs, shadow := shadow }]
    grants := ((v.grants.find? fun p => p.1 == t.tid).map (·.2)).getD []
    res := (v.res.filter fun r => r.1 == t.tid).map (·.2) }

/-- Makes a saved group resident again with the state of its image (R323, R177). -/
def State.restore (s : State) (v : Saved) : Except (Nat × Nat) State := do
  let (b, p) ← s.readImage v
  let bad := fun (off : Nat) => p && s.imageBad v off
  let gfl := fld b 0x28 4
  let alloc := 16 * 2 ^ bits gfl 0 2
  let gsz := fld b 4 4
  let len := threadRecLen alloc
  let threads := (List.range gsz).map fun t =>
    v.thread (readThread (b.drop (0x1A0 + t * len)) alloc t s.cycle s.nextId (v.woken.all fun w => w.tid != t)) (0x1A0 + t * len) bad s.cycle s.nextId
  let tiles := readTiles b v s.nextId (fld b 0x12 2) (0x1A0 + gsz * len)
  let fresh := tiles.filter fun x => !(s.tiles.any fun y => y.uid == x.2.1.uid)
  let marked := fresh.map fun x =>
    let n := x.2.1.rows * x.2.1.rw
    if p then { x.2.1 with poison := (List.range n).filter fun i => bad (x.2.2 + 0x40 + 4 * i) } else x.2.1
  let u : Vector Word 64 := Vector.ofFn fun k => if k.val = 0 then 0 else BitVec.ofNat 32 (fld b (0x40 + 4 * k.val) 4)
  let up := if p then maskOf 64 ((List.range 64).filter fun k => bad (0x40 + 4 * k)) else 0
  let g0 : Group :=
    { gid := v.gid, asid := v.asid, sid := v.sid, grp := v.grp, gsz := gsz, alloc := alloc, core := v.core, slot := s.freeGroupSlot v.core
      cbase := BitVec.ofNat 64 (fld b 0x20 8), uregs := u, upoison := up, upva := v.umarks.1, utaken := v.umarks.2 &&& up, handles := tiles.map fun x => (x.1, x.2.1.uid), leaf := v.leaf
      tslots := v.tslots, awaitRein := bits gfl 2 2 == 1, threads := threads }
  let (s1, g) ← s.rebind g0 b (List.range 12)
  let s2 : State := { s1 with
    groups := s1.groups ++ [g], saved := s1.saved.filter fun x => x.gid != v.gid, tiles := s1.tiles ++ marked, nextId := s1.nextId + tiles.length }
  let s3 ← s2.reissueFut g g.threads
  let s4 := if bits gfl 2 2 = 0 then s3 else s3.joinRein v.core v.gid
  return s4.serveEdges

/-- A saved group that cannot be restored is lost: its thread records count as ended, its span as terminated. -/
def State.loseSaved (s : State) (v : Saved) : State :=
  let s1 := s.raiseErr { id := 0, asid := v.asid, tsc := 0, src := coreSrc v.core, kind := 0x12, sev := 2, addr := v.image, grp := v.grp }
  let s2 : State := { s1 with
    saved := s1.saved.filter fun x => x.gid != v.gid
    monitors := s1.monitors.filter fun m => match m.who with | .thread x _ => x != v.gid | _ => true }
  (((s2.freeSaved v).updSpan v.sid fun x => { x with terminated := true }).groupDone v.sid v.grp).serveEdges

/-- GROUP_RESTORE (R323, R294): a runnable saved group that is the first to wait for its core and fits. A fault on
its image holds the restoration. -/
def execGroupRestore (gid : Nat) (s : State) : Res :=
  match s.saved.find? fun v => v.gid == gid with
  | none => notEnabled
  | some v =>
    let first := match s.firstWaiting v.core with | some (_, _, _, .saved g) => g == gid | _ => false
    if !first || !(s.fits v.core v.asid v.gsz v.alloc v.need0 v.need1) then notEnabled
    else
      let s0 := s.writeWoken
      match s0.restore v with
      | .ok s1 => .next ((s1.liftAuto v.core v.asid).settleGroup gid)
      | .error (va, k) =>
        let s1 := s0.postFault v.asid va k (faccOf 1 0) (copySrc v.core) (.restore gid)
        if k ≥ 4 then .next (s1.loseSaved v)
        else .next { s1 with saved := s1.saved.map fun x => if x.gid == gid then { x with held := true } else x }

/-- A held restoration is tried again, or the group is lost. -/
def State.answerRestore (s : State) (gid : Nat) (unresolvable : Bool) : State :=
  match s.saved.find? fun v => v.gid == gid with
  | none => s
  | some v => if unresolvable then s.loseSaved v
    else { s with saved := s.saved.map fun x => if x.gid == gid then { x with held := false } else x }

end Sys2Proof.Machine
end

