-- ==== Sys2Proof/Machine/Tandem.lean ====
section
/-! DEFINITION. Tandem mode (R396-R403, R406): the rendezvous words, the trailer's accesses, checkpoints, and
rollback. -/

namespace Sys2Proof.Machine

/-! ### The copies -/

/-- Both copies of a tandem group. -/
def State.copies? (s : State) (t : Tandem) : Option (Group × Group) :=
  match s.group? t.leader, s.group? t.trailer with | some l, some r => some (l, r) | _, _ => none

/-- Index of the lowest live thread of a group. -/
def Group.lowestLive (g : Group) : Nat := ((g.live.map (·.tid)).head?).getD 0

/-- Changes every live thread of a group. -/
def State.updLive (s : State) (gid : Nat) (f : Thread → Thread) : State :=
  s.updGroup gid fun g => { g with threads := updWhere (fun t => t.st != .exited) f g.threads }

/-- The live threads of a group go on after the rendezvous at which they stand. -/
def State.passAll (s : State) (g : Group) : State := g.live.foldl (fun s t => s.deliver g.gid t.tid 0 [] none) s

/-! ### TBEGIN (R396) -/

/-- Whether a group's TBEGIN has every live thread, with nothing outstanding. -/
def State.beginReady (s : State) (g : Group) : Bool :=
  g.role == .solo && !g.live.isEmpty && s.quiet g.gid && (g.live.all fun t => t.st == .parked .tbegin && t.pend == 0)
    && g.threads.all fun t => t.nLoad == 0 && t.nStore == 0 && t.nCopy == 0 && t.nTile == 0

/-- Where two images of a group lie in the save area; none where there is no room. -/
def State.twoImages (s : State) (g : Group) : Option (Nat × Nat) :=
  let n := s.imageSize g
  (s.ctx? g.asid).bind fun c => (s.saveRoom c n []).bind fun a => (s.saveRoom c n [(a, n)]).map fun b => (a, b)

/-- Whether the runtime refuses a group's TBEGIN. -/
def State.beginRefused (s : State) (g : Group) : Bool :=
  ((s.tilesOf g).any fun p => p.2.level != 0) || (s.core g.core).rein == some g.gid || (g.threads.any fun t => !t.res.isEmpty)
    || (s.twoImages g).isNone

/-- The core of the trailer: on another die of the span's rectangle, elsewhere in the rectangle, or on any other die;
none from which a pre-emption keeps the context's groups (R316). -/
def State.trailerCore (s : State) (g : Group) : Option Nat :=
  let rect := match s.span? g.sid with | some x => s.rectCores x.x0 x.y0 x.w x.h | none => []
  let away := fun (k : Nat) => coreDie k != coreDie g.core
  let need := (s.tilesOf g).foldl (fun n p => n + tileBytes p.2.rows p.2.rw) 0
  let free := fun (k : Nat) => ((s.span? g.sid).map fun x => !s.barred x k).getD true
  (rect.filter away ++ (rect.filter fun k => !away k && k != g.core) ++ (s.rectCores 0 0 20 16).filter away).find? fun k =>
    free k && s.fits k g.asid g.gsz g.alloc need 0

/-- Copies tiles to another core under new names, with what every word holds. -/
def State.copyTiles (s : State) (core : Nat) : List (Nat × Tile) → State × List (Nat × Nat)
  | [] => (s, [])
  | p :: ps =>
    let t : Tile :=
      { p.2 with uid := s.nextId, core := core, die := coreDie core, dirty := [], words := (List.range (p.2.rows * p.2.rw)).map fun i => (i, p.2.word i) }
    let r := { s.fresh with tiles := s.tiles ++ [t] }.copyTiles core ps
    (r.1, (p.1, t.uid) :: r.2)

/-- TBEGIN completes (R396): the refusal, or the copy on the trailer's core; the checkpoint follows. While no core
fits, the threads stay waiting. -/
def State.beginTandem (s : State) (g : Group) : State :=
  if s.beginRefused g then s.takeTrap g.gid g.lowestLive 8 1 0
  else match s.trailerCore g, s.twoImages g with
    | some core, some (a, b) =>
      let size := s.imageSize g
      let s0 := s.passAll g
      let merge := fun (t : Thread) => { t with mflags := t.mflags ||| s.mxPending g.gid t.tid, tacc := 0, sync := 0, flips := 0 }
      let s1 := s0.updGroup g.gid fun g => { g with threads := g.threads.map merge }
      match s1.group? g.gid with
      | none => s
      | some l =>
        let r := s1.copyTiles core (s1.tilesOf l)
        let gid := r.1.nextId
        let t : Group := { l with gid := gid, core := core, slot := r.1.freeGroupSlot core, role := .trailer, partner := g.gid, handles := r.2 }
        let td : Tandem := { leader := g.gid, trailer := gid, ckptL := BitVec.ofNat 64 a, ckptT := BitVec.ofNat 64 b, ckptSize := size, due := true }
        let s2 := r.1.fresh.updGroup g.gid fun x => { x with role := .leader, partner := gid }
        { s2 with groups := s2.groups ++ [t], tandems := s2.tandems ++ [td], mxDone := s2.mxDone.filter fun m => m.gid != g.gid }
    | _, _ => s

/-! ### Checkpoints (R399, R401) -/

/-- Whether nothing of either copy is in flight, and every released store has passed its GWCT. -/
def State.ckptReady (s : State) (t : Tandem) (l r : Group) : Bool :=
  let still := fun (g : Group) => s.quiet g.gid && g.live.all fun x => x.pend == 0
  t.entries.all (·.released) && still l && still r && l.threads.all fun x => x.gw == 0 || decide (x.gw < s.tsc)

/-- Writes the images of both copies. Their bound tiles are filled, and the leader's are written back (R322). -/
def State.writeImages (s : State) (t : Tandem) (l r : Group) : Except (Nat × Nat) State := do
  let s1 ← s.fillBound l.core (s.tilesOf l)
  let s2 ← s1.fillBound r.core (s1.tilesOf r)
  let (s3, gw) ← s2.flushHandles l.core (s2.dirtyTiles l)
  let s4 := r.handles.foldl (fun s p => s.updTile p.2 fun x => { x with dirty := [] }) s3
  let (s5, gl) ← s4.writeImage l t.ckptL.toNat
  let (s6, gr) ← s5.writeImage r t.ckptT.toNat
  return (s6.oweUnit l.asid l.core (max gw gl)).oweUnit r.asid r.core gr

/-- The messages of the mailboxes. -/
def State.messages (s : State) : List TrapMsg := s.mailboxes.flatMap fun b => b.slots ++ b.pending

/-- What a checkpoint keeps of a copy's threads beside their images (R383, R399). -/
def State.marksOf (s : State) (g : Group) : List TandemMark :=
  g.threads.map fun x =>
    { gid := g.gid, tid := x.tid, preds := x.ppoison ||| x.pparity, skids := x.skids, grants := x.grants, sync := x.sync
      trapAt := if x.st = .parked .trap then x.trapAt else none
      msg := if x.st = .parked .trap then s.messages.find? fun m => m.gid == g.gid && m.tid == x.tid else none }

/-- Takes a checkpoint that is due (R401). A fault of an image write holds it, and both copies with it. -/
def State.takeCheckpoint (s : State) (t : Tandem) (l r : Group) : State :=
  match s.writeImages t l r with
  | .error (va, k) =>
    let s1 := s.postFault l.asid va k (faccOf 1 1) (copySrc l.core) (.checkpoint t.leader)
    if k ≥ 4 then (s1.updTandem t.leader fun t => { t with due := false }).takeTrap t.leader l.lowestLive 8 5 0
    else s1.updTandem t.leader fun t => { t with held := true }
  | .ok s1 =>
    let zero := fun (x : Thread) => { x with tacc := 0, flips := 0 }
    let both := fun (s : State) (gid : Nat) => s.updGroup gid fun g => { g with threads := g.threads.map zero }
    (both (both s1 t.leader) t.trailer).updTandem t.leader fun t =>
      let msgs := t.msgs.map fun m => { m with k := 0 }
      { t with entries := [], retry := 0, flipsDone := [], due := false, marks := s.marksOf l ++ s.marksOf r, msgs := msgs, msgs0 := msgs }

/-- A held checkpoint is tried again, its wait not counted (R400), or the group takes the trap of reason NOSAVE. -/
def State.answerCheckpoint (s : State) (gid : Nat) (unresolvable : Bool) : State :=
  match s.tandem? gid, s.group? gid with
  | some t, some l =>
    let now := fun (x : Thread) => { x with waitTick := s.tsc }
    let s1 := ((s.updTandem gid fun t => { t with held := false }).updLive t.leader now).updLive t.trailer now
    if unresolvable then (s1.updTandem gid fun t => { t with due := false }).takeTrap gid l.lowestLive 8 5 0 else s1
  | _, _ => s

/-- Entries of a thread. -/
def Tandem.made (t : Tandem) (tid : Nat) : Nat := (t.entries.filter fun e => e.tid == tid).length

/-- TANDEM_CHECKPOINT (R399): 256 released entries, none pending, no register pending: the cores take a checkpoint
of their own, each thread imaged where it stands, once both copies have made the accesses of every entry. DEDUCED (log 60). -/
def execTandemCheckpoint (gid : Nat) (s : State) : Res :=
  match s.tandem? gid with
  | none => notEnabled
  | some t => match s.copies? t with
    | none => notEnabled
    | some (l, r) =>
      let ok := fun (g : Group) => g.live.all fun x => x.pend == 0 && x.tacc == t.made x.tid
      if !t.due && decide (t.entries.length ≥ 256) && t.entries.all (·.released) && ok l && ok r then
        let s1 := s.updTandem gid fun t => { t with due := true }
        .next (if s1.ckptReady t l r then s1.takeCheckpoint t l r else s1)
      else notEnabled

/-! ### Rollback (R400, R401, R406) -/

/-- Stores of a thread that have been released and not acknowledged. -/
def State.flying (s : State) (gid tid : Nat) : Nat :=
  (s.accs.filter fun a => a.gid == gid && a.tid == tid && a.cls == 1).length
    + (s.sideLog.filter fun e => e.acc.gid == gid && e.acc.tid == tid && (s.acc? e.id).isNone).length

/-- A copy as its checkpoint image holds it (R400): its threads ready where they stood, or at the trap at which they stood, and its
tiles. None where the image cannot be read. -/
def State.rollCopy (s : State) (t : Tandem) (g : Group) (va size : Nat) : Option State :=
  match s.vread g.core (coreDie g.core) g.asid va size with
  | .error _ => none
  | .ok (b, p) =>
    let mine := t.marks.filter fun m => m.gid == g.gid
    let v : Saved :=
      { gid := g.gid, asid := g.asid, sid := g.sid, grp := g.grp, core := g.core, image := BitVec.ofNat 64 va, size := size, tick := 0
        gsz := g.gsz, alloc := g.alloc, runnable := false, uids := g.handles
        grants := mine.map fun m => (m.tid, m.grants)
        marks := mine.map fun m => (m.tid, m.preds, m.skids) }
    let bad := fun (off : Nat) => p && s.imageBad v off
    let len := threadRecLen g.alloc
    let back := fun (old : Thread) =>
      let off := 0x1A0 + old.tid * len
      let t := v.thread (readThread (b.drop off) g.alloc old.tid s.cycle s.nextId false) off bad s.cycle s.nextId
      let m := mine.find? fun m => m.tid == old.tid
      let trap := m.bind (·.trapAt)
      { t with
        st := if t.st = .exited then .exited else if trap.isSome then .parked .trap else .ready
        trapAt := trap, sync := (m.map (·.sync)).getD 0, afresh := none
        lw := old.lw, gw := old.gw, nStore := s.flying g.gid old.tid, tacc := 0, res := old.res }
    let u : Vector Word 64 := Vector.ofFn fun k => if k.val = 0 then 0 else BitVec.ofNat 32 (fld b (0x40 + 4 * k.val) 4)
    let up := if p then maskOf 64 ((List.range 64).filter fun k => bad (0x40 + 4 * k)) else 0
    let s1 := s.updGroup g.gid fun g => { g with uregs := u, upoison := up, threads := g.threads.map back }
    let tiles := readTiles b v 0 (fld b 0x12 2) (0x1A0 + g.gsz * len)
    some (tiles.foldl (fun s x => s.updTile x.2.1.uid fun old =>
      { old with
        words := x.2.1.words, full := x.2.1.full, count := x.2.1.count, target := x.2.1.target, gen := x.2.1.gen, dirty := []
        filled := x.2.1.filled
        poison := if p then (List.range (old.rows * old.rw)).filter fun i => bad (x.2.2 + 0x40 + 4 * i) else [] }) s1)

/-- The messages of the traps at which a leader's threads stood at its checkpoint are sent again. -/
def State.postMarks (s : State) (t : Tandem) : State :=
  (t.marks.filterMap (·.msg)).foldl (fun s m => s.setMailbox ((s.mailbox (coreDie m.core) (coreCluster m.core)).post { m with tsc := s.tsc })) s

/-- Both copies roll back: what is pending is discarded and the released entries stay. Accesses whose entry is gone
reach no thread. DEDUCED (log 60). -/
def State.rollBack (s : State) (t : Tandem) (l r : Group) : Option State :=
  let kept := t.entries.filter (·.released)
  let mine := fun (gid : Nat) => gid == t.leader || gid == t.trailer
  let lose := fun (a : Acc) => mine a.gid && a.cls == 0 && !(a.gid == t.leader && kept.any fun e => e.aid == a.id)
  let u := s.unhold fun h => match h with | .thread x _ => mine x | _ => false
  let clear := fun (m : Mailbox) => ({ m with slots := m.slots.filter (fun x => !mine x.gid), pending := m.pending.filter fun x => !mine x.gid } : Mailbox).letIn
  let s1 : State := { u with
    accs := u.accs.map fun a => if lose a then { a with tid := 0xFFFF } else a
    fieldOps := u.fieldOps.filter fun o => !mine o.gid
    mailboxes := u.mailboxes.map clear }
  let s2 := s1.updTandem t.leader fun t => { t with entries := kept, retry := t.retry + 1, msgs := t.msgs0, due := false, held := false }
  (s2.rollCopy t l t.ckptL.toNat t.ckptSize).bind fun s3 => (s3.rollCopy t r t.ckptT.toNat t.ckptSize).map fun s4 => s4.postMarks t

/-- A mismatch (R400): a rollback with its record (R406), or, beyond the retry limit, the trap of reason EXHAUSTED.
An image that cannot be read gives the trap of reason NOSAVE. -/
def State.mismatch (s : State) (t : Tandem) (tid : Nat) (addr pc : DWord) (lead trail : Nat) : State :=
  match s.copies? t with
  | none => s
  | some (l, r) =>
    if t.retry + 1 > s.boot.retryLimit then s.takeTrap t.leader l.lowestLive 8 2 0
    else match s.rollBack t l r with
      | none => s.takeTrap t.leader l.lowestLive 8 5 0
      | some s1 => s1.raiseErr
          { id := 0, asid := l.asid, tsc := 0, src := coreSrc l.core, kind := 0x11, sev := 0, addr := addr, pc := pc, grp := l.grp, tid := tid, code := 0
            synd := BitVec.ofNat 128 (lead % 2 ^ 64 + trail % 2 ^ 64 * 2 ^ 64), gid := some l.gid }

/-! ### The trailer's accesses (R398) -/

/-- Address of an access by its signature: none for a field read, and 0 for the reads of SYSV (R406). -/
def sigAddr (sig : List Nat) : DWord := if sig.headD 0 ≥ 64 then 0 else BitVec.ofNat 64 (sig.getD 1 0)

/-- Data or operand of an access by its signature. -/
def sigData (sig : List Nat) : Nat := if sig.headD 0 ≥ 64 then 0 else sig.getD 3 0

/-- The leader's held access leaves for memory, or for the side log where it cannot be translated or stands behind
an entry there (R376, R398). None where the side log is full. -/
def State.releaseAcc (s : State) (l : Group) (e : CEntry) : Option State :=
  match e.acc with
  | none => some s
  | some a =>
    if a.noret && (e.faulted || s.sideLogHas l.gid a.tid) then
      if s.sideFull l.core then none
      else
        let facc := if a.kind = .store then 1 else 2
        match s.translateAll l.core (coreDie l.core) l.asid a.va.toNat a.size { w := true } with
        | .ok _ => some (s.sideEnter a false)
        | .error (va, k) =>
          if s.sideLogHas l.gid a.tid then some (s.sideEnter a false)
          else
            let s1 := (s.sideEnter a true).postFault l.asid va k facc (coreSrc l.core) (.side a.id)
            some (if k ≥ 4 then s1.terminate l.gid else s1)
    else some (s.launchAcc a)

/-- TRAILER_ACCESS (R398): the trailer's access is compared bit for bit with the leader's entry, which is then
released; one that differs is a mismatch. It waits for one whose access has faulted in the leader (R402). -/
def execTrailerAccess (gid tid : Nat) (s : State) : Res :=
  match s.tandem? gid, s.thread? gid tid with
  | some t, some x => match s.copies? t with
    | none => notEnabled
    | some (l, r) =>
      if r.gid ≠ gid ∨ x.st ≠ .waiting then notEnabled
      else match t.entries.find? fun e => e.tid == tid && e.k == x.tacc + 1 && !e.released with
        | some e =>
          if e.sig = x.tsig then
            if e.unmade then notEnabled else match s.releaseAcc l e with
            | none => notEnabled
            | some s1 =>
              let done := fun (y : CEntry) => { y with released := true, acc := none, value := match e.acc with | some a => if a.noret || a.kind == .store then some ([], false) else y.value | none => y.value }
              .next ((s1.updTandem gid fun t => { t with entries := updWhere (fun y => y.tid == tid && y.k == e.k) done t.entries }).wakeThread gid tid)
          else .next (s.mismatch t tid (sigAddr e.sig) e.pc (sigData e.sig) (sigData x.tsig))
        | none =>
          match l.thread? tid with
          | some y => if y.st = .parked (.rendezvous 2) && y.tacc ≤ x.tacc then .next (s.mismatch t tid 0 0 0 0) else notEnabled
          | none => notEnabled
  | _, _ => notEnabled

/-- TANDEM_WAIT_TIMEOUT (R400): a wait of one copy for the other has lasted 100 µs. A wait behind a fault of the
leader, or behind a checkpoint that is held, is not counted (R401, R402). -/
def execTandemWaitTimeout (gid : Nat) (s : State) : Res :=
  match s.tandem? gid with
  | none => notEnabled
  | some t => match s.copies? t with
    | none => notEnabled
    | some (l, r) =>
      let old := fun (x : Thread) => decide (x.waitTick + 100000 ≤ s.tsc)
      let rv := fun (x : Thread) => match x.st with | .parked (.rendezvous _) => true | _ => false
      let lone := fun (a b : Group) => a.live.find? fun x => x.st == .parked (.rendezvous 2) && old x && ((b.thread? x.tid).map fun y => y.st != .parked (.rendezvous 2)).getD false
      let here := fun (a b : Group) => !a.live.isEmpty && a.live.all rv && !(b.live.all rv) && a.live.all old
      if t.due || l.threads.any fun x => x.st == .parked .access then notEnabled
      else match r.threads.find? fun x => x.st == .waiting && old x with
        | some x => .next (s.mismatch t x.tid 0 0 0 0)
        | none =>
          if (lone l r).isSome || (lone r l).isSome || here l r || here r l then .next (s.mismatch t 0xFFFF 0 0 0 0) else notEnabled

/-! ### TCHK, TEND and EXIT (R401, R403) -/

/-- Whether two copies of a thread agree (R403). -/
def sameThread (alloc : Nat) (a b : Thread) : Bool :=
  ((List.range alloc).all fun k => a.regs.toList.getD k 0 == b.regs.toList.getD k 0) && a.preds == b.preds && a.flags == b.flags && a.mflags == b.mflags
    && a.rmode == b.rmode && a.popen == b.popen && (alloc != 64 || a.shadow == b.shadow) && a.ptot == b.ptot && a.pacc == b.pacc && a.key == b.key
    && a.ctr == b.ctr && a.pc == b.pc

/-- Whether both copies of a group agree (R403). -/
def sameCopies (l r : Group) : Bool :=
  l.uregs == r.uregs && l.live.all fun a => match r.thread? a.tid with | some b => sameThread l.alloc a b | none => false

/-- Leaves tandem mode (R403): the trailer and the images go, the leader goes on alone. DEDUCED (log 59). -/
def State.endTandem (s : State) (t : Tandem) (l r : Group) : State :=
  let s1 := s.dropGroup r
  let s2 : State := { s1 with tandems := s1.tandems.filter fun x => x.leader != t.leader }
  let alone := fun (x : Thread) => { x with tacc := 0, flips := 0 }
  let s3 := s2.updGroup l.gid fun g => { g with role := .solo, partner := 0, threads := g.threads.map alone }
  s3.passAll l

/-- The word at which a thread's rendezvous stands: 0 TCHK, 1 TEND. -/
def rdvWord (x : Thread) : Option Nat := match x.st with | .parked (.rendezvous w) => if w < 2 then some w else none | _ => none

/-- Completes a rendezvous of TCHK or TEND at which every live thread of both copies stands (R401, R403). -/
def State.serveRendezvous (s : State) (t : Tandem) (l r : Group) : State :=
  let ws := l.live.map rdvWord
  if t.due || l.live.isEmpty || !(ws.all Option.isSome) || !(r.live.all fun x => (rdvWord x).isSome) then s
  else if !(l.live.all fun x => (r.thread? x.tid).map rdvWord == some (rdvWord x)) || l.live.length != r.live.length then s.mismatch t 0xFFFF 0 0 0 0
  else if !(ws.all fun w => w == some 0) && !(ws.all fun w => w == some 1) then s.takeTrap t.leader l.lowestLive 8 4 0
  else if ws.all fun w => w == some 0 then
    ((s.passAll l).passAll r).updTandem t.leader fun t => { t with due := true }
  else if s.ckptReady t l r then (if sameCopies l r then s.endTandem t l r else s.mismatch t 0xFFFF 0 0 0 0)
  else s

/-- A thread at its EXIT ends, or its chain goes on to it. -/
def State.exitCopy (s : State) (gid : Nat) (x : Thread) : State :=
  if x.parkAlone then (s.updThread gid x.tid Thread.end_).dropMxDone gid x.tid else s.deliver gid x.tid 0 [] none

/-- Completes the EXIT of threads whose other copies stand at it with the same count (R403). -/
def State.serveExits (s : State) (l r : Group) : State :=
  l.live.foldl (fun s x => match r.thread? x.tid with
    | some y => if x.st = .parked (.rendezvous 2) ∧ y.st = .parked (.rendezvous 2) ∧ x.tacc = y.tacc then (s.exitCopy l.gid x).exitCopy r.gid y else s
    | none => s) s

/-- Whether a copy's thread stands at a trap. -/
def Thread.atTrap (t : Thread) : Bool := t.st == .parked .trap && t.trapAt.isSome

/-- Whether a copy's thread stands at its EXIT (R403). -/
def Thread.atExit (t : Thread) : Bool := t.st == .parked (.rendezvous 2)

/-- Whether a copy's thread stands at a word at which the access count and the count of barriers and exchanges say where it is: a barrier,
an exchange, a rendezvous, or the trailer's next access. -/
def Thread.atMark (t : Thread) : Bool :=
  match t.st with
  | .parked (.barG _) | .parked (.converge ..) | .parked (.rendezvous _) | .waiting => true
  | _ => false

/-- Whether a copy's thread has passed the point at which the other copy took a trap or an EXIT, or stands elsewhere (R400): by the accesses
and the barriers and exchanges counted there. DEDUCED (log 60). -/
def Thread.beyond (t : Thread) (k sync : Nat) : Bool :=
  decide (k < t.tacc) || decide (sync < t.sync) || (t.atMark && decide (k ≤ t.tacc ∧ sync ≤ t.sync))

/-- Whether two copies' threads stand at the same trap. -/
def sameTrap (x y : Thread) : Bool := x.trapAt == y.trapAt && x.pc == y.pc && x.tacc == y.tacc && x.sync == y.sync

/-- Whether one copy's thread stands at a trap of its own where the other does something else (R400); a fault is the leader's alone (R402). -/
def trapAlone (x y : Thread) : Bool :=
  x.atTrap && (match x.trapAt with | some (9, _, _) => false | _ => true) && y.beyond x.tacc x.sync

/-- Whether one copy's thread stands at its EXIT where the other does something else (R400, R403). -/
def exitAlone (x y : Thread) : Bool := x.atExit && !y.atExit && y.beyond x.tacc x.sync

/-- Whether the copies of a thread stand where they cannot both be (R400): traps or an EXIT at differing points. -/
def apart (x y : Thread) : Bool :=
  (x.atTrap && y.atTrap && !sameTrap x y) || trapAlone x y || trapAlone y x
    || (x.atExit && y.atExit && x.tacc != y.tacc) || exitAlone x y || exitAlone y x

/-! ### Traps of a copy (R386, R402) -/

/-- FLIP (R386): a bit of a register of the bank in use; nothing for w0 or a register above the allocation. -/
def Thread.flip (t : Thread) (alloc : Nat) (aval : Word) : Thread :=
  let r := bits aval.toNat 8 6
  if r = 0 ∨ r ≥ alloc then t else t.setReg r (t.reg r ^^^ BitVec.ofNat 32 (2 ^ (aval.toNat % 32)))

/-- The oldest trap finished for a leader's thread that the trailer has still to reach. -/
def Tandem.oldest (t : Tandem) (tid : Nat) : Option TandemTrap := t.msgs.find? fun m => m.tid == tid

/-- Whether the trailer's thread is at the trap of a message. -/
def TandemTrap.here (m : TandemTrap) (x : Thread) : Bool :=
  x.atTrap && x.trapAt == some (m.kind, m.code, m.aval) && x.pc == m.pc && x.tacc == m.k && x.sync == m.sync

/-- Whether the trailer's thread has gone past the trap of a message, or stands at another (R400). -/
def TandemTrap.missed (m : TandemTrap) (x : Thread) : Bool := (x.atTrap && !m.here x) || x.beyond m.k m.sync

/-- The trailer reaches a trap that the runtime has finished for the leader: its action is applied and it resumes
at once (R402). -/
def State.serveTrailerTrap (s : State) (t : Tandem) (r : Group) (x : Thread) : State :=
  match t.oldest x.tid with
  | none => s
  | some m =>
    if m.here x then
      let s1 := if m.kind = 4 ∧ m.code = 0xF0 then s.updThread r.gid x.tid fun y => y.flip r.alloc m.aval else s
      (s1.updTandem t.leader fun t => { t with msgs := t.msgs.erase m }).trapReturn r.gid x.tid x.pc
    else s

/-- Whether the copies of a thread are apart (R400): where the runtime has finished traps for the leader, by the oldest of them. -/
def Tandem.apart (t : Tandem) (r : Group) (x : Thread) : Bool :=
  match r.thread? x.tid with
  | none => false
  | some y => match t.oldest x.tid with
    | some m => m.missed y
    | none => Machine.apart x y

/-! ### What follows of itself -/

/-- A tandem trap of the group stops every thread of both copies (R400-R402). -/
def State.stopCopies (s : State) (t : Tandem) : State :=
  let stop := fun (x : Thread) => if x.st = .parked .trap then x else { x with st := .parked .trap, trapAt := none }
  ((s.updTandem t.leader fun t => { t with due := false }).updLive t.leader stop).updLive t.trailer stop

/-- Applies what follows of itself in one tandem group. -/
def State.settleTandem (s : State) (leader : Nat) : State :=
  match s.tandem? leader with
  | none => s
  | some t => match s.copies? t with
    | none => s
    | some (l, r) =>
      let fatal := fun (x : Thread) => match x.trapAt with | some (8, _, _) => true | _ => false
      if (l.live ++ r.live).any fatal then s.stopCopies t
      else match l.live.find? fun x => t.apart r x with
        | some x => s.mismatch t x.tid 0 0 0 0
        | none =>
          let s1 := r.live.foldl (fun s y => s.serveTrailerTrap t r y) (s.serveExits l r)
          match s1.tandem? leader with
          | none => s1
          | some t1 => match s1.copies? t1 with
            | none => s1
            | some (l1, r1) =>
              let s2 := s1.serveRendezvous t1 l1 r1
              match s2.tandem? leader with
              | none => s2
              | some t2 => match s2.copies? t2 with
                | none => s2
                | some (l2, r2) => if t2.due && !t2.held && s2.ckptReady t2 l2 r2 then s2.takeCheckpoint t2 l2 r2 else s2

/-- Applies what follows of itself in tandem mode: TBEGIN's completion, rendezvous, exits, checkpoints. -/
def State.settleTandems (s : State) : State :=
  let s1 := (s.groups.filter fun g => g.live.any fun t => t.st == .parked .tbegin).foldl (fun s g =>
    match s.group? g.gid with
    | some g => if s.beginReady g then s.beginTandem g else s
    | none => s) s
  s1.tandems.foldl (fun s t => s.settleTandem t.leader) s1

/-! ### The words (R387, R396, R401, R403) -/

/-- TBEGIN (R396): parks until the rendezvous completes; Illegal Instruction inside tandem mode. -/
def execTbegin (s : State) : Res :=
  runWord .tbegin (fun l s =>
    match l.grant s with
    | some _ => .ok s
    | none => .error (if l.g.role = .solo then .park .tbegin else illegal)) s

/-- A rendezvous word of tandem mode; Illegal Instruction outside it. -/
def rendezvousWord (i : Instr) (w : Nat) (s : State) : Res :=
  runWord i (fun l s =>
    match l.grant s with
    | some _ => .ok s
    | none => .error (if l.g.role = .solo then illegal else .park (.rendezvous w))) s

/-- TCHK (R401). -/
def execTchk (s : State) : Res := rendezvousWord .tchk 0 s
/-- TEND (R403). -/
def execTend (s : State) : Res := rendezvousWord .tend 1 s

end Sys2Proof.Machine
end

