-- ==== Sys2Proof/Machine/Hostif.lean ====
section
/-! DEFINITION. The host ports (R357, R358, R360, R364, R365), bring-up and identity (R370, R371), and the
management operations but for migration (R349, R355, R359, R369). -/

namespace Sys2Proof.Machine

/-- Whether BAR0 answers (R371), and the number is that of a host port (R357). -/
def State.portUp (s : State) (port : Nat) : Bool := s.boot.stage == 6 && (port == 1 || port == 2)

/-! ### Semaphores (R358) -/

/-- The holder of a semaphore; 0 when it is free. -/
def HostRegs.holder (h : HostRegs) (n : Nat) : Nat := ((h.sem.find? fun p => p.1 == n).map (·.2)).getD 0

/-- SEMAPHORE_READ (R358): acquires a free semaphore and answers 0, else the holder; 0 for the holder itself. The
firmware of the control die reads as number 3, and leaves semaphore 0 free for the first host read (R371). DEDUCED (log 62). -/
def execSemaphoreRead (port n : Nat) (s : State) : Res :=
  if !(s.portUp port || (s.boot.stage == 6 && port == 3)) || n ≥ 64 || (port == 3 && n == 0 && !s.host.semRead) then notEnabled
  else
    let h := s.host.holder n
    let r := { s.host with semRead := s.host.semRead || n == 0 }
    if h = 0 then .next { s with host := { r with sem := (n, port) :: r.sem, lastRead := 0 } }
    else .next { s with host := { r with lastRead := if h = port then 0 else BitVec.ofNat 64 h } }

/-- SEMAPHORE_WRITE (R358): a 0 from the holder releases; any other write is ignored. -/
def execSemaphoreWrite (port n value : Nat) (s : State) : Res :=
  if !(s.portUp port || (s.boot.stage == 6 && port == 3)) || n ≥ 64 then notEnabled
  else if value = 0 ∧ s.host.holder n = port then .next { s with host := { s.host with sem := s.host.sem.filter fun p => p.1 != n } }
  else .next s

/-- PORT_RESET (R358): every semaphore that the port holds is released. -/
def execPortReset (port : Nat) (s : State) : Res :=
  if s.portUp port then .next { s with host := { s.host with sem := s.host.sem.filter fun p => p.2 != port } } else notEnabled

/-! ### Registers (R357, R365) -/

/-- A register with no behaviour of its own. -/
def HostRegs.stored (h : HostRegs) (off : Nat) : DWord := ((h.other.find? fun p => p.1 == off).map (·.2)).getD 0

/-- QSTAT (R360). -/
def Queue.qstat (x : Queue) : Nat := 1 + (if x.stopped then 2 else 0) + x.tag % 2 ^ 16 * 2 ^ 8

/-- Counter n of a die (R286); of the control die, the place of the device log and its posted count (R391). -/
def State.counterValue (s : State) (d n : Nat) : Nat :=
  if d = 0 then (if n = 0 then Config.devlog else if n = 1 then s.logCount else 0)
  else (((s.die d).counters.find? fun p => p.1 == n).map (·.2)).getD 0

/-- Whether the TSC lies within the bounds of its source (R365): 20 ns of the pulse time, 40 ns of the PTM root's time. -/
def withinBounds (timesrc : DWord) (drift : Int) : Bool :=
  let b : Int := if timesrc = 3 then 20 else 40
  decide (-b ≤ drift ∧ drift ≤ b)

/-- LOCKED (R365): set at a comparison with the source within the bounds, or once the slew has brought the TSC within them. -/
def State.lockedNow (s : State) : Bool :=
  match s.disc.drift with
  | some e => withinBounds s.host.timesrc e
  | none => s.host.locked

/-- What a register of BAR0 reads as, but for the semaphores, whose reading is an event (R357). -/
def State.bar0 (s : State) (off : Nat) : Nat :=
  if off = 0x2000 then s.host.mop.toNat
  else if 0x2008 ≤ off ∧ off ≤ 0x2030 ∧ off % 8 = 0 then (s.host.margs.getD ((off - 0x2008) / 8) 0).toNat
  else if off = 0x2038 then s.host.mstat.toNat
  else if off = 0x3000 then s.tsc % 2 ^ 64
  else if off = 0x3008 then s.host.timesrc.toNat
  else if off = 0x3010 then s.host.tscoff.toNat
  else if off = 0x3018 then (if s.lockedNow then 1 else 0)
  else if 0x4000 ≤ off ∧ off < 0x4040 ∧ off % 8 = 0 then bytesToNat ((List.range 8).map fun k => s.harvestByte (off - 0x4000 + k))
  else if 0x10000 ≤ off ∧ off < 0x11000 ∧ off % 16 = 8 then
    match s.queue? ((off - 0x10000) / 16) with
    | some x => x.head + x.qstat * 2 ^ 32
    | none => 0
  else if 0x100000 ≤ off ∧ off < 0x150000 ∧ off % 8 = 0 then s.counterValue ((off - 0x100000) / 0x10000) (off % 0x10000 / 8)
  else (s.host.stored off).toNat

/-- Registers that a write does not change: TSC, TIMESTAT, MSTAT, the harvest map, QHEAD with QSTAT, the counters
(R357). -/
def readOnly (off : Nat) : Bool :=
  off == 0x3000 || off == 0x3018 || off == 0x2038 || decide (0x4000 ≤ off ∧ off < 0x4040)
    || decide (0x10000 ≤ off ∧ off < 0x11000 ∧ off % 16 = 8) || decide (0x100000 ≤ off ∧ off < 0x150000)

/-- A new TSCOFF under 1PPS moves the time of the pulse: forward at once while no group is resident, else by slewing; backward only by
slewing (R365). -/
def State.moveOffset (s : State) (value : DWord) : State :=
  let by_ := (value - s.host.tscoff).toInt
  let s1 : State := { s with host := { s.host with tscoff := value } }
  if s.host.timesrc ≠ 3 then s1
  else if by_ > 0 ∧ s.groups = [] then { s1 with tsc := s1.tsc + by_.toNat }
  else { s1 with disc := { s1.disc with drift := some (s1.disc.drift.getD 0 - by_) } }

/-- REGISTER_WRITE (R357): a register with no behaviour of its own stores the value. The semaphores, MOP and QTAIL
have events of their own. A new time source is not locked yet (R365). -/
def execRegisterWrite (port off : Nat) (value : DWord) (s : State) : Res :=
  let h := s.host
  if !s.portUp port || decide (off ≥ 0x4000000) || off % 8 != 0 || decide (0x1000 ≤ off ∧ off < 0x1200) || off == 0x2000
    || decide (0x10000 ≤ off ∧ off < 0x11000 ∧ off % 16 = 0) then notEnabled
  else if readOnly off then .next s
  else if 0x2008 ≤ off ∧ off ≤ 0x2030 then .next { s with host := { h with margs := setAt h.margs ((off - 0x2008) / 8) value } }
  else if off = 0x3008 then .next { s with host := { h with timesrc := value, locked := false }, disc := {} }
  else if off = 0x3010 then .next (s.moveOffset value)
  else .next { s with host := { h with other := (off, value) :: h.other.filter fun p => p.1 != off } }

/-- QTAIL_WRITE (R360): the tail modulo the ring, and the port for MSI-X. A queue that is not bound has no tail. -/
def execQtailWrite (port q index : Nat) (s : State) : Res :=
  if s.portUp port && decide (q < 256) then .next (s.updQueue q fun x => { x with tail := index % 2 ^ x.logn, port := port }) else notEnabled

/-! ### BAR2 (R357, R391) -/

/-- The base of a port's window. -/
def HostRegs.window (h : HostRegs) (port : Nat) : Nat := ((h.windows.find? fun p => p.1 == port).map (·.2)).getD 0

/-- The bytes of an error record (R389). -/
def ErrRec.bytes (e : ErrRec) : List Byte :=
  natToBytes 8 e.tsc ++ natToBytes 2 e.src ++ natToBytes 2 (if e.asid = 0 then e.copyOf else e.asid) ++ natToBytes 1 e.kind ++ natToBytes 1 e.sev
    ++ natToBytes 2 e.rep ++ natToBytes 8 e.addr.toNat ++ natToBytes 8 e.pc.toNat ++ natToBytes 4 e.grp ++ natToBytes 2 e.tid ++ natToBytes 2 e.code
    ++ natToBytes 16 e.synd.toNat ++ natToBytes 4 e.seq ++ natToBytes 4 0

/-- Place of a record in the device log: records follow one another in a ring of 4,096 (R391). -/
def State.logByte (s : State) (k : Nat) : Byte :=
  let i := k / 64
  let oldest := s.logCount - min s.logCount 4096
  let n := oldest + (i + 4096 - oldest % 4096) % 4096
  if n < s.logCount then
    match s.deviceLog[s.deviceLog.length - (s.logCount - n)]? with
    | some e => e.bytes.getD (k % 64) 0
    | none => 0
  else 0

/-- A byte as the host reads it through BAR2: the device log lies at its own address. -/
def State.barByte (s : State) (pa : Nat) : Byte :=
  if Config.devlog ≤ pa ∧ pa < Config.devlog + 64 * 4096 then s.logByte (pa - Config.devlog) else s.physByte pa

/-- Whether n bytes lie in a line whose home die has been reset (R279). -/
def State.awayLines (s : State) (pa n : Nat) : Bool :=
  (linesOf pa n).any fun l => ((s.homeOf? l).map fun d => !(s.die d).enabled).getD false

/-- HOST_MEMORY_ACCESS (R357): the bytes of `data` are written, or as many are read. -/
def execHostMemoryAccess (port : Nat) (write : Bool) (offset : Nat) (data : List Byte) (s : State) : Res :=
  if !s.portUp port || decide (offset + data.length > 2 ^ 36) || s.awayLines (s.host.window port + offset) data.length then notEnabled
  else
    let pa := s.host.window port + offset
    if write then .next (s.writePhys 0 0 pa data)
    else .next { s with host := { s.host with lastData := (List.range data.length).map fun k => s.barByte (pa + k) } }

/-! ### Time (R365) -/

/-- The TSC is compared with its source, and slewed towards it from then on (R365). -/
def State.discipline (s : State) (error : Int) : State :=
  { s with host := { s.host with locked := withinBounds s.host.timesrc error }, disc := { s.disc with drift := some error } }

/-- Ticks by which the TSC lies past the time of a pulse edge: TSCOFF gives the time of one edge, and the others lie whole seconds from it
(R365). DEDUCED (log 62). -/
def State.pulseError (s : State) (edge : Int) : Int := (s.tsc : Int) - (s.host.tscoff.toNat + 1000000000 * edge)

/-- PPS_PULSE (R365): under 1PPS the TSC is compared with the time of the edge, and disciplined to it. The event says which edge of the
input it is. -/
def execPpsPulse (edge : Int) (s : State) : Res :=
  if s.boot.stage ≠ 6 then notEnabled
  else if s.host.timesrc = 3 then .next (s.discipline (s.pulseError edge))
  else .next s

/-- PTM_SYNC (R365): under PTM on the port the TSC, which lies `error` ticks past the root's time, is disciplined to it. -/
def execPtmSync (port : Nat) (error : Int) (s : State) : Res :=
  if !s.portUp port then notEnabled
  else if s.host.timesrc.toNat = port then .next (s.discipline error)
  else .next s

/-! ### Bring-up (R271, R370, R371) -/

/-- BRING_UP (R371): the images are checked and measured, the far-line caches are set, the dies enabled, the links
trained with their dictionaries at the seed, and BAR0 answers. The fused counter refuses the firmware and the trap runtime alike by
their versions (R370). Images that are not accepted stop at the first step. DEDUCED (log 65). -/
def execBringUp (flc : List Nat) (firmware runtime : List (BitVec 8)) (version : Nat × Nat) (s : State) : Res :=
  if s.boot.stage ≠ 0 || flc.length != 4 || !(flc.all fun g => g == 0 || g == 2 || g == 4 || g == 8) then notEnabled
  else if !(Config.signatureValid firmware && Config.signatureValid runtime) || decide (version.1 < s.boot.minVersion ∨ version.2 < s.boot.minVersion) then
    .next { s with boot := { s.boot with rejected := true } }
  else
    let m := [Config.romImage, firmware, runtime, Config.configBytes s.boot.plim s.boot.retryLimit flc].map Config.sha256
    .next { s with
      boot := { s.boot with stage := 6, measure := m, rejected := false }
      dies := s.dies.map fun d => { d with enabled := true, flc := flc.getD (d.d - 1) 0 }
      links := s.links.map fun k => { k with sdict := seedTable, rdict := seedTable, snext := 0, rnext := 0 } }

/-! ### Management operations (R359) -/

def stOk : Nat := 0
def stNosem : Nat := 1
def stBadop : Nat := 2
def stBadarg : Nat := 3
def stBusy : Nat := 4
def stAsiduse : Nat := 5
def stNoslot : Nat := 6
def stNoshare : Nat := 7

/-- MSTAT at completion (R359). -/
def mstatOf (overrun : Bool) (status : Nat) : DWord := BitVec.ofNat 64 (2 ^ 63 + (if overrun then 2 ^ 62 else 0) + status % 256)

/-- A write of MOP (R359): without semaphore 0 it is ignored with NOSEM, during an operation it is ignored and sets
OVERRUN; else the operation starts, with `act` giving its status and its effect. DEDUCED (log 63). -/
def mopStart (port op : Nat) (act : List DWord → State → Nat × State) (s : State) : Res :=
  if !s.portUp port then notEnabled
  else if s.host.holder 0 ≠ port then .next { s with host := { s.host with mstat := mstatOf false stNosem } }
  else match s.host.mgmt with
    | some m => .next { s with host := { s.host with mgmt := some { m with overrun := true } } }
    | none =>
      let r := act s.host.margs s
      let m : Mgmt := { port := port, op := op, status := r.1, margs := s.host.margs }
      .next { r.2 with host := { r.2.host with mop := BitVec.ofNat 64 op, mstat := 0, mgmt := some m } }

/-- An argument of a management operation. -/
def marg (m : List DWord) (n : Nat) : Nat := (m.getD n 0).toNat

/-! ### Contexts (R347-R349) -/

/-- Whether a queue's length is a power of two from 16 to 65,536 (R347). -/
def queueLen (n : Nat) : Bool := (List.range 13).any fun k => n == 16 * 2 ^ k

/-- The context that a record gives; none where it breaks R347 or R348. -/
def parseContext (b : List Byte) : Option Context :=
  let cc := fld b 0 4
  let dlt := fld b 0x34 4
  let ptbits := bits cc 19 5
  let ok := bits cc 27 5 == 0 && bits cc 17 2 == 0 && bits cc 13 3 == 0 && bits cc 5 3 == 0 && fld b 6 2 == 0 && (b.drop 0x58).all (· == 0)
    && fld b 4 2 != 0 && decide (4 ≤ ptbits ∧ ptbits ≤ 24) && fld b 8 8 % (128 * 2 ^ ptbits) == 0 && fld b 0x10 8 % 64 == 0
    && queueLen (fld b 0x18 4) && queueLen (fld b 0x1C 4) && fld b 0x20 8 % 32 == 0 && fld b 0x28 8 % 32 == 0
    && decide (1 ≤ fld b 0x30 4 ∧ fld b 0x30 4 ≤ 1048576) && (dlt == 0 || decide (50 ≤ dlt ∧ dlt ≤ 100000))
    && fld b 0x38 8 % 65536 == 0 && fld b 0x40 8 % 128 == 0 && fld b 0x48 8 % 64 == 0 && decide (1 ≤ bits cc 0 5 ∧ bits cc 0 5 ≤ 16)
  if ok then
    some
      { asid := fld b 4 2, lease := 16 * 2 ^ bits cc 24 3, ptbits := ptbits, pcont := bits cc 16 1 == 1, trapen := BitVec.ofNat 5 (bits cc 8 5)
        maxg := bits cc 0 5, ptbase := fld b 8 8, eqbase := BitVec.ofNat 64 (fld b 0x10 8), eqlen := fld b 0x18 4, fqlen := fld b 0x1C 4
        fqbase := BitVec.ofNat 64 (fld b 0x20 8), spill := BitVec.ofNat 64 (fld b 0x28 8), thrlim := fld b 0x30 4, dlt := if dlt = 0 then 500 else dlt
        devpg := BitVec.ofNat 64 (fld b 0x38 8), exchp := BitVec.ofNat 64 (fld b 0x40 8), save := BitVec.ofNat 64 (fld b 0x48 8), savelen := fld b 0x50 8 }
  else none

/-- The control die registers its monitor entry on FCONS where the header lies in device memory (R382). -/
def State.watchFcons (s : State) (asid : Nat) : State :=
  let other := fun (m : Monitor) => m.who != .fcons asid
  match s.ctx? asid with
  | none => s
  | some c => match s.translate ctlUnit 0 asid (c.fqbase.toNat + 4) { r := true } with
    | .ok t =>
      if t.host.isSome || t.dev then s
      else
        let e : Monitor :=
          { id := s.nextId, asid := asid, die := t.home, slice := homeSlice (t.pa / 128), pa := t.pa, va := c.fqbase + 4, wide := false
            cmp := 1, opnd := BitVec.ofNat 64 c.fconsSeen, timeout := 0, who := .fcons asid }
        { s.fresh with monitors := s.monitors.filter other ++ [e] }
    | .error _ => s

/-- Creates a context from its record (R349): no tensor identifier entry, both queues empty with their headers zero
(R382, R390). DEDUCED (log 64). -/
def State.createContext (s : State) (m : List DWord) : Nat × State :=
  let a := marg m 0
  if a % 128 ≠ 0 ∨ a ≥ 2 ^ 48 then (stBadarg, s)
  else match parseContext (s.physBytes a 128) with
    | none => (stBadarg, s)
    | some c =>
      if (s.ctx? c.asid).isSome then (stAsiduse, s)
      else if s.contexts.length ≥ 1024 then (stNoslot, s)
      else
        let s1 : State := { s with contexts := s.contexts ++ [c] }
        let zero := List.replicate 64 (0 : Byte)
        let s2 := (s1.ctlWrite c.asid c.fqbase.toNat zero).getD s1
        let s3 := (s2.ctlWrite c.asid c.eqbase.toNat zero).getD s2
        (stOk, s3.watchFcons c.asid)

/-- Whether every group of a span has ended or has left by MIGOUT (R368). -/
def State.migrated (s : State) (x : Span) : Bool :=
  let out := s.saved.filter fun v => v.sid == x.sid && v.complete
  !out.isEmpty && x.ended + out.length == x.n

/-- Whether a span, copy or queue of a context is unfinished, or a group of it saved (R349). -/
def State.contextBusy (s : State) (asid : Nat) : Bool :=
  (s.spans.any fun x => x.asid == asid && !s.migrated x) || (s.copies.any fun c => c.asid == asid) || (s.linkCmds.any fun c => c.asid == asid)
    || (s.queues.any fun x => x.asid == asid && (x.head != x.tail || x.record.isSome || x.cmds.any fun c => !c.complete))
    || (s.cwrites.any fun w => w.asid == asid) || (s.graphs.any fun g => g.asid == asid) || (s.launches.any fun r => r.asid == asid)
    || (s.groups.any fun g => g.asid == asid) || s.saved.any fun v => v.asid == asid && !v.complete

/-- Destroys a context (R349). -/
def State.destroyContext (s : State) (m : List DWord) : Nat × State :=
  let a := marg m 0
  if (s.ctx? a).isNone then (stBadarg, s)
  else if s.contextBusy a then (stBusy, s)
  else
    (stOk, { s with
      monitors := s.monitors.filter fun x => x.asid != a
      accs := s.accs.filter fun x => !(x.asid == a && x.phase == .deferred)
      tlb := s.tlb.filter fun t => t.asid != a
      queues := s.queues.filter fun x => x.asid != a
      contexts := s.contexts.filter fun c => c.asid != a
      spans := s.spans.filter fun x => x.asid != a
      saved := s.saved.filter fun v => v.asid != a
      marked := s.marked.filter fun t => t.asid != a
      leafCache := s.leafCache.filter fun t => t.asid != a
      oldWords := s.oldWords.filter fun p => p.1 != a
      launches := s.launches.filter fun r => r.asid != a
      arrivals := s.arrivals.filter fun x => x.asid != a
      faults := s.faults.filter fun f => f.asid != a
      errors := s.errors.filter fun e => e.asid != a })

/-- CTX_CREATE (R349). -/
def execCtxCreate (port : Nat) (s : State) : Res := mopStart port 0x01 (fun m s => s.createContext m) s
/-- CTX_DESTROY (R349). -/
def execCtxDestroy (port : Nat) (s : State) : Res := mopStart port 0x02 (fun m s => s.destroyContext m) s

/-! ### Queues (R359, R360) -/

/-- Binds a queue. -/
def State.bindQueue (s : State) (port : Nat) (m : List DWord) : Nat × State :=
  let q := marg m 0
  let a := marg m 2
  let logn := bits a 19 5
  if (s.queue? q).isSome then (stBusy, s)
  else if q > 255 ∨ (s.ctx? (bits a 0 16)).isNone ∨ marg m 1 % 64 ≠ 0 ∨ logn < 1 ∨ logn > 15 ∨ a / 2 ^ 24 ≠ 0 then (stBadarg, s)
  else
    let x : Queue :=
      { q := q, asid := bits a 0 16, base := BitVec.ofNat 64 (marg m 1), logn := logn, prio := bits a 16 3, tag := marg m 3 % 2 ^ 16, port := port }
    (stOk, { s with queues := s.queues ++ [x] })

/-- Unbinds a queue. -/
def State.unbindQueue (s : State) (m : List DWord) : Nat × State :=
  match s.queue? (marg m 0) with
  | none => (stBadarg, s)
  | some x =>
    if x.record.isSome || x.cmds.any fun c => !c.complete then (stBusy, s)
    else
      (stOk, { s with queues := s.queues.filter fun y => y.q != x.q : State }.unhold fun h => h == .command x.q)

/-- Restarts a stopped queue with a new expected tag. -/
def State.resumeQueue (s : State) (m : List DWord) : Nat × State :=
  match s.queue? (marg m 0) with
  | none => (stBadarg, s)
  | some x =>
    if x.stopped then (stOk, s.updQueue x.q fun y => { y with stopped := false, misses := 0, refetch := none, tag := marg m 1 % 2 ^ 16 })
    else (stBusy, s)

/-- QBIND (R359, R360). -/
def execQbind (port : Nat) (s : State) : Res := mopStart port 0x03 (fun m s => s.bindQueue port m) s
/-- QUNBIND (R359). -/
def execQunbind (port : Nat) (s : State) : Res := mopStart port 0x04 (fun m s => s.unbindQueue m) s
/-- QRESUME (R359). -/
def execQresume (port : Nat) (s : State) : Res := mopStart port 0x05 (fun m s => s.resumeQueue m) s

/-! ### TLBINV (R355) -/

/-- Whether a cached translation lies in a range; a length of 0 names the whole context. -/
def TlbEntry.inRange (t : TlbEntry) (asid va len : Nat) : Bool :=
  let lo := t.vpn * 2 ^ scShift t.sc
  t.asid == asid && (len == 0 || decide (lo < va + len ∧ va < lo + 2 ^ scShift t.sc))

/-- TLBINV (R355): the entries go at once; what has used them is still to be performed. -/
def execTlbinv (port : Nat) (s : State) : Res :=
  match mopStart port 0x06 (fun m s =>
    let a := marg m 0
    if (s.ctx? a).isNone then (stBadarg, s)
    else (stOk, { s.fresh with tlb := s.tlb.filter fun t => !t.inRange a (marg m 1) (marg m 2) })) s with
  | .next s1 =>
    match s.host.mgmt, s1.host.mgmt with
    | none, some m =>
      if m.status = stOk then .next { s1 with host := { s1.host with mgmt := some { m with asid := marg m.margs 0, before := s.nextId } } } else .next s1
    | _, _ => .next s1
  | r => r

/-- Whether every access of a context that was made before a name has been performed: stores have passed their GWCT,
write-backs and images too, side-log entries have replayed or are held, and held stores of tandem groups have been released or discarded. A die that is reset
has completed: nothing of its cores is waited for. -/
def State.invDone (s : State) (asid before : Nat) : Bool :=
  let on := fun (core : Nat) => (s.die (coreDie core)).enabled
  !(s.accs.any fun a => a.asid == asid && on a.core && decide (a.id < before) && (a.phase != .done || decide (a.gw ≥ s.tsc ∧ a.gw ≠ 0)))
    && !(s.sideLog.any fun e => e.acc.asid == asid && on e.acc.core && decide (e.id < before) && !e.held)
    && !(s.groups.any fun g => g.asid == asid && on g.core && g.threads.any fun t => decide (t.gw ≥ s.tsc ∧ t.gw ≠ 0))
    && !(s.owed.any fun o => o.asid == asid && on o.core && decide (o.id < before ∧ o.gw ≥ s.tsc))
    && !(s.tileOps.any fun o => decide (o.id < before ∧ o.gw ≥ s.tsc ∧ o.gw ≠ 0) && ((s.group? o.gid).map fun g => g.asid == asid && on g.core).getD false)
    && !(s.copies.any fun c => c.asid == asid && on c.core && decide (c.id < before ∧ c.gw ≥ s.tsc ∧ c.gw ≠ 0))
    && !(s.mxs.any fun c => c.asid == asid && on c.core && decide (c.id < before ∧ c.gw ≥ s.tsc ∧ c.gw ≠ 0))
    && !(s.fieldOps.any fun c => c.asid == asid && ((s.group? c.gid).map fun g => on g.core).getD true && decide (c.id < before ∧ c.gw ≥ s.tsc ∧ c.gw ≠ 0))
    && !(s.linkCmds.any fun c => c.asid == asid && decide (c.id < before ∧ c.gw ≥ s.tsc ∧ c.gw ≠ 0))
    && !(s.tandems.any fun t => ((s.group? t.leader).map fun g => g.asid == asid && on g.core).getD false
          && t.entries.any fun e => !e.released && !e.faulted && (e.acc.map fun a => decide (a.id < before)).getD false)

/-! ### Pre-emption and links (R316, R367, R369) -/

/-- The cores of a rectangle argument; none where it breaks the alignment of R29. -/
def State.rectArg (s : State) (a : Nat) : Option (List Nat) :=
  let lw := bits a 16 8
  let lh := bits a 24 8
  let x0 := bits a 0 8
  let y0 := bits a 8 8
  if lw > 5 ∨ lh > 4 ∨ x0 > 31 ∨ y0 > 15 ∨ x0 % 2 ^ lw ≠ 0 ∨ y0 % 2 ^ lh ≠ 0 ∨ a / 2 ^ 32 ≠ 0 then none
  else some (s.rectCores x0 y0 (2 ^ lw) (2 ^ lh))

/-- PREEMPT (R316): from now no group of the context becomes resident on the cores. -/
def execPreempt (port : Nat) (s : State) : Res :=
  mopStart port 0x07 (fun m s =>
    match s.rectArg (marg m 1) with
    | none => (stBadarg, s)
    | some cores => if (s.ctx? (marg m 0)).isNone then (stBadarg, s) else (stOk, s.preemptOn (marg m 0) cores false)) s

/-- PLIFT (R316). -/
def execPlift (port : Nat) (s : State) : Res :=
  mopStart port 0x08 (fun m s =>
    match s.rectArg (marg m 1) with
    | none => (stBadarg, s)
    | some cores =>
      if (s.ctx? (marg m 0)).isNone then (stBadarg, s)
      else
        let keep := fun (p : Preempt) => !cores.contains p.core
        (stOk, s.updCtx (marg m 0) fun c => { c with preempts := c.preempts.filter keep })) s

/-- EXCHSET (R369): refused while a thread waits at the exchange or a link command of it is unfinished. -/
def execExchset (port : Nat) (s : State) : Res :=
  mopStart port 0x0B (fun m s =>
    let a := marg m 0
    let n := marg m 1
    if (s.ctx? a).isNone || decide (n ≥ 64) || marg m 2 % 128 != 0 then (stBadarg, s)
    else if !(s.stepWaiters a n).isEmpty || (s.saved.any fun v => v.asid == a && v.atStep.contains n) || s.linkCmds.any fun c => c.asid == a && c.exch == n then (stBusy, s)
    else match s.readExch a n (marg m 2) with
      | .error _ => (stBadarg, s)
      | .ok e => (stOk, s.setExch a e)) s

/-- RTSHARE (R359, R367). -/
def execRtshare (port : Nat) (s : State) : Res :=
  mopStart port 0x0C (fun m s =>
    let a := marg m 0
    let p := marg m 1
    if (s.ctx? a).isNone ∨ p > 25 then (stBadarg, s)
    else if (s.contexts.filter fun c => c.asid != a).foldl (fun n c => n + c.share) p > 25 then (stNoshare, s)
    else (stOk, s.updCtx a fun c => { c with share := p })) s

/-! ### Identity and windows (R357, R371) -/

/-- The signed part of an attestation report (R371). -/
def State.report (s : State) (nonce : List Byte) : List Byte :=
  nonce ++ ((List.range 4).flatMap fun k => natToBytes 32 (s.boot.measure.getD k 0).toNat) ++ natToBytes 16 Config.serialAndCode.toNat
    ++ natToBytes 32 Config.identityKey.toNat

/-- ATTEST (R371): reads the nonce and writes the report with its signature, at device physical addresses. -/
def execAttest (port : Nat) (s : State) : Res :=
  mopStart port 0x0D (fun m s =>
    if marg m 0 + 32 > 2 ^ 48 ∨ marg m 1 + 0xD0 + 7856 > 2 ^ 48 then (stBadarg, s)
    else
      let r := s.report (s.physBytes (marg m 0) 32)
      (stOk, s.writePhys 0 0 (marg m 1) (r ++ (List.range 7856).map (Config.attestSignature r)))) s

/-- WINSET (R357): the base of the window of the port that writes MOP. -/
def execWinset (port : Nat) (s : State) : Res :=
  mopStart port 0x0E (fun m s =>
    let b := marg m 0
    if b % 2 ^ 36 ≠ 0 ∨ b ≥ 2 ^ 48 then (stBadarg, s)
    else (stOk, { s with host := { s.host with windows := (port, b) :: s.host.windows.filter fun p => p.1 != port } })) s

/-- BADOP (R359): an operation code that the table does not hold. -/
def execBadop (port op : Nat) (s : State) : Res :=
  if 1 ≤ op ∧ op ≤ 0x0E then notEnabled else mopStart port op (fun _ s => (stBadop, s)) s

/-- MGMT_COMPLETE (R359): MSTAT takes DONE, OVERRUN and the status, and the vector of MARG5 is raised on the port that
wrote MOP. A TLBINV completes once every access under the old entries has been performed (R355). -/
def execMgmtComplete (s : State) : Res :=
  match s.host.mgmt with
  | none => notEnabled
  | some m =>
    if m.before ≠ 0 && !s.invDone m.asid m.before then notEnabled
    else
      let v := marg m.margs 5
      .next { s with host := { s.host with
        mstat := mstatOf m.overrun m.status, mgmt := none
        raised := if bits v 15 1 = 1 then s.host.raised ++ [(m.port, bits v 0 11)] else s.host.raised } }

end Sys2Proof.Machine
end

