-- ==== Sys2Proof/Machine/Migrate.lean ====
section
/-! DEFINITION. Migration of a saved context (R368): MIGOUT and MIGIN. Where the monitor entries of an image's threads
travel is named in log 24: each in the 32 bytes of R299 that its thread's save slot has in the spill area, the save
slots counted over the images in the order of their addresses, with the remaining timeout in DUE. -/

namespace Sys2Proof.Machine

/-! ### MIGOUT -/

/-- Images with the save slot of the first thread of each. -/
def withSlots (gsz : Saved → Nat) : Nat → List Saved → List (Saved × Nat)
  | _, [] => []
  | n, v :: vs => (v, n) :: withSlots gsz (n + gsz v) vs

/-- The saved groups of a context in the order of their images' addresses. -/
def State.savedOf (s : State) (asid : Nat) : List Saved := sortBy (fun v => v.image.toNat) (s.saved.filter fun v => v.asid == asid)

/-- Whether a context may leave (R368): every group is saved, under a pre-emption of every core, in the save area,
with no reservation. -/
def State.mayLeave (s : State) (c : Context) : Bool :=
  let vs := s.saved.filter fun v => v.asid == c.asid
  !(s.groups.any fun g => g.asid == c.asid)
    && ((s.spans.filter fun x => x.asid == c.asid).all fun x => x.ended + (vs.filter fun v => v.sid == x.sid).length == x.n)
    && ((List.range 320).filter s.present).all (fun k => c.preempts.any fun p => p.core == k)
    && vs.all fun v => v.res.isEmpty && !v.held && decide (c.save.toNat ≤ v.image.toNat ∧ v.image.toNat + v.size ≤ c.save.toNat + c.savelen)

/-- The remaining timeout of an entry; 0 for none. -/
def Monitor.remaining (m : Monitor) (now : Nat) : Nat :=
  if !m.inserted then m.timeout else if m.due = 0 then 0 else max 1 (m.due - now)

/-- A thread of a saved group wakes with a status that the launcher gives it: its entry could not be kept (log 24). -/
def State.wakeSaved (s : State) (gid tid dst : Nat) (shadow : Bool) (status : Nat) : State :=
  { s with saved := s.saved.map fun x => if x.gid == gid then
      { x with runnable := true, woken := x.woken ++ [{ tid := tid, status := status, dst := dst, shadow := shadow, times := (0, 0) }] } else x }

/-- Withdraws the monitor entries of a saved group's threads and records them in the spill area, under the save slots from `base` on.
An entry that cannot be written there is lost: its thread wakes with status 3 (log 24). -/
def State.withdraw (s : State) (c : Context) (v : Saved) (base : Nat) : State :=
  let mine := s.monitors.filterMap fun m => match m.who with | .thread g t => if g == v.gid then some (m, t) else none | _ => none
  let put := fun (s : State) (p : Monitor × Nat) =>
    let e : Monitor := { p.1 with due := p.1.remaining s.tsc, slot := base + p.2 }
    (s.ctlWrite c.asid (c.spill.toNat + 32 * (base + p.2)) e.bytes).getD (s.wakeSaved v.gid p.2 p.1.dst p.1.shadow 3)
  let s1 := mine.foldl put s
  { s1 with
    monitors := s1.monitors.filter fun m => !(mine.any fun p => p.1.id == m.id)
    saved := s1.saved.map fun x => if x.gid == v.gid then { x with tslots := List.range' base v.gsz } else x }

/-- Poison of predicates has no place in an image: it goes with the line of the thread's record (log 24). -/
def State.poisonPreds (s : State) (v : Saved) : State :=
  (v.marks.filter fun m => m.2.1 != 0).foldl (fun s m => s.poisonVa v.core v.asid (v.image.toNat + 0x1A0 + m.1 * threadRecLen v.alloc + 8)) s

/-- MIGOUT (R368). -/
def execMigout (port : Nat) (s : State) : Res :=
  mopStart port 0x09 (fun m s =>
    match s.ctx? (marg m 0) with
    | none => (stBadarg, s)
    | some c =>
      if !s.mayLeave c then (stBusy, s)
      else
        let s0 := (withSlots (·.gsz) 0 (s.savedOf c.asid)).foldl (fun s p => (s.withdraw c p.1 p.2).poisonPreds p.1) s
        let s1 := s0.writeWoken
        (stOk, { s1 with saved := s1.saved.map fun v => if v.asid == c.asid then { v with complete := true } else v })) s

/-! ### MIGIN -/

/-- Address and length of the tile records of an image, one after another. -/
def tileOffsets (b : List Byte) : Nat → Nat → List Nat
  | 0, _ => []
  | n + 1, off =>
    let w := fld b (off + 4) 2 * rowWords (fld b (off + 6) 2) (bits (fld b (off + 8) 4) 0 4) (bits (fld b (off + 8) 4) 4 4)
    off :: tileOffsets b n (off + 0x40 + 4 * w + (w + 63) / 64 * 8)

/-- Bytes of storage that the tile records of a level need. -/
def tileNeed (b : List Byte) (offs : List Nat) (level : Nat) : Nat :=
  (offs.filter fun o => bits (fld b o 4) 8 2 == level).foldl (fun n o =>
    n + tileBytes (fld b (o + 4) 2) (rowWords (fld b (o + 6) 2) (bits (fld b (o + 8) 4) 0 4) (bits (fld b (o + 8) 4) 4 4))) 0

/-- What names a shared tile of an image: span, core's die and rectangle, KEY. -/
def shareKey (b : List Byte) (sid core o : Nat) : List Nat :=
  let lw := bits (fld b (o + 0xC) 4) 0 4
  let lh := bits (fld b (o + 0xC) 4) 4 4
  [sid, coreDie core, coreX core / 2 ^ lw, coreY core / 2 ^ lh, lw, lh, bits (fld b (o + 8) 4) 24 8]

/-- Names the tiles of an image: those of level 2 that groups share get one name. -/
def nameTiles (b : List Byte) (sid core : Nat) : List Nat → Nat → List (List Nat × Nat) → List (Nat × Nat) × Nat × List (List Nat × Nat)
  | [], next, known => ([], next, known)
  | o :: os, next, known =>
    let h := bits (fld b o 4) 0 5
    if bits (fld b o 4) 8 2 = 2 then
      let k := shareKey b sid core o
      match known.find? fun p => p.1 == k with
      | some p =>
        let r := nameTiles b sid core os next known
        ((h, p.2) :: r.1, r.2)
      | none =>
        let r := nameTiles b sid core os (next + 1) ((k, next) :: known)
        ((h, next) :: r.1, r.2)
    else
      let r := nameTiles b sid core os (next + 1) known
      ((h, next) :: r.1, r.2)

/-- The core that an image names, when it is present. -/
def State.imageCore (s : State) (b : List Byte) : Option Nat :=
  let v := fld b 0x1C 4
  let d := bits v 16 8
  let n := bits v 24 8
  if 1 ≤ d ∧ d ≤ 4 ∧ n < 80 ∧ s.present ((d - 1) * 80 + n) then some ((d - 1) * 80 + n) else none

/-- Whether an image may be restored: its layout version, its size, its allocation and its core. -/
def State.imageOk (s : State) (b : List Byte) : Bool :=
  fld b 0 4 == 1 && decide (1 ≤ fld b 4 4 ∧ fld b 4 4 ≤ 1024) && bits (fld b 0x28 4) 0 2 != 3 && fld b 0x30 4 == 0 && fld b 8 8 == b.length
    && decide (0x1A0 ≤ b.length) && (s.imageCore b).isSome

/-- The leaf of a group of a leaf launch: its slot from LEAFIDX, its tree and origin from the first bound tree whose
pool holds the slot (log 24). -/
def State.imageLeaf (s : State) (asid : Nat) (b : List Byte) : Option LeafInfo :=
  if bits (fld b 0x28 4) 4 1 = 0 then none
  else
    let slot := fld b 0x2C 4
    (List.range 8).findSome? fun k =>
      let a := fld b (0x140 + 8 * k) 8
      if a = 0 then none
      else match s.ctlRead asid a 64 with
        | .error _ => none
        | .ok d => (parseTree a d).bind fun t =>
          match s.ctlRead asid (t.leafp.toNat + leafStride t.vfmt * slot) 12 with
          | .error _ => none
          | .ok h => some { root := t.root, slot := slot, x := BitVec.ofNat 32 (fld h 0 4), y := BitVec.ofNat 32 (fld h 4 4), z := BitVec.ofNat 32 (fld h 8 4) }

/-- The span of an image: one of the context with its queue and tag, or a new one whose launch fields the image does
not give (log 18). -/
def State.imageSpan (s : State) (asid : Nat) (b : List Byte) : Nat × State :=
  let q := bits (fld b 0x18 4) 0 8
  let tag := bits (fld b 0x18 4) 16 16
  match s.spans.find? fun x => x.asid == asid && x.q == q && x.tag == tag with
  | some x => (x.sid, s)
  | none =>
    let w := fun (k : Nat) => (Config.spanWord s.nextId k).toNat
    let prio := ((s.queue? q).map (·.prio)).getD 0
    let x : Span :=
      { sid := s.nextId, asid := asid, q := q, tag := tag, prio := prio, x0 := w 1, y0 := w 2, w := w 3, h := w 4, n := 0, gsz := fld b 4 4
        alloc := 16 * 2 ^ bits (fld b 0x28 4) 0 2, cbase := BitVec.ofNat 64 (fld b 0x20 8), entry := 0, bars := false, tiles := [], args := [], cw := 0
        deal := .rect [] [], tick := s.tsc }
    (x.sid, { s.fresh with spans := s.spans ++ [x] })

/-- The trees that the slots of an image bind (R192). -/
def State.imageRoots (s : State) (asid : Nat) (b : List Byte) : List DWord :=
  (List.range 8).filterMap fun k =>
    let a := fld b (0x140 + 8 * k) 8
    if a = 0 then none
    else match s.ctlRead asid a 64 with
      | .error _ => none
      | .ok d => (parseTree a d).map (·.root)

/-- The exchange of a thread that an image records as parked in STEPWAIT: from the word at its PC and the recorded octet (R369). -/
def State.imageStep (s : State) (asid : Nat) (b : List Byte) (rec : Nat) : Option Nat :=
  if fld b (rec + 0xD) 1 = 1 ∧ fld b (rec + 0xE) 1 = 11 then
    match s.ctlRead asid (fld b rec 8) 12 with
    | .error _ => none
    | .ok p => match decode (fld p (4 * (fld b (rec + 8) 1 % 3)) 4) with
      | some (.stepwait _ sr) => some (fld b (0x40 + 4 * sr.toNat) 4)
      | _ => none
  else none

/-- Registers the monitor entries of an image's threads again (R368). Each is evaluated on insertion. An entry that cannot be read, or
whose word no longer translates, is lost (status 3); one whose word lies in host memory or the device page gets status 2 (log 24). -/
def State.register (s : State) (c : Context) (b : List Byte) (v : Saved) (base : Nat) : State :=
  let len := threadRecLen v.alloc
  ((List.range v.gsz).filter fun t => fld b (0x1A0 + t * len + 0xD) 1 == 1 && fld b (0x1A0 + t * len + 0xE) 1 == 1).foldl (fun s t =>
    let dst := fld b (0x1A0 + t * len + 0x2C) 1
    let open_ := bits (fld b (0x1A0 + t * len + 0xF) 1) 0 1 == 1
    match s.ctlRead c.asid (c.spill.toNat + 32 * (base + t)) 32 with
    | .error _ => s.wakeSaved v.gid t dst open_ 3
    | .ok r =>
      let wide := bits (fld r 0x1C 1) 3 1 == 1
      match s.translate ctlUnit 0 c.asid (fld r 0 8) { r := true } with
      | .error _ => s.wakeSaved v.gid t dst open_ 3
      | .ok p =>
        if p.host.isSome || p.dev then s.wakeSaved v.gid t dst open_ 2
        else
          let e : Monitor :=
            { id := s.nextId, asid := c.asid, die := p.home, slice := homeSlice (p.pa / 128), pa := p.pa, va := BitVec.ofNat 64 (fld r 0 8), wide := wide
              cmp := bits (fld r 0x1C 1) 0 3, opnd := BitVec.ofNat 64 (fld r 8 8), timeout := fld r 0x10 8, who := .thread v.gid t
              dst := dst, shadow := open_, slot := base + t }
          { s.fresh with monitors := s.monitors ++ [e] }) s

/-- One image of MIGIN: its address, its bytes and its first save slot. -/
def State.takeImage (s : State) (c : Context) (va : Nat) (b : List Byte) (base : Nat) (known : List (List Nat × Nat)) : State × List (List Nat × Nat) :=
  match s.imageCore b with
  | none => (s, known)
  | some core =>
    let (sid, s1) := s.imageSpan c.asid b
    let gsz := fld b 4 4
    let alloc := 16 * 2 ^ bits (fld b 0x28 4) 0 2
    let len := threadRecLen alloc
    let offs := tileOffsets b (fld b 0x12 2) (0x1A0 + gsz * len)
    let names := nameTiles b sid core offs (s1.nextId + 1) known
    let tst := fun (t : Nat) => fld b (0x1A0 + t * len + 0xD) 1
    let wait := fun (t : Nat) => tst t == 2 || (tst t == 1 && fld b (0x1A0 + t * len + 0xE) 1 == 1)
    let v : Saved :=
      { gid := s1.nextId, asid := c.asid, sid := sid, grp := fld b 0x14 4, core := core, image := BitVec.ofNat 64 va, size := b.length, tick := s.tsc
        gsz := gsz, alloc := alloc, need0 := tileNeed b offs 0, need1 := tileNeed b offs 1, runnable := !((List.range gsz).all wait)
        leaf := s.imageLeaf c.asid b, uids := names.1, tslots := List.range' base gsz, roots := s.imageRoots c.asid b
        atStep := (List.range gsz).filterMap fun t => s.imageStep c.asid b (0x1A0 + t * len) }
    let old := s1.saved.any fun x => x.asid == c.asid && x.image == v.image && x.complete
    let s2 : State := { s1 with
      saved := (s1.saved.filter fun x => !(x.asid == c.asid && x.image == v.image && x.complete)) ++ [v], nextId := names.2.1 }
    let s3 := s2.updSpan sid fun x => if old then x else { x with n := x.n + 1 }
    let s4 := (s3.ctlWrite c.asid (va + 0x10) (natToBytes 2 c.asid)).getD s3
    (s4.register c b v base, names.2.2)

/-- Reads the images of a list; none where one cannot be read or restored. -/
def State.readImages (s : State) (c : Context) (list count : Nat) : Option (List (Nat × List Byte)) :=
  match s.ctlRead c.asid list (8 * count) with
  | .error _ => none
  | .ok l => (List.range count).mapM fun k =>
    let va := fld l (8 * k) 8
    match s.ctlRead c.asid va 0x1A0 with
    | .error _ => none
    | .ok h => match s.ctlRead c.asid va (fld h 8 8 % 2 ^ 32) with
      | .error _ => none
      | .ok b => if s.imageOk b then some (va, b) else none

/-- MIGIN (R368). -/
def execMigin (port : Nat) (s : State) : Res :=
  mopStart port 0x0A (fun m s =>
    match s.ctx? (marg m 0) with
    | none => (stBadarg, s)
    | some c => match if marg m 2 > 1048576 then none else s.readImages c (marg m 1) (marg m 2) with
      | none => (stBadarg, s)
      | some l =>
        let r := (sortBy (·.1) l).foldl (fun (a : State × List (List Nat × Nat) × Nat) p =>
          let t := a.1.takeImage c p.1 p.2 a.2.2 a.2.1
          (t.1, t.2, a.2.2 + fld p.2 4 4)) (s, [], 0)
        (stOk, r.1)) s

end Sys2Proof.Machine
end

