-- ==== Sys2Proof/Machine/Power.lean ====
section
/-! DEFINITION. Power and cooling (R372, R373), timing sentinels (R393), and the scrubber (R392, R395). -/

namespace Sys2Proof.Machine

/-- POWER_EXCESS (R372): the arithmetic clock falls by 100 MHz, no lower than 1.2 GHz. DEDUCED (log 66). -/
def execPowerExcess (watts : Nat) (s : State) : Res :=
  if watts ≤ s.boot.plim then notEnabled
  else .next { s with boot := { s.boot with clock := max 1200 (s.boot.clock - 100) } }

/-- Contexts with a resident group. -/
def State.residentAsids (s : State) : List Nat := s.groups.foldl (fun l g => insertNat g.asid l) []

/-- THERMAL_LIMIT (R372): at 105 °C the clock is held at 1.2 GHz; at 115 °C every compute die is reset, and each resident
context gets a record. -/
def execThermalLimit (celsius : Nat) (s : State) : Res :=
  if celsius < 105 then notEnabled
  else
    let s1 : State := { s with boot := { s.boot with clock := 1200, hot := true } }
    if celsius < 115 then .next s1
    else
      let s2 := s.residentAsids.foldl (fun s n => s.raiseErr { id := 0, asid := n, tsc := 0, src := cpSrc, kind := 0xC, sev := 3 }) s1
      .next ([1, 2, 3, 4].foldl (fun s d => if (s.die d).enabled then s.resetDie d else s) s2)

/-- Milliseconds of the TSC. -/
def State.ms (s : State) : Nat := s.tsc / 1000000

/-- The die's count of sentinel events and its voltage target after one more event (R393). -/
def Die.sentinel (x : Die) (ms : Nat) : Die :=
  let n := if x.sentMs = ms then x.sentinels + 1 else 1
  { x with
    sentinels := n, sentMs := ms, vstep := if n = 1025 then min 6 (x.vstep + 1) else x.vstep
    vsince := if n > 1024 then (ms + 1) * 1000000 else x.vsince }

/-- SENTINEL_EVENT (R393): the cycle is computed again, which costs a cycle and changes nothing else. The first event
of a core in a millisecond writes a record to the context of the instruction, and later ones are charged to that
record's queue, where they merge into it. -/
def execSentinelEvent (core asid : Nat) (s : State) : Res :=
  if !(s.groups.any fun g => g.core == core && g.asid == asid) then notEnabled
  else
    let first := s.errors.find? fun e => e.kind == 2 && e.src == coreSrc core && e.tsc / 1000000 == s.ms
    let s1 := (s.updDie (coreDie core) fun x => x.sentinel s.ms).updCore core fun c => { c with sentMs := some s.ms }
    .next ((s1.raiseErr { id := 0, asid := (first.map (·.asid)).getD asid, tsc := 0, src := coreSrc core, kind := 2, sev := 0 }).oneCycle)

/-- VOLTAGE_STEP_DOWN (R393): a second without a millisecond of more than 1,024 events. -/
def execVoltageStepDown (die : Nat) (s : State) : Res :=
  let x := s.die die
  if x.vstep > 0 ∧ x.vsince + 1000000000 ≤ s.tsc then .next (s.updDie die fun x => { x with vstep := x.vstep - 1, vsince := s.tsc }) else notEnabled

/-- SCRUB (R392, R395): the line is clean (0), corrected and written back (1), or uncorrectable (2): then it is poisoned
for its next reader. Corrections and such lines go to the device log. DEDUCED (log 67). -/
def execScrub (line outcome : Nat) (s : State) : Res :=
  let log := fun (kind sev : Nat) => s.raiseErr { id := 0, asid := 0, tsc := 0, src := s.hbmSrc line, kind := kind, sev := sev, addr := BitVec.ofNat 64 (line * 128), synd := Config.errSynd s.nextId }
  match outcome with
  | 0 => .next s
  | 1 => .next (log 1 0)
  | 2 => .next ((log 4 1).poisonLine line)
  | _ => notEnabled

end Sys2Proof.Machine
end

