-- ==== Sys2Proof/Machine/Recover.lean ====
section
/-! DEFINITION. The trap runtime (R378-R381, R386, R402, R406), the fault queue's answers (R382, R404, R417, R418), and
the error queue and the device log (R389-R391, R418). -/

namespace Sys2Proof.Machine

/-! ### The trap runtime (R378, R380, R386) -/

/-- Whether a message still stands for its thread. -/
def State.trapStands (s : State) (m : TrapMsg) : Bool :=
  ((s.thread? m.gid m.tid).map fun t => t.st == .parked .trap && t.trapAt == some (m.kind, m.code, m.aval) && t.pc == m.pc).getD false

/-- Whether the runtime ends the group (R380, R348, R386). -/
def State.trapEnds (s : State) (m : TrapMsg) : Bool :=
  match m.kind with
  | 4 => decide (m.code ≥ 0xF2)
  | 5 => false
  | 7 => !s.pcont m.asid
  | _ => true

/-- The record that the runtime writes for a trap: its kind, its code and its syndrome (R380, R389). DEDUCED (log 69). -/
def trapRecord (m : TrapMsg) : Nat × Nat × Nat :=
  match m.kind with
  | 4 => (0xE, m.code, m.code + m.aval.toNat * 2 ^ 64)
  | 5 => (0xF, m.code, 0)
  | 6 => (0x10, m.aval.toNat, 0)
  | 7 => (4, 0, m.parity.toNat)
  | 8 => (0x11, m.reason, 0)
  | 9 => (0x12, m.code, 0)
  | k => (0xD, k, 0)

/-- Writes the record of a trap; its source is the trapping core (R380). -/
def State.writeTrap (s : State) (m : TrapMsg) (ends : Bool) : State :=
  let r := trapRecord m
  s.raiseErr
    { id := 0, asid := m.asid, tsc := 0, src := coreSrc m.core, kind := r.1, sev := if ends then 2 else if m.kind = 7 then 1 else 0
      addr := if m.kind = 7 ∨ m.kind = 9 then m.va else 0, pc := m.pc.pkt, grp := m.grp, tid := m.tid, code := r.2.1
      synd := BitVec.ofNat 128 r.2.2, gid := some m.gid }

/-- FLIPLEAD (R386, R406): in tandem mode the n-th since the checkpoint is performed once. -/
def State.flipLead (s : State) (g : Group) (m : TrapMsg) : State :=
  match g.role, s.tandem? g.gid, g.thread? m.tid with
  | .leader, some t, some x =>
    let n := x.flips + 1
    let c := ((t.flipsDone.find? fun p => p.1 == m.tid).map (·.2)).getD 0
    let s1 := s.updThread g.gid m.tid fun y => { y with flips := n }
    if n > c then
      (s1.updThread g.gid m.tid fun y => y.flip g.alloc m.aval).updTandem g.gid fun t =>
        { t with flipsDone := (m.tid, c + 1) :: t.flipsDone.filter fun p => p.1 != m.tid }
    else s1
  | _, _, _ => s

/-- The service of a TRAP code from 0xF0 (R386). -/
def State.trapService (s : State) (g : Group) (m : TrapMsg) : State :=
  if m.kind = 4 ∧ m.code = 0xF0 then s.updThread g.gid m.tid fun t => t.flip g.alloc m.aval
  else if m.kind = 4 ∧ m.code = 0xF1 then s.flipLead g m
  else s.writeTrap m false

/-- The trailer's thread of a leader's message, and whether it stands at the same trap (R402). -/
def State.trailerAt (s : State) (g : Group) (m : TrapMsg) : Option (Group × Thread × Bool) :=
  match s.partner? g, g.thread? m.tid with
  | some r, some x => (r.thread? m.tid).map fun y => (r, y, y.st == .parked .trap && y.trapAt == x.trapAt && y.pc == x.pc && y.tacc == x.tacc)
  | _, _ => none

/-- A trap from which the thread returns: the service or the record, then the thread goes on at the message's PC
(R380). In tandem mode the trailer goes on with it, or when it reaches the trap (R402). -/
def State.trapResume (s : State) (g : Group) (m : TrapMsg) : State :=
  let k := ((g.thread? m.tid).map fun t => (t.tacc, t.sync)).getD (0, 0)
  let s1 := (s.trapService g m).trapReturn g.gid m.tid m.pc
  match g.role, s.trailerAt g m with
  | .leader, some (r, _, true) =>
    let s2 := if m.kind = 4 ∧ m.code = 0xF0 then s1.updThread r.gid m.tid fun t => t.flip r.alloc m.aval else s1
    s2.trapReturn r.gid m.tid m.pc
  | .leader, _ => s1.updTandem g.gid fun t => { t with msgs := t.msgs ++ [{ tid := m.tid, kind := m.kind, code := m.code, aval := m.aval, pc := m.pc, k := k.1, sync := k.2 }] }
  | _, _ => s1

/-- The runtime's action for a message. -/
def State.serveTrap (s : State) (m : TrapMsg) : State :=
  match s.group? m.gid with
  | none => s
  | some g =>
    if !s.trapStands m then s
    else if s.trapEnds m then (s.writeTrap m true).terminate m.gid
    else s.trapResume g m

/-- A message's slot is freed, and messages that wait for one enter (R378). -/
def State.freeSlot (s : State) (die cluster : Nat) (m : TrapMsg) : State :=
  let b := s.mailbox die cluster
  s.setMailbox ({ b with slots := b.slots.erase m } : Mailbox).letIn

/-- The message that the runtime takes up next: the oldest of its mailbox (R378). -/
def State.nextMessage (s : State) (die cluster : Nat) : Option TrapMsg := (s.mailbox die cluster).slots.head?

/-- TRAP_MESSAGE (R378, R380): the runtime takes up and finishes a message of its mailbox. -/
def execTrapMessage (die cluster : Nat) (s : State) : Res :=
  match s.nextMessage die cluster with
  | none => notEnabled
  | some m => .next ((s.serveTrap m).freeSlot die cluster m)

/-! ### Answers to fault records (R382, R417) -/

/-- A thread held under a record is tried again at its chain's first word, or forwarded as a trap of kind 9. A wait of the
trailer behind a fault of the leader is not counted (R402). -/
def State.answerThread (s : State) (gid tid kind : Nat) (va : DWord) (unres : Bool) : State :=
  match s.thread? gid tid with
  | none => s
  | some t =>
    if t.st != .parked .access then s
    else if unres then s.takeTrap gid tid 9 kind 0 va
    else
      let s1 := s.wakeThread gid tid
      match (s.group? gid).bind s1.partner? with
      | some r => s1.updThread r.gid tid fun x => { x with waitTick := s.tsc }
      | none => s1

/-- The page that a held command of the command processor waits for is tried again, or stays answered as
unresolvable. -/
def deadAfter (unres : Bool) (dead : List Nat) : List Nat := if unres then dead else dead.drop 1

/-- Acts on one item held under an answered record (R382, R404, R417). -/
def State.answerItem (s : State) (f : FaultRec) (unres : Bool) (h : HeldItem) : State :=
  match h with
  | .thread gid tid => s.answerThread gid tid f.kind f.va unres
  | .fill gid tid _ _ => s.answerFill gid tid unres
  | .side id =>
    if unres then match s.sideLog.find? fun e => e.id == id with
      | some e => s.terminate e.acc.gid
      | none => s
    else
      let free := fun (e : SideEntry) => { e with held := false }
      { s with sideLog := updWhere (fun e => e.id == id) free s.sideLog }
  | .copy id =>
    if unres then s.failCopy id
    else
      let free := fun (c : Copy) => { c with heldFault := false }
      { s with copies := updWhere (fun c => c.id == id) free s.copies }
  | .mx id => if unres then s.failMx id else s.retryMx id
  | .tileOp id =>
    let free := fun (o : TileOp) => { o with heldFault := false, status := if unres then 7 else o.status }
    { s with tileOps := updWhere (fun o => o.id == id) free s.tileOps }
  | .alloc => if unres then s.failAlloc else { s with allocHeld := false }
  | .sweep asid root =>
    if unres then { s with marked := s.marked.filter fun m => !(m.asid == asid && m.tree.root == root) }
    else
      let free := fun (m : Marked) => { m with held := false }
      { s with marked := updWhere (fun m => m.asid == asid && m.tree.root == root) free s.marked }
  | .command q => s.updQueue q fun x => { x with heldFault := false, dead := deadAfter unres x.dead }
  | .cword id => s.answerWord id unres
  | .node graph n => s.updNode graph n fun x => { x with hold := false, dead := deadAfter unres x.dead }
  | .launchWord id =>
    let free := fun (r : LaunchReq) => { r with held := false, dead := deadAfter unres r.dead }
    { s with launches := updWhere (fun r => r.id == id) free s.launches }
  | .enq gid tid => s.retryAsk gid tid unres
  | .groupEnd gid => s.answerEnd gid unres
  | .save gid => s.answerSave gid unres
  | .restore gid => s.answerRestore gid unres
  | .link id =>
    if unres then s.failLink id
    else
      let free := fun (c : LinkCmd) => { c with heldFault := false }
      { s with linkCmds := updWhere (fun c => c.id == id) free s.linkCmds }
  | .arrival id => s.answerArrival id unres
  | .checkpoint gid => s.answerCheckpoint gid unres

/-- The response that the host has written into a record: true for unresolvable (R382). One that cannot be read counts
as a retry. -/
def State.respOf (s : State) (c : Context) (seq : Nat) : Bool :=
  match s.ctlRead c.asid (c.fqbase.toNat + 64 + 32 * (seq % c.fqlen) + 0x18) 2 with
  | .ok b => decide (bytesToNat b ≥ 2)
  | .error _ => false

/-- Acts on a consumed record. A FINAL one has been acted on (R382). -/
def State.answerRecord (s : State) (p : FaultRec × Bool) : State :=
  if p.1.kind ≥ 4 then s else p.1.held.foldl (fun s h => s.answerItem p.1 (p.2 || p.1.never.contains h) h) s

/-- Whether the header of a context's fault queue lies in host memory. -/
def State.hostHeader (s : State) (c : Context) : Bool :=
  match s.translate ctlUnit 0 c.asid (c.fqbase.toNat + 4) { r := true } with | .ok t => t.host.isSome | .error _ => false

/-- FCONS as the control die knows it: what it read last from host memory, or, where its monitor entry has woken or it
has none, what lies in device memory (R382). -/
def State.fconsKnown (s : State) (c : Context) : Option Nat :=
  if s.hostHeader c then some c.fconsRead
  else if s.monitors.any fun m => m.who == .fcons c.asid then none
  else s.fcons c

/-- Records consumed since the last look: those that were posted. -/
def Context.consumed (c : Context) (fc : Nat) : Nat := min ((fc + 2 ^ 32 - c.fconsSeen) % 2 ^ 32) ((c.fprod + 2 ^ 32 - c.fconsSeen) % 2 ^ 32)

/-- FAULT_RESPONSE (R382): the control die acts on every record that FCONS has passed, and watches it again. -/
def execFaultResponse (asid : Nat) (s : State) : Res :=
  match s.ctx? asid with
  | none => notEnabled
  | some c => match s.fconsKnown c with
    | none => notEnabled
    | some fc =>
      if fc = c.fconsSeen then notEnabled
      else
        let seqs := (List.range (c.consumed fc)).map fun k => (c.fconsSeen + k) % 2 ^ 32
        let gone := fun (f : FaultRec) => f.asid == asid && f.posted && seqs.contains f.seq
        let recs := seqs.filterMap fun q => (s.faults.find? fun f => f.asid == asid && f.posted && f.seq == q).map fun f => (f, s.respOf c q)
        let s1 := { s with faults := s.faults.filter fun f => !gone f }.updCtx asid fun c => { c with fconsSeen := fc }
        .next ((recs.foldl State.answerRecord s1).watchFcons asid)

/-- FCONS_POLL (R382): an FCONS in host memory is read every 10 µs. -/
def execFconsPoll (asid : Nat) (s : State) : Res :=
  match s.ctx? asid with
  | none => notEnabled
  | some c =>
    if !s.hostHeader c || decide (s.tsc < c.pollDue) then notEnabled
    else
      let v := (s.fcons c).getD c.fconsRead
      .next (s.updCtx asid fun c => { c with fconsRead := v, pollDue := s.tsc + 10000 })

/-! ### Held fault records (R382, R418) -/

/-- Posts held records of a context in the order of their TSC while there is room, `n` at most. -/
def State.postHeld (s : State) (asid : Nat) : Nat → State
  | 0 => s
  | n + 1 =>
    match s.ctx? asid, minBy? (fun f : FaultRec => f.tsc) (s.faults.filter fun f => f.asid == asid && !f.posted) with
    | some c, some f => match s.tryPost c f with
      | none => s
      | some s1 =>
        let post := fun (x : FaultRec) => { x with posted := true, seq := c.fprod }
        let s2 := { s1 with faults := updWhere (fun x => x.id == f.id) post s1.faults }.updCtx asid fun c =>
          { c with fprod := (c.fprod + 1) % 2 ^ 32, fheld := c.fheld - 1 }
        s2.postHeld asid n
    | _, _ => s

/-- Held records of a context. -/
def State.heldFaults (s : State) (asid : Nat) : Nat := (s.faults.filter fun f => f.asid == asid && !f.posted).length

/-- HELD_FAULT_POST (R382): space has freed. -/
def execHeldFaultPost (asid : Nat) (s : State) : Res :=
  match s.ctx? asid with
  | none => notEnabled
  | some c =>
    if s.heldFaults asid = 0 || (s.fcons c).isNone || s.queueFull c then notEnabled
    else
      let s1 := s.postHeld asid (s.heldFaults asid)
      if s1.heldFaults asid = s.heldFaults asid then notEnabled else .next (s1.writeFaultHeader asid)

/-- FAULT_WRITE_RETRY (R418): held records of a queue that could not be written are tried every 10 µs. -/
def execFaultWriteRetry (asid : Nat) (s : State) : Res :=
  match s.ctx? asid with
  | none => notEnabled
  | some c =>
    if s.heldFaults asid = 0 || s.queueFull c || decide (s.tsc < c.retryDue) then notEnabled
    else
      let s1 := s.postHeld asid (s.heldFaults asid)
      .next ((s1.updCtx asid fun c => { c with retryDue := s.tsc + 10000 }).writeFaultHeader asid)

/-! ### Error records (R389-R391, R418) -/

/-- Changes an error record. -/
def State.updErr (s : State) (id : Nat) (f : ErrRec → ErrRec) : State := { s with errors := updWhere (fun e => e.id == id) f s.errors }

/-- Puts a record into the device log, a ring of 4,096 (R391). -/
def State.logRecord (s : State) (e : ErrRec) : State :=
  { s with deviceLog := (s.deviceLog ++ [e]).drop (s.deviceLog.length + 1 - 4096), logCount := s.logCount + 1 }

/-- ERROR_RECORD_ACCEPT (R390): the record reaches the control die and is counted in ECOUNT. One whose context is gone
is dropped. DEDUCED (log 61). -/
def execErrorRecordAccept (r : Nat) (s : State) : Res :=
  match s.errors.find? fun e => e.id == r && !e.accepted with
  | none => notEnabled
  | some e =>
    if e.asid = 0 then .next (s.updErr r fun e => { e with accepted := true })
    else match s.ctx? e.asid with
      | none => .next { s with errors := s.errors.filter fun x => x.id != r }
      | some c =>
        let n := (c.ecount + 1) % 2 ^ 32
        let s1 := (s.updErr r fun e => { e with accepted := true, seq := c.ecount }).updCtx e.asid fun c => { c with ecount := n }
        .next ((s1.ctlWrite e.asid (c.eqbase.toNat + 0xC) (natToBytes 4 n)).getD s1)

/-- Whether a record is the next of its context to be posted: accepted, 2,000 ticks old, and before every other in TSC
and then in source (R390). -/
def State.postable (s : State) (e : ErrRec) : Bool :=
  e.accepted && !e.posted && decide (e.tsc + 2000 ≤ s.tsc)
    && s.errors.all fun x => x.posted || x.asid != e.asid || x.id == e.id
        || decide (e.tsc < x.tsc ∨ (e.tsc = x.tsc ∧ (e.src < x.src ∨ (e.src = x.src ∧ e.id < x.id))))

/-- ECONS as the control die reads it. -/
def State.econs (s : State) (c : Context) : Option Nat :=
  match s.ctlRead c.asid (c.eqbase.toNat + 4) 4 with | .ok b => some (bytesToNat b) | .error _ => none

/-- Address of record i of a context's error queue. -/
def Context.errAt (c : Context) (i : Nat) : Nat := c.eqbase.toNat + 64 + 64 * (i % c.eqlen)

/-- The unconsumed record that a record merges into (R390, R393): of the same source, kind, address and code; the newest,
or a sentinel record of the same millisecond. -/
def State.mergeInto (s : State) (c : Context) (ec : Nat) (e : ErrRec) : Option ErrRec :=
  s.errors.find? fun x => x.asid == e.asid && x.posted && x.src == e.src && x.kind == e.kind && x.addr == e.addr && x.code == e.code
    && decide ((x.idx + 2 ^ 32 - ec) % 2 ^ 32 < (c.eprod + 2 ^ 32 - ec) % 2 ^ 32)
    && ((x.idx + 1) % 2 ^ 32 == c.eprod || (e.kind == 2 && x.tsc / 1000000 == e.tsc / 1000000))

/-- A record is dropped: EDROP rises (R390). -/
def State.dropErr (s : State) (c : Context) (e : ErrRec) : State :=
  let n := (c.edrop + 1) % 2 ^ 32
  let s1 := { s with errors := s.errors.filter fun x => x.id != e.id }.updCtx c.asid fun c => { c with edrop := n }
  (s1.ctlWrite c.asid (c.eqbase.toNat + 8) (natToBytes 4 n)).getD s1

/-- A record that cannot be written is dropped, with a copy in the device log (R418). -/
def State.loseErr (s : State) (c : Context) (e : ErrRec) : State := (s.dropErr c e).logRecord { e with asid := 0, copyOf := c.asid }

/-- Writes a record and after it EPROD; none where either cannot be written. -/
def State.writeErr (s : State) (c : Context) (e : ErrRec) : Option State :=
  (s.ctlWrite c.asid (c.errAt c.eprod) e.bytes).bind fun s1 => s1.ctlWrite c.asid c.eqbase.toNat (natToBytes 4 ((c.eprod + 1) % 2 ^ 32))

/-- Posts, merges or drops a record of a context (R390, R418). -/
def State.postErr (s : State) (c : Context) (e : ErrRec) : State :=
  match s.econs c with
  | none => s.loseErr c e
  | some ec =>
    match s.mergeInto c ec e with
    | some x =>
      let y : ErrRec := { x with rep := min 0xFFFF (x.rep + 1) }
      match s.ctlWrite c.asid (c.errAt x.idx) y.bytes with
      | none => s.loseErr c e
      | some s1 => { s1 with errors := (updWhere (fun z => z.id == x.id) (fun _ => y) s1.errors).filter fun z => z.id != e.id }
    | none =>
      if (c.eprod + 2 ^ 32 - ec) % 2 ^ 32 ≥ c.eqlen then s.dropErr c e
      else match s.writeErr c e with
        | none => s.loseErr c e
        | some s1 =>
          let old := fun (z : ErrRec) => z.asid == c.asid && z.posted && !(z.kind == 2 && z.tsc / 1000000 == s.ms)
          let put := fun (z : ErrRec) => { z with posted := true, idx := c.eprod }
          { s1 with errors := updWhere (fun z => z.id == e.id) put (s1.errors.filter fun z => !old z) }.updCtx c.asid fun c =>
            { c with eprod := (c.eprod + 1) % 2 ^ 32 }

/-- ERROR_RECORD_POST (R390, R391, R418). -/
def execErrorRecordPost (r : Nat) (s : State) : Res :=
  match s.errors.find? fun e => e.id == r with
  | none => notEnabled
  | some e =>
    if !s.postable e then notEnabled
    else if e.asid = 0 then .next ({ s with errors := s.errors.filter fun x => x.id != r }.logRecord e)
    else match s.ctx? e.asid with
      | none => .next { s with errors := s.errors.filter fun x => x.id != r }
      | some c => .next (s.postErr c e)

/-- Items that no record of a fault queue stands for are answered. -/
def State.answerBare (s : State) (unres : Bool) (hs : List HeldItem) : State :=
  hs.foldl (fun s h => s.answerItem { id := 0, asid := 0, va := 0, tsc := 0, src := 0, kind := fkAway, acc := 0, held := [] } unres h) s

/-- What waits for a reset die is tried again (R279). -/
def State.retryAway (s : State) : State := { s with away := [] }.answerBare false s.away

/-- The commands of terminated groups whose faults were withdrawn fail (R380). -/
def State.failLost (s : State) : State := { s with lost := [] }.answerBare true s.lost

/-- DIE_ENABLE (R279): lines homed on the die are available again and read memory; what has waited for them goes on. -/
def execDieEnable (d : Nat) (s : State) : Res :=
  if 1 ≤ d ∧ d ≤ 4 ∧ (s.die d).enabled = false ∧ s.boot.stage = 6 then .next (s.updDie d fun x => { x with enabled := true }).retryAway
  else notEnabled

/-- INSTRUCTION_FETCH (R36, R40): a thread that is ready and holds no packet fetches the one at its PC. -/
def execInstructionFetch (gid tid : Nat) (s : State) : Res :=
  match s.thread? gid tid with
  | some t => if t.st = .ready ∧ t.packet = [] then .next (s.fetch gid tid) else notEnabled
  | none => notEnabled

end Sys2Proof.Machine
end

