-- ==== Sys2Proof/Machine/Upsets.lean ====
section
/-! DEFINITION. Errors in the arrays of the device (R385, R392, R394, R395): what the code of each array makes of them. Where the
table of R392 names no record, there is none. DESIGN CHOICE (log 84). -/

namespace Sys2Proof.Machine

/-- A record of an error that an array's code found: kind, severity, source, context (0 for the device log) and address. -/
def State.arrayRecord (s : State) (kind sev src asid : Nat) (addr : DWord) : State :=
  s.raiseErr { id := 0, asid := asid, tsc := 0, src := src, kind := kind, sev := sev, addr := addr, synd := Config.errSynd s.nextId }

/-- A record of an error in a line, to a context, or to the device log where none is named. -/
def State.lineRecord (s : State) (kind sev src asid line : Nat) : State := s.arrayRecord kind sev src asid (s.lineVa asid line)

/-- An error in a copy of a line: corrected, with a CORRECTED record to the context whose access or command reads the value, or, where none
reads it, to the one that wrote it last; or the line is poisoned (R383), with no record before its next reader (R392, R395). -/
def State.lineUpset (s : State) (src line : Nat) (reader : Option Nat) (bad : Bool) : State :=
  if bad then s.poisonLine line else s.lineRecord 1 0 src (reader.getD (s.writer line)) line

/-- An error in a line of a die's L2. One that the writing back of a dirty line finds is an EVICT, charged to the line's last writer
(R389, R395). -/
def State.l2Upset (s : State) (die line : Nat) (reader : Option Nat) (bad : Bool) : Res :=
  match s.lines.find? fun p => p.1 == die && p.2.line == line with
  | none => notEnabled
  | some p =>
    let src := if p.2.flc then srcNum die (0x600 + (Config.hbmStack line).toNat) else sliceSrc die line
    let s1 := s.lineUpset src line reader bad
    .next (if bad && p.2.st == .MI then s1.lineRecord 5 1 src (s.writer line) line else s1)

/-- An uncorrectable error in a directory entry, or in an L2 tag, poisons the line at its home, with a record to its last writer (R392,
R395). -/
def State.tagUpset (s : State) (src line : Nat) (bad : Bool) : State :=
  if bad then (s.poisonLine line).lineRecord 4 1 src (s.writer line) line else s

/-- An error in a line of a core's L1: a clean line is fetched again; one that its core owns is corrected or poisoned. -/
def State.l1Upset (s : State) (core line : Nat) (reader : Option Nat) (bad : Bool) : Res :=
  if (s.dieLine (coreDie core) line).own = some core then .next (s.lineUpset (coreSrc core) line reader bad)
  else if s.l1.any fun x => x.core == core && x.line == line then .next (s.dropL1 core line)
  else notEnabled

/-- The words of a tile that one SEC-DED code covers together: 64 bits. -/
def pairWords (t : Tile) (word : Nat) : List Nat := [word / 2 * 2, word / 2 * 2 + 1].filter fun i => decide (i < t.rows * t.rw)

/-- An error in a tile: corrected, with a CORRECTED record to its context; or the words that the code covers are poisoned, and with
them what reads them: a thread's register, or an engine command, which fails with DATA. -/
def State.tileUpset (s : State) (uid word : Nat) (bad : Bool) : Res :=
  match s.tile? uid with
  | none => notEnabled
  | some t =>
    if word ≥ t.rows * t.rw then notEnabled
    else if !bad then .next (s.arrayRecord 1 0 (if t.level = 2 then srcNum t.die 0 else coreSrc t.core) t.asid 0)
    else .next { s with tiles := updWhere (fun x => x.uid == uid) (fun x => { x with poison := (pairWords x word).foldl (fun l i => insertNat i l) x.poison }) s.tiles }

/-- An error in a side-log entry: its target is poisoned where it is mapped, and the thread's group is terminated, with a POISON
record to the context tagged in the entry (R392, R395). -/
def State.sideUpset (s : State) (id : Nat) (bad : Bool) : Res :=
  match s.sideLog.find? fun e => e.id == id with
  | none => notEnabled
  | some e =>
    if !bad then .next s
    else
      let a := e.acc
      let s1 := [a.va.toNat, a.va.toNat + (a.size - 1)].foldl (fun s va => s.poisonVa a.core a.asid va) s
      let s2 := s1.raiseErr
        { id := 0, asid := a.asid, tsc := 0, src := coreSrc a.core, kind := 4, sev := 2, addr := a.va
          grp := ((s.group? a.gid).map (·.grp)).getD 0xFFFFFFFF, tid := a.tid, gid := some a.gid }
      .next ({ s2 with sideLog := s2.sideLog.filter fun x => x.id != id }.terminate a.gid)

/-- An error in a compare-buffer entry is a mismatch (R400), whose record names no access (R406). -/
def State.compareUpset (s : State) (gid tid k : Nat) (bad : Bool) : Res :=
  match s.tandem? gid with
  | none => notEnabled
  | some t => match t.entries.find? fun e => e.tid == tid && e.k == k with
    | none => notEnabled
    | some _ => .next (if bad then s.mismatch t tid 0 0 0 0 else s)

/-- A message that is damaged in its mailbox is sent again by its core (R392): it enters behind those that are there. -/
def State.mailboxUpset (s : State) (die cluster : Nat) (bad : Bool) : Res :=
  let b := s.mailbox die cluster
  match b.slots with
  | [] => notEnabled
  | m :: rest => .next (if bad then s.setMailbox (({ b with slots := rest } : Mailbox).post m) else s)

/-- A command whose buffer is damaged before it has been carried out fails with DATA, as one whose octet is poisoned does (R392, R175,
R266). -/
def State.commandUpset (s : State) (matrix : Bool) (id : Nat) (bad : Bool) : Res :=
  if matrix then
    if s.mxs.any fun m => m.id == id && !m.finished then
      .next (if bad then { s with mxs := updWhere (fun m => m.id == id) (fun m => { m with poisoned := true }) s.mxs } else s)
    else notEnabled
  else if s.copies.any fun c => c.id == id && !c.moved then
    .next (if bad then { s with copies := updWhere (fun c => c.id == id) (fun c => { c with poisoned := true, fail := lowest [(c.fail, c.fail != 0), (0x19, true)] }) s.copies } else s)
  else notEnabled

/-- The same of a command of the collective engine (R392). -/
def State.linkUpset (s : State) (id : Nat) (bad : Bool) : Res :=
  if s.linkCmds.any fun c => c.id == id && c.fn != 3 && !c.moved then
    .next (if bad then { s with linkCmds := updWhere (fun c => c.id == id) (fun c => { c with poisoned := true }) s.linkCmds } else s)
  else notEnabled

/-- A field word whose entry in the field unit's or the allocator engine's buffer is damaged: one that has still to be carried out does
nothing; its result is poisoned (R392, R203). -/
def State.fieldUpset (s : State) (id : Nat) (bad : Bool) : Res :=
  match s.fieldOps.find? fun o => o.id == id with
  | none => notEnabled
  | some o =>
    if !bad then .next s
    else
      let ws := o.result.getD ((List.range o.dcnt).map (Config.poisonWord id))
      let s1 := if s.allocQ.head? == some (.word id) then { s.unhold (· == .alloc) with allocHeld := false } else s
      .next { s1 with
        allocQ := s1.allocQ.filter (· != .word id)
        fieldOps := updWhere (fun o => o.id == id) (fun o => { o with result := some ws, poison := true }) s1.fieldOps }

/-- A register of a thread takes a parity error, which its next reading finds (R385). Register 0 and predicate 0 store nothing. -/
def State.regUpset (s : State) (gid tid n limit : Nat) (f : Thread → Thread) : Res :=
  if n = 0 ∨ n ≥ limit ∨ (s.thread? gid tid).isNone then notEnabled else .next (s.updThread gid tid f)

/-- An error in one of the arrays of R392. -/
def State.upset (s : State) (u : Upset) : Res :=
  let alloc := fun (gid : Nat) => ((s.group? gid).map (·.alloc)).getD 0
  match u with
  | .reg gid tid n => s.regUpset gid tid n (alloc gid) fun t => { t with parity := t.parity ||| BitVec.twoPow 64 n }
  | .shadowReg gid tid n =>
    if alloc gid = 64 then s.regUpset gid tid (n + 1) 17 fun t => { t with sparity := t.sparity ||| BitVec.twoPow 16 n } else notEnabled
  | .pred gid tid n => s.regUpset gid tid n 8 fun t => { t with pparity := t.pparity ||| BitVec.twoPow 8 n }
  | .ureg gid n =>
    if n = 0 ∨ n ≥ 64 ∨ (s.group? gid).isNone then notEnabled
    else .next (s.updGroup gid fun g => { g with uparity := g.uparity ||| BitVec.twoPow 64 n })
  | .icache gid tid => if (s.thread? gid tid).isNone then notEnabled else .next (s.updThread gid tid fun t => { t with packet := [] })
  | .l1Line core line reader bad => s.l1Upset core line reader bad
  | .tlb unit asid page => .next { s with tlb := s.tlb.filter fun t => !(t.unit == unit && t.asid == asid && t.page == page) }
  | .leafCache core k =>
    match (s.leafCache.filter fun c => c.core == core)[k]? with
    | none => notEnabled
    | some e => .next { s with leafCache := s.leafCache.erase e }
  | .tileWord uid word bad => s.tileUpset uid word bad
  | .l2Line die line reader bad => s.l2Upset die line reader bad
  | .l2Tag die line bad =>
    if s.lines.any fun p => p.1 == die && p.2.line == line then .next (s.tagUpset (sliceSrc die line) line bad) else notEnabled
  | .directory line bad =>
    match s.dirs.find? fun d => d.line == line with
    | none => notEnabled
    | some d => .next (s.tagUpset (sliceSrc d.home line) line bad)
  | .monitorTable die slice bad => if bad then execMonlost die slice s else .next s
  | .sideLog id bad => s.sideUpset id bad
  | .compareBuffer gid tid k bad => s.compareUpset gid tid k bad
  | .mailbox die cluster bad => s.mailboxUpset die cluster bad
  | .matrixBuffer id bad => s.commandUpset true id bad
  | .copyBuffer id bad => s.commandUpset false id bad
  | .linkBuffer id bad => s.linkUpset id bad
  | .fieldBuffer id bad => s.fieldUpset id bad
  | .hbmLine line reader bad => .next (s.lineUpset (s.hbmSrc line) line reader bad)
  | .galgal _ => .next s

end Sys2Proof.Machine
end

