-- ==== Sys2Proof/Machine/Advance.lean ====
section
/-! DEFINITION. What happens of itself: the actions that are in flight, in the order in which the step tries them when
no agenda names one (log 4), what follows every action, and the passing of time. -/

namespace Sys2Proof.Machine

/-- Whether an instruction is an event of the device, and not a word that a thread issues. -/
def isEvent (i : Instr) : Bool :=
  match i with
  | .nop => false
  | .notAnInstruction _ => false
  | i => encode i == 0

/-- What follows of itself after every action: threads that were held try again, and the wake rules are applied
(R298, R314, R306, R301, R396-R403); commands whose faults were withdrawn fail (R380), and lines that are due leave for their age (R290). -/
def State.follow (s : State) : State := ((s.failLost.retryHolds.settle.settleSteps.settleTandems).writeWoken).serveEdges.ageLines

/-- What follows the last word of a pack's chain: the field unit's sums (R207) and the requests to the control die (R334). -/
def flushPack : Flush := fun s => s.flushSums.serveAsks s.issue.gid

/-- The meaning of a directory message that arrives. -/
def Msg.act (m : Msg) : State → Res :=
  match m.kind with
  | .rds => execRds m.id
  | .rdx => execRdx m.id
  | .upg => execUpg m.id
  | .wb => execWb m.id
  | .inv => execInv m.id
  | .fwd => execFwd m.id
  | .fwdInv => execFwdinv m.id
  | .answer => execDirectoryAnswer m.id
  | .noLine => execNoLineAnswer m.id
  | .grant => execGrant m.id
  | .atHome => execPerformAtHome m.id
  | .homeOp => execHomeOperation m.id
  | .wbAck => execWbAck m.id
  | .register => fun _ => notEnabled  -- stands at its home from its arrival on; it is no message of the links
  | .future => fun _ => notEnabled

/-- Actions of accesses and of the directory. -/
def State.memoryActs (s : State) : List (State → Res) :=
  s.net.map Msg.act
    ++ (s.links.filter fun k => !k.lines.isEmpty).map (fun k => execLineReceive k.src k.dst false)
    ++ (s.links.filter fun k => k.replay).map (fun k => execReplayRequest k.src k.dst)
    ++ s.accs.flatMap (fun a => [execSliceAccess a.id, execOwnershipGrant a.id, execLoadComplete a.id, execStoreAck a.id])
    ++ s.sideLog.map (fun e => execSideLogReplay e.id)
    ++ (s.monitors.filter fun m => !m.inserted).map (fun m => execMonitorInsert m.id)
    ++ (s.monitors.filter fun m => m.due != 0).map (fun m => execMonitorTimeout m.id)
    ++ (s.monitors.filter fun m => m.spilled).map (fun m => execMonitorSpillReturn m.die m.slice)

/-- Actions of a thread that is not ready. -/
def Thread.acts (gid : Nat) (t : Thread) : List (State → Res) :=
  (if t.skids.any fun k => !k.taken && k.left == 0 then [execPoisonSkid gid t.tid] else []) ++
  match t.st with
  | .fencing _ => [execFenceComplete gid t.tid]
  | .asking true _ _ => [execFenceComplete gid t.tid]
  | .yielding _ => [execYieldExpiry gid t.tid]
  | .filling u r => [execTileRowFill u r]
  | .waiting => [execTrailerAccess gid t.tid]
  | _ => []

/-- Actions of the units of the cores and of the control die. -/
def State.unitActs (s : State) : List (State → Res) :=
  s.groups.flatMap (fun g => g.threads.flatMap (Thread.acts g.gid))
    ++ s.fieldOps.map (fun o => execFieldWordComplete o.id)
    ++ (if s.allocQ.isEmpty then [] else [execAllocatorRequest])
    ++ s.marked.map (fun m => execSweep m.asid m.tree.root.toNat)
    ++ s.mxs.flatMap (fun m => [execMatrixCommandStart m.core, execRingSlotReady m.core, execMatrixCommandComplete m.core])
    ++ s.copies.map (fun c => execCopyComplete c.id)
    ++ s.tileOps.map (fun o => execTileOperationComplete o.id)
    ++ s.linkCmds.map (fun c => execLinkCommandComplete c.id)

/-- Actions of the trap runtime and of the queues of faults and errors. -/
def State.recoveryActs (s : State) : List (State → Res) :=
  (s.mailboxes.filter fun m => !m.slots.isEmpty).map (fun m => execTrapMessage m.die m.cluster)
    ++ (s.errors.filter fun e => !e.accepted).map (fun e => execErrorRecordAccept e.id)
    ++ (s.errors.filter fun e => !e.posted).map (fun e => execErrorRecordPost e.id)
    ++ s.contexts.flatMap (fun c => [execFaultResponse c.asid, execFconsPoll c.asid, execHeldFaultPost c.asid, execFaultWriteRetry c.asid])

/-- Actions of the command processor. -/
def State.queueActs (s : State) : List (State → Res) :=
  (if s.host.mgmt.isSome then [execMgmtComplete] else [])
    ++ s.queues.flatMap (fun x =>
      match x.record with
      | none => if x.refetch.isSome then [execRecordRefetch x.q] else []
      | some b => match recOp b with
        | 1 => [execLaunchCommand x.q]
        | 2 => [execLaunchLeaf x.q]
        | 3 => [execGraphCommand x.q]
        | 4 => [execCopyCommand x.q]
        | 5 => [execWaitword x.q]
        | 6 => [execRelease x.q, execReleaseTime x.q]
        | 7 => [execCollCommand x.q]
        | _ => [execFenceCommand x.q])
    ++ s.launches.map (fun r => execLaunchCommand r.q)
    ++ (if s.queues.isEmpty then [] else [execCommandFetch])
    ++ s.graphs.flatMap (fun g => g.nodes.flatMap fun x => [execNodeDispatch g.id x.n, execCoalesceTimer g.id x.n])

/-- Cores for which a group may wait. -/
def State.launchCores (s : State) : List Nat := if s.spans.isEmpty && s.saved.isEmpty then [] else (List.range 320).filter s.present

/-- Actions of the launchers. -/
def State.launchActs (s : State) : List (State → Res) :=
  s.groups.map (fun g => execGroupEnd g.gid)
    ++ (s.spans.filter fun x => decide (x.ended ≥ x.n)).map (fun x => State.spanEnd x.sid)
    ++ (s.groups.filter fun g => s.preempted g || s.enqBlocked g).map (fun g => execGroupSave g.gid)
    ++ s.saved.map (fun v => execGroupRestore v.gid)
    ++ s.launchCores.map execGroupResident
    ++ s.launchCores.map execAutoPreempt
    ++ (s.contexts.filter fun c => !c.preempts.isEmpty).map (fun c => execDeadlineExpiry c.asid)
    ++ s.tandems.flatMap (fun t => [execTandemWaitTimeout t.leader, execTandemCheckpoint t.leader])
    ++ (s.dies.filter fun d => d.vstep != 0).map (fun d => execVoltageStepDown d.d)
    ++ (s.lines.filter fun p => p.2.st == .M || p.2.st == .O).map (fun p => execLineAgeing p.1 p.2.line)

/-- Every action that may be due, in the order in which they are tried. -/
def State.acts (s : State) : List (State → Res) := s.memoryActs ++ s.unitActs ++ s.recoveryActs ++ s.queueActs ++ s.launchActs

/-- The first action of a list that gives a state other than the present one. -/
def State.firstAct (s : State) : List (State → Res) → Option State
  | [] => none
  | a :: as => match a s with
    | .next t => if t = s then s.firstAct as else some t
    | _ => s.firstAct as

/-- One cycle in which every quarter issues what it can (R26, R296). -/
def State.cycleMove (ex : Instr → State → Res) (s : State) : Res := cycleNow ex execNotAnInstruction flushPack s

/-- One cycle in which a single quarter issues (R26, R39); a thread that has no cycle to spare makes it a whole one. -/
def State.issueNow (ex : Instr → State → Res) (s : State) (core quarter : Nat) : Res :=
  if s.pressed then s.cycleMove ex else (issueQuarter ex execNotAnInstruction flushPack s core quarter).getD notEnabled

/-- The rest of a wait of n ticks that began at a tick stays to be done. -/
def restOfWait (n since : Nat) (s : State) : State :=
  if since + n ≤ s.tsc then s else { s with agenda := .wait (since + n - s.tsc) :: s.agenda }

/-- Ticks that may pass, out of n, before a line is to be written back for its age (R290): as few as are sure not to pass the
tick, whatever the slew adds (R365). -/
def State.untilAge (s : State) (n : Nat) : Nat :=
  match minBy? id (s.ageing.map fun a => a.2.2.last + 2048) with
  | none => n
  | some t => min n (max 1 (t - s.tsc - 1 - (t - s.tsc) / 1000))

/-- Ticks that may pass in which no quarter issues, out of n. -/
def State.spare (s : State) (n : Nat) : Nat :=
  match s.slack with
  | none => s.untilAge n
  | some k => min (s.untilAge n) (k / (s.boot.clock / 1000 + 1))

/-- Time passes in which no quarter issues: as many ticks as the ready threads can spare, the rest later, or a whole cycle where
they can spare none (R26). -/
def State.waitMove (ex : Instr → State → Res) (s : State) (n : Nat) : Res :=
  if s.spare n = 0 && n != 0 then
    match s.cycleMove ex with
    | .next t => .next (restOfWait n s.tsc t)
    | r => r
  else .next (restOfWait n s.tsc (s.ticks (s.spare n)))

/-- What follows an action that gave a next state. -/
def following (r : Res) : Res :=
  match r with
  | .next s => .next s.follow
  | r => r

/-- An event that the agenda names. -/
def State.eventNow (ex : Instr → State → Res) (s : State) (i : Instr) : Res := if isEvent i then ex i s else notEnabled

/-- Whether any thread may issue. -/
def State.anyReady (s : State) : Bool := s.busyQuarters.any fun p => !(s.candidates p.1 p.2).isEmpty

/-- What happens when no agenda names the next action: an action that is in flight, else a cycle in which every quarter
issues, else the passing of a tick (log 4). -/
def State.ownMove (ex : Instr → State → Res) (s : State) : Res :=
  match s.firstAct s.acts with
  | some t => .next t
  | none => if s.anyReady then s.cycleMove ex else .next (s.ticks 1)

/-- Whether a move takes no time. -/
def Move.sameTick : Move → Bool
  | .event _ | .upset _ | .evict .. => true
  | _ => false

/-- Whether a move is port 1's read of a semaphore. -/
def Move.portOneRead : Move → Bool
  | .event (.semaphoreRead 1 _) => true
  | _ => false

/-- The agenda with the event that acts first at its head: of the semaphore reads of one tick, port 1's (R358). -/
def portFirst (i : Instr) (rest : List Move) : List Move :=
  match i with
  | .semaphoreRead p _ =>
    match if p = 1 then none else (rest.takeWhile Move.sameTick).find? Move.portOneRead with
    | some m => m :: .event i :: rest.erase m
    | none => .event i :: rest
  | i => .event i :: rest

/-- The agenda in the order in which it acts. -/
def ordered : List Move → List Move
  | .event i :: rest => portFirst i rest
  | l => l

/-- One move of the device. -/
def State.move (ex : Instr → State → Res) (s : State) : Res :=
  match ordered s.agenda with
  | .event i :: rest => ({ s with agenda := rest } : State).eventNow ex i
  | .cycle :: rest => ({ s with agenda := rest } : State).cycleMove ex
  | .issue c q :: rest => ({ s with agenda := rest } : State).issueNow ex c q
  | .wait n :: rest => ({ s with agenda := rest } : State).waitMove ex n
  | .upset u :: rest => ({ s with agenda := rest } : State).upset u
  | .evict d l :: rest => ({ s with agenda := rest } : State).evict d l
  | [] => s.ownMove ex

/-! ### Placing a word for the next step (log 1) -/

/-- Where the model places a word: the virtual and the physical page, and the context. -/
def fetchVa : Nat := 0x10000
def fetchPa : Nat := 0x10000
def fetchAsid : Nat := 1

/-- The page-table entry of the page: readable, writable and executable, homed on die 1 (R353). -/
def fetchEntry : BitVec 128 := BitVec.ofNat 128
  (fetchPa / 65536 * 2 ^ 80 + 1 * 2 ^ 72 + 7 * 2 ^ 66 + fetchAsid * 2 ^ 48 + 1 * 2 ^ 44 + fetchVa / 65536)

/-- The context of the placed word. -/
def fetchContext : Context :=
  { asid := fetchAsid, lease := 128, ptbits := 4, pcont := false, trapen := 0, maxg := 16, ptbase := 0x20000, eqbase := 0x40000, eqlen := 16
    fqlen := 16, fqbase := 0x50000, spill := 0x60000, thrlim := 1024, dlt := 500, devpg := 0x70000, exchp := 0, save := 0x80000, savelen := 0x10000 }

/-- The group whose one thread stands at the placed word. -/
def fetchGroup (s : State) : Group :=
  { gid := s.nextId, asid := fetchAsid, sid := 0, grp := 0, gsz := 1, alloc := 64, core := 0, slot := 0, cbase := BitVec.ofNat 64 fetchVa
    threads := [{ tid := 0, pc := { pkt := BitVec.ofNat 64 fetchVa, slot := 0 }, waitSince := s.cycle }] }

/-- A state whose next move issues the word `w` (log 1): its packet, with two NOPs after it, lies in memory, mapped for
a context with one thread on core 0, and the agenda issues that thread's quarter. -/
def placeWord (s : State) (w : Nat) : State :=
  let s1 := s.setPhysBytes fetchPa (natToBytes 12 (w % 2 ^ 32))
  let t : TlbEntry := { unit := 0, asid := fetchAsid, page := fetchVa / 65536, sc := 0, vpn := fetchVa / 65536, entry := fetchEntry }
  { s1.fresh.updDie 1 fun d => { d with enabled := true } with
    contexts := fetchContext :: s1.contexts.filter fun c => c.asid != fetchAsid
    groups := fetchGroup s :: s1.groups.filter fun g => g.core != 0
    tlb := t :: s1.tlb.filter fun u => u.asid != fetchAsid
    fused := s1.fused.filter fun c => c != 0
    agenda := .issue 0 0 :: s1.agenda }

end Sys2Proof.Machine
end

