-- ==== Sys2Proof/Machine/Fp.lean ====
section
/-! DEFINITION. Floating-point, conversion and packed words (R133-R140), and the floating-point state
words (R145). -/

namespace Sys2Proof.Machine

/-- Writes a result group and raises its flags (R133). -/
def Thread.fpResult (t : Thread) (d n : Nat) (r : Nat × Flags) : Thread := (t.setGroup d n r.1).raise r.2

/-- A word that computes D from A and B in the thread's rounding mode (R80), n registers each. -/
def fpBin (i : Instr) (n d a b : Nat) (f : RMode → Nat → Nat → Nat × Flags) : State → Res :=
  runPure i fun l t => t.fpResult d n (f l.src.rmode (l.src.group a n) (l.src.group b n))

/-- A word that computes D from A alone. -/
def fpUn (i : Instr) (nd na d a : Nat) (f : RMode → Nat → Nat × Flags) : State → Res :=
  runPure i fun l t => t.fpResult d nd (f l.src.rmode (l.src.group a na))

/-- A word that computes D from A, B and Cc in the thread's rounding mode. -/
def fpTern (i : Instr) (n d a b e : Nat) (f : RMode → Nat → Nat → Nat → Nat × Flags) : State → Res :=
  runPure i fun l t => t.fpResult d n (f l.src.rmode (l.src.group a n) (l.src.group b n) (l.src.group e n))

/-- A packed operation: each element on its own, the flags of both ORed (R78, R85, R138). -/
def packed2 (f : Nat → Nat → Nat × Flags) (a b : Nat) : Nat × Flags :=
  let lo := f (a % 65536) (b % 65536)
  let hi := f (a / 65536) (b / 65536)
  (lo.1 + 65536 * hi.1, lo.2 ||| hi.2)

/-- A packed fused multiply-add (R138). -/
def packed3 (f : Nat → Nat → Nat → Nat × Flags) (a b c : Nat) : Nat × Flags :=
  let lo := f (a % 65536) (b % 65536) (c % 65536)
  let hi := f (a / 65536) (b / 65536) (c / 65536)
  (lo.1 + 65536 * hi.1, lo.2 ||| hi.2)

/-- FADD (R134). -/
def execFadd (c : BitVec 1) (d a b : BitVec 6) (s : State) : Res :=
  fpBin (.fadd c d a b) 1 d.toNat a.toNat b.toNat (fadd f32) s
/-- FSUB (R134). -/
def execFsub (c : BitVec 1) (d a b : BitVec 6) (s : State) : Res :=
  fpBin (.fsub c d a b) 1 d.toNat a.toNat b.toNat (fsub f32) s
/-- FMUL (R134). -/
def execFmul (c : BitVec 1) (d a b : BitVec 6) (s : State) : Res :=
  fpBin (.fmul c d a b) 1 d.toNat a.toNat b.toNat (fmul f32) s
/-- FMIN (R83). -/
def execFmin (c : BitVec 1) (d a b : BitVec 6) (s : State) : Res :=
  fpBin (.fmin c d a b) 1 d.toNat a.toNat b.toNat (fun _ x y => fminmax f32 false true x y) s
/-- FMAX (R83). -/
def execFmax (c : BitVec 1) (d a b : BitVec 6) (s : State) : Res :=
  fpBin (.fmax c d a b) 1 d.toNat a.toNat b.toNat (fun _ x y => fminmax f32 true true x y) s
/-- FMINM (R83). -/
def execFminm (c : BitVec 1) (d a b : BitVec 6) (s : State) : Res :=
  fpBin (.fminm c d a b) 1 d.toNat a.toNat b.toNat (fun _ x y => fminmax f32 false false x y) s
/-- FMAXM (R83). -/
def execFmaxm (c : BitVec 1) (d a b : BitVec 6) (s : State) : Res :=
  fpBin (.fmaxm c d a b) 1 d.toNat a.toNat b.toNat (fun _ x y => fminmax f32 true false x y) s
/-- FABS (R134). -/
def execFabs (c : BitVec 1) (d a : BitVec 6) (s : State) : Res :=
  fpUn (.fabs c d a) 1 1 d.toNat a.toNat (fun _ x => (fsignOp f32 x false, 0)) s
/-- FNEG (R134). -/
def execFneg (c : BitVec 1) (d a : BitVec 6) (s : State) : Res :=
  fpUn (.fneg c d a) 1 1 d.toNat a.toNat (fun _ x => (fsignOp f32 x (!fsign f32 x), 0)) s
/-- FCPYS (R134). -/
def execFcpys (c : BitVec 1) (d a b : BitVec 6) (s : State) : Res :=
  fpBin (.fcpys c d a b) 1 d.toNat a.toNat b.toNat (fun _ x y => (fsignOp f32 x (fsign f32 y), 0)) s
/-- FRND (R135). -/
def execFrnd (c : BitVec 1) (d a : BitVec 6) (r : BitVec 3) (s : State) : Res :=
  runPure (.frnd c d a r) (fun l t => t.fpResult d.toNat 1 (frndV f32 (modeOf l.src r.toNat) (l.src.group a.toNat 1))) s
/-- FCLASS (R135). -/
def execFclass (c : BitVec 1) (d a : BitVec 6) (s : State) : Res :=
  fpUn (.fclass c d a) 1 1 d.toNat a.toNat (fun _ x => (fclassV f32 x, 0)) s
/-- FSCALE (R135). -/
def execFscale (c : BitVec 1) (d a b : BitVec 6) (s : State) : Res :=
  fpBin (.fscale c d a b) 1 d.toNat a.toNat b.toNat (fun _ x y => fscaleV f32 x (sval 32 y)) s
/-- FFMA (R136). -/
def execFfma (c : BitVec 1) (d a b e : BitVec 6) (s : State) : Res :=
  fpTern (.ffma c d a b e) 1 d.toNat a.toNat b.toNat e.toNat (ffma f32) s
/-- FCMP (R137). -/
def execFcmp (c : BitVec 1) (p : BitVec 3) (a b : BitVec 6) (f : BitVec 5) (s : State) : Res :=
  runPure (.fcmp c p a b f)
    (fun l t =>
      let r := fcmpV f32 f.toNat (l.src.group a.toNat 1) (l.src.group b.toNat 1)
      (t.setPred p.toNat r.1).raise r.2) s
/-- DADD (R134). -/
def execDadd (c : BitVec 1) (d a b : BitVec 6) (s : State) : Res :=
  fpBin (.dadd c d a b) 2 d.toNat a.toNat b.toNat (fadd f64) s
/-- DSUB (R134). -/
def execDsub (c : BitVec 1) (d a b : BitVec 6) (s : State) : Res :=
  fpBin (.dsub c d a b) 2 d.toNat a.toNat b.toNat (fsub f64) s
/-- DMUL (R134). -/
def execDmul (c : BitVec 1) (d a b : BitVec 6) (s : State) : Res :=
  fpBin (.dmul c d a b) 2 d.toNat a.toNat b.toNat (fmul f64) s
/-- DMIN (R83). -/
def execDmin (c : BitVec 1) (d a b : BitVec 6) (s : State) : Res :=
  fpBin (.dmin c d a b) 2 d.toNat a.toNat b.toNat (fun _ x y => fminmax f64 false true x y) s
/-- DMAX (R83). -/
def execDmax (c : BitVec 1) (d a b : BitVec 6) (s : State) : Res :=
  fpBin (.dmax c d a b) 2 d.toNat a.toNat b.toNat (fun _ x y => fminmax f64 true true x y) s
/-- DMINM (R83). -/
def execDminm (c : BitVec 1) (d a b : BitVec 6) (s : State) : Res :=
  fpBin (.dminm c d a b) 2 d.toNat a.toNat b.toNat (fun _ x y => fminmax f64 false false x y) s
/-- DMAXM (R83). -/
def execDmaxm (c : BitVec 1) (d a b : BitVec 6) (s : State) : Res :=
  fpBin (.dmaxm c d a b) 2 d.toNat a.toNat b.toNat (fun _ x y => fminmax f64 true false x y) s
/-- DABS (R134). -/
def execDabs (c : BitVec 1) (d a : BitVec 6) (s : State) : Res :=
  fpUn (.dabs c d a) 2 2 d.toNat a.toNat (fun _ x => (fsignOp f64 x false, 0)) s
/-- DNEG (R134). -/
def execDneg (c : BitVec 1) (d a : BitVec 6) (s : State) : Res :=
  fpUn (.dneg c d a) 2 2 d.toNat a.toNat (fun _ x => (fsignOp f64 x (!fsign f64 x), 0)) s
/-- DCPYS (R134). -/
def execDcpys (c : BitVec 1) (d a b : BitVec 6) (s : State) : Res :=
  fpBin (.dcpys c d a b) 2 d.toNat a.toNat b.toNat (fun _ x y => (fsignOp f64 x (fsign f64 y), 0)) s
/-- DRND (R135). -/
def execDrnd (c : BitVec 1) (d a : BitVec 6) (r : BitVec 3) (s : State) : Res :=
  runPure (.drnd c d a r) (fun l t => t.fpResult d.toNat 2 (frndV f64 (modeOf l.src r.toNat) (l.src.group a.toNat 2))) s
/-- DCLASS (R135). -/
def execDclass (c : BitVec 1) (d a : BitVec 6) (s : State) : Res :=
  fpUn (.dclass c d a) 1 2 d.toNat a.toNat (fun _ x => (fclassV f64 x, 0)) s
/-- DSCALE (R135). -/
def execDscale (c : BitVec 1) (d a b : BitVec 6) (s : State) : Res :=
  fpBin (.dscale c d a b) 2 d.toNat a.toNat b.toNat (fun _ x y => fscaleV f64 x (sval 32 y)) s
/-- DFMA (R136). -/
def execDfma (c : BitVec 1) (d a b e : BitVec 6) (s : State) : Res :=
  fpTern (.dfma c d a b e) 2 d.toNat a.toNat b.toNat e.toNat (ffma f64) s
/-- DCMP (R137). -/
def execDcmp (c : BitVec 1) (p : BitVec 3) (a b : BitVec 6) (f : BitVec 5) (s : State) : Res :=
  runPure (.dcmp c p a b f)
    (fun l t =>
      let r := fcmpV f64 f.toNat (l.src.group a.toNat 2) (l.src.group b.toNat 2)
      (t.setPred p.toNat r.1).raise r.2) s
/-- HADD2 (R138). -/
def execHadd2 (c : BitVec 1) (d a b : BitVec 6) (s : State) : Res :=
  fpBin (.hadd2 c d a b) 1 d.toNat a.toNat b.toNat (fun m => packed2 (fadd f16 m)) s
/-- HSUB2 (R138). -/
def execHsub2 (c : BitVec 1) (d a b : BitVec 6) (s : State) : Res :=
  fpBin (.hsub2 c d a b) 1 d.toNat a.toNat b.toNat (fun m => packed2 (fsub f16 m)) s
/-- HMUL2 (R138). -/
def execHmul2 (c : BitVec 1) (d a b : BitVec 6) (s : State) : Res :=
  fpBin (.hmul2 c d a b) 1 d.toNat a.toNat b.toNat (fun m => packed2 (fmul f16 m)) s
/-- HMIN2 (R138). -/
def execHmin2 (c : BitVec 1) (d a b : BitVec 6) (s : State) : Res :=
  fpBin (.hmin2 c d a b) 1 d.toNat a.toNat b.toNat (fun _ => packed2 (fminmax f16 false true)) s
/-- HMAX2 (R138). -/
def execHmax2 (c : BitVec 1) (d a b : BitVec 6) (s : State) : Res :=
  fpBin (.hmax2 c d a b) 1 d.toNat a.toNat b.toNat (fun _ => packed2 (fminmax f16 true true)) s
/-- HFMA2 (R138). -/
def execHfma2 (c : BitVec 1) (d a b e : BitVec 6) (s : State) : Res :=
  fpTern (.hfma2 c d a b e) 1 d.toNat a.toNat b.toNat e.toNat (fun m => packed3 (ffma f16 m)) s
/-- BADD2 (R138). -/
def execBadd2 (c : BitVec 1) (d a b : BitVec 6) (s : State) : Res :=
  fpBin (.badd2 c d a b) 1 d.toNat a.toNat b.toNat (fun m => packed2 (fadd bf16 m)) s
/-- BSUB2 (R138). -/
def execBsub2 (c : BitVec 1) (d a b : BitVec 6) (s : State) : Res :=
  fpBin (.bsub2 c d a b) 1 d.toNat a.toNat b.toNat (fun m => packed2 (fsub bf16 m)) s
/-- BMUL2 (R138). -/
def execBmul2 (c : BitVec 1) (d a b : BitVec 6) (s : State) : Res :=
  fpBin (.bmul2 c d a b) 1 d.toNat a.toNat b.toNat (fun m => packed2 (fmul bf16 m)) s
/-- BMIN2 (R138). -/
def execBmin2 (c : BitVec 1) (d a b : BitVec 6) (s : State) : Res :=
  fpBin (.bmin2 c d a b) 1 d.toNat a.toNat b.toNat (fun _ => packed2 (fminmax bf16 false true)) s
/-- BMAX2 (R138). -/
def execBmax2 (c : BitVec 1) (d a b : BitVec 6) (s : State) : Res :=
  fpBin (.bmax2 c d a b) 1 d.toNat a.toNat b.toNat (fun _ => packed2 (fminmax bf16 true true)) s
/-- BFMA2 (R138). -/
def execBfma2 (c : BitVec 1) (d a b e : BitVec 6) (s : State) : Res :=
  fpTern (.bfma2 c d a b e) 1 d.toNat a.toNat b.toNat e.toNat (fun m => packed3 (ffma bf16 m)) s
/-- CVT (R139). -/
def execCvt (c : BitVec 1) (d a : BitVec 6) (r : BitVec 3) (s_ : BitVec 1) (k : BitVec 5) (s : State) : Res :=
  runPure (.cvt c d a r s_ k)
    (fun l t => t.fpResult d.toNat (cvtDst k.toNat)
      (cvtKind k.toNat (modeOf l.src r.toNat) (s_ == 1) (l.src.group a.toNat (cvtSrc k.toNat)))) s

/-- SETRM (R145). -/
def execSetrm (m : BitVec 3) (s : State) : Res :=
  runPure (.setrm m) (fun _ t => { t with rmode := modeOf t m.toNat }) s

/-- GETFLG (R145): the flags as they stand before the chain. -/
def execGetflg (d : BitVec 6) (s : State) : Res :=
  runPure (.getflg d) (fun l t => t.setReg d.toNat (l.src.flags.setWidth 32)) s

/-- CLRFLG (R145). -/
def execClrflg (m : BitVec 5) (s : State) : Res :=
  runPure (.clrflg m) (fun _ t => { t with flags := t.flags &&& ~~~m }) s

end Sys2Proof.Machine
end

