-- ==== Sys2Proof/Machine/Sfu.lean ====
section
/-! DEFINITION. The SFU words (R141-R144). RCP, SQRT and DIV are correctly rounded. The other functions
are fixed functions within the bounds of R142 (R75): the free value of log 6 where it lies within the
bound, else the nearest value, computed here to more than 150 bits. -/

namespace Sys2Proof.Machine

/-- π times 2^480. -/
def piFixed : Nat := 0x3243f6a8885a308d313198a2e03707344a4093822299f31d0082efa98ec4e6c89452821e638d01377be5466cf34e90c6cc0ac29b7c97c50dd3f84d5b5
/-- ln 2 times 2^480. -/
def ln2Fixed : Nat := 0xb17217f7d1cf79abc9e3b39803f2f6af40f343267298b62d8a0d175b8baafa2be7b876206debac98559552fb4afa1b10ed2eae35c138214427573b29

/-- A close approximation of an exact result: (-1)^s m 2^e. -/
structure Approx where
  s : Bool
  m : Nat
  e : Int
  deriving DecidableEq, Repr

/-- Whether a bit pattern lies within k ulp of an approximated result (R142). -/
def withinUlp (k : Nat) (y : Approx) (v : Nat) : Bool :=
  match fdec f32 v with
  | .fin s m e =>
    let q := max ((Nat.log2 y.m : Int) + y.e) (-126) - 23
    let b := min (min e y.e) q
    let d := signed s m * 2 ^ (e - b).toNat - signed y.s y.m * 2 ^ (y.e - b).toNat
    decide (d.natAbs ≤ k * 2 ^ (q - b).toNat)
  | _ => false

/-- The delivered result of a function of R75 at an operand that R143 does not list, with its flags (R144). -/
def sfuResult (fn k : Nat) (x : Nat) (y : Approx) : Nat × Flags :=
  let raw := (Config.sfuRaw fn (BitVec.ofNat 32 x)).toNat
  let v := if withinUlp k y raw then raw else (roundFin f32 .rne y.s y.m y.e).1
  (v, fNX ||| flagIf (decide (v % 2 ^ 31 < 2 ^ 23)) fUF)

/-- Exponential series: the sum of t x^j / (j! / (i-1)!) scaled by 2^p, from the term numbered i. -/
def expSeries (p x : Nat) : Nat → Nat → Nat → Nat
  | 0, _, _ => 0
  | n + 1, i, t => t + expSeries p x n (i + 1) (t * x / 2 ^ p / i)

/-- Alternating exponential series for e^-x: even terms less odd terms. -/
def expNegSeries (p x : Nat) : Nat → Nat → Int → Int
  | 0, _, _ => 0
  | n + 1, i, t => t + expNegSeries p x n (i + 1) (-(t * x / (2 ^ p : Nat) / i))

/-- Sine series scaled by 2^p, from the term z^i / i!. -/
def sinSeries (p z : Nat) : Nat → Nat → Int → Int
  | 0, _, _ => 0
  | n + 1, i, t => t + sinSeries p z n (i + 2) (-(t * z / (2 ^ p : Nat) * z / (2 ^ p : Nat) / (((i + 1) * (i + 2) : Nat) : Int)))

/-- sin z for 0 ≤ z ≤ π/2, scaled by 2^p. -/
def sinFixed (p z : Nat) : Nat := (sinSeries p z 60 1 z).toNat

/-- Repeated squaring. -/
def squareN (p : Nat) : Nat → Nat → Nat
  | 0, v => v
  | n + 1, v => squareN p n (v * v / 2 ^ p)

/-- Bits of log2 of v / 2^p, 1 ≤ v / 2^p < 2, after the point. -/
def log2Bits (p : Nat) : Nat → Nat → Nat → Nat
  | 0, _, acc => acc
  | n + 1, v, acc =>
    let w := v * v / 2 ^ p
    if w ≥ 2 ^ (p + 1) then log2Bits p n (w / 2) (2 * acc + 1) else log2Bits p n w (2 * acc)

/-- log2 of m 2^e scaled by 2^200. -/
def log2Fixed (m : Nat) (e : Int) : Int :=
  let k := Nat.log2 m
  (e + k) * 2 ^ 200 + log2Bits 400 200 (m * 2 ^ (400 - k)) 0

/-- RSQ (R143). -/
def rsqV (x : Nat) : Nat × Flags :=
  match fdec f32 x with
  | .nan b => (f32.nan, flagIf b fNV)
  | .inf s => if s then (f32.nan, fNV) else (0, 0)
  | .fin s m e =>
    if m = 0 then (f32.inf s, fDZ)
    else if s then (f32.nan, fNV)
    else
      let k := Nat.log2 m
      if m = 2 ^ k ∧ (e + k) % 2 = 0 then roundFin f32 .rne false 1 (-((e + k) / 2))
      else
        let m := if e % 2 = 0 then m else 2 * m
        let e := if e % 2 = 0 then e else e - 1
        sfuResult 1 1 x ⟨false, isqrt (2 ^ 800 / m), -400 - e / 2⟩

/-- EXP2 (R143). -/
def exp2V (x : Nat) : Nat × Flags :=
  match fdec f32 x with
  | .nan b => (f32.nan, flagIf b fNV)
  | .inf s => if s then (0, 0) else (f32.inf false, 0)
  | .fin s m e =>
    let v : Int := signed s m * 2 ^ (e + 400).toNat
    let n := v / (2 ^ 400 : Nat)
    let f := (v % (2 ^ 400 : Nat)).toNat
    if m = 0 then (0x3F800000, 0)
    else if n ≥ 128 then (f32.inf false, fOF ||| fNX)
    else if n < -150 ∨ (n = -150 ∧ f = 0) then (0, fUF ||| fNX)
    else if f = 0 then roundFin f32 .rne false 1 n
    else sfuResult 4 1 x ⟨false, expSeries 400 (f * ln2Fixed / 2 ^ 480) 100 1 (2 ^ 400), n - 400⟩

/-- LOG2 (R143). -/
def log2V (x : Nat) : Nat × Flags :=
  match fdec f32 x with
  | .nan b => (f32.nan, flagIf b fNV)
  | .inf s => if s then (f32.nan, fNV) else (f32.inf false, 0)
  | .fin s m e =>
    if m = 0 then (f32.inf true, fDZ)
    else if s then (f32.nan, fNV)
    else
      let k := Nat.log2 m
      if m = 2 ^ k then roundInt f32 .rne (e + k) 0 false
      else
        let l := log2Fixed m e
        sfuResult 5 1 x ⟨decide (l < 0), l.natAbs, -200⟩

/-- The quadrant and the rest of |x| = m 2^e over π/2, the rest scaled by 2^481 (exact range reduction). -/
def reduceHalfPi (m : Nat) (e : Int) : Nat × Nat :=
  let t := m * 2 ^ (e + 481).toNat
  (t / piFixed % 4, t % piFixed)

/-- sin of an angle in a quadrant: the sign and the magnitude scaled by 2^481. -/
def quadrantSin (q r : Nat) : Bool × Nat :=
  (decide (q ≥ 2), if q % 2 = 0 then sinFixed 481 r else sinFixed 481 (piFixed - r))

/-- SIN (R143). -/
def sinV (x : Nat) : Nat × Flags :=
  match fdec f32 x with
  | .nan b => (f32.nan, flagIf b fNV)
  | .inf _ => (f32.nan, fNV)
  | .fin s m e =>
    if m = 0 then (x, 0)
    else if m < 2 ^ 23 then (x, fUF ||| fNX)
    else
      let r := reduceHalfPi m e
      let y := quadrantSin r.1 r.2
      sfuResult 6 2 x ⟨s != y.1, y.2, -481⟩

/-- COS (R143). -/
def cosV (x : Nat) : Nat × Flags :=
  match fdec f32 x with
  | .nan b => (f32.nan, flagIf b fNV)
  | .inf _ => (f32.nan, fNV)
  | .fin _ m e =>
    if m = 0 then (0x3F800000, 0)
    else
      let r := reduceHalfPi m e
      let y := quadrantSin ((r.1 + 1) % 4) r.2
      sfuResult 7 2 x ⟨y.1, y.2, -481⟩

/-- |x| = m 2^e modulo 2 in units of 2^-149: the quadrant in units of 1/2 and the rest. -/
def reduceHalf (m : Nat) (e : Int) : Nat × Nat :=
  let t := m * 2 ^ (e + 149).toNat % 2 ^ 150
  (t / 2 ^ 148, t % 2 ^ 148)

/-- sin(π y) in a quadrant of halves, scaled by 2^480. -/
def quadrantSinPi (q r : Nat) : Bool × Nat :=
  (decide (q ≥ 2), sinFixed 480 (piFixed * (if q % 2 = 0 then r else 2 ^ 148 - r) / 2 ^ 149))

/-- SINPI (R143). -/
def sinpiV (x : Nat) : Nat × Flags :=
  match fdec f32 x with
  | .nan b => (f32.nan, flagIf b fNV)
  | .inf _ => (f32.nan, fNV)
  | .fin s m e =>
    let r := reduceHalf m e
    if r.2 = 0 ∧ r.1 % 2 = 0 then (f32.zero s, 0)
    else if r.2 = 0 then (if s != decide (r.1 ≥ 2) then 0xBF800000 else 0x3F800000, 0)
    else
      let y := quadrantSinPi r.1 r.2
      sfuResult 9 1 x ⟨s != y.1, y.2, -480⟩

/-- COSPI (R143). -/
def cospiV (x : Nat) : Nat × Flags :=
  match fdec f32 x with
  | .nan b => (f32.nan, flagIf b fNV)
  | .inf _ => (f32.nan, fNV)
  | .fin _ m e =>
    let r := reduceHalf m e
    if r.2 = 0 ∧ r.1 % 2 = 1 then (0, 0)
    else if r.2 = 0 then (if r.1 = 2 then 0xBF800000 else 0x3F800000, 0)
    else
      let y := quadrantSinPi ((r.1 + 1) % 4) r.2
      sfuResult 10 1 x ⟨y.1, y.2, -480⟩

/-- TANH (R143). -/
def tanhV (x : Nat) : Nat × Flags :=
  match fdec f32 x with
  | .nan b => (f32.nan, flagIf b fNV)
  | .inf s => (if s then 0xBF800000 else 0x3F800000, 0)
  | .fin s m e =>
    if m = 0 then (x, 0)
    else if m < 2 ^ 23 then (x, fUF ||| fNX)
    else if (Nat.log2 m : Int) + e ≥ 7 then sfuResult 11 2 x ⟨s, 2 ^ 400 - 1, -400⟩
    else
      -- e^-2|x| by its 256th root
      let w := m * 2 ^ (e + 400 - 7).toNat
      let t := squareN 400 8 (expNegSeries 400 w 100 1 (2 ^ 400 : Nat)).toNat
      sfuResult 11 2 x ⟨s, (2 ^ 400 - t) * 2 ^ 400 / (2 ^ 400 + t), -400⟩

/-- The natural logarithm of (n + 1) 2^-24 for n below 2^24, correctly rounded to FP32 (R150). -/
def lnUniform (n : Nat) : Nat :=
  let v := 24 * 2 ^ 200 - log2Fixed (n + 1) 0
  if v ≤ 0 then 0 else (roundFin f32 .rne true (v.toNat * ln2Fixed) (-680)).1

/-- The reciprocal: 1 divided by x (R141). -/
def rcpV (f : Fmt) (x : Nat) : Nat × Flags := fdivV f (.fin false 1 0) (fdec f x)

/-- The format of a width code of RCP, SQRT and DIV. -/
def sfuFmt (w : BitVec 1) : Fmt := if w = 1 then f64 else f32

/-- RCP (R141). -/
def execRcp (c : BitVec 1) (d a : BitVec 6) (w : BitVec 1) (s : State) : Res :=
  fpUn (.rcp c d a w) (2 ^ w.toNat) (2 ^ w.toNat) d.toNat a.toNat (fun _ x => rcpV (sfuFmt w) x) s
/-- RSQ (R141). -/
def execRsq (c : BitVec 1) (d a : BitVec 6) (s : State) : Res :=
  fpUn (.rsq c d a) 1 1 d.toNat a.toNat (fun _ x => rsqV x) s
/-- SQRT (R141). -/
def execSqrt (c : BitVec 1) (d a : BitVec 6) (w : BitVec 1) (s : State) : Res :=
  fpUn (.sqrt c d a w) (2 ^ w.toNat) (2 ^ w.toNat) d.toNat a.toNat (fun _ x => fsqrtV (sfuFmt w) (fdec (sfuFmt w) x)) s
/-- DIV (R141). -/
def execDiv (c : BitVec 1) (d a b : BitVec 6) (w : BitVec 1) (s : State) : Res :=
  fpBin (.div c d a b w) (2 ^ w.toNat) d.toNat a.toNat b.toNat
    (fun _ x y => fdivV (sfuFmt w) (fdec (sfuFmt w) x) (fdec (sfuFmt w) y)) s
/-- EXP2 (R141). -/
def execExp2 (c : BitVec 1) (d a : BitVec 6) (s : State) : Res :=
  fpUn (.exp2 c d a) 1 1 d.toNat a.toNat (fun _ x => exp2V x) s
/-- LOG2 (R141). -/
def execLog2 (c : BitVec 1) (d a : BitVec 6) (s : State) : Res :=
  fpUn (.log2 c d a) 1 1 d.toNat a.toNat (fun _ x => log2V x) s
/-- SIN (R141). -/
def execSin (c : BitVec 1) (d a : BitVec 6) (s : State) : Res :=
  fpUn (.sin c d a) 1 1 d.toNat a.toNat (fun _ x => sinV x) s
/-- COS (R141). -/
def execCos (c : BitVec 1) (d a : BitVec 6) (s : State) : Res :=
  fpUn (.cos c d a) 1 1 d.toNat a.toNat (fun _ x => cosV x) s
/-- SINCOS (R141): the sine in D, the cosine in D + 1. -/
def execSincos (c : BitVec 1) (d a : BitVec 6) (s : State) : Res :=
  fpUn (.sincos c d a) 2 1 d.toNat a.toNat
    (fun _ x => ((sinV x).1 + 2 ^ 32 * (cosV x).1, (sinV x).2 ||| (cosV x).2)) s
/-- SINPI (R141). -/
def execSinpi (c : BitVec 1) (d a : BitVec 6) (s : State) : Res :=
  fpUn (.sinpi c d a) 1 1 d.toNat a.toNat (fun _ x => sinpiV x) s
/-- COSPI (R141). -/
def execCospi (c : BitVec 1) (d a : BitVec 6) (s : State) : Res :=
  fpUn (.cospi c d a) 1 1 d.toNat a.toNat (fun _ x => cospiV x) s
/-- TANH (R141). -/
def execTanh (c : BitVec 1) (d a : BitVec 6) (s : State) : Res :=
  fpUn (.tanh c d a) 1 1 d.toNat a.toNat (fun _ x => tanhV x) s

end Sys2Proof.Machine
end

