-- ==== Sys2Proof/Machine/Prop.lean ====
section
/-! DEFINITION. Random draws and the proposal bank (R146-R153). -/

namespace Sys2Proof.Machine

/-- The value of the thread's next draw (R99). -/
def Thread.draw (t : Thread) : Word := mix32 t.key t.ctr

/-- The stream after a draw (R99). -/
def Thread.drawn (t : Thread) : Thread := { t with ctr := t.ctr + 1 }

/-- The uniform value of a draw in FP32: ((k >> 8) + 1) 2^-24, which is exact (R146). -/
def uniformOf (k : Word) : Nat := (roundFin f32 .rne false (k.toNat / 256 + 1) (-24)).1

/-- RAND (R146). -/
def execRand (c : BitVec 1) (d : BitVec 6) (s : State) : Res :=
  runPure (.rand c d) (fun l t => (t.setReg d.toNat l.src.draw).drawn) s

/-- RANDU (R146). -/
def execRandu (c : BitVec 1) (d : BitVec 6) (s : State) : Res :=
  runPure (.randu c d) (fun l t => (t.setReg d.toNat (BitVec.ofNat 32 (uniformOf l.src.draw))).drawn) s

/-- PROPOSE (R149): copies the primary bank, marks included, and opens the proposal. After the EXIT of its chain nothing is
open (R122, R153). -/
def execPropose (c : BitVec 1) (s : State) : Res :=
  runRegs (.propose c) (fun l =>
    if l.src.popen then .error illegal
    else .ok fun t =>
      let copied := fun (k : Skid) => { k with shadow := k.regs.extractLsb' 48 16 }
      { t with skids := t.skids.map copied, shadow := Vector.ofFn fun k => t.regs[48 + k.val]?.getD 0, spoison := t.poison.extractLsb' 48 16
               sparity := t.parity.extractLsb' 48 16, popen := t.st != .exited }) s

/-- Keeps the shadow as the primary bank, marks included. -/
def Thread.commitShadow (t : Thread) : Thread :=
  { t with
    regs := (List.range 16).foldl (fun r k => r.setIfInBounds (48 + k) (t.shadow[k]?.getD 0)) t.regs
    skids := t.skids.map fun k => { k with regs := k.shadow ++ k.regs.extractLsb' 0 48 }
    poison := t.spoison ++ t.poison.extractLsb' 0 48
    parity := t.sparity ++ t.parity.extractLsb' 0 48 }

/-- Adds one, saturating at 2^32 - 1. -/
def satIncr (w : Word) : Word := if w = 0xFFFFFFFF#32 then w else w + 1

/-- Whether ACCEPT keeps the proposal: a is a number and at least the logarithm of the draw (R150). -/
def accepts (a k : Word) : Bool :=
  let x := fdec f32 a.toNat
  !x.isNan && !fltV x (fdec f32 (lnUniform (k.toNat / 256)))

/-- ACCEPT (R150, R153): D is written after the close, and not at all where a higher slot writes it. -/
def execAccept (c : BitVec 1) (d a : BitVec 6) (s : State) : Res :=
  runWord (.accept c d a) (fun l s =>
    if !l.src.popen then .error illegal
    else
      let acc := accepts (l.src.reg a.toNat) l.src.draw
      .ok (s.updLane l fun t =>
        let t := if acc then t.commitShadow else t
        let t := { t.drawn with popen := false, ptot := satIncr t.ptot, pacc := if acc then satIncr t.pacc else t.pacc }
        let t := t.raise (flagIf (fdec f32 (l.src.reg a.toNat).toNat).isSnan fNV)
        if s.issue.dropD then t else t.setReg d.toNat (if acc then 1 else 0))) s

/-- DISCARD (R151). -/
def execDiscard (c : BitVec 1) (s : State) : Res :=
  runRegs (.discard c) (fun l =>
    if l.src.popen then .ok fun t => { t with popen := false } else .error illegal) s

/-- PSEED (R152). -/
def execPseed (c : BitVec 1) (a : BitVec 6) (s : State) : Res :=
  runPure (.pseed c a) (fun l t => { t with key := l.src.reg a.toNat, ctr := l.src.reg (a.toNat + 1) }) s

/-- PCNT (R152). -/
def execPcnt (c : BitVec 1) (d : BitVec 6) (s : State) : Res :=
  runPure (.pcnt c d) (fun l t => t.setWords d.toNat [l.src.ptot, l.src.pacc]) s

/-- PCNT.CLR (R152). -/
def execPcntClr (c : BitVec 1) (d : BitVec 6) (s : State) : Res :=
  runPure (.pcntClr c d) (fun l t => { t.setWords d.toNat [l.src.ptot, l.src.pacc] with ptot := 0, pacc := 0 }) s

end Sys2Proof.Machine
end

