-- ==== Sys2Proof/Machine/Dispatch.lean ====
section
/-! DEFINITION. One arm per constructor of Instr: each calls the meaning of its instruction. -/

namespace Sys2Proof.Machine

/-- The effect of one word on the issuing pack, or of one step of another agent. -/
def exec (i : Instr) (s : State) : Host.Outcome State Fault Refusal :=
  match i with
  | .nop => Sys2Proof.Machine.execNop s
  | .exit => Sys2Proof.Machine.execExit s
  | .trap a n => Sys2Proof.Machine.execTrap a n s
  | .brk n => Sys2Proof.Machine.execBrk n s
  | .yield => Sys2Proof.Machine.execYield s
  | .setrm m => Sys2Proof.Machine.execSetrm m s
  | .getflg d => Sys2Proof.Machine.execGetflg d s
  | .clrflg m => Sys2Proof.Machine.execClrflg m s
  | .iadd c d a b w => Sys2Proof.Machine.execIadd c d a b w s
  | .isub c d a b w => Sys2Proof.Machine.execIsub c d a b w s
  | .imin c d a b => Sys2Proof.Machine.execImin c d a b s
  | .imax c d a b => Sys2Proof.Machine.execImax c d a b s
  | .iminu c d a b => Sys2Proof.Machine.execIminu c d a b s
  | .imaxu c d a b => Sys2Proof.Machine.execImaxu c d a b s
  | .and c d a b w => Sys2Proof.Machine.execAnd c d a b w s
  | .or c d a b w => Sys2Proof.Machine.execOr c d a b w s
  | .xor c d a b w => Sys2Proof.Machine.execXor c d a b w s
  | .andn c d a b => Sys2Proof.Machine.execAndn c d a b s
  | .shl c d a b w => Sys2Proof.Machine.execShl c d a b w s
  | .shr c d a b w => Sys2Proof.Machine.execShr c d a b w s
  | .sar c d a b w => Sys2Proof.Machine.execSar c d a b w s
  | .rotl c d a b => Sys2Proof.Machine.execRotl c d a b s
  | .imullo c d a b w => Sys2Proof.Machine.execImullo c d a b w s
  | .imulhi c d a b => Sys2Proof.Machine.execImulhi c d a b s
  | .imulhiu c d a b => Sys2Proof.Machine.execImulhiu c d a b s
  | .popc c d a => Sys2Proof.Machine.execPopc c d a s
  | .clz c d a => Sys2Proof.Machine.execClz c d a s
  | .brev c d a => Sys2Proof.Machine.execBrev c d a s
  | .iabs c d a => Sys2Proof.Machine.execIabs c d a s
  | .bpick c d a b => Sys2Proof.Machine.execBpick c d a b s
  | .iaddsat c d a b => Sys2Proof.Machine.execIaddsat c d a b s
  | .isubsat c d a b => Sys2Proof.Machine.execIsubsat c d a b s
  | .iaddi c d a m => Sys2Proof.Machine.execIaddi c d a m s
  | .andi c d a m => Sys2Proof.Machine.execAndi c d a m s
  | .ori c d a m => Sys2Proof.Machine.execOri c d a m s
  | .xori c d a m => Sys2Proof.Machine.execXori c d a m s
  | .shiShl c d a n => Sys2Proof.Machine.execShiShl c d a n s
  | .shiShr c d a n => Sys2Proof.Machine.execShiShr c d a n s
  | .shiSar c d a n => Sys2Proof.Machine.execShiSar c d a n s
  | .shiRotl c d a n => Sys2Proof.Machine.execShiRotl c d a n s
  | .bitfBfx c d a l p => Sys2Proof.Machine.execBitfBfx c d a l p s
  | .bitfBfxs c d a l p => Sys2Proof.Machine.execBitfBfxs c d a l p s
  | .bitfBfi c d a l p => Sys2Proof.Machine.execBitfBfi c d a l p s
  | .li c d m => Sys2Proof.Machine.execLi c d m s
  | .lih c d m => Sys2Proof.Machine.execLih c d m s
  | .imad c d a b e => Sys2Proof.Machine.execImad c d a b e s
  | .imadW c d a b e => Sys2Proof.Machine.execImadW c d a b e s
  | .icmp c p a b w f => Sys2Proof.Machine.execIcmp c p a b w f s
  | .pand c d a b => Sys2Proof.Machine.execPand c d a b s
  | .por c d a b => Sys2Proof.Machine.execPor c d a b s
  | .pxor c d a b => Sys2Proof.Machine.execPxor c d a b s
  | .pnot c d a => Sys2Proof.Machine.execPnot c d a s
  | .p2w c d => Sys2Proof.Machine.execP2w c d s
  | .w2p c a => Sys2Proof.Machine.execW2p c a s
  | .sel c d a b w n p => Sys2Proof.Machine.execSel c d a b w n p s
  | .sysv c d s_ => Sys2Proof.Machine.execSysv c d s_ s
  | .locq c d a => Sys2Proof.Machine.execLocq c d a s
  | .uget c d a => Sys2Proof.Machine.execUget c d a s
  | .uset c d a => Sys2Proof.Machine.execUset c d a s
  | .fadd c d a b => Sys2Proof.Machine.execFadd c d a b s
  | .dadd c d a b => Sys2Proof.Machine.execDadd c d a b s
  | .fsub c d a b => Sys2Proof.Machine.execFsub c d a b s
  | .dsub c d a b => Sys2Proof.Machine.execDsub c d a b s
  | .fmul c d a b => Sys2Proof.Machine.execFmul c d a b s
  | .dmul c d a b => Sys2Proof.Machine.execDmul c d a b s
  | .fmin c d a b => Sys2Proof.Machine.execFmin c d a b s
  | .dmin c d a b => Sys2Proof.Machine.execDmin c d a b s
  | .fmax c d a b => Sys2Proof.Machine.execFmax c d a b s
  | .dmax c d a b => Sys2Proof.Machine.execDmax c d a b s
  | .fminm c d a b => Sys2Proof.Machine.execFminm c d a b s
  | .dminm c d a b => Sys2Proof.Machine.execDminm c d a b s
  | .fmaxm c d a b => Sys2Proof.Machine.execFmaxm c d a b s
  | .dmaxm c d a b => Sys2Proof.Machine.execDmaxm c d a b s
  | .fabs c d a => Sys2Proof.Machine.execFabs c d a s
  | .dabs c d a => Sys2Proof.Machine.execDabs c d a s
  | .fneg c d a => Sys2Proof.Machine.execFneg c d a s
  | .dneg c d a => Sys2Proof.Machine.execDneg c d a s
  | .fcpys c d a b => Sys2Proof.Machine.execFcpys c d a b s
  | .dcpys c d a b => Sys2Proof.Machine.execDcpys c d a b s
  | .frnd c d a r => Sys2Proof.Machine.execFrnd c d a r s
  | .drnd c d a r => Sys2Proof.Machine.execDrnd c d a r s
  | .fclass c d a => Sys2Proof.Machine.execFclass c d a s
  | .dclass c d a => Sys2Proof.Machine.execDclass c d a s
  | .fscale c d a b => Sys2Proof.Machine.execFscale c d a b s
  | .dscale c d a b => Sys2Proof.Machine.execDscale c d a b s
  | .ffma c d a b e => Sys2Proof.Machine.execFfma c d a b e s
  | .dfma c d a b e => Sys2Proof.Machine.execDfma c d a b e s
  | .fcmp c p a b f => Sys2Proof.Machine.execFcmp c p a b f s
  | .dcmp c p a b f => Sys2Proof.Machine.execDcmp c p a b f s
  | .hadd2 c d a b => Sys2Proof.Machine.execHadd2 c d a b s
  | .hsub2 c d a b => Sys2Proof.Machine.execHsub2 c d a b s
  | .hmul2 c d a b => Sys2Proof.Machine.execHmul2 c d a b s
  | .hmin2 c d a b => Sys2Proof.Machine.execHmin2 c d a b s
  | .hmax2 c d a b => Sys2Proof.Machine.execHmax2 c d a b s
  | .badd2 c d a b => Sys2Proof.Machine.execBadd2 c d a b s
  | .bsub2 c d a b => Sys2Proof.Machine.execBsub2 c d a b s
  | .bmul2 c d a b => Sys2Proof.Machine.execBmul2 c d a b s
  | .bmin2 c d a b => Sys2Proof.Machine.execBmin2 c d a b s
  | .bmax2 c d a b => Sys2Proof.Machine.execBmax2 c d a b s
  | .hfma2 c d a b e => Sys2Proof.Machine.execHfma2 c d a b e s
  | .bfma2 c d a b e => Sys2Proof.Machine.execBfma2 c d a b e s
  | .cvt c d a r s_ k => Sys2Proof.Machine.execCvt c d a r s_ k s
  | .rcp c d a w => Sys2Proof.Machine.execRcp c d a w s
  | .rsq c d a => Sys2Proof.Machine.execRsq c d a s
  | .sqrt c d a w => Sys2Proof.Machine.execSqrt c d a w s
  | .div c d a b w => Sys2Proof.Machine.execDiv c d a b w s
  | .exp2 c d a => Sys2Proof.Machine.execExp2 c d a s
  | .log2 c d a => Sys2Proof.Machine.execLog2 c d a s
  | .sin c d a => Sys2Proof.Machine.execSin c d a s
  | .cos c d a => Sys2Proof.Machine.execCos c d a s
  | .sincos c d a => Sys2Proof.Machine.execSincos c d a s
  | .sinpi c d a => Sys2Proof.Machine.execSinpi c d a s
  | .cospi c d a => Sys2Proof.Machine.execCospi c d a s
  | .tanh c d a => Sys2Proof.Machine.execTanh c d a s
  | .rand c d => Sys2Proof.Machine.execRand c d s
  | .randu c d => Sys2Proof.Machine.execRandu c d s
  | .propose c => Sys2Proof.Machine.execPropose c s
  | .accept c d a => Sys2Proof.Machine.execAccept c d a s
  | .discard c => Sys2Proof.Machine.execDiscard c s
  | .pseed c a => Sys2Proof.Machine.execPseed c a s
  | .pcnt c d => Sys2Proof.Machine.execPcnt c d s
  | .pcntClr c d => Sys2Proof.Machine.execPcntClr c d s
  | .xchPair c d a => Sys2Proof.Machine.execXchPair c d a s
  | .xchQx1 c d a => Sys2Proof.Machine.execXchQx1 c d a s
  | .xchQx2 c d a => Sys2Proof.Machine.execXchQx2 c d a s
  | .shfl c d a b => Sys2Proof.Machine.execShfl c d a b s
  | .shflx c d a b => Sys2Proof.Machine.execShflx c d a b s
  | .voteany c d a => Sys2Proof.Machine.execVoteany c d a s
  | .voteall c d a => Sys2Proof.Machine.execVoteall c d a s
  | .ballot c d a => Sys2Proof.Machine.execBallot c d a s
  | .redadd c d a => Sys2Proof.Machine.execRedadd c d a s
  | .redmin c d a => Sys2Proof.Machine.execRedmin c d a s
  | .redmax c d a => Sys2Proof.Machine.execRedmax c d a s
  | .bra p n o => Sys2Proof.Machine.execBra p n o s
  | .call d m => Sys2Proof.Machine.execCall d m s
  | .jr a => Sys2Proof.Machine.execJr a s
  | .jalr d a => Sys2Proof.Machine.execJalr d a s
  | .barG => Sys2Proof.Machine.execBarG s
  | .barS w h => Sys2Proof.Machine.execBarS w h s
  | .ld c d a z p o => Sys2Proof.Machine.execLd c d a z p o s
  | .st c d a z p o => Sys2Proof.Machine.execSt c d a z p o s
  | .ldt c d h a b => Sys2Proof.Machine.execLdt c d h a b s
  | .ldtWf c d h a b => Sys2Proof.Machine.execLdtWf c d h a b s
  | .ldtWfe c d h a b => Sys2Proof.Machine.execLdtWfe c d h a b s
  | .stt c d h a b => Sys2Proof.Machine.execStt c d h a b s
  | .sttWe c d h a b => Sys2Proof.Machine.execSttWe c d h a b s
  | .sttRaw c d h a b => Sys2Proof.Machine.execSttRaw c d h a b s
  | .atom c d a b s_ o => Sys2Proof.Machine.execAtom c d a b s_ o s
  | .cas c d a b s_ z => Sys2Proof.Machine.execCas c d a b s_ z s
  | .red c a b s_ o => Sys2Proof.Machine.execRed c a b s_ o s
  | .fence c s_ a b => Sys2Proof.Machine.execFence c s_ a b s
  | .wait l s_ p t => Sys2Proof.Machine.execWait l s_ p t s
  | .waitu c d a b m z => Sys2Proof.Machine.execWaitu c d a b m z s
  | .ldFut c d a b => Sys2Proof.Machine.execLdFut c d a b s
  | .stFut c a b => Sys2Proof.Machine.execStFut c a b s
  | .clrFut c a => Sys2Proof.Machine.execClrFut c a s
  | .talloc c d h a => Sys2Proof.Machine.execTalloc c d h a s
  | .tfree c d h => Sys2Proof.Machine.execTfree c d h s
  | .tbind c d h a => Sys2Proof.Machine.execTbind c d h a s
  | .tflush c d h => Sys2Proof.Machine.execTflush c d h s
  | .tring c d h a => Sys2Proof.Machine.execTring c d h a s
  | .tsetfe c d h a => Sys2Proof.Machine.execTsetfe c d h a s
  | .tarrt c d h a => Sys2Proof.Machine.execTarrt c d h a s
  | .waita c d h a => Sys2Proof.Machine.execWaita c d h a s
  | .tinfo c d h a => Sys2Proof.Machine.execTinfo c d h a s
  | .racq c d h a => Sys2Proof.Machine.execRacq c d h a s
  | .rrel c d h a => Sys2Proof.Machine.execRrel c d h a s
  | .tidset c s_ k => Sys2Proof.Machine.execTidset c s_ k s
  | .tidget c s_ k => Sys2Proof.Machine.execTidget c s_ k s
  | .copy c s_ k j => Sys2Proof.Machine.execCopy c s_ k j s
  | .copyTl c s_ k => Sys2Proof.Machine.execCopyTl c s_ k s
  | .copyLt c s_ k => Sys2Proof.Machine.execCopyLt c s_ k s
  | .gather c s_ k j => Sys2Proof.Machine.execGather c s_ k j s
  | .scatter c s_ k j => Sys2Proof.Machine.execScatter c s_ k j s
  | .mloop c s_ => Sys2Proof.Machine.execMloop c s_ s
  | .mdrain c s_ k => Sys2Proof.Machine.execMdrain c s_ k s
  | .mzero c s_ => Sys2Proof.Machine.execMzero c s_ s
  | .take c => Sys2Proof.Machine.execTake c s
  | .pass c => Sys2Proof.Machine.execPass c s
  | .mwait c => Sys2Proof.Machine.execMwait c s
  | .amax c a b s_ => Sys2Proof.Machine.execAmax c a b s_ s
  | .amaxrs c d a s_ => Sys2Proof.Machine.execAmaxrs c d a s_ s
  | .vbind c d a s_ => Sys2Proof.Machine.execVbind c d a s_ s
  | .vld c d a s_ => Sys2Proof.Machine.execVld c d a s_ s
  | .vsten7 c d a s_ => Sys2Proof.Machine.execVsten7 c d a s_ s
  | .vsamp c d a s_ => Sys2Proof.Machine.execVsamp c d a s_ s
  | .vray c d a s_ => Sys2Proof.Machine.execVray c d a s_ s
  | .vleaf c d s_ => Sys2Proof.Machine.execVleaf c d s_ s
  | .vins c d a s_ => Sys2Proof.Machine.execVins c d a s_ s
  | .vdel c d a s_ => Sys2Proof.Machine.execVdel c d a s_ s
  | .vactClr c d a s_ => Sys2Proof.Machine.execVactClr c d a s_ s
  | .vactSet c d a s_ => Sys2Proof.Machine.execVactSet c d a s_ s
  | .vst c d a s_ => Sys2Proof.Machine.execVst c d a s_ s
  | .hbind c d a s_ => Sys2Proof.Machine.execHbind c d a s_ s
  | .hgrid c d a s_ l => Sys2Proof.Machine.execHgrid c d a s_ l s
  | .hgrad c d a s_ l => Sys2Proof.Machine.execHgrad c d a s_ l s
  | .hgradd c d a s_ l => Sys2Proof.Machine.execHgradd c d a s_ l s
  | .enq c s_ k => Sys2Proof.Machine.execEnq c s_ k s
  | .commit c s_ k => Sys2Proof.Machine.execCommit c s_ k s
  | .result c s_ => Sys2Proof.Machine.execResult c s_ s
  | .launch c s_ => Sys2Proof.Machine.execLaunch c s_ s
  | .coll c s_ k j => Sys2Proof.Machine.execColl c s_ k j s
  | .halo c s_ => Sys2Proof.Machine.execHalo c s_ s
  | .step c s_ => Sys2Proof.Machine.execStep c s_ s
  | .stepwait c s_ => Sys2Proof.Machine.execStepwait c s_ s
  | .tbegin => Sys2Proof.Machine.execTbegin s
  | .tchk => Sys2Proof.Machine.execTchk s
  | .tend => Sys2Proof.Machine.execTend s
  | .errq d => Sys2Proof.Machine.execErrq d s
  | .instructionFetch g t => Sys2Proof.Machine.execInstructionFetch g t s
  | .poisonSkid g t => Sys2Proof.Machine.execPoisonSkid g t s
  | .yieldExpiry g t => Sys2Proof.Machine.execYieldExpiry g t s
  | .loadComplete a => Sys2Proof.Machine.execLoadComplete a s
  | .storeAck a => Sys2Proof.Machine.execStoreAck a s
  | .sliceAccess a => Sys2Proof.Machine.execSliceAccess a s
  | .fenceComplete g t => Sys2Proof.Machine.execFenceComplete g t s
  | .monitorInsert m => Sys2Proof.Machine.execMonitorInsert m s
  | .monitorTimeout m => Sys2Proof.Machine.execMonitorTimeout m s
  | .monitorSpillReturn die slice => Sys2Proof.Machine.execMonitorSpillReturn die slice s
  | .monlost die slice => Sys2Proof.Machine.execMonlost die slice s
  | .rds m => Sys2Proof.Machine.execRds m s
  | .rdx m => Sys2Proof.Machine.execRdx m s
  | .upg m => Sys2Proof.Machine.execUpg m s
  | .wb m => Sys2Proof.Machine.execWb m s
  | .inv m => Sys2Proof.Machine.execInv m s
  | .fwd m => Sys2Proof.Machine.execFwd m s
  | .fwdinv m => Sys2Proof.Machine.execFwdinv m s
  | .directoryAnswer m => Sys2Proof.Machine.execDirectoryAnswer m s
  | .noLineAnswer m => Sys2Proof.Machine.execNoLineAnswer m s
  | .grant m => Sys2Proof.Machine.execGrant m s
  | .performAtHome m => Sys2Proof.Machine.execPerformAtHome m s
  | .homeOperation m => Sys2Proof.Machine.execHomeOperation m s
  | .wbAck m => Sys2Proof.Machine.execWbAck m s
  | .lineAgeing die line => Sys2Proof.Machine.execLineAgeing die line s
  | .lineReceive src dst damaged => Sys2Proof.Machine.execLineReceive src dst damaged s
  | .replayRequest src dst => Sys2Proof.Machine.execReplayRequest src dst s
  | .linkRetrain a b => Sys2Proof.Machine.execLinkRetrain a b s
  | .dieReset die => Sys2Proof.Machine.execDieReset die s
  | .trapMessage die cluster => Sys2Proof.Machine.execTrapMessage die cluster s
  | .faultResponse asid => Sys2Proof.Machine.execFaultResponse asid s
  | .fconsPoll asid => Sys2Proof.Machine.execFconsPoll asid s
  | .heldFaultPost asid => Sys2Proof.Machine.execHeldFaultPost asid s
  | .faultWriteRetry asid => Sys2Proof.Machine.execFaultWriteRetry asid s
  | .sideLogReplay e => Sys2Proof.Machine.execSideLogReplay e s
  | .errorRecordPost r => Sys2Proof.Machine.execErrorRecordPost r s
  | .scrub line outcome => Sys2Proof.Machine.execScrub line outcome s
  | .sentinelEvent core asid => Sys2Proof.Machine.execSentinelEvent core asid s
  | .voltageStepDown die => Sys2Proof.Machine.execVoltageStepDown die s
  | .powerExcess watts => Sys2Proof.Machine.execPowerExcess watts s
  | .thermalLimit celsius => Sys2Proof.Machine.execThermalLimit celsius s
  | .ppsPulse edge => Sys2Proof.Machine.execPpsPulse edge s
  | .ptmSync port error => Sys2Proof.Machine.execPtmSync port error s
  | .portReset port => Sys2Proof.Machine.execPortReset port s
  | .bringUp flc firmware runtime version => Sys2Proof.Machine.execBringUp flc firmware runtime version s
  | .hostMemoryAccess port write offset data => Sys2Proof.Machine.execHostMemoryAccess port write offset data s
  | .semaphoreRead port n => Sys2Proof.Machine.execSemaphoreRead port n s
  | .semaphoreWrite port n value => Sys2Proof.Machine.execSemaphoreWrite port n value s
  | .qtailWrite port q index => Sys2Proof.Machine.execQtailWrite port q index s
  | .registerWrite port offset value => Sys2Proof.Machine.execRegisterWrite port offset value s
  | .ctxCreate port => Sys2Proof.Machine.execCtxCreate port s
  | .ctxDestroy port => Sys2Proof.Machine.execCtxDestroy port s
  | .qbind port => Sys2Proof.Machine.execQbind port s
  | .qunbind port => Sys2Proof.Machine.execQunbind port s
  | .qresume port => Sys2Proof.Machine.execQresume port s
  | .tlbinv port => Sys2Proof.Machine.execTlbinv port s
  | .preempt port => Sys2Proof.Machine.execPreempt port s
  | .plift port => Sys2Proof.Machine.execPlift port s
  | .migout port => Sys2Proof.Machine.execMigout port s
  | .migin port => Sys2Proof.Machine.execMigin port s
  | .exchset port => Sys2Proof.Machine.execExchset port s
  | .rtshare port => Sys2Proof.Machine.execRtshare port s
  | .attest port => Sys2Proof.Machine.execAttest port s
  | .winset port => Sys2Proof.Machine.execWinset port s
  | .mgmtComplete => Sys2Proof.Machine.execMgmtComplete s
  | .commandFetch => Sys2Proof.Machine.execCommandFetch s
  | .recordRefetch q => Sys2Proof.Machine.execRecordRefetch q s
  | .launchCommand q => Sys2Proof.Machine.execLaunchCommand q s
  | .launchLeaf q => Sys2Proof.Machine.execLaunchLeaf q s
  | .graphCommand q => Sys2Proof.Machine.execGraphCommand q s
  | .copyCommand q => Sys2Proof.Machine.execCopyCommand q s
  | .waitword q => Sys2Proof.Machine.execWaitword q s
  | .release q => Sys2Proof.Machine.execRelease q s
  | .releaseTime q => Sys2Proof.Machine.execReleaseTime q s
  | .collCommand q => Sys2Proof.Machine.execCollCommand q s
  | .fenceCommand q => Sys2Proof.Machine.execFenceCommand q s
  | .groupResident core => Sys2Proof.Machine.execGroupResident core s
  | .groupEnd g => Sys2Proof.Machine.execGroupEnd g s
  | .autoPreempt core => Sys2Proof.Machine.execAutoPreempt core s
  | .deadlineExpiry asid => Sys2Proof.Machine.execDeadlineExpiry asid s
  | .groupSave g => Sys2Proof.Machine.execGroupSave g s
  | .groupRestore g => Sys2Proof.Machine.execGroupRestore g s
  | .nodeDispatch graph node => Sys2Proof.Machine.execNodeDispatch graph node s
  | .coalesceTimer graph node => Sys2Proof.Machine.execCoalesceTimer graph node s
  | .copyComplete id => Sys2Proof.Machine.execCopyComplete id s
  | .tileRowFill tile row => Sys2Proof.Machine.execTileRowFill tile row s
  | .matrixCommandStart core => Sys2Proof.Machine.execMatrixCommandStart core s
  | .ringSlotReady core => Sys2Proof.Machine.execRingSlotReady core s
  | .matrixCommandComplete core => Sys2Proof.Machine.execMatrixCommandComplete core s
  | .allocatorRequest => Sys2Proof.Machine.execAllocatorRequest s
  | .sweep asid root => Sys2Proof.Machine.execSweep asid root s
  | .fieldWordComplete id => Sys2Proof.Machine.execFieldWordComplete id s
  | .linkCommandComplete id => Sys2Proof.Machine.execLinkCommandComplete id s
  | .stepReport asid exch n step => Sys2Proof.Machine.execStepReport asid exch n step s
  | .trailerAccess g t => Sys2Proof.Machine.execTrailerAccess g t s
  | .tandemWaitTimeout g => Sys2Proof.Machine.execTandemWaitTimeout g s
  | .tandemCheckpoint g => Sys2Proof.Machine.execTandemCheckpoint g s
  | .notAnInstruction w => Sys2Proof.Machine.execNotAnInstruction w s
  | .badop port op => Sys2Proof.Machine.execBadop port op s
  | .ownershipGrant a => Sys2Proof.Machine.execOwnershipGrant a s
  | .tileOperationComplete id => Sys2Proof.Machine.execTileOperationComplete id s
  | .linkWriteArrival asid va data origin => Sys2Proof.Machine.execLinkWriteArrival asid va data origin s
  | .dieEnable die => Sys2Proof.Machine.execDieEnable die s
  | .errorRecordAccept r => Sys2Proof.Machine.execErrorRecordAccept r s

end Sys2Proof.Machine
end

