-- ==== Sys2Proof/Machine/Step.lean ====
section
/-! DEFINITION. One step of the device, and where an instruction word is placed so that the next step runs it. -/

namespace Sys2Proof.Machine

/-- One step: what the agenda names, else what the device does of itself, and what follows from it (log 4). -/
def step (s : State) : Host.Outcome State Fault Refusal := following (s.move exec)

/-- The state whose next step fetches and runs the word `w` (log 1). Every word of the table has 32 bits. -/
def State.withFetchWord (s : State) (_nbits w : Nat) : State := placeWord s w

end Sys2Proof.Machine
end

