-- ==== Sys2Proof/Safety.lean ====
section
/-! DEFINITION. The terms in which claims about the device are stated: the invariant of memory, and what a thread is
apart from what taking a trap changes. -/

namespace Sys2Proof.Machine

/-- Both memories are in canonical form: addresses strictly rise, and no entry equals what an unlisted address reads as. -/
abbrev State.memWf (s : State) : Prop := Memory.wf s.mem ∧ Memory.wf s.hostMem

/-- A thread but for what taking a trap changes in it (R379): that it is parked, since when, and what it stands at. -/
def Thread.sansTrap (t : Thread) : Thread := { t with st := .ready, waitSince := 0, pseq := 0, trapAt := none }

/-- What a word leaves of a thread for which it takes effect alone: the PC past the chain (R37), the word's own effect
`f`, and the poison of its sources in its destinations (R383). -/
def Lane.outcome (l : Lane) (i : Instr) (s : State) (f : Thread → Thread) : Thread :=
  l.after i s { f (l.cur.advance s.issue) with tid := l.cur.tid }

/-- Two states agree in everything but the threads of the groups, what the trap runtime holds, the next identifier and
the progress of the issue. -/
def State.sameButThreads (s t : State) : Prop :=
  { t with groups := s.groups, mailboxes := s.mailboxes, nextId := s.nextId, issue := s.issue } = s

/-- The value of a register group of a lane, lowest register first (R5), as a bit vector. -/
def Lane.val (l : Lane) (a : BitVec 6) (k : Nat) : BitVec (32 * k) := BitVec.ofNat (32 * k) (l.src.group a.toNat k)

/-- Writes a bit vector to a register group (R5). -/
def Thread.put (t : Thread) (d : BitVec 6) {k : Nat} (v : BitVec (32 * k)) : Thread := t.setGroup d.toNat k v.toNat

/-- What a word does that acts in the thread alone, for every thread of the pack that no check stops: the step is a next
state; the thread holds the word's effect `f` (exactly, unless a flag it raised is one that its context traps on, and
else but for what the trap changes, R381); and nothing else in the state changes: no byte of memory, no thread outside
the pack. -/
def Computes (i : Instr) (f : Lane → Thread → Thread) : Prop :=
  ∀ (s : State) (tid : Nat) (l : Lane), tid ∈ s.issue.tids → s.issue.tids.Nodup → s.lane? tid = some l → precheck i l = none →
    ∃ t x, exec i s = .next t ∧ t.thread? s.issue.gid tid = some x
      ∧ x.sansTrap = (l.outcome i s (f l)).sansTrap
      ∧ ((l.outcome i s (f l)).raised &&& s.trapen l.g.asid = 0 → x = l.outcome i s (f l))
      ∧ s.sameButThreads t ∧ (∀ a, t.physByte a = s.physByte a)
      ∧ ∀ g v, ¬(g = s.issue.gid ∧ v ∈ s.issue.tids) → t.thread? g v = s.thread? g v

/-- The issuing pack is the thread of lane `l` alone, and no check stops the word. -/
def Issues (i : Instr) (l : Lane) (s : State) : Prop :=
  s.issue.tids = [l.cur.tid] ∧ s.lane? l.cur.tid = some l ∧ precheck i l = none

/-- The thread's PC stands past the chain, before the word has acted. -/
def State.advanced (s : State) (l : Lane) : State :=
  s.updThread s.issue.gid l.cur.tid fun t => t.advance s.issue

/-- A state once a word has acted in it for the thread of lane `l`: poison has passed to the destinations (R383), and the
chain's arithmetic trap is taken where one is due (R381). `s` is the state in which the word issued. -/
def State.settled (t : State) (i : Instr) (l : Lane) (s : State) : State :=
  (t.updThread s.issue.gid l.cur.tid (l.after i s)).arithTrap s.issue.gid l.cur.tid

/-- A word of one thread completes with the effect `eff`: the next state is that effect, in the state whose PC has moved
past the chain, and what follows every word. -/
def Completes (i : Instr) (l : Lane) (s : State) (eff : State → State) : Prop :=
  exec i s = .next ((eff (s.advanced l)).settled i l s)

/-- As `Completes`, for a word after which the wake rules of the issuing group are applied (R298). -/
def CompletesAndWakes (i : Instr) (l : Lane) (s : State) (eff : State → State) : Prop :=
  let t := (eff (s.advanced l)).settled i l s
  exec i s = .next (t.settleGroup t.issue.gid)

/-- The state in which the thread of a lane stands parked, or otherwise stopped, at the word that it issues (R41). -/
def State.stopped (s : State) (l : Lane) (st : Stop) : State := s.stopLane l.cur.tid st

/-- No byte of memory differs, in device or in host memory. -/
def State.sameMemory (s t : State) : Prop := (∀ a, t.physByte a = s.physByte a) ∧ t.hostMem = s.hostMem

/-- No thread differs but one. -/
def State.sameOthers (s t : State) (gid tid : Nat) : Prop := ∀ g v, ¬(g = gid ∧ v = tid) → t.thread? g v = s.thread? g v

/-- The translations that a thread's access leaves in its core's cache (R354). -/
def State.filled (s : State) (l : Lane) (va n : Nat) : State :=
  (pagePieces va n).foldl (fun s p => s.tlbFill l.g.core (coreDie l.g.core) l.g.asid p.1) s

/-- What a word of the thread path does that asks for the access `q`: where its counter has room, its operands are not
poisoned or their poison passes on as data, it is aligned as it must be, nothing of the thread waits in the side log
before it, and it translates, the operation is counted, its destination pends, and the access is on its way in its
parts (R20, R45, R210, R232). No byte of memory changes as it issues, and no other thread. -/
def AccessWord (i : Instr) (q : Lane → Req) : Prop :=
  ∀ (s : State) (l : Lane) (dp : Bool) (ps : List (Trans × Nat)),
    Issues i l s → l.g.role = .solo → l.cur.outstanding (q l).cls < 63
    → l.consume (q l).addrRegs = .ok false → l.consume (q l).dataRegs = .ok dp → (q l).ea % (q l).align = 0
    → ((q l).noret = true → s.sideLogHas l.g.gid l.cur.tid = false)
    → (s.advanced l).translateReq l.g.core l.g.asid (q l) = .ok ps →
    ∃ t, exec i s = .next t
      ∧ t = (((((s.advanced l).filled l (q l).ea (q l).size).updLane l fun t =>
            (t.begin (q l).cls).markPend ((List.range (q l).dcnt).map ((q l).dst + ·))).launchAcc
          { (q l).toAcc l (s.advanced l) with poison := dp, parts := partsOf ps (q l).ea (q l).size }).settled i l s)
      ∧ s.sameMemory t ∧ s.sameOthers t s.issue.gid l.cur.tid

/-- What a word of the field unit does whose effect is `eff`, in a thread outside tandem mode whose counter has room,
whose operands are as they must be, and which has no request at the allocator: the effect takes place, and its result
is on its way to the destination, which pends (R45, R190, R191). -/
def FieldWord (i : Instr) (fn dst dcnt cls : Nat) (addrRegs : Lane → State → List Nat) (dataRegs : List Nat) (eff : Lane → Bool → State → Except FieldFault FieldDone) : Prop :=
  ∀ (s : State) (l : Lane) (dp : Bool) (r : FieldDone),
    Issues i l s → l.g.role = .solo → l.cur.outstanding cls < 63 → s.behindAlloc l = false
    → l.consume (addrRegs l s) = .ok false → l.consume dataRegs = .ok dp → eff l dp (s.advanced l) = .ok r →
    Completes i l s fun _ =>
      (r.s.updLane l fun t => t.raise r.flags).fieldStart l
        { id := 0, gid := 0, tid := 0, asid := 0, fn := fn, dst := dst, dcnt := dcnt, shadow := false, cls := cls
          result := some r.words, gw := r.gw, poison := r.bad, va := r.va }

/-- What a word does that gives an engine a command, for a pack of one thread: the command `mk` makes of the octet, with
the thread counted (R160, R232, R262, R333). -/
def EngineWord (i : Instr) (cls sreg : Nat) (ready : Lane → State → Prop) (mk : Lane → Bool → State → Nat × State)
    (join : Nat → Nat → State → State) : Prop :=
  ∀ (s : State) (l : Lane) (bad : Bool),
    Issues i l s → l.cur.outstanding cls < 63 → l.consumeOct sreg = .ok bad → s.issue.cmd = none → ready l (s.advanced l) →
    Completes i l s fun s =>
      let c := mk l bad s
      (join c.1 l.cur.tid { c.2 with issue := { c.2.issue with cmd := some c.1 } }).updLane l fun t => t.begin cls

/-! ### Numbers (R76, R79, R81, R84) -/

/-- The finite value `x` is the real number `v` (R76); an infinity and a NaN are no number. -/
def FVal.Is (x : FVal) (v : ℝ) : Prop := ∃ s m e, x = .fin s m e ∧ v = (if s then -1 else 1) * ((m : ℝ) * (2 : ℝ) ^ (e : Int))

/-- The integer `n` is the number `x` rounded by a mode (R79). -/
def RoundsTo (mode : RMode) (x : ℝ) (n : Int) : Prop :=
  match mode with
  | .rne => |x - n| < 1 / 2 ∨ (|x - n| = 1 / 2 ∧ n % 2 = 0)
  | .rtz => |(n : ℝ)| ≤ |x| ∧ |x| < |(n : ℝ)| + 1 ∧ 0 ≤ n * x
  | .rdn => n ≤ x ∧ x < n + 1
  | .rup => x ≤ n ∧ n < x + 1
  | .rna => |x - n| < 1 / 2 ∨ (|x - n| = 1 / 2 ∧ |x| < |(n : ℝ)|)

/-- A bit pattern with its flags is the nonzero number `x` rounded once to a format by a mode (R79, R81, R84): the multiple
`n` of its last place to which the mode rounds it, with the sign of `x`, or what an overflow gives; NX where it differs from `x`, and UF
where moreover `x`, rounded with an unbounded exponent range to the multiple `k`, stays below the smallest normal value. -/
def Narrows (f : Fmt) (mode : RMode) (x : ℝ) (r : Nat × Flags) : Prop :=
  ∀ (t : Int) (s : Bool), (2 : ℝ) ^ t ≤ |x| → |x| < (2 : ℝ) ^ (t + 1) → (s = true ↔ x < 0) →
    let least : Int := 1 - f.bias
    let ulp : ℝ := (2 : ℝ) ^ (max t least - f.fb)
    let most : ℝ := (2 - (2 : ℝ) ^ (-(f.fb : Int))) * (2 : ℝ) ^ (f.bias : Int)
    ∃ n k : Int, RoundsTo mode (x / ulp) n ∧ RoundsTo mode (x / (2 : ℝ) ^ (t - f.fb)) k
      ∧ (most < |n * ulp| →
        r = (if mode = .rtz ∨ (mode = .rdn ∧ s = false) ∨ (mode = .rup ∧ s = true) then f.maxFin s else f.inf s, fOF ||| fNX))
      ∧ (|n * ulp| ≤ most →
        (fdec f r.1).Is (n * ulp) ∧ fsign f r.1 = s ∧ r.1 < 2 ^ f.width ∧ r.2 &&& ~~~(fNX ||| fUF) = 0
        ∧ (r.2 &&& fNX ≠ 0 ↔ n * ulp ≠ x) ∧ (r.2 &&& fUF ≠ 0 ↔ n * ulp ≠ x ∧ |k * (2 : ℝ) ^ (t - f.fb)| < (2 : ℝ) ^ least))

end Sys2Proof.Machine
end

