-- ==== Sys2Proof/Certificates/Slice0/Obligations.lean ====
section
/-! DEFINITION. The statements about the model, each from the manual's numbered rules; OBLIGATIONS.json lists them. -/

open Sys2Proof Sys2Proof.Machine

/-! ### Encoding (R35, R43, R46-R69) -/

/-- Every instruction's own word decodes to that instruction, with every operand at every value that R43 to R69 allow. -/
def Obligations.DecodeOfEncode : Prop :=
  ∀ i : Instr, i.wellFormed = true → decode (encode i) = some i

/-- A word that decodes is the word of exactly the instruction that it decodes to, and that instruction is well-formed:
no bit of a word is ignored, and every must-be-zero field is checked. -/
def Obligations.EncodeOfDecode : Prop :=
  ∀ w i, w < 2 ^ 32 → decode w = some i → encode i = w ∧ i.wellFormed = true

/-- Words that the manual writes out decode to what they stand for (R42, R118-R122, R149, R152, R387). -/
def Obligations.ManualWordsDecode : Prop :=
  decode 0 = some .nop
  ∧ decode 0x00000100 = some .exit
  ∧ decode 0x34000002 = some (.bra 0 0 2)
  ∧ decode 0x36F00005 = some (.call 30 5)
  ∧ decode 0x3803C020 = some (.jr 30)
  ∧ decode 0x1E228000 = some (.uget 0 4 20)
  ∧ decode 0x1EA08100 = some (.uset 0 20 4)
  ∧ decode 0xA020A302 = some (.fmul 1 4 5 6)
  ∧ decode 0x40529004 = some (.ld 0 10 20 4 0 4)
  ∧ decode 0x30000000 = some (.propose 0)
  ∧ decode 0x30010300 = some (.pseed 0 8)
  ∧ decode 0x0000A211 = some (.trap 5 17)
  ∧ decode 0x6A180000 = some (.errq 3)
  ∧ decode 0x68000200 = some .tend

/-! ### Words that compute in the thread (R5, R19, R37, R39, R104-R118) -/

/-- IADD, ISUB, AND, OR, XOR, SHL, SHR, SAR and IMULLO at both widths (R104). -/
def Obligations.IntegerPairWords : Prop :=
  ∀ (c : BitVec 1) (d a b : BitVec 6) (w : BitVec 2), w.toNat ≤ 1 →
    let k := 2 ^ w.toNat
    Computes (.iadd c d a b w) (fun l t => t.put d (l.val a k + l.val b k))
    ∧ Computes (.isub c d a b w) (fun l t => t.put d (l.val a k - l.val b k))
    ∧ Computes (.and c d a b w) (fun l t => t.put d (l.val a k &&& l.val b k))
    ∧ Computes (.or c d a b w) (fun l t => t.put d (l.val a k ||| l.val b k))
    ∧ Computes (.xor c d a b w) (fun l t => t.put d (l.val a k ^^^ l.val b k))
    ∧ Computes (.shl c d a b w) (fun l t => t.put d (l.val a k <<< ((l.val b k).toNat % (32 * k))))
    ∧ Computes (.shr c d a b w) (fun l t => t.put d (l.val a k >>> ((l.val b k).toNat % (32 * k))))
    ∧ Computes (.sar c d a b w) (fun l t => t.put d ((l.val a k).sshiftRight ((l.val b k).toNat % (32 * k))))
    ∧ Computes (.imullo c d a b w) (fun l t => t.put d (l.val a k * l.val b k))

/-- The single-width words of two sources of R104: minima and maxima, ANDN, ROTL, the high products, the saturating sum
and difference.

BPICK (R105): byte i of D is the byte of A that the select field of B names, or zero where byte i's clear bit is set,
or eight copies of the sign bit of the byte of D below it where its fill bit is set.

The words of one source (R104) and the immediate words (R107, R108, R109, R110). -/
def Obligations.IntegerUnaryWords : Prop :=
  (∀ (c : BitVec 1) (d a b : BitVec 6),
      let two := fun (f : Word → Word → Word) (l : Lane) (t : Thread) => t.setReg d.toNat (f (l.src.reg a.toNat) (l.src.reg b.toNat))
      let clamp := fun (v : Int) => BitVec.ofInt 32 (max (-2147483648) (min 2147483647 v))
      Computes (.imin c d a b) (two fun x y => BitVec.ofInt 32 (min x.toInt y.toInt))
      ∧ Computes (.imax c d a b) (two fun x y => BitVec.ofInt 32 (max x.toInt y.toInt))
      ∧ Computes (.iminu c d a b) (two fun x y => BitVec.ofNat 32 (min x.toNat y.toNat))
      ∧ Computes (.imaxu c d a b) (two fun x y => BitVec.ofNat 32 (max x.toNat y.toNat))
      ∧ Computes (.andn c d a b) (two fun x y => x &&& ~~~y)
      ∧ Computes (.rotl c d a b) (two fun x y => x <<< (y.toNat % 32) ||| x >>> (32 - y.toNat % 32))
      ∧ Computes (.imulhi c d a b) (two fun x y => (x.signExtend 64 * y.signExtend 64).extractLsb' 32 32)
      ∧ Computes (.imulhiu c d a b) (two fun x y => (x.setWidth 64 * y.setWidth 64).extractLsb' 32 32)
      ∧ Computes (.iaddsat c d a b) (two fun x y => clamp (x.toInt + y.toInt))
      ∧ Computes (.isubsat c d a b) (two fun x y => clamp (x.toInt - y.toInt)))
  ∧ (∀ (c : BitVec 1) (d a b : BitVec 6),
      let byte := fun (x y : Word) (i : Nat) (below : BitVec 8) =>
        if 1 ≤ i ∧ y.getLsbD (12 + i) then (if below.msb then 0xFF#8 else 0#8)
        else if y.getLsbD (8 + i) then 0#8
        else x.extractLsb' (8 * (y.extractLsb' (2 * i) 2).toNat) 8
      let pick := fun (x y : Word) =>
        let b0 := byte x y 0 0
        let b1 := byte x y 1 b0
        let b2 := byte x y 2 b1
        let b3 := byte x y 3 b2
        b3 ++ b2 ++ b1 ++ b0
      Computes (.bpick c d a b) (fun l t => t.setReg d.toNat (pick (l.src.reg a.toNat) (l.src.reg b.toNat))))
  ∧ (∀ (c : BitVec 1) (d a : BitVec 6) (i : BitVec 13) (n l p : BitVec 5) (m : BitVec 19), p.toNat + (l.toNat + 1) ≤ 32 →
      let one := fun (f : Word → Word) (ln : Lane) (t : Thread) => t.setReg d.toNat (f (ln.src.reg a.toNat))
      let field : Word := BitVec.ofNat 32 ((2 ^ (l.toNat + 1) - 1) * 2 ^ p.toNat)
      Computes (.popc c d a) (one fun x => BitVec.ofNat 32 ((List.range 32).filter fun k => x.getLsbD k).length)
      ∧ Computes (.clz c d a) (one fun x => if x = 0 then 32 else BitVec.ofNat 32 (31 - x.toNat.log2))
      ∧ Computes (.brev c d a) (one fun x => x.reverse)
      ∧ Computes (.iabs c d a) (one fun x => BitVec.ofInt 32 x.toInt.natAbs)
      ∧ Computes (.iaddi c d a i) (one fun x => x + i.signExtend 32)
      ∧ Computes (.andi c d a i) (one fun x => x &&& i.signExtend 32)
      ∧ Computes (.ori c d a i) (one fun x => x ||| i.signExtend 32)
      ∧ Computes (.xori c d a i) (one fun x => x ^^^ i.signExtend 32)
      ∧ Computes (.shiShl c d a n) (one fun x => x <<< n.toNat)
      ∧ Computes (.shiShr c d a n) (one fun x => x >>> n.toNat)
      ∧ Computes (.shiSar c d a n) (one fun x => x.sshiftRight n.toNat)
      ∧ Computes (.shiRotl c d a n) (one fun x => x <<< n.toNat ||| x >>> (32 - n.toNat))
      ∧ Computes (.bitfBfx c d a l p) (one fun x => (x.extractLsb' p.toNat (l.toNat + 1)).setWidth 32)
      ∧ Computes (.bitfBfxs c d a l p) (one fun x => (x.extractLsb' p.toNat (l.toNat + 1)).signExtend 32)
      ∧ Computes (.bitfBfi c d a l p) (fun ln t =>
          t.setReg d.toNat ((ln.src.reg d.toNat &&& ~~~field) ||| ((ln.src.reg a.toNat <<< p.toNat) &&& field)))
      ∧ Computes (.li c d m) (fun _ t => t.setReg d.toNat (m.signExtend 32))
      ∧ Computes (.lih c d m) (fun ln t => t.setReg d.toNat (m ++ (ln.src.reg d.toNat).extractLsb' 0 13)))

/-- IMAD, IMAD.W, ICMP, SEL, UGET and NOP (R111, R112, R114, R118, R42). A NOP only moves its thread past it: no instruction has
retired under a poisoning.

SEL at every width, with its predicate taken as it stands or inverted (R114). -/
def Obligations.MultiplyAddCompareSelectWords : Prop :=
  (∀ (c : BitVec 1) (d a b e : BitVec 6) (p : BitVec 3) (w : BitVec 2) (f : BitVec 5), w.toNat ≤ 1 → f.toNat ≤ 9 →
      let k := 2 ^ w.toNat
      let holds := fun (x y : BitVec (32 * k)) => match f.toNat with
        | 0 => x == y | 1 => x != y | 2 => x.slt y | 3 => x.sle y | 4 => y.slt x | 5 => y.sle x
        | 6 => x.ult y | 7 => x.ule y | 8 => y.ult x | _ => y.ule x
      (∀ (s : State) (tid : Nat) (g : Group) (x : Thread),
        tid ∈ s.issue.tids → s.issue.tids.Nodup → s.group? s.issue.gid = some g → g.thread? tid = some x →
        ∃ t y, exec .nop s = .next t ∧ t.thread? s.issue.gid tid = some y
          ∧ y.sansTrap = (x.advance s.issue).sansTrap
          ∧ ((x.advance s.issue).raised &&& s.trapen g.asid = 0 → y = x.advance s.issue)
          ∧ s.sameButThreads t ∧ (∀ a, t.physByte a = s.physByte a)
          ∧ ∀ h v, ¬(h = s.issue.gid ∧ v ∈ s.issue.tids) → t.thread? h v = s.thread? h v)
      ∧ Computes (.imad c d a b e) (fun l t => t.setReg d.toNat (l.src.reg a.toNat * l.src.reg b.toNat + l.src.reg e.toNat))
      ∧ Computes (.imadW c d a b e) (fun l t =>
          t.put (k := 2) d ((l.src.reg a.toNat).signExtend 64 * (l.src.reg b.toNat).signExtend 64 + l.val e 2))
      ∧ Computes (.icmp c p a b w f) (fun l t => t.setPred p.toNat (holds (l.val a k) (l.val b k)))
      ∧ Computes (.uget c d a) (fun l t => t.setReg d.toNat (if a = 0 then 0 else l.g.uregs[a.toNat]?.getD 0)))
  ∧ (∀ (c : BitVec 1) (d a b : BitVec 6) (w : BitVec 2) (n : BitVec 1) (p : BitVec 3),
      Computes (.sel c d a b w n p) (fun l t =>
        t.put d (if (l.src.pred p.toNat ^^ (n == 1)) then l.val a (2 ^ w.toNat) else l.val b (2 ^ w.toNat))))

/-- The predicate words (R113): p0 is never written, and P2W followed by W2P restores the seven others. -/
def Obligations.PredicateWords : Prop :=
  ∀ (c : BitVec 1) (d a b : BitVec 3) (r : BitVec 6),
    Computes (.pand c d a b) (fun l t => t.setPred d.toNat (l.src.pred a.toNat && l.src.pred b.toNat))
    ∧ Computes (.por c d a b) (fun l t => t.setPred d.toNat (l.src.pred a.toNat || l.src.pred b.toNat))
    ∧ Computes (.pxor c d a b) (fun l t => t.setPred d.toNat (l.src.pred a.toNat ^^ l.src.pred b.toNat))
    ∧ Computes (.pnot c d a) (fun l t => t.setPred d.toNat (!l.src.pred a.toNat))
    ∧ Computes (.p2w c r) (fun l t => t.setReg r.toNat ((l.src.preds ||| 1).setWidth 32))
    ∧ Computes (.w2p c r) (fun l t => { t with preds := (l.src.reg r.toNat).setWidth 8 &&& 0xFE ||| t.preds &&& 1 })
    ∧ ∀ x y : BitVec 8, ((x ||| 1).setWidth 32).setWidth 8 &&& (0xFE : BitVec 8) ||| y &&& 1 = x &&& 0xFE ||| y &&& 1

/-! ### Floating point, transcendentals and random draws (R80-R84, R99, R133-R146, R149-R152) -/

/-- The sums, products, minima, maxima, signs and scalings at FP32, FP64 and in pairs of FP16 and BF16 (R83, R134, R135, R138):
D is the operation's value in the thread's rounding mode, and its flags are added to the sticky flags.

The fused multiply-adds (R136, R138): one rounding of a × b + c.

What those operations give (R81, R82, R83). Of finite operands it is the exact sum, difference, product or multiply-add, put once through the
narrowing `roundFin`, whose result RoundedOnce pins; an exact zero has the sign of R81. A NaN, an infinity and zero times infinity give what R82
lists, and the minima and maxima the lesser and the greater, or what R83 gives beside a NaN. -/
def Obligations.FloatArithmeticWords : Prop :=
  (∀ (c : BitVec 1) (d a b : BitVec 6),
      let two := fun (n : Nat) (f : RMode → Nat → Nat → Nat × Flags) (l : Lane) (t : Thread) =>
        let r := f l.src.rmode (l.src.group a.toNat n) (l.src.group b.toNat n)
        (t.setGroup d.toNat n r.1).raise r.2
      Computes (.fadd c d a b) (two 1 (fadd f32)) ∧ Computes (.dadd c d a b) (two 2 (fadd f64))
      ∧ Computes (.fsub c d a b) (two 1 (fsub f32)) ∧ Computes (.dsub c d a b) (two 2 (fsub f64))
      ∧ Computes (.fmul c d a b) (two 1 (fmul f32)) ∧ Computes (.dmul c d a b) (two 2 (fmul f64))
      ∧ Computes (.fmin c d a b) (two 1 fun _ => fminmax f32 false true) ∧ Computes (.dmin c d a b) (two 2 fun _ => fminmax f64 false true)
      ∧ Computes (.fmax c d a b) (two 1 fun _ => fminmax f32 true true) ∧ Computes (.dmax c d a b) (two 2 fun _ => fminmax f64 true true)
      ∧ Computes (.fminm c d a b) (two 1 fun _ => fminmax f32 false false) ∧ Computes (.dminm c d a b) (two 2 fun _ => fminmax f64 false false)
      ∧ Computes (.fmaxm c d a b) (two 1 fun _ => fminmax f32 true false) ∧ Computes (.dmaxm c d a b) (two 2 fun _ => fminmax f64 true false)
      ∧ Computes (.fcpys c d a b) (two 1 fun _ x y => (fsignOp f32 x (fsign f32 y), 0))
      ∧ Computes (.dcpys c d a b) (two 2 fun _ x y => (fsignOp f64 x (fsign f64 y), 0))
      ∧ Computes (.fscale c d a b) (two 1 fun _ x y => fscaleV f32 x (sval 32 y))
      ∧ Computes (.dscale c d a b) (two 2 fun _ x y => fscaleV f64 x (sval 32 y))
      ∧ Computes (.hadd2 c d a b) (two 1 fun m => packed2 (fadd f16 m)) ∧ Computes (.badd2 c d a b) (two 1 fun m => packed2 (fadd bf16 m))
      ∧ Computes (.hsub2 c d a b) (two 1 fun m => packed2 (fsub f16 m)) ∧ Computes (.bsub2 c d a b) (two 1 fun m => packed2 (fsub bf16 m))
      ∧ Computes (.hmul2 c d a b) (two 1 fun m => packed2 (fmul f16 m)) ∧ Computes (.bmul2 c d a b) (two 1 fun m => packed2 (fmul bf16 m))
      ∧ Computes (.hmin2 c d a b) (two 1 fun _ => packed2 (fminmax f16 false true)) ∧ Computes (.bmin2 c d a b) (two 1 fun _ => packed2 (fminmax bf16 false true))
      ∧ Computes (.hmax2 c d a b) (two 1 fun _ => packed2 (fminmax f16 true true)) ∧ Computes (.bmax2 c d a b) (two 1 fun _ => packed2 (fminmax bf16 true true)))
  ∧ (∀ (c : BitVec 1) (d a b e : BitVec 6),
      let three := fun (n : Nat) (f : RMode → Nat → Nat → Nat → Nat × Flags) (l : Lane) (t : Thread) =>
        let r := f l.src.rmode (l.src.group a.toNat n) (l.src.group b.toNat n) (l.src.group e.toNat n)
        (t.setGroup d.toNat n r.1).raise r.2
      Computes (.ffma c d a b e) (three 1 (ffma f32)) ∧ Computes (.dfma c d a b e) (three 2 (ffma f64))
      ∧ Computes (.hfma2 c d a b e) (three 1 fun m => packed3 (ffma f16 m)) ∧ Computes (.bfma2 c d a b e) (three 1 fun m => packed3 (ffma bf16 m)))
  ∧ (∀ f ∈ [f64, f32, f16, bf16], ∀ (mode : RMode) (a b c : Nat) (s1 s2 s3 : Bool) (u v w : ℝ),
      let x := fdec f a
      let y := fdec f b
      let z := fdec f c
      let sx := fsign f a
      let sy := fsign f b
      let narrow := fun (q : ℝ) (r : Nat × Flags) => ∃ n e : Int, q = n * (2 : ℝ) ^ e ∧ r = roundFin f mode (decide (n < 0)) n.natAbs e
      let zero := fun (both : Bool) (s : Bool) => (f.zero (if both then s else mode == .rdn), (0 : Flags))
      let nan := fun (invalid : Bool) => (f.nan, if invalid then fNV else (0 : Flags))
      let odd := x.isSnan || y.isSnan
      -- finite operands
      (x.Is u → y.Is v →
        (u + v ≠ 0 → narrow (u + v) (fadd f mode a b)) ∧ (u + v = 0 → fadd f mode a b = zero (decide (x.isZero = true ∧ y.isZero = true ∧ sx = sy)) sx)
        ∧ (u - v ≠ 0 → narrow (u - v) (fsub f mode a b)) ∧ (u - v = 0 → fsub f mode a b = zero (decide (x.isZero = true ∧ y.isZero = true ∧ sx = !sy)) sx)
        ∧ (u * v ≠ 0 → narrow (u * v) (fmul f mode a b)) ∧ (u * v = 0 → fmul f mode a b = (f.zero (sx != sy), 0))
        ∧ (z.Is w →
          (u * v + w ≠ 0 → narrow (u * v + w) (ffma f mode a b c))
          ∧ (u * v + w = 0 → ffma f mode a b c = zero (decide ((x.isZero || y.isZero) = true ∧ z.isZero = true ∧ (sx != sy) = fsign f c)) (sx != sy)))
        ∧ ∀ number, (u < v → fminmax f false number a b = (a, 0) ∧ fminmax f true number a b = (b, 0)
            ∧ fminmax f false number b a = (a, 0) ∧ fminmax f true number b a = (b, 0))
          ∧ (u = v → sx = true → sy = false → fminmax f false number a b = (a, 0) ∧ fminmax f true number a b = (b, 0)))
      -- infinities
      ∧ (x = .inf s1 → y = .inf s2 →
        fadd f mode a b = (if s1 = s2 then (f.inf s1, 0) else nan true) ∧ fsub f mode a b = (if s1 = s2 then nan true else (f.inf s1, 0))
        ∧ fmul f mode a b = (f.inf (s1 != s2), 0))
      ∧ (x = .inf s1 → y.Is v →
        fadd f mode a b = (f.inf s1, 0) ∧ fadd f mode b a = (f.inf s1, 0) ∧ fsub f mode a b = (f.inf s1, 0) ∧ fsub f mode b a = (f.inf (!s1), 0)
        ∧ fmul f mode a b = (if v = 0 then nan true else (f.inf (s1 != sy), 0)) ∧ fmul f mode b a = (if v = 0 then nan true else (f.inf (sy != s1), 0)))
      ∧ (((x = .inf s1 ∧ y.Is 0) ∨ (y = .inf s1 ∧ x.Is 0)) → ffma f mode a b c = nan true)
      ∧ (((x = .inf s1 ∧ ((y = .inf s2) ∨ (y.Is v ∧ v ≠ 0 ∧ sy = s2))) ∨ (y = .inf s2 ∧ x.Is v ∧ v ≠ 0 ∧ sx = s1)) →
        (z = .inf s3 → ffma f mode a b c = (if s3 = (s1 != s2) then (f.inf s3, 0) else nan true)) ∧ (z.Is w → ffma f mode a b c = (f.inf (s1 != s2), 0)))
      ∧ (x.Is u → y.Is v → z = .inf s3 → ffma f mode a b c = (f.inf s3, 0))
      -- NaNs
      ∧ (x.isNan = true ∨ y.isNan = true →
        fadd f mode a b = nan odd ∧ fsub f mode a b = nan odd ∧ fmul f mode a b = nan odd ∧ ffma f mode a b c = nan (odd || z.isSnan))
      ∧ (z.isNan = true → x.isNan = false → y.isNan = false → ¬((x.isZero = true ∧ y = .inf s2) ∨ (x = .inf s1 ∧ y.isZero = true)) →
        x.Is u ∨ x = .inf s1 → y.Is v ∨ y = .inf s2 → ffma f mode a b c = nan z.isSnan)
      ∧ ∀ great, (x.isNan = true → y.isNan = true → ∀ number, fminmax f great number a b = nan odd)
        ∧ (x.isNan = true → y.isNan = false → fminmax f great true a b = (b, (nan odd).2) ∧ fminmax f great true b a = (b, (nan odd).2)
          ∧ fminmax f great false a b = nan odd ∧ fminmax f great false b a = nan odd))

/-- Signs, classes, roundings to integral values, comparisons and conversions (R134, R135, R137, R139), each with the flags that
its operation raises.

What the roundings and conversions of finite numbers give (R86, R135, R139): FRND the integer to which the mode rounds its operand; a conversion to an
integer that integer where the destination holds it, and else the bound that it passes; a conversion between formats the operand narrowed once, with the largest
finite value for an overflow under SAT; one from an integer that integer narrowed once. NaNs and infinities give what R86 and R135 list. -/
def Obligations.FloatOneSourceAndCompareWords : Prop :=
  (∀ (c : BitVec 1) (d a b : BitVec 6) (p : BitVec 3) (r : BitVec 3) (s_ : BitVec 1) (f k : BitVec 5),
      let one := fun (nd na : Nat) (g : Thread → Nat → Nat × Flags) (l : Lane) (t : Thread) =>
        let v := g l.src (l.src.group a.toNat na)
        (t.setGroup d.toNat nd v.1).raise v.2
      let test := fun (n : Nat) (g : Nat → Nat → Bool × Flags) (l : Lane) (t : Thread) =>
        let v := g (l.src.group a.toNat n) (l.src.group b.toNat n)
        (t.setPred p.toNat v.1).raise v.2
      Computes (.fabs c d a) (one 1 1 fun _ x => (fsignOp f32 x false, 0)) ∧ Computes (.dabs c d a) (one 2 2 fun _ x => (fsignOp f64 x false, 0))
      ∧ Computes (.fneg c d a) (one 1 1 fun _ x => (fsignOp f32 x (!fsign f32 x), 0))
      ∧ Computes (.dneg c d a) (one 2 2 fun _ x => (fsignOp f64 x (!fsign f64 x), 0))
      ∧ Computes (.fclass c d a) (one 1 1 fun _ x => (fclassV f32 x, 0)) ∧ Computes (.dclass c d a) (one 1 2 fun _ x => (fclassV f64 x, 0))
      ∧ Computes (.frnd c d a r) (one 1 1 fun t x => frndV f32 (modeOf t r.toNat) x)
      ∧ Computes (.drnd c d a r) (one 2 2 fun t x => frndV f64 (modeOf t r.toNat) x)
      ∧ Computes (.cvt c d a r s_ k) (one (cvtDst k.toNat) (cvtSrc k.toNat) fun t x => cvtKind k.toNat (modeOf t r.toNat) (s_ == 1) x)
      ∧ Computes (.fcmp c p a b f) (test 1 (fcmpV f32 f.toNat)) ∧ Computes (.dcmp c p a b f) (test 2 (fcmpV f64 f.toNat)))
  ∧ (∀ f ∈ [f64, f32, f16, bf16], ∀ g ∈ [f64, f32, f16, bf16], ∀ (mode : RMode) (a n : Nat) (s sat sgn : Bool) (v : ℝ),
      let x := fdec f a
      let lo : Int := if sgn then -(2 ^ (n - 1) : Nat) else 0
      let hi : Int := if sgn then (2 ^ (n - 1) : Nat) - 1 else (2 ^ n : Nat) - 1
      let out := if sat then fNX else fNV
      let word := fun (i : Int) => (i % (2 ^ n : Nat)).toNat
      (x.Is v → ∃ i : Int, RoundsTo mode v i
        ∧ ((i : ℝ) = v → frndV f mode a = (a, 0))
        ∧ ((i : ℝ) ≠ v → frndV f mode a = (if i = 0 then f.zero (fsign f a) else (roundFin f .rtz (fsign f a) i.natAbs 0).1, fNX))
        ∧ (hi < i → cvtFI f n sgn mode sat a = (word hi, out)) ∧ (i < lo → cvtFI f n sgn mode sat a = (word lo, out))
        ∧ (lo ≤ i → i ≤ hi → cvtFI f n sgn mode sat a = (word i, if (i : ℝ) = v then 0 else fNX)))
      ∧ (x.Is v → v ≠ 0 → ∃ (m : Nat) (e : Int), v = (if fsign f a then -1 else 1) * ((m : ℝ) * (2 : ℝ) ^ (e : Int)) ∧
          let r := roundFin g mode (fsign f a) m e
          cvtFF f g mode sat a = if sat = true ∧ r.2 &&& fOF ≠ 0 then (g.maxFin (fsign f a), r.2) else r)
      ∧ (x.Is 0 → cvtFF f g mode sat a = (g.zero (fsign f a), 0))
      ∧ (x = .inf s → frndV f mode a = (f.inf s, 0) ∧ cvtFF f g mode sat a = (g.inf s, 0) ∧ cvtFI f n sgn mode sat a = (word (if s then lo else hi), out))
      ∧ (x = .nan s → frndV f mode a = (f.nan, if s then fNV else 0) ∧ cvtFF f g mode sat a = (g.nan, if s then fNV else 0) ∧ cvtFI f n sgn mode sat a = (0, fNV))
      ∧ (let i : Int := if sgn = true ∧ 2 ^ (n - 1) ≤ a % 2 ^ n then (a % 2 ^ n : Nat) - (2 ^ n : Nat) else (a % 2 ^ n : Nat)
        cvtIF f n sgn mode a = if i = 0 then (f.zero false, 0) else roundFin f mode (decide (i < 0)) i.natAbs 0))

/-- The SFU words (R141, R143): D is the value, and the flags are those, of the word's function in the model, whose value is free where R142
leaves it open (log 6).

What DIV, RCP, SQRT and RSQ give of the operands that R82 and R143 list; RoundedOnce says what a quotient and a root of finite numbers are. -/
def Obligations.TranscendentalWords : Prop :=
  (∀ (c : BitVec 1) (d a b : BitVec 6) (w : BitVec 1),
      let one := fun (nd na : Nat) (g : Nat → Nat × Flags) (l : Lane) (t : Thread) =>
        let v := g (l.src.group a.toNat na)
        (t.setGroup d.toNat nd v.1).raise v.2
      let n := 2 ^ w.toNat
      Computes (.rcp c d a w) (one n n (rcpV (sfuFmt w))) ∧ Computes (.rsq c d a) (one 1 1 rsqV)
      ∧ Computes (.sqrt c d a w) (one n n fun x => fsqrtV (sfuFmt w) (fdec (sfuFmt w) x))
      ∧ Computes (.div c d a b w) (fun l t =>
          let v := fdivV (sfuFmt w) (fdec (sfuFmt w) (l.src.group a.toNat n)) (fdec (sfuFmt w) (l.src.group b.toNat n))
          (t.setGroup d.toNat n v.1).raise v.2)
      ∧ Computes (.exp2 c d a) (one 1 1 exp2V) ∧ Computes (.log2 c d a) (one 1 1 log2V)
      ∧ Computes (.sin c d a) (one 1 1 sinV) ∧ Computes (.cos c d a) (one 1 1 cosV)
      ∧ Computes (.sincos c d a) (one 2 1 fun x => ((sinV x).1 + 2 ^ 32 * (cosV x).1, (sinV x).2 ||| (cosV x).2))
      ∧ Computes (.sinpi c d a) (one 1 1 sinpiV) ∧ Computes (.cospi c d a) (one 1 1 cospiV) ∧ Computes (.tanh c d a) (one 1 1 tanhV))
  ∧ (∀ f ∈ [f64, f32], ∀ (a b : Nat) (s1 s2 : Bool) (u v : ℝ),
      let x := fdec f a
      let y := fdec f b
      let sx := fsign f a
      let sy := fsign f b
      let nan := fun (invalid : Bool) => (f.nan, if invalid then fNV else (0 : Flags))
      ((x.Is 0 → y.Is 0 → fdivV f x y = nan true) ∧ (x = .inf s1 → y = .inf s2 → fdivV f x y = nan true)
        ∧ (x.Is u → u ≠ 0 → y.Is 0 → fdivV f x y = (f.inf (sx != sy), fDZ)) ∧ (x.Is u → y = .inf s2 → fdivV f x y = (f.zero (sx != sy), 0))
        ∧ (x.Is 0 → y.Is v → v ≠ 0 → fdivV f x y = (f.zero (sx != sy), 0)) ∧ (x = .inf s1 → y.Is v → fdivV f x y = (f.inf (sx != sy), 0))
        ∧ (x.isNan = true ∨ y.isNan = true → fdivV f x y = nan (x.isSnan || y.isSnan)))
      ∧ ((x.Is 0 → rcpV f a = (f.inf sx, fDZ)) ∧ (x = .inf s1 → rcpV f a = (f.zero s1, 0)) ∧ (x.isNan = true → rcpV f a = nan x.isSnan))
      ∧ ((x.Is 0 → fsqrtV f x = (f.zero sx, 0)) ∧ (x = .inf false → fsqrtV f x = (f.inf false, 0)) ∧ (x = .inf true → fsqrtV f x = nan true)
        ∧ (x.Is u → u < 0 → fsqrtV f x = nan true) ∧ (x.isNan = true → fsqrtV f x = nan x.isSnan))
      ∧ (f = f32 → (x.Is 0 → rsqV a = (f.inf sx, fDZ)) ∧ (x = .inf false → rsqV a = (0, 0)) ∧ (x = .inf true → rsqV a = nan true)
        ∧ (x.Is u → u < 0 → rsqV a = nan true) ∧ (x.isNan = true → rsqV a = nan x.isSnan)))

/-- The narrowing rounds once (R79, R81, R84, R141): a nonzero number that is an integer times a power of two becomes its rounding to the format by the mode, in
every format, with the flags that R84 gives; and the quotient of two nonzero finite numbers and the square root of a positive one are the exact quotient and the exact root rounded
once by RNE. -/
def Obligations.RoundedOnce : Prop :=
  ∀ f ∈ [f64, f32, f16, bf16],
    (∀ (mode : RMode) (s : Bool) (m : Nat) (e : Int), m ≠ 0 → Narrows f mode ((if s then -1 else 1) * ((m : ℝ) * (2 : ℝ) ^ e)) (roundFin f mode s m e))
    ∧ (∀ (x y : FVal) (u v : ℝ), x.Is u → y.Is v → u ≠ 0 → v ≠ 0 → Narrows f .rne (u / v) (fdivV f x y))
    ∧ ∀ (x : FVal) (v : ℝ), x.Is v → 0 < v → Narrows f .rne (Real.sqrt v) (fsqrtV f x)

/-- The words of the floating-point state and of the random stream (R99, R145, R146, R152): a draw computes mix32 of key and ctr and
then adds 1 to ctr. That CLRFLG clears also the flags that earlier words of its own chain have raised is the model's choice, log 28. -/
def Obligations.ThreadStateWords : Prop :=
  ∀ (c : BitVec 1) (d a : BitVec 6) (m : BitVec 3) (k : BitVec 5), m.toNat ≤ 4 →
    Computes (.setrm m) (fun _ t => { t with rmode := match m.toNat with | 0 => .rne | 1 => .rtz | 2 => .rdn | 3 => .rup | _ => .rna })
    ∧ Computes (.getflg d) (fun l t => t.setReg d.toNat (l.src.flags.setWidth 32))
    ∧ Computes (.clrflg k) (fun _ t => { t with flags := t.flags &&& ~~~k })
    ∧ Computes (.rand c d) (fun l t => let u := t.setReg d.toNat (mix32 l.src.key l.src.ctr); { u with ctr := u.ctr + 1 })
    ∧ Computes (.randu c d) (fun l t =>
        let u := t.setReg d.toNat (BitVec.ofNat 32 (roundFin f32 .rne false ((mix32 l.src.key l.src.ctr).toNat / 256 + 1) (-24)).1)
        { u with ctr := u.ctr + 1 })
    ∧ Computes (.pseed c a) (fun l t => { t with key := l.src.reg a.toNat, ctr := l.src.reg (a.toNat + 1) })
    ∧ Computes (.pcnt c d) (fun l t => t.setWords d.toNat [l.src.ptot, l.src.pacc])
    ∧ Computes (.pcntClr c d) (fun l t => { t.setWords d.toNat [l.src.ptot, l.src.pacc] with ptot := 0, pacc := 0 })

/-- PROPOSE, ACCEPT and DISCARD (R149, R150, R151). PROPOSE copies w48 to w63 to the shadow, with their marks, and opens the proposal, unless its chain has
ended the thread; ACCEPT takes one draw,
keeps the shadow where the value of A is a number not below the logarithm of the draw, closes the proposal, counts, and writes D after
the close, unless a word of a higher slot of its chain writes D; DISCARD closes the proposal. PROPOSE in an open proposal, and the other two in a closed one, are Illegal Instruction. -/
def Obligations.ProposalWords : Prop :=
  ∀ (c : BitVec 1) (d a : BitVec 6) (s : State) (l : Lane),
    (Issues (.propose c) l s → l.src.popen = false →
      Completes (.propose c) l s fun s => s.updLane l fun t =>
        { t with shadow := Vector.ofFn fun k => t.regs[48 + k.val]?.getD 0, spoison := t.poison.extractLsb' 48 16
                 sparity := t.parity.extractLsb' 48 16, popen := t.st != .exited
                 skids := t.skids.map fun k => { k with shadow := k.regs.extractLsb' 48 16 } })
    ∧ (Issues (.accept c d a) l s → l.src.popen = true →
      let x := fdec f32 (l.src.reg a.toNat).toNat
      let acc := !x.isNan && !fltV x (fdec f32 (lnUniform ((mix32 l.src.key l.src.ctr).toNat / 256)))
      Completes (.accept c d a) l s fun s => s.updLane l fun t =>
        let t1 := if acc then
            { t with
              regs := (List.range 16).foldl (fun r k => r.setIfInBounds (48 + k) (t.shadow[k]?.getD 0)) t.regs
              poison := t.spoison ++ t.poison.extractLsb' 0 48, parity := t.sparity ++ t.parity.extractLsb' 0 48
              skids := t.skids.map fun k => { k with regs := k.shadow ++ k.regs.extractLsb' 0 48 } }
          else t
        let t2 := { t1 with ctr := t1.ctr + 1, popen := false, ptot := satIncr t.ptot, pacc := if acc then satIncr t.pacc else t.pacc }
        let t3 := t2.raise (flagIf x.isSnan fNV)
        if s.issue.dropD then t3 else t3.setReg d.toNat (if acc then 1 else 0))
    ∧ (Issues (.discard c) l s → l.src.popen = true → Completes (.discard c) l s fun s => s.updLane l fun t => { t with popen := false })
    ∧ (Issues (.propose c) l s → l.src.popen = true → exec (.propose c) s = .next (s.stopLane l.cur.tid (.trap 1 0 0)))
    ∧ (Issues (.accept c d a) l s → l.src.popen = false → exec (.accept c d a) s = .next (s.stopLane l.cur.tid (.trap 1 0 0)))
    ∧ (Issues (.discard c) l s → l.src.popen = false → exec (.discard c) s = .next (s.stopLane l.cur.tid (.trap 1 0 0)))

/-! ### Control transfer, exit, traps and waits (R37, R119-R126, R173, R218, R219, R258, R387) -/

/-- BRA, CALL, JR and JALR: a taken branch and a call go on at slot 0 of the packet that lies the offset's number of packets
from this one; a register jump goes on at the packet of its register pair where that lies on the packet grid of the
group's code, and is Illegal Instruction where it does not; the link is the packet after this one. A branch on a poisoned predicate consumes its poison,
and one whose poison has been consumed reads as false (R383, R384). -/
def Obligations.ControlTransferWords : Prop :=
  ∀ (p : BitVec 3) (n : BitVec 1) (o : BitVec 21) (d a : BitVec 6) (i : BitVec 19) (s : State) (l : Lane),
    let here := s.issue.pc0.pkt
    let goTo := fun (pkt : DWord) (t : Thread) => { t with pc := { pkt := pkt, slot := 0 }, packet := [] }
    let link := (here + 12).toNat
    let target : DWord := BitVec.ofNat 64 (l.src.group a.toNat 2)
    let clean := l.src.anyPoison [a.toNat, a.toNat + 1] = false
    let onGrid := ((target.toNat : Int) - l.g.cbase.toNat) % 12 = 0
    (Issues (.bra p n o) l s → (p = 0 ∨ l.src.ppoison.getLsbD p.toNat = false) →
      Completes (.bra p n o) l s fun s =>
        if l.src.pred p.toNat != (n == 1) then s.updLane l (goTo (here + BitVec.ofInt 64 (12 * o.toInt))) else s)
    ∧ (Issues (.bra p n o) l s → p ≠ 0 → l.src.ppoison.getLsbD p.toNat = true → l.src.unconsumed [] [p.toNat] = true →
      exec (.bra p n o) s = .next (s.stopLane l.cur.tid (.poison [] [p.toNat] [])))
    ∧ (Issues (.bra p n o) l s → p ≠ 0 → l.src.ppoison.getLsbD p.toNat = true → l.src.unconsumed [] [p.toNat] = false →
      Completes (.bra p n o) l s fun s => if n = 1 then s.updLane l (goTo (here + BitVec.ofInt 64 (12 * o.toInt))) else s)
    ∧ (Issues (.call d i) l s →
      Completes (.call d i) l s fun s => s.updLane l fun t => goTo (here + BitVec.ofInt 64 (12 * i.toInt)) (t.setGroup d.toNat 2 link))
    ∧ (Issues (.jr a) l s → clean → onGrid → Completes (.jr a) l s fun s => s.updLane l (goTo target))
    ∧ (Issues (.jalr d a) l s → clean → onGrid →
      Completes (.jalr d a) l s fun s => s.updLane l fun t => goTo target (t.setGroup d.toNat 2 link))
    ∧ (Issues (.jr a) l s → clean → ¬onGrid → exec (.jr a) s = .next (s.stopLane l.cur.tid (.trap 1 0 0)))
    ∧ (Issues (.jalr d a) l s → clean → ¬onGrid → exec (.jalr d a) s = .next (s.stopLane l.cur.tid (.trap 1 0 0)))

/-- EXIT, TRAP, BRK and YIELD (R122, R173, R387): the thread ends, and its open proposal and the flags of its matrix commands are
discarded; it takes a trap of kind 4 with
N and the value of A, or of kind 5 with N; it is not ready for 64 cycles.

The words of tandem mode (R396, R401, R403): each goes on once its rendezvous is complete; TBEGIN in tandem mode, and TCHK and
TEND outside it, are Illegal Instruction. -/
def Obligations.ExitTrapAndTandemWords : Prop :=
  (∀ (a : BitVec 6) (n : BitVec 8) (s : State) (l : Lane),
      let ends := fun (s : State) =>
        { s with mxDone := s.mxDone.filter fun m => !(m.gid == l.g.gid && m.tid == l.cur.tid) }.updLane l
          fun t => { t with st := .exited, popen := false, mflags := 0 }
      (Issues .exit l s → l.g.role = .solo → CompletesAndWakes .exit l s ends)
      ∧ (Issues .exit l s → (l.grant s).isSome = true → CompletesAndWakes .exit l s ends)
      ∧ (Issues (.trap a n) l s → Completes (.trap a n) l s fun s => s.takeTrap l.g.gid l.cur.tid 4 n.toNat (l.src.reg a.toNat))
      ∧ (Issues (.brk n) l s → Completes (.brk n) l s fun s => s.takeTrap l.g.gid l.cur.tid 5 n.toNat 0)
      ∧ (Issues .yield l s → Completes .yield l s fun s => s.updLane l fun t => { t with st := .yielding (s.cycle + 64) }))
  ∧ (∀ (s : State) (l : Lane),
      (Issues .tbegin l s → (l.grant s).isSome = true → Completes .tbegin l s fun s => s)
      ∧ (Issues .tchk l s → (l.grant s).isSome = true → Completes .tchk l s fun s => s)
      ∧ (Issues .tend l s → (l.grant s).isSome = true → Completes .tend l s fun s => s)
      ∧ (Issues .tbegin l s → l.grant s = none → exec .tbegin s = .next (s.stopLane l.cur.tid (if l.g.role = .solo then .park .tbegin else .trap 1 0 0)))
      ∧ (Issues .tchk l s → l.grant s = none → exec .tchk s = .next (s.stopLane l.cur.tid (if l.g.role = .solo then .trap 1 0 0 else .park (.rendezvous 0))))
      ∧ (Issues .tend l s → l.grant s = none → exec .tend s = .next (s.stopLane l.cur.tid (if l.g.role = .solo then .trap 1 0 0 else .park (.rendezvous 1)))))

/-- WAIT, MWAIT, ERRQ and FENCE complete once what they wait for has come (R173, R219, R257, R258, R387):
WAIT once every class count is at most its field, or its field is 15, and MWAIT once no matrix command of the thread is
left, both merging the flags of the thread's matrix commands; ERRQ, once nothing of the thread is outstanding and every
record is accepted, writes the context's count of records; FENCE once its waits have ended. Before that each of them parks or stands.

What they wait for: no matrix command that the thread has joined; no record of the thread, as the one that caused it or one of those
that share it, that is not accepted; and for a fence what R219 lists, which is also enough where no other thread has a store or completion time that the fence must wait for
(those it waits for are the model's reading of R213 and R214, log 86).

The barriers (R123, R124, R126): a thread that was released goes past its barrier; one that arrives before the others
stands parked at the next instance; and the group barrier releases every live thread when the last arrives, no load of
theirs is outstanding and none of them has an entry in the side log. -/
def Obligations.WaitingAndBarrierWords : Prop :=
  (∀ (c : BitVec 1) (d : BitVec 6) (k1 k2 k3 k4 : BitVec 4) (sc : BitVec 3) (m n : BitVec 6) (s : State) (l : Lane),
      let s0 := s.advanced l
      let le := fun (x : Nat) (k : BitVec 4) => k = 15 ∨ x ≤ k.toNat
      let counts := le l.src.nLoad k1 ∧ le l.src.nStore k2 ∧ le l.src.nCopy k3 ∧ le l.src.nTile k4
      let still := l.src.nLoad = 0 ∧ l.src.nStore = 0 ∧ l.src.nCopy = 0 ∧ l.src.nTile = 0 ∧ s0.recordsAccepted l.g.gid l.cur.tid = true
      let f := s0.fenceOf l.src sc.toNat m.toNat n.toNat
      (Issues (.wait k1 k2 k3 k4) l s → counts → Completes (.wait k1 k2 k3 k4) l s fun s => s.mergeMx l.g.gid l.cur.tid)
      ∧ (Issues (.wait k1 k2 k3 k4) l s → ¬counts →
        exec (.wait k1 k2 k3 k4) s = .next (s.stopLane l.cur.tid (.park (.waitCtr k1.toNat k2.toNat k3.toNat k4.toNat))))
      ∧ (Issues (.mwait c) l s → s0.mxIdle l.g.gid l.cur.tid = true → Completes (.mwait c) l s fun s => s.mergeMx l.g.gid l.cur.tid)
      ∧ (Issues (.errq d) l s → still → Completes (.errq d) l s fun s =>
          s.updLane l fun t => t.setReg d.toNat (BitVec.ofNat 32 (((s0.ctx? l.g.asid).map (·.ecount)).getD 0)))
      ∧ (Issues (.mwait c) l s → s0.mxIdle l.g.gid l.cur.tid = false → exec (.mwait c) s = .next (s.stopLane l.cur.tid (.park .mwait)))
      ∧ (Issues (.errq d) l s → ¬still → exec (.errq d) s = .next (s.stopLane l.cur.tid (.park (.errq d.toNat))))
      ∧ (Issues (.fence c sc m n) l s → s0.fenceDone l.g l.src f = true → Completes (.fence c sc m n) l s fun s => s)
      ∧ (Issues (.fence c sc m n) l s → s0.fenceDone l.g l.src f = false → exec (.fence c sc m n) s = .next (s.stopLane l.cur.tid (.fence f)))
      ∧ ∀ (t : State) (gid tid : Nat) (g : Group) (x : Thread) (w : FenceWait),
        let names := fun (k : Nat) => w.pa / 2 ^ k % 2 = 1
        let thread := names 0 ∨ (w.pa = 0 ∧ w.pb = 0)
        let alike := (w.pa = 0 ∧ w.pb = 0) ∨ (w.pa = 1 ∧ w.pb = 1)
        let time := if ((t.span? g.sid).map Span.oneDie).getD false = true ∧ w.scope = 1 then x.lw else x.gw
        let own := (thread ∨ names 3 → x.nLoad = 0) ∧ (names 3 → ∀ o ∈ t.fieldOps, o.gid = g.gid → o.tid ≠ x.tid) ∧ t.logOpen g.gid x.tid = false
          ∧ (1 ≤ w.scope ∨ ¬alike → x.nStore = 0) ∧ (1 ≤ w.scope → time < t.tsc)
          ∧ (3 ≤ w.scope → ∀ c ∈ t.linkCmds, c.gid = some g.gid → x.tid ∉ c.tids)
        (t.mxIdle gid tid = true ↔ ∀ c ∈ t.mxs, c.gid = gid → tid ∉ c.tids)
        ∧ (t.recordsAccepted gid tid = true ↔ ∀ e ∈ t.errors, e.gid = some gid → (e.tid = 0xFFFF ∨ e.tid = tid ∨ tid ∈ e.tids) → e.accepted = true)
        ∧ (t.fenceDone g x w = true → own)
        ∧ (own → (∀ a ∈ t.accs, a.cls ≠ 1) → t.tandems = [] → t.owed = [] → t.fenceDone g x w = true))
  ∧ (∀ (w h : BitVec 4) (s : State) (l : Lane),
      let arrived := s.stopLane l.cur.tid (.park (.barG (l.src.barG + 1)))
      (Issues .barG l s → (l.grant s).isSome = true → CompletesAndWakes .barG l s fun s => s)
      ∧ (Issues (.barS w h) l s → (l.grant s).isSome = true → CompletesAndWakes (.barS w h) l s fun s => s)
      ∧ (Issues .barG l s → l.grant s = none → exec .barG s = .next (arrived.settleGroup s.issue.gid))
      ∧ (Issues (.barS w h) l s → l.grant s = none → (∃ x, s.span? l.g.sid = some x ∧ 2 ^ w.toNat ≤ x.w ∧ 2 ^ h.toNat ≤ x.h) →
        exec (.barS w h) s = .next ((s.stopLane l.cur.tid (.park (.barS (l.src.barS + 1) w.toNat h.toNat))).settleGroup s.issue.gid))
      ∧ (Issues .barG l s → l.grant s = none → s.issue.alone = true → (l.g.threads.map (·.tid)).Nodup → l.src = l.cur → l.cur.st = .ready →
        (∀ u ∈ l.g.threads, u.tid ≠ l.cur.tid → u.st = .exited ∨ (u.st = .parked (.barG (l.cur.barG + 1)) ∧ u.barG = l.cur.barG)) →
        (∀ u ∈ l.g.threads, u.nLoad = 0 ∧ s.logOpen s.issue.gid u.tid = false) →
        ∃ t, exec .barG s = .next t ∧ ∀ u ∈ l.g.threads, u.st ≠ .exited →
          ∃ v, t.thread? s.issue.gid u.tid = some v ∧ v.st = .ready ∧ v.barG = l.cur.barG + 1))

/-- The eleven lane-exchange words write the result that their set gave (R41, R128). -/
def Obligations.LaneExchangeWords : Prop :=
  ∀ (c : BitVec 1) (d a b : BitVec 6) (s : State) (l : Lane) (ws : List Word), l.grant s = some ws →
    let gives := fun (i : Instr) => Issues i l s → CompletesAndWakes i l s fun s => s.updLane l fun t => t.setWords d.toNat ws
    gives (.xchPair c d a) ∧ gives (.xchQx1 c d a) ∧ gives (.xchQx2 c d a) ∧ gives (.shfl c d a b) ∧ gives (.shflx c d a b)
    ∧ gives (.voteany c d a) ∧ gives (.voteall c d a) ∧ gives (.ballot c d a) ∧ gives (.redadd c d a) ∧ gives (.redmin c d a)
    ∧ gives (.redmax c d a)

/-- A convergence point completes when the last live member of its set arrives (R127, R128): if every other member of the set
of the issuing thread has ended, or stands parked at the same word at the same packet and slot, then the word as it
issues gives every arrived member its own result, which the member's word, the values that the members read from A, zero for a member that has
ended and for an index that is no member, and the member's own B make up (R129, R130). -/
def Obligations.LaneExchangeCompletes : Prop :=
  ∀ (c : BitVec 1) (d a b : BitVec 6) (s : State) (l : Lane), l.grant s = none → s.issue.alone = true → l.g.role = .solo
    → (l.g.threads.map (·.tid)).Nodup →
    let val := fun (g : Group) (u : Nat) => (((g.thread? u).bind Thread.arrived).map (·.2.2.1)).getD (0 : Word)
    let members := fun (g : Group) (t : Nat) => g.threads.filter fun u => u.tid / 32 == t / 32
    let completes := fun (i : Instr) (op : Nat) (vb : Nat) (gives : Group → Nat → Word → Word → Prop) =>
      Issues i l s →
      let s1 := s.stopLane l.cur.tid (.park (.converge op d.toNat (l.src.reg a.toNat) (l.src.reg vb) (l.src.anyPoison [a.toNat])))
      ∀ g, s1.group? s.issue.gid = some g →
        (∀ u ∈ g.setOf op l.cur.tid, u.st = .exited ∨ (u.pc = l.cur.pc ∧ u.arrived.map (·.1) = some op)) →
        ∃ t, exec i s = .next t ∧ ∀ u ∈ g.setOf op l.cur.tid, ∀ x, u.arrived = some x →
          ∃ r, gives g u.tid x.2.2.2.1 r ∧ t.thread? s.issue.gid u.tid
            = ((s1.deliver s.issue.gid u.tid x.2.1 [r] (exchangeEnters op u.tid x.2.2.2.1 (g.setOf op u.tid))).thread? s.issue.gid u.tid).map Thread.synced
    completes (.xchPair c d a) 0 0 (fun g t _ r => r = val g (t ^^^ 1))
    ∧ completes (.xchQx1 c d a) 1 0 (fun g t _ r => r = val g (t ^^^ 2))
    ∧ completes (.xchQx2 c d a) 2 0 (fun g t _ r => r = val g (t ^^^ 3))
    ∧ completes (.shfl c d a b) 3 b.toNat (fun g t v r => r = val g (32 * (t / 32) + v.toNat % 32))
    ∧ completes (.shflx c d a b) 4 b.toNat (fun g t v r => r = val g (t ^^^ (v.toNat % 32)))
    ∧ completes (.voteany c d a) 5 0 (fun g t _ r => r = if ∃ u ∈ members g t, val g u.tid ≠ 0 then 1 else 0)
    ∧ completes (.voteall c d a) 6 0 (fun g t _ r => r = if ∀ u ∈ members g t, u.st ≠ .exited → val g u.tid ≠ 0 then 1 else 0)
    ∧ completes (.ballot c d a) 7 0 (fun g t _ r => ∀ j, j < 32 → r.getLsbD j = (val g (32 * (t / 32) + j) != 0))
    ∧ completes (.redadd c d a) 8 0 (fun g t _ r => r = ((members g t).map fun u => val g u.tid).foldl (· + ·) 0)
    ∧ completes (.redmin c d a) 9 0 (fun g t _ r => (∃ u ∈ members g t, r = val g u.tid) ∧ ∀ u ∈ members g t, r.sle (val g u.tid) = true)
    ∧ completes (.redmax c d a) 10 0 (fun g t _ r => (∃ u ∈ members g t, r = val g u.tid) ∧ ∀ u ∈ members g t, (val g u.tid).sle r = true)

/-! ### System values, uniform registers and locality (R15, R115-R118) -/

/-- USET writes a uniform register of the group once for the pack, with the value of the thread that acts first; SYSV writes the value
that its selector names; LOCQ writes nothing yet and puts HOME, SELF and HOPS of the address on their way, as the
translation stands, by the distances of the dies (R115, R116, R117, R118, R280). -/
def Obligations.SystemAndUniformWords : Prop :=
  ∀ (c : BitVec 1) (d a : BitVec 6) (sel : BitVec 5) (s : State) (l : Lane),
    let sp := s.span? l.g.sid
    let va := l.src.group a.toNat 2
    let self := coreDie l.g.core
    let home := match (s.advanced l).translate l.g.core self l.g.asid va {} with
      | .ok t => if t.dev then 6 else if t.host.isSome then 0 else t.home
      | .error _ => 7
    let hops := if home = 7 then 0xFF else if home = 0 ∨ home = 6 then 1 else if home = self then 0 else if home + self = 5 then 2 else 1
    let value : Nat := match sel.toNat with
      | 0 => l.cur.tid
      | 1 => l.g.grp
      | 2 => (sp.map (·.n)).getD 0
      | 3 => l.g.gsz
      | 4 => (sp.map fun x => x.x0 + 256 * x.y0).getD 0
      | 5 => (sp.map fun x => x.w + 256 * x.h).getD 0
      | 6 => coreX l.g.core + 256 * coreY l.g.core + 65536 * coreDie l.g.core + 16777216 * coreNum l.g.core
      | 7 => l.cur.tid / 64 % 4
      | 8 => (l.g.leaf.map (·.x.toNat)).getD 0x7FFFFFFF
      | 9 => (l.g.leaf.map (·.y.toNat)).getD 0x7FFFFFFF
      | 10 => (l.g.leaf.map (·.z.toNat)).getD 0x7FFFFFFF
      | _ => s.tsc
    (Issues (.uset c d a) l s → s.issue.usetDone = false → d ≠ 0 → Completes (.uset c d a) l s fun s =>
      { s.updGroup l.g.gid fun g =>
          { g with
            uregs := g.uregs.setIfInBounds d.toNat (l.src.reg a.toNat)
            upoison := putBit g.upoison d.toNat (l.src.anyPoison [a.toNat]), uparity := putBit g.uparity d.toNat false
            utaken := putBit g.utaken d.toNat false
            upva := (if l.src.anyPoison [a.toNat] then [(d.toNat, l.src.poisonVa a.toNat)] else []) ++ g.upva.filter fun x => x.1 != d.toNat } with
        issue := { s.issue with usetDone := true } })
    ∧ (Issues (.uset c d a) l s → s.issue.usetDone = false → d = 0 → Completes (.uset c d a) l s fun s =>
        { s.updGroup l.g.gid id with issue := { s.issue with usetDone := true } })
    ∧ (Issues (.uset c d a) l s → s.issue.usetDone = true → Completes (.uset c d a) l s fun s => s)
    ∧ (Issues (.sysv c d sel) l s → l.g.role = .solo → Completes (.sysv c d sel) l s fun s =>
        s.updLane l fun t => t.setGroup d.toNat (if sel.toNat = 11 then 2 else 1) value)
    ∧ (Issues (.locq c d a) l s → l.g.role = .solo → l.consume [a.toNat, a.toNat + 1] = .ok false → ∃ t acc,
        exec (.locq c d a) s = .next t ∧ t.accs = s.accs ++ [acc] ∧ acc.phase = .done ∧ acc.kind = .locq ∧ acc.dst = d.toNat
        ∧ acc.gid = l.g.gid ∧ acc.tid = l.cur.tid ∧ acc.result = home + 256 * self + 65536 * hops ∧ s.sameMemory t
        ∧ ∃ x, t.thread? s.issue.gid l.cur.tid = some x ∧ (d = 0 ∨ x.pend.getLsbD d.toNat = true) ∧ ∀ n, x.reg n = l.cur.reg n)

/-! ### The memory words (R60-R66, R210, R217, R225, R227, R233-R237, R251-R256, R259) -/

/-- The loads, stores and atomics of the thread path, and the future words that only write (R236, R251-R254, R256): the access
of each, by its operand fields.

An atomic or future word whose address is not a multiple of its size takes the alignment fault, and its access
does not begin (R233, R382). -/
def Obligations.MemoryAccessWords : Prop :=
  (∀ (c : BitVec 1) (d a b : BitVec 6) (z : BitVec 3) (p sc : BitVec 2) (o : BitVec 8) (op : BitVec 5) (y : BitVec 1),
      op.toNat % 16 ≤ 13 → z.toNat ≤ 7 →
      let bytes : Nat := match z.toNat with | 0 => 1 | 1 => 1 | 2 => 2 | 3 => 2 | 4 => 4 | 5 => 8 | 6 => 16 | _ => 32
      let regs := match z.toNat with | 5 => 2 | 6 => 4 | 7 => 8 | _ => 1
      let ea := fun (l : Lane) => (BitVec.ofNat 64 (l.src.group a.toNat 2) + BitVec.ofInt 64 (o.toInt * bytes)).toNat
      let at_ := fun (l : Lane) => l.src.group a.toNat 2
      let w := if op.toNat < 16 then 1 else 2
      let k := 2 ^ y.toNat
      let pair := [a.toNat, a.toNat + 1]
      AccessWord (.ld c d a z p o) (fun l =>
        { kind := .load (z == 1 || z == 3), ea := ea l, size := bytes, cp := p.toNat, dst := d.toNat, dcnt := regs, need := { r := true }, facc := 0, addrRegs := pair })
      ∧ AccessWord (.st c d a z p o) (fun l =>
        { kind := .store, ea := ea l, size := bytes, cp := p.toNat, data := l.src.group d.toNat regs % 256 ^ bytes, cls := 1, noret := true
          need := { w := true }, facc := 1, addrRegs := pair, dataRegs := (List.range regs).map (d.toNat + ·) })
      ∧ AccessWord (.atom c d a b sc op) (fun l =>
        { kind := .rmw (op.toNat % 16), ea := at_ l, size := 4 * w, data := l.src.group b.toNat w, scope := sc.toNat, dst := d.toNat, dcnt := w
          need := { r := true, w := true }, facc := 2, align := 4 * w, addrRegs := pair, dataRegs := (List.range w).map (b.toNat + ·) })
      ∧ AccessWord (.red c a b sc op) (fun l =>
        { kind := .rmw (op.toNat % 16), ea := at_ l, size := 4 * w, data := l.src.group b.toNat w, scope := sc.toNat, cls := 1, noret := true
          need := { w := true }, facc := 2, align := 4 * w, addrRegs := pair, dataRegs := (List.range w).map (b.toNat + ·) })
      ∧ AccessWord (.cas c d a b sc y) (fun l =>
        { kind := .cas, ea := at_ l, size := 4 * k, data := l.src.group b.toNat k, data2 := l.src.group (b.toNat + k) k, scope := sc.toNat, dst := d.toNat
          dcnt := k, need := { r := true, w := true }, facc := 2, align := 4 * k, addrRegs := pair, dataRegs := (List.range (2 * k)).map (b.toNat + ·) })
      ∧ AccessWord (.amax c a b sc) (fun l =>
        { kind := .amax, ea := at_ l, size := 4, data := (l.src.reg b.toNat).toNat, scope := sc.toNat, cls := 1, noret := true, need := { w := true }
          facc := 2, align := 4, addrRegs := pair, dataRegs := [b.toNat] })
      ∧ AccessWord (.amaxrs c d a sc) (fun l =>
        { kind := .amaxrs, ea := at_ l, size := 4, scope := sc.toNat, dst := d.toNat, dcnt := 1, need := { r := true, w := true }, facc := 2, align := 4, addrRegs := pair })
      ∧ AccessWord (.stFut c a b) (fun l =>
        { kind := .stFut, ea := at_ l, size := 8, data := l.src.group b.toNat 2, cls := 1, noret := true, need := { w := true }, facc := 1, align := 8
          addrRegs := pair, dataRegs := [b.toNat, b.toNat + 1] })
      ∧ AccessWord (.clrFut c a) (fun l =>
        { kind := .clrFut, ea := at_ l, size := 8, cls := 1, noret := true, need := { w := true }, facc := 1, align := 8, addrRegs := pair }))
  ∧ (∀ (c : BitVec 1) (d a b : BitVec 6) (sc : BitVec 2) (op : BitVec 5) (y : BitVec 1) (s : State) (l : Lane),
      let ea := l.src.group a.toNat 2
      let clean := fun (rs : List Nat) => l.src.anyPoison rs = false
      let room := l.cur.nLoad < 63 ∧ l.cur.nStore < 63 ∧ clean [a.toNat, a.toNat + 1] ∧ l.g.role = .solo
      let faults := fun (i : Instr) (n acc : Nat) => Issues i l s → ea % n ≠ 0 →
        exec i s = .next (s.stopLane l.cur.tid (.fault (BitVec.ofNat 64 ea) fkAlign acc))
      let w := if op.toNat < 16 then 1 else 2
      room → clean ((List.range 8).map (b.toNat + ·)) →
        faults (.atom c d a b sc op) (4 * w) 2 ∧ faults (.red c a b sc op) (4 * w) 2 ∧ faults (.cas c d a b sc y) (4 * 2 ^ y.toNat) 2
        ∧ faults (.amax c a b sc) 4 2 ∧ faults (.amaxrs c d a sc) 4 2 ∧ faults (.stFut c a b) 8 1 ∧ faults (.clrFut c a) 8 1
        ∧ faults (.ldFut c d a b) 8 0)

/-- LD.FUT and WAITU (R225, R227, R256, R259). On a page that is not marked FUTURE, and on host memory, the device page or a
future page, they answer status 2 at once; else the thread parks after its chain, LD.FUT with its access to the cell on
its way, WAITU for its monitor with an entry that carries comparison, operand and timeout on its way to the word's home. That LD.FUT parks also where its cell is full,
and the status on pages of other kinds, are the model's choice, log 33. -/
def Obligations.FutureLoadAndMonitorWords : Prop :=
  ∀ (c : BitVec 1) (d a b : BitVec 6) (m : BitVec 3) (z : BitVec 1) (s : State) (l : Lane) (x : Trans) (ps : List (Trans × Nat)),
    let ea := l.src.group a.toNat 2
    let n := 4 * 2 ^ z.toNat
    let clean := l.consume [a.toNat, a.toNat + 1] = .ok false
    let ok := l.cur.nLoad < 63 ∧ clean
    let at_ := fun (n : Nat) => (s.advanced l).translateAll l.g.core (coreDie l.g.core) l.g.asid ea n { r := true }
    (Issues (.ldFut c d a b) l s → ok → ea % 8 = 0 → at_ 8 = .ok ps → ps.any (fun p => !p.1.fut) = true →
      Completes (.ldFut c d a b) l s fun s => s.updLane l fun t => t.setReg b.toNat 2)
    ∧ (Issues (.ldFut c d a b) l s → ok → ea % 8 = 0 → at_ 8 = .ok ps → ps.any (fun p => !p.1.fut) = false → ∃ t acc,
      exec (.ldFut c d a b) s = .next t ∧ t.accs = s.accs ++ [acc] ∧ acc.kind = .ldFut ∧ acc.parts = partsOf ps ea 8 ∧ acc.dst = d.toNat
      ∧ acc.streg = b.toNat ∧ acc.gid = l.g.gid ∧ acc.tid = l.cur.tid ∧ s.sameMemory t
      ∧ (l.cur.raised = 0 ∨ s.issue.last = false ∨ s.issue.alone = true →
          ∃ y, t.thread? s.issue.gid l.cur.tid = some y ∧ y.st = .parked (.future d.toNat b.toNat (BitVec.ofNat 64 ea)) ∧ y.nLoad = l.cur.nLoad + 1))
    ∧ (Issues (.waitu c d a b m z) l s → clean → ea % n = 0 → at_ n = .ok ((x, n) :: ps) → (x.host.isSome || x.dev || x.fut) = true →
      Completes (.waitu c d a b m z) l s fun s => s.updLane l fun t => t.setReg d.toNat 2)
    ∧ (Issues (.waitu c d a b m z) l s → clean → ea % n = 0 → at_ n = .ok ((x, n) :: ps) → (x.host.isSome || x.dev || x.fut) = false → ∃ t e,
      exec (.waitu c d a b m z) s = .next t ∧ t.monitors = s.monitors ++ [e] ∧ e.pa = x.pa ∧ e.die = x.home ∧ e.wide = (z == 1) ∧ e.cmp = m.toNat
      ∧ e.opnd.toNat = l.src.group b.toNat (2 ^ z.toNat) ∧ e.timeout = (l.src.reg (b.toNat + 2 ^ z.toNat)).toNat ∧ e.inserted = false ∧ e.queued = false
      ∧ e.who = .thread l.g.gid l.cur.tid ∧ e.dst = d.toNat ∧ e.shadow = l.src.popen ∧ s.sameMemory t
      ∧ (l.cur.raised = 0 ∨ s.issue.last = false ∨ s.issue.alone = true →
          ∃ y, t.thread? s.issue.gid l.cur.tid = some y ∧ y.st = .parked (.monitor d.toNat) ∧ y.regs = l.cur.regs))

/-! ### Tiles (R222, R223, R238-R250) -/

/-- The words that read and write a word of a tile (R222, R239, R240). Each names word (w[A], w[B]) of the tile of its handle. LDT reads;
LDT.WF reads a full word (a word with the poison mark comes as a load's value does, R383); LDT.WFE reads a full word and sets it empty; STT writes and sets full; STT.WE does so to an empty word;
STT.RAW writes and leaves the bit; STT and STT.WE act once a fence of the tile's scope would complete (R224); after a change of a bit the waiters of the word are served. A word whose condition
is false parks the thread; a handle that is not allocated and a word outside the tile take the tile access trap; a tile of level 1 is
Illegal Instruction. That STT writes a poisoned value with its mark, without consuming it, is the model's choice, log 38. -/
def Obligations.TileWords : Prop :=
  ∀ (c : BitVec 1) (d : BitVec 6) (h : BitVec 5) (a b : BitVec 6) (s : State) (l : Lane) (t : Tile),
    let r := (l.src.reg a.toNat).toNat
    let k := (l.src.reg b.toNat).toNat
    let w := r * t.rw + k
    let idle := l.grant s = none ∧ l.cur.nLoad < 63 ∧ l.cur.nStore < 63 ∧ l.consume [a.toNat, b.toNat] = .ok false
    let named := (s.advanced l).handle? l.g h.toNat = some t ∧ t.level ≠ 1 ∧ r < t.rows ∧ k < t.rw ∧ t.unfilled r = false
    let fence := (s.advanced l).fenceDone l.g l.src ((s.advanced l).fenceOf l.src (if t.level = 2 then 1 else 0) 1 1) = true
    let clean := t.poison.contains w = false
    let reads := fun (s : State) => s.updLane l fun th => th.setReg d.toNat (t.word w)
    let v := l.src.reg d.toNat
    let p := l.src.anyPoison [d.toNat]
    let full := t.full.contains w
    let trap : State := s.stopLane l.cur.tid (.trap 3 0 0)
    idle →
      (named → clean → Issues (.ldt c d h a b) l s → Completes (.ldt c d h a b) l s reads)
      ∧ (named → clean → full = true → Issues (.ldtWf c d h a b) l s → Completes (.ldtWf c d h a b) l s reads)
      ∧ (named → clean → full = true → Issues (.ldtWfe c d h a b) l s → Completes (.ldtWfe c d h a b) l s fun s =>
          ((reads s).updTile t.uid fun t => { t with full := t.full.filter (· != w) }).serve t.uid w)
      ∧ (named → ¬clean → Issues (.ldt c d h a b) l s → Completes (.ldt c d h a b) l s fun s => s.lateValue l d.toNat (t.word w))
      ∧ (named → ¬clean → full = true → Issues (.ldtWf c d h a b) l s → Completes (.ldtWf c d h a b) l s fun s => s.lateValue l d.toNat (t.word w))
      ∧ (named → fence → Issues (.stt c d h a b) l s → Completes (.stt c d h a b) l s fun s =>
          (s.updTile t.uid fun t => let t := t.setWord w v p; { t with full := insertNat w t.full }).serve t.uid w)
      ∧ (named → fence → full = false → Issues (.sttWe c d h a b) l s → Completes (.sttWe c d h a b) l s fun s =>
          (s.updTile t.uid fun t => let t := t.setWord w v p; { t with full := insertNat w t.full }).serve t.uid w)
      ∧ (named → Issues (.sttRaw c d h a b) l s → Completes (.sttRaw c d h a b) l s fun s => (s.updTile t.uid fun t => t.setWord w v p).serve t.uid w)
      ∧ (named → full = false → Issues (.ldtWf c d h a b) l s →
          exec (.ldtWf c d h a b) s = .next (s.stopLane l.cur.tid (.park (.tileWord t.uid w .full d.toNat))))
      ∧ (named → full = false → Issues (.ldtWfe c d h a b) l s →
          exec (.ldtWfe c d h a b) s = .next (s.stopLane l.cur.tid (.park (.tileWord t.uid w .fullEmpty d.toNat))))
      ∧ (named → fence → full = true → Issues (.sttWe c d h a b) l s →
          exec (.sttWe c d h a b) s = .next (s.stopLane l.cur.tid (.park (.tileWord t.uid w (.empty v p) 0))))
      ∧ ∀ i : Instr, i ∈ [Instr.ldt c d h a b, .ldtWf c d h a b, .ldtWfe c d h a b, .stt c d h a b, .sttWe c d h a b, .sttRaw c d h a b] → Issues i l s →
        ((s.advanced l).handle? l.g h.toNat = none → exec i s = .next trap)
        ∧ ((s.advanced l).handle? l.g h.toNat = some t → t.level ≠ 1 → (t.rows ≤ r ∨ t.rw ≤ k) → exec i s = .next trap)
        ∧ ((s.advanced l).handle? l.g h.toNat = some t → t.level = 1 → exec i s = .next (s.stopLane l.cur.tid (.trap 1 0 0)))

/-- A tile's words and their full bits (R222, R223): a write is what the next read of the word gives, and moves no other word; and
when a word that a waiting LDT.WFE is first to wait for becomes full, that thread gets its value and the word is empty again. -/
def Obligations.TileWordReadAfterWrite : Prop :=
  (∀ (t : Tile) (w : Nat) (v : Word) (p : Bool), (t.setWord w v p).word w = v ∧ (∀ x, x ≠ w → (t.setWord w v p).word x = t.word x)
    ∧ (t.setWord w v p).full = t.full)
  ∧ ∀ (s : State) (t : Tile) (w gid tid n dst : Nat) (rest : List (Nat × Nat × Nat × TileWant × Nat)),
      s.tile? t.uid = some t → t.full.contains w = true → s.wordWaiters t.uid w = (gid, tid, n, .fullEmpty, dst) :: rest →
      ∃ k, s.serve t.uid w = (((s.deliver gid tid dst [t.word w] (entering (t.poison.contains w) 0)).updTile t.uid fun t => t.setFull w false).serveWord t.uid w k)

/-- The words that manage tiles write their status (R242-R250): 0 with their effect, or the code of what is wrong, with none. TALLOC
gives the handle a fresh tile of the shape; TFREE and TFLUSH of a bound or held tile begin an operation whose status comes when it
completes; TBIND binds; TRING makes a ring; TSETFE sets every bit and serves the waiters; TARRT sets the target and clears the count. That TBIND and TRING report SHAPE before
BUSY is the model's choice, log 81.

TALLOC gives a fresh tile where the handle is free, the shape lies in the map of R242 and the level has room (R242): the group
holds it under the handle, and it is empty, unbound, no ring, with zero counts.

WAITA, TINFO, RACQ and RREL (R221, R247, R248, R249). WAITA answers 0 for a satisfied generation and else the failure code, and parks
where neither holds. TINFO writes the four words of its page, zeros for a handle that is not allocated. RACQ reserves the next
sequence of its role, or parks; RREL releases one, and gives BADSEQ for one that is not reserved. The zeros of TINFO for a tile that is no ring, and NOTRING whatever the role, are the model's choice, log 81. -/
def Obligations.TileManagementWords : Prop :=
  (∀ (c : BitVec 1) (d : BitVec 6) (h : BitVec 5) (a : BitVec 6) (s : State) (l : Lane) (g : Group) (t : Tile), l.cur.nTile < 63 →
      let put := fun (st : Nat) (s : State) => s.updLane l fun t => t.setReg d.toNat (BitVec.ofNat 32 st)
      let s0 := s.advanced l
      let has := s0.handle? l.g h.toNat = some t
      let none_ := s0.handle? l.g h.toNat = none
      let n := (l.src.reg a.toNat).toNat
      let base := l.src.group a.toNat 2
      let pitch := (l.src.reg (a.toNat + 2)).toNat
      let bindShape := t.ring = none ∧ t.level ≠ 1 ∧ base % 4 = 0 ∧ pitch % 4 = 0 ∧ t.rw * 4 ≤ pitch ∧ l.src.reg (a.toNat + 3) = 0
      let ringShape := t.bind = none ∧ t.level ≠ 1 ∧ (n = 0 ∨ (2 ≤ n ∧ n ≤ 64 ∧ t.rows % n = 0))
      (Issues (.talloc c d h a) l s → s0.group? l.g.gid = some g → Completes (.talloc c d h a) l s fun s =>
        let r := s.allocTile g h.toNat (l.src.reg a.toNat) (l.src.reg (a.toNat + 1))
        put r.1 r.2)
      ∧ (Issues (.tfree c d h) l s → has → Completes (.tfree c d h) l s fun s => beginTileOp l t d.toNat h.toNat true s)
      ∧ (Issues (.tfree c d h) l s → none_ → Completes (.tfree c d h) l s (put 2))
      ∧ (Issues (.tflush c d h) l s → has → t.bind ≠ none → Completes (.tflush c d h) l s fun s => beginTileOp l t d.toNat h.toNat false s)
      ∧ (Issues (.tflush c d h) l s → has → t.bind = none → Completes (.tflush c d h) l s (put 0))
      ∧ (Issues (.tflush c d h) l s → none_ → Completes (.tflush c d h) l s (put 2))
      ∧ (Issues (.tbind c d h a) l s → none_ → Completes (.tbind c d h a) l s (put 2))
      ∧ (Issues (.tbind c d h a) l s → has → ¬bindShape → Completes (.tbind c d h a) l s (put 4))
      ∧ (Issues (.tbind c d h a) l s → has → bindShape → t.bind = none → s0.tileBusy t.uid = false → Completes (.tbind c d h a) l s fun s =>
          put 0 (s.updTile t.uid fun t => { t with bind := some (BitVec.ofNat 64 base, pitch), filled := [], dirty := [] }))
      ∧ (Issues (.tbind c d h a) l s → has → bindShape → (t.bind ≠ none ∨ s0.tileBusy t.uid = true) → Completes (.tbind c d h a) l s (put 6))
      ∧ (Issues (.tring c d h a) l s → has → ringShape → s0.tileBusy t.uid = false → Completes (.tring c d h a) l s fun s =>
          put 0 ((s.updTile t.uid fun t => { t with ring := if n = 0 then none else some { slots := n } }).serveRing t.uid))
      ∧ (Issues (.tring c d h a) l s → has → ¬ringShape → Completes (.tring c d h a) l s (put 4))
      ∧ (Issues (.tring c d h a) l s → has → ringShape → s0.tileBusy t.uid = true → Completes (.tring c d h a) l s (put 6))
      ∧ (Issues (.tsetfe c d h a) l s → has → n ≤ 1 → Completes (.tsetfe c d h a) l s fun s =>
          let all := List.range (t.rows * t.rw)
          put 0 (all.foldl (fun s w => s.serve t.uid w) (s.updTile t.uid fun t => { t with full := if n = 1 then all else [] })))
      ∧ (Issues (.tarrt c d h a) l s → has → base < 2 ^ 63 → Completes (.tarrt c d h a) l s fun s =>
          put 0 (s.updTile t.uid fun t => { t with target := BitVec.ofNat 64 base, count := 0 }))
      ∧ (Issues (.tarrt c d h a) l s → has → 2 ^ 63 ≤ base → Completes (.tarrt c d h a) l s (put 4)))
  ∧ (∀ (s : State) (g : Group) (h : Nat) (a b : Word),
      let rows := a.toNat % 65536
      let cols := a.toNat / 65536
      let ecode := b.toNat % 16
      let level := b.toNat / 256 % 4
      s.group? g.gid = some g → g.handles.any (fun p => p.1 == h) = false → rows ≠ 0 → cols ≠ 0 → ecode ≤ 4 → b.toNat / 16 % 16 = 0 → level ≤ 1 → b.toNat / 1024 = 0
      → s.tileUse level g.core + (rows * rowWords cols ecode 0 * 4 + 255) / 256 * 256 ≤ (if level = 0 then 512 * 1024 else 1024 * 1024) →
        (s.allocTile g h a b).1 = 0
        ∧ ((s.allocTile g h a b).2.group? g.gid).map (·.handles) = some (g.handles ++ [(h, s.nextId)])
        ∧ ∃ t, t ∈ (s.allocTile g h a b).2.tiles ∧ t.uid = s.nextId ∧ t.rows = rows ∧ t.cols = cols ∧ t.ecode = ecode ∧ t.level = level
            ∧ t.core = g.core ∧ t.full = [] ∧ t.bind = none ∧ t.ring = none ∧ t.count = 0 ∧ t.target = 0 ∧ t.gen = 0)
  ∧ (∀ (c : BitVec 1) (d : BitVec 6) (h : BitVec 5) (a : BitVec 6) (s : State) (l : Lane) (t : Tile) (r r' : Ring),
      let has := (s.advanced l).handle? l.g h.toNat = some t
      let arg := l.src.reg a.toNat
      let sat := (t.gen - arg).toNat < 2 ^ 31
      let words := fun (ws : List Word) (s : State) => s.updLane l fun th => th.setWords d.toNat ws
      let put := fun (st : Nat) (s : State) => s.updLane l fun t => t.setReg d.toNat (BitVec.ofNat 32 st)
      let role := (l.src.reg (a.toNat + 1)).toNat
      (Issues (.waita c d h a) l s → l.grant s = none → has → sat → Completes (.waita c d h a) l s (put 0))
      ∧ (Issues (.waita c d h a) l s → l.grant s = none → has → ¬sat → t.count.getLsbD 63 = true → Completes (.waita c d h a) l s fun s =>
          s.updLane l fun th => th.setReg d.toNat (t.count.setWidth 32))
      ∧ (Issues (.waita c d h a) l s → l.grant s = none → has → ¬sat → t.count.getLsbD 63 = false →
          exec (.waita c d h a) s = .next (s.stopLane l.cur.tid (.park (.arrival t.uid arg d.toNat))))
      ∧ (Issues (.tinfo c d h a) l s → l.cur.nTile < 63 → has → Completes (.tinfo c d h a) l s (words (match arg.toNat with
          | 0 => [BitVec.ofNat 32 (t.rows + t.cols * 65536),
              BitVec.ofNat 32 (t.ecode + t.planes * 16 + t.level * 256 + (if t.bind.isSome then 1024 else 0) + (if t.ring.isSome then 2048 else 0)
                + (t.ring.map (·.slots)).getD 0 * 65536), BitVec.ofNat 32 t.rw, 0]
          | 1 => [t.count.setWidth 32, (t.count >>> 32).setWidth 32, t.target.setWidth 32, (t.target >>> 32).setWidth 32]
          | 2 => [t.gen, (t.ring.map (·.prod)).getD 0, (t.ring.map (·.cons)).getD 0, (t.ring.map fun r => r.pres - r.cons).getD 0]
          | _ => [0, 0, 0, 0])))
      ∧ (Issues (.tinfo c d h a) l s → l.cur.nTile < 63 → (s.advanced l).handle? l.g h.toNat = none → Completes (.tinfo c d h a) l s (words [0, 0, 0, 0]))
      ∧ (Issues (.racq c d h a) l s → l.grant s = none → has → t.ring = some r → arg = 0 → (r.pres - r.cons).toNat < r.slots →
          Completes (.racq c d h a) l s fun s =>
            words [r.pres, 0] (s.updTile t.uid fun t => { t with ring := some { r with pres := r.pres + 1, heldP := r.heldP ++ [r.pres] } }))
      ∧ (Issues (.racq c d h a) l s → l.grant s = none → has → t.ring = some r → arg = 1 → 1 ≤ (r.prod - r.cres).toNat → (r.prod - r.cres).toNat < 2 ^ 31 →
          Completes (.racq c d h a) l s fun s =>
            words [r.cres, 0] (s.updTile t.uid fun t => { t with ring := some { r with cres := r.cres + 1, heldC := r.heldC ++ [r.cres] } }))
      ∧ (Issues (.racq c d h a) l s → l.grant s = none → has → t.ring = none → Completes (.racq c d h a) l s (words [0xFFFFFFFF, 8]))
      ∧ (Issues (.rrel c d h a) l s → l.cur.nTile < 63 → has → t.ring = some r → role ≤ 1 → r.release (role == 1) arg = some r' →
          Completes (.rrel c d h a) l s fun s => put 0 ((s.updTile t.uid fun t => { t with ring := some r' }).serveRing t.uid))
      ∧ (Issues (.rrel c d h a) l s → l.cur.nTile < 63 → has → t.ring = some r → role = 0 → r.heldP.contains arg = false →
          Completes (.rrel c d h a) l s (put 9))
      ∧ (Issues (.rrel c d h a) l s → l.cur.nTile < 63 → has → t.ring = none → Completes (.rrel c d h a) l s (put 8)))

/-! ### Engine commands (R157-R160, R166, R168, R177, R261-R264, R333, R339-R343) -/

/-- The seven words of the copy engines (R261-R264): where a core has fewer than 128 of their commands, the command is made of the
octet and the tensor identifiers, with the code of the first check that it fails, and its thread counts one copy operation.

The matrix words (R158, R160, R162, R166, R168, R177). MLOOP and MDRAIN need the rein and are Illegal Instruction without it; each is
accepted where its group has fewer than four matrix commands in flight. TAKE takes a rein that is free, goes on with one that the group holds, and else
joins the queue; PASS passes it to the head of the queue, and does nothing for a group that does not hold it.

COLL, HALO, STEP and STEPWAIT (R333, R340-R343). The first three hand their command to the collective engine and count a copy operation;
STEPWAIT goes on where no neighbour is more than the allowance behind, its core dropping its L1 copies, and parks where one is; a
command that names no configured exchange, or has a field that must be zero that is not, is recorded and the thread goes on (the codes that it is recorded with, and that the core drops its L1 copies, are the
model's choice, log 57). -/
def Obligations.EngineCommandWords : Prop :=
  (∀ (c : BitVec 1) (o : BitVec 6) (k j : BitVec 8),
      let room := fun (l : Lane) (s : State) => (s.copies.filter fun c => c.core == l.g.core && c.gid.isSome).length < 128
      let word := fun (i : Instr) (fn k k2 : Nat) => EngineWord i 2 o.toNat room
        (fun l bad s => s.makeCopy l.g.core (s.group? l.g.gid) l.g.asid fn k k2 ((List.range 8).map fun n => l.g.ureg (o.toNat + n)) bad none) joinCopy
      word (.copy c o k j) 0 k.toNat j.toNat ∧ word (.copyTl c o k) 1 k.toNat 0 ∧ word (.copyLt c o k) 2 k.toNat 0
      ∧ word (.gather c o k j) 3 k.toNat j.toNat ∧ word (.scatter c o k j) 4 k.toNat j.toNat ∧ word (.tidset c o k) 5 k.toNat 0
      ∧ word (.tidget c o k) 6 k.toNat 0)
  ∧ (∀ (c : BitVec 1) (o : BitVec 6) (k : BitVec 8),
      let few := fun (l : Lane) (s : State) => (s.mxs.filter fun m => m.gid == l.g.gid).length < 4 ∧ (s.group? l.g.gid).isSome = true
      let rein := fun (l : Lane) (s : State) => few l s ∧ (s.core l.g.core).rein = some l.g.gid
      let make := fun (fn k : Nat) (l : Lane) (bad : Bool) (s : State) =>
        s.makeMx { ((s.group? l.g.gid).getD l.g) with uregs := l.g.uregs } fn k ((List.range 8).map fun n => l.g.ureg (o.toNat + n)) bad
      EngineWord (.mloop c o) 3 o.toNat rein (make 0 0) joinMx
      ∧ EngineWord (.mdrain c o k) 3 o.toNat rein (make 1 k.toNat) joinMx
      ∧ EngineWord (.mzero c o) 3 o.toNat few (make 2 0) joinMx
      ∧ ∀ (s : State) (l : Lane),
        let holder := ((s.advanced l).core l.g.core).rein
        let queue := ((s.advanced l).core l.g.core).reinQ
        (Issues (.mloop c o) l s → l.cur.nTile < 63 → l.consumeOct o.toNat = .ok false → s.issue.cmd = none → holder ≠ some l.g.gid →
          exec (.mloop c o) s = .next (s.stopLane l.cur.tid (.trap 1 0 0)))
        ∧ (Issues (.mdrain c o k) l s → l.cur.nTile < 63 → l.consumeOct o.toNat = .ok false → s.issue.cmd = none → holder ≠ some l.g.gid →
          exec (.mdrain c o k) s = .next (s.stopLane l.cur.tid (.trap 1 0 0)))
        ∧ (Issues (.take c) l s → holder = some l.g.gid → Completes (.take c) l s fun s => s)
        ∧ (Issues (.take c) l s → holder = none → queue = [] → Completes (.take c) l s fun s => s.reinTo l.g.core l.g.gid)
        ∧ (Issues (.take c) l s → holder ≠ some l.g.gid → (holder ≠ none ∨ queue ≠ []) → exec (.take c) s = .next (s.stopLane l.cur.tid (.park .rein)))
        ∧ (Issues (.pass c) l s → holder = some l.g.gid → queue = [] → Completes (.pass c) l s fun s => s.updCore l.g.core fun c => { c with rein := none })
        ∧ (∀ g gs, Issues (.pass c) l s → holder = some l.g.gid → queue = g :: gs → Completes (.pass c) l s fun s => s.reinTo l.g.core g)
        ∧ (Issues (.pass c) l s → holder ≠ some l.g.gid → Completes (.pass c) l s fun s => s))
  ∧ (∀ (c : BitVec 1) (o : BitVec 6) (k j : BitVec 8),
      let oct := fun (l : Lane) => (List.range 8).map fun n => l.g.ureg (o.toNat + n)
      let word := fun (i : Instr) (fn k k2 : Nat) => EngineWord i 2 o.toNat (fun _ _ => True)
        (fun l bad s => s.makeLink (some l.g.gid) l.g.asid fn k k2 (oct l) bad none) joinLink
      word (.coll c o k j) 0 k.toNat j.toNat ∧ word (.halo c o) 1 0 0 ∧ word (.step c o) 2 0 0
      ∧ ∀ (s : State) (l : Lane) (e : Exch),
        let n := (l.g.ureg o.toNat).toNat
        let idle := l.grant s = none ∧ l.consumeOct o.toNat = .ok false
        let zero := (oct l).drop 1 = List.replicate 7 0
        let lead := ∀ m ∈ e.nbr.take e.nn, (e.self - m).toInt ≤ (e.lead : Int)
        let recorded := fun (code : Nat) (s : State) =>
          s.raiseErr { id := 0, asid := l.g.asid, tsc := 0, src := 0x020, kind := 9, sev := 1, code := code, grp := l.g.grp, tid := l.cur.tid
                       pc := s.issue.pc0.pkt, synd := BitVec.ofNat 128 (wordsToNat ((oct l).take 4)), gid := some l.g.gid }
        idle →
          (Issues (.stepwait c o) l s → n < 64 → zero → (s.advanced l).exch? l.g.asid n = some e → e.nn ≠ 0 → lead →
            Completes (.stepwait c o) l s fun s => { s with l1 := s.l1.filter fun x => x.core != l.g.core })
          ∧ (Issues (.stepwait c o) l s → n < 64 → zero → (s.advanced l).exch? l.g.asid n = some e → e.nn ≠ 0 → ¬lead →
            exec (.stepwait c o) s = .next (s.stopLane l.cur.tid (.park (.stepWait n))))
          ∧ (Issues (.stepwait c o) l s → n < 64 → zero → (s.advanced l).exch? l.g.asid n = some e → e.nn = 0 → Completes (.stepwait c o) l s (recorded 0x30))
          ∧ (Issues (.stepwait c o) l s → 64 ≤ n → Completes (.stepwait c o) l s (recorded 0x30))
          ∧ (Issues (.stepwait c o) l s → n < 64 → ¬zero → Completes (.stepwait c o) l s (recorded 0x34)))

/-! ### The field unit (R178-R208) -/

/-- The words that read voxels, rays and features (R193-R197, R205, R206): what each returns, on its way to its destination. VLD returns the
value, the status word of its lookup and the leaf's slot; the others what their formulas give over the lookups; an unbound slot
gives UNBOUND. The registers that a word ignores are not looked at (R190, R206). That a word reads and acts in one action as it issues, and the slot that VLD gives for an unbound set, are
the model's choice, logs 46 and 47.

VBIND and HBIND (R192, R204): a zero address unbinds the slot with OK; a misaligned address, or a descriptor that is not accepted,
unbinds it with BADDESC; an accepted one binds it for the group, and every thread of a pack gets the same answer, by the address of its
lowest thread. A tree that is being swept is bound once its sweep has ended. That a poisoned descriptor gives BADDESC with a poisoned status is the model's choice, log 47. -/
def Obligations.FieldReadAndBindWords : Prop :=
  (∀ (c : BitVec 1) (d a : BitVec 6) (sl : BitVec 3) (gs : BitVec 2) (lv : BitVec 4),
      let regs := fun (n : Nat) (_ : Lane) (_ : State) => (List.range n).map (a.toNat + ·)
      let tree := fun (l : Lane) => (l.g.walkers.find? fun p => p.1 == sl.toNat).map (·.2)
      let grid := fun (l : Lane) => (l.g.grids.find? fun p => p.1 == gs.toNat).map (·.2)
      let slotted := fun (unbound : List Word) (f : Lane → TreeDesc → State → Except FieldFault FieldDone) (l : Lane) (_ : Bool) (s : State) =>
        match tree l with | none => .ok { words := unbound, s := s } | some t => f l t s
      let none_ : Word := BitVec.ofNat 32 (1 * 2 ^ 24)
      FieldWord (.vld c d a sl) 1 d.toNat 4 0 (regs 3) [] (slotted [0, 0, none_, 0xFFFFFFFF] fun l t s =>
          let v := voxOf (l.src.reg a.toNat) (l.src.reg (a.toNat + 1)) (l.src.reg (a.toNat + 2))
          match s.lookup l.reader t v with
          | .error e => .error (e.1, e.2, 0)
          | .ok k =>
            let st := (if k.act then 1 else 0) + (if k.miss then 256 else 0) + (if k.tile then 512 else 0) + k.src * 4096
            let words := [BitVec.ofNat 32 k.val, BitVec.ofNat 32 (k.val / 2 ^ 32), BitVec.ofNat 32 (k.code * 2 ^ 24 + st), BitVec.ofNat 32 k.slot]
            .ok ((s.cacheWalks l.reader t [(v, k)]).doneReading l k.tr words))
      ∧ FieldWord (.vsten7 c d a sl) 2 d.toNat 8 0 (regs 3) [] (slotted [0, 0, 0, 0, 0, 0, 0, none_] (vstenEffect a.toNat))
      ∧ FieldWord (.vsamp c d a sl) 3 d.toNat 4 0 (regs 3) [] (slotted [0, 0, none_, 0] (vsampEffect a.toNat))
      ∧ FieldWord (.vray c d a sl) 4 d.toNat 4 0 (regs 8) [] (slotted [0, 0, 0, none_] (vrayEffect a.toNat))
      ∧ FieldWord (.vleaf c d sl) 5 d.toNat 4 0 (regs 0) [] (fun l _ s => .ok
          { words := match l.g.leaf, tree l with
              | some f, some t => if t.root = f.root then [f.x, f.y, f.z, BitVec.ofNat 32 f.slot] else [0x7FFFFFFF, 0x7FFFFFFF, 0x7FFFFFFF, 0xFFFFFFFF]
              | _, _ => [0x7FFFFFFF, 0x7FFFFFFF, 0x7FFFFFFF, 0xFFFFFFFF]
            s := s })
      ∧ FieldWord (.hgrid c d a gs lv) 17 d.toNat 8 0 (fun l _ => (List.range (((grid l).map (·.dims)).getD 0)).map (a.toNat + ·)) [] (fun l _ s => match grid l with
          | none => .ok { words := List.replicate 8 0x7E007E00, s := s.fieldRecord l 1 }
          | some _ => gridEffect a.toNat gs.toNat lv.toNat l s))
  ∧ (∀ (c : BitVec 1) (d a : BitVec 6) (sl : BitVec 3) (gs : BitVec 2),
      let binds := fun (busy : State → List Byte → Bool) (accept : Nat → List Byte → Option (Group → Group)) (unset : Group → Group) (l : Lane) (_ : Bool) (s : State) =>
        let low := (s.lane? (s.issue.pack.foldl min l.cur.tid)).getD l
        let va := low.src.group a.toNat 2
        let done := fun (code : Nat) (f : Group → Group) (tr : Trail) =>
          let s1 := s.updGroup l.g.gid f
          (Except.ok (({ s1 with issue := { s1.issue with bound := some (code, tr.bad, if tr.bad then BitVec.ofNat 64 va else 0) } } : State).doneReading l tr
            [BitVec.ofNat 32 (code * 2 ^ 24)]) : Except FieldFault FieldDone)
        match s.issue.bound with
        | some b => .ok { words := [BitVec.ofNat 32 (b.1 * 2 ^ 24)], bad := b.2.1, va := b.2.2, s := s }
        | none =>
          if low.src.anyPoison [a.toNat, a.toNat + 1] then .ok { words := [0], bad := true, s := s }
          else if va = 0 then done 0 unset {}
          else if va % 64 ≠ 0 then done 10 unset {}
          else match s.rd l.reader va 64 with
            | .error e => .error (e.1, e.2, 0)
            | .ok (b, bad) =>
              if busy s b then .error (va, fkWait, 0)
              else if bad then done 10 unset { bad := true, reads := [(va, 64)] }
              else match accept va b with | some f => done 0 f { reads := [(va, 64)] } | none => done 10 unset { reads := [(va, 64)] }
      let regs := fun (l : Lane) (s : State) => if s.issue.pack.foldl min l.cur.tid = l.cur.tid then [a.toNat, a.toNat + 1] else []
      FieldWord (.vbind c d a sl) 0 d.toNat 1 0 regs []
          (binds (fun s b => (parseTree 0 b).any fun t => s.marked.any fun m => m.tree.root == t.root && (m.held || m.swept)) (fun va b => (parseTree va b).map fun t => fun g => g.bindWalker sl.toNat (some t)) fun g => g.bindWalker sl.toNat none)
      ∧ FieldWord (.hbind c d a gs) 16 d.toNat 1 0 regs []
          (binds (fun _ _ => false) (fun va b => (parseGrid va b).map fun t => fun g => g.bindGrid gs.toNat (some t)) fun g => g.bindGrid gs.toNat none))

/-- VACT.CLR, VACT.SET and VST (R201): in a leaf that exists they clear or set the voxel's active bit, returning the old one (with the poison of its byte, R203), or write its
value and leave the bit; they write nothing in a read-only tree (RDONLY), for an unbound slot, or where no leaf holds the voxel
(MISSING). That the edit takes place as the word issues is the model's choice, log 46.

VINS and VDEL send their request to the allocator engine (R198); HGRAD and HGRADD form the adds of their levels for the pack, count a
store, and are recorded, with nothing added, for a slot that is unbound or has no gradient array (R207, R208). The code of that record, and that the flags of all roundings are raised, are the model's choice, logs 48 and 83. -/
def Obligations.FieldEditAndAllocatorWords : Prop :=
  (∀ (c : BitVec 1) (d a : BitVec 6) (sl : BitVec 3),
      let regs := fun (_ : Lane) (_ : State) => (List.range 3).map (a.toNat + ·)
      let edits := fun (act : Lane → Bool → TreeDesc → Nat → Nat → State → Except FieldFault FieldDone) (l : Lane) (dp : Bool) (s : State) =>
        let v := voxOf (l.src.reg a.toNat) (l.src.reg (a.toNat + 1)) (l.src.reg (a.toNat + 2))
        let stop := fun (code : Nat) => (Except.ok { words := [BitVec.ofNat 32 (code * 2 ^ 24)], s := s } : Except FieldFault FieldDone)
        match (l.g.walkers.find? fun p => p.1 == sl.toNat).map (·.2) with
        | none => stop 1
        | some t =>
          if t.rdonly then stop 6
          else match s.lookup l.reader t v with
            | .error e => .error (e.1, e.2, 0)
            | .ok k =>
              let s1 := s.cacheWalks l.reader t [(v, k)]
              if k.code ≠ 0 then .ok (s1.doneReading l k.tr [BitVec.ofNat 32 (k.code * 2 ^ 24)])
              else match k.leaf with
                | none => .ok (s1.doneReading l k.tr [BitVec.ofNat 32 (5 * 2 ^ 24)])
                | some va =>
                  let seen := s1.doneReading l k.tr []
                  (act l dp t va (v.x % 8 + 8 * (v.y % 8) + 64 * (v.z % 8)).toNat seen.s).map fun r =>
                    if k.tr.bad then { r with bad := true, va := seen.va } else r
      let bit := fun (set : Bool) (l : Lane) (_ : Bool) (_ : TreeDesc) (va n : Nat) (s : State) =>
        match s.fieldWrite l (va + 0x20 + n / 8) 1 2 (fun b => (putBit (BitVec.ofNat 8 b) (n % 8) set).toNat) false with
        | .error e => (.error e : Except FieldFault FieldDone)
        | .ok (old, gw, s1) =>
          let p := match s.vread l.g.core (coreDie l.g.core) l.g.asid (va + 0x20 + n / 8) 1 with | .ok r => r.2 | .error _ => false
          .ok { words := [BitVec.ofNat 32 (old / 2 ^ (n % 8) % 2)], bad := p, va := if p then BitVec.ofNat 64 (va + 0x20 + n / 8) else 0, gw := gw, s := s1 }
      FieldWord (.vactClr c d a sl) 8 d.toNat 1 0 regs [] (edits (bit false))
      ∧ FieldWord (.vactSet c d a sl) 8 d.toNat 1 0 regs [] (edits (bit true))
      ∧ FieldWord (.vst c d a sl) 9 d.toNat 1 0 regs [a.toNat + 4, a.toNat + 5] (edits fun l dp t va n s =>
          let n8 := match t.vfmt with | 0 => 4 | 1 => 2 | _ => 8
          match s.fieldWrite l (va + 0x60 + n * n8) n8 1 (fun _ => l.src.group (a.toNat + 4) 2) dp with
          | .error e => .error e
          | .ok (_, gw, s1) => .ok { words := [0], gw := gw, s := s1 }))
  ∧ (∀ (c : BitVec 1) (d a : BitVec 6) (sl : BitVec 3) (gs : BitVec 2) (lv : BitVec 4) (s : State) (l : Lane) (t : TreeDesc) (g : GridDesc) (dp : Bool),
      let clean := l.consume ((List.range 3).map (a.toNat + ·)) = .ok false
      let bound := (l.g.walkers.find? fun p => p.1 == sl.toNat).map (·.2)
      let grid := (l.g.grids.find? fun p => p.1 == gs.toNat).map (·.2)
      let v := voxOf (l.src.reg a.toNat) (l.src.reg (a.toNat + 1)) (l.src.reg (a.toNat + 2))
      let op := fun (fn dst dcnt cls : Nat) => ({ id := 0, gid := 0, tid := 0, asid := 0, fn := fn, dst := dst, dcnt := dcnt, shadow := false, cls := cls } : FieldOp)
      let asks := fun (fn n : Nat) (s : State) =>
        let s1 := s.fieldStart l { op fn d.toNat n 0 with tree := some t, x := v.x, y := v.y, z := v.z }
        { s1 with allocQ := s1.allocQ ++ [.word (s1.nextId - 1)] }
      let begun := fun (fn : Nat) (s : State) => s.fieldStart l { op fn 0 0 1 with result := some [] }
      let at_ := match (s.advanced l).span? l.g.sid with
        | some sp => ((s.advanced l).rectCores sp.x0 sp.y0 sp.w sp.h).findIdx (· == l.g.core)
        | none => 0
      let adds := fun (wide : Bool) => contributions g lv.toNat (l.nums a.toNat 3) (l.src.words d.toNat 8)
        (if wide then some (g.part.toNat + at_ * (8 * (g.lm1 + 1) * 2 ^ g.t * g.f)) else none)
      let position := l.consume ((List.range ((grid.map (·.dims)).getD 0)).map (a.toNat + ·)) = .ok false
      let ready := l.cur.nStore < 63 ∧ (s.advanced l).behindAlloc l = false ∧ position ∧ l.consume ((List.range 8).map (d.toNat + ·)) = .ok dp
      let lands := fun (wide : Bool) => ∀ x ∈ (adds wide).1, ∃ r, (s.advanced l).addTarget l.g.core l.g.asid x.va = .ok r
      let gather := fun (fn : Nat) (wide : Bool) (s : State) =>
        let s1 := { s with issue := { s.issue with sums := (adds wide).1.foldl (addSum l.cur.tid wide dp) s.issue.sums } }
        begun fn (s1.updLane l fun t => t.raise (adds wide).2)
      (Issues (.vins c d a sl) l s → l.cur.nLoad < 63 → clean → bound = some t → Completes (.vins c d a sl) l s (asks 6 2))
      ∧ (Issues (.vdel c d a sl) l s → l.cur.nLoad < 63 → clean → bound = some t → Completes (.vdel c d a sl) l s (asks 7 1))
      ∧ (Issues (.vins c d a sl) l s → l.cur.nLoad < 63 → clean → bound = none → Completes (.vins c d a sl) l s fun s =>
          s.fieldStart l { op 6 d.toNat 2 0 with result := some [0, 0x01000000] })
      ∧ (Issues (.vdel c d a sl) l s → l.cur.nLoad < 63 → clean → bound = none → Completes (.vdel c d a sl) l s fun s =>
          s.fieldStart l { op 7 d.toNat 1 0 with result := some [0x01000000] })
      ∧ (Issues (.hgrad c d a gs lv) l s → ready → (grid = none ∨ (grid = some g ∧ g.grad = 0)) → Completes (.hgrad c d a gs lv) l s fun s =>
          begun 18 (s.fieldRecord l 1))
      ∧ (Issues (.hgradd c d a gs lv) l s → ready → (grid = none ∨ (grid = some g ∧ g.part = 0)) → Completes (.hgradd c d a gs lv) l s fun s =>
          begun 19 (s.fieldRecord l 1))
      ∧ (Issues (.hgrad c d a gs lv) l s → ready → grid = some g → g.grad ≠ 0 → lands false → Completes (.hgrad c d a gs lv) l s (gather 18 false))
      ∧ (Issues (.hgradd c d a gs lv) l s → ready → grid = some g → g.part ≠ 0 → lands true → Completes (.hgradd c d a gs lv) l s (gather 19 true)))

/-! ### Requests to the command processor (R305, R309, R334-R338) -/

/-- ENQ, COMMIT, RESULT and LAUNCH. ENQ and COMMIT hand their request to the control die, COMMIT's to be answered once a device fence
of the thread would have ended, and the thread waits for the answer in its table entry; a misaligned table or a nonzero zero word takes the tile access trap, and neither of
them acts again once its answer has come. RESULT writes its value and, in a node that branches, records the
selector; LAUNCH hands its descriptor to the command processor; a pack asks once.

What the control die does with an ENQ and with a COMMIT (R218, R305, R334, R335): where the edge leaves the thread's own node, holds a free slot and the graph a
free block, the thread's entry of the table gets the record's address, the slot and 0, the slot and the block are the
thread's, and the thread goes on. A COMMIT is not answered while the fence of its thread has waits left. The tile access trap for a misaligned table, the choice of the lowest free block, and that a COMMIT is answered
once a device fence would end are the model's choice, logs 22, 21 and 52. -/
def Obligations.QueueRequestWords : Prop :=
  (∀ (c : BitVec 1) (o : BitVec 6) (k : BitVec 8) (s : State) (l : Lane),
      let u := fun (n : Nat) => l.g.ureg (o.toNat + n)
      let pair := fun (n : Nat) => (u n).toNat + 2 ^ 32 * (u (n + 1)).toNat
      let shaped := pair 0 % 16 = 0 ∧ ∀ n, 2 ≤ n → n < 8 → u n = 0
      let idle := l.grant s = none ∧ l.consumeOct o.toNat = .ok false
      let asks := fun (commit : Bool) => (s.stopLane l.cur.tid (.ask commit k.toNat (BitVec.ofNat 64 (pair 0)))).serveAsks s.issue.gid
      let once := fun (s : State) => { s with issue := { s.issue with cmd := some 0 } }
      let branching := (((s.advanced l).placeOf l.g).map fun p => p.2.nodes.any fun x => x.n == p.1.succ && x.kind == 0 && decide (x.nbranch ≥ 2)).getD false
      let resultOk := u 1 = 0 ∧ u 6 = 0 ∧ u 7 = 0 ∧ pair 2 % 8 = 0
      (Issues (.enq c o k) l s → idle → shaped → exec (.enq c o k) s = .next (asks false))
      ∧ (Issues (.commit c o k) l s → idle → shaped → exec (.commit c o k) s = .next (asks true))
      ∧ (∀ i, i = .enq c o k ∨ i = .commit c o k → Issues i l s → (l.grant s).isSome = true →
          let t := (s.advanced l).settled i l s
          exec i s = .next (t.serveAsks t.issue.gid))
      ∧ (∀ i, i = .enq c o k ∨ i = .commit c o k → Issues i l s → idle → ¬shaped → exec i s = .next ((s.stopLane l.cur.tid (.trap 3 0 0)).serveAsks s.issue.gid))
      ∧ (Issues (.result c o) l s → l.consumeOct o.toNat = .ok false → s.issue.cmd = none → resultOk → Completes (.result c o) l s fun s =>
          let s1 := if branching then (once s).updSpan l.g.sid fun x => { x with selector := some (u 0) } else once s
          if pair 2 = 0 then s1 else s1.writeResult l.g.asid l.g.sid (pair 2) (pair 4))
      ∧ (Issues (.result c o) l s → l.consumeOct o.toNat = .ok false → s.issue.cmd = none → ¬resultOk → Completes (.result c o) l s fun s =>
          (once s).graphErr l.g.asid (some l) 2)
      ∧ (Issues (.launch c o) l s → l.consumeOct o.toNat = .ok false → s.issue.cmd = none → Completes (.launch c o) l s fun s =>
          let r : LaunchReq :=
            { id := s.nextId, asid := l.g.asid, q := (u 2).toNat % 256, desc := pair 0, bad := decide (256 ≤ (u 2).toNat) || ([3, 4, 5, 6, 7] : List Nat).any fun n => u n != 0 }
          { once s with nextId := s.nextId + 1, launches := s.launches ++ [r] })
      ∧ (∀ i, i = .result c o ∨ i = .launch c o → Issues i l s → s.issue.cmd ≠ none → Completes i l s fun s => s))
  ∧ ((∀ (s : State) (gid tid e : Nat) (table : DWord) (g : Group) (t : Thread),
      s.group? gid = some g → s.thread? gid tid = some t → t.st = .asking true e table
      → s.fenceDone g t (s.fenceOf t 2 1 1) = false → s.serveAsk gid tid = s)
    ∧ ∀ (s : State) (gid tid e slot block : Nat) (table : DWord) (g : Group) (t : Thread) (r : NodeRun) (gr : Graph) (x : GEdge) (w : State × Nat),
      s.group? gid = some g → s.thread? gid tid = some t → t.st = .asking false e table → s.placeOf g = some (r, gr)
      → gr.edges.find? (fun y => y.n == e) = some x → x.prod = r.node → t.res.any (fun y => y.edge == e) = false
      → lowestFree x.slots x.used = some slot → lowestFree gr.rcount gr.usedBlocks = some block →
        let addr : DWord := BitVec.ofNat 64 (gr.back.toNat + block * gr.rsize + 8)
        let s1 := s.reserve gr.id e slot block gid tid
        s1.vwrite ctlUnit 0 g.asid (table.toNat + 16 * tid) (natToBytes 8 addr.toNat ++ natToBytes 4 slot ++ natToBytes 4 0) = .ok w →
        s.serveAsk gid tid = (w.1.dropRead g.core g.asid (table.toNat + 16 * tid) 16).deliver gid tid 0 [] none
        ∧ (s1.thread? gid tid).map (·.res) = some (t.res ++ [{ edge := e, slot := slot, block := block }]))

/-! ### What happens to a thread of itself (R36, R40, R70, R219, R383, R387) -/

/-- INSTRUCTION_FETCH, POISON_SKID, YIELD_EXPIRY, FENCE_COMPLETE and NOT_AN_INSTRUCTION. A ready thread with no packet fetches the three words at its
PC, read little-endian from an executable page; a packet that R40 forbids stops it with Illegal Packet, and an address that does not
translate with the fault; the end of the skid gives the poison consumption trap; the 64 cycles of YIELD and the waits of a fence make the
thread ready, and a COMMIT that waits for its fence is answered (R218); a word that is none is Illegal Instruction in each thread of the pack. -/
def Obligations.ThreadEvents : Prop :=
  ∀ (s : State) (gid tid : Nat) (g : Group) (t : Thread) (ws : List Word) (va kind : Nat) (w : BitVec 32),
    s.group? gid = some g → s.thread? gid tid = some t →
    let words := s.fetchPacket g t.pc.pkt.toNat
    let fill := (s.tlbFill g.core (coreDie g.core) g.asid t.pc.pkt.toNat).touchFor { x := true } g.core (coreDie g.core) g.asid t.pc.pkt.toNat 12
    (t.st = .ready → t.packet = [] → words = .ok ws → (t.pc.slot ≠ 0 ∨ illegalPacket ws = false) →
      exec (.instructionFetch gid tid) s = .next (fill.updThread gid tid fun t => { t with packet := ws }))
    ∧ (t.st = .ready → t.packet = [] → words = .ok ws → t.pc.slot = 0 → illegalPacket ws = true →
      exec (.instructionFetch gid tid) s = .next (fill.takeTrap gid tid 2 0 0))
    ∧ (t.st = .ready → t.packet = [] → words = .error (va, kind) →
      exec (.instructionFetch gid tid) s = .next (s.applyStop gid tid (.fault (BitVec.ofNat 64 va) kind 3)))
    ∧ ((t.skids.any fun k => !k.taken && k.left == 0) = true → t.st = .ready → exec (.poisonSkid gid tid) s = .next (s.takeTrap gid tid 7 0 0))
    ∧ (∀ u, t.st = .yielding u → u ≤ s.cycle → exec (.yieldExpiry gid tid) s = .next (s.wakeThread gid tid))
    ∧ (∀ f, t.st = .fencing f → s.fenceDone g t f = true → exec (.fenceComplete gid tid) s = .next (s.wakeThread gid tid))
    ∧ (∀ e table, t.st = .asking true e table → s.fenceDone g t (s.fenceOf t 2 1 1) = true →
      exec (.fenceComplete gid tid) s = .next (s.serveAsk gid tid))
    ∧ (s.issue.tids = [tid] → exec (.notAnInstruction w) s = .next (s.stopLane tid (.trap 1 0 0)))

/-! ### Accesses on their way (R45, R147, R210, R217, R220, R230, R232, R376) -/

/-- SLICE_ACCESS and OWNERSHIP_GRANT (R217, R220, R272, R275). An access that reaches its slice is performed where the die holds the line as it
needs it, in its L2 slice or its far-line cache (R271), which counts the hit; else the line is asked for: by RDS to read, by UPG to write a line that is shared, by RDX to write one that is not held. An
atomic wider than the group on a line that its core does not own waits, and is performed once the lease horizon is 2 ticks past; that one of the group's scope is performed at the slice without ownership is
the model's choice, log 35. -/
def Obligations.SliceAccessEvents : Prop :=
  ∀ (s : State) (a : Acc) (p : Part) (ps : List Part),
    s.acc? a.id = some a → a.parts = p :: ps → s.blocked a = false →
    let d := coreDie a.core
    let l := p.pa / 128
    let x0 := s.dieLine d l
    let s1 := if x0.flc then (s.setDieLine d { x0 with flc := false }).count d cFlcHit 1 else s
    let x := s1.dieLine d l
    let arrives := a.phase = .issued ∧ p.host = none ∧ p.dev = false ∧ a.kind.future = false ∧ x.atHomeBusy = false
    let asks := fun (k : MsgKind) (st : LineSt) =>
      let s2 := if x.st = .I ∧ (s1.die d).flc ≠ 0 ∧ p.home ≠ d then s1.count d cFlcMiss 1 else s1
      ((s2.setDieLine d { x with st := st, asker := some a.id }).send { id := 0, kind := k, line := l, src := d, dst := p.home, asid := a.asid, acc := a.id }).updAcc a.id
        fun a => { a with phase := .waitLine }
    let owns := a.kind.atomic = false ∨ a.scope = 0 ∨ x.own = some a.core
    (arrives → a.kind.writes = false → x.st ∈ [LineSt.S, .E, .O, .M, .SM] → exec (.sliceAccess a.id) s = .next (s1.performAt d a p))
    ∧ (arrives → a.kind.writes = false → x.st = .I → exec (.sliceAccess a.id) s = .next (asks .rds .IS))
    ∧ (arrives → a.kind.writes = true → (x.st = .S ∨ x.st = .O) → exec (.sliceAccess a.id) s = .next (asks .upg .SM))
    ∧ (arrives → a.kind.writes = true → x.st = .I → exec (.sliceAccess a.id) s = .next (asks .rdx .IM))
    ∧ (arrives → a.kind.writes = true → (x.st = .E ∨ x.st = .M) → owns → exec (.sliceAccess a.id) s = .next (s1.performAt d a p))
    ∧ (arrives → a.kind.writes = true → (x.st = .E ∨ x.st = .M) → ¬owns →
      exec (.sliceAccess a.id) s = .next ((s1.setDieLine d { x with own := none }).updAcc a.id fun a => { a with phase := .waitOwn }))
    ∧ (a.phase = .waitOwn → (x0.st = .E ∨ x0.st = .M) → max (s.dieHorizon d l) x0.gh + 2 < s.tsc →
      exec (.ownershipGrant a.id) s = .next ((s.setDieLine d { x0 with own := some a.core }).performAt d a p))

/-- What performing a part does (R210, R217, R251): a load takes the bytes of its line as they are; a store puts its bytes into the line
and no other, the line becomes M, and its completion times are 2 ticks past the lease horizons; an atomic takes the old value and puts
the new one in one action. -/
def Obligations.PerformedPart : Prop :=
  ∀ (s : State) (a : Acc) (p : Part) (ps : List Part),
    s.acc? a.id = some a → a.parts = p :: ps → p.pa % 128 + p.n ≤ 128 → 1 ≤ p.n →
    let d := coreDie a.core
    let l := p.pa / 128
    let x := s.dieLine d l
    let old := bytesToNat ((List.range p.n).map fun k => lineByte x.data (p.pa % 128 + k))
    let t := s.performAt d a p
    x.asker ≠ some a.id → x.st ≠ .I → (s.lines.filter fun q => q.1 == d && q.2.line == l).length ≤ 1
    → (s.lines.filter fun q => q.2.line == l && q.2.st.owns).length ≤ 1 →
      (∀ y, y / 128 ≠ l → t.physByte y = s.physByte y) ∧
      (∀ sx, a.kind = .load sx →
        (t.acc? a.id).map (·.result) = some (a.result + old * 256 ^ p.off) ∧ (t.acc? a.id).map (·.parts) = some ps ∧ ∀ y, t.physByte y = s.physByte y)
      ∧ (a.kind = .store →
        (t.dieLine d l).data = lineSetBytes x.data (p.pa % 128) (natToBytes p.n (a.data / 256 ^ p.off)) ∧ (t.dieLine d l).st = .M
        ∧ (t.acc? a.id).map (·.lw) = some (max a.lw (max s.tsc (s.dieHorizon d l) + 2))
        ∧ (t.acc? a.id).map (·.gw) = some (max a.gw (max s.tsc (max (s.dieHorizon d l) x.gh) + 2)))
      ∧ (∀ op, a.kind = .rmw op → a.cond = none → p.n = a.size →
        (t.dieLine d l).data = lineSetBytes x.data (p.pa % 128) (natToBytes p.n (rmwNew op (8 * a.size) old a.data)) ∧ (t.acc? a.id).map (·.result) = some old)
      ∧ (a.kind = .cas → a.cond = none →
        (t.dieLine d l).data = (if old = a.data then lineSetBytes x.data (p.pa % 128) (natToBytes p.n a.data2) else x.data)
        ∧ (t.acc? a.id).map (·.result) = some old)

/-- The operations of the atomics (R62, R251): sums, minima and maxima of signed and unsigned values, bitwise operations, exchange, and the
wrapping increment and decrement, at 32 and at 64 bits. -/
def Obligations.AtomicOperations : Prop :=
  ∀ (w old b : Nat), w = 32 ∨ w = 64 → old < 2 ^ w → b < 2 ^ w →
    let x := BitVec.ofNat w old
    let y := BitVec.ofNat w b
    rmwNew 0 w old b = (x + y).toNat
    ∧ (rmwNew 1 w old b : Nat) = (if y.toInt < x.toInt then b else old) ∧ rmwNew 2 w old b = (if x.toInt < y.toInt then b else old)
    ∧ rmwNew 3 w old b = min old b ∧ rmwNew 4 w old b = max old b
    ∧ rmwNew 5 w old b = (x &&& y).toNat ∧ rmwNew 6 w old b = (x ||| y).toNat ∧ rmwNew 7 w old b = (x ^^^ y).toNat ∧ rmwNew 8 w old b = b
    ∧ rmwNew 9 w old b = (if b ≤ old then 0 else old + 1) ∧ rmwNew 10 w old b = (if old = 0 ∨ b < old then b else old - 1)

/-- LOAD_COMPLETE and STORE_ACK (R20, R45, R217, R232). A load whose parts are all performed gives its words to its destination in the bank of
its issue, the destination pends no longer, and one load fewer is outstanding; a store's acknowledgement takes one store off, with
its completion times, and its entry from the side log. No byte of memory changes.

SIDE_LOG_REPLAY (R376): the first entry of its thread that is not held translates afresh, and its access is on its way. -/
def Obligations.CompletionEvents : Prop :=
  (∀ (s : State) (a : Acc) (t : Thread),
      s.acc? a.id = some a → a.phase = .done → a.parts = [] → s.thread? a.gid a.tid = some t → t.st ≠ .exited →
      (a.cls = 0 → a.kind ≠ .ldFut → a.kind ≠ .locq → s.tandem? a.gid = none → a.poison = false → a.shadow = t.popen → a.value.length = a.dcnt → a.dst + a.dcnt ≤ 64 →
        ∃ u x, exec (.loadComplete a.id) s = .next u ∧ u.thread? a.gid a.tid = some x ∧ x.nLoad = t.nLoad - 1
          ∧ (∀ k, k < a.dcnt → a.dst + k ≠ 0 → x.reg (a.dst + k) = a.value.getD k 0 ∧ x.pend.getLsbD (a.dst + k) = false)
          ∧ (∀ n, n < 64 → (n < a.dst ∨ a.dst + a.dcnt ≤ n) → x.reg n = t.reg n) ∧ x.preds = t.preds ∧ x.pc = t.pc
          ∧ s.sameMemory u ∧ u.acc? a.id = none)
      ∧ (a.cls = 1 → ∃ u x, exec (.storeAck a.id) s = .next u ∧ u.thread? a.gid a.tid = some x
          ∧ x = { t with nStore := t.nStore - 1, lw := max t.lw a.lw, gw := max t.gw a.gw } ∧ s.sameMemory u ∧ u.acc? a.id = none
          ∧ u.sideLog = s.sideLog.filter fun e => e.id != a.id))
  ∧ (∀ (s : State) (e : SideEntry) (ps : List (Trans × Nat)),
      (s.sideLog.find? fun x => x.id == e.id) = some e → e.held = false → s.acc? e.id = none
      → (s.sideLog.find? fun x => x.acc.gid == e.acc.gid && x.acc.tid == e.acc.tid).map (·.id) = some e.id →
      let a := e.acc
      let q : Req := { kind := a.kind, ea := a.va.toNat, size := a.size, scope := a.scope, noret := true, need := { w := true }, facc := (if a.fld then 12 else 0) + if a.kind = .store ∨ a.kind.future then 1 else 2, addrRegs := [] }
      s.translateReq a.core a.asid q = .ok ps →
      ∃ t, exec (.sideLogReplay e.id) s = .next t ∧ t.accs = s.accs ++ [{ a with parts := partsOf ps a.va.toNat a.size }] ∧ t.sideLog = s.sideLog ∧ s.sameMemory t)

/-! ### Monitor waits (R227-R229, R299, R300, R394) -/

/-- The comparisons of a monitor entry, by its code (R227): equal, not equal, signed and unsigned not less and less, any and no common bit.

MONITOR_INSERT, MONITOR_TIMEOUT, MONITOR_SPILL_RETURN and MONLOST. A registration whose thread has no earlier store to the line on its way
arrives at the line's home, in the order of the requests to the line (R212, R273, R289); the entry, once the home takes it, enters
its slice's table with its DUE, or the context's spill area where the table is full, and is evaluated at once; past DUE it wakes with status 1; the oldest spilled entry of a slice returns where its table has room; at MONLOST every
entry of the slice is gone, and the thread of a sole one wakes with status 3.

A wake gives the waiting thread its status in the bank of its issue (R147, R229): with status 0, the condition, the thread goes on
once the waits of a device fence have ended; with status 1, the timeout, or another it is ready. -/
def Obligations.MonitorEvents : Prop :=
  (∀ (n v b : Nat), n = 32 ∨ n = 64 → v < 2 ^ n → b < 2 ^ n →
      let x := BitVec.ofNat n v
      let y := BitVec.ofNat n b
      monitorTrue 0 n v b = (x == y) ∧ monitorTrue 1 n v b = (x != y) ∧ monitorTrue 2 n v b = y.sle x ∧ monitorTrue 3 n v b = y.ule x
      ∧ monitorTrue 4 n v b = x.slt y ∧ monitorTrue 5 n v b = x.ult y ∧ monitorTrue 6 n v b = ((x &&& y) != 0) ∧ monitorTrue 7 n v b = ((x &&& y) == 0))
  ∧ (∀ (s : State) (m : Monitor) (die slice : Nat),
      let due := if m.timeout = 0 ∨ m.due ≠ 0 then m.due else s.tsc + m.timeout
      let inTable := { m with inserted := true, due := due, spilled := false }
      let spilled := { inTable with spilled := true }
      let line := s.dir (m.pa / 128) m.die
      let evaluated := fun (s : State) (m : Monitor) => if s.monitorHolds m then s.wakeMonitor m 0 else s
      ((s.monitors.find? fun x => x.id == m.id && !x.inserted && !x.queued) = some m → s.storesBefore m = false → (s.die m.die).enabled = true
        → s.mayArrive line (s.waiterSrc m) = true →
        exec (.monitorInsert m.id) s = .next ((s.setMonitor { m with queued := true }).arriveHome line
          { id := 0, kind := .register, line := m.pa / 128, src := m.die, dst := m.die, acc := m.id, asid := m.asid } (s.waiterSrc m)))
      ∧ (s.tableAt m.die m.slice < 256 → s.insertMonitor m = evaluated (s.setMonitor inTable) inTable)
      ∧ (256 ≤ s.tableAt m.die m.slice → s.insertMonitor m = evaluated ((s.setMonitor spilled).writeSpill spilled) spilled)
      ∧ ((s.monitors.find? fun x => x.id == m.id) = some m → m.due ≠ 0 → m.due ≤ s.tsc → exec (.monitorTimeout m.id) s = .next (s.wakeMonitor m 1))
      ∧ ((s.monitors.find? fun x => x.spilled && x.die == die && x.slice == slice) = some m → s.tableAt die slice < 256 →
        exec (.monitorSpillReturn die slice) s = .next (s.setMonitor { m with spilled := false }))
      ∧ (∃ t, exec (.monlost die slice) s = .next t ∧ (∀ a, t.physByte a = s.physByte a)
          ∧ (∀ x ∈ t.monitors, ¬(x.inserted = true ∧ x.spilled = false ∧ x.die = die ∧ x.slice = slice))
          ∧ ∀ gid tid, (s.monitors.filter fun x => x.inserted && !x.spilled && x.die == die && x.slice == slice) = [m] → m.who = .thread gid tid →
              t.thread? gid tid = (s.wakeMonitor m 3).thread? gid tid))
  ∧ (∀ (s : State) (m : Monitor) (gid tid status : Nat) (t : Thread),
      m.who = .thread gid tid → s.thread? gid tid = some t → t.st = .parked (.monitor m.dst) → m.dst < 64 → m.shadow = t.popen →
      let u := s.wakeMonitor m status
      ∃ x, u.thread? gid tid = some x ∧ x.st = (if status = 0 then .fencing { scope := 2, pa := 1, pb := 1, upto := s.nextId } else .ready) ∧ (m.dst ≠ 0 → x.reg m.dst = BitVec.ofNat 32 status) ∧ (∀ n, n ≠ m.dst → x.reg n = t.reg n)
        ∧ x.pc = t.pc ∧ (∀ y ∈ u.monitors, y.id ≠ m.id) ∧ (∀ a, u.physByte a = s.physByte a) ∧ s.sameOthers u gid tid)

/-! ### The directory of the four compute dies (R272-R279, R289, R290) -/

/-- RDS, RDX, UPG and WB at the home (R272, R273, R277). A request to a stable line with nothing waiting, that no request of a lower source
number has followed in its tick, is taken at once: a read of a line that nobody
holds gets it exclusive where no monitor watches it, and shared else (R228), one that is shared gets it shared, one that another die owns has the owner asked; an upgrade of the only sharer,
and a write request of a line that nobody holds, get it modified. A write-back of the owner gives memory its data, and is
acknowledged. That requests of one tick are taken only in the order of their sources is the model's choice, log 77.

A die answers INV, FWD and FWDINV (R274, R276): with its lease horizon, and with its data where the home asks for it and it has the line; on INV and FWDINV
it gives its copy up, on FWD it keeps it shared, or owned where it was modified; while the line is on its way to it, and while
the operation that asked for it is still to be performed, it holds the message. What an owner whose upgrade is outstanding answers on FWD, which R276 does not
expect, is the model's choice, log 91.

What the home and the requester do as answers return (R272, R274, R275, R277, R289, R290): the home gathers an answer's horizon and data, and goes
on with its request; an answer without the line makes it wait for the write-back; a grant gives the die the line in the state granted,
and the operation that asked for it is performed; a write-back's acknowledgement frees the line; an operation sent to the home of a monitored
line is performed there; a dirty line of another home, untouched for 2,048 ticks, is written back. -/
def Obligations.DirectoryEvents : Prop :=
  (∀ (s : State) (m : Msg) (x : Dir) (data : LineData),
      (s.die m.dst).enabled = true → (s.dropMsg m.id).dir m.line m.dst = x → x.line = m.line → x.queue = [] → x.st.stable = true →
      let src := sliceSrc m.src m.line
      (x.reqTick ≠ s.tsc ∨ x.reqSrc ≤ src) →
      let s0 := s.dropMsg m.id
      let at_ : Dir := { x with home := m.dst, reqTick := s.tsc, reqSrc := src }
      let queued := s0.setDir { x with queue := [m], reqTick := s.tsc, reqSrc := src }
      let line := Memory.line s.mem m.line
      (s.msg? m.id .rds = some m → m.kind = .rds → x.st = .I → s.monitored m.line = false →
        exec (.rds m.id) s = .next ((queued.grantTo at_ m .E (some line)).setDir { at_ with st := .E, owner := m.src, sharers := [] }))
      ∧ (s.msg? m.id .rds = some m → m.kind = .rds → (x.st = .S ∨ (x.st = .I ∧ s.monitored m.line = true)) →
        exec (.rds m.id) s = .next ((queued.grantTo at_ m .S (some line)).setDir { at_ with st := .S, sharers := insertNat m.src x.sharers }))
      ∧ (s.msg? m.id .rds = some m → m.kind = .rds → (x.st = .E ∨ x.st = .M ∨ x.st = .O) → x.owner ≠ m.src →
        exec (.rds m.id) s = .next ((queued.snoop at_ .fwd m.asid x.owner).setDir
          { at_ with cur := some m, need := [x.owner], st := .bFwd, data := none, kept := .S, keeps := true, lw := 0, gw := 0 }))
      ∧ (s.msg? m.id .rdx = some m → m.kind = .rdx → x.st = .I → x.sharers = [] → s.monitored m.line = false →
        ∃ t, exec (.rdx m.id) s = .next t ∧ (∃ y, t.dirs.find? (fun d => d.line == m.line) = some y ∧ y.st = .M ∧ y.owner = m.src ∧ y.sharers = [] ∧ y.cur = none)
          ∧ ∃ g ∈ t.net, g.kind = .grant ∧ g.dst = m.src ∧ g.line = m.line ∧ g.lst = .M ∧ g.data = some line)
      ∧ (s.msg? m.id .upg = some m → m.kind = .upg → x.st = .S → x.sharers = [m.src] → s.monitored m.line = false →
        ∃ t, exec (.upg m.id) s = .next t ∧ (∃ y, t.dirs.find? (fun d => d.line == m.line) = some y ∧ y.st = .M ∧ y.owner = m.src ∧ y.sharers = [] ∧ y.cur = none)
          ∧ ∃ g ∈ t.net, g.kind = .grant ∧ g.dst = m.src ∧ g.line = m.line ∧ g.lst = .M ∧ g.data = none)
      ∧ (s.msg? m.id .wb = some m → (x.st = .E ∨ x.st = .M ∨ x.st = .O) → x.owner = m.src → m.data = some data →
        ∃ t, exec (.wb m.id) s = .next t ∧ t.mem = Memory.setLine s.mem m.line data
          ∧ (∃ y, t.dirs.find? (fun d => d.line == m.line) = some y ∧ y.owner = 0 ∧ y.sharers = x.sharers.filter (· != m.src)
              ∧ y.st = (if x.sharers.filter (· != m.src) = [] then HomeSt.I else .S))
          ∧ ∃ g ∈ t.net, g.kind = .wbAck ∧ g.dst = m.src ∧ g.line = m.line))
  ∧ (∀ (s : State) (m : Msg),
      let s0 := s.dropMsg m.id
      let d := m.dst
      let x := s0.dieLine d m.line
      let back : Msg :=
        { id := 0, kind := .answer, line := m.line, src := d, dst := m.src, horizon := s0.liveHorizon d m.line, asid := m.asid
          lw := (s0.lineTimes x).1, gw := (s0.lineTimes x).2 }
      let full := { back with data := if x.st == .I then none else some x.data }
      let free := x.st ≠ .IS ∧ x.st ≠ .IM ∧ x.st ≠ .MI ∧ x.st ≠ .SM ∧ x.asker = none
      let gone := (s0.setDieLine d { line := m.line, atHomeBusy := x.atHomeBusy }).retryLine d m.line
      let kept := match x.st with | .E => LineSt.S | .M => .O | o => o
      (s.msg? m.id .inv = some m → m.kind = .inv → free → exec (.inv m.id) s = .next (gone.send back))
      ∧ (s.msg? m.id .fwdInv = some m → m.kind = .fwdInv → free → exec (.fwdinv m.id) s = .next (gone.send full))
      ∧ (s.msg? m.id .fwd = some m → m.kind = .fwd → free → exec (.fwd m.id) s = .next (((s0.setDieLine d { x with st := kept, own := none }).retryLine d m.line).send { full with lst := kept }))
      ∧ (s.msg? m.id .fwd = some m → m.kind = .fwd → x.st = .SM →
        exec (.fwd m.id) s = .next (((s0.setDieLine d { x with st := .SM, own := none }).retryLine d m.line).send { full with lst := .O }))
      ∧ (s.msg? m.id .inv = some m → m.kind = .inv → x.st = .SM → exec (.inv m.id) s = .next ((s0.setDieLine d { x with st := .IM }).send back))
      ∧ (s.msg? m.id .inv = some m → m.kind = .inv → (x.st = .IS ∨ x.st = .IM ∨ (x.asker ≠ none ∧ x.st ≠ .SM)) →
        exec (.inv m.id) s = .next (s0.setDieLine d { x with held := x.held ++ [m] }))
      ∧ (s.msg? m.id .fwd = some m → m.kind = .fwd → x.st = .MI → x.asker = none → exec (.fwd m.id) s = .next (s0.send { back with kind := .noLine })))
  ∧ (∀ (s : State) (m : Msg) (a : Acc) (p : Part) (ps : List Part) (y : Dir) (d l : Nat),
      let s0 := s.dropMsg m.id
      let h := s0.dir m.line m.dst
      let x := s0.dieLine m.dst m.line
      let h1 := { h with
        need := h.need.filter (· != m.src), hor := max h.hor m.horizon, data := if m.data.isSome then m.data else h.data
        kept := if m.data.isSome then m.lst else h.kept, lw := max h.lw m.lw, gw := max h.gw m.gw }
      let taken := (s0.setDieLine m.dst
        { x with st := m.lst, data := m.data.getD x.data, gh := m.horizon, lw := max x.lw m.lw, gw := max x.gw m.gw, last := s0.tsc }).retryLine m.dst m.line
      let z := s.dieLine d l
      (s.msg? m.id .answer = some m → m.kind = .answer → h.need.contains m.src = true →
        exec (.directoryAnswer m.id) s = .next ((s0.await h1).homeNext m.line h.queue.length))
      ∧ (s.msg? m.id .noLine = some m → h.need.contains m.src = true → exec (.noLineAnswer m.id) s = .next (s0.setDir { h with st := .bWb }))
      ∧ (s.msg? m.id .noLine = some m → h.need.contains m.src = false → exec (.noLineAnswer m.id) s = .next s0)
      ∧ (s.msg? m.id .grant = some m → (x.st = .IS ∨ x.st = .IM ∨ x.st = .SM) → x.asker = some a.id → taken.acc? a.id = some a → a.parts = p :: ps
        → p.pa / 128 = m.line → exec (.grant m.id) s = .next (taken.sliceAccess a p))
      ∧ (s.msg? m.id .atHome = some m → exec (.performAtHome m.id) s = .next
          (((((s0.setDieLine m.dst { line := m.line, held := x.held, atHomeBusy := true }).updAcc m.acc fun a => { a with phase := .atHome }).send
            { id := 0, kind := .homeOp, line := m.line, src := m.dst, dst := m.src, asid := m.asid, acc := m.acc }).answerHeld m.dst m.line)))
      ∧ (s.msg? m.id .homeOp = some m → (s.die m.dst).enabled = true → s0.acc? m.acc = some a → a.id = m.acc → a.parts = p :: ps → a.kind = .store → p.pa / 128 = m.line →
        p.pa % 128 + p.n ≤ 128 → h.queue = [] → h.data = none → s.memWf →
        ∃ t, exec (.homeOperation m.id) s = .next t
          ∧ (∀ k, k < p.n → t.physByte (p.pa + k) = BitVec.ofNat 8 (a.data / 256 ^ p.off / 256 ^ k))
          ∧ ∃ y, t.dirs.find? (fun e => e.line == m.line) = some y ∧ y.st = .I ∧ y.cur = none ∧ y.sharers = [])
      ∧ (s.msg? m.id .wbAck = some m → x.st = .MI →
        exec (.wbAck m.id) s = .next ((s0.setDieLine m.dst { line := m.line, atHomeBusy := x.atHomeBusy }).retryLine m.dst m.line))
      ∧ (s.dirs.find? (fun e => e.line == l) = some y → (z.st = .M ∨ z.st = .O) → y.home ≠ d → z.last + 2048 ≤ s.tsc → z.asker = none →
        exec (.lineAgeing d l) s = .next ((s.setDieLine d { z with st := .MI, own := none, flc := false }).send
          { id := 0, kind := .wb, line := l, src := d, dst := y.home, data := some z.data, horizon := s.liveHorizon d l, asid := s.writer l
            lw := (s.lineTimes z).1, gw := (s.lineTimes z).2 })))

/-! ### Die links and die reset (R279, R283-R285) -/

/-- LINE_RECEIVE, REPLAY_REQUEST and LINK_RETRAIN (R283, R284, R285). A line that arrives whole, and whose check matches, goes on, and the receiver's dictionary takes its words;
a damaged one, or one whose words or check do not come out, is refused, a replay is asked for, and nothing more is received until a line
that resets, which records the replay; the replay, and a retraining in both directions, reset the dictionary of the sender and send what is
outstanding again, in order, the first line with RESET = 1.

DIE_RESET and DIE_ENABLE (R279): a reset die holds no line and no lease, and is disabled; no other die is.
One that was disabled after bring-up is enabled again, and what has waited for its memory is tried again (log 16). -/
def Obligations.LinkAndDieEvents : Prop :=
  (∀ (s : State) (src dst : Nat) (k : Link) (w : WireLine) (rest : List WireLine) (ws : List DWord),
      s.link? src dst = some k →
      let dict := if w.reset then seedTable else k.rdict
      let decoded := decodeWords dict none ((List.range 16).map fun i => bits w.tags.toNat (2 * i) 2) (w.payload.take (16 * w.payn))
      let line := BitVec.ofNat 1024 (bytesToNat (ws.flatMap fun x => natToBytes 8 x.toNat))
      let ins := fun (k : Link) =>
        let dict := if w.reset then (seedTable, 0) else (k.rdict, k.rnext)
        if w.again then dict else dictInsert dict.1 dict.2 (codesOf w.tags (lineWords line))
      let takes := s.updLink src dst fun k => { k with rdict := (ins k).1, rnext := (ins k).2, lines := k.lines.drop 1, discarding := false }
      let replayed := takes.raiseErr
        { id := 0, asid := ((s.net.find? fun m => m.id == w.msg).map (·.asid)).getD 0, tsc := 0, src := srcNum dst (0x300 + src), kind := 3, sev := 0 }
      let whole := decoded = some ws ∧ crc32c (lineBytes line) = w.lcrc
      let refuses := (s.updLink src dst fun k => { k with discarding := true, replay := true }).count dst (cCrcMiss src) 1
      (k.lines = w :: rest → k.discarding = false → whole → exec (.lineReceive src dst false) s = .next (takes.hopDone src dst w line))
      ∧ (k.lines = w :: rest → k.discarding = true → w.reset = true → whole → exec (.lineReceive src dst false) s = .next (replayed.hopDone src dst w line))
      ∧ (k.lines = w :: rest → (k.discarding = false ∨ w.reset = true) → exec (.lineReceive src dst true) s = .next refuses)
      ∧ (k.lines = w :: rest → (k.discarding = false ∨ w.reset = true) → (decoded = none ∨ (decoded = some ws ∧ crc32c (lineBytes line) ≠ w.lcrc)) →
        exec (.lineReceive src dst false) s = .next refuses)
      ∧ (k.lines = w :: rest → k.discarding = true → w.reset = false → ∀ b, exec (.lineReceive src dst b) s = notEnabled)
      ∧ (k.replay = true → ∃ t y, exec (.replayRequest src dst) s = .next t ∧ t.link? src dst = some y ∧ y.replay = false
          ∧ y.lines.map (fun w => (w.msg, w.line, w.clear)) = k.lines.map (fun w => (w.msg, w.line, w.clear))
          ∧ (∀ w ∈ y.lines.head?, w.reset = true) ∧ s.sameMemory t)
      ∧ exec (.linkRetrain src dst) s = .next ((s.resetLink src dst).resetLink dst src))
  ∧ (∀ (s : State) (d : Nat),
      ((s.die d).enabled = true → ∃ t, exec (.dieReset d) s = .next t ∧ (∀ q ∈ t.lines, q.1 ≠ d) ∧ (∀ h ∈ t.horizons, h.die ≠ d)
        ∧ (t.die d).enabled = false ∧ ∀ e, e ≠ d → (t.die e).enabled = (s.die e).enabled)
      ∧ (1 ≤ d → d ≤ 4 → (s.die d).enabled = false → s.boot.stage = 6 → (s.dies.any fun x => x.d == d) = true →
        ∃ t : State, exec (.dieEnable d) s = .next (({ t with away := [] } : State).answerBare false s.away)
          ∧ (t.die d).enabled = true ∧ (∀ e, e ≠ d → t.die e = s.die e) ∧ (∀ a, t.physByte a = s.physByte a)))

/-! ### Traps, faults and error records (R378-R382, R389-R393, R404, R417, R418) -/

/-- Taking a trap (R70, R378, R379): the thread is parked where its PC stands, with its registers, predicates and flags as they are, and the mailbox of its
cluster gets, after what it holds, one message with the PC, the trap's kind, its code (0 for a tandem
trap) and the value of A. No byte of memory changes,
no other thread, and no other mailbox.

Returning from a trap (R380): the thread goes on, ready, at the PC of its message, with its registers, predicates and flags as they are; a thread
that stands at no trap is not touched. A thread whose chain ended in TRAP or BRK and raised an enabled flag takes its arithmetic trap then (the order of
the two is the model's choice, log 28). -/
def Obligations.TrapEntryAndReturn : Prop :=
  (∀ (s : State) (gid tid kind code : Nat) (aval : Word) (g : Group) (t : Thread),
      s.group? gid = some g → g.thread? tid = some t → g.role ≠ .trailer →
      let u := s.takeTrap gid tid kind code aval
      let box := s.mailbox (coreDie g.core) (coreCluster g.core)
      let box' := u.mailbox (coreDie g.core) (coreCluster g.core)
      (∃ x, u.thread? gid tid = some x ∧ x.st = .parked .trap ∧ x.pc = t.pc ∧ x.regs = t.regs ∧ x.preds = t.preds ∧ x.flags = t.flags ∧ x.key = t.key ∧ x.ctr = t.ctr)
      ∧ (∃ m, m.pc = t.pc ∧ m.kind = kind ∧ m.code = (if kind = 8 then 0 else code) ∧ m.aval = aval ∧ m.tid = tid ∧ m.gid = gid ∧ m.core = g.core ∧ m.asid = g.asid
          ∧ ((box'.slots = box.slots ++ [m] ∧ box'.pending = box.pending) ∨ (box.room g.core = none ∧ box'.slots = box.slots ∧ box'.pending = box.pending ++ [m])))
      ∧ (∀ d c, ¬(d = coreDie g.core ∧ c = coreCluster g.core) → u.mailbox d c = s.mailbox d c)
      ∧ s.sameMemory u ∧ s.sameOthers u gid tid)
  ∧ (∀ (s : State) (gid tid : Nat) (pc : PC) (t : Thread), s.thread? gid tid = some t →
      let u := s.resumeThread gid tid pc
      (t.st = .parked .trap → ∃ x, u.thread? gid tid = some x ∧ x.st = .ready ∧ x.pc = pc ∧ x.regs = t.regs ∧ x.preds = t.preds ∧ x.flags = t.flags ∧ x.trapAt = none)
      ∧ (t.st ≠ .parked .trap → u.thread? gid tid = some t) ∧ s.sameMemory u ∧ s.sameOthers u gid tid
      ∧ (∀ (g : Group) (k c : Nat) (v : Word), s.group? gid = some g → t.st = .parked .trap → t.trapAt = some (k, c, v) →
        s.trapReturn gid tid pc = if (k = 4 ∨ k = 5) ∧ t.raised &&& s.trapen g.asid ≠ 0 then u.takeTrap gid tid 6 0 (t.raised.setWidth 32) else u))

/-- TRAP_MESSAGE (R378, R380): the event completes wherever the mailbox holds a message: it serves the oldest, in the order in which they entered their slots,
and frees its slot. A TRAP or BRK of a group outside tandem mode is recorded and the thread
returns; an illegal instruction or packet, a tile access or an arithmetic trap is recorded and the group is terminated: every thread of it
ends; a message whose thread no longer stands there does nothing but free its slot. The next message of a full mailbox enters the slot
that has been freed, the oldest first. -/
def Obligations.TrapMessageEvent : Prop :=
  (∀ (s : State) (die cluster : Nat) (m : TrapMsg), (s.mailbox die cluster).slots.head? = some m →
    exec (.trapMessage die cluster) s = .next ((s.serveTrap m).freeSlot die cluster m))
  ∧ (∀ (s : State) (m : TrapMsg), s.group? m.gid = none ∨ s.trapStands m = false → s.serveTrap m = s)
  ∧ (∀ (s : State) (die cluster : Nat) (m : TrapMsg) (ms : List TrapMsg), (s.mailbox die cluster).slots = m :: ms → (s.mailbox die cluster).pending = [] →
    ((s.freeSlot die cluster m).mailbox die cluster).slots = ms)
  ∧ ∀ (s : State) (die cluster : Nat) (m : TrapMsg) (ms : List TrapMsg) (g : Group),
    (s.mailbox die cluster).slots = m :: ms → s.group? m.gid = some g → g.role = .solo → s.trapStands m = true → s.tandem? m.gid = none →
    ((m.kind = 5 ∨ (m.kind = 4 ∧ m.code < 0xF0)) →
      exec (.trapMessage die cluster) s = .next (((s.writeTrap m false).trapReturn g.gid m.tid m.pc).freeSlot die cluster m))
    ∧ ((m.kind = 1 ∨ m.kind = 2 ∨ m.kind = 3 ∨ m.kind = 6) → ∃ t,
      exec (.trapMessage die cluster) s = .next t ∧ ∃ g', t.group? m.gid = some g' ∧ g'.terminated = true ∧ ∀ x ∈ g'.threads, x.st = .exited)

/-- FAULT_RESPONSE, FCONS_POLL, HELD_FAULT_POST and FAULT_WRITE_RETRY (R382, R418): the control die acts on every record that FCONS has passed, and they are gone; an FCONS in host memory is read
every 10 µs; held records are posted where there is room, and tried every 10 µs where the queue could not be written.

What an answered record does to the thread that is held under it (R375, R382): the thread tries its chain again at its first word, with nothing of it done; or, where the
answer is that the fault cannot be resolved, takes a trap of kind 9. -/
def Obligations.FaultQueueEvents : Prop :=
  (∀ (s : State) (asid fc : Nat) (c : Context), s.ctx? asid = some c →
      let seqs := (List.range (min ((fc + 2 ^ 32 - c.fconsSeen) % 2 ^ 32) ((c.fprod + 2 ^ 32 - c.fconsSeen) % 2 ^ 32))).map fun k => (c.fconsSeen + k) % 2 ^ 32
      let recs := seqs.filterMap fun q => (s.faults.find? fun f => f.asid == asid && f.posted && f.seq == q).map fun f => (f, s.respOf c q)
      let rest := s.faults.filter fun f => !(f.asid == asid && f.posted && seqs.contains f.seq)
      let posted := s.postHeld asid (s.heldFaults asid)
      (s.fconsKnown c = some fc → fc ≠ c.fconsSeen → exec (.faultResponse asid) s = .next
        ((recs.foldl State.answerRecord ({ s with faults := rest }.updCtx asid fun c => { c with fconsSeen := fc })).watchFcons asid))
      ∧ (s.hostHeader c = true → c.pollDue ≤ s.tsc → exec (.fconsPoll asid) s = .next
        (s.updCtx asid fun x => { x with fconsRead := (s.fcons c).getD c.fconsRead, pollDue := s.tsc + 10000 }))
      ∧ (s.heldFaults asid ≠ 0 → (s.fcons c).isSome = true → s.queueFull c = false → posted.heldFaults asid ≠ s.heldFaults asid →
        exec (.heldFaultPost asid) s = .next (posted.writeFaultHeader asid))
      ∧ (s.heldFaults asid ≠ 0 → s.queueFull c = false → c.retryDue ≤ s.tsc →
        exec (.faultWriteRetry asid) s = .next ((posted.updCtx asid fun c => { c with retryDue := s.tsc + 10000 }).writeFaultHeader asid)))
  ∧ (∀ (s : State) (f : FaultRec) (gid tid : Nat) (t : Thread) (g : Group), s.thread? gid tid = some t → s.group? gid = some g → t.st = .parked .access → g.role = .solo →
      (∃ x, (s.answerItem f false (.thread gid tid)).thread? gid tid = some x ∧ x.st = .ready ∧ x.pc = t.pc ∧ x.regs = t.regs ∧ x.preds = t.preds)
      ∧ s.answerItem f true (.thread gid tid) = s.takeTrap gid tid 9 f.kind 0 f.va)

/-- ERROR_RECORD_ACCEPT and ERROR_RECORD_POST (R389-R391): the control die counts an accepted record of a context in ECOUNT, in its queue's header too, and numbers it; 2,000 ticks after its
TSC, and before every later record of its context, it is posted; a record of no context goes to the device log. Posting writes the record at EPROD, and raises EPROD;
into a full queue it is dropped, and EDROP raised in the header too; where the queue holds the record it equals, unconsumed and the newest (or, for a sentinel, of the same
millisecond, R393), that one is written again with its REPEAT raised. -/
def Obligations.ErrorRecordEvents : Prop :=
  ∀ (s : State) (e : ErrRec) (c : Context),
    let counted := (s.updErr e.id fun e => { e with accepted := true, seq := c.ecount }).updCtx e.asid fun x => { x with ecount := (c.ecount + 1) % 2 ^ 32 }
    let gone : State := { s with errors := s.errors.filter fun x => x.id != e.id }
    let due := e.accepted = true ∧ e.posted = false ∧ e.tsc + 2000 ≤ s.tsc ∧ ∀ x ∈ s.errors, x.posted = true ∨ x.asid ≠ e.asid ∨ x.id = e.id
      ∨ e.tsc < x.tsc ∨ (e.tsc = x.tsc ∧ (e.src < x.src ∨ (e.src = x.src ∧ e.id < x.id)))
    ((s.errors.find? fun x => x.id == e.id && !x.accepted) = some e → e.asid ≠ 0 → s.ctx? e.asid = some c →
      exec (.errorRecordAccept e.id) s = .next ((counted.ctlWrite e.asid (c.eqbase.toNat + 0xC) (natToBytes 4 ((c.ecount + 1) % 2 ^ 32))).getD counted))
    ∧ ((s.errors.find? fun x => x.id == e.id && !x.accepted) = some e → e.asid = 0 →
      exec (.errorRecordAccept e.id) s = .next (s.updErr e.id fun e => { e with accepted := true }))
    ∧ ((s.errors.find? fun x => x.id == e.id) = some e → due → e.asid ≠ 0 → s.ctx? e.asid = some c →
      exec (.errorRecordPost e.id) s = .next (s.postErr c e))
    ∧ ((s.errors.find? fun x => x.id == e.id) = some e → due → e.asid = 0 →
      exec (.errorRecordPost e.id) s = .next { gone with deviceLog := (s.deviceLog ++ [e]).drop (s.deviceLog.length + 1 - 4096), logCount := s.logCount + 1 })
    ∧ (∀ ec, s.econs c = some ec →
      let held := fun (x : ErrRec) => x.asid = e.asid ∧ x.posted = true ∧ x.src = e.src ∧ x.kind = e.kind ∧ x.addr = e.addr ∧ x.code = e.code
        ∧ (x.idx + 2 ^ 32 - ec) % 2 ^ 32 < (c.eprod + 2 ^ 32 - ec) % 2 ^ 32 ∧ ((x.idx + 1) % 2 ^ 32 = c.eprod ∨ (e.kind = 2 ∧ x.tsc / 1000000 = e.tsc / 1000000))
      (∀ x, s.errors.find? (fun x => decide (held x)) = some x →
        let y : ErrRec := { x with rep := min 0xFFFF (x.rep + 1) }
        ∀ u, s.ctlWrite c.asid (c.eqbase.toNat + 64 + 64 * (x.idx % c.eqlen)) y.bytes = some u →
          s.postErr c e = { u with errors := (updWhere (fun z => z.id == x.id) (fun _ => y) u.errors).filter fun z => z.id != e.id })
      ∧ ((∀ x ∈ s.errors, ¬held x) → c.eqlen ≤ (c.eprod + 2 ^ 32 - ec) % 2 ^ 32 →
        let n := (c.edrop + 1) % 2 ^ 32
        let u := gone.updCtx c.asid fun y => { y with edrop := n }
        s.postErr c e = (u.ctlWrite c.asid (c.eqbase.toNat + 8) (natToBytes 4 n)).getD u)
      ∧ ((∀ x ∈ s.errors, ¬held x) → (c.eprod + 2 ^ 32 - ec) % 2 ^ 32 < c.eqlen →
        ∀ u v, s.ctlWrite c.asid (c.eqbase.toNat + 64 + 64 * (c.eprod % c.eqlen)) e.bytes = some u
          → u.ctlWrite c.asid c.eqbase.toNat (natToBytes 4 ((c.eprod + 1) % 2 ^ 32)) = some v →
          ∃ zs : List ErrRec, s.postErr c e = ({ v with errors := zs } : State).updCtx c.asid (fun y => { y with eprod := (y.eprod + 1) % 2 ^ 32 })
            ∧ (∀ z ∈ zs, z.id = e.id → z.posted = true ∧ z.idx = c.eprod) ∧ ∀ z ∈ v.errors, z.posted = false → ∃ y ∈ zs, y.id = z.id))

/-- SCRUB, SENTINEL_EVENT, VOLTAGE_STEP_DOWN, POWER_EXCESS and THERMAL_LIMIT (R372, R392, R393, R395): a clean line changes nothing, a corrected one is logged, one that cannot be corrected is logged and
poisoned, with a record of kind 4 (the model's choice, logs 66 and 67: the kind and what it names beside the line); a sentinel event writes a record and costs a cycle; a second without a bad millisecond takes a voltage step back; a power above the
limit takes 100 MHz off the clock, no lower than 1.2 GHz; 105 °C holds it there, and 115 °C resets every die. -/
def Obligations.PowerAndScrubEvents : Prop :=
  ∀ (s : State) (line core asid die watts celsius : Nat),
    exec (.scrub line 0) s = .next s
    ∧ (∃ t e, exec (.scrub line 1) s = .next t ∧ t.errors = s.errors ++ [e] ∧ e.kind = 1 ∧ e.asid = 0 ∧ e.addr = BitVec.ofNat 64 (line * 128) ∧ t.poisonLines = s.poisonLines)
    ∧ (∃ t e, exec (.scrub line 2) s = .next t ∧ t.errors = s.errors ++ [e] ∧ e.kind = 4 ∧ e.addr = BitVec.ofNat 64 (line * 128) ∧ t.poisonLines = insertNat line s.poisonLines ∧ s.sameMemory t)
    ∧ ((s.groups.any fun g => g.core == core && g.asid == asid) = true → ∃ t e, exec (.sentinelEvent core asid) s = .next t ∧ t.errors = s.errors ++ [e] ∧ e.kind = 2
        ∧ e.src = coreSrc core ∧ t.cycle = s.cycle + 1 ∧ s.sameMemory t ∧ t.groups = s.groups)
    ∧ (0 < (s.die die).vstep → (s.die die).vsince + 1000000000 ≤ s.tsc →
      exec (.voltageStepDown die) s = .next (s.updDie die fun x => { x with vstep := x.vstep - 1, vsince := s.tsc }))
    ∧ (s.boot.plim < watts → exec (.powerExcess watts) s = .next { s with boot := { s.boot with clock := max 1200 (s.boot.clock - 100) } })
    ∧ (105 ≤ celsius → celsius < 115 → exec (.thermalLimit celsius) s = .next { s with boot := { s.boot with clock := 1200, hot := true } })
    ∧ (115 ≤ celsius → ∃ t, exec (.thermalLimit celsius) s = .next t ∧ t.boot.clock = 1200 ∧ t.boot.hot = true ∧ ∀ d, 1 ≤ d → d ≤ 4 → (t.die d).enabled = false)

/-! ### Host ports, time and bring-up (R357, R358, R360, R365, R370, R371) -/

/-- The semaphores (R358): a read of a free one takes it for the port and gives 0; a read by its holder gives 0; any other read gives the holder's number and changes no holder; a write of 0 by the holder
frees it, every other write changes nothing; a port's reset frees what it holds. The firmware, port 3, leaves semaphore 0 alone until a host
has read it: that its read is no event of the model before then is the model's choice, logs 13 and 62. -/
def Obligations.SemaphoreEvents : Prop :=
  ∀ (s : State) (port n value : Nat), s.boot.stage = 6 → n < 64 →
    let h := s.host.holder n
    let read := { s.host with semRead := s.host.semRead || n == 0 }
    (port = 3 → n = 0 → s.host.semRead = false → exec (.semaphoreRead port n) s = notEnabled)
    ∧ ((port = 1 ∨ port = 2 ∨ (port = 3 ∧ (n ≠ 0 ∨ s.host.semRead = true))) →
      (h = 0 → ∃ t, exec (.semaphoreRead port n) s = .next t ∧ t.host.holder n = port ∧ t.host.lastRead = 0 ∧ ∀ k, k ≠ n → t.host.holder k = s.host.holder k)
      ∧ (h = port → exec (.semaphoreRead port n) s = .next { s with host := { read with lastRead := 0 } })
      ∧ (h ≠ 0 → h ≠ port → exec (.semaphoreRead port n) s = .next { s with host := { read with lastRead := BitVec.ofNat 64 h } }))
    ∧ ((port = 1 ∨ port = 2 ∨ port = 3) →
      (h = port → ∃ t, exec (.semaphoreWrite port n 0) s = .next t ∧ t.host.holder n = 0 ∧ ∀ k, k ≠ n → t.host.holder k = s.host.holder k)
      ∧ ((value ≠ 0 ∨ h ≠ port) → exec (.semaphoreWrite port n value) s = .next s))
    ∧ ((port = 1 ∨ port = 2) → ∃ t, exec (.portReset port) s = .next t ∧ (∀ p ∈ t.host.sem, p.2 ≠ port) ∧ ∀ p ∈ s.host.sem, p.2 ≠ port → p ∈ t.host.sem)

/-- HOST_MEMORY_ACCESS, REGISTER_WRITE, QTAIL_WRITE, PPS_PULSE, PTM_SYNC and BRING_UP (R357, R360, R365, R370, R371). Bytes written through a port's window, in lines whose homes are not reset, are what device memory
holds, and bytes read are what it holds but for the device log; a read-only register keeps its value; an argument register, the time source and the offset take theirs, and under 1PPS a new offset moves
the TSC, forward at once where no group is resident and by slewing else; the tail is the index modulo the
ring; the TSC is locked within 20 ns of the pulse's time (TSCOFF and whole seconds from it) under 1PPS and 40 ns under PTM, and slewed by what it lies past its source; images whose signatures and versions are accepted
bring the device up: they are measured and every die is enabled; others are rejected and leave it as it is. That a TIMESRC write clears LOCKED, and how the slew is carried, is the model's choice, log 62; that bring-up is one
step, checks both versions, and may try again after rejected images is the model's choice, log 65. -/
def Obligations.HostEvents : Prop :=
  ∀ (s : State) (port off q index : Nat) (value : DWord) (data : List Byte) (edge error : Int) (flc : List Nat) (firmware runtime : List Byte) (version : Nat × Nat),
    let up := s.boot.stage = 6 ∧ (port = 1 ∨ port = 2)
    let pa := s.host.window port + off
    let home := ∀ l ∈ linesOf pa data.length, ∀ d, s.homeOf? l = some d → (s.die d).enabled = true
    let late : Int := s.tsc - (s.host.tscoff.toNat + 1000000000 * edge)
    (up → off + data.length ≤ 2 ^ 36 → home → s.memWf → ∃ t, exec (.hostMemoryAccess port true off data) s = .next t ∧ ∀ k, k < data.length → t.physByte (pa + k) = data.getD k 0)
    ∧ (up → off + data.length ≤ 2 ^ 36 → home → exec (.hostMemoryAccess port false off data) s
        = .next { s with host := { s.host with lastData := (List.range data.length).map fun k => s.barByte (pa + k) } })
    ∧ (up → off % 8 = 0 → readOnly off = true → (off = 0x3000 ∨ off = 0x3018 ∨ off = 0x2038 ∨ (0x4000 ≤ off ∧ off < 0x4040) ∨ (0x100000 ≤ off ∧ off < 0x150000)) →
      exec (.registerWrite port off value) s = .next s)
    ∧ (up → 0x2008 ≤ off → off ≤ 0x2030 → off % 8 = 0 → exec (.registerWrite port off value) s
        = .next { s with host := { s.host with margs := setAt s.host.margs ((off - 0x2008) / 8) value } })
    ∧ (up → exec (.registerWrite port 0x3008 value) s = .next { s with host := { s.host with timesrc := value, locked := false }, disc := {} })
    ∧ (up → s.host.timesrc ≠ 3 → exec (.registerWrite port 0x3010 value) s = .next { s with host := { s.host with tscoff := value } })
    ∧ (up → s.host.timesrc = 3 → 0 < (value - s.host.tscoff).toInt → s.groups = [] → exec (.registerWrite port 0x3010 value) s
        = .next { s with host := { s.host with tscoff := value }, tsc := s.tsc + (value - s.host.tscoff).toInt.toNat })
    ∧ (up → s.host.timesrc = 3 → ((value - s.host.tscoff).toInt ≤ 0 ∨ s.groups ≠ []) → exec (.registerWrite port 0x3010 value) s
        = .next { s with host := { s.host with tscoff := value }, disc := { s.disc with drift := some (s.disc.drift.getD 0 - (value - s.host.tscoff).toInt) } })
    ∧ (up → q < 256 → exec (.qtailWrite port q index) s = .next (s.updQueue q fun x => { x with tail := index % 2 ^ x.logn, port := port }))
    ∧ (s.boot.stage = 6 → s.host.timesrc = 3 → exec (.ppsPulse edge) s = .next { s with host := { s.host with locked := decide (-20 ≤ late ∧ late ≤ 20) }, disc := { s.disc with drift := some late } })
    ∧ (up → s.host.timesrc.toNat = port → exec (.ptmSync port error) s = .next { s with host := { s.host with locked := decide (-40 ≤ error ∧ error ≤ 40) }, disc := { s.disc with drift := some error } })
    ∧ (s.boot.stage = 0 → flc.length = 4 → (∀ g ∈ flc, g = 0 ∨ g = 2 ∨ g = 4 ∨ g = 8) → ∃ t, exec (.bringUp flc firmware runtime version) s = .next t ∧
        if Config.signatureValid firmware = true ∧ Config.signatureValid runtime = true ∧ s.boot.minVersion ≤ version.1 ∧ s.boot.minVersion ≤ version.2 then
          t.boot.stage = 6 ∧ (∀ d ∈ t.dies, d.enabled = true)
          ∧ t.boot.measure = [Config.romImage, firmware, runtime, Config.configBytes s.boot.plim s.boot.retryLimit flc].map Config.sha256
          ∧ ∀ k ∈ t.links, k.sdict = seedTable ∧ k.rdict = seedTable ∧ k.snext = 0 ∧ k.rnext = 0
        else t = { s with boot := { s.boot with rejected := true } })

/-- The management operations (R349, R355, R359, R360, R367-R369, R371). A write of MOP by the port that holds semaphore 0, while none is running, starts the operation: its effect, and its status
for MSTAT; by another port it answers NOSEM; while one runs it sets OVERRUN. MGMT_COMPLETE gives MSTAT its value with DONE and the status, and raises the vector of MARG5. That the whole effect comes at the MOP write is the model's choice,
log 63, and the order of the argument checks, log 64; that NOSEM is answered even while an operation runs is the model's choice, log 62.

What the management operations on contexts and queues write (R347-R349, R359, R360). CTX.CREATE reads the record's fields where they are as R347 has them, and adds the context with every identifier,
exchange and pre-emption unset and both queues' headers zero; CTX.DESTROY takes the context with its monitor entries, TLB entries and queues; QBIND adds a queue, empty, with the record's ring, priority and tag and the
port that bound it; QUNBIND takes one that has nothing started; QRESUME lets a stopped one go on with its new tag; each is refused with its status, the earlier check first where several fail (the model's choice, log 64). -/
def Obligations.ManagementEvents : Prop :=
  (∀ (s : State) (port : Nat), s.boot.stage = 6 → (port = 1 ∨ port = 2) →
      let m := s.host.margs
      let starts := fun (i : Instr) (op : Nat) (eff : State → Nat × State) =>
        (s.host.holder 0 = port → s.host.mgmt = none → exec i s = .next
          { (eff s).2 with host := { (eff s).2.host with mop := BitVec.ofNat 64 op, mstat := 0, mgmt := some { port := port, op := op, status := (eff s).1, margs := m } } })
        ∧ (s.host.holder 0 ≠ port → exec i s = .next { s with host := { s.host with mstat := BitVec.ofNat 64 (2 ^ 63 + 1) } })
        ∧ (∀ r, s.host.holder 0 = port → s.host.mgmt = some r → exec i s = .next { s with host := { s.host with mgmt := some { r with overrun := true } } })
      starts (.ctxCreate port) 1 (fun s => s.createContext m) ∧ starts (.ctxDestroy port) 2 (fun s => s.destroyContext m)
      ∧ starts (.qbind port) 3 (fun s => s.bindQueue port m) ∧ starts (.qunbind port) 4 (fun s => s.unbindQueue m)
      ∧ starts (.qresume port) 5 (fun s => s.resumeQueue m)
      ∧ starts (.preempt port) 7 (fun s => match s.rectArg (marg m 1) with
          | none => (3, s)
          | some cores => if (s.ctx? (marg m 0)).isNone then (3, s) else (0, s.preemptOn (marg m 0) cores false))
      ∧ starts (.plift port) 8 (fun s => match s.rectArg (marg m 1) with
          | none => (3, s)
          | some cores => if (s.ctx? (marg m 0)).isNone then (3, s)
            else (0, s.updCtx (marg m 0) fun c => { c with preempts := c.preempts.filter fun p => !cores.contains p.core }))
      ∧ starts (.exchset port) 11 (fun s =>
          if (s.ctx? (marg m 0)).isNone || decide (64 ≤ marg m 1) || marg m 2 % 128 != 0 then (3, s)
          else if !(s.stepWaiters (marg m 0) (marg m 1)).isEmpty || (s.saved.any fun v => v.asid == marg m 0 && v.atStep.contains (marg m 1))
              || s.linkCmds.any (fun c => c.asid == marg m 0 && c.exch == marg m 1) then (4, s)
          else match s.readExch (marg m 0) (marg m 1) (marg m 2) with | .error _ => (3, s) | .ok e => (0, s.setExch (marg m 0) e))
      ∧ starts (.rtshare port) 12 (fun s =>
          if (s.ctx? (marg m 0)).isNone ∨ 25 < marg m 1 then (3, s)
          else if 25 < (s.contexts.filter fun c => c.asid != marg m 0).foldl (fun n c => n + c.share) (marg m 1) then (7, s)
          else (0, s.updCtx (marg m 0) fun c => { c with share := marg m 1 }))
      ∧ starts (.attest port) 13 (fun s =>
          if 2 ^ 48 < marg m 0 + 32 ∨ 2 ^ 48 < marg m 1 + 0xD0 + 7856 then (3, s)
          else
            let r := s.report (s.physBytes (marg m 0) 32)
            (0, s.writePhys 0 0 (marg m 1) (r ++ (List.range 7856).map (Config.attestSignature r))))
      ∧ starts (.winset port) 14 (fun s =>
          if marg m 0 % 2 ^ 36 ≠ 0 ∨ 2 ^ 48 ≤ marg m 0 then (3, s)
          else (0, { s with host := { s.host with windows := (port, marg m 0) :: s.host.windows.filter fun p => p.1 != port } }))
      ∧ (∀ op, ¬(1 ≤ op ∧ op ≤ 14) → starts (.badop port op) op fun s => (2, s))
      ∧ (s.host.holder 0 = port → s.host.mgmt = none → (s.ctx? (marg m 0)).isSome = true → ∃ t x, exec (.tlbinv port) s = .next t ∧ t.host.mgmt = some x ∧ x.status = 0
          ∧ x.asid = marg m 0 ∧ x.before = s.nextId ∧ t.tlb = s.tlb.filter fun y => !y.inRange (marg m 0) (marg m 1) (marg m 2))
      ∧ (s.host.holder 0 = port → s.host.mgmt = none → s.ctx? (marg m 0) = none → ∀ i, i = .tlbinv port ∨ i = .migout port ∨ i = .migin port → ∃ t x,
          exec i s = .next t ∧ t.host.mgmt = some x ∧ x.status = 3)
      ∧ (∀ c, s.host.holder 0 = port → s.host.mgmt = none → s.ctx? (marg m 0) = some c → s.mayLeave c = true → ∃ t x, exec (.migout port) s = .next t
          ∧ t.host.mgmt = some x ∧ x.status = 0 ∧ ∀ v ∈ t.saved, v.asid = c.asid → v.complete = true)
      ∧ (∀ c l, s.host.holder 0 = port → s.host.mgmt = none → s.ctx? (marg m 0) = some c → marg m 2 ≤ 1048576 → s.readImages c (marg m 1) (marg m 2) = some l →
          ∃ t x, exec (.migin port) s = .next t ∧ t.host.mgmt = some x ∧ x.status = 0)
      ∧ (∀ r, s.host.mgmt = some r → (r.before = 0 ∨ s.invDone r.asid r.before = true) → exec .mgmtComplete s = .next { s with host := { s.host with
          mstat := BitVec.ofNat 64 (2 ^ 63 + (if r.overrun then 2 ^ 62 else 0) + r.status % 256), mgmt := none
          raised := if (marg r.margs 5) / 2 ^ 15 % 2 = 1 then s.host.raised ++ [(r.port, marg r.margs 5 % 2 ^ 11)] else s.host.raised } }))
  ∧ (∀ (s : State) (port : Nat) (m : List DWord),
      let b := s.physBytes (marg m 0) 128
      let sixteen := fun (x : Nat) => x % 2 ^ 16
      ((marg m 0 % 128 ≠ 0 ∨ 2 ^ 48 ≤ marg m 0 ∨ parseContext b = none) → s.createContext m = (3, s))
      ∧ (∀ c, marg m 0 % 128 = 0 → marg m 0 < 2 ^ 48 → parseContext b = some c →
        (c.asid = fld b 4 2 ∧ 1 ≤ c.asid ∧ c.maxg = fld b 0 4 % 32 ∧ c.trapen.toNat = fld b 0 4 / 2 ^ 8 % 32 ∧ c.pcont = decide (fld b 0 4 / 2 ^ 16 % 2 = 1) ∧ c.ptbits = fld b 0 4 / 2 ^ 19 % 32
          ∧ c.lease = 16 * 2 ^ (fld b 0 4 / 2 ^ 24 % 8) ∧ c.ptbase = fld b 8 8 ∧ c.eqbase.toNat = fld b 0x10 8 ∧ c.eqlen = fld b 0x18 4 ∧ c.fqlen = fld b 0x1C 4 ∧ c.fqbase.toNat = fld b 0x20 8
          ∧ c.spill.toNat = fld b 0x28 8 ∧ c.thrlim = fld b 0x30 4 ∧ c.dlt = (if fld b 0x34 4 = 0 then 500 else fld b 0x34 4) ∧ c.devpg.toNat = fld b 0x38 8 ∧ c.exchp.toNat = fld b 0x40 8
          ∧ c.save.toNat = fld b 0x48 8 ∧ c.savelen = fld b 0x50 8 ∧ c.tids = [] ∧ c.exch = [] ∧ c.preempts = [] ∧ c.fprod = 0 ∧ c.fheld = 0 ∧ c.eprod = 0 ∧ c.edrop = 0 ∧ c.ecount = 0 ∧ c.share = 0)
        ∧ (∀ x, s.ctx? c.asid = some x → s.createContext m = (5, s))
        ∧ (s.ctx? c.asid = none → 1024 ≤ s.contexts.length → s.createContext m = (6, s))
        ∧ (s.ctx? c.asid = none → s.contexts.length < 1024 →
          let clear := fun (u : State) (va : DWord) => (u.ctlWrite c.asid va.toNat (List.replicate 64 0)).getD u
          s.createContext m = (0, (clear (clear { s with contexts := s.contexts ++ [c] } c.fqbase) c.eqbase).watchFcons c.asid)))
      ∧ (s.ctx? (marg m 0) = none → s.destroyContext m = (3, s))
      ∧ (∀ c, s.ctx? (marg m 0) = some c → s.contextBusy (marg m 0) = true → s.destroyContext m = (4, s))
      ∧ (∀ c, s.ctx? (marg m 0) = some c → s.contextBusy (marg m 0) = false → ∃ t, s.destroyContext m = (0, t)
        ∧ t.contexts = (s.contexts.filter fun c => c.asid != marg m 0) ∧ t.monitors = (s.monitors.filter fun x => x.asid != marg m 0)
        ∧ t.tlb = (s.tlb.filter fun x => x.asid != marg m 0) ∧ t.queues = (s.queues.filter fun x => x.asid != marg m 0) ∧ t.groups = s.groups ∧ s.sameMemory t)
      ∧ (let a := marg m 2
        let logn := a / 2 ^ 19 % 2 ^ 5
        (∀ x, s.queue? (marg m 0) = some x → s.bindQueue port m = (4, s))
        ∧ (s.queue? (marg m 0) = none → (255 < marg m 0 ∨ s.ctx? (sixteen a) = none ∨ marg m 1 % 64 ≠ 0 ∨ logn < 1 ∨ 15 < logn ∨ a / 2 ^ 24 ≠ 0) → s.bindQueue port m = (3, s))
        ∧ (s.queue? (marg m 0) = none → ¬(255 < marg m 0 ∨ s.ctx? (sixteen a) = none ∨ marg m 1 % 64 ≠ 0 ∨ logn < 1 ∨ 15 < logn ∨ a / 2 ^ 24 ≠ 0) →
          s.bindQueue port m = (0, { s with queues := s.queues ++ [{ q := marg m 0, asid := sixteen a, base := BitVec.ofNat 64 (marg m 1), logn := logn, prio := a / 2 ^ 16 % 8
                                                                     tag := sixteen (marg m 3), port := port }] })))
      ∧ (s.queue? (marg m 0) = none → s.unbindQueue m = (3, s) ∧ s.resumeQueue m = (3, s))
      ∧ (∀ x, s.queue? (marg m 0) = some x →
        ((x.record.isSome = true ∨ ∃ c ∈ x.cmds, c.complete = false) → s.unbindQueue m = (4, s))
        ∧ (x.record = none → (∀ c ∈ x.cmds, c.complete = true) → s.unbindQueue m = (0, ({ s with queues := s.queues.filter fun y => y.q != x.q } : State).unhold fun h => h == .command x.q))
        ∧ (x.stopped = false → s.resumeQueue m = (4, s))
        ∧ (x.stopped = true → s.resumeQueue m = (0, s.updQueue x.q fun y => { y with stopped := false, misses := 0, refetch := none, tag := sixteen (marg m 1) })))
      ∧ ∀ cores, ∀ c, s.ctx? (marg m 0) = some c → s.preemptOn (marg m 0) cores false = s.updCtx (marg m 0) fun y =>
        { y with preempts := (y.preempts.filter fun p => !cores.contains p.core) ++ cores.map fun k => { core := k, due := s.tsc + y.dlt * 1000, auto := false } })

/-! ### Queues, launches and graphs as the control die runs them (R293, R294, R302, R307, R311, R331, R362, R417) -/

/-- COMMAND_FETCH and RECORD_REFETCH (R293, R294, R362). The command processor serves the queue of the highest priority whose head, a record or a LAUNCH word (R338), can start; a record whose sequence field is
not the expected tag is fetched again 1 µs later; one whose tag matches and whose fields are as R361 has them becomes the queue's started
command, and the head and the tag move on by one. -/
def Obligations.CommandFetchEvents : Prop :=
  ∀ (s : State) (x : Queue) (q t : Nat) (b : List Byte),
    let va := x.base.toNat + 64 * x.head
    let picked : State := { s with proc := { last := (x.prio, x.q) :: s.proc.last.filter fun p => p.1 != x.prio } }
    let starts := fun (y : Queue) => s.canStart y = true ∨ s.wordReady y = true
    let next := fun (u : State) => u.updQueue x.q fun y =>
      { y with head := (y.head + 1) % 2 ^ y.logn, tag := (y.tag + 1) % 2 ^ 16, misses := 0, refetch := none, dead := [], record := some b
               count := y.count + 1
               cmds := (y.cmds.filter fun c => !c.complete) ++ [{ n := x.count, op := fld b 2 1, msix := if fld b 3 1 % 2 = 1 then some (fld b 6 2) else none, port := x.port }] }
    let again := fun (u : State) => u.updQueue x.q fun y => { y with misses := y.misses + 1, refetch := some (s.tsc + 1000), dead := [] }
    (s.nextQueue = some x → x ∈ s.queues ∧ starts x ∧ ∀ y ∈ s.queues, starts y → y.prio ≤ x.prio ∨ 7 < y.prio ∨ 7 < x.prio)
    ∧ (s.nextQueue = some x → s.canStart x = true → picked.cpRead x.asid x.dead va 64 = .ok (some b) → fld b 0 2 = x.tag → recordOk b = true →
      exec .commandFetch s = .next (next picked))
    ∧ (s.nextQueue = some x → s.canStart x = true → picked.cpRead x.asid x.dead va 64 = .ok (some b) → fld b 0 2 ≠ x.tag → x.misses < 64 →
      exec .commandFetch s = .next (again picked))
    ∧ (s.queue? q = some x → x.refetch = some t → t ≤ s.tsc → x.stopped = false → x.heldFault = false
      → s.cpRead x.asid x.dead va 64 = .ok (some b) → fld b 0 2 = x.tag → recordOk b = true → exec (.recordRefetch q) s = .next (next s))

/-- The records of a queue (R293, R302, R311, R325, R338, R361). A launch is read, checked and dealt, and comes to a span or to its status, or waits while the sweep of its tree runs; a LAUNCH
word does so at its turn among the queues; a copy is handed to a copy engine, a release at its
time and marked late after it; WAITWORD enters a monitor of its queue, whose wake completes the command; FENCE is complete once every earlier command is.

How a launch is judged and dealt (R29, R303, R326). The descriptor's completion word, N, GSZ and rectangle are where R325 has them, and the present cores of the rectangle stand in row-major order; RECT, NOCORE and NOGROUP hold
where R326 says, and the lowest code of those that hold is the status. A launch with none deals groups: group k of a rectangle goes to the list's entry k mod P; a leaf group to the present cores of its leaf's home die by
that die's counter, or else to the whole list by the other counter. A refusal's status is 2^63 and its code, a launch that selects no leaf ends with 1, and what is dealt is one span whose groups wait for their cores. -/
def Obligations.RecordEvents : Prop :=
  (∀ (s : State) (q : Nat) (x : Queue) (b : List Byte) (n : Nat),
      (∀ op i, (op = 1 ∧ i = Instr.launchCommand q) ∨ (op = 2 ∧ i = Instr.launchLeaf q) → s.started q op = some (x, b, n) → s.startedNow = false → fld b 8 8 % 64 = 0 →
        (∀ r k, s.tryLaunch x.asid x.dead (fld b 8 8) (some (op == 2)) [] x.kept = .ok (r, k) → (∀ root, r ≠ .waits root) →
          exec i s = .next ((s.dispatched q n).launchOutcome x.asid q (fld b 0 2) x.prio (some n) (fld b 8 8) r))
        ∧ (∀ root k, s.tryLaunch x.asid x.dead (fld b 8 8) (some (op == 2)) [] x.kept = .ok (.waits root, k) →
          exec i s = if x.kept = k then notEnabled else .next (s.updQueue q fun y => { y with kept := k })))
      ∧ (∀ r, s.started q 1 = none → s.startableWord q = some (r, none) → s.startedNow = false → exec (.launchCommand q) s = .next (s.launchWord r))
      ∧ (∀ r y, s.started q 1 = none → s.startableWord q = some (r, some y) → s.startedNow = false →
        exec (.launchCommand q) s = .next ((s.servedQueue y).launchWord r))
      ∧ (s.started q 4 = some (x, b, n) → exec (.copyCommand q) s = .next (s.handCopy x b n false))
      ∧ (s.started q 6 = some (x, b, n) → x.release = none →
        exec (.release q) s = .next (if s.tsc < fld b 0x10 8 then s.updQueue q fun y => { y with release := some (fld b 0x10 8) } else s.handCopy x b n (decide (fld b 0x10 8 < s.tsc))))
      ∧ (∀ t, s.started q 6 = some (x, b, n) → x.release = some t → t ≤ s.tsc → exec (.releaseTime q) s = .next (s.handCopy x b n false))
      ∧ (∀ y m r, s.started q 5 = some (x, b, n) → s.translateAll ctlUnit 0 x.asid (fld b 8 8) (if bits (fld b 0x18 8) 3 1 = 1 then 8 else 4) { r := true } = .ok ((y, m) :: r)
        → y.host = none → y.dev = false → y.fut = false →
        ∃ t e, exec (.waitword q) s = .next t ∧ t.monitors = s.monitors ++ [e] ∧ e.who = .queue q ∧ e.pa = y.pa ∧ e.cmp = fld b 0x18 8 % 8 ∧ e.opnd.toNat = fld b 0x10 8
          ∧ e.timeout = 0 ∧ s.sameMemory t)
      ∧ (∀ (m : Monitor) (c : CmdRec), m.who = .queue q → s.queue? q = some x → (x.cmds.find? fun c => c.op == 5 && !c.complete) = some c →
        s.wakeMonitor m 0 = ({ s with monitors := s.monitors.filter fun y => y.id != m.id } : State).queueCmdDone q c.n)
      ∧ (s.started q 8 = some (x, b, n) → (∀ c ∈ x.cmds, c.n = n ∨ c.complete = true) → exec (.fenceCommand q) s = .next ((s.dispatched q n).queueCmdDone q n))
      ∧ (s.started q 7 = some (x, b, n) → ∃ t c, exec (.collCommand q) s = .next t ∧ t.linkCmds = s.linkCmds ++ [c] ∧ c.fn = 0 ∧ c.oct = natToWords 8 (fld b 0x20 32) ∧ c.queue = some (q, n) ∧ s.sameMemory t))
  ∧ (∀ (s : State) (asid : Nat) (dead : List Nat) (va : Nat) (want : Option Bool) (k0 k1 : Kept) (i : LaunchInfo), s.readLaunch asid dead va want k0 = .ok (some i, k1) →
      let low := fun (code : Nat) => code ∈ i.codes ∧ ∀ c ∈ i.codes, code ≤ c
      (∃ b k, s.cpBytes asid dead va 64 k0 = .ok (some b, k) ∧
        let lw := fld b 0xA 1
        let lh := fld b 0xB 1
        i.cw = fld b 0x20 8 ∧ i.x0 = fld b 8 1 ∧ i.y0 = fld b 9 1 ∧ i.n = fld b 0xC 4 ∧ i.gsz = fld b 0x10 2 ∧ i.leaf = decide (fld b 0x12 2 % 2 = 1) ∧ i.w = 2 ^ min lw 5 ∧ i.h = 2 ^ min lh 4
        ∧ i.cores = (((List.range i.h).flatMap fun r => (List.range i.w).filterMap fun c => coreAt (i.x0 + c) (i.y0 + r)).filter fun c => decide (c < 320) && !s.fused.contains c)
        ∧ (0x20 ∈ i.codes ↔ 5 < lw ∨ 4 < lh ∨ 31 < i.x0 ∨ 15 < i.y0 ∨ i.x0 % i.w ≠ 0 ∨ i.y0 % i.h ≠ 0)
        ∧ (0x21 ∈ i.codes ↔ i.cores = [])
        ∧ (0x22 ∈ i.codes ↔ (i.n = 0 ∧ i.leaf = false) ∨ (i.n ≠ 0 ∧ i.leaf = true) ∨ i.gsz = 0 ∨ 1024 < i.gsz)
        ∧ ((∀ l, want = some l → l ≠ i.leaf → 0x26 ∈ i.codes) ∧ (i.cw % 8 ≠ 0 → 0x26 ∈ i.codes)))
      ∧ (∀ code, low code → (∀ k, i.kernel = some k → k.bars = false) → s.tryLaunch asid dead va want [] k0 = .ok (.refused i.cw code, k1))
      ∧ (∀ k, i.codes = [] → i.leaf = false → i.kernel = some k → (k.bars = false ∨ ∀ c ∈ dealCounts i [], fitTogether (((s.ctx? asid).map (·.maxg)).getD 0) k i.gsz c = true) →
        s.tryLaunch asid dead va want [] k0 = .ok (.dealt i k (.rect i.cores (List.range i.cores.length)) i.n, k1))
      ∧ (∀ k, i.codes = [] → i.leaf = false → i.kernel = some k → k.bars = true → (∃ c ∈ dealCounts i [], fitTogether (((s.ctx? asid).map (·.maxg)).getD 0) k i.gsz c = false) →
        s.tryLaunch asid dead va want [] k0 = .ok (.refused i.cw 0x24, k1))
      ∧ (∀ x : Span, x.deal = .rect i.cores (List.range i.cores.length) → i.cores.Nodup → ∀ j core, i.cores[j]? = some core →
        (j < x.n → x.nextFor core = some (j, none)) ∧ (j + i.cores.length < x.n → (x.take core j).nextFor core = some (j + i.cores.length, none))
        ∧ ∀ other, other ≠ core → (x.take core j).nextFor other = x.nextFor other)
      ∧ (∀ (root : DWord) (y : LeafSlot) (ys : List LeafSlot) (ch : List Nat) (cx g : Nat), i.cores ≠ [] → ∃ core info, (s.dealLeaves asid root i.cores (y :: ys) ch cx g).head? = some (core, g, info)
        ∧ info.root = root ∧ info.slot = y.slot
        ∧ (∀ a, s.translate ctlUnit 0 asid y.va {} = .ok a → a.host = none → a.dev = false → (i.cores.filter fun c => coreDie c == a.home) ≠ [] →
          let near := i.cores.filter fun c => coreDie c == a.home
          near[ch.getD a.home 0 % near.length]? = some core)
        ∧ ((∀ a, s.translate ctlUnit 0 asid y.va {} = .ok a → a.host = none → a.dev = false → ∀ c ∈ i.cores, coreDie c ≠ a.home) → (∀ c ∈ i.cores, coreDie c ≠ 0) →
          i.cores[cx % i.cores.length]? = some core))
      ∧ (∀ q tag prio n desc cw code, (s.launchOutcome asid q tag prio (some n) desc (.refused cw code)) = s.finishCmd asid q (some n) cw (2 ^ 63 + code)
        ∧ (s.launchOutcome asid q tag prio (some n) desc (.nothing cw)) = s.finishCmd asid q (some n) cw 1)
      ∧ (∀ q tag prio n desc k d m, ∃ sp, (s.launchOutcome asid q tag prio (some n) desc (.dealt i k d m)).spans = s.spans ++ [sp] ∧ sp.deal = d ∧ sp.n = m ∧ sp.asid = asid ∧ sp.prio = prio
        ∧ sp.cw = BitVec.ofNat 64 i.cw ∧ sp.args = i.args ∧ sp.gsz = i.gsz ∧ sp.alloc = k.alloc ∧ sp.cbase = BitVec.ofNat 64 k.code ∧ sp.entry = k.entry))

/-- GRAPH_COMMAND, NODE_DISPATCH and COALESCE_TIMER (R307, R310, R327, R331, R332). A graph that passes its checks is entered with its entry nodes due; a refused one gets its status. A node is
dispatched for what is due, for its oldest committed record, or for a batch, at the tick when it became full; a batch whose timer has run goes with what it holds. At or past its cut-off its fallback
gets the dispatch in its place; that the node counts as run, and as ended at that tick, is the model's choice, log 52. -/
def Obligations.GraphEvents : Prop :=
  ∀ (s : State) (q n graph : Nat) (x : Queue) (b : List Byte) (g : Graph) (y : GNode),
    (s.started q 3 = some (x, b, n) → fld b 8 8 % 64 = 0 →
      (∀ cw code k, s.tryGraph x n (fld b 0 2) (fld b 8 8) x.kept = .ok (.refused cw code, k) →
        exec (.graphCommand q) s = .next ((s.dispatched q n).finishCmd x.asid q (some n) cw (2 ^ 63 + code)))
      ∧ (∀ k, s.tryGraph x n (fld b 0 2) (fld b 8 8) x.kept = .ok (.started g, k) → ∃ u : State, u.graphs = s.graphs ++ [g] ∧ exec (.graphCommand q) s = .next (u.settleGraph g.id)))
    ∧ (s.openNode graph n = some (g, y) →
      (∀ t succ recs rest, y.ready = (t, succ, recs) :: rest →
        exec (.nodeDispatch graph n) s = .next (s.dispatchNode g y t succ recs fun s => s.updNode g.id y.n fun z => { z with ready := rest }))
      ∧ (∀ c w, y.ready = [] → g.waiting y = c :: w → y.kind ≠ 2 → exec (.nodeDispatch graph n) s = .next (s.dispatchRecords g y c.2.2 1))
      ∧ (∀ c w t k, y.ready = [] → g.waiting y = c :: w → y.kind = 2 → s.batchDue g y = some (t, k, false) →
        exec (.nodeDispatch graph n) s = .next (s.dispatchRecords g y t k))
      ∧ (∀ t k, y.kind = 2 → s.batchDue g y = some (t, k, true) → exec (.coalesceTimer graph n) s = .next (s.dispatchRecords g y t k)))
    ∧ (∀ c w, g.waiting y = c :: w → (∀ z ∈ g.edges, z.n = y.inedge → g.nodeDone (g.nodes.length + 1) z.prod = false) →
      let holds := fun (t : Nat) => min y.nb ((c :: w).filter fun z => decide (z.2.2 ≤ t)).length
      (∀ r, (c :: w)[y.nb - 1]? = some r → r.2.2 < c.2.2 + y.timer → s.batchDue g y = some (r.2.2, holds r.2.2, false))
      ∧ ((c :: w)[y.nb - 1]? = none → c.2.2 + y.timer ≤ s.tsc → s.batchDue g y = some (c.2.2 + y.timer, holds (c.2.2 + y.timer), true)))
    ∧ (∀ t succ recs drop, y.deadline ≠ 0 → y.deadline ≤ t + y.margin → s.dispatchNode g y t succ recs drop
        = (((drop s).updNode g.id y.n fun z => { z with ran := true, lastEnd := s.tsc }).updNode g.id y.fallback fun z => { z with ready := z.ready ++ [(t, succ, recs)] }).settleGraph g.id)

/-! ### Groups on their cores (R19, R23, R25, R30, R294, R315-R320) -/

/-- A group at its start (R19, R22, R23): its threads are numbered from 0 and stand at the entry packet, slot 0, with their registers and predicates zero but p0, their flags clear and
their rounding mode RNE; s1 to s15 hold the arguments and every other uniform register zero.

GROUP_RESIDENT and GROUP_END (R25, R30, R294). The first waiting group of a core becomes resident there once it fits, its context's thread limit leaves room beside the threads of its resident and saved groups, and what wrote its start is past its completion time; that the limit
is looked at then is the model's choice, log 53, and when a pre-emption that the core asked for is lifted with it is the model's choice, log 23; a group whose threads have ended
and whose operations are done, with no dirty word in a bound tile and its writes past their completion time, leaves its core; the last group of a span
waits for the span's result words too (R231). -/
def Obligations.GroupStartAndLife : Prop :=
  (∀ (x : Span) (gid grp core slot cycle : Nat) (leaf : Option LeafInfo) (tid : Nat),
      let g := x.group gid grp core slot cycle leaf
      g.threads.length = x.gsz
      ∧ (∀ k, k < 64 → (g.uregs.toList.getD k 0) = if 1 ≤ k ∧ k ≤ 15 then x.args.getD (k - 1) 0 else 0)
      ∧ (tid < x.gsz → ∃ t, g.thread? tid = some t ∧ t.pc = { pkt := x.cbase + BitVec.ofNat 64 (12 * x.entry), slot := 0 } ∧ t.st = .ready ∧ (∀ n, n < 64 → t.reg n = 0)
          ∧ t.pred 0 = true ∧ (∀ p, 1 ≤ p → p < 8 → t.pred p = false) ∧ t.flags = 0 ∧ t.rmode = .rne ∧ t.nLoad = 0 ∧ t.nStore = 0 ∧ t.popen = false))
  ∧ (∀ (s : State) (core gid rank since grp : Nat) (x : Span) (leaf : Option LeafInfo) (c : Context) (g : Group),
      (s.firstWaiting core = some (rank, since, x, .fresh x.sid grp leaf) → s.ctx? x.asid = some c → s.threadsOf x.asid + x.gsz ≤ c.thrlim → (x.after = 0 ∨ x.after < s.tsc)
        → s.fits core x.asid x.gsz x.alloc (declBytes x.tiles 0) (declBytes x.tiles 1) = true → x.tiles = [] →
        ∃ t h, exec (.groupResident core) s = .next t ∧ t.groups = s.groups ++ [h] ∧ h.gid = s.nextId ∧ h.core = core ∧ h.grp = grp ∧ h.asid = x.asid ∧ h.threads.length = x.gsz ∧ s.sameMemory t)
      ∧ (s.firstWaiting core = some (rank, since, x, .fresh x.sid grp leaf) → s.ctx? x.asid = some c → s.threadsOf x.asid + x.gsz ≤ c.thrlim → (x.after = 0 ∨ x.after < s.tsc)
        → s.fits core x.asid x.gsz x.alloc (declBytes x.tiles 0) (declBytes x.tiles 1) = true →
        exec (.groupResident core) s = .next ((s.makeResident x core grp leaf).liftAuto core x.asid))
      ∧ (s.group? gid = some g → g.hold = false → g.role = .solo → (∀ t ∈ g.threads, t.st = .exited ∧ t.gw < s.tsc) → s.quiet gid = true → s.dirtyTiles g = []
        → (∀ o ∈ s.owed, o.gid = gid → o.gw < s.tsc)
        → (∀ y, s.span? g.sid = some y → y.ended + 1 < y.n ∨ ((y.gw < s.tsc ∨ y.gw = 0) ∧ (∀ w ∈ s.cwrites, w.result = true → w.sid ≠ y.sid) ∧ (∀ o ∈ s.owed, o.sid = y.sid → o.gw < s.tsc)
          ∧ ∀ a ∈ s.accs, a.gid ∉ y.killed)) →
        exec (.groupEnd gid) s = .next (((({ s with tandems := s.tandems.filter fun t => t.leader != gid } : State).dropGroup g).groupDone g.sid g.grp).serveEdges)))

/-- AUTO_PREEMPT, DEADLINE_EXPIRY, GROUP_SAVE and GROUP_RESTORE (R315-R320). A waiting group of two priorities more pre-empts, after 100 µs, the context of the lowest priority on its core; at the end of the
deadline timer the spans of the context that still hold a due core end, with a record of kind 0xB; a group that may be saved is, and a saved one comes back when it is the first that waits and fits. -/
def Obligations.PreemptionEvents : Prop :=
  ∀ (s : State) (core gid rank since p asid : Nat) (x : Span) (w : Waiting) (c : Context) (g : Group) (v : Saved),
    ((rank, since, x, w) ∈ s.waitersOf core → s.lowestOn core = some (p, asid) → s.ctx? asid = some c → (∀ e ∈ c.preempts, e.core ≠ core)
      → since + 100000 ≤ s.tsc → p + 2 ≤ x.prio → ∃ t d, exec (.autoPreempt core) s = .next t ∧ t.ctx? asid = some d
        ∧ d.preempts = c.preempts ++ [{ core := core, due := s.tsc + c.dlt * 1000, auto := true }] ∧ t.groups = s.groups ∧ s.sameMemory t)
    ∧ (s.ctx? asid = some c → (∃ e ∈ c.preempts, e.due ≠ 0 ∧ e.due ≤ s.tsc) → (∀ h ∈ s.groups, h.asid ≠ asid) →
      exec (.deadlineExpiry asid) s = .next (s.updCtx asid fun y => { y with preempts := y.preempts.map fun e =>
        if ((c.preempts.filter fun e => e.due != 0 && decide (e.due ≤ s.tsc)).map (·.core)).contains e.core then { e with due := 0 } else e }))
    ∧ (s.ctx? asid = some c → (∃ e ∈ c.preempts, e.due ≠ 0 ∧ e.due ≤ s.tsc ∧ ∃ h ∈ s.groups, h.asid = asid ∧ h.core = e.core) → (∀ h ∈ s.groups, h.role = .solo) →
      ∃ t, exec (.deadlineExpiry asid) s = .next t ∧ (∃ r ∈ t.errors, r.kind = 0xB ∧ r.asid = asid)
        ∧ ∀ h ∈ t.groups, ¬(h.asid = asid ∧ ∃ e ∈ c.preempts, e.due ≠ 0 ∧ e.due ≤ s.tsc ∧ e.core = h.core))
    ∧ (∀ u, s.group? gid = some g → s.attached g = [g] → s.preempted g = true → s.groupSavable g = true → s.tilesOf g = [] → s.dirtyTiles g = []
      → (s.oweUnit g.asid g.core 0).saveAll false [g] = .ok u → exec (.groupSave gid) s = .next u)
    ∧ (∀ u, (s.saved.find? fun v => v.gid == gid) = some v → s.firstWaiting v.core = some (rank, since, x, .saved gid) → s.fits v.core v.asid v.gsz v.alloc v.need0 v.need1 = true
      → s.writeWoken.restore v = .ok u → exec (.groupRestore gid) s = .next ((u.liftAuto v.core v.asid).settleGroup gid))

/-! ### The end of what the engines do (R160-R167, R190, R206, R243, R244, R258-R264, R334) -/

/-- COPY_COMPLETE, TILE_ROW_FILL, the matrix events and TILE_OPERATION_COMPLETE. A copy that has moved its data tells its threads and writes its completion word once its writes are past their completion time; a
row of a bound tile is filled whole, for all threads that wait for it; a matrix command starts at the head of its core, waits for its ring slot, and completes with its flags for its threads that
have not ended; TFLUSH and
TFREE complete when what they wrote back is past its completion time, with status 0.

FIELD_WORD_COMPLETE, ALLOCATOR_REQUEST and SWEEP (R190, R191, R193, R206). A field word's result goes to its destination, which pends no longer, and its counter goes down, once what it wrote is past its completion time;
the allocator serves the oldest request, but for while a sweep runs; a tree marked for its sweep is swept when nothing holds it, and the sweep ends once its writes are past their completion time. -/
def Obligations.EngineCompletionEvents : Prop :=
  (∀ (s : State) (id core uid row : Nat) (c : Copy) (m : Mx) (o : TileOp) (g : Group),
      ((s.copies.find? fun c => c.id == id) = some c → c.heldFault = false → c.moved = true → (c.gw = 0 ∨ c.gw < s.tsc) → c.cw = 0 →
        exec (.copyComplete id) s = .next ((if c.told then s else s.tellCopy c).endCopy { c with told := true }))
      ∧ (∀ u gw, (s.copies.find? fun c => c.id == id) = some c → c.heldFault = false → c.moved = true → (c.gw = 0 ∨ c.gw < s.tsc) → c.cw ≠ 0 →
        let s1 := if c.told then s else s.tellCopy c
        s1.vwrite c.core (coreDie c.core) c.asid c.cw (natToBytes 8 ((if c.fail = 0 then 1 else 2 ^ 63 + c.fail) + if c.late then 2 ^ 62 else 0)) = .ok (u, gw) →
        exec (.copyComplete id) s = .next (u.endCopy { c with told := true }))
      ∧ (∀ t ws u, s.fillWaiters uid row = (g, t) :: ws → s.fillRow g.core uid row = .ok u →
        exec (.tileRowFill uid row) s = .next (((g, t) :: ws).foldl (fun s x => s.wakeThread x.1.gid x.2.tid) u))
      ∧ (s.mxHead core = some m → m.started = false → m.heldFault = false → exec (.matrixCommandStart core) s = .next (s.runMx m))
      ∧ (∀ t r, s.mxHead core = some m → m.waitRing = true → (m.tiles[1]?).bind s.tile? = some t → t.ring = some r → 1 ≤ (r.prod - r.cons).toNat → (r.prod - r.cons).toNat < 2 ^ 31 →
        exec (.ringSlotReady core) s = .next (s.runMx m))
      ∧ (s.mxHead core = some m → m.finished = true → (m.gw = 0 ∨ m.gw < s.tsc) → m.fail = 0 →
        exec (.matrixCommandComplete core) s = .next (({ s with
          mxs := s.mxs.filter fun x => x.id != m.id
          mxDone := s.mxDone ++ (m.tids.filter fun t => ((s.thread? m.gid t).map fun x => x.st != .exited).getD false).map fun t => { gid := m.gid, tid := t, flags := m.flags } } : State).finishAll m.gid m.tids 3))
      ∧ ((s.tileOps.find? fun o => o.id == id) = some o → s.group? o.gid = some g → o.heldFault = false → (o.handle, o.tile) ∈ g.handles → o.status = 0 → o.wrote = true → o.gw < s.tsc →
        exec (.tileOperationComplete id) s = .next (s.endTileOp o 0)))
  ∧ (∀ (s : State) (id asid root : Nat) (o : FieldOp) (ws : List Word) (t : Thread) (m : Marked),
      ((s.fieldOps.find? fun o => o.id == id) = some o → o.result = some ws → (o.gw = 0 ∨ o.gw < s.tsc) → s.thread? o.gid o.tid = some t → t.st ≠ .exited
        → o.shadow = t.popen → o.poison = false → ws.length = o.dcnt → o.dst + o.dcnt ≤ 64 →
        ∃ u x, exec (.fieldWordComplete id) s = .next u ∧ u.thread? o.gid o.tid = some x
          ∧ (∀ k, k < o.dcnt → o.dst + k ≠ 0 → x.reg (o.dst + k) = ws.getD k 0 ∧ x.pend.getLsbD (o.dst + k) = false)
          ∧ (∀ n, n < 64 → (n < o.dst ∨ o.dst + o.dcnt ≤ n) → x.reg n = t.reg n) ∧ x.outstanding o.cls = t.outstanding o.cls - 1 ∧ x.preds = t.preds ∧ s.sameMemory u)
      ∧ (∀ q r, s.allocHeld = false → (∀ m ∈ s.marked, m.held = false ∧ m.swept = false) → s.allocQ = .word id :: q → (s.fieldOps.find? fun o => o.id == id) = some o → o.tree = some r → exec .allocatorRequest s = .next (s.serveWord_ o r))
      ∧ (∀ u, (s.marked.find? fun m => m.asid == asid && m.tree.root.toNat == root) = some m → m.held = false → s.allocHeld = false → (∀ y ∈ s.marked, y.swept = false) → s.treeHeld m.tree.root = false
        → s.sweepTree asid m.tree = .ok u → ∃ v, exec (.sweep asid root) s = .next v ∧ (∀ a, v.physByte a = u.physByte a)
          ∧ v.marked.length = u.marked.length ∧ ∀ y ∈ v.marked, y.asid = asid → y.tree.root = m.tree.root → y.swept = true ∧ y.gw = u.lastGwct)
      ∧ ((s.marked.find? fun m => m.asid == asid && m.tree.root.toNat == root) = some m → m.swept = true → m.gw < s.tsc →
        exec (.sweep asid root) s = .next { s with marked := s.marked.filter fun y => !(y.asid == asid && y.tree.root == m.tree.root) }))

/-! ### Links between devices, and tandem mode (R313, R314, R397-R406) -/

/-- LINK_COMMAND_COMPLETE, STEP_REPORT and LINK_WRITE_ARRIVAL (R263, R313, R314). A link command that has moved its data tells its threads and ends when its writes are past their completion time; a step that a neighbour
reports, once what it sent before has landed, is its entry's new value, and serves the waits it completes; a plain write that arrives is landed, and a halo record goes to the allocator's queue. -/
def Obligations.DeviceLinkEvents : Prop :=
  ∀ (s : State) (id asid exch n va : Nat) (c : LinkCmd) (e : Exch) (x : Context) (step : Word) (data : List Byte) (u : State),
    ((s.linkCmds.find? fun c => c.id == id) = some c → c.heldFault = false → c.fn ≠ 3 → c.moved = true → c.cw = 0 → (c.gw = 0 ∨ c.gw < s.tsc)
      → (∀ y ∈ s.linkCmds, y.asid = c.asid → y.exch = c.exch → y.fn ≠ 3 → c.id ≤ y.id) →
      exec (.linkCommandComplete id) s = .next ((if c.told then s else s.tellLink c).endLink { c with told := true }).settleSteps)
    ∧ (s.ctx? asid = some x → exch < 64 → (∀ a ∈ s.arrivals, a.asid ≠ asid) → s.loadExch asid exch = .ok u → u.exch? asid exch = some e → n < e.nn →
      exec (.stepReport asid exch n step) s = .next (u.setExch asid { e with nbr := setAt e.nbr n step }).settleSteps)
    ∧ (s.ctx? asid = some x → exec (.linkWriteArrival asid va data none) s
        = .next (s.fresh.landArrival { id := s.nextId, asid := asid, va := va, data := data, origin := none }))
    ∧ (∀ o, s.ctx? asid = some x → ∃ t, exec (.linkWriteArrival asid va data (some o)) s = .next t ∧ t.allocQ = s.allocQ ++ [.halo s.nextId]
        ∧ t.arrivals = s.arrivals ++ [{ id := s.nextId, asid := asid, va := va, data := data, origin := some o }] ∧ s.sameMemory t)

/-- TRAILER_ACCESS, TANDEM_WAIT_TIMEOUT and TANDEM_CHECKPOINT (R397-R406). The trailer's next access whose signature is its entry's releases the leader's, and the trailer goes on; one whose signature differs, or a wait of the trailer of 100 µs, is a
mismatch; a checkpoint is taken once the buffer is full and everything in it released, at a place where both copies have made those accesses and no register is still to come, each thread where it stands, at a trap or a held access
too (what the two copies must have come to is the model's choice, log 60). -/
def Obligations.TandemEvents : Prop :=
  ∀ (s : State) (gid tid : Nat) (t : Tandem) (x : Thread) (l r : Group) (e : CEntry),
    s.tandem? gid = some t → s.copies? t = some (l, r) →
    (r.gid = gid → s.thread? gid tid = some x → x.st = .waiting → (t.entries.find? fun e => e.tid == tid && e.k == x.tacc + 1 && !e.released) = some e →
      (∀ u, e.sig = x.tsig → (e.faulted = false ∨ e.acc ≠ none) → s.releaseAcc l e = some u → ∃ v : State, exec (.trailerAccess gid tid) s = .next (v.wakeThread gid tid)
        ∧ (∀ a, v.physByte a = u.physByte a) ∧ v.accs = u.accs)
      ∧ (e.sig ≠ x.tsig → exec (.trailerAccess gid tid) s = .next (s.mismatch t tid (sigAddr e.sig) e.pc (sigData e.sig) (sigData x.tsig))))
    ∧ (∀ y, t.due = false → (∀ z ∈ l.threads, z.st ≠ .parked .access) → (r.threads.find? fun z => z.st == .waiting && decide (z.waitTick + 100000 ≤ s.tsc)) = some y →
      exec (.tandemWaitTimeout gid) s = .next (s.mismatch t y.tid 0 0 0 0))
    ∧ (t.due = false → 256 ≤ t.entries.length → (∀ e ∈ t.entries, e.released = true)
      → (∀ g, g = l ∨ g = r → ∀ z ∈ g.live, z.pend = 0 ∧ z.tacc = t.made z.tid) →
      let u := s.updTandem gid fun t => { t with due := true }
      exec (.tandemCheckpoint gid) s = .next (if u.ckptReady t l r then u.takeCheckpoint t l r else u))

/-! ### Registers, packets, chains, the step and reset (R5, R19, R36-R41, R70, R283, R358, R371, R372) -/

/-- A register group holds one value (R5): register j of the group, counted from its lowest-numbered, is bits 32j + 31 to 32j of the value, as it is read and as it is
written; w0 reads zero and discards what is written; and no register outside the group changes. -/
def Obligations.RegisterGroups : Prop :=
  ∀ (t : Thread) (a k v : Nat), a + k ≤ 64 →
    (∀ j, j < k → t.group a k / 2 ^ (32 * j) % 2 ^ 32 = (t.reg (a + j)).toNat)
    ∧ (∀ j, j < k → a + j ≠ 0 → (t.setGroup a k v).reg (a + j) = BitVec.ofNat 32 (v / 2 ^ (32 * j)))
    ∧ (∀ n, n < 64 → (n < a ∨ a + k ≤ n) → (t.setGroup a k v).reg n = t.reg n)
    ∧ t.reg 0 = 0 ∧ (t.setGroup a k v).reg 0 = 0 ∧ t.setReg 0 (BitVec.ofNat 32 v) = t

/-- Which packets are Illegal Packet (R40), for its three words in slot order, and what comes of one: a thread that reaches slot 0 of it stands parked there, and its trap message of kind 2 is posted at
the cluster's trap core, with no word of it executed; a thread inside a packet does not take the check again. -/
def Obligations.IllegalPackets : Prop :=
  ∀ (w0 w1 w2 : BitVec 32),
    let pipe := fun (w : BitVec 32) => pipeOf w.toNat
    let clash := fun (x y : BitVec 32) => pipe x = pipe y ∧ pipe x ≠ none ∧ pipe x ≠ some .fp
    let ctl := fun (w : BitVec 32) => chained w = true ∧ pipe w = some .ctl
    let a := chained w0 = true
    let b := chained w1 = true
    (illegalPacket [w0, w1, w2] = true ↔
      chained w2 = true ∨ ctl w0 ∨ ctl w1 ∨ (a ∧ clash w0 w1) ∨ (b ∧ clash w1 w2) ∨ (a ∧ b ∧ clash w0 w2)
        ∨ (a ∧ b ∧ pipe w0 = some .fp ∧ pipe w1 = some .fp ∧ pipe w2 = some .fp))
    ∧ (∀ (s : State) (gid tid : Nat) (g : Group) (t : Thread), s.group? gid = some g → s.thread? gid tid = some t → g.role ≠ .trailer → t.st = .ready → t.packet = []
      → s.fetchPacket g t.pc.pkt.toNat = .ok [w0, w1, w2] → illegalPacket [w0, w1, w2] = true →
      ∃ u x, exec (.instructionFetch gid tid) s = .next u ∧ u.thread? gid tid = some x ∧ x.pc = t.pc ∧ x.regs = t.regs ∧ x.preds = t.preds ∧ s.sameMemory u
        ∧ (t.pc.slot = 0 → x.st = .parked .trap ∧ x.packet = [] ∧ ∃ m,
            m ∈ (u.mailbox (coreDie g.core) (coreCluster g.core)).slots ++ (u.mailbox (coreDie g.core) (coreCluster g.core)).pending
              ∧ m.kind = 2 ∧ m.tid = tid ∧ m.gid = gid ∧ m.pc = t.pc)
        ∧ (t.pc.slot ≠ 0 → x.st = .ready ∧ x.packet = [w0, w1, w2]))

/-- A chain takes effect whole or not at all (R41): after the issue of a chain of several words for a thread, either no word of it was stopped, and the state is that of all its
words one after another; or the state is that of one stop in the state before the chain, with the thread's registers, predicates, flags and PC as they were, and, but for a fault's record, memory too. -/
def Obligations.ChainWholeOrNothing : Prop :=
  ∀ (is : List (Nat × Instr)) (s : State) (tid : Nat) (t : Thread) (u : State),
    s.thread? s.issue.gid tid = some t → chainThread exec is s tid = .next u →
    let s1 := s.updThread s.issue.gid tid fun t => { t with raised := 0 }
    (∃ v : State, v.issue.stops = [] ∧ u = (v.updThread s.issue.gid tid fun t => { t with grants := [] })
      ∧ chainWords exec is true (actingOrder is) { s1 with issue := { s1.issue with tids := [tid], snap := [t], stops := [] } } = .next v)
    ∨ ∃ slot st x, u = ({ s with issue := { s.issue with slot := slot } } : State).applyStop s.issue.gid tid st ∧ u.thread? s.issue.gid tid = some x
      ∧ x.regs = t.regs ∧ x.shadow = t.shadow ∧ x.preds = t.preds ∧ x.flags = t.flags ∧ x.pc = t.pc ∧ x.key = t.key ∧ x.ctr = t.ctr
      ∧ ((∀ va k acc, st ≠ .fault va k acc) → (∀ va k acc n sig, st ≠ .entry va k acc n sig) → s.sameMemory u)

/-- A step runs the decoded word (R24, R26, R36, R39): a pack whose chain is one word that decodes to `i` issues as the meaning of `i` for its threads, with the PC after the word as the next and the uniform registers as the group
had them, then the word's late sums and requests. So does every pack of a whole cycle; and where the agenda issues one quarter, and no thread has waited out the bound of 4,096 cycles, the step is that issue, after the fetch of the threads that had
no packet, for those that then stand ready with a pipe free, then the passing of the cycle, and what follows every action. That a quarter may issue alone, as the agenda has it, is the model's choice, log 4; that it passes one cycle and a NOP none is the model's
choice, log 3; that a packet once fetched stays for that pass as it was read is the model's choice, log 32. The packet is the twelve bytes at its address,
three words with the lowest address first. -/
def Obligations.StepRunsDecodedWord : Prop :=
  let issued := fun (s : State) (core q : Nat) (g : Group) (x : Thread) (xs : List Thread) (w : Word) (i : Instr) =>
    let tids := (x :: xs).map (·.tid)
    match exec i { s.notePipes core q (xs.length + 1) [w] with issue :=
        { gid := g.gid, pack := tids, tids := tids, pc0 := x.pc, next := x.pc.after 1, slot := x.pc.slot, usnap := some (g.uregs, g.upoison) } } with
      | .next u => .next ((u.flushSums.serveAsks u.issue.gid).afterIssue (w == 0))
      | r => r
  (∀ (s : State) (core q : Nat) (g : Group) (x : Thread) (xs : List Thread) (w : Word) (i : Instr),
    chainFrom (x.packet.drop x.pc.slot) = [w] → decode w.toNat = some i →
    issuePack exec execNotAnInstruction flushPack core q g (x :: xs) s = issued s core q g x xs w i)
  ∧ (∀ (s : State) (core q : Nat) (rest : List Move) (g : Group) (t : Thread) (ts : List Thread) (x : Thread) (xs : List Thread) (w : Word) (i : Instr),
    s.agenda = .issue core q :: rest →
    let s0 : State := { s with agenda := rest }
    let s1 := (((t :: ts).filter fun x => x.packet.isEmpty).foldl (fun s x => s.fetch g.gid x.tid) s0).updCore core fun c => { c with passed := setAt c.passed q 0 }
    s0.pressed = false → s0.packOf core q [] true = some (g, t :: ts)
    → (s1.stillReady g.gid t.pc ((t :: ts).map (·.tid))).filter (s1.chainFree core q []) = x :: xs
    → chainFrom (x.packet.drop x.pc.slot) = [w] → decode w.toNat = some i →
    step s = match issued s1 core q g x xs w i with
      | .next u => .next (if w = 0 then u else u.oneCycle).follow
      | r => r)
  ∧ ∀ (s : State) (g : Group) (va : Nat) (x : Trans),
    s.reach g.core (coreDie g.core) g.asid va 12 { x := true } = .ok [(x, 12)] → x.host = none → x.dev = false →
    ∃ ws, s.fetchPacket g va = .ok ws ∧ ws.length = 3 ∧ ∀ k, k < 3 → ∀ j, j < 4 →
      ((ws.getD k 0).toNat / 256 ^ j) % 256 = (s.physByte (x.pa + 4 * k + j)).toNat

/-- A step that is told what moves next takes it (log 4): an event is its meaning and what follows, port 1's read of a semaphore before another port's of the same tick (R358); a wait passes its
ticks, as many as the ready threads and the ages of lines can spare (all, where no thread is ready and no line ages), and what slewing and they leave of them later (R26, R290, R365); a cycle issues what every quarter can. With no agenda, nothing in
flight due and no thread that can issue, a step passes one tick. -/
def Obligations.StepTakesAgenda : Prop :=
  ∀ (s : State) (i : Instr) (n k p : Nat) (rest : List Move) (t : State),
    let s0 : State := { s with agenda := rest }
    (ordered s.agenda = .event i :: rest → isEvent i = true → step s = match exec i s0 with | .next u => .next u.follow | r => r)
    ∧ (s.agenda = .event i :: rest → (∀ p n, i ≠ .semaphoreRead p n) → ordered s.agenda = .event i :: rest)
    ∧ (p ≠ 1 → s.agenda = .event (.semaphoreRead p n) :: .event (.semaphoreRead 1 k) :: rest →
      ordered s.agenda = .event (.semaphoreRead 1 k) :: .event (.semaphoreRead p n) :: rest)
    ∧ (s0.slack = none → s0.ageing = [] → s0.spare n = n)
    ∧ (s.agenda = .wait n :: rest → (0 < s0.spare n ∨ n = 0) → step s =
      let u := s0.ticks (s0.spare n)
      .next (if s.tsc + n ≤ u.tsc then u else { u with agenda := .wait (s.tsc + n - u.tsc) :: rest }).follow)
    ∧ (s.agenda = .cycle :: rest → step s = match cycleNow exec execNotAnInstruction flushPack s0 with | .next u => .next u.follow | r => r)
    ∧ (s.agenda = [] → s.firstAct s.acts = some t → step s = .next t.follow)
    ∧ (s.agenda = [] → s.firstAct s.acts = none → s.anyReady = false → step s = .next (s.ticks 1).follow)

/-- The device right after reset (R271, R283, R358, R371, R372, R400): not brought up, no die enabled, no context, queue, span, group or access; every semaphore free; every link's two dictionaries hold the seed table, with NEXT at 0; the
power limit 2,600 W and the retry limit 2. -/
def Obligations.ResetState : Prop :=
  let s := State.reset
  s.boot.stage = 0 ∧ (∀ d ∈ s.dies, d.enabled = false) ∧ s.contexts = [] ∧ s.queues = [] ∧ s.spans = [] ∧ s.groups = [] ∧ s.accs = []
  ∧ (∀ n, s.host.holder n = 0) ∧ s.links.length = 8
  ∧ (∀ k ∈ s.links, k.snext = 0 ∧ k.rnext = 0 ∧ k.sdict = k.rdict ∧ k.sdict.length = 128 ∧ k.sdict.getD 0 0 = 0xFFFFFFFFFFFFFFFF
      ∧ ∀ i, 1 ≤ i → i ≤ 127 → (k.sdict.getD i 0).toNat = i * 0x0101010101010101)
  ∧ s.boot.plim = 2600 ∧ s.boot.retryLimit = 2

/-- The memory after reset is in its canonical form (log 2). -/
def Obligations.ResetMemoryWellFormed : Prop :=
  State.reset.memWf

/-- Every step keeps both memories in canonical form (log 2): in every state in which they are, whatever moves. -/
def Obligations.StepKeepsMemoryWellFormed : Prop :=
  ∀ s t : State, s.memWf → step s = .next t → t.memWf
end

