-- ==== Sys2Proof/Laws/State.lean ====
section
/-! SUPPORT. For each update of the state, the fields that it leaves alone, one equation a field, each true by
unfolding; the rewriter splits the conjunctions into its rules. -/

namespace Sys2Proof.Machine

@[simp] theorem State.ticks_keeps (s : State) (n : Nat) :
    (s.ticks n).frac = s.frac ∧ (s.ticks n).agenda = s.agenda ∧ (s.ticks n).issue = s.issue ∧ (s.ticks n).nextId = s.nextId ∧
    (s.ticks n).mem = s.mem ∧ (s.ticks n).hostMem = s.hostMem ∧ (s.ticks n).fused = s.fused ∧ (s.ticks n).contexts = s.contexts ∧
    (s.ticks n).spans = s.spans ∧ (s.ticks n).groups = s.groups ∧ (s.ticks n).saved = s.saved ∧ (s.ticks n).tiles = s.tiles ∧
    (s.ticks n).oldWords = s.oldWords ∧ (s.ticks n).cores = s.cores ∧ (s.ticks n).dies = s.dies ∧ (s.ticks n).lines = s.lines ∧
    (s.ticks n).dirs = s.dirs ∧ (s.ticks n).l1 = s.l1 ∧ (s.ticks n).horizons = s.horizons ∧ (s.ticks n).wtimes = s.wtimes ∧
    (s.ticks n).tlb = s.tlb ∧ (s.ticks n).leafCache = s.leafCache ∧ (s.ticks n).net = s.net ∧ (s.ticks n).links = s.links ∧
    (s.ticks n).accs = s.accs ∧ (s.ticks n).owed = s.owed ∧ (s.ticks n).sideLog = s.sideLog ∧ (s.ticks n).futures = s.futures ∧
    (s.ticks n).poisonLines = s.poisonLines ∧ (s.ticks n).writers = s.writers ∧ (s.ticks n).monitors = s.monitors ∧
    (s.ticks n).mxs = s.mxs ∧ (s.ticks n).mxDone = s.mxDone ∧ (s.ticks n).copies = s.copies ∧ (s.ticks n).tileOps = s.tileOps ∧
    (s.ticks n).fieldOps = s.fieldOps ∧ (s.ticks n).allocQ = s.allocQ ∧ (s.ticks n).allocHeld = s.allocHeld ∧
    (s.ticks n).marked = s.marked ∧ (s.ticks n).linkCmds = s.linkCmds ∧ (s.ticks n).arrivals = s.arrivals ∧
    (s.ticks n).cwrites = s.cwrites ∧ (s.ticks n).launches = s.launches ∧ (s.ticks n).faults = s.faults ∧ (s.ticks n).lost = s.lost ∧
    (s.ticks n).away = s.away ∧ (s.ticks n).errors = s.errors ∧ (s.ticks n).deviceLog = s.deviceLog ∧ (s.ticks n).logCount = s.logCount ∧
    (s.ticks n).mailboxes = s.mailboxes ∧ (s.ticks n).queues = s.queues ∧ (s.ticks n).proc = s.proc ∧ (s.ticks n).graphs = s.graphs ∧
    (s.ticks n).tandems = s.tandems ∧ (s.ticks n).host = s.host ∧ (s.ticks n).boot = s.boot :=
  by and_intros <;> rfl

@[simp] theorem State.oneCycle_keeps (s : State) :
    (s.oneCycle).agenda = s.agenda ∧ (s.oneCycle).issue = s.issue ∧ (s.oneCycle).nextId = s.nextId ∧ (s.oneCycle).mem = s.mem ∧
    (s.oneCycle).hostMem = s.hostMem ∧ (s.oneCycle).fused = s.fused ∧ (s.oneCycle).contexts = s.contexts ∧ (s.oneCycle).spans = s.spans ∧
    (s.oneCycle).groups = s.groups ∧ (s.oneCycle).saved = s.saved ∧ (s.oneCycle).tiles = s.tiles ∧ (s.oneCycle).oldWords = s.oldWords ∧
    (s.oneCycle).cores = s.cores ∧ (s.oneCycle).dies = s.dies ∧ (s.oneCycle).lines = s.lines ∧ (s.oneCycle).dirs = s.dirs ∧
    (s.oneCycle).l1 = s.l1 ∧ (s.oneCycle).horizons = s.horizons ∧ (s.oneCycle).wtimes = s.wtimes ∧ (s.oneCycle).tlb = s.tlb ∧
    (s.oneCycle).leafCache = s.leafCache ∧ (s.oneCycle).net = s.net ∧ (s.oneCycle).links = s.links ∧ (s.oneCycle).accs = s.accs ∧
    (s.oneCycle).owed = s.owed ∧ (s.oneCycle).sideLog = s.sideLog ∧ (s.oneCycle).futures = s.futures ∧
    (s.oneCycle).poisonLines = s.poisonLines ∧ (s.oneCycle).writers = s.writers ∧ (s.oneCycle).monitors = s.monitors ∧
    (s.oneCycle).mxs = s.mxs ∧ (s.oneCycle).mxDone = s.mxDone ∧ (s.oneCycle).copies = s.copies ∧ (s.oneCycle).tileOps = s.tileOps ∧
    (s.oneCycle).fieldOps = s.fieldOps ∧ (s.oneCycle).allocQ = s.allocQ ∧ (s.oneCycle).allocHeld = s.allocHeld ∧
    (s.oneCycle).marked = s.marked ∧ (s.oneCycle).linkCmds = s.linkCmds ∧ (s.oneCycle).arrivals = s.arrivals ∧
    (s.oneCycle).cwrites = s.cwrites ∧ (s.oneCycle).launches = s.launches ∧ (s.oneCycle).faults = s.faults ∧ (s.oneCycle).lost = s.lost ∧
    (s.oneCycle).away = s.away ∧ (s.oneCycle).errors = s.errors ∧ (s.oneCycle).deviceLog = s.deviceLog ∧
    (s.oneCycle).logCount = s.logCount ∧ (s.oneCycle).mailboxes = s.mailboxes ∧ (s.oneCycle).queues = s.queues ∧
    (s.oneCycle).proc = s.proc ∧ (s.oneCycle).graphs = s.graphs ∧ (s.oneCycle).tandems = s.tandems ∧ (s.oneCycle).host = s.host ∧
    (s.oneCycle).boot = s.boot :=
  by and_intros <;> rfl

@[simp] theorem State.fresh_keeps (s : State) :
    (s.fresh).tsc = s.tsc ∧ (s.fresh).frac = s.frac ∧ (s.fresh).cycle = s.cycle ∧ (s.fresh).agenda = s.agenda ∧ (s.fresh).issue = s.issue ∧
    (s.fresh).mem = s.mem ∧ (s.fresh).hostMem = s.hostMem ∧ (s.fresh).fused = s.fused ∧ (s.fresh).contexts = s.contexts ∧
    (s.fresh).spans = s.spans ∧ (s.fresh).groups = s.groups ∧ (s.fresh).saved = s.saved ∧ (s.fresh).tiles = s.tiles ∧
    (s.fresh).oldWords = s.oldWords ∧ (s.fresh).cores = s.cores ∧ (s.fresh).dies = s.dies ∧ (s.fresh).lines = s.lines ∧
    (s.fresh).dirs = s.dirs ∧ (s.fresh).l1 = s.l1 ∧ (s.fresh).horizons = s.horizons ∧ (s.fresh).wtimes = s.wtimes ∧ (s.fresh).tlb = s.tlb ∧
    (s.fresh).leafCache = s.leafCache ∧ (s.fresh).net = s.net ∧ (s.fresh).links = s.links ∧ (s.fresh).accs = s.accs ∧
    (s.fresh).owed = s.owed ∧ (s.fresh).sideLog = s.sideLog ∧ (s.fresh).futures = s.futures ∧ (s.fresh).poisonLines = s.poisonLines ∧
    (s.fresh).writers = s.writers ∧ (s.fresh).monitors = s.monitors ∧ (s.fresh).mxs = s.mxs ∧ (s.fresh).mxDone = s.mxDone ∧
    (s.fresh).copies = s.copies ∧ (s.fresh).tileOps = s.tileOps ∧ (s.fresh).fieldOps = s.fieldOps ∧ (s.fresh).allocQ = s.allocQ ∧
    (s.fresh).allocHeld = s.allocHeld ∧ (s.fresh).marked = s.marked ∧ (s.fresh).linkCmds = s.linkCmds ∧ (s.fresh).arrivals = s.arrivals ∧
    (s.fresh).cwrites = s.cwrites ∧ (s.fresh).launches = s.launches ∧ (s.fresh).faults = s.faults ∧ (s.fresh).lost = s.lost ∧
    (s.fresh).away = s.away ∧ (s.fresh).errors = s.errors ∧ (s.fresh).deviceLog = s.deviceLog ∧ (s.fresh).logCount = s.logCount ∧
    (s.fresh).mailboxes = s.mailboxes ∧ (s.fresh).queues = s.queues ∧ (s.fresh).proc = s.proc ∧ (s.fresh).graphs = s.graphs ∧
    (s.fresh).tandems = s.tandems ∧ (s.fresh).host = s.host ∧ (s.fresh).disc = s.disc ∧ (s.fresh).boot = s.boot :=
  by and_intros <;> rfl

@[simp] theorem State.updCtx_keeps (s : State) (a : Nat) (f : Context → Context) :
    (s.updCtx a f).tsc = s.tsc ∧ (s.updCtx a f).frac = s.frac ∧ (s.updCtx a f).cycle = s.cycle ∧ (s.updCtx a f).agenda = s.agenda ∧
    (s.updCtx a f).issue = s.issue ∧ (s.updCtx a f).nextId = s.nextId ∧ (s.updCtx a f).mem = s.mem ∧ (s.updCtx a f).hostMem = s.hostMem ∧
    (s.updCtx a f).fused = s.fused ∧ (s.updCtx a f).spans = s.spans ∧ (s.updCtx a f).groups = s.groups ∧ (s.updCtx a f).saved = s.saved ∧
    (s.updCtx a f).tiles = s.tiles ∧ (s.updCtx a f).oldWords = s.oldWords ∧ (s.updCtx a f).cores = s.cores ∧ (s.updCtx a f).dies = s.dies ∧
    (s.updCtx a f).lines = s.lines ∧ (s.updCtx a f).dirs = s.dirs ∧ (s.updCtx a f).l1 = s.l1 ∧ (s.updCtx a f).horizons = s.horizons ∧
    (s.updCtx a f).wtimes = s.wtimes ∧ (s.updCtx a f).tlb = s.tlb ∧ (s.updCtx a f).leafCache = s.leafCache ∧ (s.updCtx a f).net = s.net ∧
    (s.updCtx a f).links = s.links ∧ (s.updCtx a f).accs = s.accs ∧ (s.updCtx a f).owed = s.owed ∧ (s.updCtx a f).sideLog = s.sideLog ∧
    (s.updCtx a f).futures = s.futures ∧ (s.updCtx a f).poisonLines = s.poisonLines ∧ (s.updCtx a f).writers = s.writers ∧
    (s.updCtx a f).monitors = s.monitors ∧ (s.updCtx a f).mxs = s.mxs ∧ (s.updCtx a f).mxDone = s.mxDone ∧
    (s.updCtx a f).copies = s.copies ∧ (s.updCtx a f).tileOps = s.tileOps ∧ (s.updCtx a f).fieldOps = s.fieldOps ∧
    (s.updCtx a f).allocQ = s.allocQ ∧ (s.updCtx a f).allocHeld = s.allocHeld ∧ (s.updCtx a f).marked = s.marked ∧
    (s.updCtx a f).linkCmds = s.linkCmds ∧ (s.updCtx a f).arrivals = s.arrivals ∧ (s.updCtx a f).cwrites = s.cwrites ∧
    (s.updCtx a f).launches = s.launches ∧ (s.updCtx a f).faults = s.faults ∧ (s.updCtx a f).lost = s.lost ∧ (s.updCtx a f).away = s.away ∧
    (s.updCtx a f).errors = s.errors ∧ (s.updCtx a f).deviceLog = s.deviceLog ∧ (s.updCtx a f).logCount = s.logCount ∧
    (s.updCtx a f).mailboxes = s.mailboxes ∧ (s.updCtx a f).queues = s.queues ∧ (s.updCtx a f).proc = s.proc ∧
    (s.updCtx a f).graphs = s.graphs ∧ (s.updCtx a f).tandems = s.tandems ∧ (s.updCtx a f).host = s.host ∧ (s.updCtx a f).disc = s.disc ∧
    (s.updCtx a f).boot = s.boot :=
  by and_intros <;> rfl

@[simp] theorem State.updGroup_keeps (s : State) (g : Nat) (f : Group → Group) :
    (s.updGroup g f).tsc = s.tsc ∧ (s.updGroup g f).frac = s.frac ∧ (s.updGroup g f).cycle = s.cycle ∧ (s.updGroup g f).agenda = s.agenda ∧
    (s.updGroup g f).issue = s.issue ∧ (s.updGroup g f).nextId = s.nextId ∧ (s.updGroup g f).mem = s.mem ∧
    (s.updGroup g f).hostMem = s.hostMem ∧ (s.updGroup g f).fused = s.fused ∧ (s.updGroup g f).contexts = s.contexts ∧
    (s.updGroup g f).spans = s.spans ∧ (s.updGroup g f).saved = s.saved ∧ (s.updGroup g f).tiles = s.tiles ∧
    (s.updGroup g f).oldWords = s.oldWords ∧ (s.updGroup g f).cores = s.cores ∧ (s.updGroup g f).dies = s.dies ∧
    (s.updGroup g f).lines = s.lines ∧ (s.updGroup g f).dirs = s.dirs ∧ (s.updGroup g f).l1 = s.l1 ∧
    (s.updGroup g f).horizons = s.horizons ∧ (s.updGroup g f).wtimes = s.wtimes ∧ (s.updGroup g f).tlb = s.tlb ∧
    (s.updGroup g f).leafCache = s.leafCache ∧ (s.updGroup g f).net = s.net ∧ (s.updGroup g f).links = s.links ∧
    (s.updGroup g f).accs = s.accs ∧ (s.updGroup g f).owed = s.owed ∧ (s.updGroup g f).sideLog = s.sideLog ∧
    (s.updGroup g f).futures = s.futures ∧ (s.updGroup g f).poisonLines = s.poisonLines ∧ (s.updGroup g f).writers = s.writers ∧
    (s.updGroup g f).monitors = s.monitors ∧ (s.updGroup g f).mxs = s.mxs ∧ (s.updGroup g f).mxDone = s.mxDone ∧
    (s.updGroup g f).copies = s.copies ∧ (s.updGroup g f).tileOps = s.tileOps ∧ (s.updGroup g f).fieldOps = s.fieldOps ∧
    (s.updGroup g f).allocQ = s.allocQ ∧ (s.updGroup g f).allocHeld = s.allocHeld ∧ (s.updGroup g f).marked = s.marked ∧
    (s.updGroup g f).linkCmds = s.linkCmds ∧ (s.updGroup g f).arrivals = s.arrivals ∧ (s.updGroup g f).cwrites = s.cwrites ∧
    (s.updGroup g f).launches = s.launches ∧ (s.updGroup g f).faults = s.faults ∧ (s.updGroup g f).lost = s.lost ∧
    (s.updGroup g f).away = s.away ∧ (s.updGroup g f).errors = s.errors ∧ (s.updGroup g f).deviceLog = s.deviceLog ∧
    (s.updGroup g f).logCount = s.logCount ∧ (s.updGroup g f).mailboxes = s.mailboxes ∧ (s.updGroup g f).queues = s.queues ∧
    (s.updGroup g f).proc = s.proc ∧ (s.updGroup g f).graphs = s.graphs ∧ (s.updGroup g f).tandems = s.tandems ∧
    (s.updGroup g f).host = s.host ∧ (s.updGroup g f).disc = s.disc ∧ (s.updGroup g f).boot = s.boot :=
  by and_intros <;> rfl

@[simp] theorem State.updThread_keeps (s : State) (g t : Nat) (f : Thread → Thread) :
    (s.updThread g t f).tsc = s.tsc ∧ (s.updThread g t f).frac = s.frac ∧ (s.updThread g t f).cycle = s.cycle ∧
    (s.updThread g t f).agenda = s.agenda ∧ (s.updThread g t f).issue = s.issue ∧ (s.updThread g t f).nextId = s.nextId ∧
    (s.updThread g t f).mem = s.mem ∧ (s.updThread g t f).hostMem = s.hostMem ∧ (s.updThread g t f).fused = s.fused ∧
    (s.updThread g t f).contexts = s.contexts ∧ (s.updThread g t f).spans = s.spans ∧ (s.updThread g t f).saved = s.saved ∧
    (s.updThread g t f).tiles = s.tiles ∧ (s.updThread g t f).oldWords = s.oldWords ∧ (s.updThread g t f).cores = s.cores ∧
    (s.updThread g t f).dies = s.dies ∧ (s.updThread g t f).lines = s.lines ∧ (s.updThread g t f).dirs = s.dirs ∧
    (s.updThread g t f).l1 = s.l1 ∧ (s.updThread g t f).horizons = s.horizons ∧ (s.updThread g t f).wtimes = s.wtimes ∧
    (s.updThread g t f).tlb = s.tlb ∧ (s.updThread g t f).leafCache = s.leafCache ∧ (s.updThread g t f).net = s.net ∧
    (s.updThread g t f).links = s.links ∧ (s.updThread g t f).accs = s.accs ∧ (s.updThread g t f).owed = s.owed ∧
    (s.updThread g t f).sideLog = s.sideLog ∧ (s.updThread g t f).futures = s.futures ∧ (s.updThread g t f).poisonLines = s.poisonLines ∧
    (s.updThread g t f).writers = s.writers ∧ (s.updThread g t f).monitors = s.monitors ∧ (s.updThread g t f).mxs = s.mxs ∧
    (s.updThread g t f).mxDone = s.mxDone ∧ (s.updThread g t f).copies = s.copies ∧ (s.updThread g t f).tileOps = s.tileOps ∧
    (s.updThread g t f).fieldOps = s.fieldOps ∧ (s.updThread g t f).allocQ = s.allocQ ∧ (s.updThread g t f).allocHeld = s.allocHeld ∧
    (s.updThread g t f).marked = s.marked ∧ (s.updThread g t f).linkCmds = s.linkCmds ∧ (s.updThread g t f).arrivals = s.arrivals ∧
    (s.updThread g t f).cwrites = s.cwrites ∧ (s.updThread g t f).launches = s.launches ∧ (s.updThread g t f).faults = s.faults ∧
    (s.updThread g t f).lost = s.lost ∧ (s.updThread g t f).away = s.away ∧ (s.updThread g t f).errors = s.errors ∧
    (s.updThread g t f).deviceLog = s.deviceLog ∧ (s.updThread g t f).logCount = s.logCount ∧ (s.updThread g t f).mailboxes = s.mailboxes ∧
    (s.updThread g t f).queues = s.queues ∧ (s.updThread g t f).proc = s.proc ∧ (s.updThread g t f).graphs = s.graphs ∧
    (s.updThread g t f).tandems = s.tandems ∧ (s.updThread g t f).host = s.host ∧ (s.updThread g t f).disc = s.disc ∧
    (s.updThread g t f).boot = s.boot :=
  by and_intros <;> rfl

@[simp] theorem State.updSpan_keeps (s : State) (x : Nat) (f : Span → Span) :
    (s.updSpan x f).tsc = s.tsc ∧ (s.updSpan x f).frac = s.frac ∧ (s.updSpan x f).cycle = s.cycle ∧ (s.updSpan x f).agenda = s.agenda ∧
    (s.updSpan x f).issue = s.issue ∧ (s.updSpan x f).nextId = s.nextId ∧ (s.updSpan x f).mem = s.mem ∧
    (s.updSpan x f).hostMem = s.hostMem ∧ (s.updSpan x f).fused = s.fused ∧ (s.updSpan x f).contexts = s.contexts ∧
    (s.updSpan x f).groups = s.groups ∧ (s.updSpan x f).saved = s.saved ∧ (s.updSpan x f).tiles = s.tiles ∧
    (s.updSpan x f).oldWords = s.oldWords ∧ (s.updSpan x f).cores = s.cores ∧ (s.updSpan x f).dies = s.dies ∧
    (s.updSpan x f).lines = s.lines ∧ (s.updSpan x f).dirs = s.dirs ∧ (s.updSpan x f).l1 = s.l1 ∧ (s.updSpan x f).horizons = s.horizons ∧
    (s.updSpan x f).wtimes = s.wtimes ∧ (s.updSpan x f).tlb = s.tlb ∧ (s.updSpan x f).leafCache = s.leafCache ∧
    (s.updSpan x f).net = s.net ∧ (s.updSpan x f).links = s.links ∧ (s.updSpan x f).accs = s.accs ∧ (s.updSpan x f).owed = s.owed ∧
    (s.updSpan x f).sideLog = s.sideLog ∧ (s.updSpan x f).futures = s.futures ∧ (s.updSpan x f).poisonLines = s.poisonLines ∧
    (s.updSpan x f).writers = s.writers ∧ (s.updSpan x f).monitors = s.monitors ∧ (s.updSpan x f).mxs = s.mxs ∧
    (s.updSpan x f).mxDone = s.mxDone ∧ (s.updSpan x f).copies = s.copies ∧ (s.updSpan x f).tileOps = s.tileOps ∧
    (s.updSpan x f).fieldOps = s.fieldOps ∧ (s.updSpan x f).allocQ = s.allocQ ∧ (s.updSpan x f).allocHeld = s.allocHeld ∧
    (s.updSpan x f).marked = s.marked ∧ (s.updSpan x f).linkCmds = s.linkCmds ∧ (s.updSpan x f).arrivals = s.arrivals ∧
    (s.updSpan x f).cwrites = s.cwrites ∧ (s.updSpan x f).launches = s.launches ∧ (s.updSpan x f).faults = s.faults ∧
    (s.updSpan x f).lost = s.lost ∧ (s.updSpan x f).away = s.away ∧ (s.updSpan x f).errors = s.errors ∧
    (s.updSpan x f).deviceLog = s.deviceLog ∧ (s.updSpan x f).logCount = s.logCount ∧ (s.updSpan x f).mailboxes = s.mailboxes ∧
    (s.updSpan x f).queues = s.queues ∧ (s.updSpan x f).proc = s.proc ∧ (s.updSpan x f).graphs = s.graphs ∧
    (s.updSpan x f).tandems = s.tandems ∧ (s.updSpan x f).host = s.host ∧ (s.updSpan x f).disc = s.disc ∧ (s.updSpan x f).boot = s.boot :=
  by and_intros <;> rfl

@[simp] theorem State.updTile_keeps (s : State) (u : Nat) (f : Tile → Tile) :
    (s.updTile u f).tsc = s.tsc ∧ (s.updTile u f).frac = s.frac ∧ (s.updTile u f).cycle = s.cycle ∧ (s.updTile u f).agenda = s.agenda ∧
    (s.updTile u f).issue = s.issue ∧ (s.updTile u f).nextId = s.nextId ∧ (s.updTile u f).mem = s.mem ∧
    (s.updTile u f).hostMem = s.hostMem ∧ (s.updTile u f).fused = s.fused ∧ (s.updTile u f).contexts = s.contexts ∧
    (s.updTile u f).spans = s.spans ∧ (s.updTile u f).groups = s.groups ∧ (s.updTile u f).saved = s.saved ∧
    (s.updTile u f).oldWords = s.oldWords ∧ (s.updTile u f).cores = s.cores ∧ (s.updTile u f).dies = s.dies ∧
    (s.updTile u f).lines = s.lines ∧ (s.updTile u f).dirs = s.dirs ∧ (s.updTile u f).l1 = s.l1 ∧ (s.updTile u f).horizons = s.horizons ∧
    (s.updTile u f).wtimes = s.wtimes ∧ (s.updTile u f).tlb = s.tlb ∧ (s.updTile u f).leafCache = s.leafCache ∧
    (s.updTile u f).net = s.net ∧ (s.updTile u f).links = s.links ∧ (s.updTile u f).accs = s.accs ∧ (s.updTile u f).owed = s.owed ∧
    (s.updTile u f).sideLog = s.sideLog ∧ (s.updTile u f).futures = s.futures ∧ (s.updTile u f).poisonLines = s.poisonLines ∧
    (s.updTile u f).writers = s.writers ∧ (s.updTile u f).monitors = s.monitors ∧ (s.updTile u f).mxs = s.mxs ∧
    (s.updTile u f).mxDone = s.mxDone ∧ (s.updTile u f).copies = s.copies ∧ (s.updTile u f).tileOps = s.tileOps ∧
    (s.updTile u f).fieldOps = s.fieldOps ∧ (s.updTile u f).allocQ = s.allocQ ∧ (s.updTile u f).allocHeld = s.allocHeld ∧
    (s.updTile u f).marked = s.marked ∧ (s.updTile u f).linkCmds = s.linkCmds ∧ (s.updTile u f).arrivals = s.arrivals ∧
    (s.updTile u f).cwrites = s.cwrites ∧ (s.updTile u f).launches = s.launches ∧ (s.updTile u f).faults = s.faults ∧
    (s.updTile u f).lost = s.lost ∧ (s.updTile u f).away = s.away ∧ (s.updTile u f).errors = s.errors ∧
    (s.updTile u f).deviceLog = s.deviceLog ∧ (s.updTile u f).logCount = s.logCount ∧ (s.updTile u f).mailboxes = s.mailboxes ∧
    (s.updTile u f).queues = s.queues ∧ (s.updTile u f).proc = s.proc ∧ (s.updTile u f).graphs = s.graphs ∧
    (s.updTile u f).tandems = s.tandems ∧ (s.updTile u f).host = s.host ∧ (s.updTile u f).disc = s.disc ∧ (s.updTile u f).boot = s.boot :=
  by and_intros <;> rfl

@[simp] theorem State.updCore_keeps (s : State) (c : Nat) (f : Core → Core) :
    (s.updCore c f).tsc = s.tsc ∧ (s.updCore c f).frac = s.frac ∧ (s.updCore c f).cycle = s.cycle ∧ (s.updCore c f).agenda = s.agenda ∧
    (s.updCore c f).issue = s.issue ∧ (s.updCore c f).nextId = s.nextId ∧ (s.updCore c f).mem = s.mem ∧
    (s.updCore c f).hostMem = s.hostMem ∧ (s.updCore c f).fused = s.fused ∧ (s.updCore c f).contexts = s.contexts ∧
    (s.updCore c f).spans = s.spans ∧ (s.updCore c f).groups = s.groups ∧ (s.updCore c f).saved = s.saved ∧
    (s.updCore c f).tiles = s.tiles ∧ (s.updCore c f).oldWords = s.oldWords ∧ (s.updCore c f).dies = s.dies ∧
    (s.updCore c f).lines = s.lines ∧ (s.updCore c f).dirs = s.dirs ∧ (s.updCore c f).l1 = s.l1 ∧ (s.updCore c f).horizons = s.horizons ∧
    (s.updCore c f).wtimes = s.wtimes ∧ (s.updCore c f).tlb = s.tlb ∧ (s.updCore c f).leafCache = s.leafCache ∧
    (s.updCore c f).net = s.net ∧ (s.updCore c f).links = s.links ∧ (s.updCore c f).accs = s.accs ∧ (s.updCore c f).owed = s.owed ∧
    (s.updCore c f).sideLog = s.sideLog ∧ (s.updCore c f).futures = s.futures ∧ (s.updCore c f).poisonLines = s.poisonLines ∧
    (s.updCore c f).writers = s.writers ∧ (s.updCore c f).monitors = s.monitors ∧ (s.updCore c f).mxs = s.mxs ∧
    (s.updCore c f).mxDone = s.mxDone ∧ (s.updCore c f).copies = s.copies ∧ (s.updCore c f).tileOps = s.tileOps ∧
    (s.updCore c f).fieldOps = s.fieldOps ∧ (s.updCore c f).allocQ = s.allocQ ∧ (s.updCore c f).allocHeld = s.allocHeld ∧
    (s.updCore c f).marked = s.marked ∧ (s.updCore c f).linkCmds = s.linkCmds ∧ (s.updCore c f).arrivals = s.arrivals ∧
    (s.updCore c f).cwrites = s.cwrites ∧ (s.updCore c f).launches = s.launches ∧ (s.updCore c f).faults = s.faults ∧
    (s.updCore c f).lost = s.lost ∧ (s.updCore c f).away = s.away ∧ (s.updCore c f).errors = s.errors ∧
    (s.updCore c f).deviceLog = s.deviceLog ∧ (s.updCore c f).logCount = s.logCount ∧ (s.updCore c f).mailboxes = s.mailboxes ∧
    (s.updCore c f).queues = s.queues ∧ (s.updCore c f).proc = s.proc ∧ (s.updCore c f).graphs = s.graphs ∧
    (s.updCore c f).tandems = s.tandems ∧ (s.updCore c f).host = s.host ∧ (s.updCore c f).disc = s.disc ∧ (s.updCore c f).boot = s.boot :=
  by and_intros <;> rfl

@[simp] theorem State.updDie_keeps (s : State) (d : Nat) (f : Die → Die) :
    (s.updDie d f).tsc = s.tsc ∧ (s.updDie d f).frac = s.frac ∧ (s.updDie d f).cycle = s.cycle ∧ (s.updDie d f).agenda = s.agenda ∧
    (s.updDie d f).issue = s.issue ∧ (s.updDie d f).nextId = s.nextId ∧ (s.updDie d f).mem = s.mem ∧ (s.updDie d f).hostMem = s.hostMem ∧
    (s.updDie d f).fused = s.fused ∧ (s.updDie d f).contexts = s.contexts ∧ (s.updDie d f).spans = s.spans ∧
    (s.updDie d f).groups = s.groups ∧ (s.updDie d f).saved = s.saved ∧ (s.updDie d f).tiles = s.tiles ∧
    (s.updDie d f).oldWords = s.oldWords ∧ (s.updDie d f).cores = s.cores ∧ (s.updDie d f).lines = s.lines ∧ (s.updDie d f).dirs = s.dirs ∧
    (s.updDie d f).l1 = s.l1 ∧ (s.updDie d f).horizons = s.horizons ∧ (s.updDie d f).wtimes = s.wtimes ∧ (s.updDie d f).tlb = s.tlb ∧
    (s.updDie d f).leafCache = s.leafCache ∧ (s.updDie d f).net = s.net ∧ (s.updDie d f).links = s.links ∧ (s.updDie d f).accs = s.accs ∧
    (s.updDie d f).owed = s.owed ∧ (s.updDie d f).sideLog = s.sideLog ∧ (s.updDie d f).futures = s.futures ∧
    (s.updDie d f).poisonLines = s.poisonLines ∧ (s.updDie d f).writers = s.writers ∧ (s.updDie d f).monitors = s.monitors ∧
    (s.updDie d f).mxs = s.mxs ∧ (s.updDie d f).mxDone = s.mxDone ∧ (s.updDie d f).copies = s.copies ∧ (s.updDie d f).tileOps = s.tileOps ∧
    (s.updDie d f).fieldOps = s.fieldOps ∧ (s.updDie d f).allocQ = s.allocQ ∧ (s.updDie d f).allocHeld = s.allocHeld ∧
    (s.updDie d f).marked = s.marked ∧ (s.updDie d f).linkCmds = s.linkCmds ∧ (s.updDie d f).arrivals = s.arrivals ∧
    (s.updDie d f).cwrites = s.cwrites ∧ (s.updDie d f).launches = s.launches ∧ (s.updDie d f).faults = s.faults ∧
    (s.updDie d f).lost = s.lost ∧ (s.updDie d f).away = s.away ∧ (s.updDie d f).errors = s.errors ∧
    (s.updDie d f).deviceLog = s.deviceLog ∧ (s.updDie d f).logCount = s.logCount ∧ (s.updDie d f).mailboxes = s.mailboxes ∧
    (s.updDie d f).queues = s.queues ∧ (s.updDie d f).proc = s.proc ∧ (s.updDie d f).graphs = s.graphs ∧
    (s.updDie d f).tandems = s.tandems ∧ (s.updDie d f).host = s.host ∧ (s.updDie d f).disc = s.disc ∧ (s.updDie d f).boot = s.boot :=
  by and_intros <;> rfl

@[simp] theorem State.count_keeps (s : State) (d n k : Nat) :
    (s.count d n k).tsc = s.tsc ∧ (s.count d n k).frac = s.frac ∧ (s.count d n k).cycle = s.cycle ∧ (s.count d n k).agenda = s.agenda ∧
    (s.count d n k).issue = s.issue ∧ (s.count d n k).nextId = s.nextId ∧ (s.count d n k).mem = s.mem ∧
    (s.count d n k).hostMem = s.hostMem ∧ (s.count d n k).fused = s.fused ∧ (s.count d n k).contexts = s.contexts ∧
    (s.count d n k).spans = s.spans ∧ (s.count d n k).groups = s.groups ∧ (s.count d n k).saved = s.saved ∧
    (s.count d n k).tiles = s.tiles ∧ (s.count d n k).oldWords = s.oldWords ∧ (s.count d n k).cores = s.cores ∧
    (s.count d n k).lines = s.lines ∧ (s.count d n k).dirs = s.dirs ∧ (s.count d n k).l1 = s.l1 ∧ (s.count d n k).horizons = s.horizons ∧
    (s.count d n k).wtimes = s.wtimes ∧ (s.count d n k).tlb = s.tlb ∧ (s.count d n k).leafCache = s.leafCache ∧
    (s.count d n k).net = s.net ∧ (s.count d n k).links = s.links ∧ (s.count d n k).accs = s.accs ∧ (s.count d n k).owed = s.owed ∧
    (s.count d n k).sideLog = s.sideLog ∧ (s.count d n k).futures = s.futures ∧ (s.count d n k).poisonLines = s.poisonLines ∧
    (s.count d n k).writers = s.writers ∧ (s.count d n k).monitors = s.monitors ∧ (s.count d n k).mxs = s.mxs ∧
    (s.count d n k).mxDone = s.mxDone ∧ (s.count d n k).copies = s.copies ∧ (s.count d n k).tileOps = s.tileOps ∧
    (s.count d n k).fieldOps = s.fieldOps ∧ (s.count d n k).allocQ = s.allocQ ∧ (s.count d n k).allocHeld = s.allocHeld ∧
    (s.count d n k).marked = s.marked ∧ (s.count d n k).linkCmds = s.linkCmds ∧ (s.count d n k).arrivals = s.arrivals ∧
    (s.count d n k).cwrites = s.cwrites ∧ (s.count d n k).launches = s.launches ∧ (s.count d n k).faults = s.faults ∧
    (s.count d n k).lost = s.lost ∧ (s.count d n k).away = s.away ∧ (s.count d n k).errors = s.errors ∧
    (s.count d n k).deviceLog = s.deviceLog ∧ (s.count d n k).logCount = s.logCount ∧ (s.count d n k).mailboxes = s.mailboxes ∧
    (s.count d n k).queues = s.queues ∧ (s.count d n k).proc = s.proc ∧ (s.count d n k).graphs = s.graphs ∧
    (s.count d n k).tandems = s.tandems ∧ (s.count d n k).host = s.host ∧ (s.count d n k).disc = s.disc ∧ (s.count d n k).boot = s.boot :=
  by and_intros <;> rfl

@[simp] theorem State.updQueue_keeps (s : State) (q : Nat) (f : Queue → Queue) :
    (s.updQueue q f).tsc = s.tsc ∧ (s.updQueue q f).frac = s.frac ∧ (s.updQueue q f).cycle = s.cycle ∧ (s.updQueue q f).agenda = s.agenda ∧
    (s.updQueue q f).issue = s.issue ∧ (s.updQueue q f).nextId = s.nextId ∧ (s.updQueue q f).mem = s.mem ∧
    (s.updQueue q f).hostMem = s.hostMem ∧ (s.updQueue q f).fused = s.fused ∧ (s.updQueue q f).contexts = s.contexts ∧
    (s.updQueue q f).spans = s.spans ∧ (s.updQueue q f).groups = s.groups ∧ (s.updQueue q f).saved = s.saved ∧
    (s.updQueue q f).tiles = s.tiles ∧ (s.updQueue q f).oldWords = s.oldWords ∧ (s.updQueue q f).cores = s.cores ∧
    (s.updQueue q f).dies = s.dies ∧ (s.updQueue q f).lines = s.lines ∧ (s.updQueue q f).dirs = s.dirs ∧ (s.updQueue q f).l1 = s.l1 ∧
    (s.updQueue q f).horizons = s.horizons ∧ (s.updQueue q f).wtimes = s.wtimes ∧ (s.updQueue q f).tlb = s.tlb ∧
    (s.updQueue q f).leafCache = s.leafCache ∧ (s.updQueue q f).net = s.net ∧ (s.updQueue q f).links = s.links ∧
    (s.updQueue q f).accs = s.accs ∧ (s.updQueue q f).owed = s.owed ∧ (s.updQueue q f).sideLog = s.sideLog ∧
    (s.updQueue q f).futures = s.futures ∧ (s.updQueue q f).poisonLines = s.poisonLines ∧ (s.updQueue q f).writers = s.writers ∧
    (s.updQueue q f).monitors = s.monitors ∧ (s.updQueue q f).mxs = s.mxs ∧ (s.updQueue q f).mxDone = s.mxDone ∧
    (s.updQueue q f).copies = s.copies ∧ (s.updQueue q f).tileOps = s.tileOps ∧ (s.updQueue q f).fieldOps = s.fieldOps ∧
    (s.updQueue q f).allocQ = s.allocQ ∧ (s.updQueue q f).allocHeld = s.allocHeld ∧ (s.updQueue q f).marked = s.marked ∧
    (s.updQueue q f).linkCmds = s.linkCmds ∧ (s.updQueue q f).arrivals = s.arrivals ∧ (s.updQueue q f).cwrites = s.cwrites ∧
    (s.updQueue q f).launches = s.launches ∧ (s.updQueue q f).faults = s.faults ∧ (s.updQueue q f).lost = s.lost ∧
    (s.updQueue q f).away = s.away ∧ (s.updQueue q f).errors = s.errors ∧ (s.updQueue q f).deviceLog = s.deviceLog ∧
    (s.updQueue q f).logCount = s.logCount ∧ (s.updQueue q f).mailboxes = s.mailboxes ∧ (s.updQueue q f).proc = s.proc ∧
    (s.updQueue q f).graphs = s.graphs ∧ (s.updQueue q f).tandems = s.tandems ∧ (s.updQueue q f).host = s.host ∧
    (s.updQueue q f).disc = s.disc ∧ (s.updQueue q f).boot = s.boot :=
  by and_intros <;> rfl

@[simp] theorem State.updGraph_keeps (s : State) (g : Nat) (f : Graph → Graph) :
    (s.updGraph g f).tsc = s.tsc ∧ (s.updGraph g f).frac = s.frac ∧ (s.updGraph g f).cycle = s.cycle ∧ (s.updGraph g f).agenda = s.agenda ∧
    (s.updGraph g f).issue = s.issue ∧ (s.updGraph g f).nextId = s.nextId ∧ (s.updGraph g f).mem = s.mem ∧
    (s.updGraph g f).hostMem = s.hostMem ∧ (s.updGraph g f).fused = s.fused ∧ (s.updGraph g f).contexts = s.contexts ∧
    (s.updGraph g f).spans = s.spans ∧ (s.updGraph g f).groups = s.groups ∧ (s.updGraph g f).saved = s.saved ∧
    (s.updGraph g f).tiles = s.tiles ∧ (s.updGraph g f).oldWords = s.oldWords ∧ (s.updGraph g f).cores = s.cores ∧
    (s.updGraph g f).dies = s.dies ∧ (s.updGraph g f).lines = s.lines ∧ (s.updGraph g f).dirs = s.dirs ∧ (s.updGraph g f).l1 = s.l1 ∧
    (s.updGraph g f).horizons = s.horizons ∧ (s.updGraph g f).wtimes = s.wtimes ∧ (s.updGraph g f).tlb = s.tlb ∧
    (s.updGraph g f).leafCache = s.leafCache ∧ (s.updGraph g f).net = s.net ∧ (s.updGraph g f).links = s.links ∧
    (s.updGraph g f).accs = s.accs ∧ (s.updGraph g f).owed = s.owed ∧ (s.updGraph g f).sideLog = s.sideLog ∧
    (s.updGraph g f).futures = s.futures ∧ (s.updGraph g f).poisonLines = s.poisonLines ∧ (s.updGraph g f).writers = s.writers ∧
    (s.updGraph g f).monitors = s.monitors ∧ (s.updGraph g f).mxs = s.mxs ∧ (s.updGraph g f).mxDone = s.mxDone ∧
    (s.updGraph g f).copies = s.copies ∧ (s.updGraph g f).tileOps = s.tileOps ∧ (s.updGraph g f).fieldOps = s.fieldOps ∧
    (s.updGraph g f).allocQ = s.allocQ ∧ (s.updGraph g f).allocHeld = s.allocHeld ∧ (s.updGraph g f).marked = s.marked ∧
    (s.updGraph g f).linkCmds = s.linkCmds ∧ (s.updGraph g f).arrivals = s.arrivals ∧ (s.updGraph g f).cwrites = s.cwrites ∧
    (s.updGraph g f).launches = s.launches ∧ (s.updGraph g f).faults = s.faults ∧ (s.updGraph g f).lost = s.lost ∧
    (s.updGraph g f).away = s.away ∧ (s.updGraph g f).errors = s.errors ∧ (s.updGraph g f).deviceLog = s.deviceLog ∧
    (s.updGraph g f).logCount = s.logCount ∧ (s.updGraph g f).mailboxes = s.mailboxes ∧ (s.updGraph g f).queues = s.queues ∧
    (s.updGraph g f).proc = s.proc ∧ (s.updGraph g f).tandems = s.tandems ∧ (s.updGraph g f).host = s.host ∧
    (s.updGraph g f).disc = s.disc ∧ (s.updGraph g f).boot = s.boot :=
  by and_intros <;> rfl

@[simp] theorem State.updTandem_keeps (s : State) (g : Nat) (f : Tandem → Tandem) :
    (s.updTandem g f).tsc = s.tsc ∧ (s.updTandem g f).frac = s.frac ∧ (s.updTandem g f).cycle = s.cycle ∧
    (s.updTandem g f).agenda = s.agenda ∧ (s.updTandem g f).issue = s.issue ∧ (s.updTandem g f).nextId = s.nextId ∧
    (s.updTandem g f).mem = s.mem ∧ (s.updTandem g f).hostMem = s.hostMem ∧ (s.updTandem g f).fused = s.fused ∧
    (s.updTandem g f).contexts = s.contexts ∧ (s.updTandem g f).spans = s.spans ∧ (s.updTandem g f).groups = s.groups ∧
    (s.updTandem g f).saved = s.saved ∧ (s.updTandem g f).tiles = s.tiles ∧ (s.updTandem g f).oldWords = s.oldWords ∧
    (s.updTandem g f).cores = s.cores ∧ (s.updTandem g f).dies = s.dies ∧ (s.updTandem g f).lines = s.lines ∧
    (s.updTandem g f).dirs = s.dirs ∧ (s.updTandem g f).l1 = s.l1 ∧ (s.updTandem g f).horizons = s.horizons ∧
    (s.updTandem g f).wtimes = s.wtimes ∧ (s.updTandem g f).tlb = s.tlb ∧ (s.updTandem g f).leafCache = s.leafCache ∧
    (s.updTandem g f).net = s.net ∧ (s.updTandem g f).links = s.links ∧ (s.updTandem g f).accs = s.accs ∧ (s.updTandem g f).owed = s.owed ∧
    (s.updTandem g f).sideLog = s.sideLog ∧ (s.updTandem g f).futures = s.futures ∧ (s.updTandem g f).poisonLines = s.poisonLines ∧
    (s.updTandem g f).writers = s.writers ∧ (s.updTandem g f).monitors = s.monitors ∧ (s.updTandem g f).mxs = s.mxs ∧
    (s.updTandem g f).mxDone = s.mxDone ∧ (s.updTandem g f).copies = s.copies ∧ (s.updTandem g f).tileOps = s.tileOps ∧
    (s.updTandem g f).fieldOps = s.fieldOps ∧ (s.updTandem g f).allocQ = s.allocQ ∧ (s.updTandem g f).allocHeld = s.allocHeld ∧
    (s.updTandem g f).marked = s.marked ∧ (s.updTandem g f).linkCmds = s.linkCmds ∧ (s.updTandem g f).arrivals = s.arrivals ∧
    (s.updTandem g f).cwrites = s.cwrites ∧ (s.updTandem g f).launches = s.launches ∧ (s.updTandem g f).faults = s.faults ∧
    (s.updTandem g f).lost = s.lost ∧ (s.updTandem g f).away = s.away ∧ (s.updTandem g f).errors = s.errors ∧
    (s.updTandem g f).deviceLog = s.deviceLog ∧ (s.updTandem g f).logCount = s.logCount ∧ (s.updTandem g f).mailboxes = s.mailboxes ∧
    (s.updTandem g f).queues = s.queues ∧ (s.updTandem g f).proc = s.proc ∧ (s.updTandem g f).graphs = s.graphs ∧
    (s.updTandem g f).host = s.host ∧ (s.updTandem g f).disc = s.disc ∧ (s.updTandem g f).boot = s.boot :=
  by and_intros <;> rfl

@[simp] theorem State.setPhysByte_keeps (s : State) (pa : Nat) (b : Byte) :
    (s.setPhysByte pa b).tsc = s.tsc ∧ (s.setPhysByte pa b).frac = s.frac ∧ (s.setPhysByte pa b).cycle = s.cycle ∧
    (s.setPhysByte pa b).agenda = s.agenda ∧ (s.setPhysByte pa b).issue = s.issue ∧ (s.setPhysByte pa b).nextId = s.nextId ∧
    (s.setPhysByte pa b).hostMem = s.hostMem ∧ (s.setPhysByte pa b).fused = s.fused ∧ (s.setPhysByte pa b).contexts = s.contexts ∧
    (s.setPhysByte pa b).spans = s.spans ∧ (s.setPhysByte pa b).groups = s.groups ∧ (s.setPhysByte pa b).saved = s.saved ∧
    (s.setPhysByte pa b).tiles = s.tiles ∧ (s.setPhysByte pa b).oldWords = s.oldWords ∧ (s.setPhysByte pa b).cores = s.cores ∧
    (s.setPhysByte pa b).dies = s.dies ∧ (s.setPhysByte pa b).l1 = s.l1 ∧ (s.setPhysByte pa b).horizons = s.horizons ∧
    (s.setPhysByte pa b).wtimes = s.wtimes ∧ (s.setPhysByte pa b).tlb = s.tlb ∧ (s.setPhysByte pa b).leafCache = s.leafCache ∧
    (s.setPhysByte pa b).links = s.links ∧ (s.setPhysByte pa b).accs = s.accs ∧ (s.setPhysByte pa b).owed = s.owed ∧
    (s.setPhysByte pa b).sideLog = s.sideLog ∧ (s.setPhysByte pa b).futures = s.futures ∧
    (s.setPhysByte pa b).poisonLines = s.poisonLines ∧ (s.setPhysByte pa b).writers = s.writers ∧
    (s.setPhysByte pa b).monitors = s.monitors ∧ (s.setPhysByte pa b).mxs = s.mxs ∧ (s.setPhysByte pa b).mxDone = s.mxDone ∧
    (s.setPhysByte pa b).copies = s.copies ∧ (s.setPhysByte pa b).tileOps = s.tileOps ∧ (s.setPhysByte pa b).fieldOps = s.fieldOps ∧
    (s.setPhysByte pa b).allocQ = s.allocQ ∧ (s.setPhysByte pa b).allocHeld = s.allocHeld ∧ (s.setPhysByte pa b).marked = s.marked ∧
    (s.setPhysByte pa b).linkCmds = s.linkCmds ∧ (s.setPhysByte pa b).arrivals = s.arrivals ∧ (s.setPhysByte pa b).cwrites = s.cwrites ∧
    (s.setPhysByte pa b).launches = s.launches ∧ (s.setPhysByte pa b).faults = s.faults ∧ (s.setPhysByte pa b).lost = s.lost ∧
    (s.setPhysByte pa b).away = s.away ∧ (s.setPhysByte pa b).errors = s.errors ∧ (s.setPhysByte pa b).deviceLog = s.deviceLog ∧
    (s.setPhysByte pa b).logCount = s.logCount ∧ (s.setPhysByte pa b).mailboxes = s.mailboxes ∧ (s.setPhysByte pa b).queues = s.queues ∧
    (s.setPhysByte pa b).proc = s.proc ∧ (s.setPhysByte pa b).graphs = s.graphs ∧ (s.setPhysByte pa b).tandems = s.tandems ∧
    (s.setPhysByte pa b).host = s.host ∧ (s.setPhysByte pa b).disc = s.disc ∧ (s.setPhysByte pa b).boot = s.boot :=
  by and_intros <;> rfl

@[simp] theorem State.setWriter_keeps (s : State) (l a : Nat) :
    (s.setWriter l a).tsc = s.tsc ∧ (s.setWriter l a).frac = s.frac ∧ (s.setWriter l a).cycle = s.cycle ∧
    (s.setWriter l a).agenda = s.agenda ∧ (s.setWriter l a).issue = s.issue ∧ (s.setWriter l a).nextId = s.nextId ∧
    (s.setWriter l a).mem = s.mem ∧ (s.setWriter l a).hostMem = s.hostMem ∧ (s.setWriter l a).fused = s.fused ∧
    (s.setWriter l a).contexts = s.contexts ∧ (s.setWriter l a).spans = s.spans ∧ (s.setWriter l a).groups = s.groups ∧
    (s.setWriter l a).saved = s.saved ∧ (s.setWriter l a).tiles = s.tiles ∧ (s.setWriter l a).oldWords = s.oldWords ∧
    (s.setWriter l a).cores = s.cores ∧ (s.setWriter l a).dies = s.dies ∧ (s.setWriter l a).lines = s.lines ∧
    (s.setWriter l a).dirs = s.dirs ∧ (s.setWriter l a).l1 = s.l1 ∧ (s.setWriter l a).horizons = s.horizons ∧
    (s.setWriter l a).wtimes = s.wtimes ∧ (s.setWriter l a).tlb = s.tlb ∧ (s.setWriter l a).leafCache = s.leafCache ∧
    (s.setWriter l a).net = s.net ∧ (s.setWriter l a).links = s.links ∧ (s.setWriter l a).accs = s.accs ∧ (s.setWriter l a).owed = s.owed ∧
    (s.setWriter l a).sideLog = s.sideLog ∧ (s.setWriter l a).futures = s.futures ∧ (s.setWriter l a).poisonLines = s.poisonLines ∧
    (s.setWriter l a).monitors = s.monitors ∧ (s.setWriter l a).mxs = s.mxs ∧ (s.setWriter l a).mxDone = s.mxDone ∧
    (s.setWriter l a).copies = s.copies ∧ (s.setWriter l a).tileOps = s.tileOps ∧ (s.setWriter l a).fieldOps = s.fieldOps ∧
    (s.setWriter l a).allocQ = s.allocQ ∧ (s.setWriter l a).allocHeld = s.allocHeld ∧ (s.setWriter l a).marked = s.marked ∧
    (s.setWriter l a).linkCmds = s.linkCmds ∧ (s.setWriter l a).arrivals = s.arrivals ∧ (s.setWriter l a).cwrites = s.cwrites ∧
    (s.setWriter l a).launches = s.launches ∧ (s.setWriter l a).faults = s.faults ∧ (s.setWriter l a).lost = s.lost ∧
    (s.setWriter l a).away = s.away ∧ (s.setWriter l a).errors = s.errors ∧ (s.setWriter l a).deviceLog = s.deviceLog ∧
    (s.setWriter l a).logCount = s.logCount ∧ (s.setWriter l a).mailboxes = s.mailboxes ∧ (s.setWriter l a).queues = s.queues ∧
    (s.setWriter l a).proc = s.proc ∧ (s.setWriter l a).graphs = s.graphs ∧ (s.setWriter l a).tandems = s.tandems ∧
    (s.setWriter l a).host = s.host ∧ (s.setWriter l a).disc = s.disc ∧ (s.setWriter l a).boot = s.boot :=
  by and_intros <;> rfl

@[simp] theorem State.poisonLine_keeps (s : State) (l : Nat) :
    (s.poisonLine l).tsc = s.tsc ∧ (s.poisonLine l).frac = s.frac ∧ (s.poisonLine l).cycle = s.cycle ∧ (s.poisonLine l).agenda = s.agenda ∧
    (s.poisonLine l).issue = s.issue ∧ (s.poisonLine l).nextId = s.nextId ∧ (s.poisonLine l).mem = s.mem ∧
    (s.poisonLine l).hostMem = s.hostMem ∧ (s.poisonLine l).fused = s.fused ∧ (s.poisonLine l).contexts = s.contexts ∧
    (s.poisonLine l).spans = s.spans ∧ (s.poisonLine l).groups = s.groups ∧ (s.poisonLine l).saved = s.saved ∧
    (s.poisonLine l).tiles = s.tiles ∧ (s.poisonLine l).oldWords = s.oldWords ∧ (s.poisonLine l).cores = s.cores ∧
    (s.poisonLine l).dies = s.dies ∧ (s.poisonLine l).lines = s.lines ∧ (s.poisonLine l).dirs = s.dirs ∧ (s.poisonLine l).l1 = s.l1 ∧
    (s.poisonLine l).horizons = s.horizons ∧ (s.poisonLine l).wtimes = s.wtimes ∧ (s.poisonLine l).tlb = s.tlb ∧
    (s.poisonLine l).leafCache = s.leafCache ∧ (s.poisonLine l).net = s.net ∧ (s.poisonLine l).links = s.links ∧
    (s.poisonLine l).accs = s.accs ∧ (s.poisonLine l).owed = s.owed ∧ (s.poisonLine l).sideLog = s.sideLog ∧
    (s.poisonLine l).futures = s.futures ∧ (s.poisonLine l).writers = s.writers ∧ (s.poisonLine l).monitors = s.monitors ∧
    (s.poisonLine l).mxs = s.mxs ∧ (s.poisonLine l).mxDone = s.mxDone ∧ (s.poisonLine l).copies = s.copies ∧
    (s.poisonLine l).tileOps = s.tileOps ∧ (s.poisonLine l).fieldOps = s.fieldOps ∧ (s.poisonLine l).allocQ = s.allocQ ∧
    (s.poisonLine l).allocHeld = s.allocHeld ∧ (s.poisonLine l).marked = s.marked ∧ (s.poisonLine l).linkCmds = s.linkCmds ∧
    (s.poisonLine l).arrivals = s.arrivals ∧ (s.poisonLine l).cwrites = s.cwrites ∧ (s.poisonLine l).launches = s.launches ∧
    (s.poisonLine l).faults = s.faults ∧ (s.poisonLine l).lost = s.lost ∧ (s.poisonLine l).away = s.away ∧
    (s.poisonLine l).errors = s.errors ∧ (s.poisonLine l).deviceLog = s.deviceLog ∧ (s.poisonLine l).logCount = s.logCount ∧
    (s.poisonLine l).mailboxes = s.mailboxes ∧ (s.poisonLine l).queues = s.queues ∧ (s.poisonLine l).proc = s.proc ∧
    (s.poisonLine l).graphs = s.graphs ∧ (s.poisonLine l).tandems = s.tandems ∧ (s.poisonLine l).host = s.host ∧
    (s.poisonLine l).disc = s.disc ∧ (s.poisonLine l).boot = s.boot :=
  by and_intros <;> rfl

@[simp] theorem State.dropL1_keeps (s : State) (c l : Nat) :
    (s.dropL1 c l).tsc = s.tsc ∧ (s.dropL1 c l).frac = s.frac ∧ (s.dropL1 c l).cycle = s.cycle ∧ (s.dropL1 c l).agenda = s.agenda ∧
    (s.dropL1 c l).issue = s.issue ∧ (s.dropL1 c l).nextId = s.nextId ∧ (s.dropL1 c l).mem = s.mem ∧ (s.dropL1 c l).hostMem = s.hostMem ∧
    (s.dropL1 c l).fused = s.fused ∧ (s.dropL1 c l).contexts = s.contexts ∧ (s.dropL1 c l).spans = s.spans ∧
    (s.dropL1 c l).groups = s.groups ∧ (s.dropL1 c l).saved = s.saved ∧ (s.dropL1 c l).tiles = s.tiles ∧
    (s.dropL1 c l).oldWords = s.oldWords ∧ (s.dropL1 c l).cores = s.cores ∧ (s.dropL1 c l).dies = s.dies ∧ (s.dropL1 c l).lines = s.lines ∧
    (s.dropL1 c l).dirs = s.dirs ∧ (s.dropL1 c l).horizons = s.horizons ∧ (s.dropL1 c l).wtimes = s.wtimes ∧ (s.dropL1 c l).tlb = s.tlb ∧
    (s.dropL1 c l).leafCache = s.leafCache ∧ (s.dropL1 c l).net = s.net ∧ (s.dropL1 c l).links = s.links ∧ (s.dropL1 c l).accs = s.accs ∧
    (s.dropL1 c l).owed = s.owed ∧ (s.dropL1 c l).sideLog = s.sideLog ∧ (s.dropL1 c l).futures = s.futures ∧
    (s.dropL1 c l).poisonLines = s.poisonLines ∧ (s.dropL1 c l).writers = s.writers ∧ (s.dropL1 c l).monitors = s.monitors ∧
    (s.dropL1 c l).mxs = s.mxs ∧ (s.dropL1 c l).mxDone = s.mxDone ∧ (s.dropL1 c l).copies = s.copies ∧ (s.dropL1 c l).tileOps = s.tileOps ∧
    (s.dropL1 c l).fieldOps = s.fieldOps ∧ (s.dropL1 c l).allocQ = s.allocQ ∧ (s.dropL1 c l).allocHeld = s.allocHeld ∧
    (s.dropL1 c l).marked = s.marked ∧ (s.dropL1 c l).linkCmds = s.linkCmds ∧ (s.dropL1 c l).arrivals = s.arrivals ∧
    (s.dropL1 c l).cwrites = s.cwrites ∧ (s.dropL1 c l).launches = s.launches ∧ (s.dropL1 c l).faults = s.faults ∧
    (s.dropL1 c l).lost = s.lost ∧ (s.dropL1 c l).away = s.away ∧ (s.dropL1 c l).errors = s.errors ∧
    (s.dropL1 c l).deviceLog = s.deviceLog ∧ (s.dropL1 c l).logCount = s.logCount ∧ (s.dropL1 c l).mailboxes = s.mailboxes ∧
    (s.dropL1 c l).queues = s.queues ∧ (s.dropL1 c l).proc = s.proc ∧ (s.dropL1 c l).graphs = s.graphs ∧
    (s.dropL1 c l).tandems = s.tandems ∧ (s.dropL1 c l).host = s.host ∧ (s.dropL1 c l).disc = s.disc ∧ (s.dropL1 c l).boot = s.boot :=
  by and_intros <;> rfl

@[simp] theorem State.raiseErr_keeps (s : State) (e : ErrRec) :
    (s.raiseErr e).tsc = s.tsc ∧ (s.raiseErr e).frac = s.frac ∧ (s.raiseErr e).cycle = s.cycle ∧ (s.raiseErr e).agenda = s.agenda ∧
    (s.raiseErr e).issue = s.issue ∧ (s.raiseErr e).mem = s.mem ∧ (s.raiseErr e).hostMem = s.hostMem ∧ (s.raiseErr e).fused = s.fused ∧
    (s.raiseErr e).contexts = s.contexts ∧ (s.raiseErr e).spans = s.spans ∧ (s.raiseErr e).groups = s.groups ∧
    (s.raiseErr e).saved = s.saved ∧ (s.raiseErr e).tiles = s.tiles ∧ (s.raiseErr e).oldWords = s.oldWords ∧
    (s.raiseErr e).cores = s.cores ∧ (s.raiseErr e).dies = s.dies ∧ (s.raiseErr e).lines = s.lines ∧ (s.raiseErr e).dirs = s.dirs ∧
    (s.raiseErr e).l1 = s.l1 ∧ (s.raiseErr e).horizons = s.horizons ∧ (s.raiseErr e).wtimes = s.wtimes ∧ (s.raiseErr e).tlb = s.tlb ∧
    (s.raiseErr e).leafCache = s.leafCache ∧ (s.raiseErr e).net = s.net ∧ (s.raiseErr e).links = s.links ∧ (s.raiseErr e).accs = s.accs ∧
    (s.raiseErr e).owed = s.owed ∧ (s.raiseErr e).sideLog = s.sideLog ∧ (s.raiseErr e).futures = s.futures ∧
    (s.raiseErr e).poisonLines = s.poisonLines ∧ (s.raiseErr e).writers = s.writers ∧ (s.raiseErr e).monitors = s.monitors ∧
    (s.raiseErr e).mxs = s.mxs ∧ (s.raiseErr e).mxDone = s.mxDone ∧ (s.raiseErr e).copies = s.copies ∧ (s.raiseErr e).tileOps = s.tileOps ∧
    (s.raiseErr e).fieldOps = s.fieldOps ∧ (s.raiseErr e).allocQ = s.allocQ ∧ (s.raiseErr e).allocHeld = s.allocHeld ∧
    (s.raiseErr e).marked = s.marked ∧ (s.raiseErr e).linkCmds = s.linkCmds ∧ (s.raiseErr e).arrivals = s.arrivals ∧
    (s.raiseErr e).cwrites = s.cwrites ∧ (s.raiseErr e).launches = s.launches ∧ (s.raiseErr e).faults = s.faults ∧
    (s.raiseErr e).lost = s.lost ∧ (s.raiseErr e).away = s.away ∧ (s.raiseErr e).deviceLog = s.deviceLog ∧
    (s.raiseErr e).logCount = s.logCount ∧ (s.raiseErr e).mailboxes = s.mailboxes ∧ (s.raiseErr e).queues = s.queues ∧
    (s.raiseErr e).proc = s.proc ∧ (s.raiseErr e).graphs = s.graphs ∧ (s.raiseErr e).tandems = s.tandems ∧ (s.raiseErr e).host = s.host ∧
    (s.raiseErr e).disc = s.disc ∧ (s.raiseErr e).boot = s.boot :=
  by and_intros <;> rfl

@[simp] theorem State.setMailbox_keeps (s : State) (m : Mailbox) :
    (s.setMailbox m).tsc = s.tsc ∧ (s.setMailbox m).frac = s.frac ∧ (s.setMailbox m).cycle = s.cycle ∧ (s.setMailbox m).agenda = s.agenda ∧
    (s.setMailbox m).issue = s.issue ∧ (s.setMailbox m).nextId = s.nextId ∧ (s.setMailbox m).mem = s.mem ∧
    (s.setMailbox m).hostMem = s.hostMem ∧ (s.setMailbox m).fused = s.fused ∧ (s.setMailbox m).contexts = s.contexts ∧
    (s.setMailbox m).spans = s.spans ∧ (s.setMailbox m).groups = s.groups ∧ (s.setMailbox m).saved = s.saved ∧
    (s.setMailbox m).tiles = s.tiles ∧ (s.setMailbox m).oldWords = s.oldWords ∧ (s.setMailbox m).cores = s.cores ∧
    (s.setMailbox m).dies = s.dies ∧ (s.setMailbox m).lines = s.lines ∧ (s.setMailbox m).dirs = s.dirs ∧ (s.setMailbox m).l1 = s.l1 ∧
    (s.setMailbox m).horizons = s.horizons ∧ (s.setMailbox m).wtimes = s.wtimes ∧ (s.setMailbox m).tlb = s.tlb ∧
    (s.setMailbox m).leafCache = s.leafCache ∧ (s.setMailbox m).net = s.net ∧ (s.setMailbox m).links = s.links ∧
    (s.setMailbox m).accs = s.accs ∧ (s.setMailbox m).owed = s.owed ∧ (s.setMailbox m).sideLog = s.sideLog ∧
    (s.setMailbox m).futures = s.futures ∧ (s.setMailbox m).poisonLines = s.poisonLines ∧ (s.setMailbox m).writers = s.writers ∧
    (s.setMailbox m).monitors = s.monitors ∧ (s.setMailbox m).mxs = s.mxs ∧ (s.setMailbox m).mxDone = s.mxDone ∧
    (s.setMailbox m).copies = s.copies ∧ (s.setMailbox m).tileOps = s.tileOps ∧ (s.setMailbox m).fieldOps = s.fieldOps ∧
    (s.setMailbox m).allocQ = s.allocQ ∧ (s.setMailbox m).allocHeld = s.allocHeld ∧ (s.setMailbox m).marked = s.marked ∧
    (s.setMailbox m).linkCmds = s.linkCmds ∧ (s.setMailbox m).arrivals = s.arrivals ∧ (s.setMailbox m).cwrites = s.cwrites ∧
    (s.setMailbox m).launches = s.launches ∧ (s.setMailbox m).faults = s.faults ∧ (s.setMailbox m).lost = s.lost ∧
    (s.setMailbox m).away = s.away ∧ (s.setMailbox m).errors = s.errors ∧ (s.setMailbox m).deviceLog = s.deviceLog ∧
    (s.setMailbox m).logCount = s.logCount ∧ (s.setMailbox m).queues = s.queues ∧ (s.setMailbox m).proc = s.proc ∧
    (s.setMailbox m).graphs = s.graphs ∧ (s.setMailbox m).tandems = s.tandems ∧ (s.setMailbox m).host = s.host ∧
    (s.setMailbox m).disc = s.disc ∧ (s.setMailbox m).boot = s.boot :=
  by and_intros <;> rfl

@[simp] theorem State.resumeThread_keeps (s : State) (g t : Nat) (p : PC) :
    (s.resumeThread g t p).tsc = s.tsc ∧ (s.resumeThread g t p).frac = s.frac ∧ (s.resumeThread g t p).cycle = s.cycle ∧
    (s.resumeThread g t p).agenda = s.agenda ∧ (s.resumeThread g t p).issue = s.issue ∧ (s.resumeThread g t p).nextId = s.nextId ∧
    (s.resumeThread g t p).mem = s.mem ∧ (s.resumeThread g t p).hostMem = s.hostMem ∧ (s.resumeThread g t p).fused = s.fused ∧
    (s.resumeThread g t p).contexts = s.contexts ∧ (s.resumeThread g t p).spans = s.spans ∧ (s.resumeThread g t p).saved = s.saved ∧
    (s.resumeThread g t p).tiles = s.tiles ∧ (s.resumeThread g t p).oldWords = s.oldWords ∧ (s.resumeThread g t p).cores = s.cores ∧
    (s.resumeThread g t p).dies = s.dies ∧ (s.resumeThread g t p).lines = s.lines ∧ (s.resumeThread g t p).dirs = s.dirs ∧
    (s.resumeThread g t p).l1 = s.l1 ∧ (s.resumeThread g t p).horizons = s.horizons ∧ (s.resumeThread g t p).wtimes = s.wtimes ∧
    (s.resumeThread g t p).tlb = s.tlb ∧ (s.resumeThread g t p).leafCache = s.leafCache ∧ (s.resumeThread g t p).net = s.net ∧
    (s.resumeThread g t p).links = s.links ∧ (s.resumeThread g t p).accs = s.accs ∧ (s.resumeThread g t p).owed = s.owed ∧
    (s.resumeThread g t p).sideLog = s.sideLog ∧ (s.resumeThread g t p).futures = s.futures ∧
    (s.resumeThread g t p).poisonLines = s.poisonLines ∧ (s.resumeThread g t p).writers = s.writers ∧
    (s.resumeThread g t p).monitors = s.monitors ∧ (s.resumeThread g t p).mxs = s.mxs ∧ (s.resumeThread g t p).mxDone = s.mxDone ∧
    (s.resumeThread g t p).copies = s.copies ∧ (s.resumeThread g t p).tileOps = s.tileOps ∧ (s.resumeThread g t p).fieldOps = s.fieldOps ∧
    (s.resumeThread g t p).allocQ = s.allocQ ∧ (s.resumeThread g t p).allocHeld = s.allocHeld ∧ (s.resumeThread g t p).marked = s.marked ∧
    (s.resumeThread g t p).linkCmds = s.linkCmds ∧ (s.resumeThread g t p).arrivals = s.arrivals ∧
    (s.resumeThread g t p).cwrites = s.cwrites ∧ (s.resumeThread g t p).launches = s.launches ∧ (s.resumeThread g t p).faults = s.faults ∧
    (s.resumeThread g t p).lost = s.lost ∧ (s.resumeThread g t p).away = s.away ∧ (s.resumeThread g t p).errors = s.errors ∧
    (s.resumeThread g t p).deviceLog = s.deviceLog ∧ (s.resumeThread g t p).logCount = s.logCount ∧
    (s.resumeThread g t p).mailboxes = s.mailboxes ∧ (s.resumeThread g t p).queues = s.queues ∧ (s.resumeThread g t p).proc = s.proc ∧
    (s.resumeThread g t p).graphs = s.graphs ∧ (s.resumeThread g t p).tandems = s.tandems ∧ (s.resumeThread g t p).host = s.host ∧
    (s.resumeThread g t p).disc = s.disc ∧ (s.resumeThread g t p).boot = s.boot :=
  by and_intros <;> rfl

@[simp] theorem State.parkThread_keeps (s : State) (g t : Nat) (c : Cause) :
    (s.parkThread g t c).tsc = s.tsc ∧ (s.parkThread g t c).frac = s.frac ∧ (s.parkThread g t c).cycle = s.cycle ∧
    (s.parkThread g t c).agenda = s.agenda ∧ (s.parkThread g t c).issue = s.issue ∧ (s.parkThread g t c).mem = s.mem ∧
    (s.parkThread g t c).hostMem = s.hostMem ∧ (s.parkThread g t c).fused = s.fused ∧ (s.parkThread g t c).contexts = s.contexts ∧
    (s.parkThread g t c).spans = s.spans ∧ (s.parkThread g t c).saved = s.saved ∧ (s.parkThread g t c).tiles = s.tiles ∧
    (s.parkThread g t c).oldWords = s.oldWords ∧ (s.parkThread g t c).cores = s.cores ∧ (s.parkThread g t c).dies = s.dies ∧
    (s.parkThread g t c).lines = s.lines ∧ (s.parkThread g t c).dirs = s.dirs ∧ (s.parkThread g t c).l1 = s.l1 ∧
    (s.parkThread g t c).horizons = s.horizons ∧ (s.parkThread g t c).wtimes = s.wtimes ∧ (s.parkThread g t c).tlb = s.tlb ∧
    (s.parkThread g t c).leafCache = s.leafCache ∧ (s.parkThread g t c).net = s.net ∧ (s.parkThread g t c).links = s.links ∧
    (s.parkThread g t c).accs = s.accs ∧ (s.parkThread g t c).owed = s.owed ∧ (s.parkThread g t c).sideLog = s.sideLog ∧
    (s.parkThread g t c).futures = s.futures ∧ (s.parkThread g t c).poisonLines = s.poisonLines ∧
    (s.parkThread g t c).writers = s.writers ∧ (s.parkThread g t c).monitors = s.monitors ∧ (s.parkThread g t c).mxs = s.mxs ∧
    (s.parkThread g t c).mxDone = s.mxDone ∧ (s.parkThread g t c).copies = s.copies ∧ (s.parkThread g t c).tileOps = s.tileOps ∧
    (s.parkThread g t c).fieldOps = s.fieldOps ∧ (s.parkThread g t c).allocQ = s.allocQ ∧ (s.parkThread g t c).allocHeld = s.allocHeld ∧
    (s.parkThread g t c).marked = s.marked ∧ (s.parkThread g t c).linkCmds = s.linkCmds ∧ (s.parkThread g t c).arrivals = s.arrivals ∧
    (s.parkThread g t c).cwrites = s.cwrites ∧ (s.parkThread g t c).launches = s.launches ∧ (s.parkThread g t c).faults = s.faults ∧
    (s.parkThread g t c).lost = s.lost ∧ (s.parkThread g t c).away = s.away ∧ (s.parkThread g t c).errors = s.errors ∧
    (s.parkThread g t c).deviceLog = s.deviceLog ∧ (s.parkThread g t c).logCount = s.logCount ∧
    (s.parkThread g t c).mailboxes = s.mailboxes ∧ (s.parkThread g t c).queues = s.queues ∧ (s.parkThread g t c).proc = s.proc ∧
    (s.parkThread g t c).graphs = s.graphs ∧ (s.parkThread g t c).tandems = s.tandems ∧ (s.parkThread g t c).host = s.host ∧
    (s.parkThread g t c).disc = s.disc ∧ (s.parkThread g t c).boot = s.boot :=
  by and_intros <;> rfl

@[simp] theorem State.wakeThread_keeps (s : State) (g t : Nat) :
    (s.wakeThread g t).tsc = s.tsc ∧ (s.wakeThread g t).frac = s.frac ∧ (s.wakeThread g t).cycle = s.cycle ∧
    (s.wakeThread g t).agenda = s.agenda ∧ (s.wakeThread g t).issue = s.issue ∧ (s.wakeThread g t).nextId = s.nextId ∧
    (s.wakeThread g t).mem = s.mem ∧ (s.wakeThread g t).hostMem = s.hostMem ∧ (s.wakeThread g t).fused = s.fused ∧
    (s.wakeThread g t).contexts = s.contexts ∧ (s.wakeThread g t).spans = s.spans ∧ (s.wakeThread g t).saved = s.saved ∧
    (s.wakeThread g t).tiles = s.tiles ∧ (s.wakeThread g t).oldWords = s.oldWords ∧ (s.wakeThread g t).cores = s.cores ∧
    (s.wakeThread g t).dies = s.dies ∧ (s.wakeThread g t).lines = s.lines ∧ (s.wakeThread g t).dirs = s.dirs ∧
    (s.wakeThread g t).l1 = s.l1 ∧ (s.wakeThread g t).horizons = s.horizons ∧ (s.wakeThread g t).wtimes = s.wtimes ∧
    (s.wakeThread g t).tlb = s.tlb ∧ (s.wakeThread g t).leafCache = s.leafCache ∧ (s.wakeThread g t).net = s.net ∧
    (s.wakeThread g t).links = s.links ∧ (s.wakeThread g t).accs = s.accs ∧ (s.wakeThread g t).owed = s.owed ∧
    (s.wakeThread g t).sideLog = s.sideLog ∧ (s.wakeThread g t).futures = s.futures ∧ (s.wakeThread g t).poisonLines = s.poisonLines ∧
    (s.wakeThread g t).writers = s.writers ∧ (s.wakeThread g t).monitors = s.monitors ∧ (s.wakeThread g t).mxs = s.mxs ∧
    (s.wakeThread g t).mxDone = s.mxDone ∧ (s.wakeThread g t).copies = s.copies ∧ (s.wakeThread g t).tileOps = s.tileOps ∧
    (s.wakeThread g t).fieldOps = s.fieldOps ∧ (s.wakeThread g t).allocQ = s.allocQ ∧ (s.wakeThread g t).allocHeld = s.allocHeld ∧
    (s.wakeThread g t).marked = s.marked ∧ (s.wakeThread g t).linkCmds = s.linkCmds ∧ (s.wakeThread g t).arrivals = s.arrivals ∧
    (s.wakeThread g t).cwrites = s.cwrites ∧ (s.wakeThread g t).launches = s.launches ∧ (s.wakeThread g t).faults = s.faults ∧
    (s.wakeThread g t).lost = s.lost ∧ (s.wakeThread g t).away = s.away ∧ (s.wakeThread g t).errors = s.errors ∧
    (s.wakeThread g t).deviceLog = s.deviceLog ∧ (s.wakeThread g t).logCount = s.logCount ∧ (s.wakeThread g t).mailboxes = s.mailboxes ∧
    (s.wakeThread g t).queues = s.queues ∧ (s.wakeThread g t).proc = s.proc ∧ (s.wakeThread g t).graphs = s.graphs ∧
    (s.wakeThread g t).tandems = s.tandems ∧ (s.wakeThread g t).host = s.host ∧ (s.wakeThread g t).disc = s.disc ∧
    (s.wakeThread g t).boot = s.boot :=
  by and_intros <;> rfl

@[simp] theorem State.deliver_keeps (s : State) (g t d : Nat) (ws : List Word) (p : Option DWord) :
    (s.deliver g t d ws p).tsc = s.tsc ∧ (s.deliver g t d ws p).frac = s.frac ∧ (s.deliver g t d ws p).cycle = s.cycle ∧
    (s.deliver g t d ws p).agenda = s.agenda ∧ (s.deliver g t d ws p).issue = s.issue ∧ (s.deliver g t d ws p).nextId = s.nextId ∧
    (s.deliver g t d ws p).mem = s.mem ∧ (s.deliver g t d ws p).hostMem = s.hostMem ∧ (s.deliver g t d ws p).fused = s.fused ∧
    (s.deliver g t d ws p).contexts = s.contexts ∧ (s.deliver g t d ws p).spans = s.spans ∧ (s.deliver g t d ws p).saved = s.saved ∧
    (s.deliver g t d ws p).tiles = s.tiles ∧ (s.deliver g t d ws p).oldWords = s.oldWords ∧ (s.deliver g t d ws p).cores = s.cores ∧
    (s.deliver g t d ws p).dies = s.dies ∧ (s.deliver g t d ws p).lines = s.lines ∧ (s.deliver g t d ws p).dirs = s.dirs ∧
    (s.deliver g t d ws p).l1 = s.l1 ∧ (s.deliver g t d ws p).horizons = s.horizons ∧ (s.deliver g t d ws p).wtimes = s.wtimes ∧
    (s.deliver g t d ws p).tlb = s.tlb ∧ (s.deliver g t d ws p).leafCache = s.leafCache ∧ (s.deliver g t d ws p).net = s.net ∧
    (s.deliver g t d ws p).links = s.links ∧ (s.deliver g t d ws p).accs = s.accs ∧ (s.deliver g t d ws p).owed = s.owed ∧
    (s.deliver g t d ws p).sideLog = s.sideLog ∧ (s.deliver g t d ws p).futures = s.futures ∧
    (s.deliver g t d ws p).poisonLines = s.poisonLines ∧ (s.deliver g t d ws p).writers = s.writers ∧
    (s.deliver g t d ws p).monitors = s.monitors ∧ (s.deliver g t d ws p).mxs = s.mxs ∧ (s.deliver g t d ws p).mxDone = s.mxDone ∧
    (s.deliver g t d ws p).copies = s.copies ∧ (s.deliver g t d ws p).tileOps = s.tileOps ∧ (s.deliver g t d ws p).fieldOps = s.fieldOps ∧
    (s.deliver g t d ws p).allocQ = s.allocQ ∧ (s.deliver g t d ws p).allocHeld = s.allocHeld ∧ (s.deliver g t d ws p).marked = s.marked ∧
    (s.deliver g t d ws p).linkCmds = s.linkCmds ∧ (s.deliver g t d ws p).arrivals = s.arrivals ∧
    (s.deliver g t d ws p).cwrites = s.cwrites ∧ (s.deliver g t d ws p).launches = s.launches ∧ (s.deliver g t d ws p).faults = s.faults ∧
    (s.deliver g t d ws p).lost = s.lost ∧ (s.deliver g t d ws p).away = s.away ∧ (s.deliver g t d ws p).errors = s.errors ∧
    (s.deliver g t d ws p).deviceLog = s.deviceLog ∧ (s.deliver g t d ws p).logCount = s.logCount ∧
    (s.deliver g t d ws p).mailboxes = s.mailboxes ∧ (s.deliver g t d ws p).queues = s.queues ∧ (s.deliver g t d ws p).proc = s.proc ∧
    (s.deliver g t d ws p).graphs = s.graphs ∧ (s.deliver g t d ws p).tandems = s.tandems ∧ (s.deliver g t d ws p).host = s.host ∧
    (s.deliver g t d ws p).disc = s.disc ∧ (s.deliver g t d ws p).boot = s.boot :=
  by and_intros <;> rfl

@[simp] theorem State.updLane_keeps (s : State) (l : Lane) (f : Thread → Thread) :
    (s.updLane l f).tsc = s.tsc ∧ (s.updLane l f).frac = s.frac ∧ (s.updLane l f).cycle = s.cycle ∧ (s.updLane l f).agenda = s.agenda ∧
    (s.updLane l f).issue = s.issue ∧ (s.updLane l f).nextId = s.nextId ∧ (s.updLane l f).mem = s.mem ∧
    (s.updLane l f).hostMem = s.hostMem ∧ (s.updLane l f).fused = s.fused ∧ (s.updLane l f).contexts = s.contexts ∧
    (s.updLane l f).spans = s.spans ∧ (s.updLane l f).saved = s.saved ∧ (s.updLane l f).tiles = s.tiles ∧
    (s.updLane l f).oldWords = s.oldWords ∧ (s.updLane l f).cores = s.cores ∧ (s.updLane l f).dies = s.dies ∧
    (s.updLane l f).lines = s.lines ∧ (s.updLane l f).dirs = s.dirs ∧ (s.updLane l f).l1 = s.l1 ∧ (s.updLane l f).horizons = s.horizons ∧
    (s.updLane l f).wtimes = s.wtimes ∧ (s.updLane l f).tlb = s.tlb ∧ (s.updLane l f).leafCache = s.leafCache ∧
    (s.updLane l f).net = s.net ∧ (s.updLane l f).links = s.links ∧ (s.updLane l f).accs = s.accs ∧ (s.updLane l f).owed = s.owed ∧
    (s.updLane l f).sideLog = s.sideLog ∧ (s.updLane l f).futures = s.futures ∧ (s.updLane l f).poisonLines = s.poisonLines ∧
    (s.updLane l f).writers = s.writers ∧ (s.updLane l f).monitors = s.monitors ∧ (s.updLane l f).mxs = s.mxs ∧
    (s.updLane l f).mxDone = s.mxDone ∧ (s.updLane l f).copies = s.copies ∧ (s.updLane l f).tileOps = s.tileOps ∧
    (s.updLane l f).fieldOps = s.fieldOps ∧ (s.updLane l f).allocQ = s.allocQ ∧ (s.updLane l f).allocHeld = s.allocHeld ∧
    (s.updLane l f).marked = s.marked ∧ (s.updLane l f).linkCmds = s.linkCmds ∧ (s.updLane l f).arrivals = s.arrivals ∧
    (s.updLane l f).cwrites = s.cwrites ∧ (s.updLane l f).launches = s.launches ∧ (s.updLane l f).faults = s.faults ∧
    (s.updLane l f).lost = s.lost ∧ (s.updLane l f).away = s.away ∧ (s.updLane l f).errors = s.errors ∧
    (s.updLane l f).deviceLog = s.deviceLog ∧ (s.updLane l f).logCount = s.logCount ∧ (s.updLane l f).mailboxes = s.mailboxes ∧
    (s.updLane l f).queues = s.queues ∧ (s.updLane l f).proc = s.proc ∧ (s.updLane l f).graphs = s.graphs ∧
    (s.updLane l f).tandems = s.tandems ∧ (s.updLane l f).host = s.host ∧ (s.updLane l f).disc = s.disc ∧ (s.updLane l f).boot = s.boot :=
  by and_intros <;> rfl

@[simp] theorem State.setMonitor_keeps (s : State) (m : Monitor) :
    (s.setMonitor m).tsc = s.tsc ∧ (s.setMonitor m).frac = s.frac ∧ (s.setMonitor m).cycle = s.cycle ∧ (s.setMonitor m).agenda = s.agenda ∧
    (s.setMonitor m).issue = s.issue ∧ (s.setMonitor m).nextId = s.nextId ∧ (s.setMonitor m).mem = s.mem ∧
    (s.setMonitor m).hostMem = s.hostMem ∧ (s.setMonitor m).fused = s.fused ∧ (s.setMonitor m).contexts = s.contexts ∧
    (s.setMonitor m).spans = s.spans ∧ (s.setMonitor m).groups = s.groups ∧ (s.setMonitor m).saved = s.saved ∧
    (s.setMonitor m).tiles = s.tiles ∧ (s.setMonitor m).oldWords = s.oldWords ∧ (s.setMonitor m).cores = s.cores ∧
    (s.setMonitor m).dies = s.dies ∧ (s.setMonitor m).lines = s.lines ∧ (s.setMonitor m).dirs = s.dirs ∧ (s.setMonitor m).l1 = s.l1 ∧
    (s.setMonitor m).horizons = s.horizons ∧ (s.setMonitor m).wtimes = s.wtimes ∧ (s.setMonitor m).tlb = s.tlb ∧
    (s.setMonitor m).leafCache = s.leafCache ∧ (s.setMonitor m).net = s.net ∧ (s.setMonitor m).links = s.links ∧
    (s.setMonitor m).accs = s.accs ∧ (s.setMonitor m).owed = s.owed ∧ (s.setMonitor m).sideLog = s.sideLog ∧
    (s.setMonitor m).futures = s.futures ∧ (s.setMonitor m).poisonLines = s.poisonLines ∧ (s.setMonitor m).writers = s.writers ∧
    (s.setMonitor m).mxs = s.mxs ∧ (s.setMonitor m).mxDone = s.mxDone ∧ (s.setMonitor m).copies = s.copies ∧
    (s.setMonitor m).tileOps = s.tileOps ∧ (s.setMonitor m).fieldOps = s.fieldOps ∧ (s.setMonitor m).allocQ = s.allocQ ∧
    (s.setMonitor m).allocHeld = s.allocHeld ∧ (s.setMonitor m).marked = s.marked ∧ (s.setMonitor m).linkCmds = s.linkCmds ∧
    (s.setMonitor m).arrivals = s.arrivals ∧ (s.setMonitor m).cwrites = s.cwrites ∧ (s.setMonitor m).launches = s.launches ∧
    (s.setMonitor m).faults = s.faults ∧ (s.setMonitor m).lost = s.lost ∧ (s.setMonitor m).away = s.away ∧
    (s.setMonitor m).errors = s.errors ∧ (s.setMonitor m).deviceLog = s.deviceLog ∧ (s.setMonitor m).logCount = s.logCount ∧
    (s.setMonitor m).mailboxes = s.mailboxes ∧ (s.setMonitor m).queues = s.queues ∧ (s.setMonitor m).proc = s.proc ∧
    (s.setMonitor m).graphs = s.graphs ∧ (s.setMonitor m).tandems = s.tandems ∧ (s.setMonitor m).host = s.host ∧
    (s.setMonitor m).disc = s.disc ∧ (s.setMonitor m).boot = s.boot :=
  by and_intros <;> rfl

@[simp] theorem State.ticks_tsc (s : State) (n : Nat) : (s.ticks n).tsc = s.tsc + (s.disc.pass n).2 := rfl
@[simp] theorem State.fresh_nextId (s : State) : s.fresh.nextId = s.nextId + 1 := rfl
@[simp] theorem State.updGroup_groups (s : State) (g : Nat) (f : Group → Group) :
    (s.updGroup g f).groups = updWhere (fun x => x.gid == g) f s.groups := rfl
@[simp] theorem State.updCtx_contexts (s : State) (a : Nat) (f : Context → Context) :
    (s.updCtx a f).contexts = updWhere (fun x => x.asid == a) f s.contexts := rfl
@[simp] theorem State.updSpan_spans (s : State) (x : Nat) (f : Span → Span) :
    (s.updSpan x f).spans = updWhere (fun y => y.sid == x) f s.spans := rfl
@[simp] theorem State.updTile_tiles (s : State) (u : Nat) (f : Tile → Tile) :
    (s.updTile u f).tiles = updWhere (fun y => y.uid == u) f s.tiles := rfl
@[simp] theorem State.updQueue_queues (s : State) (q : Nat) (f : Queue → Queue) :
    (s.updQueue q f).queues = updWhere (fun y => y.q == q) f s.queues := rfl
@[simp] theorem State.updGraph_graphs (s : State) (g : Nat) (f : Graph → Graph) :
    (s.updGraph g f).graphs = updWhere (fun y => y.id == g) f s.graphs := rfl
@[simp] theorem State.setPhysByte_mem (s : State) (pa : Nat) (b : Byte) : (s.setPhysByte pa b).mem = Memory.write s.mem pa b := rfl
@[simp] theorem State.raiseErr_nextId (s : State) (e : ErrRec) : (s.raiseErr e).nextId = s.nextId + 1 := rfl
@[simp] theorem State.raiseErr_errors (s : State) (e : ErrRec) :
    (s.raiseErr e).errors = s.errors ++ [{ e with id := s.nextId, tsc := s.tsc }] := rfl
@[simp] theorem State.parkThread_nextId (s : State) (g t : Nat) (c : Cause) : (s.parkThread g t c).nextId = s.nextId + 1 := rfl

end Sys2Proof.Machine
end

