-- ==== Sys2Proof/Laws/Memory.lean ====
section
/-! SUPPORT. Memory as cells keeps its canonical form, and a read after a write gives the written byte at its
address and the old byte everywhere else, in the cells, in a line and through every copy of a line. -/

namespace Sys2Proof.Machine

/-! ### The canonical form -/

theorem Memory.mem_write {m : List Host.Cell} {a : Nat} {b : Byte} {c : Host.Cell} (h : c ∈ Memory.write m a b) :
    c = (a, b) ∧ b ≠ Memory.blank ∨ c ∈ m := by
  induction m with
  | nil => simp only [Memory.write] at h; split at h <;> simp_all
  | cons d ds ih =>
    simp only [Memory.write] at h
    repeat' split at h
    all_goals simp_all
    all_goals tauto

theorem Memory.write_wf {m : List Host.Cell} (h : Memory.wf m) (a : Nat) (b : Byte) : Memory.wf (Memory.write m a b) := by
  refine ⟨?_, fun c hc => ?_⟩
  · induction m with
    | nil => simp only [Memory.write]; split <;> simp
    | cons d ds ih =>
      obtain ⟨hp, hb⟩ := h
      rw [List.pairwise_cons] at hp
      have ht := ih ⟨hp.2, fun c hc => hb c (List.mem_cons_of_mem d hc)⟩
      simp only [Memory.write]
      split
      · split
        · exact List.pairwise_cons.2 hp
        · refine List.pairwise_cons.2 ⟨fun c hc => ?_, List.pairwise_cons.2 hp⟩
          rcases List.mem_cons.1 hc with rfl | hc
          · assumption
          · exact Nat.lt_trans (by assumption) (hp.1 c hc)
      · split
        · split
          · exact hp.2
          · refine List.pairwise_cons.2 ⟨fun c hc => ?_, hp.2⟩
            have := hp.1 c hc
            simp_all
        · refine List.pairwise_cons.2 ⟨fun c hc => ?_, ht⟩
          rcases Memory.mem_write hc with ⟨rfl, _⟩ | hc
          · show d.1 < a
            omega
          · exact hp.1 c hc
  · rcases Memory.mem_write hc with ⟨rfl, hn⟩ | hc
    · exact hn
    · exact h.2 c hc

theorem Memory.writeBytes_wf {m : List Host.Cell} (h : Memory.wf m) (a : Nat) (bs : List Byte) : Memory.wf (Memory.writeBytes m a bs) := by
  induction bs generalizing m a with
  | nil => exact h
  | cons b bs ih => exact ih (Memory.write_wf h a b) (a + 1)

theorem Memory.setLine_wf {m : List Host.Cell} (h : Memory.wf m) (l : Nat) (d : LineData) : Memory.wf (Memory.setLine m l d) :=
  Memory.writeBytes_wf h _ _

theorem State.setPhysByte_memWf {s : State} (h : Memory.wf s.mem) (pa : Nat) (b : Byte) : Memory.wf (s.setPhysByte pa b).mem :=
  Memory.write_wf h pa b

theorem State.setPhysBytes_memWf {s : State} (h : Memory.wf s.mem) (pa : Nat) (bs : List Byte) : Memory.wf (s.setPhysBytes pa bs).mem := by
  induction bs generalizing s pa with
  | nil => exact h
  | cons b bs ih => exact ih (State.setPhysByte_memWf h pa b) (pa + 1)

theorem State.setPhysBytes_hostMem (s : State) (pa : Nat) (bs : List Byte) : (s.setPhysBytes pa bs).hostMem = s.hostMem := by
  induction bs generalizing s pa with
  | nil => rfl
  | cons b bs ih => exact ih (s.setPhysByte pa b) (pa + 1)

/-! ### Reading after writing -/

theorem Memory.read_cons (c : Host.Cell) (m : List Host.Cell) (x : Nat) :
    Memory.read (c :: m) x = if c.1 = x then c.2 else Memory.read m x := by
  by_cases h : c.1 = x <;> simp [Memory.read, h]

theorem Memory.read_blank {m : List Host.Cell} {x : Nat} (h : ∀ c ∈ m, x < c.1) : Memory.read m x = Memory.blank := by
  induction m with
  | nil => rfl
  | cons c m ih =>
    have hc : x < c.1 := h c (by simp)
    rw [Memory.read_cons, if_neg (by omega), ih fun d hd => h d (List.mem_cons_of_mem c hd)]

/-- The byte written reads back, and every other address reads as before. -/
theorem Memory.read_write {m : List Host.Cell} (h : Memory.wf m) (a : Nat) (b : Byte) (x : Nat) :
    Memory.read (Memory.write m a b) x = if x = a then b else Memory.read m x := by
  induction m with
  | nil =>
    simp only [Memory.write]
    split
    · rename_i e; subst e; split <;> rfl
    · rw [Memory.read_cons]
      by_cases e : x = a
      · rw [if_pos e.symm, if_pos e]
      · rw [if_neg fun k => e k.symm, if_neg e]
  | cons c m ih =>
    obtain ⟨hp, hb⟩ := h
    rw [List.pairwise_cons] at hp
    have ht := ih ⟨hp.2, fun d hd => hb d (List.mem_cons_of_mem c hd)⟩
    simp only [Memory.write]
    split
    · have hx : x = a → Memory.read (c :: m) x = Memory.blank := by
        rintro rfl
        refine Memory.read_blank fun d hd => ?_
        rcases List.mem_cons.1 hd with rfl | hd
        · assumption
        · exact Nat.lt_trans (by assumption) (hp.1 d hd)
      split
      · by_cases e : x = a <;> simp_all
      · rw [Memory.read_cons (a, b)]; simp only [eq_comm]
    · split
      · rename_i e
        subst e
        have hx : x = c.1 → Memory.read m x = Memory.blank := by
          rintro rfl; exact Memory.read_blank hp.1
        by_cases e : x = c.1
        · rw [if_pos e]
          split
          · rename_i hz; rw [hx e, hz]
          · rw [Memory.read_cons, if_pos e.symm]
        · have e' : ¬c.1 = x := fun k => e k.symm
          rw [if_neg e, Memory.read_cons c, if_neg e']
          by_cases hz : b = Memory.blank
          · rw [if_pos hz]
          · rw [if_neg hz, Memory.read_cons, if_neg e']
      · rw [Memory.read_cons, Memory.read_cons, ht]
        by_cases e : c.1 = x
        · have : x ≠ a := by omega
          simp [e, this]
        · simp [e]

/-- Two memories in canonical form that read alike are equal data. -/
theorem Memory.ext {m n : List Host.Cell} (hm : Memory.wf m) (hn : Memory.wf n) (h : ∀ x, Memory.read m x = Memory.read n x) : m = n := by
  induction m generalizing n with
  | nil =>
    cases n with
    | nil => rfl
    | cons c n =>
      have := h c.1
      rw [Memory.read_cons, if_pos rfl] at this
      exact absurd this.symm (hn.2 c (by simp))
  | cons c m ih =>
    obtain ⟨hpm, hbm⟩ := hm
    rw [List.pairwise_cons] at hpm
    cases n with
    | nil =>
      have := h c.1
      rw [Memory.read_cons, if_pos rfl] at this
      exact absurd this (hbm c (by simp))
    | cons d n =>
      obtain ⟨hpn, hbn⟩ := hn
      rw [List.pairwise_cons] at hpn
      have hcd : c.1 = d.1 := by
        rcases Nat.lt_trichotomy c.1 d.1 with hl | he | hl
        · have := h c.1
          rw [Memory.read_cons, if_pos rfl, Memory.read_blank (m := d :: n)] at this
          · exact absurd this (hbm c (by simp))
          · intro e he
            rcases List.mem_cons.1 he with rfl | he
            · exact hl
            · exact Nat.lt_trans hl (hpn.1 e he)
        · exact he
        · have := h d.1
          rw [Memory.read_cons d, if_pos rfl, Memory.read_blank (m := c :: m)] at this
          · exact absurd this.symm (hbn d (by simp))
          · intro e he
            rcases List.mem_cons.1 he with rfl | he
            · exact hl
            · exact Nat.lt_trans hl (hpm.1 e he)
      have hv : c.2 = d.2 := by
        have := h c.1
        rwa [Memory.read_cons, if_pos rfl, Memory.read_cons, if_pos hcd.symm] at this
      have hrest : m = n := by
        refine ih ⟨hpm.2, fun e he => hbm e (List.mem_cons_of_mem c he)⟩
          ⟨hpn.2, fun e he => hbn e (List.mem_cons_of_mem d he)⟩ fun x => ?_
        by_cases e : c.1 = x
        · subst e
          rw [Memory.read_blank hpm.1, Memory.read_blank fun k hk => hcd ▸ hpn.1 k hk]
        · have := h x
          rwa [Memory.read_cons, if_neg e, Memory.read_cons, if_neg (hcd ▸ e)] at this
      rw [hrest, Prod.ext hcd hv]

theorem Memory.read_writeBytes {m : List Host.Cell} (h : Memory.wf m) (a : Nat) (bs : List Byte) (x : Nat) :
    Memory.read (Memory.writeBytes m a bs) x = if a ≤ x ∧ x < a + bs.length then bs.getD (x - a) 0 else Memory.read m x := by
  induction bs generalizing m a with
  | nil => simp [Memory.writeBytes]
  | cons b bs ih =>
    rw [Memory.writeBytes, ih (Memory.write_wf h a b), Memory.read_write h]
    by_cases e : x = a
    · subst e; simp
    · by_cases hx : a + 1 ≤ x ∧ x < a + 1 + bs.length
      · have h1 : x - a = x - (a + 1) + 1 := by omega
        have h2 : a ≤ x ∧ x < a + (b :: bs).length := by simp; omega
        simp only [if_pos hx, if_pos h2, h1, List.getD_cons_succ]
      · have h2 : ¬(a ≤ x ∧ x < a + (b :: bs).length) := by simp; omega
        simp only [if_neg hx, if_neg h2, if_neg e]

/-! ### Bytes of a line -/

/-- Digit j of a number in base B whose digit k has been replaced. -/
theorem digit_replace (B k j x y z : Nat) (hB : 0 < B) (hx : x < B ^ k) (hy : y < B) :
    (x + y * B ^ k + z * B ^ (k + 1)) / B ^ j % B
      = if j = k then y else if j < k then x / B ^ j % B else z / B ^ (j - (k + 1)) % B := by
  have pos : ∀ n, 0 < B ^ n := fun n => Nat.pow_pos hB
  rcases Nat.lt_trichotomy j k with h | h | h
  · obtain ⟨n, rfl⟩ : ∃ n, k = j + 1 + n := ⟨k - j - 1, by omega⟩
    have e : x + y * B ^ (j + 1 + n) + z * B ^ (j + 1 + n + 1) = x + (y * B ^ n + z * B ^ (n + 1)) * B * B ^ j := by ring
    rw [e, Nat.add_mul_div_right _ _ (pos j), if_neg (by omega), if_pos h, Nat.add_mul_mod_self_right]
  · subst h
    have e : x + y * B ^ j + z * B ^ (j + 1) = x + (y + z * B) * B ^ j := by ring
    rw [e, Nat.add_mul_div_right _ _ (pos j), Nat.div_eq_of_lt hx, if_pos rfl, Nat.zero_add, Nat.add_mul_mod_self_right,
      Nat.mod_eq_of_lt hy]
  · obtain ⟨n, rfl⟩ : ∃ n, j = k + 1 + n := ⟨j - k - 1, by omega⟩
    have hxy : x + y * B ^ k < B ^ (k + 1) := by
      have h1 : (y + 1) * B ^ k ≤ B * B ^ k := Nat.mul_le_mul_right _ hy
      have h2 : B * B ^ k = B ^ (k + 1) := by ring
      have h3 : (y + 1) * B ^ k = y * B ^ k + B ^ k := by ring
      omega
    have e : k + 1 + n - (k + 1) = n := by omega
    rw [if_neg (by omega), if_neg (by omega), e, pow_add B (k + 1) n, ← Nat.div_div_eq_div_mul, Nat.add_mul_div_right _ _ (pos _),
      Nat.div_eq_of_lt hxy, Nat.zero_add]

/-- The digits below k of a number, a digit at k and the digits above k stay below B ^ n for k < n. -/
theorem digit_replace_lt (B n k v y : Nat) (hB : 0 < B) (hk : k < n) (hv : v < B ^ n) (hy : y < B) :
    v % B ^ k + y * B ^ k + v / B ^ (k + 1) * B ^ (k + 1) < B ^ n := by
  have pos : ∀ n, 0 < B ^ n := fun n => Nat.pow_pos hB
  obtain ⟨m, rfl⟩ : ∃ m, n = m + (k + 1) := ⟨n - (k + 1), by omega⟩
  rw [pow_add B m] at hv ⊢
  have h1 : v % B ^ k < B ^ k := Nat.mod_lt _ (pos k)
  have h2 : v / B ^ (k + 1) + 1 ≤ B ^ m := (Nat.div_lt_iff_lt_mul (pos _)).2 hv
  have h3 : (v / B ^ (k + 1) + 1) * B ^ (k + 1) ≤ B ^ m * B ^ (k + 1) := Nat.mul_le_mul_right _ h2
  have h4 : (y + 1) * B ^ k ≤ B * B ^ k := Nat.mul_le_mul_right _ hy
  have h5 : B * B ^ k = B ^ (k + 1) := by ring
  have h6 : (y + 1) * B ^ k = y * B ^ k + B ^ k := by ring
  have h7 : (v / B ^ (k + 1) + 1) * B ^ (k + 1) = v / B ^ (k + 1) * B ^ (k + 1) + B ^ (k + 1) := by ring
  omega

theorem lineByte_toNat (d : LineData) (j : Nat) : (lineByte d j).toNat = d.toNat / 256 ^ j % 256 := rfl

/-- A replaced byte of a line reads as the byte given, every other byte as before. -/
theorem lineByte_set (d : LineData) (k j : Nat) (b : Byte) (hk : k < 128) :
    lineByte (lineSetByte d k b) j = if j = k then b else lineByte d j := by
  have e2 : (2 : Nat) ^ 1024 = 256 ^ 128 := by rw [show (256 : Nat) = 2 ^ 8 from rfl, ← pow_mul]
  have hd : d.toNat < 256 ^ 128 := by rw [← e2]; exact d.isLt
  have hb : b.toNat < 256 := b.isLt
  have hn : (lineSetByte d k b).toNat
      = d.toNat % 256 ^ k + b.toNat * 256 ^ k + d.toNat / 256 ^ (k + 1) * 256 ^ (k + 1) := by
    rw [lineSetByte, BitVec.toNat_ofNat, e2]
    exact Nat.mod_eq_of_lt (digit_replace_lt 256 128 k d.toNat b.toNat (by omega) hk hd hb)
  apply BitVec.eq_of_toNat_eq
  rw [lineByte_toNat, hn, digit_replace 256 k j _ _ _ (by omega) (Nat.mod_lt _ (Nat.pow_pos (by omega))) hb]
  by_cases e : j = k
  · simp only [e, if_true]
  · simp only [e, if_false, lineByte_toNat]
    split
    · obtain ⟨n, rfl⟩ : ∃ n, k = j + (n + 1) := ⟨k - j - 1, by omega⟩
      rw [pow_add, Nat.mod_mul_right_div_self, pow_succ', Nat.mod_mul_right_mod]
    · obtain ⟨n, rfl⟩ : ∃ n, j = k + 1 + n := ⟨j - k - 1, by omega⟩
      rw [Nat.div_div_eq_div_mul, ← pow_add, show k + 1 + n - (k + 1) = n by omega]

/-! ### The coherent value of a byte (R212) -/

theorem find?_map_congr {α : Type} (f : α → α) (p : α → Bool) (hp : ∀ x, p (f x) = p x) (l : List α) :
    (l.map f).find? p = (l.find? p).map f := by
  induction l with
  | nil => rfl
  | cons x l ih => simp only [List.map_cons, List.find?_cons, hp]; split <;> simp [ih]

/-- After a byte is written through every copy, a line that is held reads as before but for that byte. -/
theorem State.heldLine_setPhysByte (s : State) (pa : Nat) (b : Byte) (l : Nat) :
    (s.setPhysByte pa b).heldLine l
      = (s.heldLine l).map fun d => if l = pa / 128 then lineSetByte d (pa % 128) b else d := by
  let fl : Nat × DieLine → Nat × DieLine :=
    fun p => if p.2.line == pa / 128 then (p.1, { p.2 with data := lineSetByte p.2.data (pa % 128) b }) else p
  let fn : Msg → Msg := fun m => if m.line == pa / 128 then { m with data := m.data.map fun d => lineSetByte d (pa % 128) b } else m
  let fd : Dir → Dir := fun d => if d.line == pa / 128 then { d with data := d.data.map fun x => lineSetByte x (pa % 128) b } else d
  have hl : (s.setPhysByte pa b).lines = s.lines.map fl := rfl
  have hn : (s.setPhysByte pa b).net = s.net.map fn := rfl
  have hd : (s.setPhysByte pa b).dirs = s.dirs.map fd := rfl
  simp only [State.heldLine, hl, hn, hd]
  rw [find?_map_congr fl, find?_map_congr fn, find?_map_congr fd]
  · cases h1 : s.lines.find? fun p => p.2.line == l && p.2.st.owns with
    | some p =>
      have hp : p.2.line = l := by have := List.find?_some h1; simp_all
      by_cases e : l = pa / 128 <;> simp [fl, hp, e]
    | none =>
      cases h2 : s.net.find? fun m => m.line == l && m.data.isSome && (m.kind == .wb || m.kind == .grant || m.kind == .answer) with
      | some m =>
        have hm : m.line = l := by have := List.find?_some h2; simp_all
        by_cases e : l = pa / 128 <;> simp [fn, hm, e]
      | none =>
        cases h3 : s.dirs.find? fun d => d.line == l && d.data.isSome with
        | none => rfl
        | some d =>
          have hd : d.line = l := by have := List.find?_some h3; simp_all
          by_cases e : l = pa / 128 <;> simp [fd, hd, e]
  · intro d; by_cases e : d.line = pa / 128 <;> simp [fd, e]
  · intro m; by_cases e : m.line = pa / 128 <;> simp [fn, e]
  · intro p; by_cases e : p.2.line = pa / 128 <;> simp [fl, e]

/-- The byte written reads back, and every other physical address reads as before, through every copy of the line. -/
theorem State.physByte_setPhysByte {s : State} (h : Memory.wf s.mem) (pa : Nat) (b : Byte) (x : Nat) :
    (s.setPhysByte pa b).physByte x = if x = pa then b else s.physByte x := by
  simp only [State.physByte, State.heldLine_setPhysByte, State.setPhysByte_mem]
  cases s.heldLine (x / 128) with
  | none => simp only [Option.map_none]; exact Memory.read_write h pa b x
  | some d =>
    simp only [Option.map_some]
    by_cases e : x / 128 = pa / 128
    · rw [if_pos e, lineByte_set _ _ _ _ (Nat.mod_lt _ (by norm_num))]
      have : (x % 128 = pa % 128) = (x = pa) := propext ⟨fun k => by omega, fun k => by rw [k]⟩
      simp only [this]
    · have : x ≠ pa := fun k => e (by rw [k])
      simp [e, this]

/-- The bytes written read back, and every other physical address reads as before. -/
theorem State.physByte_setPhysBytes {s : State} (h : Memory.wf s.mem) (pa : Nat) (bs : List Byte) (x : Nat) :
    (s.setPhysBytes pa bs).physByte x = if pa ≤ x ∧ x < pa + bs.length then bs.getD (x - pa) 0 else s.physByte x := by
  induction bs generalizing s pa with
  | nil => simp [State.setPhysBytes]
  | cons b bs ih =>
    rw [State.setPhysBytes, ih (State.setPhysByte_memWf h pa b), State.physByte_setPhysByte h]
    by_cases e : x = pa
    · subst e; simp
    · by_cases hx : pa + 1 ≤ x ∧ x < pa + 1 + bs.length
      · have h1 : x - pa = x - (pa + 1) + 1 := by omega
        have h2 : pa ≤ x ∧ x < pa + (b :: bs).length := by simp; omega
        simp only [if_pos hx, if_pos h2, h1, List.getD_cons_succ]
      · have h2 : ¬(pa ≤ x ∧ x < pa + (b :: bs).length) := by simp; omega
        simp only [if_neg hx, if_neg h2, if_neg e]

/-- Memory as it is at reset is in canonical form. -/
theorem State.reset_memWf : Memory.wf State.reset.mem ∧ Memory.wf State.reset.hostMem := by decide

end Sys2Proof.Machine
end

