-- ==== Sys2Proof/Laws/Threads.lean ====
section
/-! SUPPORT. What the operations on one thread do: the registers, predicates and poison marks that they write, and every
other field unchanged (R19, R44, R147, R383). -/

namespace Sys2Proof.Machine

/-! ### Fields that an operation leaves alone -/

@[simp] theorem Thread.setReg_keeps (t : Thread) (n : Nat) (v : Word) :
    (t.setReg n v).tid = t.tid ∧ (t.setReg n v).poison = t.poison ∧ (t.setReg n v).preds = t.preds ∧ (t.setReg n v).ppoison = t.ppoison ∧
    (t.setReg n v).pc = t.pc ∧ (t.setReg n v).flags = t.flags ∧ (t.setReg n v).mflags = t.mflags ∧ (t.setReg n v).rmode = t.rmode ∧
    (t.setReg n v).popen = t.popen ∧ (t.setReg n v).spoison = t.spoison ∧ (t.setReg n v).ptot = t.ptot ∧ (t.setReg n v).pacc = t.pacc ∧
    (t.setReg n v).key = t.key ∧ (t.setReg n v).ctr = t.ctr ∧ (t.setReg n v).nLoad = t.nLoad ∧ (t.setReg n v).nStore = t.nStore ∧
    (t.setReg n v).nCopy = t.nCopy ∧ (t.setReg n v).nTile = t.nTile ∧ (t.setReg n v).pend = t.pend ∧ (t.setReg n v).st = t.st ∧
    (t.setReg n v).waitSince = t.waitSince ∧ (t.setReg n v).packet = t.packet ∧ (t.setReg n v).parkNext = t.parkNext ∧
    (t.setReg n v).parkAlone = t.parkAlone ∧ (t.setReg n v).parkSlot = t.parkSlot ∧ (t.setReg n v).trapAt = t.trapAt ∧
    (t.setReg n v).parkOwn = t.parkOwn ∧ (t.setReg n v).grants = t.grants ∧ (t.setReg n v).barG = t.barG ∧ (t.setReg n v).barS = t.barS ∧
    (t.setReg n v).raised = t.raised ∧ (t.setReg n v).skids = t.skids ∧ (t.setReg n v).parity = t.parity ∧
    (t.setReg n v).pparity = t.pparity ∧ (t.setReg n v).sparity = t.sparity ∧ (t.setReg n v).pseq = t.pseq ∧
    (t.setReg n v).afresh = t.afresh ∧ (t.setReg n v).res = t.res ∧ (t.setReg n v).fence = t.fence ∧ (t.setReg n v).lw = t.lw ∧
    (t.setReg n v).gw = t.gw ∧ (t.setReg n v).tacc = t.tacc ∧ (t.setReg n v).sync = t.sync ∧ (t.setReg n v).flips = t.flips ∧
    (t.setReg n v).tsig = t.tsig ∧ (t.setReg n v).waitTick = t.waitTick :=
  by unfold Thread.setReg; split_ifs <;> simp

@[simp] theorem Thread.setGroup_keeps (t : Thread) (a n v : Nat) :
    (t.setGroup a n v).tid = t.tid ∧ (t.setGroup a n v).poison = t.poison ∧ (t.setGroup a n v).preds = t.preds ∧
    (t.setGroup a n v).ppoison = t.ppoison ∧ (t.setGroup a n v).pc = t.pc ∧ (t.setGroup a n v).flags = t.flags ∧
    (t.setGroup a n v).mflags = t.mflags ∧ (t.setGroup a n v).rmode = t.rmode ∧ (t.setGroup a n v).popen = t.popen ∧
    (t.setGroup a n v).spoison = t.spoison ∧ (t.setGroup a n v).ptot = t.ptot ∧ (t.setGroup a n v).pacc = t.pacc ∧
    (t.setGroup a n v).key = t.key ∧ (t.setGroup a n v).ctr = t.ctr ∧ (t.setGroup a n v).nLoad = t.nLoad ∧
    (t.setGroup a n v).nStore = t.nStore ∧ (t.setGroup a n v).nCopy = t.nCopy ∧ (t.setGroup a n v).nTile = t.nTile ∧
    (t.setGroup a n v).pend = t.pend ∧ (t.setGroup a n v).st = t.st ∧ (t.setGroup a n v).waitSince = t.waitSince ∧
    (t.setGroup a n v).packet = t.packet ∧ (t.setGroup a n v).parkNext = t.parkNext ∧ (t.setGroup a n v).parkAlone = t.parkAlone ∧
    (t.setGroup a n v).parkSlot = t.parkSlot ∧ (t.setGroup a n v).trapAt = t.trapAt ∧ (t.setGroup a n v).parkOwn = t.parkOwn ∧
    (t.setGroup a n v).grants = t.grants ∧ (t.setGroup a n v).barG = t.barG ∧ (t.setGroup a n v).barS = t.barS ∧
    (t.setGroup a n v).raised = t.raised ∧ (t.setGroup a n v).skids = t.skids ∧ (t.setGroup a n v).parity = t.parity ∧
    (t.setGroup a n v).pparity = t.pparity ∧ (t.setGroup a n v).sparity = t.sparity ∧ (t.setGroup a n v).pseq = t.pseq ∧
    (t.setGroup a n v).afresh = t.afresh ∧ (t.setGroup a n v).res = t.res ∧ (t.setGroup a n v).fence = t.fence ∧
    (t.setGroup a n v).lw = t.lw ∧ (t.setGroup a n v).gw = t.gw ∧ (t.setGroup a n v).tacc = t.tacc ∧ (t.setGroup a n v).sync = t.sync ∧
    (t.setGroup a n v).flips = t.flips ∧ (t.setGroup a n v).tsig = t.tsig ∧ (t.setGroup a n v).waitTick = t.waitTick :=
  by
  induction n generalizing t a v with
  | zero => simp [Thread.setGroup]
  | succ n ih => simpa only [Thread.setGroup, Thread.setReg_keeps] using ih (t.setReg a (BitVec.ofNat 32 v)) (a + 1) (v / 2 ^ 32)

@[simp] theorem Thread.setWords_keeps (t : Thread) (a : Nat) (ws : List Word) :
    (t.setWords a ws).tid = t.tid ∧ (t.setWords a ws).poison = t.poison ∧ (t.setWords a ws).preds = t.preds ∧
    (t.setWords a ws).ppoison = t.ppoison ∧ (t.setWords a ws).pc = t.pc ∧ (t.setWords a ws).flags = t.flags ∧
    (t.setWords a ws).mflags = t.mflags ∧ (t.setWords a ws).rmode = t.rmode ∧ (t.setWords a ws).popen = t.popen ∧
    (t.setWords a ws).spoison = t.spoison ∧ (t.setWords a ws).ptot = t.ptot ∧ (t.setWords a ws).pacc = t.pacc ∧
    (t.setWords a ws).key = t.key ∧ (t.setWords a ws).ctr = t.ctr ∧ (t.setWords a ws).nLoad = t.nLoad ∧
    (t.setWords a ws).nStore = t.nStore ∧ (t.setWords a ws).nCopy = t.nCopy ∧ (t.setWords a ws).nTile = t.nTile ∧
    (t.setWords a ws).pend = t.pend ∧ (t.setWords a ws).st = t.st ∧ (t.setWords a ws).waitSince = t.waitSince ∧
    (t.setWords a ws).packet = t.packet ∧ (t.setWords a ws).parkNext = t.parkNext ∧ (t.setWords a ws).parkAlone = t.parkAlone ∧
    (t.setWords a ws).parkSlot = t.parkSlot ∧ (t.setWords a ws).trapAt = t.trapAt ∧ (t.setWords a ws).parkOwn = t.parkOwn ∧
    (t.setWords a ws).grants = t.grants ∧ (t.setWords a ws).barG = t.barG ∧ (t.setWords a ws).barS = t.barS ∧
    (t.setWords a ws).raised = t.raised ∧ (t.setWords a ws).skids = t.skids ∧ (t.setWords a ws).parity = t.parity ∧
    (t.setWords a ws).pparity = t.pparity ∧ (t.setWords a ws).sparity = t.sparity ∧ (t.setWords a ws).pseq = t.pseq ∧
    (t.setWords a ws).afresh = t.afresh ∧ (t.setWords a ws).res = t.res ∧ (t.setWords a ws).fence = t.fence ∧ (t.setWords a ws).lw = t.lw ∧
    (t.setWords a ws).gw = t.gw ∧ (t.setWords a ws).tacc = t.tacc ∧ (t.setWords a ws).sync = t.sync ∧ (t.setWords a ws).flips = t.flips ∧
    (t.setWords a ws).tsig = t.tsig ∧ (t.setWords a ws).waitTick = t.waitTick :=
  by
  induction ws generalizing t a with
  | nil => simp [Thread.setWords]
  | cons w ws ih => simpa only [Thread.setWords, Thread.setReg_keeps] using ih (t.setReg a w) (a + 1)

@[simp] theorem Thread.setPred_keeps (t : Thread) (n : Nat) (v : Bool) :
    (t.setPred n v).tid = t.tid ∧ (t.setPred n v).regs = t.regs ∧ (t.setPred n v).poison = t.poison ∧ (t.setPred n v).ppoison = t.ppoison ∧
    (t.setPred n v).pc = t.pc ∧ (t.setPred n v).flags = t.flags ∧ (t.setPred n v).mflags = t.mflags ∧ (t.setPred n v).rmode = t.rmode ∧
    (t.setPred n v).popen = t.popen ∧ (t.setPred n v).shadow = t.shadow ∧ (t.setPred n v).spoison = t.spoison ∧
    (t.setPred n v).ptot = t.ptot ∧ (t.setPred n v).pacc = t.pacc ∧ (t.setPred n v).key = t.key ∧ (t.setPred n v).ctr = t.ctr ∧
    (t.setPred n v).nLoad = t.nLoad ∧ (t.setPred n v).nStore = t.nStore ∧ (t.setPred n v).nCopy = t.nCopy ∧
    (t.setPred n v).nTile = t.nTile ∧ (t.setPred n v).pend = t.pend ∧ (t.setPred n v).st = t.st ∧ (t.setPred n v).waitSince = t.waitSince ∧
    (t.setPred n v).packet = t.packet ∧ (t.setPred n v).parkNext = t.parkNext ∧ (t.setPred n v).parkAlone = t.parkAlone ∧
    (t.setPred n v).parkSlot = t.parkSlot ∧ (t.setPred n v).trapAt = t.trapAt ∧ (t.setPred n v).parkOwn = t.parkOwn ∧
    (t.setPred n v).grants = t.grants ∧ (t.setPred n v).barG = t.barG ∧ (t.setPred n v).barS = t.barS ∧ (t.setPred n v).raised = t.raised ∧
    (t.setPred n v).skids = t.skids ∧ (t.setPred n v).parity = t.parity ∧ (t.setPred n v).pparity = t.pparity ∧
    (t.setPred n v).sparity = t.sparity ∧ (t.setPred n v).pseq = t.pseq ∧ (t.setPred n v).afresh = t.afresh ∧ (t.setPred n v).res = t.res ∧
    (t.setPred n v).fence = t.fence ∧ (t.setPred n v).lw = t.lw ∧ (t.setPred n v).gw = t.gw ∧ (t.setPred n v).tacc = t.tacc ∧
    (t.setPred n v).sync = t.sync ∧ (t.setPred n v).flips = t.flips ∧ (t.setPred n v).tsig = t.tsig ∧
    (t.setPred n v).waitTick = t.waitTick :=
  by unfold Thread.setPred; split_ifs <;> simp

@[simp] theorem Thread.setPoison_keeps (t : Thread) (b : Bool) (n : Nat) :
    (t.setPoison b n).tid = t.tid ∧ (t.setPoison b n).regs = t.regs ∧ (t.setPoison b n).preds = t.preds ∧
    (t.setPoison b n).ppoison = t.ppoison ∧ (t.setPoison b n).pc = t.pc ∧ (t.setPoison b n).flags = t.flags ∧
    (t.setPoison b n).mflags = t.mflags ∧ (t.setPoison b n).rmode = t.rmode ∧ (t.setPoison b n).popen = t.popen ∧
    (t.setPoison b n).shadow = t.shadow ∧ (t.setPoison b n).ptot = t.ptot ∧ (t.setPoison b n).pacc = t.pacc ∧
    (t.setPoison b n).key = t.key ∧ (t.setPoison b n).ctr = t.ctr ∧ (t.setPoison b n).nLoad = t.nLoad ∧
    (t.setPoison b n).nStore = t.nStore ∧ (t.setPoison b n).nCopy = t.nCopy ∧ (t.setPoison b n).nTile = t.nTile ∧
    (t.setPoison b n).pend = t.pend ∧ (t.setPoison b n).st = t.st ∧ (t.setPoison b n).waitSince = t.waitSince ∧
    (t.setPoison b n).packet = t.packet ∧ (t.setPoison b n).parkNext = t.parkNext ∧ (t.setPoison b n).parkAlone = t.parkAlone ∧
    (t.setPoison b n).parkSlot = t.parkSlot ∧ (t.setPoison b n).trapAt = t.trapAt ∧ (t.setPoison b n).parkOwn = t.parkOwn ∧
    (t.setPoison b n).grants = t.grants ∧ (t.setPoison b n).barG = t.barG ∧ (t.setPoison b n).barS = t.barS ∧
    (t.setPoison b n).raised = t.raised ∧ (t.setPoison b n).pparity = t.pparity ∧ (t.setPoison b n).pseq = t.pseq ∧
    (t.setPoison b n).afresh = t.afresh ∧ (t.setPoison b n).res = t.res ∧ (t.setPoison b n).fence = t.fence ∧ (t.setPoison b n).lw = t.lw ∧
    (t.setPoison b n).gw = t.gw ∧ (t.setPoison b n).tacc = t.tacc ∧ (t.setPoison b n).sync = t.sync ∧ (t.setPoison b n).flips = t.flips ∧
    (t.setPoison b n).tsig = t.tsig ∧ (t.setPoison b n).waitTick = t.waitTick :=
  by unfold Thread.setPoison; split_ifs <;> simp

@[simp] theorem Thread.markPoison_keeps (t : Thread) (rs : List Nat) (p : Bool) :
    (t.markPoison rs p).tid = t.tid ∧ (t.markPoison rs p).regs = t.regs ∧ (t.markPoison rs p).preds = t.preds ∧
    (t.markPoison rs p).ppoison = t.ppoison ∧ (t.markPoison rs p).pc = t.pc ∧ (t.markPoison rs p).flags = t.flags ∧
    (t.markPoison rs p).mflags = t.mflags ∧ (t.markPoison rs p).rmode = t.rmode ∧ (t.markPoison rs p).popen = t.popen ∧
    (t.markPoison rs p).shadow = t.shadow ∧ (t.markPoison rs p).ptot = t.ptot ∧ (t.markPoison rs p).pacc = t.pacc ∧
    (t.markPoison rs p).key = t.key ∧ (t.markPoison rs p).ctr = t.ctr ∧ (t.markPoison rs p).nLoad = t.nLoad ∧
    (t.markPoison rs p).nStore = t.nStore ∧ (t.markPoison rs p).nCopy = t.nCopy ∧ (t.markPoison rs p).nTile = t.nTile ∧
    (t.markPoison rs p).pend = t.pend ∧ (t.markPoison rs p).st = t.st ∧ (t.markPoison rs p).waitSince = t.waitSince ∧
    (t.markPoison rs p).packet = t.packet ∧ (t.markPoison rs p).parkNext = t.parkNext ∧ (t.markPoison rs p).parkAlone = t.parkAlone ∧
    (t.markPoison rs p).parkSlot = t.parkSlot ∧ (t.markPoison rs p).trapAt = t.trapAt ∧ (t.markPoison rs p).parkOwn = t.parkOwn ∧
    (t.markPoison rs p).grants = t.grants ∧ (t.markPoison rs p).barG = t.barG ∧ (t.markPoison rs p).barS = t.barS ∧
    (t.markPoison rs p).raised = t.raised ∧ (t.markPoison rs p).pparity = t.pparity ∧ (t.markPoison rs p).pseq = t.pseq ∧
    (t.markPoison rs p).afresh = t.afresh ∧ (t.markPoison rs p).res = t.res ∧ (t.markPoison rs p).fence = t.fence ∧
    (t.markPoison rs p).lw = t.lw ∧ (t.markPoison rs p).gw = t.gw ∧ (t.markPoison rs p).tacc = t.tacc ∧ (t.markPoison rs p).sync = t.sync ∧
    (t.markPoison rs p).flips = t.flips ∧ (t.markPoison rs p).tsig = t.tsig ∧ (t.markPoison rs p).waitTick = t.waitTick :=
  by
  unfold Thread.markPoison
  induction rs generalizing t with
  | nil => simp
  | cons r rs ih => simpa only [List.foldl_cons, Thread.setPoison_keeps] using ih (t.setPoison p r)

@[simp] theorem Thread.spread_keeps (t : Thread) (own rs ps : List Nat) :
    (t.spread own rs ps).tid = t.tid ∧ (t.spread own rs ps).regs = t.regs ∧ (t.spread own rs ps).poison = t.poison ∧
    (t.spread own rs ps).preds = t.preds ∧ (t.spread own rs ps).ppoison = t.ppoison ∧ (t.spread own rs ps).pc = t.pc ∧
    (t.spread own rs ps).flags = t.flags ∧ (t.spread own rs ps).mflags = t.mflags ∧ (t.spread own rs ps).rmode = t.rmode ∧
    (t.spread own rs ps).popen = t.popen ∧ (t.spread own rs ps).shadow = t.shadow ∧ (t.spread own rs ps).spoison = t.spoison ∧
    (t.spread own rs ps).ptot = t.ptot ∧ (t.spread own rs ps).pacc = t.pacc ∧ (t.spread own rs ps).key = t.key ∧
    (t.spread own rs ps).ctr = t.ctr ∧ (t.spread own rs ps).nLoad = t.nLoad ∧ (t.spread own rs ps).nStore = t.nStore ∧
    (t.spread own rs ps).nCopy = t.nCopy ∧ (t.spread own rs ps).nTile = t.nTile ∧ (t.spread own rs ps).pend = t.pend ∧
    (t.spread own rs ps).st = t.st ∧ (t.spread own rs ps).waitSince = t.waitSince ∧ (t.spread own rs ps).packet = t.packet ∧
    (t.spread own rs ps).parkNext = t.parkNext ∧ (t.spread own rs ps).parkAlone = t.parkAlone ∧
    (t.spread own rs ps).parkSlot = t.parkSlot ∧ (t.spread own rs ps).trapAt = t.trapAt ∧ (t.spread own rs ps).parkOwn = t.parkOwn ∧
    (t.spread own rs ps).grants = t.grants ∧ (t.spread own rs ps).barG = t.barG ∧ (t.spread own rs ps).barS = t.barS ∧
    (t.spread own rs ps).raised = t.raised ∧ (t.spread own rs ps).parity = t.parity ∧ (t.spread own rs ps).pparity = t.pparity ∧
    (t.spread own rs ps).sparity = t.sparity ∧ (t.spread own rs ps).pseq = t.pseq ∧ (t.spread own rs ps).afresh = t.afresh ∧
    (t.spread own rs ps).res = t.res ∧ (t.spread own rs ps).fence = t.fence ∧ (t.spread own rs ps).lw = t.lw ∧
    (t.spread own rs ps).gw = t.gw ∧ (t.spread own rs ps).tacc = t.tacc ∧ (t.spread own rs ps).sync = t.sync ∧
    (t.spread own rs ps).flips = t.flips ∧ (t.spread own rs ps).tsig = t.tsig ∧ (t.spread own rs ps).waitTick = t.waitTick :=
  by simp [Thread.spread]

@[simp] theorem Thread.retired_keeps (t : Thread) :
    (t.retired).tid = t.tid ∧ (t.retired).regs = t.regs ∧ (t.retired).poison = t.poison ∧ (t.retired).preds = t.preds ∧
    (t.retired).ppoison = t.ppoison ∧ (t.retired).pc = t.pc ∧ (t.retired).flags = t.flags ∧ (t.retired).mflags = t.mflags ∧
    (t.retired).rmode = t.rmode ∧ (t.retired).popen = t.popen ∧ (t.retired).shadow = t.shadow ∧ (t.retired).spoison = t.spoison ∧
    (t.retired).ptot = t.ptot ∧ (t.retired).pacc = t.pacc ∧ (t.retired).key = t.key ∧ (t.retired).ctr = t.ctr ∧
    (t.retired).nLoad = t.nLoad ∧ (t.retired).nStore = t.nStore ∧ (t.retired).nCopy = t.nCopy ∧ (t.retired).nTile = t.nTile ∧
    (t.retired).pend = t.pend ∧ (t.retired).st = t.st ∧ (t.retired).waitSince = t.waitSince ∧ (t.retired).packet = t.packet ∧
    (t.retired).parkNext = t.parkNext ∧ (t.retired).parkAlone = t.parkAlone ∧ (t.retired).parkSlot = t.parkSlot ∧
    (t.retired).trapAt = t.trapAt ∧ (t.retired).parkOwn = t.parkOwn ∧ (t.retired).grants = t.grants ∧ (t.retired).barG = t.barG ∧
    (t.retired).barS = t.barS ∧ (t.retired).raised = t.raised ∧ (t.retired).parity = t.parity ∧ (t.retired).pparity = t.pparity ∧
    (t.retired).sparity = t.sparity ∧ (t.retired).pseq = t.pseq ∧ (t.retired).afresh = t.afresh ∧ (t.retired).res = t.res ∧
    (t.retired).fence = t.fence ∧ (t.retired).lw = t.lw ∧ (t.retired).gw = t.gw ∧ (t.retired).tacc = t.tacc ∧ (t.retired).sync = t.sync ∧
    (t.retired).flips = t.flips ∧ (t.retired).tsig = t.tsig ∧ (t.retired).waitTick = t.waitTick :=
  by simp [Thread.retired]

@[simp] theorem Thread.poisonIn_keeps (t : Thread) (va : DWord) (rs ps : List Nat) :
    (t.poisonIn va rs ps).tid = t.tid ∧ (t.poisonIn va rs ps).regs = t.regs ∧ (t.poisonIn va rs ps).poison = t.poison ∧
    (t.poisonIn va rs ps).preds = t.preds ∧ (t.poisonIn va rs ps).ppoison = t.ppoison ∧ (t.poisonIn va rs ps).pc = t.pc ∧
    (t.poisonIn va rs ps).flags = t.flags ∧ (t.poisonIn va rs ps).mflags = t.mflags ∧ (t.poisonIn va rs ps).rmode = t.rmode ∧
    (t.poisonIn va rs ps).popen = t.popen ∧ (t.poisonIn va rs ps).shadow = t.shadow ∧ (t.poisonIn va rs ps).spoison = t.spoison ∧
    (t.poisonIn va rs ps).ptot = t.ptot ∧ (t.poisonIn va rs ps).pacc = t.pacc ∧ (t.poisonIn va rs ps).key = t.key ∧
    (t.poisonIn va rs ps).ctr = t.ctr ∧ (t.poisonIn va rs ps).nLoad = t.nLoad ∧ (t.poisonIn va rs ps).nStore = t.nStore ∧
    (t.poisonIn va rs ps).nCopy = t.nCopy ∧ (t.poisonIn va rs ps).nTile = t.nTile ∧ (t.poisonIn va rs ps).pend = t.pend ∧
    (t.poisonIn va rs ps).st = t.st ∧ (t.poisonIn va rs ps).waitSince = t.waitSince ∧ (t.poisonIn va rs ps).packet = t.packet ∧
    (t.poisonIn va rs ps).parkNext = t.parkNext ∧ (t.poisonIn va rs ps).parkAlone = t.parkAlone ∧
    (t.poisonIn va rs ps).parkSlot = t.parkSlot ∧ (t.poisonIn va rs ps).trapAt = t.trapAt ∧ (t.poisonIn va rs ps).parkOwn = t.parkOwn ∧
    (t.poisonIn va rs ps).grants = t.grants ∧ (t.poisonIn va rs ps).barG = t.barG ∧ (t.poisonIn va rs ps).barS = t.barS ∧
    (t.poisonIn va rs ps).raised = t.raised ∧ (t.poisonIn va rs ps).parity = t.parity ∧ (t.poisonIn va rs ps).pparity = t.pparity ∧
    (t.poisonIn va rs ps).sparity = t.sparity ∧ (t.poisonIn va rs ps).pseq = t.pseq ∧ (t.poisonIn va rs ps).afresh = t.afresh ∧
    (t.poisonIn va rs ps).res = t.res ∧ (t.poisonIn va rs ps).fence = t.fence ∧ (t.poisonIn va rs ps).lw = t.lw ∧
    (t.poisonIn va rs ps).gw = t.gw ∧ (t.poisonIn va rs ps).tacc = t.tacc ∧ (t.poisonIn va rs ps).sync = t.sync ∧
    (t.poisonIn va rs ps).flips = t.flips ∧ (t.poisonIn va rs ps).tsig = t.tsig ∧ (t.poisonIn va rs ps).waitTick = t.waitTick :=
  by unfold Thread.poisonIn; split_ifs <;> simp

@[simp] theorem Thread.taint_keeps (t : Thread) (rs own : List Nat) (e : Option DWord) :
    (t.taint rs own e).tid = t.tid ∧ (t.taint rs own e).regs = t.regs ∧ (t.taint rs own e).preds = t.preds ∧
    (t.taint rs own e).ppoison = t.ppoison ∧ (t.taint rs own e).pc = t.pc ∧ (t.taint rs own e).flags = t.flags ∧
    (t.taint rs own e).mflags = t.mflags ∧ (t.taint rs own e).rmode = t.rmode ∧ (t.taint rs own e).popen = t.popen ∧
    (t.taint rs own e).shadow = t.shadow ∧ (t.taint rs own e).ptot = t.ptot ∧ (t.taint rs own e).pacc = t.pacc ∧
    (t.taint rs own e).key = t.key ∧ (t.taint rs own e).ctr = t.ctr ∧ (t.taint rs own e).nLoad = t.nLoad ∧
    (t.taint rs own e).nStore = t.nStore ∧ (t.taint rs own e).nCopy = t.nCopy ∧ (t.taint rs own e).nTile = t.nTile ∧
    (t.taint rs own e).pend = t.pend ∧ (t.taint rs own e).st = t.st ∧ (t.taint rs own e).waitSince = t.waitSince ∧
    (t.taint rs own e).packet = t.packet ∧ (t.taint rs own e).parkNext = t.parkNext ∧ (t.taint rs own e).parkAlone = t.parkAlone ∧
    (t.taint rs own e).parkSlot = t.parkSlot ∧ (t.taint rs own e).trapAt = t.trapAt ∧ (t.taint rs own e).parkOwn = t.parkOwn ∧
    (t.taint rs own e).grants = t.grants ∧ (t.taint rs own e).barG = t.barG ∧ (t.taint rs own e).barS = t.barS ∧
    (t.taint rs own e).raised = t.raised ∧ (t.taint rs own e).pparity = t.pparity ∧ (t.taint rs own e).pseq = t.pseq ∧
    (t.taint rs own e).afresh = t.afresh ∧ (t.taint rs own e).res = t.res ∧ (t.taint rs own e).fence = t.fence ∧
    (t.taint rs own e).lw = t.lw ∧ (t.taint rs own e).gw = t.gw ∧ (t.taint rs own e).tacc = t.tacc ∧ (t.taint rs own e).sync = t.sync ∧
    (t.taint rs own e).flips = t.flips ∧ (t.taint rs own e).tsig = t.tsig ∧ (t.taint rs own e).waitTick = t.waitTick :=
  by unfold Thread.taint; cases e <;> simp

@[simp] theorem Thread.markPend_keeps (t : Thread) (rs : List Nat) :
    (t.markPend rs).tid = t.tid ∧ (t.markPend rs).regs = t.regs ∧ (t.markPend rs).poison = t.poison ∧ (t.markPend rs).preds = t.preds ∧
    (t.markPend rs).ppoison = t.ppoison ∧ (t.markPend rs).pc = t.pc ∧ (t.markPend rs).flags = t.flags ∧ (t.markPend rs).mflags = t.mflags ∧
    (t.markPend rs).rmode = t.rmode ∧ (t.markPend rs).popen = t.popen ∧ (t.markPend rs).shadow = t.shadow ∧
    (t.markPend rs).spoison = t.spoison ∧ (t.markPend rs).ptot = t.ptot ∧ (t.markPend rs).pacc = t.pacc ∧ (t.markPend rs).key = t.key ∧
    (t.markPend rs).ctr = t.ctr ∧ (t.markPend rs).nLoad = t.nLoad ∧ (t.markPend rs).nStore = t.nStore ∧ (t.markPend rs).nCopy = t.nCopy ∧
    (t.markPend rs).nTile = t.nTile ∧ (t.markPend rs).st = t.st ∧ (t.markPend rs).waitSince = t.waitSince ∧
    (t.markPend rs).packet = t.packet ∧ (t.markPend rs).parkNext = t.parkNext ∧ (t.markPend rs).parkAlone = t.parkAlone ∧
    (t.markPend rs).parkSlot = t.parkSlot ∧ (t.markPend rs).trapAt = t.trapAt ∧ (t.markPend rs).parkOwn = t.parkOwn ∧
    (t.markPend rs).grants = t.grants ∧ (t.markPend rs).barG = t.barG ∧ (t.markPend rs).barS = t.barS ∧ (t.markPend rs).raised = t.raised ∧
    (t.markPend rs).skids = t.skids ∧ (t.markPend rs).parity = t.parity ∧ (t.markPend rs).pparity = t.pparity ∧
    (t.markPend rs).sparity = t.sparity ∧ (t.markPend rs).pseq = t.pseq ∧ (t.markPend rs).afresh = t.afresh ∧ (t.markPend rs).res = t.res ∧
    (t.markPend rs).fence = t.fence ∧ (t.markPend rs).lw = t.lw ∧ (t.markPend rs).gw = t.gw ∧ (t.markPend rs).tacc = t.tacc ∧
    (t.markPend rs).sync = t.sync ∧ (t.markPend rs).flips = t.flips ∧ (t.markPend rs).tsig = t.tsig ∧
    (t.markPend rs).waitTick = t.waitTick :=
  by simp [Thread.markPend]

@[simp] theorem Thread.clearPend_keeps (t : Thread) (rs : List Nat) :
    (t.clearPend rs).tid = t.tid ∧ (t.clearPend rs).regs = t.regs ∧ (t.clearPend rs).poison = t.poison ∧ (t.clearPend rs).preds = t.preds ∧
    (t.clearPend rs).ppoison = t.ppoison ∧ (t.clearPend rs).pc = t.pc ∧ (t.clearPend rs).flags = t.flags ∧
    (t.clearPend rs).mflags = t.mflags ∧ (t.clearPend rs).rmode = t.rmode ∧ (t.clearPend rs).popen = t.popen ∧
    (t.clearPend rs).shadow = t.shadow ∧ (t.clearPend rs).spoison = t.spoison ∧ (t.clearPend rs).ptot = t.ptot ∧
    (t.clearPend rs).pacc = t.pacc ∧ (t.clearPend rs).key = t.key ∧ (t.clearPend rs).ctr = t.ctr ∧ (t.clearPend rs).nLoad = t.nLoad ∧
    (t.clearPend rs).nStore = t.nStore ∧ (t.clearPend rs).nCopy = t.nCopy ∧ (t.clearPend rs).nTile = t.nTile ∧ (t.clearPend rs).st = t.st ∧
    (t.clearPend rs).waitSince = t.waitSince ∧ (t.clearPend rs).packet = t.packet ∧ (t.clearPend rs).parkNext = t.parkNext ∧
    (t.clearPend rs).parkAlone = t.parkAlone ∧ (t.clearPend rs).parkSlot = t.parkSlot ∧ (t.clearPend rs).trapAt = t.trapAt ∧
    (t.clearPend rs).parkOwn = t.parkOwn ∧ (t.clearPend rs).grants = t.grants ∧ (t.clearPend rs).barG = t.barG ∧
    (t.clearPend rs).barS = t.barS ∧ (t.clearPend rs).raised = t.raised ∧ (t.clearPend rs).skids = t.skids ∧
    (t.clearPend rs).parity = t.parity ∧ (t.clearPend rs).pparity = t.pparity ∧ (t.clearPend rs).sparity = t.sparity ∧
    (t.clearPend rs).pseq = t.pseq ∧ (t.clearPend rs).afresh = t.afresh ∧ (t.clearPend rs).res = t.res ∧ (t.clearPend rs).fence = t.fence ∧
    (t.clearPend rs).lw = t.lw ∧ (t.clearPend rs).gw = t.gw ∧ (t.clearPend rs).tacc = t.tacc ∧ (t.clearPend rs).sync = t.sync ∧
    (t.clearPend rs).flips = t.flips ∧ (t.clearPend rs).tsig = t.tsig ∧ (t.clearPend rs).waitTick = t.waitTick :=
  by simp [Thread.clearPend]

@[simp] theorem Thread.raise_keeps (t : Thread) (f : Flags) :
    (t.raise f).tid = t.tid ∧ (t.raise f).regs = t.regs ∧ (t.raise f).poison = t.poison ∧ (t.raise f).preds = t.preds ∧
    (t.raise f).ppoison = t.ppoison ∧ (t.raise f).pc = t.pc ∧ (t.raise f).mflags = t.mflags ∧ (t.raise f).rmode = t.rmode ∧
    (t.raise f).popen = t.popen ∧ (t.raise f).shadow = t.shadow ∧ (t.raise f).spoison = t.spoison ∧ (t.raise f).ptot = t.ptot ∧
    (t.raise f).pacc = t.pacc ∧ (t.raise f).key = t.key ∧ (t.raise f).ctr = t.ctr ∧ (t.raise f).nLoad = t.nLoad ∧
    (t.raise f).nStore = t.nStore ∧ (t.raise f).nCopy = t.nCopy ∧ (t.raise f).nTile = t.nTile ∧ (t.raise f).pend = t.pend ∧
    (t.raise f).st = t.st ∧ (t.raise f).waitSince = t.waitSince ∧ (t.raise f).packet = t.packet ∧ (t.raise f).parkNext = t.parkNext ∧
    (t.raise f).parkAlone = t.parkAlone ∧ (t.raise f).parkSlot = t.parkSlot ∧ (t.raise f).trapAt = t.trapAt ∧
    (t.raise f).parkOwn = t.parkOwn ∧ (t.raise f).grants = t.grants ∧ (t.raise f).barG = t.barG ∧ (t.raise f).barS = t.barS ∧
    (t.raise f).skids = t.skids ∧ (t.raise f).parity = t.parity ∧ (t.raise f).pparity = t.pparity ∧ (t.raise f).sparity = t.sparity ∧
    (t.raise f).pseq = t.pseq ∧ (t.raise f).afresh = t.afresh ∧ (t.raise f).res = t.res ∧ (t.raise f).fence = t.fence ∧
    (t.raise f).lw = t.lw ∧ (t.raise f).gw = t.gw ∧ (t.raise f).tacc = t.tacc ∧ (t.raise f).sync = t.sync ∧ (t.raise f).flips = t.flips ∧
    (t.raise f).tsig = t.tsig ∧ (t.raise f).waitTick = t.waitTick :=
  by simp [Thread.raise]

@[simp] theorem Thread.goto_keeps (t : Thread) (p : DWord) :
    (t.goto p).tid = t.tid ∧ (t.goto p).regs = t.regs ∧ (t.goto p).poison = t.poison ∧ (t.goto p).preds = t.preds ∧
    (t.goto p).ppoison = t.ppoison ∧ (t.goto p).flags = t.flags ∧ (t.goto p).mflags = t.mflags ∧ (t.goto p).rmode = t.rmode ∧
    (t.goto p).popen = t.popen ∧ (t.goto p).shadow = t.shadow ∧ (t.goto p).spoison = t.spoison ∧ (t.goto p).ptot = t.ptot ∧
    (t.goto p).pacc = t.pacc ∧ (t.goto p).key = t.key ∧ (t.goto p).ctr = t.ctr ∧ (t.goto p).nLoad = t.nLoad ∧
    (t.goto p).nStore = t.nStore ∧ (t.goto p).nCopy = t.nCopy ∧ (t.goto p).nTile = t.nTile ∧ (t.goto p).pend = t.pend ∧
    (t.goto p).st = t.st ∧ (t.goto p).waitSince = t.waitSince ∧ (t.goto p).parkNext = t.parkNext ∧ (t.goto p).parkAlone = t.parkAlone ∧
    (t.goto p).parkSlot = t.parkSlot ∧ (t.goto p).trapAt = t.trapAt ∧ (t.goto p).parkOwn = t.parkOwn ∧ (t.goto p).grants = t.grants ∧
    (t.goto p).barG = t.barG ∧ (t.goto p).barS = t.barS ∧ (t.goto p).raised = t.raised ∧ (t.goto p).skids = t.skids ∧
    (t.goto p).parity = t.parity ∧ (t.goto p).pparity = t.pparity ∧ (t.goto p).sparity = t.sparity ∧ (t.goto p).pseq = t.pseq ∧
    (t.goto p).afresh = t.afresh ∧ (t.goto p).res = t.res ∧ (t.goto p).fence = t.fence ∧ (t.goto p).lw = t.lw ∧ (t.goto p).gw = t.gw ∧
    (t.goto p).tacc = t.tacc ∧ (t.goto p).sync = t.sync ∧ (t.goto p).flips = t.flips ∧ (t.goto p).tsig = t.tsig ∧
    (t.goto p).waitTick = t.waitTick :=
  by simp [Thread.goto]

@[simp] theorem Thread.advance_keeps (t : Thread) (i : Issue) :
    (t.advance i).tid = t.tid ∧ (t.advance i).regs = t.regs ∧ (t.advance i).poison = t.poison ∧ (t.advance i).preds = t.preds ∧
    (t.advance i).ppoison = t.ppoison ∧ (t.advance i).flags = t.flags ∧ (t.advance i).mflags = t.mflags ∧ (t.advance i).rmode = t.rmode ∧
    (t.advance i).popen = t.popen ∧ (t.advance i).shadow = t.shadow ∧ (t.advance i).spoison = t.spoison ∧ (t.advance i).ptot = t.ptot ∧
    (t.advance i).pacc = t.pacc ∧ (t.advance i).key = t.key ∧ (t.advance i).ctr = t.ctr ∧ (t.advance i).nLoad = t.nLoad ∧
    (t.advance i).nStore = t.nStore ∧ (t.advance i).nCopy = t.nCopy ∧ (t.advance i).nTile = t.nTile ∧ (t.advance i).pend = t.pend ∧
    (t.advance i).st = t.st ∧ (t.advance i).waitSince = t.waitSince ∧ (t.advance i).parkNext = t.parkNext ∧
    (t.advance i).parkAlone = t.parkAlone ∧ (t.advance i).parkSlot = t.parkSlot ∧ (t.advance i).trapAt = t.trapAt ∧
    (t.advance i).parkOwn = t.parkOwn ∧ (t.advance i).barG = t.barG ∧ (t.advance i).barS = t.barS ∧ (t.advance i).skids = t.skids ∧
    (t.advance i).parity = t.parity ∧ (t.advance i).pparity = t.pparity ∧ (t.advance i).sparity = t.sparity ∧ (t.advance i).pseq = t.pseq ∧
    (t.advance i).afresh = t.afresh ∧ (t.advance i).res = t.res ∧ (t.advance i).lw = t.lw ∧ (t.advance i).gw = t.gw ∧
    (t.advance i).tacc = t.tacc ∧ (t.advance i).sync = t.sync ∧ (t.advance i).flips = t.flips ∧ (t.advance i).tsig = t.tsig ∧
    (t.advance i).waitTick = t.waitTick :=
  by simp [Thread.advance]

@[simp] theorem Thread.settle_keeps (t : Thread) (o : Opnds) (p : Bool) (own : List Nat) (e : Option DWord) :
    (t.settle o p own e).tid = t.tid ∧ (t.settle o p own e).regs = t.regs ∧ (t.settle o p own e).preds = t.preds ∧
    (t.settle o p own e).pc = t.pc ∧ (t.settle o p own e).flags = t.flags ∧ (t.settle o p own e).mflags = t.mflags ∧
    (t.settle o p own e).rmode = t.rmode ∧ (t.settle o p own e).popen = t.popen ∧ (t.settle o p own e).shadow = t.shadow ∧
    (t.settle o p own e).ptot = t.ptot ∧ (t.settle o p own e).pacc = t.pacc ∧ (t.settle o p own e).key = t.key ∧
    (t.settle o p own e).ctr = t.ctr ∧ (t.settle o p own e).nLoad = t.nLoad ∧ (t.settle o p own e).nStore = t.nStore ∧
    (t.settle o p own e).nCopy = t.nCopy ∧ (t.settle o p own e).nTile = t.nTile ∧ (t.settle o p own e).pend = t.pend ∧
    (t.settle o p own e).st = t.st ∧ (t.settle o p own e).waitSince = t.waitSince ∧ (t.settle o p own e).packet = t.packet ∧
    (t.settle o p own e).parkNext = t.parkNext ∧ (t.settle o p own e).parkAlone = t.parkAlone ∧
    (t.settle o p own e).parkSlot = t.parkSlot ∧ (t.settle o p own e).trapAt = t.trapAt ∧ (t.settle o p own e).parkOwn = t.parkOwn ∧
    (t.settle o p own e).grants = t.grants ∧ (t.settle o p own e).barG = t.barG ∧ (t.settle o p own e).barS = t.barS ∧
    (t.settle o p own e).raised = t.raised ∧ (t.settle o p own e).pseq = t.pseq ∧ (t.settle o p own e).afresh = t.afresh ∧
    (t.settle o p own e).res = t.res ∧ (t.settle o p own e).fence = t.fence ∧ (t.settle o p own e).lw = t.lw ∧
    (t.settle o p own e).gw = t.gw ∧ (t.settle o p own e).tacc = t.tacc ∧ (t.settle o p own e).sync = t.sync ∧
    (t.settle o p own e).flips = t.flips ∧ (t.settle o p own e).tsig = t.tsig ∧ (t.settle o p own e).waitTick = t.waitTick :=
  by
  unfold Thread.settle; cases e <;> simp

/-! ### Registers (R19, R147) -/

@[simp] theorem Thread.reg_zero (t : Thread) : t.reg 0 = 0 := rfl

@[simp] theorem Thread.setReg_zero (t : Thread) (v : Word) : t.setReg 0 v = t := rfl

theorem vector_get?_set {α : Type} {n : Nat} (x : Vector α n) (i j : Nat) (v : α) (h : i < n) :
    (x.setIfInBounds i v)[j]? = if i = j then some v else x[j]? := by
  rw [Vector.getElem?_setIfInBounds, if_pos h]

/-- A write of a register below 64 reads back in the bank in use, w0 excepted, and every other register reads as before. -/
theorem Thread.reg_setReg (t : Thread) (n m : Nat) (v : Word) (h : n < 64) :
    (t.setReg n v).reg m = if n ≠ 0 ∧ m = n then v else t.reg m := by
  rcases Nat.eq_zero_or_pos n with rfl | hn
  · simp
  rcases Nat.eq_zero_or_pos m with rfl | hm
  · have : ¬(n ≠ 0 ∧ 0 = n) := by omega
    simp [this]
  have hn0 : n ≠ 0 := by omega
  have hm0 : m ≠ 0 := by omega
  cases hp : t.popen
  · simp only [Thread.setReg, Thread.reg, hp, hn0, hm0, if_false, Bool.false_and, Bool.false_eq_true, vector_get?_set _ _ _ _ h]
    by_cases e : n = m
    · simp [e, hm0]
    · have : ¬m = n := fun k => e k.symm
      simp [e, this]
  · by_cases h48 : 48 ≤ n
    · by_cases m48 : 48 ≤ m
      · have hi : n - 48 < 16 := by omega
        simp only [Thread.setReg, Thread.reg, hp, hn0, hm0, h48, m48, if_false, decide_true, Bool.and_self, if_true, vector_get?_set _ _ _ _ hi]
        by_cases e : n = m
        · simp [e, hm0]
        · have h1 : ¬m = n := fun k => e k.symm
          have h2 : ¬n - 48 = m - 48 := by omega
          simp [h1, h2]
      · have : ¬m = n := by omega
        simp [Thread.setReg, Thread.reg, hp, hn0, hm0, h48, m48, this]
    · by_cases m48 : 48 ≤ m
      · have : ¬m = n := by omega
        simp [Thread.setReg, Thread.reg, hp, hn0, hm0, h48, m48, this]
      · simp only [Thread.setReg, Thread.reg, hp, hn0, hm0, h48, m48, if_false, decide_false, Bool.and_false, Bool.false_eq_true, vector_get?_set _ _ _ _ h]
        by_cases e : n = m
        · simp [e, hm0]
        · have : ¬m = n := fun k => e k.symm
          simp [e, this]

/-- The words written to a register group read back, w0 excepted, and every register outside the group reads as before. -/
theorem Thread.reg_setWords (t : Thread) (a : Nat) (ws : List Word) (m : Nat) (h : a + ws.length ≤ 64) :
    (t.setWords a ws).reg m = if m ≠ 0 ∧ a ≤ m ∧ m < a + ws.length then ws.getD (m - a) 0 else t.reg m := by
  induction ws generalizing t a with
  | nil => rw [if_neg (by simp)]; rfl
  | cons w ws ih =>
    simp only [List.length_cons] at h
    rw [Thread.setWords, ih _ _ (by omega), Thread.reg_setReg _ _ _ _ (by omega)]
    by_cases e : m = a
    · subst e
      have h1 : ¬(m ≠ 0 ∧ m + 1 ≤ m ∧ m < m + 1 + ws.length) := by omega
      rw [if_neg h1]
      by_cases e0 : m = 0
      · subst e0; simp
      · have h2 : m ≠ 0 ∧ m ≤ m ∧ m < m + (w :: ws).length := ⟨e0, le_refl m, by simp⟩
        rw [if_pos h2, if_pos ⟨e0, rfl⟩]; simp
    · by_cases hx : m ≠ 0 ∧ a + 1 ≤ m ∧ m < a + 1 + ws.length
      · have h1 : m - a = m - (a + 1) + 1 := by omega
        have h2 : m ≠ 0 ∧ a ≤ m ∧ m < a + (w :: ws).length := by simp; omega
        rw [if_pos hx, if_pos h2, h1, List.getD_cons_succ]
      · have h2 : ¬(m ≠ 0 ∧ a ≤ m ∧ m < a + (w :: ws).length) := by simp; omega
        have h3 : ¬(a ≠ 0 ∧ m = a) := fun k => e k.2
        rw [if_neg hx, if_neg h2, if_neg h3]

theorem Thread.setGroup_eq_setWords (t : Thread) (a n v : Nat) : t.setGroup a n v = t.setWords a (natToWords n v) := by
  induction n generalizing t a v with
  | zero => rfl
  | succ n ih => exact ih _ _ _

theorem natToWords_length (n v : Nat) : (natToWords n v).length = n := by
  induction n generalizing v with
  | zero => rfl
  | succ n ih => simp [natToWords, ih]

/-- A register that no other register of a group write names keeps its value, the bank notwithstanding. -/
theorem Thread.reg_congr {t u : Thread} (h1 : t.regs = u.regs) (h2 : t.shadow = u.shadow) (h3 : t.popen = u.popen) (n : Nat) :
    t.reg n = u.reg n := by simp only [Thread.reg, h1, h2, h3]

/-! ### Predicates (R19) -/

@[simp] theorem Thread.pred_zero (t : Thread) : t.pred 0 = true := rfl

theorem getLsbD_putBit {w : Nat} (m : BitVec w) (n k : Nat) (b : Bool) (h : n < w) :
    (putBit m n b).getLsbD k = if k = n then b else m.getLsbD k := by
  have h2 : (BitVec.ofNat w (2 ^ n)).getLsbD k = (decide (k < w) && decide (n = k)) := by
    rw [BitVec.getLsbD_ofNat, Nat.testBit_two_pow]
  unfold putBit
  cases b
  · simp only [Bool.false_eq_true, if_false, BitVec.getLsbD_and, BitVec.getLsbD_not, h2]
    by_cases e : k = n
    · subst e; simp [h]
    · have : ¬n = k := fun x => e x.symm
      by_cases hk : k < w
      · simp [e, this, hk]
      · simp [e, this, hk, BitVec.getLsbD_of_ge m k (by omega)]
  · simp only [if_true, BitVec.getLsbD_or, h2]
    by_cases e : k = n
    · subst e; simp [h]
    · have : ¬n = k := fun x => e x.symm
      simp [e, this]

/-- A write of a predicate reads back, p0 excepted, and every other predicate reads as before. -/
theorem Thread.pred_setPred (t : Thread) (n m : Nat) (v : Bool) (h : n < 8) :
    (t.setPred n v).pred m = if n ≠ 0 ∧ m = n then v else t.pred m := by
  unfold Thread.setPred Thread.pred
  by_cases h0 : n = 0
  · simp [h0]
  · by_cases e : m = n
    · subst e; simp [h0, getLsbD_putBit _ _ _ _ h]
    · simp [h0, e, getLsbD_putBit _ _ _ _ h]

/-! ### Flags (R84) -/

theorem Thread.raise_flags (t : Thread) (f : Flags) : (t.raise f).flags = t.flags ||| f := rfl

/-! ### The PC (R37) -/

/-- The first word of a chain moves the PC past it; a later word leaves where a transfer of control has set it. -/
@[simp] theorem Thread.advance_pc (t : Thread) (i : Issue) : (t.advance i).pc = if i.first then i.next else t.pc := rfl

/-- Marks bring no poisoning. -/
theorem Thread.markPoison_skids_nil (t : Thread) (rs : List Nat) (p : Bool) (h : t.skids = []) : (t.markPoison rs p).skids = [] := by
  unfold Thread.markPoison
  induction rs generalizing t with
  | nil => exact h
  | cons r rs ih =>
    refine ih (t.setPoison p r) ?_
    unfold Thread.setPoison
    split_ifs <;> simp [h]

/-- A thread without a poisoning has none after a word into which no poison enters. -/
theorem Thread.settle_skids_nil (t : Thread) (o : Opnds) (p : Bool) (own : List Nat) (h : t.skids = []) :
    (t.settle o p own none).skids = [] := by
  simp [Thread.settle, Thread.spread, Thread.retired, Thread.markPoison_skids_nil t _ p h]

end Sys2Proof.Machine
end

