-- ==== Sys2Proof/Laws/Words.lean ====
section
/-! SUPPORT. What one word does for each thread of a pack, said once: the thread for which it takes effect, every other
thread, and the rest of the state (R9, R39, R41, R70, R379, R381). The statements about the words that act in the thread
alone rest on these. -/

namespace Sys2Proof.Machine

/-! ### Lookups after updates -/

theorem find?_updWhere {α : Type} (key : α → Nat) (n m : Nat) (f : α → α) (hf : ∀ x, key (f x) = key x) (l : List α) :
    (updWhere (fun x => key x == n) f l).find? (fun x => key x == m)
      = (l.find? fun x => key x == m).map fun x => if m = n then f x else x := by
  induction l with
  | nil => rfl
  | cons x l ih =>
    simp only [updWhere, List.map_cons, List.find?_cons] at ih ⊢
    by_cases hx : key x = n
    · by_cases hm : key x = m
      · have e : m = n := by omega
        simp [hx, hf, e]
      · have h2 : ¬n = m := by omega
        simp only [hx, beq_self_eq_true, if_true, hf, beq_eq_false_iff_ne.2 h2]
        simpa using ih
    · by_cases hm : key x = m
      · have h2 : ¬m = n := by omega
        simp [hm, h2]
      · simp only [beq_eq_false_iff_ne.2 hx, Bool.false_eq_true, if_false, beq_eq_false_iff_ne.2 hm]
        simpa using ih

theorem State.group?_updGroup (s : State) (g h : Nat) (f : Group → Group) (hf : ∀ x, (f x).gid = x.gid) :
    (s.updGroup g f).group? h = (s.group? h).map fun x => if h = g then f x else x :=
  find?_updWhere Group.gid g h f hf s.groups

theorem Group.thread?_updThread (g : Group) (t u : Nat) (f : Thread → Thread) :
    (g.updThread t f).thread? u = (g.thread? u).map fun x => if u = t then { f x with tid := x.tid } else x :=
  find?_updWhere Thread.tid t u (fun x => { f x with tid := x.tid }) (fun _ => rfl) g.threads

/-- A thread after the update of a thread: the update for that one, nothing for every other. -/
theorem State.thread?_updThread (s : State) (g t h u : Nat) (f : Thread → Thread) :
    (s.updThread g t f).thread? h u
      = (s.thread? h u).map fun x => if h = g ∧ u = t then { f x with tid := x.tid } else x := by
  have hg : (s.updThread g t f).group? h = (s.group? h).map fun x => if h = g then x.updThread t f else x :=
    State.group?_updGroup s g h (fun x => x.updThread t f) fun _ => rfl
  simp only [State.thread?, hg]
  cases s.group? h with
  | none => rfl
  | some x =>
    by_cases e : h = g
    · simp only [Option.map_some, Option.bind_some, e, if_true, Group.thread?_updThread, true_and]
    · simp [e]

/-- The update of a thread changes a group in its threads alone. -/
theorem State.group?_updThread (s : State) (g t : Nat) (f : Thread → Thread) (h : Nat) (x : Group) (hx : s.group? h = some x) :
    ∃ th, (s.updThread g t f).group? h = some { x with threads := th } := by
  have hg : (s.updThread g t f).group? h = (s.group? h).map fun x => if h = g then x.updThread t f else x :=
    State.group?_updGroup s g h (fun x => x.updThread t f) fun _ => rfl
  rw [hg, hx]
  by_cases e : h = g
  · exact ⟨(x.updThread t f).threads, by simp [e, Group.updThread]⟩
  · exact ⟨x.threads, by simp [e]⟩

theorem State.group?_gid {s : State} {h : Nat} {g : Group} (hg : s.group? h = some g) : g.gid = h := by
  have := List.find?_some hg
  simpa using this

theorem Group.thread?_tid {g : Group} {u : Nat} {t : Thread} (ht : g.thread? u = some t) : t.tid = u := by
  have := List.find?_some ht
  simpa using this

theorem State.thread?_tid {s : State} {h u : Nat} {t : Thread} (ht : s.thread? h u = some t) : t.tid = u := by
  simp only [State.thread?, Option.bind_eq_some_iff] at ht
  obtain ⟨g, -, hg⟩ := ht
  exact Group.thread?_tid hg

/-! ### Lanes -/

theorem State.lane?_some {s : State} {tid : Nat} {l : Lane} (h : s.lane? tid = some l) :
    s.thread? s.issue.gid tid = some l.cur ∧ l.g.gid = s.issue.gid ∧ l.cur.tid = tid := by
  simp only [State.lane?, Option.bind_eq_some_iff, Option.map_eq_some_iff] at h
  obtain ⟨g, hg, t, ht, rfl⟩ := h
  refine ⟨?_, by have k := State.group?_gid hg; cases s.issue.usnap <;> exact k, Group.thread?_tid ht⟩
  simp only [State.thread?, hg, Option.bind_some, ht]

/-- Lanes look up the thread, what the chain began with, and the group's uniform registers. -/
theorem State.lane?_congr {s t : State} {tid : Nat} {l : Lane} (h : s.lane? tid = some l) (hi : t.issue.gid = s.issue.gid)
    (hu : t.issue.usnap = s.issue.usnap) (hs : t.issue.snap = s.issue.snap)
    (ht : t.thread? s.issue.gid tid = s.thread? s.issue.gid tid)
    (hg : ∀ g, s.group? s.issue.gid = some g → ∃ th, t.group? s.issue.gid = some { g with threads := th }) :
    ∃ th, t.lane? tid = some { l with g := { l.g with threads := th } } := by
  simp only [State.lane?, Option.bind_eq_some_iff, Option.map_eq_some_iff] at h
  obtain ⟨g, hgs, x, hx, rfl⟩ := h
  obtain ⟨th, hgt⟩ := hg g hgs
  refine ⟨th, ?_⟩
  have hx2 : s.thread? s.issue.gid tid = some x := by simp only [State.thread?, hgs, Option.bind_some, hx]
  rw [hx2] at ht
  simp only [State.thread?, hgt, Option.bind_some] at ht
  simp only [State.lane?, hi, hu, hs, hgt, Option.bind_some, ht, Option.map_some]
  cases s.issue.usnap <;> rfl

/-! ### Taking a trap (R379) -/

/-- The thread that takes a trap is parked where its PC stands, and no other thread changes. -/
theorem State.thread?_takeTrap (s : State) (g t k c : Nat) (a : Word) (va : DWord) (h u : Nat) :
    (s.takeTrap g t k c a va).thread? h u = (s.thread? h u).map fun x =>
      if h = g ∧ u = t then
        { x with st := .parked .trap, waitSince := s.cycle, pseq := s.nextId, skids := if k = 7 then x.takeSkid else x.skids
                 trapAt := some (k, if k = 8 then 0 else c, a) }
      else x := by
  unfold State.takeTrap
  cases hg : s.group? g with
  | none =>
    by_cases e : h = g ∧ u = t
    · obtain ⟨rfl, rfl⟩ := e
      simp [State.thread?, hg]
    · simp [e]
  | some gr =>
    dsimp only
    cases ht : gr.thread? t with
    | none =>
      dsimp only
      by_cases e : h = g ∧ u = t
      · obtain ⟨rfl, rfl⟩ := e
        simp [State.thread?, hg, ht]
      · simp [e]
    | some x =>
      simp only []
      have key := State.thread?_updThread s g t h u fun t =>
        { t with
          st := .parked .trap, waitSince := s.cycle, pseq := s.nextId, skids := if k = 7 then t.takeSkid else t.skids
          trapAt := some (k, if k = 8 then 0 else c, a) }
      split <;> exact key

theorem State.takeTrap_issue (s : State) (g t k c : Nat) (a : Word) (va : DWord) : (s.takeTrap g t k c a va).issue = s.issue := by
  unfold State.takeTrap
  split
  · rfl
  · split
    · rfl
    · simp only []; split <;> rfl

/-- The group of a thread that takes a trap changes in its threads alone, and every other group not at all. -/
theorem State.group?_takeTrap (s : State) (g t k c : Nat) (a : Word) (va : DWord) (h : Nat) (x : Group) (hx : s.group? h = some x) :
    ∃ th, (s.takeTrap g t k c a va).group? h = some { x with threads := th } := by
  unfold State.takeTrap
  split
  · exact ⟨_, hx⟩
  · split
    · exact ⟨_, hx⟩
    · dsimp only
      split
      · exact State.group?_updThread s g t _ h x hx
      · exact State.group?_updThread s g t _ h x hx

theorem State.sameButThreads_refl (s : State) : s.sameButThreads s := rfl

theorem State.sameButThreads_trans {s t u : State} (h1 : s.sameButThreads t) (h2 : t.sameButThreads u) : s.sameButThreads u := by
  unfold State.sameButThreads at *
  rw [← h1, ← h2]

theorem State.sameButThreads.contexts {s t : State} (h : s.sameButThreads t) : t.contexts = s.contexts := by
  unfold State.sameButThreads at h
  have h2 := congrArg State.contexts h
  exact h2

theorem State.takeTrap_same (s : State) (g t k c : Nat) (a : Word) (va : DWord) : s.sameButThreads (s.takeTrap g t k c a va) := by
  unfold State.takeTrap
  split
  · rfl
  · split
    · rfl
    · simp only []; split <;> rfl

theorem State.updThread_same (s : State) (g t : Nat) (f : Thread → Thread) : s.sameButThreads (s.updThread g t f) := rfl

/-! ### The arithmetic trap (R381) -/

/-- The trap at a chain's end changes of its thread only what a trap changes, and no other thread. -/
theorem State.thread?_arithTrap (s : State) (g t h u : Nat) :
    ∃ f : Thread → Thread, (s.arithTrap g t).thread? h u = (s.thread? h u).map f
      ∧ (∀ x, (f x).sansTrap = x.sansTrap) ∧ (¬(h = g ∧ u = t) → f = id) := by
  unfold State.arithTrap
  split
  · split
    · refine ⟨_, State.thread?_takeTrap _ _ _ _ _ _ _ _ _, fun x => ?_, fun e => by simp [e]; rfl⟩
      by_cases e : h = g ∧ u = t <;> simp [e, Thread.sansTrap]
    · exact ⟨id, by simp, fun _ => rfl, fun _ => rfl⟩
  · exact ⟨id, by simp, fun _ => rfl, fun _ => rfl⟩

/-- A thread that raised no flag that its context traps on takes no trap at the end of its chain. -/
theorem State.arithTrap_none {s : State} {g t : Nat} {gr : Group} {x : Thread} (hg : s.group? g = some gr)
    (hx : s.thread? g t = some x) (hr : x.raised &&& s.trapen gr.asid = 0) : s.arithTrap g t = s := by
  simp [State.arithTrap, hg, hx, hr]

theorem State.arithTrap_same (s : State) (g t : Nat) : s.sameButThreads (s.arithTrap g t) := by
  unfold State.arithTrap
  split
  · split
    · exact State.takeTrap_same _ _ _ _ _ _ _
    · rfl
  · rfl

theorem State.arithTrap_same_of {s t : State} (h : s.sameButThreads t) (g u : Nat) : s.sameButThreads (t.arithTrap g u) :=
  State.sameButThreads_trans h (State.arithTrap_same t g u)

theorem State.arithTrap_issue (s : State) (g t : Nat) : (s.arithTrap g t).issue = s.issue := by
  unfold State.arithTrap
  split
  · split
    · exact State.takeTrap_issue _ _ _ _ _ _ _
    · rfl
  · rfl

theorem State.group?_arithTrap (s : State) (g t h : Nat) (x : Group) (hx : s.group? h = some x) :
    ∃ th, (s.arithTrap g t).group? h = some { x with threads := th } := by
  unfold State.arithTrap
  split
  · split
    · exact State.group?_takeTrap _ _ _ _ _ _ _ _ _ hx
    · exact ⟨_, hx⟩
  · exact ⟨_, hx⟩

/-! ### One lane -/

/-- A stop that concerns the thread alone: a trap, or a wait until the next event. -/
def Stop.isOwn : Stop → Bool
  | .trap _ _ _ => true
  | .hold => true
  | _ => false

/-- The uniform registers that a stop marks poisoned (R385). -/
def Stop.uregs : Stop → List Nat
  | .parity _ _ us => us
  | _ => []

/-- No uniform register that a word reads holds a parity error. -/
def usrcClean (i : Instr) (g : Group) : Prop := ((regsOf (opnds i).usrc).filter fun n => n != 0 && g.uparity.getLsbD n) = []

/-- `usrcClean` of the issuing group. -/
def State.cleanFor (s : State) (i : Instr) : Prop := ∀ g, s.group? s.issue.gid = some g → usrcClean i g

/-- What holds of a state after a word has acted or stopped for thread `u` of the issuing pack: where `q` holds, its group changes in
its threads alone. -/
structure LaneFrame (q : Prop) (s t : State) (u : Nat) : Prop where
  same : s.sameButThreads t
  issue : t.issue = { s.issue with stops := t.issue.stops }
  group : q → ∀ h x, s.group? h = some x → ∃ th, t.group? h = some { x with threads := th }
  thread : ∀ h v, ¬(h = s.issue.gid ∧ v = u) → t.thread? h v = s.thread? h v

theorem LaneFrame.refl (q : Prop) (s : State) (u : Nat) : LaneFrame q s s u :=
  ⟨rfl, rfl, fun _ _ x hx => ⟨x.threads, hx⟩, fun _ _ _ => rfl⟩

theorem LaneFrame.mono {p q : Prop} {s t : State} {u : Nat} (h : LaneFrame p s t u) (k : q → p) : LaneFrame q s t u :=
  ⟨h.same, h.issue, fun x => h.group (k x), h.thread⟩

/-- A check before a word stops its thread by a trap, a wait, or the parity errors of its sources. -/
theorem precheck_stop {i : Instr} {l : Lane} {st : Stop} (h : precheck i l = some st) :
    (st.isOwn = true ∨ ∃ rs ps us, st = .parity rs ps us) ∧ (usrcClean i l.g → st.uregs = []) := by
  unfold precheck at h
  simp only [] at h
  split at h
  · cases h; exact ⟨.inl rfl, fun _ => rfl⟩
  · split at h
    · cases h; exact ⟨.inl rfl, fun _ => rfl⟩
    · unfold Lane.parityStop at h
      simp only [] at h
      split at h
      · cases h
      · cases h; exact ⟨.inr ⟨_, _, _, rfl⟩, id⟩

/-- A word that no check stops reads no uniform register with a parity error. -/
theorem precheck_clean {i : Instr} {l : Lane} (h : precheck i l = none) : usrcClean i l.g := by
  unfold precheck at h
  simp only [] at h
  split at h
  · cases h
  · split at h
    · cases h
    · unfold Lane.parityStop at h
      simp only [] at h
      split at h
      · rename_i hz
        simp only [Bool.and_eq_true, List.isEmpty_iff] at hz
        exact hz.2
      · cases h

/-- The group of a lane has the uniform registers' parity errors of its group in the state. -/
theorem State.lane?_clean {s : State} {i : Instr} {tid : Nat} {l : Lane} (h : s.lane? tid = some l) : s.cleanFor i ↔ usrcClean i l.g := by
  simp only [State.lane?, Option.bind_eq_some_iff, Option.map_eq_some_iff] at h
  obtain ⟨g, hg, t, -, rfl⟩ := h
  unfold State.cleanFor
  rw [hg]
  cases s.issue.usnap <;> exact ⟨fun k => k g rfl, fun k _ e => Option.some.inj e ▸ k⟩

theorem updWhere_id {α : Type} (p : α → Bool) (f : α → α) (hf : ∀ x, f x = x) (l : List α) : updWhere p f l = l := by
  simp [updWhere, hf]

/-- The marking of a group's uniform registers changes no thread, and nothing at all where there are none to mark. -/
theorem State.group?_marked (s : State) (g h : Nat) (us : List Nat) (f : Group → Group)
    (hf : f = fun g =>
      { g with utaken := g.utaken ||| maskOf 64 us, upoison := g.upoison ||| maskOf 64 us, uparity := g.uparity &&& ~~~(maskOf 64 us) }) :
    (∀ v, (s.updGroup g f).thread? h v = s.thread? h v) ∧ (us = [] → (s.updGroup g f).group? h = s.group? h) := by
  refine ⟨fun v => ?_, fun e => ?_⟩
  · simp only [State.thread?]
    rw [State.group?_updGroup s g h f fun x => by rw [hf]]
    cases s.group? h with
    | none => rfl
    | some x => by_cases e : h = g <;> simp [e, hf, Group.thread?]
  · have hid : ∀ x, f x = x := fun x => by
      subst e; rw [hf]
      show { x with utaken := x.utaken ||| 0#64, upoison := x.upoison ||| 0#64, uparity := x.uparity &&& ~~~0#64 } = x
      rw [BitVec.or_zero, BitVec.or_zero, show ~~~0#64 = BitVec.allOnes 64 from rfl, BitVec.and_allOnes]
    show List.find? _ (updWhere _ f s.groups) = _
    rw [updWhere_id _ f hid]
    rfl

theorem State.stopLane_frame (s : State) (u : Nat) {st : Stop} (h : st.isOwn = true ∨ ∃ rs ps us, st = .parity rs ps us) :
    LaneFrame (st.uregs = []) s (s.stopLane u st) u := by
  have base : ∀ (t : State), t = { s with issue := { s.issue with stops := t.issue.stops } } →
      LaneFrame (st.uregs = []) s (t.applyStop t.issue.gid u st) u := by
    intro t ht
    have hi : t.issue = { s.issue with stops := t.issue.stops } := by conv_lhs => rw [ht]
    have hgid : t.issue.gid = s.issue.gid := by rw [hi]
    have hs : s.sameButThreads t := by unfold State.sameButThreads; rw [ht]
    have hgr : ∀ h, t.group? h = s.group? h := fun h => by rw [ht]; rfl
    have hth : ∀ h v, t.thread? h v = s.thread? h v := fun h v => by rw [ht]; rfl
    cases st with
    | trap k c a =>
      refine ⟨State.sameButThreads_trans hs (State.takeTrap_same ..), ?_, fun _ h x hx => ?_, fun h v hv => ?_⟩
      · show (t.takeTrap t.issue.gid u k c a).issue = { s.issue with stops := (t.takeTrap t.issue.gid u k c a).issue.stops }
        rw [State.takeTrap_issue]; exact hi
      · exact State.group?_takeTrap _ _ _ _ _ _ _ _ _ ((hgr h).trans hx)
      · show (t.takeTrap t.issue.gid u k c a).thread? h v = _
        rw [State.thread?_takeTrap, hth, hgid]
        simp [hv]
    | hold =>
      refine ⟨State.sameButThreads_trans hs (State.updThread_same ..), hi, fun _ h x hx => ?_, fun h v hv => ?_⟩
      · exact State.group?_updThread _ _ _ _ _ _ ((hgr h).trans hx)
      · show (t.updThread t.issue.gid u _).thread? h v = _
        rw [State.thread?_updThread, hth, hgid]
        simp [hv]
    | parity rs ps us =>
      unfold State.applyStop
      dsimp only
      refine ⟨State.sameButThreads_trans hs (State.sameButThreads_trans (by rfl) (State.takeTrap_same ..)), ?_, fun e h x hx => ?_, fun h v hv => ?_⟩
      · rw [State.takeTrap_issue]; exact hi
      · generalize hz : (fun t : Thread => _ : Thread → Thread) = mark
        obtain ⟨th, h1⟩ := State.group?_updThread t t.issue.gid u mark h x ((hgr h).trans hx)
        have h2 := ((State.group?_marked (t.updThread t.issue.gid u mark) t.issue.gid h us _ rfl).2 e).trans h1
        obtain ⟨th2, h3⟩ := State.group?_takeTrap _ t.issue.gid u 7 0 0 0 h _ h2
        exact ⟨th2, h3⟩
      · rw [State.thread?_takeTrap, (State.group?_marked _ t.issue.gid h us _ rfl).1, State.thread?_updThread, hth, hgid]
        simp [hv]
    | _ => simp [Stop.isOwn] at h
  unfold State.stopLane
  simp only []
  split
  · exact base _ rfl
  · exact ⟨rfl, rfl, fun _ _ x hx => ⟨x.threads, hx⟩, fun _ _ _ => rfl⟩

theorem Stop.uregs_of_isOwn {st : Stop} (h : st.isOwn = true) : st.uregs = [] := by cases st <;> first | rfl | cases h

/-- The effect of a word that acts in the thread alone. -/
def ownEffect (f : Lane → Except Stop (Thread → Thread)) (l : Lane) (s : State) : Except Stop State :=
  match f l with
  | .error st => .error st
  | .ok h => .ok (s.updLane l h)

theorem runRegs_eq (i : Instr) (f : Lane → Except Stop (Thread → Thread)) : runRegs i f = runWord i (ownEffect f) := rfl

theorem runPure_eq (i : Instr) (f : Lane → Thread → Thread) : runPure i f = runRegs i fun l => .ok (f l) := rfl

theorem Thread.tid_eta (t : Thread) (n : Nat) (h : t.tid = n) : ({ t with tid := n } : Thread) = t := by subst h; rfl

theorem thread?_advanced (s : State) (u : Nat) (l : Lane) (hl : s.lane? u = some l) (h : Thread → Thread) (n : Issue) (i : Instr) :
    (((s.updThread s.issue.gid u fun t => t.advance n).updLane l h).updThread s.issue.gid u (l.after i s)).thread? s.issue.gid u
      = some (l.after i s { h (l.cur.advance n) with tid := l.cur.tid }) := by
  obtain ⟨hc, hg, ht⟩ := State.lane?_some hl
  have upd : ∀ (z : State) (k : Thread → Thread) (x : Thread), z.thread? s.issue.gid u = some x →
      (z.updThread s.issue.gid u k).thread? s.issue.gid u = some { k x with tid := u } := by
    intro z k x hz
    rw [State.thread?_updThread, hz, Option.map_some, if_pos ⟨rfl, rfl⟩, State.thread?_tid hz]
  unfold State.updLane
  rw [hg, ht]
  have h1 := upd s (fun t => t.advance n) l.cur hc
  rw [Thread.tid_eta (l.cur.advance n) u ht] at h1
  have h2 := upd _ h _ h1
  have h3 := upd _ (l.after i s) _ h2
  rw [h3]
  exact congrArg some (Thread.tid_eta (l.after i s _) u (Thread.settle_keeps ..).1)

/-- A word that acts in the thread alone, for the thread of its lane: the outcome, but for what a trap at the chain's
end changes, and exactly the outcome where no flag that the context traps on was raised (R381). -/
theorem runLane_own {i : Instr} {f : Lane → Except Stop (Thread → Thread)} {s : State} {u : Nat} {l : Lane} {h : Thread → Thread}
    (hl : s.lane? u = some l) (hp : precheck i l = none) (hf : f l = .ok h) :
    ∃ x, (runLane i (ownEffect f) s u).thread? s.issue.gid u = some x ∧ x.sansTrap = (l.outcome i s h).sansTrap
      ∧ ((l.outcome i s h).raised &&& s.trapen l.g.asid = 0 → x = l.outcome i s h) := by
  have ht := thread?_advanced s u l hl h s.issue i
  simp only [runLane, hl, hp, ownEffect, hf]
  obtain ⟨k, hk, hs, -⟩ := State.thread?_arithTrap
    (((s.updThread s.issue.gid u fun t => t.advance s.issue).updLane l h).updThread s.issue.gid u
      (l.after i s)) s.issue.gid u s.issue.gid u
  refine ⟨k (l.outcome i s h), by rw [hk, ht]; rfl, hs _, fun hr => ?_⟩
  obtain ⟨hc, hg, -⟩ := State.lane?_some hl
  have hgr : ∃ g, s.group? s.issue.gid = some g ∧ g.asid = l.g.asid := by
    simp only [State.lane?, Option.bind_eq_some_iff, Option.map_eq_some_iff] at hl
    obtain ⟨g, hgg, t, -, rfl⟩ := hl
    exact ⟨g, hgg, by cases s.issue.usnap <;> rfl⟩
  obtain ⟨g, hg0, ha⟩ := hgr
  obtain ⟨t1, h1⟩ := State.group?_updThread s s.issue.gid u (fun t => t.advance s.issue) s.issue.gid g hg0
  obtain ⟨t2, h2⟩ := State.group?_updThread _ l.g.gid l.cur.tid h s.issue.gid _ h1
  obtain ⟨t3, h3⟩ := State.group?_updThread _ s.issue.gid u
    (l.after i s) s.issue.gid _ h2
  have hn := State.arithTrap_none h3 ht (by rw [← ha] at hr; exact hr)
  have : some (k (l.outcome i s h)) = some (l.outcome i s h) := by
    rw [← Option.map_some, ← show _ = some (l.outcome i s h) from ht, ← hk]
    exact congrArg (fun z : State => z.thread? s.issue.gid u) hn
  exact Option.some.inj this

/-- A word that acts in the thread alone leaves every other thread and the rest of the state as it was. -/
theorem runLane_frame {i : Instr} {f : Lane → Except Stop (Thread → Thread)} (hf : ∀ l st, f l = .error st → st.isOwn = true)
    (s : State) (u : Nat) : LaneFrame (s.cleanFor i) s (runLane i (ownEffect f) s u) u := by
  unfold runLane
  split
  · exact LaneFrame.refl _ s u
  · rename_i l hl
    obtain ⟨-, hg, ht⟩ := State.lane?_some hl
    split
    · rename_i st hst
      exact (State.stopLane_frame s u (precheck_stop hst).1).mono fun k => (precheck_stop hst).2 ((State.lane?_clean hl).1 k)
    · cases hx : f l with
      | error st =>
        simp only [ownEffect, hx]
        exact (State.stopLane_frame s u (.inl (hf l st hx))).mono fun _ => Stop.uregs_of_isOwn (hf l st hx)
      | ok h =>
        simp only [ownEffect, hx]
        refine ⟨State.arithTrap_same_of (by rfl) _ _, ?_, fun _ g x hgx => ?_, fun g v hv => ?_⟩
        · rw [State.arithTrap_issue]; rfl
        · obtain ⟨t1, h1⟩ := State.group?_updThread s s.issue.gid u (fun t => t.advance s.issue) g x hgx
          obtain ⟨t2, h2⟩ := State.group?_updThread _ l.g.gid l.cur.tid h g _ h1
          obtain ⟨t3, h3⟩ := State.group?_updThread _ s.issue.gid u
            (l.after i s) g _ h2
          obtain ⟨b, hb⟩ := State.group?_arithTrap _ s.issue.gid u _ _ h3
          exact ⟨b, hb⟩
        · obtain ⟨k, hk, -, hid⟩ := State.thread?_arithTrap
            (((s.updThread s.issue.gid u fun t => t.advance s.issue).updLane l h).updThread s.issue.gid u
              (l.after i s)) s.issue.gid u g v
          rw [hk, hid hv]
          unfold State.updLane
          rw [hg, ht]
          simp [State.thread?_updThread, hv]

/-! ### The pack -/

/-- What holds of a state after a word has acted or stopped for the threads `us` of the issuing pack. -/
structure PackFrame (q : Prop) (s t : State) (us : List Nat) : Prop where
  same : s.sameButThreads t
  issue : t.issue = { s.issue with stops := t.issue.stops }
  group : q → ∀ h x, s.group? h = some x → ∃ th, t.group? h = some { x with threads := th }
  thread : ∀ h v, ¬(h = s.issue.gid ∧ v ∈ us) → t.thread? h v = s.thread? h v

theorem foldl_frame {i : Instr} {f : Lane → Except Stop (Thread → Thread)} (hf : ∀ l st, f l = .error st → st.isOwn = true)
    (us : List Nat) (s : State) : PackFrame (s.cleanFor i) s (us.foldl (runLane i (ownEffect f)) s) us := by
  induction us generalizing s with
  | nil => exact ⟨rfl, rfl, fun _ _ x hx => ⟨x.threads, hx⟩, fun _ _ _ => rfl⟩
  | cons u us ih =>
    have h1 := runLane_frame (i := i) hf s u
    have h2 := ih (runLane i (ownEffect f) s u)
    have hg : (runLane i (ownEffect f) s u).issue.gid = s.issue.gid := by rw [h1.issue]
    have hc : s.cleanFor i → (runLane i (ownEffect f) s u).cleanFor i := fun c g hgs => by
      rw [hg] at hgs
      cases hz : s.group? s.issue.gid with
      | none =>
        have : runLane i (ownEffect f) s u = s := by simp [runLane, State.lane?, hz]
        rw [this, hz] at hgs; cases hgs
      | some x =>
        obtain ⟨th, ht⟩ := h1.group c _ x hz
        rw [ht] at hgs
        cases hgs
        exact c x hz
    refine ⟨State.sameButThreads_trans h1.same h2.same, ?_, fun c h x hx => ?_, fun h v hv => ?_⟩
    · show _ = _
      rw [List.foldl_cons, h2.issue, h1.issue]
    · obtain ⟨a, ha⟩ := h1.group c h x hx
      obtain ⟨b, hb⟩ := h2.group (hc c) h _ ha
      exact ⟨b, hb⟩
    · rw [List.foldl_cons, h2.thread h v (by rw [hg]; exact fun e => hv ⟨e.1, List.mem_cons_of_mem u e.2⟩),
        h1.thread h v fun e => hv ⟨e.1, by rw [e.2]; exact List.mem_cons_self⟩]

/-- A word that acts in the thread alone, over the whole pack: every thread for which it takes effect has the outcome of
its own lane, whatever the other threads of the pack do. -/
theorem runRegs_thread {i : Instr} {f : Lane → Except Stop (Thread → Thread)} (hf : ∀ l st, f l = .error st → st.isOwn = true)
    (hg : ∀ l th, f { l with g := { l.g with threads := th } } = f l) {s : State} {u : Nat} {l : Lane} {h : Thread → Thread}
    (hu : u ∈ s.issue.tids) (hn : s.issue.tids.Nodup) (hl : s.lane? u = some l) (hp : precheck i l = none) (hx : f l = .ok h) :
    ∃ t x, runRegs i f s = .next t ∧ t.thread? s.issue.gid u = some x ∧ x.sansTrap = (l.outcome i s h).sansTrap
      ∧ ((l.outcome i s h).raised &&& s.trapen l.g.asid = 0 → x = l.outcome i s h) := by
  suffices ∀ (us : List Nat) (s : State) (l : Lane), u ∈ us → us.Nodup → s.lane? u = some l → precheck i l = none → f l = .ok h →
      ∃ x, (us.foldl (runLane i (ownEffect f)) s).thread? s.issue.gid u = some x ∧ x.sansTrap = (l.outcome i s h).sansTrap
        ∧ ((l.outcome i s h).raised &&& s.trapen l.g.asid = 0 → x = l.outcome i s h) by
    obtain ⟨x, h1, h2, h3⟩ := this s.issue.tids s l hu hn hl hp hx
    exact ⟨_, x, rfl, h1, h2, h3⟩
  intro us
  induction us with
  | nil => intro _ _ h; cases h
  | cons v us ih =>
    intro s l hu hn hl hp hx
    have h1 := runLane_frame (i := i) hf s v
    have hgid : (runLane i (ownEffect f) s v).issue.gid = s.issue.gid := by rw [h1.issue]
    rw [List.nodup_cons] at hn
    rw [List.foldl_cons]
    by_cases e : u = v
    · subst e
      obtain ⟨x, ha, hb, hc⟩ := runLane_own hl hp hx
      have h2 := foldl_frame (i := i) hf us (runLane i (ownEffect f) s u)
      exact ⟨x, by rw [h2.thread _ _ fun k => hn.1 k.2, ha], hb, hc⟩
    · have hu' : u ∈ us := by
        rcases List.mem_cons.1 hu with h | h
        · exact absurd h e
        · exact h
      obtain ⟨th, hl'⟩ := State.lane?_congr hl hgid (by rw [h1.issue]) (by rw [h1.issue]) (h1.thread _ _ fun k => e k.2) (fun g hg => h1.group ((State.lane?_clean hl).2 (precheck_clean hp)) _ g hg)
      have hsame : (runLane i (ownEffect f) s v).trapen = s.trapen := by
        funext a; simp only [State.trapen, State.ctx?, h1.same.contexts]
      have ho : Lane.outcome { l with g := { l.g with threads := th } } i (runLane i (ownEffect f) s v) h = l.outcome i s h := by
        have e3 : (runLane i (ownEffect f) s v).issue.slot = s.issue.slot := by rw [h1.issue]
        have e4 : l.cur.advance (runLane i (ownEffect f) s v).issue = l.cur.advance s.issue := by rw [h1.issue]; rfl
        have e5 : (runLane i (ownEffect f) s v).issue.dropD = s.issue.dropD := by rw [h1.issue]
        unfold Lane.outcome Lane.after Lane.grantPoison
        rw [e3, e5]
        simp only [e4]
        rfl
      obtain ⟨x, ha, hb, hc⟩ := ih (runLane i (ownEffect f) s v) _ hu' hn.2 hl' hp ((hg l th).trans hx)
      rw [ho] at hb hc
      rw [hgid] at ha
      rw [hsame] at hc
      exact ⟨x, ha, hb, hc⟩

/-- A word that acts in the thread alone leaves the rest of the state, and every thread outside the pack, as it was. -/
theorem runRegs_frame {i : Instr} {f : Lane → Except Stop (Thread → Thread)} (hf : ∀ l st, f l = .error st → st.isOwn = true)
    {s t : State} (h : runRegs i f s = .next t) :
    s.sameButThreads t ∧ ∀ g v, ¬(g = s.issue.gid ∧ v ∈ s.issue.tids) → t.thread? g v = s.thread? g v := by
  have hp := foldl_frame (i := i) hf s.issue.tids s
  cases h
  exact ⟨hp.same, hp.thread⟩

/-- `runRegs_thread` for a word that always takes effect. -/
theorem runPure_thread {i : Instr} {f : Lane → Thread → Thread} (hg : ∀ l th, f { l with g := { l.g with threads := th } } = f l)
    {s : State} {u : Nat} {l : Lane} (hu : u ∈ s.issue.tids) (hn : s.issue.tids.Nodup) (hl : s.lane? u = some l)
    (hp : precheck i l = none) :
    ∃ t x, runPure i f s = .next t ∧ t.thread? s.issue.gid u = some x ∧ x.sansTrap = (l.outcome i s (f l)).sansTrap
      ∧ ((l.outcome i s (f l)).raised &&& s.trapen l.g.asid = 0 → x = l.outcome i s (f l)) :=
  runRegs_thread (f := fun l => .ok (f l)) (fun _ _ h => by cases h) (fun l th => congrArg Except.ok (hg l th)) hu hn hl hp rfl

/-- `runRegs_frame` for a word that always takes effect. -/
theorem runPure_frame {i : Instr} {f : Lane → Thread → Thread} {s t : State} (h : runPure i f s = .next t) :
    s.sameButThreads t ∧ ∀ g v, ¬(g = s.issue.gid ∧ v ∈ s.issue.tids) → t.thread? g v = s.thread? g v :=
  runRegs_frame (f := fun l => .ok (f l)) (fun _ _ h => by cases h) h

/-! ### One thread alone -/

/-- A word that one thread issues and that takes effect: the next state is the effect, and what follows every word. -/
theorem runWord_one {i : Instr} {f : Lane → State → Except Stop State} {s : State} {l : Lane} {t : State} (h : Issues i l s)
    (hf : f l (s.advanced l) = .ok t) : runWord i f s = .next (t.settled i l s) := by
  obtain ⟨h1, h2, h3⟩ := h
  unfold State.advanced at hf
  simp only [runWord, h1, List.foldl_cons, List.foldl_nil, runLane, h2, h3, hf, State.settled]

/-- A word that one thread issues and that stops: the next state is the stop's. -/
theorem runWord_one_stop {i : Instr} {f : Lane → State → Except Stop State} {s : State} {l : Lane} {st : Stop} (h : Issues i l s)
    (hf : f l (s.advanced l) = .error st) : runWord i f s = .next (s.stopLane l.cur.tid st) := by
  obtain ⟨h1, h2, h3⟩ := h
  unfold State.advanced at hf
  simp only [runWord, h1, List.foldl_cons, List.foldl_nil, runLane, h2, h3, hf]

/-- What `settled` leaves: everything but the threads, what the trap runtime holds and the next identifier. -/
theorem State.settled_same (t : State) (i : Instr) (l : Lane) (s : State) : t.sameButThreads (t.settled i l s) :=
  State.arithTrap_same_of (by rfl) _ _

/-- Equal copies and memory read alike. -/
theorem State.sameButThreads.physByte {s t : State} (h : s.sameButThreads t) (a : Nat) : t.physByte a = s.physByte a := by
  unfold State.sameButThreads at h
  have h1 := congrArg State.mem h
  have h2 := congrArg State.lines h
  have h3 := congrArg State.net h
  have h4 := congrArg State.dirs h
  dsimp only at h1 h2 h3 h4
  simp only [State.physByte, State.heldLine, h1, h2, h3, h4]

/-- A word whose meaning is `runPure` computes its effect, for every thread of the pack. -/
theorem computes_of_runPure {i : Instr} {f : Lane → Thread → Thread} (he : exec i = runPure i f)
    (hg : ∀ l th, f { l with g := { l.g with threads := th } } = f l) : Computes i f := by
  intro s tid l hu hn hl hp
  obtain ⟨t, x, h1, h2, h3, h4⟩ := runPure_thread hg hu hn hl hp
  have hf := runPure_frame h1
  exact ⟨t, x, he ▸ h1, h2, h3, h4, hf.1, hf.1.physByte, hf.2⟩

end Sys2Proof.Machine
end

