-- ==== Sys2Proof/Laws/Keeps.lean ====
section
/-! SUPPORT. Which shared operations leave the cells of both memories as they are, and that those which write them keep
the canonical form (log 2): the fact that every step keeps it rests on these. -/

namespace Sys2Proof.Machine

/-- Two states hold the same cells in device and in host memory. -/
def State.sameCells (s t : State) : Prop := t.mem = s.mem ∧ t.hostMem = s.hostMem

theorem State.sameCells.memWf {s t : State} (h : s.sameCells t) (hs : s.memWf) : t.memWf := by
  rw [State.memWf, h.1, h.2]; exact hs

theorem State.sameCells_refl (s : State) : s.sameCells s := ⟨rfl, rfl⟩

theorem State.sameCells.trans {s t u : State} (h : s.sameCells t) (k : t.sameCells u) : s.sameCells u :=
  ⟨k.1.trans h.1, k.2.trans h.2⟩

theorem foldl_sameCells {α : Type} {f : State → α → State} (h : ∀ (s : State) (x : α), s.sameCells (f s x)) (l : List α) (s : State) :
    s.sameCells (l.foldl f s) := by
  induction l generalizing s with
  | nil => exact s.sameCells_refl
  | cons x xs ih => exact (h s x).trans (ih (f s x))

theorem foldl_memWf {α : Type} {f : State → α → State} (h : ∀ (s : State) (x : α), s.memWf → (f s x).memWf) (l : List α) {s : State} (hs : s.memWf) :
    (l.foldl f s).memWf := by
  induction l generalizing s with
  | nil => exact hs
  | cons x xs ih => exact ih (h s x hs)

/-! ### Threads, traps and waits -/

theorem State.sameButThreads.sameCells {s t : State} (h : s.sameButThreads t) : s.sameCells t := by
  unfold State.sameButThreads at h
  rw [← h]; exact ⟨rfl, rfl⟩

theorem State.deliver_sameCells (s : State) (g t d : Nat) (ws : List Word) (p : Option DWord) : s.sameCells (s.deliver g t d ws p) := ⟨rfl, rfl⟩

theorem State.takeTrap_sameCells (s : State) (g t k c : Nat) (a : Word) (va : DWord) : s.sameCells (s.takeTrap g t k c a va) :=
  (State.takeTrap_same s g t k c a va).sameCells

theorem State.resumeThread_sameCells (s : State) (g t : Nat) (pc : PC) : s.sameCells (s.resumeThread g t pc) := ⟨rfl, rfl⟩

theorem State.queueCmdDone_sameCells (s : State) (q n : Nat) : s.sameCells (s.queueCmdDone q n) := by
  unfold State.queueCmdDone; dsimp only; split <;> exact ⟨rfl, rfl⟩

theorem State.wakeMonitor_sameCells (s : State) (m : Monitor) (st : Nat) : s.sameCells (s.wakeMonitor m st) := by
  unfold State.wakeMonitor
  dsimp only
  split
  · split
    · split <;> exact ⟨rfl, rfl⟩
    · exact ⟨rfl, rfl⟩
  · split
    · split
      · exact State.queueCmdDone_sameCells _ _ _
      · exact ⟨rfl, rfl⟩
    · exact ⟨rfl, rfl⟩
  · exact ⟨rfl, rfl⟩

theorem State.evalMonitors_sameCells (s : State) (l : Nat) : s.sameCells (s.evalMonitors l) :=
  foldl_sameCells (fun s m => by split; exacts [s.wakeMonitor_sameCells m 0, s.sameCells_refl]) _ s

theorem State.settleConverge_sameCells (s : State) (g : Group) : s.sameCells (s.settleConverge g) := by
  unfold State.settleConverge
  refine foldl_sameCells (fun s r => ?_) _ s
  exact ⟨rfl, rfl⟩

theorem State.settleBarG_sameCells (s : State) (g : Group) : s.sameCells (s.settleBarG g) := by
  unfold State.settleBarG
  dsimp only
  split
  · exact s.sameCells_refl
  · split
    · refine foldl_sameCells (fun s u => ?_) _ s
      exact ⟨rfl, rfl⟩
    · exact s.sameCells_refl

theorem State.settleBarS_sameCells (s : State) (g : Group) : s.sameCells (s.settleBarS g) := by
  unfold State.settleBarS
  split
  · dsimp only
    split
    · refine foldl_sameCells (fun s h => foldl_sameCells (fun s t => ?_) _ s) _ s
      exact ⟨rfl, rfl⟩
    · exact s.sameCells_refl
  · exact s.sameCells_refl

theorem State.settleOwn_sameCells (s : State) (g : Group) : s.sameCells (s.settleOwn g) :=
  foldl_sameCells (f := fun (s : State) (t : Thread) => s.wakeThread g.gid t.tid) (fun _ _ => ⟨rfl, rfl⟩) _ s

theorem State.settleGroup_sameCells (s : State) (gid : Nat) : s.sameCells (s.settleGroup gid) := by
  have some? : ∀ (f : State → Group → State), (∀ (s : State) (g : Group), s.sameCells (f s g)) → ∀ s : State,
      s.sameCells (match s.group? gid with | some g => f s g | none => s) := by
    intro f hf s
    split
    · exact hf s _
    · exact s.sameCells_refl
  exact ((some? _ State.settleConverge_sameCells s).trans (some? _ State.settleBarG_sameCells _)).trans
    ((some? _ State.settleBarS_sameCells _).trans (some? _ State.settleOwn_sameCells _))

/-! ### Memory -/

theorem State.noteWrite_sameCells (s : State) (l lw gw : Nat) : s.sameCells (s.noteWrite l lw gw) := ⟨rfl, rfl⟩

theorem State.touchPieces_sameCells (s : State) (die : Nat) (ps : List (Trans × Nat)) : s.sameCells (s.touchPieces die ps) :=
  foldl_sameCells (f := fun (s : State) (l : Nat) => s.touch die l) (fun _ _ => ⟨rfl, rfl⟩) _ s

theorem State.writePhys_memWf {s : State} (h : s.memWf) (die asid pa : Nat) (bs : List Byte) : (s.writePhys die asid pa bs).memWf := by
  unfold State.writePhys
  refine foldl_memWf (fun s l hs => ?_) _ ?_
  · exact (State.evalMonitors_sameCells _ l).memWf ((State.noteWrite_sameCells (s.setWriter l asid) l _ _).memWf hs)
  · exact ⟨State.setPhysBytes_memWf h.1 pa bs, by rw [State.setPhysBytes_hostMem]; exact h.2⟩

theorem State.writeTrans_memWf {s : State} (h : s.memWf) (die asid : Nat) (t : Trans) (bs : List Byte) : (s.writeTrans die asid t bs).memWf := by
  unfold State.writeTrans
  split
  · exact h
  · split
    · exact ⟨h.1, Memory.writeBytes_wf h.2 _ _⟩
    · exact State.writePhys_memWf h _ _ _ _

theorem State.vwrite_memWf {s : State} (h : s.memWf) {unit die asid va : Nat} {bs : List Byte} {r : State × Nat}
    (hr : s.vwrite unit die asid va bs = .ok r) : r.1.memWf := by
  unfold State.vwrite at hr
  split at hr
  · cases hr
  · cases hr
    rename_i ps _
    refine (State.touchPieces_sameCells _ _ _).memWf ?_
    suffices H : ∀ (l : List (Trans × Nat)) (a : State × Nat × List Byte), a.1.memWf →
        (l.foldl (fun (acc : State × Nat × List Byte) p =>
          (acc.1.writeTrans die asid p.1 (acc.2.2.take p.2), max acc.2.1 (acc.1.gwctOf p.1 p.2), acc.2.2.drop p.2)) a).1.memWf from H ps (s, 0, bs) h
    intro l
    induction l with
    | nil => exact fun a ha => ha
    | cons p ps ih => exact fun a ha => ih _ (State.writeTrans_memWf ha _ _ _ _)

theorem State.ctlWrite_memWf {s t : State} (h : s.memWf) {asid va : Nat} {bs : List Byte} (ht : s.ctlWrite asid va bs = some t) : t.memWf := by
  unfold State.ctlWrite at ht
  split at ht
  · rename_i r hr
    cases ht
    exact State.vwrite_memWf h hr
  · cases ht

theorem State.writeFaultHeader_memWf {s : State} (h : s.memWf) (asid : Nat) : (s.writeFaultHeader asid).memWf := by
  unfold State.writeFaultHeader
  split
  · exact h
  · rename_i c _
    cases hw : s.ctlWrite asid (c.fqbase.toNat + 8) (natToBytes 4 (if c.fheld > 0 then 1 else 0) ++ natToBytes 4 c.fheld ++ natToBytes 4 c.fovcnt) with
    | none => exact h
    | some t => exact State.ctlWrite_memWf h hw

theorem State.tryPost_memWf {s t : State} (h : s.memWf) {c : Context} {f : FaultRec} (ht : s.tryPost c f = some t) : t.memWf := by
  unfold State.tryPost at ht
  split at ht
  · cases ht
  · split at ht
    · cases ht
    · split at ht
      · cases ht
      · rename_i s1 h1
        exact State.ctlWrite_memWf (State.ctlWrite_memWf h h1) ht

theorem State.raiseErr_sameCells (s : State) (r : ErrRec) : s.sameCells (s.raiseErr r) := ⟨rfl, rfl⟩

theorem State.postFault_memWf {s : State} (h : s.memWf) (asid va kind acc src : Nat) (item : HeldItem) :
    (s.postFault asid va kind acc src item).memWf := by
  unfold State.postFault
  split
  · exact h
  · split
    · exact h
    · dsimp only
      split
      · exact h
      · split
        · rename_i s1 h1
          have h2 : s1.memWf := State.tryPost_memWf (s := s.fresh) h h1
          exact h2
        · refine State.writeFaultHeader_memWf ?_ _
          split
          · exact h
          · exact (State.raiseErr_sameCells _ _).memWf h

theorem State.setDieLine_sameCells (s : State) (d : Nat) (x : DieLine) : s.sameCells (s.setDieLine d x) := ⟨rfl, rfl⟩

theorem State.retryLine_sameCells (s : State) (d l : Nat) : s.sameCells (s.retryLine d l) := ⟨rfl, rfl⟩

theorem State.setDir_sameCells (s : State) (x : Dir) : s.sameCells (s.setDir x) := ⟨rfl, rfl⟩

theorem State.count_sameCells (s : State) (d n k : Nat) : s.sameCells (s.count d n k) := ⟨rfl, rfl⟩

/-- A line written to memory, and no cell of host memory. -/
theorem State.memWf_of_setLine {s t : State} (h : s.memWf) {l : Nat} {d : LineData} (h1 : t.mem = Memory.setLine s.mem l d)
    (h2 : t.hostMem = s.hostMem) : t.memWf := by
  rw [State.memWf, h1, h2]
  exact ⟨Memory.setLine_wf h.1 l d, h.2⟩

/-- The data that a home has gathered go to memory (R272). -/
theorem State.takeData_memWf {s : State} (h : s.memWf) (x : Dir) : (s.takeData x).memWf := by
  unfold State.takeData
  split
  · rename_i d _
    refine State.memWf_of_setLine h (l := x.line) (d := d) ?_ ?_
    · dsimp only
    · dsimp only
  · exact h

/-! ### Lines, messages and accesses -/

theorem State.putLine_sameCells (s : State) (a b msg line low : Nat) (d : LineData) : s.sameCells (s.putLine a b msg line low d) := by
  unfold State.putLine
  dsimp only
  split <;> exact ⟨rfl, rfl⟩

theorem State.transmit_sameCells (s : State) (m : Msg) : s.sameCells (s.transmit m) := by
  unfold State.transmit
  split
  · exact s.sameCells_refl
  · dsimp only
    split
    · exact State.sameCells.trans (t := s.updLink _ _ _) ⟨rfl, rfl⟩ (State.putLine_sameCells _ _ _ _ _ _ _)
    · exact ⟨rfl, rfl⟩

theorem State.cross_sameCells (s : State) (a b : Nat) (m : Msg) : s.sameCells (s.cross a b m) := by
  unfold State.cross
  extract_lets m1 m2 s1
  exact State.sameCells.trans (t := s1.updLink a b _) ⟨rfl, rfl⟩ (State.transmit_sameCells _ _)

theorem State.flow_sameCells (s : State) (a b n : Nat) : s.sameCells (s.flow a b n) := by
  induction n generalizing s with
  | zero => exact s.sameCells_refl
  | succ n ih =>
    unfold State.flow
    split
    · exact s.sameCells_refl
    · split
      · exact State.sameCells.trans (t := s.updLink a b _) ⟨rfl, rfl⟩ (ih _)
      · split
        · exact s.sameCells_refl
        · exact (State.cross_sameCells _ _ _ _).trans (ih _)

theorem State.send_sameCells (s : State) (m : Msg) : s.sameCells (s.send m) := by
  unfold State.send
  extract_lets way m2
  refine State.sameCells.trans (t := ({ s with net := s.net ++ [m2], nextId := s.nextId + 1 } : State)) ⟨rfl, rfl⟩ ?_
  exact (State.transmit_sameCells _ _).trans (foldl_sameCells (fun s p => State.flow_sameCells s _ _ _) _ _)

theorem State.answer_sameCells (s : State) (m : Msg) : s.sameCells (s.answer m) := by
  unfold State.answer
  extract_lets d x back withData st s1
  split
  · exact State.setDieLine_sameCells _ _ _
  · split
    · exact State.send_sameCells _ _
    · split
      · exact ((State.setDieLine_sameCells _ _ _).trans (State.retryLine_sameCells _ _ _)).trans (State.send_sameCells _ _)
      · refine State.sameCells.trans (t := s1) ?_ (State.send_sameCells _ _)
        unfold s1
        split
        · exact State.setDieLine_sameCells _ _ _
        · exact (State.setDieLine_sameCells _ _ _).trans (State.retryLine_sameCells _ _ _)

theorem State.answerHeld_sameCells (s : State) (d l : Nat) : s.sameCells (s.answerHeld d l) :=
  (State.setDieLine_sameCells s d _).trans (foldl_sameCells State.answer_sameCells _ _)

theorem State.askerDone_sameCells (s : State) (d l id : Nat) : s.sameCells (s.askerDone d l id) := by
  unfold State.askerDone
  split
  · exact (State.setDieLine_sameCells _ _ _).trans (State.answerHeld_sameCells _ _ _)
  · exact s.sameCells_refl

theorem State.grantLease_sameCells (s : State) (core : Nat) (x : L1Line) : s.sameCells (s.grantLease core x) := ⟨rfl, rfl⟩

/-- An access performed where the die holds its line writes that line, and no cell. -/
theorem State.performAt_sameCells (s : State) (d : Nat) (a : Acc) (p : Part) : s.sameCells (s.performAt d a p) := by
  unfold State.performAt
  extract_lets l off x cur bad t s1 s2 noLease leased s3 lw gw
  split
  · have h2 : s.sameCells s2 := ⟨rfl, rfl⟩
    clear_value s2
    refine (h2.trans ?_).trans (State.askerDone_sameCells _ _ _ _)
    unfold s3
    split
    · split
      · unfold leased; split <;> exact ⟨rfl, rfl⟩
      · exact ⟨rfl, rfl⟩
    · exact ⟨rfl, rfl⟩
  · extract_lets s1 s2 s3 s4
    have h2 : s.sameCells s2 := ⟨rfl, rfl⟩
    have h3 : s2.sameCells s3 := by unfold s3; split <;> exact ⟨rfl, rfl⟩
    have h4 : s3.sameCells s4 := by unfold s4; split <;> exact ⟨rfl, rfl⟩
    exact (((h2.trans h3).trans h4).trans (State.evalMonitors_sameCells _ _)).trans (State.askerDone_sameCells _ _ _ _)

theorem State.poisonLine_sameCells (s : State) (l : Nat) : s.sameCells (s.poisonLine l) := ⟨rfl, rfl⟩

theorem State.futureOutside_memWf {s : State} (h : s.memWf) (a : Acc) (p : Part) : (s.futureOutside a p).memWf := by
  unfold State.futureOutside
  dsimp only
  split
  · split
    · exact h
    · split <;> exact h
  · refine ⟨?_, Memory.writeBytes_wf h.2 _ _⟩
    show Memory.wf (if a.poison then s.poisonLine (p.hostCell / 128) else s).mem
    split <;> exact h.1
  · exact h

theorem State.performOutside_memWf {s : State} (h : s.memWf) (a : Acc) (p : Part) : (s.performOutside a p).memWf := by
  unfold State.performOutside
  split
  · exact h
  · split
    · exact State.futureOutside_memWf h _ _
    · dsimp only
      split
      · split
        · exact ⟨h.1, Memory.writeBytes_wf h.2 _ _⟩
        · exact ⟨h.1, Memory.writeBytes_wf h.2 _ _⟩
      · exact h

theorem State.performHost_memWf {s : State} (h : s.memWf) (id n : Nat) : (s.performHost id n).memWf := by
  induction n generalizing s with
  | zero => exact h
  | succ n ih =>
    unfold State.performHost
    split
    · split
      · split
        · exact ih (State.performOutside_memWf h _ _)
        · exact h
      · exact h
    · exact h

/-! ### What frames a word's meaning -/

theorem State.joinRein_sameCells (s : State) (core gid : Nat) : s.sameCells (s.joinRein core gid) := by
  unfold State.joinRein
  dsimp only
  split
  · exact ⟨rfl, rfl⟩
  · split <;> exact ⟨rfl, rfl⟩

theorem State.faultThread_memWf {s : State} (h : s.memWf) (gid tid : Nat) (va : DWord) (k acc : Nat) : (s.faultThread gid tid va k acc).memWf := by
  unfold State.faultThread
  split
  · exact h
  · dsimp only
    have hp : ∀ a b c d e i, ((s.parkThread gid tid .access).postFault a b c d e i).memWf :=
      fun a b c d e i => State.postFault_memWf (s := s.parkThread gid tid .access) h a b c d e i
    split
    · exact (State.takeTrap_sameCells _ _ _ _ _ _ _).memWf (hp _ _ _ _ _ _)
    · exact hp _ _ _ _ _ _

theorem State.applyStop_memWf {s : State} (h : s.memWf) (gid tid : Nat) (st : Stop) : (s.applyStop gid tid st).memWf := by
  unfold State.applyStop
  split
  · exact (State.takeTrap_sameCells _ _ _ _ _ _ _).memWf h
  · exact (State.takeTrap_sameCells _ _ _ _ _ _ _).memWf h
  · exact (State.takeTrap_sameCells _ _ _ _ _ _ _).memWf h
  · dsimp only
    split
    · exact (State.joinRein_sameCells _ _ _).memWf h
    · exact h
  · exact h
  · exact h
  · exact h
  · exact h
  · exact h
  · exact State.faultThread_memWf h _ _ _ _ _
  · exact State.faultThread_memWf h _ _ _ _ _

theorem State.stopLane_memWf {s : State} (h : s.memWf) (tid : Nat) (st : Stop) : (s.stopLane tid st).memWf := by
  unfold State.stopLane
  dsimp only
  split
  · exact State.applyStop_memWf (s := { s with issue := { s.issue with stops := s.issue.stops ++ [(tid, s.issue.slot, st)] } }) h _ _ _
  · exact h

theorem runWord_memWf {i : Instr} {f : Lane → State → Except Stop State} (hf : ∀ l s t, s.memWf → f l s = .ok t → t.memWf) {s t : State}
    (h : s.memWf) (ht : runWord i f s = .next t) : t.memWf := by
  cases ht
  refine foldl_memWf (fun s u hs => ?_) _ h
  unfold runLane
  split
  · exact hs
  · split
    · exact State.stopLane_memWf hs _ _
    · split
      · exact State.stopLane_memWf hs _ _
      · rename_i s1 h1
        have h2 : s1.memWf := hf _ (s.updThread s.issue.gid u _) s1 hs h1
        exact ((State.arithTrap_same _ _ _).sameCells).memWf h2

theorem runRegs_memWf {i : Instr} {f : Lane → Except Stop (Thread → Thread)} {s t : State} (h : s.memWf) (ht : runRegs i f s = .next t) : t.memWf := by
  refine runWord_memWf (fun l s t hs hl => ?_) h ht
  split at hl
  · cases hl
  · cases hl; exact hs

theorem runPure_memWf {i : Instr} {f : Lane → Thread → Thread} {s t : State} (h : s.memWf) (ht : runPure i f s = .next t) : t.memWf := by
  refine runWord_memWf (fun l s t hs hl => ?_) h ht
  cases hl; exact hs

theorem thenSettle_memWf {r : Res} (hr : ∀ t, r = .next t → t.memWf) {t : State} (ht : thenSettle r = .next t) : t.memWf := by
  unfold thenSettle at ht
  split at ht
  · rename_i s
    cases ht
    exact (State.settleGroup_sameCells _ _).memWf (hr s rfl)
  · exact hr t ht

end Sys2Proof.Machine
end

