-- ==== Sys2Proof/Laws/PerInstr.lean ====
section
/-! SUPPORT. One lemma per constructor of `Instr`: the word that the encoder gives it fits the 32 bits of R35. -/

namespace Sys2Proof.Laws.Words

/-- The encoder's word has 32 bits (R35); an event, which is no word, has the word zero. -/
def Statement (i : Instr) : Prop := encode i < 2 ^ 32

theorem all (i : Instr) : Statement i := by
  cases i <;> simp only [Statement, encode] <;> omega

theorem nop : Statement (.nop) := all _
theorem exit : Statement (.exit) := all _
theorem trap (a : BitVec 6) (n : BitVec 8) : Statement (.trap a n) := all _
theorem brk (n : BitVec 8) : Statement (.brk n) := all _
theorem yield : Statement (.yield) := all _
theorem setrm (m : BitVec 3) : Statement (.setrm m) := all _
theorem getflg (d : BitVec 6) : Statement (.getflg d) := all _
theorem clrflg (m : BitVec 5) : Statement (.clrflg m) := all _
theorem iadd (c : BitVec 1) (d a b : BitVec 6) (w : BitVec 2) : Statement (.iadd c d a b w) := all _
theorem isub (c : BitVec 1) (d a b : BitVec 6) (w : BitVec 2) : Statement (.isub c d a b w) := all _
theorem imin (c : BitVec 1) (d a b : BitVec 6) : Statement (.imin c d a b) := all _
theorem imax (c : BitVec 1) (d a b : BitVec 6) : Statement (.imax c d a b) := all _
theorem iminu (c : BitVec 1) (d a b : BitVec 6) : Statement (.iminu c d a b) := all _
theorem imaxu (c : BitVec 1) (d a b : BitVec 6) : Statement (.imaxu c d a b) := all _
theorem and (c : BitVec 1) (d a b : BitVec 6) (w : BitVec 2) : Statement (.and c d a b w) := all _
theorem or (c : BitVec 1) (d a b : BitVec 6) (w : BitVec 2) : Statement (.or c d a b w) := all _
theorem xor (c : BitVec 1) (d a b : BitVec 6) (w : BitVec 2) : Statement (.xor c d a b w) := all _
theorem andn (c : BitVec 1) (d a b : BitVec 6) : Statement (.andn c d a b) := all _
theorem shl (c : BitVec 1) (d a b : BitVec 6) (w : BitVec 2) : Statement (.shl c d a b w) := all _
theorem shr (c : BitVec 1) (d a b : BitVec 6) (w : BitVec 2) : Statement (.shr c d a b w) := all _
theorem sar (c : BitVec 1) (d a b : BitVec 6) (w : BitVec 2) : Statement (.sar c d a b w) := all _
theorem rotl (c : BitVec 1) (d a b : BitVec 6) : Statement (.rotl c d a b) := all _
theorem imullo (c : BitVec 1) (d a b : BitVec 6) (w : BitVec 2) : Statement (.imullo c d a b w) := all _
theorem imulhi (c : BitVec 1) (d a b : BitVec 6) : Statement (.imulhi c d a b) := all _
theorem imulhiu (c : BitVec 1) (d a b : BitVec 6) : Statement (.imulhiu c d a b) := all _
theorem popc (c : BitVec 1) (d a : BitVec 6) : Statement (.popc c d a) := all _
theorem clz (c : BitVec 1) (d a : BitVec 6) : Statement (.clz c d a) := all _
theorem brev (c : BitVec 1) (d a : BitVec 6) : Statement (.brev c d a) := all _
theorem iabs (c : BitVec 1) (d a : BitVec 6) : Statement (.iabs c d a) := all _
theorem bpick (c : BitVec 1) (d a b : BitVec 6) : Statement (.bpick c d a b) := all _
theorem iaddsat (c : BitVec 1) (d a b : BitVec 6) : Statement (.iaddsat c d a b) := all _
theorem isubsat (c : BitVec 1) (d a b : BitVec 6) : Statement (.isubsat c d a b) := all _
theorem iaddi (c : BitVec 1) (d a : BitVec 6) (i : BitVec 13) : Statement (.iaddi c d a i) := all _
theorem andi (c : BitVec 1) (d a : BitVec 6) (i : BitVec 13) : Statement (.andi c d a i) := all _
theorem ori (c : BitVec 1) (d a : BitVec 6) (i : BitVec 13) : Statement (.ori c d a i) := all _
theorem xori (c : BitVec 1) (d a : BitVec 6) (i : BitVec 13) : Statement (.xori c d a i) := all _
theorem shiShl (c : BitVec 1) (d a : BitVec 6) (n : BitVec 5) : Statement (.shiShl c d a n) := all _
theorem shiShr (c : BitVec 1) (d a : BitVec 6) (n : BitVec 5) : Statement (.shiShr c d a n) := all _
theorem shiSar (c : BitVec 1) (d a : BitVec 6) (n : BitVec 5) : Statement (.shiSar c d a n) := all _
theorem shiRotl (c : BitVec 1) (d a : BitVec 6) (n : BitVec 5) : Statement (.shiRotl c d a n) := all _
theorem bitfBfx (c : BitVec 1) (d a : BitVec 6) (l p : BitVec 5) : Statement (.bitfBfx c d a l p) := all _
theorem bitfBfxs (c : BitVec 1) (d a : BitVec 6) (l p : BitVec 5) : Statement (.bitfBfxs c d a l p) := all _
theorem bitfBfi (c : BitVec 1) (d a : BitVec 6) (l p : BitVec 5) : Statement (.bitfBfi c d a l p) := all _
theorem li (c : BitVec 1) (d : BitVec 6) (i : BitVec 19) : Statement (.li c d i) := all _
theorem lih (c : BitVec 1) (d : BitVec 6) (i : BitVec 19) : Statement (.lih c d i) := all _
theorem imad (c : BitVec 1) (d a b e : BitVec 6) : Statement (.imad c d a b e) := all _
theorem imadW (c : BitVec 1) (d a b e : BitVec 6) : Statement (.imadW c d a b e) := all _
theorem icmp (c : BitVec 1) (p : BitVec 3) (a b : BitVec 6) (w : BitVec 2) (f : BitVec 5) : Statement (.icmp c p a b w f) := all _
theorem pand (c : BitVec 1) (d a b : BitVec 3) : Statement (.pand c d a b) := all _
theorem por (c : BitVec 1) (d a b : BitVec 3) : Statement (.por c d a b) := all _
theorem pxor (c : BitVec 1) (d a b : BitVec 3) : Statement (.pxor c d a b) := all _
theorem pnot (c : BitVec 1) (d a : BitVec 3) : Statement (.pnot c d a) := all _
theorem p2w (c : BitVec 1) (d : BitVec 6) : Statement (.p2w c d) := all _
theorem w2p (c : BitVec 1) (a : BitVec 6) : Statement (.w2p c a) := all _
theorem sel (c : BitVec 1) (d a b : BitVec 6) (w : BitVec 2) (n : BitVec 1) (p : BitVec 3) : Statement (.sel c d a b w n p) := all _
theorem sysv (c : BitVec 1) (d : BitVec 6) (s : BitVec 5) : Statement (.sysv c d s) := all _
theorem locq (c : BitVec 1) (d a : BitVec 6) : Statement (.locq c d a) := all _
theorem uget (c : BitVec 1) (d a : BitVec 6) : Statement (.uget c d a) := all _
theorem uset (c : BitVec 1) (d a : BitVec 6) : Statement (.uset c d a) := all _
theorem fadd (c : BitVec 1) (d a b : BitVec 6) : Statement (.fadd c d a b) := all _
theorem dadd (c : BitVec 1) (d a b : BitVec 6) : Statement (.dadd c d a b) := all _
theorem fsub (c : BitVec 1) (d a b : BitVec 6) : Statement (.fsub c d a b) := all _
theorem dsub (c : BitVec 1) (d a b : BitVec 6) : Statement (.dsub c d a b) := all _
theorem fmul (c : BitVec 1) (d a b : BitVec 6) : Statement (.fmul c d a b) := all _
theorem dmul (c : BitVec 1) (d a b : BitVec 6) : Statement (.dmul c d a b) := all _
theorem fmin (c : BitVec 1) (d a b : BitVec 6) : Statement (.fmin c d a b) := all _
theorem dmin (c : BitVec 1) (d a b : BitVec 6) : Statement (.dmin c d a b) := all _
theorem fmax (c : BitVec 1) (d a b : BitVec 6) : Statement (.fmax c d a b) := all _
theorem dmax (c : BitVec 1) (d a b : BitVec 6) : Statement (.dmax c d a b) := all _
theorem fminm (c : BitVec 1) (d a b : BitVec 6) : Statement (.fminm c d a b) := all _
theorem dminm (c : BitVec 1) (d a b : BitVec 6) : Statement (.dminm c d a b) := all _
theorem fmaxm (c : BitVec 1) (d a b : BitVec 6) : Statement (.fmaxm c d a b) := all _
theorem dmaxm (c : BitVec 1) (d a b : BitVec 6) : Statement (.dmaxm c d a b) := all _
theorem fabs (c : BitVec 1) (d a : BitVec 6) : Statement (.fabs c d a) := all _
theorem dabs (c : BitVec 1) (d a : BitVec 6) : Statement (.dabs c d a) := all _
theorem fneg (c : BitVec 1) (d a : BitVec 6) : Statement (.fneg c d a) := all _
theorem dneg (c : BitVec 1) (d a : BitVec 6) : Statement (.dneg c d a) := all _
theorem fcpys (c : BitVec 1) (d a b : BitVec 6) : Statement (.fcpys c d a b) := all _
theorem dcpys (c : BitVec 1) (d a b : BitVec 6) : Statement (.dcpys c d a b) := all _
theorem frnd (c : BitVec 1) (d a : BitVec 6) (r : BitVec 3) : Statement (.frnd c d a r) := all _
theorem drnd (c : BitVec 1) (d a : BitVec 6) (r : BitVec 3) : Statement (.drnd c d a r) := all _
theorem fclass (c : BitVec 1) (d a : BitVec 6) : Statement (.fclass c d a) := all _
theorem dclass (c : BitVec 1) (d a : BitVec 6) : Statement (.dclass c d a) := all _
theorem fscale (c : BitVec 1) (d a b : BitVec 6) : Statement (.fscale c d a b) := all _
theorem dscale (c : BitVec 1) (d a b : BitVec 6) : Statement (.dscale c d a b) := all _
theorem ffma (c : BitVec 1) (d a b e : BitVec 6) : Statement (.ffma c d a b e) := all _
theorem dfma (c : BitVec 1) (d a b e : BitVec 6) : Statement (.dfma c d a b e) := all _
theorem fcmp (c : BitVec 1) (p : BitVec 3) (a b : BitVec 6) (f : BitVec 5) : Statement (.fcmp c p a b f) := all _
theorem dcmp (c : BitVec 1) (p : BitVec 3) (a b : BitVec 6) (f : BitVec 5) : Statement (.dcmp c p a b f) := all _
theorem hadd2 (c : BitVec 1) (d a b : BitVec 6) : Statement (.hadd2 c d a b) := all _
theorem hsub2 (c : BitVec 1) (d a b : BitVec 6) : Statement (.hsub2 c d a b) := all _
theorem hmul2 (c : BitVec 1) (d a b : BitVec 6) : Statement (.hmul2 c d a b) := all _
theorem hmin2 (c : BitVec 1) (d a b : BitVec 6) : Statement (.hmin2 c d a b) := all _
theorem hmax2 (c : BitVec 1) (d a b : BitVec 6) : Statement (.hmax2 c d a b) := all _
theorem badd2 (c : BitVec 1) (d a b : BitVec 6) : Statement (.badd2 c d a b) := all _
theorem bsub2 (c : BitVec 1) (d a b : BitVec 6) : Statement (.bsub2 c d a b) := all _
theorem bmul2 (c : BitVec 1) (d a b : BitVec 6) : Statement (.bmul2 c d a b) := all _
theorem bmin2 (c : BitVec 1) (d a b : BitVec 6) : Statement (.bmin2 c d a b) := all _
theorem bmax2 (c : BitVec 1) (d a b : BitVec 6) : Statement (.bmax2 c d a b) := all _
theorem hfma2 (c : BitVec 1) (d a b e : BitVec 6) : Statement (.hfma2 c d a b e) := all _
theorem bfma2 (c : BitVec 1) (d a b e : BitVec 6) : Statement (.bfma2 c d a b e) := all _
theorem cvt (c : BitVec 1) (d a : BitVec 6) (r : BitVec 3) (s : BitVec 1) (k : BitVec 5) : Statement (.cvt c d a r s k) := all _
theorem rcp (c : BitVec 1) (d a : BitVec 6) (w : BitVec 1) : Statement (.rcp c d a w) := all _
theorem rsq (c : BitVec 1) (d a : BitVec 6) : Statement (.rsq c d a) := all _
theorem sqrt (c : BitVec 1) (d a : BitVec 6) (w : BitVec 1) : Statement (.sqrt c d a w) := all _
theorem div (c : BitVec 1) (d a b : BitVec 6) (w : BitVec 1) : Statement (.div c d a b w) := all _
theorem exp2 (c : BitVec 1) (d a : BitVec 6) : Statement (.exp2 c d a) := all _
theorem log2 (c : BitVec 1) (d a : BitVec 6) : Statement (.log2 c d a) := all _
theorem sin (c : BitVec 1) (d a : BitVec 6) : Statement (.sin c d a) := all _
theorem cos (c : BitVec 1) (d a : BitVec 6) : Statement (.cos c d a) := all _
theorem sincos (c : BitVec 1) (d a : BitVec 6) : Statement (.sincos c d a) := all _
theorem sinpi (c : BitVec 1) (d a : BitVec 6) : Statement (.sinpi c d a) := all _
theorem cospi (c : BitVec 1) (d a : BitVec 6) : Statement (.cospi c d a) := all _
theorem tanh (c : BitVec 1) (d a : BitVec 6) : Statement (.tanh c d a) := all _
theorem rand (c : BitVec 1) (d : BitVec 6) : Statement (.rand c d) := all _
theorem randu (c : BitVec 1) (d : BitVec 6) : Statement (.randu c d) := all _
theorem propose (c : BitVec 1) : Statement (.propose c) := all _
theorem accept (c : BitVec 1) (d a : BitVec 6) : Statement (.accept c d a) := all _
theorem discard (c : BitVec 1) : Statement (.discard c) := all _
theorem pseed (c : BitVec 1) (a : BitVec 6) : Statement (.pseed c a) := all _
theorem pcnt (c : BitVec 1) (d : BitVec 6) : Statement (.pcnt c d) := all _
theorem pcntClr (c : BitVec 1) (d : BitVec 6) : Statement (.pcntClr c d) := all _
theorem xchPair (c : BitVec 1) (d a : BitVec 6) : Statement (.xchPair c d a) := all _
theorem xchQx1 (c : BitVec 1) (d a : BitVec 6) : Statement (.xchQx1 c d a) := all _
theorem xchQx2 (c : BitVec 1) (d a : BitVec 6) : Statement (.xchQx2 c d a) := all _
theorem shfl (c : BitVec 1) (d a b : BitVec 6) : Statement (.shfl c d a b) := all _
theorem shflx (c : BitVec 1) (d a b : BitVec 6) : Statement (.shflx c d a b) := all _
theorem voteany (c : BitVec 1) (d a : BitVec 6) : Statement (.voteany c d a) := all _
theorem voteall (c : BitVec 1) (d a : BitVec 6) : Statement (.voteall c d a) := all _
theorem ballot (c : BitVec 1) (d a : BitVec 6) : Statement (.ballot c d a) := all _
theorem redadd (c : BitVec 1) (d a : BitVec 6) : Statement (.redadd c d a) := all _
theorem redmin (c : BitVec 1) (d a : BitVec 6) : Statement (.redmin c d a) := all _
theorem redmax (c : BitVec 1) (d a : BitVec 6) : Statement (.redmax c d a) := all _
theorem bra (p : BitVec 3) (n : BitVec 1) (o : BitVec 21) : Statement (.bra p n o) := all _
theorem call (d : BitVec 6) (i : BitVec 19) : Statement (.call d i) := all _
theorem jr (a : BitVec 6) : Statement (.jr a) := all _
theorem jalr (d a : BitVec 6) : Statement (.jalr d a) := all _
theorem barG : Statement (.barG) := all _
theorem barS (w h : BitVec 4) : Statement (.barS w h) := all _
theorem ld (c : BitVec 1) (d a : BitVec 6) (z : BitVec 3) (p : BitVec 2) (o : BitVec 8) : Statement (.ld c d a z p o) := all _
theorem st (c : BitVec 1) (d a : BitVec 6) (z : BitVec 3) (p : BitVec 2) (o : BitVec 8) : Statement (.st c d a z p o) := all _
theorem ldt (c : BitVec 1) (d : BitVec 6) (h : BitVec 5) (a b : BitVec 6) : Statement (.ldt c d h a b) := all _
theorem ldtWf (c : BitVec 1) (d : BitVec 6) (h : BitVec 5) (a b : BitVec 6) : Statement (.ldtWf c d h a b) := all _
theorem ldtWfe (c : BitVec 1) (d : BitVec 6) (h : BitVec 5) (a b : BitVec 6) : Statement (.ldtWfe c d h a b) := all _
theorem stt (c : BitVec 1) (d : BitVec 6) (h : BitVec 5) (a b : BitVec 6) : Statement (.stt c d h a b) := all _
theorem sttWe (c : BitVec 1) (d : BitVec 6) (h : BitVec 5) (a b : BitVec 6) : Statement (.sttWe c d h a b) := all _
theorem sttRaw (c : BitVec 1) (d : BitVec 6) (h : BitVec 5) (a b : BitVec 6) : Statement (.sttRaw c d h a b) := all _
theorem atom (c : BitVec 1) (d a b : BitVec 6) (s : BitVec 2) (o : BitVec 5) : Statement (.atom c d a b s o) := all _
theorem cas (c : BitVec 1) (d a b : BitVec 6) (s : BitVec 2) (z : BitVec 1) : Statement (.cas c d a b s z) := all _
theorem red (c : BitVec 1) (a b : BitVec 6) (s : BitVec 2) (o : BitVec 5) : Statement (.red c a b s o) := all _
theorem fence (c : BitVec 1) (s : BitVec 3) (a b : BitVec 6) : Statement (.fence c s a b) := all _
theorem wait (l s p t : BitVec 4) : Statement (.wait l s p t) := all _
theorem waitu (c : BitVec 1) (d a b : BitVec 6) (m : BitVec 3) (z : BitVec 1) : Statement (.waitu c d a b m z) := all _
theorem ldFut (c : BitVec 1) (d a b : BitVec 6) : Statement (.ldFut c d a b) := all _
theorem stFut (c : BitVec 1) (a b : BitVec 6) : Statement (.stFut c a b) := all _
theorem clrFut (c : BitVec 1) (a : BitVec 6) : Statement (.clrFut c a) := all _
theorem talloc (c : BitVec 1) (d : BitVec 6) (h : BitVec 5) (a : BitVec 6) : Statement (.talloc c d h a) := all _
theorem tfree (c : BitVec 1) (d : BitVec 6) (h : BitVec 5) : Statement (.tfree c d h) := all _
theorem tbind (c : BitVec 1) (d : BitVec 6) (h : BitVec 5) (a : BitVec 6) : Statement (.tbind c d h a) := all _
theorem tflush (c : BitVec 1) (d : BitVec 6) (h : BitVec 5) : Statement (.tflush c d h) := all _
theorem tring (c : BitVec 1) (d : BitVec 6) (h : BitVec 5) (a : BitVec 6) : Statement (.tring c d h a) := all _
theorem tsetfe (c : BitVec 1) (d : BitVec 6) (h : BitVec 5) (a : BitVec 6) : Statement (.tsetfe c d h a) := all _
theorem tarrt (c : BitVec 1) (d : BitVec 6) (h : BitVec 5) (a : BitVec 6) : Statement (.tarrt c d h a) := all _
theorem waita (c : BitVec 1) (d : BitVec 6) (h : BitVec 5) (a : BitVec 6) : Statement (.waita c d h a) := all _
theorem tinfo (c : BitVec 1) (d : BitVec 6) (h : BitVec 5) (a : BitVec 6) : Statement (.tinfo c d h a) := all _
theorem racq (c : BitVec 1) (d : BitVec 6) (h : BitVec 5) (a : BitVec 6) : Statement (.racq c d h a) := all _
theorem rrel (c : BitVec 1) (d : BitVec 6) (h : BitVec 5) (a : BitVec 6) : Statement (.rrel c d h a) := all _
theorem tidset (c : BitVec 1) (s : BitVec 6) (k : BitVec 8) : Statement (.tidset c s k) := all _
theorem tidget (c : BitVec 1) (s : BitVec 6) (k : BitVec 8) : Statement (.tidget c s k) := all _
theorem copy (c : BitVec 1) (s : BitVec 6) (k j : BitVec 8) : Statement (.copy c s k j) := all _
theorem copyTl (c : BitVec 1) (s : BitVec 6) (k : BitVec 8) : Statement (.copyTl c s k) := all _
theorem copyLt (c : BitVec 1) (s : BitVec 6) (k : BitVec 8) : Statement (.copyLt c s k) := all _
theorem gather (c : BitVec 1) (s : BitVec 6) (k j : BitVec 8) : Statement (.gather c s k j) := all _
theorem scatter (c : BitVec 1) (s : BitVec 6) (k j : BitVec 8) : Statement (.scatter c s k j) := all _
theorem mloop (c : BitVec 1) (s : BitVec 6) : Statement (.mloop c s) := all _
theorem mdrain (c : BitVec 1) (s : BitVec 6) (k : BitVec 8) : Statement (.mdrain c s k) := all _
theorem mzero (c : BitVec 1) (s : BitVec 6) : Statement (.mzero c s) := all _
theorem take (c : BitVec 1) : Statement (.take c) := all _
theorem pass (c : BitVec 1) : Statement (.pass c) := all _
theorem mwait (c : BitVec 1) : Statement (.mwait c) := all _
theorem amax (c : BitVec 1) (a b : BitVec 6) (s : BitVec 2) : Statement (.amax c a b s) := all _
theorem amaxrs (c : BitVec 1) (d a : BitVec 6) (s : BitVec 2) : Statement (.amaxrs c d a s) := all _
theorem vbind (c : BitVec 1) (d a : BitVec 6) (s : BitVec 3) : Statement (.vbind c d a s) := all _
theorem vld (c : BitVec 1) (d a : BitVec 6) (s : BitVec 3) : Statement (.vld c d a s) := all _
theorem vsten7 (c : BitVec 1) (d a : BitVec 6) (s : BitVec 3) : Statement (.vsten7 c d a s) := all _
theorem vsamp (c : BitVec 1) (d a : BitVec 6) (s : BitVec 3) : Statement (.vsamp c d a s) := all _
theorem vray (c : BitVec 1) (d a : BitVec 6) (s : BitVec 3) : Statement (.vray c d a s) := all _
theorem vleaf (c : BitVec 1) (d : BitVec 6) (s : BitVec 3) : Statement (.vleaf c d s) := all _
theorem vins (c : BitVec 1) (d a : BitVec 6) (s : BitVec 3) : Statement (.vins c d a s) := all _
theorem vdel (c : BitVec 1) (d a : BitVec 6) (s : BitVec 3) : Statement (.vdel c d a s) := all _
theorem vactClr (c : BitVec 1) (d a : BitVec 6) (s : BitVec 3) : Statement (.vactClr c d a s) := all _
theorem vactSet (c : BitVec 1) (d a : BitVec 6) (s : BitVec 3) : Statement (.vactSet c d a s) := all _
theorem vst (c : BitVec 1) (d a : BitVec 6) (s : BitVec 3) : Statement (.vst c d a s) := all _
theorem hbind (c : BitVec 1) (d a : BitVec 6) (s : BitVec 2) : Statement (.hbind c d a s) := all _
theorem hgrid (c : BitVec 1) (d a : BitVec 6) (s : BitVec 2) (l : BitVec 4) : Statement (.hgrid c d a s l) := all _
theorem hgrad (c : BitVec 1) (d a : BitVec 6) (s : BitVec 2) (l : BitVec 4) : Statement (.hgrad c d a s l) := all _
theorem hgradd (c : BitVec 1) (d a : BitVec 6) (s : BitVec 2) (l : BitVec 4) : Statement (.hgradd c d a s l) := all _
theorem enq (c : BitVec 1) (s : BitVec 6) (k : BitVec 8) : Statement (.enq c s k) := all _
theorem commit (c : BitVec 1) (s : BitVec 6) (k : BitVec 8) : Statement (.commit c s k) := all _
theorem result (c : BitVec 1) (s : BitVec 6) : Statement (.result c s) := all _
theorem launch (c : BitVec 1) (s : BitVec 6) : Statement (.launch c s) := all _
theorem coll (c : BitVec 1) (s : BitVec 6) (k j : BitVec 8) : Statement (.coll c s k j) := all _
theorem halo (c : BitVec 1) (s : BitVec 6) : Statement (.halo c s) := all _
theorem step (c : BitVec 1) (s : BitVec 6) : Statement (.step c s) := all _
theorem stepwait (c : BitVec 1) (s : BitVec 6) : Statement (.stepwait c s) := all _
theorem tbegin : Statement (.tbegin) := all _
theorem tchk : Statement (.tchk) := all _
theorem tend : Statement (.tend) := all _
theorem errq (d : BitVec 6) : Statement (.errq d) := all _
theorem instructionFetch (g t : Nat) : Statement (.instructionFetch g t) := all _
theorem poisonSkid (g t : Nat) : Statement (.poisonSkid g t) := all _
theorem yieldExpiry (g t : Nat) : Statement (.yieldExpiry g t) := all _
theorem loadComplete (a : Nat) : Statement (.loadComplete a) := all _
theorem storeAck (a : Nat) : Statement (.storeAck a) := all _
theorem sliceAccess (a : Nat) : Statement (.sliceAccess a) := all _
theorem fenceComplete (g t : Nat) : Statement (.fenceComplete g t) := all _
theorem monitorInsert (m : Nat) : Statement (.monitorInsert m) := all _
theorem monitorTimeout (m : Nat) : Statement (.monitorTimeout m) := all _
theorem monitorSpillReturn (die slice : Nat) : Statement (.monitorSpillReturn die slice) := all _
theorem monlost (die slice : Nat) : Statement (.monlost die slice) := all _
theorem rds (m : Nat) : Statement (.rds m) := all _
theorem rdx (m : Nat) : Statement (.rdx m) := all _
theorem upg (m : Nat) : Statement (.upg m) := all _
theorem wb (m : Nat) : Statement (.wb m) := all _
theorem inv (m : Nat) : Statement (.inv m) := all _
theorem fwd (m : Nat) : Statement (.fwd m) := all _
theorem fwdinv (m : Nat) : Statement (.fwdinv m) := all _
theorem directoryAnswer (m : Nat) : Statement (.directoryAnswer m) := all _
theorem noLineAnswer (m : Nat) : Statement (.noLineAnswer m) := all _
theorem grant (m : Nat) : Statement (.grant m) := all _
theorem performAtHome (m : Nat) : Statement (.performAtHome m) := all _
theorem homeOperation (m : Nat) : Statement (.homeOperation m) := all _
theorem wbAck (m : Nat) : Statement (.wbAck m) := all _
theorem lineAgeing (die line : Nat) : Statement (.lineAgeing die line) := all _
theorem lineReceive (src dst : Nat) (damaged : Bool) : Statement (.lineReceive src dst damaged) := all _
theorem replayRequest (src dst : Nat) : Statement (.replayRequest src dst) := all _
theorem linkRetrain (a b : Nat) : Statement (.linkRetrain a b) := all _
theorem dieReset (die : Nat) : Statement (.dieReset die) := all _
theorem trapMessage (die cluster : Nat) : Statement (.trapMessage die cluster) := all _
theorem faultResponse (asid : Nat) : Statement (.faultResponse asid) := all _
theorem fconsPoll (asid : Nat) : Statement (.fconsPoll asid) := all _
theorem heldFaultPost (asid : Nat) : Statement (.heldFaultPost asid) := all _
theorem faultWriteRetry (asid : Nat) : Statement (.faultWriteRetry asid) := all _
theorem sideLogReplay (e : Nat) : Statement (.sideLogReplay e) := all _
theorem errorRecordPost (r : Nat) : Statement (.errorRecordPost r) := all _
theorem scrub (line outcome : Nat) : Statement (.scrub line outcome) := all _
theorem sentinelEvent (core asid : Nat) : Statement (.sentinelEvent core asid) := all _
theorem voltageStepDown (die : Nat) : Statement (.voltageStepDown die) := all _
theorem powerExcess (watts : Nat) : Statement (.powerExcess watts) := all _
theorem thermalLimit (celsius : Nat) : Statement (.thermalLimit celsius) := all _
theorem ppsPulse (error : Int) : Statement (.ppsPulse error) := all _
theorem ptmSync (port : Nat) (error : Int) : Statement (.ptmSync port error) := all _
theorem portReset (port : Nat) : Statement (.portReset port) := all _
theorem bringUp (flc : List Nat) (firmware runtime : List (BitVec 8)) (version : Nat × Nat) : Statement (.bringUp flc firmware runtime version) := all _
theorem hostMemoryAccess (port : Nat) (write : Bool) (offset : Nat) (data : List (BitVec 8)) : Statement (.hostMemoryAccess port write offset data) := all _
theorem semaphoreRead (port n : Nat) : Statement (.semaphoreRead port n) := all _
theorem semaphoreWrite (port n value : Nat) : Statement (.semaphoreWrite port n value) := all _
theorem qtailWrite (port q index : Nat) : Statement (.qtailWrite port q index) := all _
theorem registerWrite (port offset : Nat) (value : BitVec 64) : Statement (.registerWrite port offset value) := all _
theorem ctxCreate (port : Nat) : Statement (.ctxCreate port) := all _
theorem ctxDestroy (port : Nat) : Statement (.ctxDestroy port) := all _
theorem qbind (port : Nat) : Statement (.qbind port) := all _
theorem qunbind (port : Nat) : Statement (.qunbind port) := all _
theorem qresume (port : Nat) : Statement (.qresume port) := all _
theorem tlbinv (port : Nat) : Statement (.tlbinv port) := all _
theorem preempt (port : Nat) : Statement (.preempt port) := all _
theorem plift (port : Nat) : Statement (.plift port) := all _
theorem migout (port : Nat) : Statement (.migout port) := all _
theorem migin (port : Nat) : Statement (.migin port) := all _
theorem exchset (port : Nat) : Statement (.exchset port) := all _
theorem rtshare (port : Nat) : Statement (.rtshare port) := all _
theorem attest (port : Nat) : Statement (.attest port) := all _
theorem winset (port : Nat) : Statement (.winset port) := all _
theorem mgmtComplete : Statement (.mgmtComplete) := all _
theorem commandFetch : Statement (.commandFetch) := all _
theorem recordRefetch (q : Nat) : Statement (.recordRefetch q) := all _
theorem launchCommand (q : Nat) : Statement (.launchCommand q) := all _
theorem launchLeaf (q : Nat) : Statement (.launchLeaf q) := all _
theorem graphCommand (q : Nat) : Statement (.graphCommand q) := all _
theorem copyCommand (q : Nat) : Statement (.copyCommand q) := all _
theorem waitword (q : Nat) : Statement (.waitword q) := all _
theorem release (q : Nat) : Statement (.release q) := all _
theorem releaseTime (q : Nat) : Statement (.releaseTime q) := all _
theorem collCommand (q : Nat) : Statement (.collCommand q) := all _
theorem fenceCommand (q : Nat) : Statement (.fenceCommand q) := all _
theorem groupResident (core : Nat) : Statement (.groupResident core) := all _
theorem groupEnd (g : Nat) : Statement (.groupEnd g) := all _
theorem autoPreempt (core : Nat) : Statement (.autoPreempt core) := all _
theorem deadlineExpiry (asid : Nat) : Statement (.deadlineExpiry asid) := all _
theorem groupSave (g : Nat) : Statement (.groupSave g) := all _
theorem groupRestore (g : Nat) : Statement (.groupRestore g) := all _
theorem nodeDispatch (graph node : Nat) : Statement (.nodeDispatch graph node) := all _
theorem coalesceTimer (graph node : Nat) : Statement (.coalesceTimer graph node) := all _
theorem copyComplete (id : Nat) : Statement (.copyComplete id) := all _
theorem tileRowFill (tile row : Nat) : Statement (.tileRowFill tile row) := all _
theorem matrixCommandStart (core : Nat) : Statement (.matrixCommandStart core) := all _
theorem ringSlotReady (core : Nat) : Statement (.ringSlotReady core) := all _
theorem matrixCommandComplete (core : Nat) : Statement (.matrixCommandComplete core) := all _
theorem allocatorRequest : Statement (.allocatorRequest) := all _
theorem sweep (asid root : Nat) : Statement (.sweep asid root) := all _
theorem fieldWordComplete (id : Nat) : Statement (.fieldWordComplete id) := all _
theorem linkCommandComplete (id : Nat) : Statement (.linkCommandComplete id) := all _
theorem stepReport (asid exch n : Nat) (step : BitVec 32) : Statement (.stepReport asid exch n step) := all _
theorem trailerAccess (g t : Nat) : Statement (.trailerAccess g t) := all _
theorem tandemWaitTimeout (g : Nat) : Statement (.tandemWaitTimeout g) := all _
theorem tandemCheckpoint (g : Nat) : Statement (.tandemCheckpoint g) := all _
theorem notAnInstruction (w : BitVec 32) : Statement (.notAnInstruction w) := all _
theorem badop (port op : Nat) : Statement (.badop port op) := all _
theorem ownershipGrant (a : Nat) : Statement (.ownershipGrant a) := all _
theorem tileOperationComplete (id : Nat) : Statement (.tileOperationComplete id) := all _
theorem linkWriteArrival (asid va : Nat) (data : List (BitVec 8)) (origin : Option (BitVec 32 × BitVec 32 × BitVec 32)) : Statement (.linkWriteArrival asid va data origin) := all _
theorem dieEnable (die : Nat) : Statement (.dieEnable die) := all _
theorem errorRecordAccept (r : Nat) : Statement (.errorRecordAccept r) := all _

end Sys2Proof.Laws.Words
end

