-- ==== Sys2Proof/Tests/Slice0.lean ====
section
/-! SUPPORT. Tests: ill-formed terms that the well-formedness check refuses, words written out from the manual's encodings,
single steps whose results the manual gives, and, for every statement with hypotheses, states and operands that meet them. -/

namespace Sys2Proof.Tests
set_option Elab.async false
open Sys2Proof.Machine

/-! ### Well-formedness: one ill-formed term for each check -/

theorem test_wellFormed_accepts : (Instr.iadd 0 8 10 12 1).wellFormed = true ∧ (Instr.mloop 0 8).wellFormed = true := by decide
theorem test_wellFormed_width : (Instr.iadd 0 8 10 12 2).wellFormed = false := by decide
theorem test_wellFormed_condition : (Instr.icmp 0 1 2 3 0 10).wellFormed = false ∧ (Instr.fcmp 0 1 2 3 16).wellFormed = false := by decide
theorem test_wellFormed_p0 : (Instr.icmp 0 0 2 3 0 0).wellFormed = false ∧ (Instr.pand 0 0 1 2).wellFormed = false := by decide
theorem test_wellFormed_field : (Instr.bitfBfx 0 1 2 31 1).wellFormed = false := by decide
theorem test_wellFormed_selector : (Instr.sysv 0 1 12).wellFormed = false := by decide
theorem test_wellFormed_rounding : (Instr.setrm 5).wellFormed = false ∧ (Instr.frnd 0 1 2 6).wellFormed = false := by decide
theorem test_wellFormed_conversion : (Instr.cvt 0 1 2 0 0 28).wellFormed = false ∧ (Instr.cvt 0 1 2 0 1 10).wellFormed = false := by decide
theorem test_wellFormed_branch : (Instr.bra 0 1 0).wellFormed = false := by decide
theorem test_wellFormed_barrier : (Instr.barS 6 0).wellFormed = false := by decide
theorem test_wellFormed_store : (Instr.st 0 1 2 1 0 0).wellFormed = false := by decide
theorem test_wellFormed_atomic : (Instr.atom 0 1 2 4 0 14).wellFormed = false ∧ (Instr.red 0 2 4 0 8).wellFormed = false := by decide
theorem test_wellFormed_fence : (Instr.fence 0 4 1 1).wellFormed = false ∧ (Instr.fence 0 0 1 0).wellFormed = false := by decide
theorem test_wellFormed_pair : (Instr.iadd 0 9 10 12 1).wellFormed = false ∧ (Instr.dadd 0 8 11 12).wellFormed = false := by decide
theorem test_wellFormed_octet : (Instr.mloop 0 4).wellFormed = false := by decide
theorem test_wellFormed_event : (Instr.commandFetch).wellFormed = false := by decide

/-! ### Words written out from the manual's encodings (R46-R69, and the tables that assemble words to the bit) -/

theorem test_decode_integer : decode 0x02414620 = some (.iadd 0 8 10 12 1) ∧ decode 0x02188295 = some (.bpick 0 3 4 5) := by decide
theorem test_decode_immediate : decode 0x04183FFF = some (.iaddi 0 3 1 0x1FFF) ∧ decode 0x0C189007 = some (.shiSar 0 3 4 7) := by decide
theorem test_decode_bitfield : decode 0x0E2120E5 = some (.bitfBfx 0 4 9 7 5) := by decide
theorem test_decode_imad : decode 0x1418828C = some (.imad 0 3 4 5 6) := by decide
theorem test_decode_compare : decode 0x1610C382 = some (.icmp 0 2 6 7 0 2) ∧ decode 0x18182100 = some (.pand 0 3 1 2) := by decide
theorem test_decode_select : decode 0x1A18828A = some (.sel 0 3 4 5 0 1 2) := by decide
theorem test_decode_locq : decode 0x1C3A8C00 = some (.locq 0 7 20) := by decide
theorem test_decode_uniform : decode 0x1E228000 = some (.uget 0 4 20) ∧ decode 0x1EA08100 = some (.uset 0 20 4) := by decide
theorem test_decode_float : decode 0xA020A302 = some (.fmul 1 4 5 6) ∧ decode 0xA0390480 = some (.fadd 1 7 8 9) := by decide
theorem test_decode_memory : decode 0x40529004 = some (.ld 0 10 20 4 0 4) := by decide
theorem test_decode_proposal : decode 0x30000000 = some (.propose 0) ∧ decode 0x30500401 = some (.pcntClr 0 10) := by decide
theorem test_decode_control : decode 0x34000002 = some (.bra 0 0 2) ∧ decode 0x3803C020 = some (.jr 30) := by decide
theorem test_decode_refuses_reserved : decode 0x7E000000 = none ∧ decode 0x02000060 = none := by decide

/-! ### A thread that issues one word -/

/-- The thread that issues: at slot 0 of the packet of log 1. -/
def thread : Thread := { tid := 0, pc := { pkt := 0x10000, slot := 0 } }

/-- The thread with one register set. -/
def withReg (n : Nat) (v : Word) (t : Thread) : Thread := { t with regs := t.regs.setIfInBounds n v }

/-- The group of one thread. -/
def grp (t : Thread) : Group := { fetchGroup State.reset with threads := [t] }

/-- The state in which the one thread of a group issues, in the context and the page of log 1. -/
def stG (g : Group) : State :=
  { placeWord State.reset 0 with agenda := [], groups := [g], issue := { gid := 1, pack := [0], tids := [0], pc0 := { pkt := 0x10000, slot := 0 }, next := { pkt := 0x10000, slot := 1 } } }

/-- As `stG`, for a thread. -/
def st (t : Thread) : State := stG (grp t)

/-- The lane of the thread. -/
def ln (t : Thread) : Lane := ⟨grp t, t, t⟩

/-- The state after the step in which a thread with given registers issues the word `w` first after reset. -/
def ran (w : Nat) (f : Thread → Thread) : Host.Outcome State Fault Refusal :=
  let s := State.reset.withFetchWord 32 w
  step { s with groups := s.groups.map fun g => { g with threads := g.threads.map f } }

/-- A register of the thread after a step. -/
def regOf (r : Host.Outcome State Fault Refusal) (n : Nat) : Option Word :=
  match r with
  | .next s => (s.groups.head?.bind fun g => g.threads.head?).map fun t => t.reg n
  | _ => none

/-- The whole thread after a step. -/
def threadOf (r : Host.Outcome State Fault Refusal) : Option Thread :=
  match r with
  | .next s => s.groups.head?.bind fun g => g.threads.head?
  | _ => none

/-! ### Single steps whose results the manual gives -/

/-- R105: A = 0x8844_2211 and B = 0x0000_2813 give D = 0x0022_FF88. -/
theorem test_bpick : regOf (ran 0x02188295 fun t => withReg 4 0x88442211 (withReg 5 0x2813 t)) 3 = some 0x0022FF88 := by decide +kernel

/-- R5, R104: a 64-bit sum carries from the even register into the odd one, modulo 2^64. -/
theorem test_iadd_pair :
    let r := ran 0x02414620 fun t => withReg 10 0xFFFFFFFF (withReg 11 0xFFFFFFFF (withReg 12 2 t))
    regOf r 8 = some 1 ∧ regOf r 9 = some 0 := by decide +kernel

/-- R107: IADDI of -1 wraps below zero. -/
theorem test_iaddi_wraps : regOf (ran 0x04183FFF id) 3 = some 0xFFFFFFFF := by decide +kernel

/-- R99, R146: with key 0 and ctr 0 RANDU gives 2^-24, 0x3380_0000, and ctr becomes 1. -/
theorem test_randu :
    let r := ran (encode (.randu 0 3)) id
    regOf r 3 = some 0x33800000 ∧ (threadOf r).map (·.ctr) = some 1 := by decide +kernel

/-- R120: CALL with an offset of five packets goes on 60 bytes further and links the next packet. -/
theorem test_call :
    let r := ran 0x36F00005 id
    regOf r 30 = some 0x1000C ∧ (threadOf r).map (·.pc) = some { pkt := 0x1003C, slot := 0 } := by decide +kernel

/-- R121: a register jump off the packet grid is Illegal Instruction, and the PC stays. -/
theorem test_jr_off_grid :
    let r := ran 0x3803C020 (withReg 30 0x10001)
    (threadOf r).map (·.st) = some (.parked .trap) ∧ (threadOf r).map (·.pc) = some { pkt := 0x10000, slot := 0 } := by decide +kernel

/-- R19, R44: w0 discards what is written, and the odd half of its pair keeps it. -/
theorem test_w0_discards :
    let r := ran (encode (.iadd 0 0 10 12 1)) fun t => withReg 10 5 (withReg 11 6 t)
    regOf r 0 = some 0 ∧ regOf r 1 = some 6 := by decide +kernel

/-- R113: W2P leaves p0 true. -/
theorem test_w2p : (threadOf (ran (encode (.w2p 0 4)) (withReg 4 0x54))).map (·.preds) = some 0x55 := by decide +kernel

/-- R387: TRAP parks the thread past its chain, and its message holds the code and the value of A. -/
theorem test_trap :
    (match ran 0x0000A211 (withReg 5 77) with
      | .next s => (s.mailboxes.flatMap (·.slots)).map fun m => (m.kind, m.code, m.aval, m.pc)
      | _ => []) = [(4, 17, 77, { pkt := 0x10000, slot := 1 })] := by decide +kernel

/-- R236: a store goes on its way and changes no byte as it issues; the access carries its address, size and data. -/
theorem test_store :
    (match ran (encode (.st 0 10 20 4 0 4)) fun t => withReg 10 0xABCD (withReg 20 0x10100 t) with
      | .next s => s.accs.map fun a => (a.va.toNat, a.size, a.data)
      | _ => []) = [(0x10110, 4, 0xABCD)] := by decide +kernel


/-! ### Hypotheses that can be met: encoding, and the words that act in the thread -/

theorem witness_DecodeOfEncode : (Instr.iadd 0 8 10 12 1).wellFormed = true ∧ (Instr.bra 7 1 0x1FFFFF).wellFormed = true := by decide
theorem witness_EncodeOfDecode : 0x02414620 < 2 ^ 32 ∧ decode 0x02414620 = some (.iadd 0 8 10 12 1) := by decide

/-- The hypotheses of a statement about what a word computes, met by the one thread of a group. -/
def Met (i : Instr) : Prop :=
  0 ∈ (st thread).issue.tids ∧ (st thread).issue.tids.Nodup ∧ (st thread).lane? 0 = some (ln thread) ∧ precheck i (ln thread) = none

/-- Every word of a list meets them. -/
theorem met (is : List Instr) (h : (is.all fun i => precheck i (ln thread) == none) = true) : ∀ i ∈ is, Met i := fun i m =>
  ⟨by decide, by decide, rfl, by simpa using List.all_eq_true.mp h i m⟩

/-- Every word of a list issues for that thread alone. -/
theorem issues (is : List Instr) (h : (is.all fun i => precheck i (ln thread) == none) = true) : ∀ i ∈ is, Issues i (ln thread) (st thread) := fun i m =>
  ⟨rfl, rfl, by simpa using List.all_eq_true.mp h i m⟩

theorem witness_IntegerPairWords : (1 : BitVec 2).toNat ≤ 1 ∧ ∀ i ∈ [Instr.iadd 0 62 10 12 1, .isub 0 3 4 5 0, .and 0 3 4 5 0, .or 0 3 4 5 0, .xor 0 3 4 5 0,
    .shl 0 3 4 5 0, .shr 0 3 4 5 0, .sar 0 62 4 6 1, .imullo 0 3 4 5 0], Met i :=
  ⟨by decide, met _ (by decide +kernel)⟩
theorem witness_IntegerUnaryWords : (0 : BitVec 5).toNat + ((31 : BitVec 5).toNat + 1) ≤ 32 ∧ ∀ i ∈ [Instr.imin 0 3 4 5, .imax 0 3 4 5, .iminu 0 3 4 5,
    .imaxu 0 3 4 5, .andn 0 3 4 5, .rotl 0 3 4 5, .imulhi 0 3 4 5, .imulhiu 0 3 4 5, .iaddsat 0 3 4 5, .isubsat 0 3 4 5, .bpick 0 3 4 5, .popc 0 3 4, .clz 0 3 4,
    .brev 0 3 4, .iabs 0 3 4, .iaddi 0 3 4 0x1FFF, .andi 0 3 4 5, .ori 0 3 4 5, .xori 0 3 4 5, .shiShl 0 3 4 31, .shiShr 0 3 4 5, .shiSar 0 3 4 5, .shiRotl 0 3 4 5,
    .bitfBfx 0 3 4 31 0, .bitfBfxs 0 3 4 31 0, .bitfBfi 0 3 4 31 0, .li 0 3 5, .lih 0 63 5], Met i :=
  ⟨by decide, met _ (by decide +kernel)⟩
theorem witness_MultiplyAddCompareSelectWords : (1 : BitVec 2).toNat ≤ 1 ∧ (9 : BitVec 5).toNat ≤ 9 ∧ ∀ i ∈ [Instr.nop, .imad 0 3 4 5 6, .imadW 0 2 4 5 6,
    .icmp 0 7 4 6 1 9, .uget 0 3 63, .sel 0 8 16 24 3 1 7], Met i :=
  ⟨by decide, by decide, met _ (by decide +kernel)⟩
theorem witness_PredicateWords : ∀ i ∈ [Instr.pand 0 3 1 2, .por 0 3 1 2, .pxor 0 3 1 2, .pnot 0 7 1, .p2w 0 3, .w2p 0 3], Met i := met _ (by decide +kernel)
theorem witness_FloatArithmeticWords : ∀ i ∈ [Instr.fadd 0 3 4 5, .dadd 0 2 4 6, .fsub 0 3 4 5, .dsub 0 2 4 6, .fmul 0 3 4 5, .dmul 0 2 4 6, .fmin 0 3 4 5,
    .dmin 0 2 4 6, .fmax 0 3 4 5, .dmax 0 2 4 6, .fminm 0 3 4 5, .dminm 0 2 4 6, .fmaxm 0 3 4 5, .dmaxm 0 2 4 6, .fcpys 0 3 4 5, .dcpys 0 2 4 6, .fscale 0 3 4 5,
    .dscale 0 2 4 6, .hadd2 0 3 4 5, .badd2 0 3 4 5, .hsub2 0 3 4 5, .bsub2 0 3 4 5, .hmul2 0 3 4 5, .bmul2 0 3 4 5, .hmin2 0 3 4 5, .bmin2 0 3 4 5, .hmax2 0 3 4 5,
    .bmax2 0 3 4 5, .ffma 0 3 4 5 6, .dfma 0 2 4 6 8, .hfma2 0 3 4 5 6, .bfma2 0 3 4 5 6], Met i := met _ (by decide +kernel)
theorem witness_FloatOneSourceAndCompareWords : ∀ i ∈ [Instr.fabs 0 3 4, .dabs 0 2 4, .fneg 0 3 4, .dneg 0 2 4, .fclass 0 3 4, .dclass 0 3 4, .frnd 0 3 4 5,
    .drnd 0 2 4 5, .cvt 0 3 4 0 0 0, .fcmp 0 7 4 5 15, .dcmp 0 7 4 6 15], Met i := met _ (by decide +kernel)
theorem witness_TranscendentalWords : ∀ i ∈ [Instr.rcp 0 3 4 0, .rcp 0 2 4 1, .rsq 0 3 4, .sqrt 0 2 4 1, .div 0 2 4 6 1, .exp2 0 3 4, .log2 0 3 4, .sin 0 3 4,
    .cos 0 3 4, .sincos 0 2 4, .sinpi 0 3 4, .cospi 0 3 4, .tanh 0 3 4], Met i := met _ (by decide +kernel)
theorem witness_ThreadStateWords : (4 : BitVec 3).toNat ≤ 4 ∧ ∀ i ∈ [Instr.setrm 4, .getflg 3, .clrflg 31, .rand 0 3, .randu 0 3, .pseed 0 4, .pcnt 0 2,
    .pcntClr 0 2], Met i := ⟨by decide, met _ (by decide +kernel)⟩

/-- The thread with its proposal open. -/
def proposing : Thread := { thread with popen := true }
theorem witness_ProposalWords :
    (Issues (.propose 0) (ln thread) (st thread) ∧ (ln thread).src.popen = false)
    ∧ (Issues (.accept 0 63 4) (ln proposing) (st proposing) ∧ (ln proposing).src.popen = true ∧ (st proposing).issue.dropD = false)
    ∧ (Issues (.discard 0) (ln proposing) (st proposing) ∧ (ln proposing).src.popen = true)
    ∧ (Issues (.propose 0) (ln proposing) (st proposing) ∧ (ln proposing).src.popen = true)
    ∧ (Issues (.accept 0 63 4) (ln thread) (st thread) ∧ (ln thread).src.popen = false)
    ∧ (Issues (.discard 0) (ln thread) (st thread) ∧ (ln thread).src.popen = false) := by
  repeat' apply And.intro
  all_goals first | decide +kernel | rfl

/-! ### Control transfer, waits, exchanges and system values -/

/-- A thread whose poisoned predicate 2 has not been consumed, and one whose register pairs hold code addresses. -/
def shady : Thread := { thread with ppoison := 4 }
def jumper : Thread := withReg 30 0x1000C (withReg 28 0x10001 thread)
theorem witness_ControlTransferWords :
    Issues (.bra 0 0 0x1FFFFF) (ln thread) (st thread)
    ∧ (Issues (.bra 2 1 5) (ln shady) (st shady) ∧ (2 : BitVec 3) ≠ 0 ∧ (ln shady).src.ppoison.getLsbD 2 = true ∧ (ln shady).src.skids = [])
    ∧ Issues (.call 30 5) (ln thread) (st thread)
    ∧ (Issues (.jr 30) (ln jumper) (st jumper) ∧ (ln jumper).src.anyPoison [30, 31] = false
        ∧ (BitVec.ofNat 64 ((ln jumper).src.group 30 2) - (ln jumper).g.cbase).toInt % 12 = 0)
    ∧ (Issues (.jalr 26 30) (ln jumper) (st jumper) ∧ (ln jumper).src.anyPoison [30, 31] = false
        ∧ (BitVec.ofNat 64 ((ln jumper).src.group 30 2) - (ln jumper).g.cbase).toInt % 12 = 0)
    ∧ (Issues (.jr 28) (ln jumper) (st jumper) ∧ (BitVec.ofNat 64 ((ln jumper).src.group 28 2) - (ln jumper).g.cbase).toInt % 12 ≠ 0)
    ∧ (Issues (.jalr 26 28) (ln jumper) (st jumper) ∧ (BitVec.ofNat 64 ((ln jumper).src.group 28 2) - (ln jumper).g.cbase).toInt % 12 ≠ 0) := by
  repeat' apply And.intro
  all_goals first | decide +kernel | rfl

/-- The thread with the answer that a waiting word's set, or its rendezvous, has given it. -/
def granted : Thread := { thread with grants := [(0, [5], none)] }
/-- A copy of a tandem group. -/
def copyOf (r : Role) (t : Thread) : Group := { grp t with role := r, partner := 2 }
def lnG (g : Group) (t : Thread) : Lane := ⟨g, t, t⟩
theorem witness_ExitTrapAndTandemWords :
    (∀ i ∈ [Instr.exit, .trap 5 255, .brk 7, .yield], Issues i (ln thread) (st thread)) ∧ (ln thread).g.role = .solo
    ∧ (∀ i ∈ [Instr.exit, .tbegin, .tchk, .tend], Issues i (ln granted) (st granted)) ∧ ((ln granted).grant (st granted)).isSome = true
    ∧ (∀ i ∈ [Instr.tbegin, .tchk, .tend], Issues i (ln thread) (st thread)) ∧ (ln thread).grant (st thread) = none
    ∧ (∀ i ∈ [Instr.tbegin, .tchk, .tend], Issues i (lnG (copyOf .leader thread) thread) (stG (copyOf .leader thread)))
    ∧ (lnG (copyOf .leader thread) thread).grant (stG (copyOf .leader thread)) = none :=
  ⟨issues _ (by decide +kernel), rfl, fun i h => ⟨rfl, rfl, by revert i; decide +kernel⟩, by decide +kernel, issues _ (by decide +kernel), by decide +kernel,
    fun i h => ⟨rfl, rfl, by revert i; decide +kernel⟩, by decide +kernel⟩

/-- The thread after one BAR.G, one that waits at the next, and their group. -/
def arriving : List Thread := [thread, { thread with tid := 1, st := .parked (.barG 1) }]
def barrier : Group := { grp thread with gsz := 2, threads := arriving }
/-- The span of the group: one core. -/
def span : Span :=
  { sid := 0, asid := 1, q := 0, tag := 0, prio := 0, x0 := 0, y0 := 0, w := 1, h := 1, n := 1, gsz := 1, alloc := 64, cbase := 0x10000, entry := 0, bars := true
    tiles := [], args := [], cw := 0, deal := .rect [0] [1], tick := 0 }
def stSpan : State := { st thread with spans := [span] }
/-- A device with a store of the thread outstanding, and with a matrix command and an unaccepted record of it. -/
def storing : Thread := { thread with nStore := 2, nLoad := 1 }
def mx : Mx := { id := 9, core := 0, gid := 1, asid := 1, fn := 2, oct := [], tids := [0] }
theorem witness_WaitingAndBarrierWords :
    (∀ i ∈ [Instr.wait 0 0 0 0, .mwait 0, .errq 3, .fence 0 2 1 1, .barG, .barS 0 0], Issues i (ln thread) (st thread))
    ∧ ((ln thread).src.nLoad = 0 ∧ (ln thread).src.nStore = 0 ∧ (ln thread).src.nCopy = 0 ∧ (ln thread).src.nTile = 0
        ∧ ((st thread).advanced (ln thread)).recordsAccepted 1 0 = true)
    ∧ (Issues (.wait 15 1 0 0) (ln storing) (st storing) ∧ ¬((ln storing).src.nStore ≤ (1 : BitVec 4).toNat) ∧ (1 : BitVec 4) ≠ 15)
    ∧ ((st thread).advanced (ln thread)).mxIdle 1 0 = true
    ∧ (Issues (.mwait 0) (ln thread) { st thread with mxs := [mx] } ∧ (({ st thread with mxs := [mx] } : State).advanced (ln thread)).mxIdle 1 0 = false)
    ∧ (Issues (.errq 3) (ln storing) (st storing) ∧ (ln storing).src.nStore ≠ 0)
    ∧ ({ st thread with tsc := 1 } : State).fenceDone (ln thread).g (ln thread).src { scope := 2, pa := 1, pb := 1, upto := 100 } = true
    ∧ (Issues (.fence 0 2 1 1) (ln storing) (st storing)
        ∧ ((st storing).advanced (ln storing)).fenceDone (ln storing).g (ln storing).src { scope := 2, pa := 1, pb := 1, upto := 100 } = false)
    ∧ (Issues .barG (ln granted) (st granted) ∧ Issues (.barS 0 0) (ln granted) (st granted) ∧ ((ln granted).grant (st granted)).isSome = true)
    ∧ (Issues .barG (ln thread) (st thread) ∧ (ln thread).grant (st thread) = none)
    ∧ (Issues (.barS 0 0) (ln thread) stSpan ∧ (ln thread).grant stSpan = none ∧ ∃ x, stSpan.span? 0 = some x ∧ 2 ^ (0 : BitVec 4).toNat ≤ x.w ∧ 2 ^ (0 : BitVec 4).toNat ≤ x.h)
    ∧ (Issues .barG (lnG barrier thread) (stG barrier) ∧ (lnG barrier thread).grant (stG barrier) = none ∧ (stG barrier).issue.alone = true
        ∧ (barrier.threads.map (·.tid)).Nodup ∧ (lnG barrier thread).cur.st = .ready
        ∧ (∀ u ∈ barrier.threads, u.tid ≠ 0 → u.st = .exited ∨ (u.st = .parked (.barG (thread.barG + 1)) ∧ u.barG = thread.barG))
        ∧ ∀ u ∈ barrier.threads, (stG barrier).sideLogHas 1 u.tid = false) := by
  refine ⟨issues _ (by decide +kernel), ?_⟩
  repeat' apply And.intro
  all_goals first | decide +kernel | rfl

/-- Members of one lane-exchange set, of which the second has arrived. -/
def member (op : Nat) : Group := { grp thread with gsz := 2, threads := [thread, { thread with tid := 1, st := .parked (.converge op 3 5 0 false) }] }
theorem witness_LaneExchangeWords : ((ln granted).grant (st granted) = some [5]) ∧ ∀ i ∈ [Instr.xchPair 0 3 4, .xchQx1 0 3 4, .xchQx2 0 3 4, .shfl 0 3 4 5, .shflx 0 3 4 5,
    .voteany 0 3 4, .voteall 0 3 4, .ballot 0 2 4, .redadd 0 3 4, .redmin 0 3 4, .redmax 0 3 4], Issues i (ln granted) (st granted) :=
  ⟨by decide +kernel, fun i h => ⟨rfl, rfl, by revert i; decide +kernel⟩⟩
/-- The set of two, at a word of operation `op`, completes when the first thread arrives. -/
def Gathers (op : Nat) (i : Instr) : Prop :=
  Issues i (lnG (member op) thread) (stG (member op)) ∧ ∃ g, ((stG (member op)).stopLane 0 (.park (.converge op 3 0 0 false))).group? 1 = some g
    ∧ ∀ u ∈ g.setOf op 0, u.st = .exited ∨ (u.pc = thread.pc ∧ u.arrived.map (·.1) = some op)
theorem witness_LaneExchangeCompletes :
    ((lnG (member 0) thread).grant (stG (member 0)) = none ∧ (stG (member 0)).issue.alone = true ∧ (member 0).role = .solo ∧ ((member 0).threads.map (·.tid)).Nodup)
    ∧ Gathers 0 (.xchPair 0 3 4) ∧ Gathers 1 (.xchQx1 0 3 4) ∧ Gathers 2 (.xchQx2 0 3 4) ∧ Gathers 3 (.shfl 0 3 4 5) ∧ Gathers 4 (.shflx 0 3 4 5)
    ∧ Gathers 5 (.voteany 0 3 4) ∧ Gathers 6 (.voteall 0 3 4) ∧ Gathers 7 (.ballot 0 2 4) ∧ Gathers 8 (.redadd 0 3 4) ∧ Gathers 9 (.redmin 0 3 4)
    ∧ Gathers 10 (.redmax 0 3 4) := by
  refine ⟨by decide +kernel, ?_, ?_, ?_, ?_, ?_, ?_, ?_, ?_, ?_, ?_, ?_⟩
  all_goals exact ⟨⟨rfl, rfl, by decide +kernel⟩, _, rfl, by decide +kernel⟩

theorem witness_SystemAndUniformWords :
    (∀ i ∈ [Instr.uset 0 63 4, .uset 0 0 4, .sysv 0 3 0, .sysv 0 2 11, .locq 0 3 4], Issues i (ln thread) (st thread))
    ∧ (st thread).issue.usetDone = false ∧ (63 : BitVec 6) ≠ 0
    ∧ Issues (.uset 0 63 4) (ln thread) { st thread with issue := { (st thread).issue with usetDone := true } }
    ∧ (ln thread).g.role = .solo ∧ (ln thread).consume [4, 5] = .ok false :=
  ⟨issues _ (by decide +kernel), by decide, by decide, ⟨rfl, rfl, by decide +kernel⟩, rfl, rfl⟩

/-! ### Memory words -/

/-- The thread with an address of its page in w20 and w21, and one off by one. -/
def addressed : Thread := withReg 20 0x10100 thread
def misaligned : Thread := withReg 20 0x10101 thread
/-- A second page, whose cells are futures. -/
def futurePage : TlbEntry :=
  { unit := 0, asid := 1, page := 2, sc := 0, vpn := 2, entry := BitVec.ofNat 128 (2 * 2 ^ 80 + 1 * 2 ^ 72 + 15 * 2 ^ 66 + 1 * 2 ^ 48 + 1 * 2 ^ 44 + 2) }
def stF (t : Thread) : State := { st t with tlb := futurePage :: (st t).tlb }
def atCell : Thread := withReg 20 0x20100 thread

/-- What the statement about an access asks of the state, for an access of a given kind, size, alignment and class. -/
def Accesses (i : Instr) (q : Req) : Prop :=
  let t := if q.ea < 0x20000 then addressed else atCell
  Issues i (ln t) (stF t) ∧ (ln t).g.role = .solo ∧ (ln t).cur.outstanding q.cls < 63 ∧ (ln t).consume q.addrRegs = .ok false
  ∧ (ln t).consume q.dataRegs = .ok false ∧ q.ea % q.align = 0 ∧ (q.noret = true → (stF t).sideLogHas (ln t).g.gid (ln t).cur.tid = false)
  ∧ ∃ ps, ((stF t).advanced (ln t)).translateReq 0 1 q = .ok ps
theorem witness_MemoryAccessWords_1 : (0x1D : BitVec 5).toNat % 16 ≤ 13 ∧ (7 : BitVec 3).toNat ≤ 7
    ∧ Accesses (.ld 0 8 20 7 0 0) { kind := .load false, ea := 0x10100, size := 32, dst := 8, dcnt := 8, need := { r := true }, facc := 0, addrRegs := [20, 21] }
    ∧ Accesses (.st 0 10 20 4 0 0x80)
        { kind := .store, ea := 0xFF00 + 0x200, size := 4, cls := 1, noret := true, need := { w := true }, facc := 1, addrRegs := [20, 21], dataRegs := [10] }
    ∧ Accesses (.atom 0 8 20 10 0 29) { kind := .rmw 13, ea := 0x10100, size := 8, scope := 0, need := { r := true, w := true }, facc := 2, align := 8, addrRegs := [20, 21] }
    ∧ Accesses (.red 0 20 10 2 0) { kind := .rmw 0, ea := 0x10100, size := 4, cls := 1, noret := true, need := { w := true }, facc := 2, align := 4, addrRegs := [20, 21] } := by
  refine ⟨by decide, by decide, ?_, ?_, ?_, ?_⟩
  all_goals exact ⟨⟨rfl, rfl, by decide +kernel⟩, rfl, by decide +kernel, rfl, rfl, by decide +kernel, by decide +kernel, _, rfl⟩
theorem witness_MemoryAccessWords_2 :
    Accesses (.cas 0 8 20 12 1 1) { kind := .cas, ea := 0x10100, size := 8, need := { r := true, w := true }, facc := 2, align := 8, addrRegs := [20, 21] }
    ∧ Accesses (.amax 0 20 10 2) { kind := .amax, ea := 0x10100, size := 4, cls := 1, noret := true, need := { w := true }, facc := 2, align := 4, addrRegs := [20, 21] }
    ∧ Accesses (.amaxrs 0 8 20 2) { kind := .amaxrs, ea := 0x10100, size := 4, need := { r := true, w := true }, facc := 2, align := 4, addrRegs := [20, 21] }
    ∧ Accesses (.stFut 0 20 10) { kind := .stFut, ea := 0x20100, size := 8, cls := 1, noret := true, need := { w := true }, facc := 1, align := 8, addrRegs := [20, 21] }
    ∧ Accesses (.clrFut 0 20) { kind := .clrFut, ea := 0x20100, size := 8, cls := 1, noret := true, need := { w := true }, facc := 1, align := 8, addrRegs := [20, 21] } := by
  refine ⟨?_, ?_, ?_, ?_, ?_⟩
  all_goals exact ⟨⟨rfl, rfl, by decide +kernel⟩, rfl, by decide +kernel, rfl, rfl, by decide +kernel, by decide +kernel, _, rfl⟩
theorem witness_MemoryAccessWords_3 :
    (ln misaligned).cur.nLoad < 63 ∧ (ln misaligned).cur.nStore < 63 ∧ (ln misaligned).src.anyPoison [20, 21] = false ∧ (ln misaligned).g.role = .solo
    ∧ (ln misaligned).src.anyPoison ((List.range 8).map (10 + ·)) = false ∧ (ln misaligned).src.group 20 2 % 4 ≠ 0
    ∧ ∀ i ∈ [Instr.atom 0 8 20 10 0 0, .red 0 20 10 0 0, .cas 0 8 20 12 0 0, .amax 0 20 10 0, .amaxrs 0 8 20 0, .stFut 0 20 10, .clrFut 0 20, .ldFut 0 8 20 11],
        Issues i (ln misaligned) (st misaligned) :=
  ⟨by decide, by decide, by decide, by decide, by decide, by decide, fun i h => ⟨rfl, rfl, by revert i; decide +kernel⟩⟩

theorem witness_FutureLoadAndMonitorWords :
    (∃ ps, Issues (.ldFut 0 8 20 11) (ln addressed) (stF addressed) ∧ (ln addressed).cur.nLoad < 63 ∧ (ln addressed).consume [20, 21] = .ok false ∧ 0x10100 % 8 = 0
        ∧ ((stF addressed).advanced (ln addressed)).translateAll 0 1 1 0x10100 8 { r := true } = .ok ps ∧ ps.any (fun p => !p.1.fut) = true)
    ∧ (∃ ps, Issues (.ldFut 0 8 20 11) (ln atCell) (stF atCell) ∧ ((stF atCell).advanced (ln atCell)).translateAll 0 1 1 0x20100 8 { r := true } = .ok ps
        ∧ ps.any (fun p => !p.1.fut) = false ∧ (ln atCell).cur.raised = 0)
    ∧ (∃ x ps, Issues (.waitu 0 8 20 10 0 0) (ln atCell) (stF atCell) ∧ (ln atCell).consume [10, 11] = .ok false
        ∧ ((stF atCell).advanced (ln atCell)).translateAll 0 1 1 0x20100 4 { r := true } = .ok ((x, 4) :: ps) ∧ (x.host.isSome || x.dev || x.fut) = true)
    ∧ (∃ x ps, Issues (.waitu 0 8 20 12 7 1) (ln addressed) (stF addressed) ∧ (ln addressed).consume [12, 13, 14] = .ok false
        ∧ ((stF addressed).advanced (ln addressed)).translateAll 0 1 1 0x10100 8 { r := true } = .ok ((x, 8) :: ps) ∧ (x.host.isSome || x.dev || x.fut) = false) :=
  ⟨⟨_, ⟨rfl, rfl, by decide +kernel⟩, by decide, rfl, rfl, rfl, by decide +kernel⟩, ⟨_, ⟨rfl, rfl, by decide +kernel⟩, rfl, by decide +kernel, by decide +kernel⟩,
    ⟨_, _, ⟨rfl, rfl, by decide +kernel⟩, rfl, rfl, by decide +kernel⟩, ⟨_, _, ⟨rfl, rfl, by decide +kernel⟩, rfl, rfl, by decide +kernel⟩⟩

/-! ### Tiles -/

/-- What evaluates to a success has its value. -/
theorem ok_of {ε α : Type} {x : Except ε α} (h : (match x with | .ok _ => true | .error _ => false) = true) : ∃ a, x = .ok a := by
  cases x with
  | ok a => exact ⟨a, rfl⟩
  | error => cases h

/-- A tile of four rows of eight words, the thread that names its last word, the group that holds it, and the state. -/
def tile : Tile := { uid := 7, asid := 1, sid := 0, level := 0, core := 0, die := 1, rows := 4, cols := 8, ecode := 0, planes := 0, words := [(31, 5)] }
def naming : Thread := withReg 4 3 (withReg 5 7 thread)
def holds (t : Thread) : Group := { grp t with handles := [(1, 7)] }
def stT (x : Tile) (t : Thread) : State := { stG (holds t) with tiles := [x] }
def full (x : Tile) : Tile := { x with full := [31] }
theorem witness_TileWords :
    (∀ i ∈ [Instr.ldt 0 3 1 4 5, .ldtWf 0 3 1 4 5, .ldtWfe 0 3 1 4 5, .stt 0 3 1 4 5, .sttWe 0 3 1 4 5, .sttRaw 0 3 1 4 5], ∀ x ∈ [tile, full tile,
        { full tile with poison := [31] }, { tile with rows := 3 }, { tile with cols := 7 }, { tile with level := 1 }, { tile with uid := 8 }],
        precheck i (lnG (holds naming) naming) = none ∧ (lnG (holds naming) naming).grant (stT x naming) = none)
    ∧ (∀ x, (stT x naming).lane? 0 = some (lnG (holds naming) naming)) ∧ naming.nLoad < 63 ∧ naming.nStore < 63
    ∧ (lnG (holds naming) naming).consume [4, 5] = .ok false
    ∧ (∀ x ∈ [tile, full tile, { full tile with poison := [31] }], ((stT x naming).advanced (lnG (holds naming) naming)).handle? (holds naming) 1 = some x
        ∧ x.level ≠ 1 ∧ (naming.reg 4).toNat < x.rows ∧ (naming.reg 5).toNat < x.rw ∧ x.unfilled 3 = false)
    ∧ (tile.poison.contains 31 = false ∧ tile.full.contains 31 = false ∧ (full tile).full.contains 31 = true ∧ (naming.reg 4).toNat * tile.rw + (naming.reg 5).toNat = 31)
    ∧ ({ stT { tile with level := 2 } naming with tsc := 1 } : State).fenceDone (holds naming) naming { scope := 1, pa := 1, pb := 1, upto := 100 } = true
    ∧ ((stT tile naming).advanced (lnG (holds naming) naming)).fenceDone (holds naming) naming { scope := 0, pa := 1, pb := 1, upto := 100 } = true
    ∧ ((stT { tile with uid := 8 } naming).advanced (lnG (holds naming) naming)).handle? (holds naming) 1 = none
    ∧ (∀ x ∈ [{ tile with rows := 3 }, { tile with cols := 7 }, { tile with level := 1 }],
        ((stT x naming).advanced (lnG (holds naming) naming)).handle? (holds naming) 1 = some x)
    ∧ ({ tile with rows := 3 } : Tile).rows ≤ (naming.reg 4).toNat ∧ ({ tile with cols := 7 } : Tile).rw ≤ (naming.reg 5).toNat := by
  refine ⟨by decide +kernel, fun _ => rfl, by decide, by decide, rfl, ?_⟩
  repeat' apply And.intro
  all_goals decide +kernel

/-- A tile whose full word the thread waits to take, and that thread. -/
def taking : Thread := { thread with st := .parked (.tileWord 7 31 .fullEmpty 3) }
theorem witness_TileWordReadAfterWrite : (stT (full tile) taking).tile? 7 = some (full tile) ∧ (full tile).full.contains 31 = true
    ∧ (stT (full tile) taking).wordWaiters 7 31 = [(1, 0, 0, .fullEmpty, 3)] := by decide +kernel

/-- Rings of two slots: one with a reserved sequence of each role, and one with what the producer has released. -/
def ringed : Tile := { tile with ring := some { slots := 2, pres := 1, heldP := [0] } }
def filledRing : Tile := { tile with ring := some { slots := 2, pres := 1, prod := 1 } }
def bound : Tile := { tile with bind := some (0x10000, 32) }
/-- Threads with the operands of TBIND, TARRT and TALLOC at w20, and of TRING at w4. -/
def binding : Thread := withReg 20 0x10100 (withReg 22 32 thread)
def tooFar : Thread := withReg 21 0x80000000 thread
def shape : Thread := withReg 20 0x00080004 thread
def two : Thread := withReg 20 2 thread
theorem witness_TileManagementWords_1 :
    (Issues (.talloc 0 3 1 20) (ln shape) (st shape) ∧ ((st shape).advanced (ln shape)).group? 1 = some { grp shape with threads := [shape.advance (st shape).issue] })
    ∧ (∀ i ∈ [Instr.tfree 0 3 1, .tflush 0 3 1, .tbind 0 3 1 20, .tring 0 3 1 20, .tsetfe 0 3 1 20, .tarrt 0 3 1 20], ∀ t ∈ [thread, binding, tooFar, two],
        precheck i (lnG (holds t) t) = none ∧ precheck i (ln t) = none ∧ t.nTile < 63)
    ∧ (∀ x t, (stT x t).issue.tids = [t.tid] → t.tid = 0 → (stT x t).lane? 0 = some (lnG (holds t) t))
    ∧ (∀ x ∈ [tile, bound], ∀ t ∈ [thread, binding, tooFar, two], ((stT x t).advanced (lnG (holds t) t)).handle? (holds t) 1 = some x
        ∧ ((stT x t).advanced (lnG (holds t) t)).tileBusy 7 = false)
    ∧ ((st thread).advanced (ln thread)).handle? (grp thread) 1 = none
    ∧ (bound.bind ≠ none ∧ tile.bind = none)
    ∧ (tile.ring = none ∧ tile.level ≠ 1 ∧ binding.group 20 2 % 4 = 0 ∧ (binding.reg 22).toNat % 4 = 0 ∧ tile.rw * 4 ≤ (binding.reg 22).toNat ∧ binding.reg 23 = 0)
    ∧ ¬(tile.rw * 4 ≤ (thread.reg 22).toNat)
    ∧ ((two.reg 20).toNat = 2 ∧ tile.rows % 2 = 0) ∧ (thread.reg 20).toNat ≤ 1
    ∧ ¬((binding.reg 20).toNat = 0 ∨ (2 ≤ (binding.reg 20).toNat ∧ (binding.reg 20).toNat ≤ 64 ∧ tile.rows % (binding.reg 20).toNat = 0))
    ∧ (({ stT tile binding with mxs := [{ mx with tiles := [7] }] } : State).advanced (lnG (holds binding) binding)).tileBusy 7 = true
    ∧ binding.group 20 2 < 2 ^ 63 ∧ 2 ^ 63 ≤ tooFar.group 20 2 := by
  refine ⟨⟨⟨rfl, rfl, by decide +kernel⟩, rfl⟩, by decide +kernel, fun x t _ h => ?_, by and_intros <;> decide +kernel⟩
  simp [State.lane?, State.group?, stT, stG, holds, grp, fetchGroup, Group.thread?, State.reset, placeWord, lnG, h]
theorem witness_TileManagementWords_2 :
    (st thread).group? 1 = some (grp thread) ∧ (grp thread).handles.any (fun p => p.1 == 1) = false ∧ (0x00080004 : Word).toNat % 65536 ≠ 0
    ∧ (0x00080004 : Word).toNat / 65536 ≠ 0 ∧ (0x104 : Word).toNat % 16 ≤ 4 ∧ (0x104 : Word).toNat / 16 % 16 = 0 ∧ (0x104 : Word).toNat / 256 % 4 ≤ 1
    ∧ (0x104 : Word).toNat / 1024 = 0 ∧ (st thread).tileUse 1 0 + (4 * rowWords 8 4 0 * 4 + 255) / 256 * 256 ≤ 1024 * 1024 := by decide +kernel

/-- Roles and generations at w20 and w21. -/
def consumer : Thread := withReg 20 1 thread
def later : Thread := withReg 20 0x80000000 thread
theorem witness_TileManagementWords_3 :
    (∀ i ∈ [Instr.waita 0 3 1 20, .tinfo 0 4 1 20, .racq 0 2 1 20, .rrel 0 3 1 20], ∀ t ∈ [thread, consumer, later], precheck i (lnG (holds t) t) = none
        ∧ (lnG (holds t) t).grant (stT ringed t) = none ∧ t.nTile < 63)
    ∧ (∀ x ∈ [tile, ringed, filledRing, { tile with count := 2 ^ 63 + 5 }], ∀ t ∈ [thread, consumer, later],
        ((stT x t).advanced (lnG (holds t) t)).handle? (holds t) 1 = some x)
    ∧ ((st thread).advanced (ln thread)).handle? (grp thread) 1 = none
    ∧ (tile.gen - thread.reg 20).toNat < 2 ^ 31 ∧ ¬((tile.gen - consumer.reg 20).toNat < 2 ^ 31)
    ∧ ({ tile with count := 2 ^ 63 + 5 } : Tile).count.getLsbD 63 = true ∧ tile.count.getLsbD 63 = false
    ∧ (thread.reg 20 = 0 ∧ ((1 : Word) - 0).toNat < 2)
    ∧ (consumer.reg 20 = 1 ∧ 1 ≤ ((1 : Word) - 0).toNat ∧ ((1 : Word) - 0).toNat < 2 ^ 31)
    ∧ tile.ring = none ∧ ({ slots := 2, pres := 1, heldP := [0] } : Ring).release false 0 = some { slots := 2, pres := 1, prod := 1 }
    ∧ ({ slots := 2, pres := 1, prod := 1 } : Ring).heldP.contains 0 = false := by decide +kernel

/-! ### Engine commands -/

/-- The group that holds the rein of its core, with the state. -/
def reined (h : Option Nat) (q : List Nat) : State := { st thread with cores := [{ id := 0, rein := h, reinQ := q }] }
/-- An exchange with one neighbour, with its context; the neighbour's step is `n`. -/
def exchange (nn : Nat) (n : Word) : Exch := { n := 0, self := 5, nn := nn, lead := 2, rlist := 0, rlen := 0, nbr := [n] }
def linked (e : Exch) (s : State) : State := { s with contexts := s.contexts.map fun c => { c with exch := [e] } }
/-- The group with a uniform register set. -/
def withUreg (n : Nat) (v : Word) : Group := { grp thread with uregs := (grp thread).uregs.setIfInBounds n v }
theorem witness_EngineCommandWords_1 :
    (∀ i ∈ [Instr.copy 0 8 1 2, .copyTl 0 8 1, .copyLt 0 8 1, .gather 0 8 1 2, .scatter 0 8 1 2, .tidset 0 56 255, .tidget 0 8 1, .mloop 0 8, .mdrain 0 8 1, .mzero 0 8,
        .take 0, .pass 0, .coll 0 8 1 2, .halo 0 8, .step 0 8, .stepwait 0 8], Issues i (ln thread) (st thread))
    ∧ (∀ h q, (reined h q).lane? 0 = some (ln thread))
    ∧ (∀ c ∈ [0, 1, 2, 3], (ln thread).cur.outstanding c < 63) ∧ (ln thread).consumeOct 8 = .ok false ∧ (ln thread).consumeOct 56 = .ok false
    ∧ (st thread).issue.cmd = none
    ∧ (((st thread).advanced (ln thread)).copies.filter fun c => c.core == 0 && c.gid.isSome).length < 128
    ∧ ((((reined (some 1) []).advanced (ln thread)).mxs.filter fun m => m.gid == 1).length < 4 ∧ (((reined (some 1) []).advanced (ln thread)).group? 1).isSome = true
        ∧ (((reined (some 1) []).advanced (ln thread)).core 0).rein = some 1 ∧ (((reined (some 1) []).advanced (ln thread)).core 0).reinQ = [])
    ∧ (((st thread).advanced (ln thread)).core 0).rein = none ∧ (((st thread).advanced (ln thread)).core 0).reinQ = []
    ∧ (((reined (some 9) []).advanced (ln thread)).core 0).rein ≠ some 1 ∧ (((reined (some 9) []).advanced (ln thread)).core 0).rein ≠ none
    ∧ (((reined (some 1) [9]).advanced (ln thread)).core 0).reinQ = [9] :=
  ⟨issues _ (by decide +kernel), fun _ _ => rfl, by decide, rfl, rfl, by decide, by and_intros <;> decide +kernel⟩
theorem witness_EngineCommandWords_2 :
    (∀ g ∈ [grp thread, withUreg 8 64, withUreg 9 1], precheck (.stepwait 0 8) (lnG g thread) = none ∧ (lnG g thread).grant (stG g) = none
        ∧ (stG g).issue.tids = [0])
    ∧ (∀ e, (linked e (st thread)).lane? 0 = some (ln thread)) ∧ (lnG (withUreg 8 64) thread).consumeOct 8 = .ok false
    ∧ ((ln thread).g.ureg 8).toNat < 64 ∧ ((List.range 8).map fun n => (ln thread).g.ureg (8 + n)).drop 1 = List.replicate 7 0
    ∧ (∀ e ∈ [exchange 1 3, exchange 1 2, exchange 0 0], ((linked e (st thread)).advanced (ln thread)).exch? 1 0 = some e)
    ∧ (∀ m ∈ (exchange 1 3).nbr.take 1, ((5 : Word) - m).toInt ≤ 2) ∧ (∃ m ∈ (exchange 1 2).nbr.take 1, ¬((5 : Word) - m).toInt ≤ 2)
    ∧ 64 ≤ ((withUreg 8 64).ureg 8).toNat ∧ ((withUreg 9 1).ureg 8).toNat < 64 ∧ ((List.range 8).map fun n => (withUreg 9 1).ureg (8 + n)).drop 1 ≠ List.replicate 7 0 :=
  ⟨by decide +kernel, fun _ => rfl, rfl, by decide +kernel, by decide +kernel, by decide +kernel, fun m h => by cases List.mem_singleton.mp h; decide, ⟨2, by decide, by decide⟩, by decide +kernel, by decide +kernel,
    by decide +kernel⟩

/-! ### The field unit -/

/-- A tree descriptor and a grid descriptor at 0x10200 and 0x10240 of the thread's page, as bytes and as what they bind. -/
def treeBytes : List Byte :=
  natToBytes 8 0x10080 ++ natToBytes 4 (10 * 1024 + 10 * 32) ++ natToBytes 12 0 ++ natToBytes 8 0x11000 ++ natToBytes 8 0x12000
    ++ natToBytes 4 0x3F800000 ++ natToBytes 4 0x3F800000 ++ natToBytes 4 0x3F800000 ++ natToBytes 12 0
def gridBytes : List Byte :=
  natToBytes 4 (10 * 4096) ++ natToBytes 4 0 ++ natToBytes 8 0x11000 ++ natToBytes 8 0x12000 ++ natToBytes 8 0x14000 ++ natToBytes 2 16 ++ natToBytes 30 0
def tree : TreeDesc :=
  { addr := 0x10200, root := 0x10080, rdonly := false, vfmt := 0, lbits := 10, nbits := 10, rbits := 0, bg := 0, nodep := 0x11000, leafp := 0x12000
    sc := [0x3F800000, 0x3F800000, 0x3F800000], off := [0, 0, 0] }
def grid : GridDesc :=
  { addr := 0x10240, sh := 0, t := 10, fc := 0, d3 := false, lm1 := 0, feat := 0x11000, grad := 0x12000, part := 0x14000, nres := 16 :: List.replicate 15 0 }
/-- What evaluates to a success at every entry of a list has a value at each. -/
theorem all_ok {α ε β : Type} {f : α → Except ε β} {l : List α} (h : (l.all fun x => match f x with | .ok _ => true | .error _ => false) = true) :
    ∀ x ∈ l, ∃ r, f x = .ok r := fun x m => ok_of (List.all_eq_true.mp h x m)
theorem witness_descriptors : parseTree 0x10200 treeBytes = some tree ∧ parseGrid 0x10240 gridBytes = some grid := by decide +kernel
def fieldGroup (t : Thread) : Group := { grp t with walkers := [(1, tree)], grids := [(1, grid)] }
def stV (t : Thread) : State := (stG (fieldGroup t)).setPhysBytes 0x10200 (treeBytes ++ gridBytes)
/-- Threads with the addresses of the descriptors, and one byte past the first. -/
def binder : Thread := withReg 20 0x10200 (withReg 22 0x10240 (withReg 24 0x10201 thread))
/-- The thread with upstream gradients of one in w8. -/
def upstream : Thread := withReg 8 0x3C003C00 thread
theorem witness_FieldReadAndBindWords_1 :
    (∀ i ∈ [Instr.vld 0 8 20 1, .vsten7 0 8 20 1, .vsamp 0 8 20 1, .vray 0 8 20 1, .vleaf 0 8 1, .hgrid 0 8 20 1 0, .vld 0 8 20 0, .vbind 0 3 20 1, .hbind 0 3 22 1],
        precheck i (lnG (fieldGroup binder) binder) = none ∧ precheck i (lnG (fieldGroup thread) thread) = none)
    ∧ (∀ x : State, x.groups = [fieldGroup thread] → x.issue = (st thread).issue → x.lane? 0 = some (lnG (fieldGroup thread) thread))
    ∧ (stV thread).groups = [fieldGroup thread] ∧ (stV thread).issue = (st thread).issue ∧ (fieldGroup thread).role = .solo
    ∧ (∀ c ∈ [0, 1], thread.outstanding c < 63) ∧ (stV thread).behindAlloc (lnG (fieldGroup thread) thread) = false
    ∧ (lnG (fieldGroup thread) thread).consume ((List.range 8).map (20 + ·)) = .ok false ∧ (lnG (fieldGroup thread) thread).consume [] = .ok false
    ∧ (∃ k, ((stV thread).advanced (lnG (fieldGroup thread) thread)).lookup (lnG (fieldGroup thread) thread).reader tree (voxOf 0 0 0) = .ok k)
    ∧ (∃ r, vstenEffect 20 (lnG (fieldGroup thread) thread) tree ((stV thread).advanced (lnG (fieldGroup thread) thread)) = .ok r)
    ∧ (∃ r, vsampEffect 20 (lnG (fieldGroup thread) thread) tree ((stV thread).advanced (lnG (fieldGroup thread) thread)) = .ok r)
    ∧ (∃ r, vrayEffect 20 (lnG (fieldGroup thread) thread) tree ((stV thread).advanced (lnG (fieldGroup thread) thread)) = .ok r)
    ∧ (∃ r, gridEffect 20 1 0 (lnG (fieldGroup thread) thread) ((stV thread).advanced (lnG (fieldGroup thread) thread)) = .ok r) := by
  refine ⟨by decide +kernel, fun x h1 h2 => by simp [State.lane?, State.group?, h1, h2]; rfl, by decide +kernel, by decide +kernel, by decide, by decide, by decide +kernel, rfl, rfl, ?_⟩
  and_intros <;> exact ok_of (by decide +kernel)
theorem witness_FieldReadAndBindWords_2 :
    (stV binder).issue.bound = none ∧ binder.group 20 2 = 0x10200 ∧ binder.group 22 2 = 0x10240 ∧ binder.group 26 2 = 0 ∧ binder.group 24 2 % 64 ≠ 0
    ∧ (lnG (fieldGroup binder) binder).consume [20, 21] = .ok false
    ∧ (stV binder).lane? ((stV binder).issue.pack.foldl min 0) = some (lnG (fieldGroup binder) binder) ∧ binder.anyPoison [20, 21] = false
    ∧ (match (stV binder).rd (lnG (fieldGroup binder) binder).reader 0x10200 64 with | .ok (b, false) => b == treeBytes | _ => false) = true
    ∧ (match (stV binder).rd (lnG (fieldGroup binder) binder).reader 0x10240 64 with | .ok (b, false) => b == gridBytes | _ => false) = true := by
  and_intros <;> first | rfl | decide +kernel

theorem witness_FieldEditAndAllocatorWords :
    (∀ i ∈ [Instr.vactClr 0 3 20 1, .vactSet 0 3 20 1, .vst 0 3 20 1, .vins 0 2 20 1, .vdel 0 3 20 1, .vins 0 2 20 0, .vdel 0 3 20 0, .hgrad 0 8 20 1 0, .hgradd 0 8 20 1 0,
        .hgrad 0 8 20 0 0, .hgradd 0 8 20 0 0], precheck i (lnG (fieldGroup upstream) upstream) = none)
    ∧ (stV upstream).lane? 0 = some (lnG (fieldGroup upstream) upstream) ∧ upstream.nLoad < 63 ∧ upstream.nStore < 63
    ∧ ((stV upstream).advanced (lnG (fieldGroup upstream) upstream)).behindAlloc (lnG (fieldGroup upstream) upstream) = false
    ∧ (lnG (fieldGroup upstream) upstream).consume [20, 21, 22] = .ok false ∧ (lnG (fieldGroup upstream) upstream).consume ((List.range 8).map (8 + ·)) = .ok false
    ∧ (lnG (fieldGroup upstream) upstream).consume [24, 25] = .ok false
    ∧ tree.rdonly = false ∧ (∃ k, ((stV upstream).advanced (lnG (fieldGroup upstream) upstream)).lookup (lnG (fieldGroup upstream) upstream).reader tree (voxOf 0 0 0) = .ok k)
    ∧ ((fieldGroup upstream).walkers.find? fun p => p.1 == 1).map (·.2) = some tree ∧ ((fieldGroup upstream).walkers.find? fun p => p.1 == 0).map (·.2) = none
    ∧ ((fieldGroup upstream).grids.find? fun p => p.1 == 1).map (·.2) = some grid ∧ ((fieldGroup upstream).grids.find? fun p => p.1 == 0).map (·.2) = none
    ∧ grid.grad ≠ 0 ∧ grid.part ≠ 0
    ∧ (contributions grid 0 ((lnG (fieldGroup upstream) upstream).nums 20 3) (upstream.words 8 8) none).1 ≠ []
    ∧ (∀ x ∈ (contributions grid 0 ((lnG (fieldGroup upstream) upstream).nums 20 3) (upstream.words 8 8) none).1,
        ∃ r, ((stV upstream).advanced (lnG (fieldGroup upstream) upstream)).addTarget 0 1 x.va = .ok r)
    ∧ (∀ x ∈ (contributions grid 0 ((lnG (fieldGroup upstream) upstream).nums 20 3) (upstream.words 8 8) (some 0x14000)).1,
        ∃ r, ((stV upstream).advanced (lnG (fieldGroup upstream) upstream)).addTarget 0 1 x.va = .ok r) := by
  refine ⟨by decide +kernel, rfl, by decide, by decide, by decide +kernel, rfl, rfl, rfl, rfl, ok_of (by decide +kernel), ?_⟩
  and_intros <;> first | decide +kernel | exact all_ok (by decide +kernel)

/-! ### Requests to the command processor -/

/-- Octets whose table is misaligned, and whose result address is. -/
def badTable : Group := withUreg 8 1
def badResult : Group := withUreg 10 1
/-- The thread asks for a slot of edge 0 in a graph whose node 0 produces it; the graph has room. -/
def asker : Thread := { thread with st := .asking false 0 0x10100 }
def graph : Graph :=
  { id := 3, asid := 1, q := 0, cmd := none, tag := 0, prio := 0, nodes := [], edges := [{ n := 0, slots := 1, prod := 0, cons := 1 }], rsize := 64, back := 0x10800
    rcount := 1, cw := 0 }
def stGraph : State := { st asker with spans := [{ span with node := some { graph := 3, node := 0, succ := 0 } }], graphs := [graph] }
/-- The control die's own translation of the thread's page. -/
def ctlPage : TlbEntry := { (placeWord State.reset 0).tlb.head?.getD futurePage with unit := 2000 }
def stAsk : State := { stGraph with tlb := [ctlPage] }
/-- The thread's COMMIT waits for the completion time of a write. -/
def committing : Thread := { thread with st := .asking true 0 0x10100, gw := 5 }
theorem witness_QueueRequestWords :
    (∀ i ∈ [Instr.enq 0 8 0, .commit 0 8 255, .result 0 8, .launch 0 8], Issues i (ln thread) (st thread) ∧ precheck i (lnG badTable thread) = none
        ∧ precheck i (lnG badResult thread) = none ∧ Issues i (ln granted) (st granted))
    ∧ (ln thread).grant (st thread) = none ∧ ((ln granted).grant (st granted)).isSome = true ∧ (ln thread).consumeOct 8 = .ok false
    ∧ (lnG badTable thread).consumeOct 8 = .ok false ∧ (lnG badResult thread).consumeOct 8 = .ok false
    ∧ (((ln thread).g.ureg 8).toNat % 16 = 0 ∧ ∀ n ∈ [2, 3, 4, 5, 6, 7], (ln thread).g.ureg (8 + n) = 0) ∧ (badTable.ureg 8).toNat % 16 ≠ 0
    ∧ ((st committing).group? 1 = some (grp committing) ∧ (st committing).thread? 1 0 = some committing
        ∧ (st committing).fenceDone (grp committing) committing { scope := 2, pa := 1, pb := 1, upto := 100 } = false)
    ∧ (st thread).issue.cmd = none ∧ ({ st thread with issue := { (st thread).issue with cmd := some 0 } } : State).lane? 0 = some (ln thread)
    ∧ (badResult.ureg 10).toNat % 8 ≠ 0
    ∧ (stAsk.group? 1 = some (grp asker) ∧ stAsk.thread? 1 0 = some asker ∧ (stAsk.placeOf (grp asker)).isSome = true
        ∧ graph.edges.find? (fun y => y.n == 0) = some { n := 0, slots := 1, prod := 0, cons := 1 } ∧ asker.res.any (fun y => y.edge == 0) = false
        ∧ lowestFree 1 [] = some 0 ∧ lowestFree graph.rcount graph.usedBlocks = some 0
        ∧ ∃ w, (stAsk.reserve 3 0 0 0 1 0).vwrite ctlUnit 0 1 0x10100 (natToBytes 8 0x10808 ++ natToBytes 4 0 ++ natToBytes 4 0) = .ok w) := by
  refine ⟨fun i h => ⟨⟨rfl, rfl, by revert i; decide +kernel⟩, by revert i; decide +kernel, by revert i; decide +kernel, ⟨rfl, rfl, by revert i; decide +kernel⟩⟩,
    by decide +kernel, by decide +kernel, rfl, rfl, rfl, ?_⟩
  and_intros <;> first | rfl | decide +kernel | exact ok_of (by decide +kernel)

/-! ### Threads, accesses, monitors, the directory and the links -/

/-- A thread that has fetched nothing at a packet whose first word is `w`. -/
def placed (w : Nat) (t : Thread) : State := { placeWord State.reset w with groups := [grp t] }
theorem witness_ThreadEvents :
    (∀ w ∈ [0, 0x80000100], (placed w thread).group? 1 = some (grp thread) ∧ (placed w thread).thread? 1 0 = some thread) ∧ thread.st = .ready ∧ thread.packet = []
    ∧ (match (placed 0 thread).fetchPacket (grp thread) 0x10000 with | .ok ws => !illegalPacket ws | _ => false) = true ∧ thread.pc.slot = 0
    ∧ (match (placed 0x80000100 thread).fetchPacket (grp thread) 0x10000 with | .ok ws => illegalPacket ws | _ => false) = true
    ∧ (match (placed 0 thread).fetchPacket (grp thread) 0x30000 with | .error _ => true | _ => false) = true
    ∧ ({ thread with skids := [{ left := 0 }] } : Thread).st = .ready ∧ ({ thread with st := .yielding 64 } : Thread).st = .yielding 64 ∧ 64 ≤ ({ placed 0 thread with cycle := 64 } : State).cycle
    ∧ ({ st thread with tsc := 1 } : State).fenceDone (grp thread) thread { scope := 2, pa := 1, pb := 1, upto := 100 } = true
    ∧ ((st thread).issue.tids = [0]) := by
  repeat' apply And.intro
  all_goals decide +kernel

/-- A load and a store of four bytes, an atomic, and a store that waits for ownership; the line of all of them on die 1. -/
def part : Part := { pa := 0x10100, off := 0, n := 4, home := 1 }
def load : Acc := { id := 5, asid := 1, gid := 1, tid := 0, core := 0, kind := .load false, va := 0x10100, parts := [part], size := 4, dst := 8, dcnt := 1 }
def store : Acc := { load with kind := .store, data := 7, cls := 1 }
def atomic : Acc := { load with kind := .rmw 0, scope := 1 }
def line (x : LineSt) : DieLine := { line := 0x202, st := x }
def stA (a : Acc) (x : LineSt) : State := { st thread with accs := [a], lines := [(1, line x)], tsc := 3 }
theorem witness_SliceAccessEvents :
    (∀ a ∈ [load, store, atomic, { store with phase := .waitOwn }], ∀ x ∈ [LineSt.I, .S, .E, .O, .M], (stA a x).acc? 5 = some a ∧ a.parts = [part] ∧ (stA a x).blocked a = false
        ∧ ((stA a x).dieLine 1 0x202).st = x ∧ ((stA a x).dieLine 1 0x202).atHomeBusy = false)
    ∧ (∀ a ∈ [load, store, atomic], a.phase = .issued ∧ part.host = none ∧ part.dev = false ∧ a.kind.future = false)
    ∧ load.kind.writes = false ∧ store.kind.writes = true ∧ atomic.kind.writes = true ∧ store.kind.atomic = false
    ∧ ¬(atomic.kind.atomic = false ∨ atomic.scope = 0 ∨ ((stA atomic .M).dieLine 1 0x202).own = some 0)
    ∧ max ((stA store .M).dieHorizon 1 0x202) ((stA store .M).dieLine 1 0x202).gh + 2 < (stA store .M).tsc := by
  repeat' apply And.intro
  all_goals decide +kernel
theorem witness_SliceAccessEvents_far :
    let s : State := { stA load .S with lines := [(1, { line .S with flc := true })] }
    s.acc? 5 = some load ∧ s.blocked load = false ∧ (s.dieLine 1 0x202).flc = true
    ∧ (((s.setDieLine 1 (line .S)).count 1 cFlcHit 1).dieLine 1 0x202).st = .S ∧ (((s.setDieLine 1 (line .S)).count 1 cFlcHit 1).dieLine 1 0x202).atHomeBusy = false := by
  decide +kernel
theorem witness_PerformedPart :
    (∀ a ∈ [load, store, { atomic with kind := .rmw 8 }, { atomic with kind := .cas }], (stA a .M).acc? 5 = some a ∧ a.parts = [part] ∧ a.cond = none ∧ part.n = a.size
        ∧ ((stA a .M).dieLine 1 0x202).asker ≠ some 5 ∧ ((stA a .M).dieLine 1 0x202).st ≠ .I
        ∧ ((stA a .M).lines.filter fun q => q.1 == 1 && q.2.line == 0x202).length ≤ 1 ∧ ((stA a .M).lines.filter fun q => q.2.line == 0x202 && q.2.st.owns).length ≤ 1)
    ∧ part.pa % 128 + part.n ≤ 128 ∧ 1 ≤ part.n ∧ 0x1017C % 128 + part.n ≤ 128 := by decide +kernel
theorem witness_AtomicOperations : (0xFFFFFFFF < 2 ^ 32 ∧ 0 < 2 ^ 32) ∧ (0x8000000000000000 < 2 ^ 64 ∧ 0xFFFFFFFFFFFFFFFF < 2 ^ 64) := by decide
/-- A side-log entry of a store. -/
def entry : SideEntry := { id := 6, acc := { store with id := 6 } }
theorem witness_CompletionEvents :
    (∀ a ∈ [{ load with parts := [], phase := .done }, { store with parts := [], phase := .done }], (stA a .M).acc? 5 = some a ∧ a.phase = .done ∧ a.parts = []
        ∧ (stA a .M).thread? a.gid a.tid = some thread ∧ (stA a .M).tandem? a.gid = none)
    ∧ thread.st ≠ .exited ∧ (load.cls = 0 ∧ load.kind ≠ .ldFut ∧ load.kind ≠ .locq ∧ load.poison = false ∧ load.shadow = thread.popen ∧ load.value.length = load.dcnt
        ∧ load.dst + load.dcnt ≤ 64) ∧ store.cls = 1
    ∧ (let s : State := { st thread with sideLog := [entry] }
       (s.sideLog.find? fun x => x.id == 6) = some entry ∧ entry.held = false ∧ s.acc? 6 = none
        ∧ (s.sideLog.find? fun x => x.acc.gid == 1 && x.acc.tid == 0).map (·.id) = some 6
        ∧ ∃ ps, s.translateReq 0 1 { kind := .store, ea := 0x10100, size := 4, noret := true, need := { w := true }, facc := 1, addrRegs := [] } = .ok ps) := by
  refine ⟨by decide +kernel, by decide, by decide +kernel, by decide, by decide, by decide, by decide, by decide, ok_of (by decide +kernel)⟩

/-- A monitor entry of the thread, on its way, in its table and spilled. -/
def monitor : Monitor := { id := 5, asid := 1, die := 1, slice := 0, pa := 0x10100, va := 0x10100, wide := false, cmp := 0, opnd := 9, timeout := 4, who := .thread 1 0, dst := 3 }
def entered : Monitor := { monitor with inserted := true, due := 4 }
def stM (m : Monitor) : State := { st { thread with st := .parked (.monitor 3) } with monitors := [m], tsc := 4 }
theorem witness_MonitorEvents :
    (((stM monitor).monitors.find? fun x => x.id == 5 && !x.inserted && !x.queued) = some monitor ∧ (stM monitor).storesBefore monitor = false
        ∧ ((stM monitor).die 1).enabled = true ∧ (stM monitor).mayArrive ((stM monitor).dir (monitor.pa / 128) 1) ((stM monitor).waiterSrc monitor) = true
        ∧ (stM monitor).tableAt 1 0 < 256 ∧ 256 ≤ ({ stM monitor with monitors := monitor :: List.replicate 256 entered } : State).tableAt 1 0)
    ∧ (((stM entered).monitors.find? fun x => x.id == 5 && x.inserted) = some entered ∧ entered.due ≠ 0 ∧ entered.due ≤ (stM entered).tsc)
    ∧ (((stM { entered with spilled := true }).monitors.find? fun x => x.spilled && x.die == 1 && x.slice == 0) = some { entered with spilled := true }
        ∧ (stM { entered with spilled := true }).tableAt 1 0 < 256)
    ∧ ((stM entered).monitors.filter fun x => x.inserted && !x.spilled && x.die == 1 && x.slice == 0) = [entered] ∧ entered.who = .thread 1 0
    ∧ ((stM entered).thread? 1 0 = some { thread with st := .parked (.monitor 3) } ∧ entered.dst < 64 ∧ entered.shadow = thread.popen) := by decide +kernel

/-- A message from die 2 to die 1, the directory entry of its line, and both in a state. -/
def msg (k : MsgKind) : Msg := { id := 5, kind := k, line := 0x202, src := 2, dst := 1 }
def home (x : HomeSt) : Dir := { line := 0x202, home := 1, st := x }
def stH (m : Msg) (x : Dir) (y : DieLine) : State := { st thread with net := [m], dirs := [x], lines := [(1, y)], accs := [{ store with phase := .waitLine }] }
theorem witness_DirectoryEvents_1 :
    (∀ p ∈ [(msg .rds, home .I), (msg .rds, { home .S with sharers := [1] }), (msg .rds, { home .M with owner := 1 }), (msg .rdx, home .I),
        (msg .upg, { home .S with sharers := [2] }), ({ msg .wb with data := some 0 }, { home .M with owner := 2 }), ({ msg .wb with data := some 0 }, { home .E with owner := 2 })],
      let s := stH p.1 p.2 (line .I)
      (s.die 1).enabled = true ∧ (s.dropMsg 5).dir 0x202 1 = p.2 ∧ p.2.line = 0x202 ∧ p.2.queue = [] ∧ p.2.st.stable = true ∧ s.msg? 5 p.1.kind = some p.1
        ∧ s.monitored 0x202 = false ∧ (p.2.reqTick ≠ s.tsc ∨ p.2.reqSrc ≤ sliceSrc 2 0x202))
    ∧ ({ stH (msg .rds) (home .I) (line .I) with monitors := [entered] } : State).monitored 0x202 = true := by decide +kernel
theorem witness_DirectoryEvents_2 :
    (∀ k ∈ [MsgKind.inv, .fwdInv, .fwd], ∀ x ∈ [LineSt.I, .S, .E, .O, .M, .IS, .IM, .MI, .SM], (stH (msg k) (home .I) (line x)).msg? 5 k = some (msg k)
        ∧ (((stH (msg k) (home .I) (line x)).dropMsg 5).dieLine 1 0x202).st = x ∧ (((stH (msg k) (home .I) (line x)).dropMsg 5).dieLine 1 0x202).asker = none)
    ∧ (((stH (msg .inv) (home .I) { line .M with asker := some 5 }).dropMsg 5).dieLine 1 0x202).asker ≠ none := by decide +kernel
theorem witness_DirectoryEvents_3 :
    ((stH (msg .answer) { home .bInv with need := [2] } (line .I)).msg? 5 .answer = some (msg .answer)
        ∧ (((stH (msg .answer) { home .bInv with need := [2] } (line .I)).dropMsg 5).dir 0x202 1).need.contains 2 = true)
    ∧ ((stH (msg .noLine) { home .bFwd with need := [2] } (line .I)).msg? 5 .noLine = some (msg .noLine)
        ∧ (((stH (msg .noLine) (home .bFwd) (line .I)).dropMsg 5).dir 0x202 1).need.contains 2 = false)
    ∧ (let m := { msg .grant with lst := .M, data := some 0 }
       let s := stH m (home .M) { line .IM with asker := some 5 }
       s.msg? 5 .grant = some m ∧ ((s.dropMsg 5).dieLine 1 0x202).st = .IM ∧ ((s.dropMsg 5).dieLine 1 0x202).asker = some 5
        ∧ (((s.dropMsg 5).setDieLine 1 { line .M with asker := some 5 }).retryLine 1 0x202).acc? 5 = some store ∧ store.parts = [part]
        ∧ part.pa / 128 = 0x202)
    ∧ (stH (msg .atHome) (home .I) (line .IM)).msg? 5 .atHome = some (msg .atHome)
    ∧ (let m := { msg .homeOp with acc := 5 }
       let s := stH m (home .I) (line .I)
       s.msg? 5 .homeOp = some m ∧ (s.die 1).enabled = true ∧ (s.dropMsg 5).acc? 5 = some { store with phase := .waitLine } ∧ ((s.dropMsg 5).dir 0x202 1).queue = []
        ∧ ((s.dropMsg 5).dir 0x202 1).data = none ∧ s.memWf)
    ∧ ((stH (msg .wbAck) (home .I) (line .MI)).msg? 5 .wbAck = some (msg .wbAck))
    ∧ (let s : State := { stH (msg .answer) { home .M with home := 2 } (line .M) with tsc := 2048 }
       s.dirs.find? (fun e => e.line == 0x202) = some { home .M with home := 2 } ∧ (s.dieLine 1 0x202).last + 2048 ≤ s.tsc ∧ (s.dieLine 1 0x202).asker = none
        ∧ (s.dieLine 1 0x202).st = .M) := by
  refine ⟨by decide +kernel, by decide +kernel, by decide +kernel, by decide +kernel, by simp only [State.memWf]; decide +kernel, by decide +kernel, by decide +kernel⟩

/-- A line that carries sixteen zeros and resets the dictionaries, and the link that it travels on. -/
def wire : WireLine := { msg := 5, header := headerOf (crc32c (lineBytes 0)).toNat 0 0x202 0 true 0, payload := [], line := 0x202, clear := 0 }
/-- A header flit, as a number, and what it holds: the check, the codes and RESET of its line (R282). -/
theorem headerOf_toNat (c : BitVec 32) : (headerOf c.toNat 0 0x202 0 true 0).toNat = c.toNat * 79228162514264337593543950336 + 4312006656 := by
  have h := c.isLt
  simp only [headerOf, BitVec.toNat_ofNat, if_true]
  omega
theorem header_fields (c : BitVec 32) : (headerOf c.toNat 0 0x202 0 true 0).extractLsb' 96 32 = c
    ∧ (headerOf c.toNat 0 0x202 0 true 0).extractLsb' 64 32 = 0 ∧ ((headerOf c.toNat 0 0x202 0 true 0).extractLsb' 19 4).toNat = 0
    ∧ (headerOf c.toNat 0 0x202 0 true 0).getLsbD 18 = true := by
  have h := c.isLt
  refine ⟨BitVec.eq_of_toNat_eq ?_, BitVec.eq_of_toNat_eq ?_, ?_, by
    rw [← BitVec.testBit_toNat, headerOf_toNat, Nat.testBit_eq_decide_div_mod_eq]; simp; omega⟩ <;> rw [BitVec.extractLsb'_toNat, headerOf_toNat, Nat.shiftRight_eq_div_pow] <;> simp <;> omega
def stL (k : Link) : State := { st thread with links := [k] }
def link : Link := { src := 1, dst := 2, sdict := seedTable, rdict := seedTable }
theorem witness_LinkAndDieEvents :
    (stL { link with lines := [wire] }).link? 1 2 = some { link with lines := [wire] } ∧ ({ link with lines := [wire] } : Link).discarding = false
    ∧ (wire.tags = 0 ∧ wire.payn = 0 ∧ wire.lcrc = crc32c (lineBytes 0) ∧ wire.reset = true)
    ∧ decodeWords seedTable none ((List.range 16).map fun i => bits 0 (2 * i) 2) [] = some (List.replicate 16 0)
    ∧ BitVec.ofNat 1024 (bytesToNat ((List.replicate 16 (0 : DWord)).flatMap fun x => natToBytes 8 x.toNat)) = 0
    ∧ decodeWords seedTable none ((List.range 16).map fun i => bits 1 (2 * i) 2) [] = none
    ∧ ({ wire with header := 0 } : WireLine).reset = false
    ∧ (stL { link with discarding := true, replay := true }).link? 1 2 = some { link with discarding := true, replay := true }
    ∧ (((st thread).die 1).enabled = true)
    ∧ (((st thread).die 2).enabled = false ∧ ({ st thread with boot := { stage := 6 } } : State).boot.stage = 6 ∧ ((st thread).dies.any fun x => x.d == 2) = true) := by
  have h := header_fields (crc32c (lineBytes 0))
  refine ⟨rfl, rfl, ⟨h.2.1, h.2.2.1, h.1, h.2.2.2⟩, ?_⟩
  and_intros <;> decide +kernel

/-! ### Traps, faults, records, power and the host -/

/-- A thread at a trap, and its message in the mailbox of its cluster. -/
def trapped (kind code : Nat) : Thread := { thread with st := .parked .trap, trapAt := some (kind, code, 0) }
def trapMsg (kind code : Nat) : TrapMsg := { pc := thread.pc, kind := kind, code := code, core := 0, tid := 0, asid := 1, grp := 0, aval := 0, tsc := 0, gid := 1 }
def stX (kind code : Nat) : State :=
  { st (trapped kind code) with mailboxes := [{ die := 1, cluster := coreCluster 0, slots := [trapMsg kind code] }] }
theorem witness_TrapEntryAndReturn :
    (st thread).group? 1 = some (grp thread) ∧ (grp thread).thread? 0 = some thread ∧ (grp thread).role ≠ .trailer
    ∧ (stX 5 7).thread? 1 0 = some (trapped 5 7) ∧ (trapped 5 7).st = .parked .trap ∧ (st thread).thread? 1 0 = some thread ∧ thread.st ≠ .parked .trap := by
  decide +kernel
theorem witness_TrapMessageEvent :
    (∀ p ∈ [(5, 255), (4, 0xEF), (1, 0), (2, 0), (3, 0), (6, 8)], ((stX p.1 p.2).mailbox 1 (coreCluster 0)).slots = [trapMsg p.1 p.2]
      ∧ (stX p.1 p.2).group? 1 = some (grp (trapped p.1 p.2)) ∧ (grp (trapped p.1 p.2)).role = .solo ∧ (stX p.1 p.2).trapStands (trapMsg p.1 p.2) = true
      ∧ (stX p.1 p.2).tandem? 1 = none ∧ ((stX p.1 p.2).mailbox 1 (coreCluster 0)).slots.head? = some (trapMsg p.1 p.2)
      ∧ ((stX p.1 p.2).mailbox 1 (coreCluster 0)).pending = [])
    ∧ ({ stX 5 7 with groups := [] } : State).group? (trapMsg 5 7).gid = none ∧ (stX 5 7).trapStands (trapMsg 5 8) = false
    ∧ ((stX 5 7).group? (trapMsg 5 7).gid).map (·.role) = some .solo := by decide +kernel

/-- The control die's translation of one page, in device memory or in that of a host port; the fault queue's context there; and one fault record of it. -/
def ctlTlb (host : Bool) : TlbEntry :=
  { unit := 2000, asid := 1, page := 1, sc := 0, vpn := 1
    entry := BitVec.ofNat 128 (1 * 2 ^ 80 + (if host then 0 else 2 ^ 72) + (if host then 2 ^ 70 else 0) + 3 * 2 ^ 66 + 1 * 2 ^ 48 + 1 * 2 ^ 44 + 1) }
def ctxF : Context := { fetchContext with fqbase := 0x10800, eqbase := 0x10C00, fqlen := 16, fconsSeen := 0, fprod := 1 }
def faultRec (posted : Bool) : FaultRec := { id := 5, asid := 1, va := 0x30000, tsc := 0, src := 0, kind := 1, acc := 0, posted := posted, held := [.thread 1 0] }
def stQ (host posted : Bool) : State :=
  ({ st { thread with st := .parked .access } with contexts := [ctxF], tlb := [ctlTlb host], faults := [faultRec posted] } : State).setPhysBytes 0x10804 [if posted then 1 else 0]
theorem witness_FaultQueueEvents :
    ((stQ false true).ctx? 1 = some ctxF ∧ (stQ false true).fconsKnown ctxF = some 1 ∧ 1 ≠ ctxF.fconsSeen)
    ∧ ((stQ true true).ctx? 1 = some ctxF ∧ (stQ true true).hostHeader ctxF = true ∧ ctxF.pollDue ≤ (stQ true true).tsc)
    ∧ ((stQ false false).heldFaults 1 ≠ 0 ∧ ((stQ false false).fcons ctxF).isSome = true ∧ (stQ false false).queueFull ctxF = false
        ∧ ((stQ false false).postHeld 1 ((stQ false false).heldFaults 1)).heldFaults 1 ≠ (stQ false false).heldFaults 1 ∧ ctxF.retryDue ≤ (stQ false false).tsc)
    ∧ (let t : Thread := { thread with st := .parked .access }
       (stQ false true).thread? 1 0 = some t ∧ (stQ false true).group? 1 = some (grp t) ∧ t.st = .parked .access ∧ (grp t).role = .solo) := by decide +kernel

def errRec (asid : Nat) (accepted : Bool) : ErrRec := { id := 5, asid := asid, tsc := 0, src := 1, kind := 7, sev := 1, accepted := accepted }
theorem witness_ErrorRecordEvents :
    (∀ a ∈ [0, 1], (({ st thread with errors := [errRec a false] } : State).errors.find? fun x => x.id == 5 && !x.accepted) = some (errRec a false)
        ∧ (({ st thread with errors := [errRec a true] } : State).errors.find? fun x => x.id == 5) = some (errRec a true))
    ∧ (st thread).ctx? 1 = some fetchContext
    ∧ (∀ a ∈ [0, 1], (errRec a true).accepted = true ∧ (errRec a true).posted = false ∧ (errRec a true).tsc + 2000 ≤ ({ st thread with tsc := 2000 } : State).tsc
        ∧ ∀ x ∈ [errRec a true], x.posted = true ∨ x.asid ≠ a ∨ x.id = 5 ∨ (errRec a true).tsc < x.tsc ∨ ((errRec a true).tsc = x.tsc ∧ ((errRec a true).src < x.src
          ∨ ((errRec a true).src = x.src ∧ 5 < x.id)))) := by decide +kernel

theorem witness_PowerAndScrubEvents :
    (((st thread).groups.any fun g => g.core == 0 && g.asid == 1) = true)
    ∧ (let s : State := { st thread with tsc := 1000000000, dies := [{ d := 1, vstep := 1 }] }
       0 < (s.die 1).vstep ∧ (s.die 1).vsince + 1000000000 ≤ s.tsc)
    ∧ (st thread).boot.plim < 2601 ∧ (105 ≤ 114 ∧ 114 < 115) ∧ 115 ≤ 115 := by decide +kernel

/-- The device brought up; a semaphore held by a port, or an operation running. -/
def booted : State := { st thread with boot := { stage := 6 } }
def held (port : Nat) : State := { booted with host := { booted.host with sem := [(0, port)] } }
def managing (port : Nat) (r : Option Mgmt) (margs : List DWord) : State := { held port with host := { (held port).host with mgmt := r, margs := margs } }
theorem witness_SemaphoreEvents : booted.boot.stage = 6 ∧ (held 2).boot.stage = 6 ∧ 63 < 64 ∧ booted.host.holder 63 = 0 ∧ (held 2).host.holder 0 = 2 ∧ (2 ≠ 0 ∧ 2 ≠ 1)
    ∧ booted.host.semRead = false ∧ ((3 : Nat) = 3 ∧ (63 : Nat) ≠ 0) := by
  decide +kernel
theorem witness_HostEvents :
    booted.boot.stage = 6 ∧ 0xFFFFFFFFE + [(1 : Byte), 2].length ≤ 2 ^ 36 ∧ booted.memWf ∧ (0x4000 % 8 = 0 ∧ readOnly 0x4000 = true)
    ∧ ({ booted with host := { booted.host with timesrc := 3 } } : State).host.timesrc = 3 ∧ ({ booted with host := { booted.host with timesrc := 2 } } : State).host.timesrc.toNat = 2
    ∧ (let s : State := { booted with groups := [], host := { booted.host with timesrc := 3 } }
       s.host.timesrc = 3 ∧ s.groups = [] ∧ 0 < ((1 : DWord) - s.host.tscoff).toInt ∧ ((0xFFFFFFFFFFFFFFFF : DWord) - s.host.tscoff).toInt ≤ 0) ∧ booted.host.timesrc ≠ 3
    ∧ (State.reset.boot.stage = 0 ∧ [0, 2, 4, 8].length = 4 ∧ (∀ g ∈ [0, 2, 4, 8], g = 0 ∨ g = 2 ∨ g = 4 ∨ g = 8) ∧ State.reset.boot.minVersion ≤ 0) := by
  refine ⟨by decide +kernel, by decide, by simp only [State.memWf]; decide +kernel, by and_intros <;> decide +kernel⟩
def running : Mgmt := { port := 1, op := 1, margs := [] }
theorem witness_ManagementEvents :
    (∀ s ∈ [held 1, managing 1 (some running) [], managing 1 none [1]], s.boot.stage = 6 ∧ s.host.holder 0 = 1) ∧ (held 1).host.mgmt = none ∧ (held 2).host.holder 0 ≠ 1
    ∧ (managing 1 (some running) []).host.mgmt = some running ∧ running.before = 0 ∧ ¬(1 ≤ 15 ∧ 15 ≤ 14)
    ∧ ((managing 1 none [1]).ctx? (marg (managing 1 none [1]).host.margs 0)) = some fetchContext ∧ (held 1).ctx? (marg (held 1).host.margs 0) = none
    ∧ ({ managing 1 none [1] with groups := [], contexts := [{ fetchContext with preempts := (List.range 320).map fun k => { core := k, due := 0 } }] } : State).mayLeave
        { fetchContext with preempts := (List.range 320).map fun k => { core := k, due := 0 } } = true
    ∧ (let s : State := { managing 1 none [1, 0x10800] with tlb := [ctlTlb false] }
       marg s.host.margs 2 ≤ 1048576 ∧ s.readImages fetchContext (marg s.host.margs 1) (marg s.host.margs 2) = some []) := by
  and_intros <;> decide +kernel

/-! ### Queues, launches, graphs, groups, engines, links and tandem mode -/

/-- A FENCE record with tag 0, in the ring of a queue at 0x10800 of the control die's page; the queue; and the same queue with a record of operation `op` started. -/
def ring : List Byte := natToBytes 2 0 ++ natToBytes 1 8 ++ natToBytes 61 0
def queue (tag : Nat) : Queue := { q := 0, asid := 1, base := 0x10800, logn := 4, prio := 3, tag := tag, tail := 1 }
def record (op : Nat) (a0 : Nat) : List Byte := natToBytes 2 0 ++ natToBytes 1 op ++ natToBytes 5 0 ++ natToBytes 8 a0 ++ natToBytes 48 0
def startedQ (op a0 : Nat) (x : Queue) : Queue :=
  { x with tag := 1, head := 1, count := 1, record := some (record op a0), cmds := [{ n := 0, op := op }] }
def stC (x : Queue) : State := ({ st thread with queues := [x], tlb := [ctlTlb false] } : State).setPhysBytes 0x10800 ring
theorem witness_CommandFetchEvents :
    (∀ t ∈ [0, 1], (stC (queue t)).nextQueue = some (queue t) ∧ (stC (queue t)).canStart (queue t) = true)
    ∧ ((match ({ stC (queue 0) with proc := { last := [(3, 0)] } } : State).cpRead 1 [] 0x10800 64 with
        | .ok (some b) => fld b 0 2 == 0 && recordOk b | _ => false) = true) ∧ (queue 1).misses < 64
    ∧ ((stC { queue 0 with refetch := some 1000 }).queue? 0 = some { queue 0 with refetch := some 1000 } ∧ 1000 ≤ ({ stC (queue 0) with tsc := 1000 } : State).tsc
        ∧ (queue 0).stopped = false ∧ (queue 0).heldFault = false) := by
  repeat' apply And.intro
  all_goals decide +kernel
/-- A launch descriptor at 0x10900 of one group of one thread, and its kernel header at 0x10A00. -/
def launchBytes : List Byte := natToBytes 8 0x10A00 ++ natToBytes 4 0 ++ natToBytes 4 1 ++ natToBytes 2 1 ++ natToBytes 46 0
def stLn (op : Nat) : State :=
  ((stC (startedQ op 0x10900 (queue 0))).setPhysBytes 0x10900 launchBytes).setPhysBytes 0x10A00 (natToBytes 4 1 ++ natToBytes 4 0 ++ natToBytes 8 0x10000)
theorem witness_RecordEvents :
    (∀ op ∈ [1, 2, 3, 4, 5, 6, 7, 8], (stC (startedQ op 0x10900 (queue 0))).started 0 op = some (startedQ op 0x10900 (queue 0), record op 0x10900, 0))
    ∧ (stC (queue 0)).startedNow = false ∧ fld (record 1 0x10900) 8 8 % 64 = 0
    ∧ (match (stLn 1).tryLaunch 1 [] 0x10900 (some false) [] [] with | .ok (.dealt .., _) => true | _ => false) = true
    ∧ (∃ r, (stLn 2).tryLaunch 1 [] 0x10900 (some true) [] [] = .ok r)
    ∧ (let r : LaunchReq := { id := 5, asid := 1, q := 0, desc := 0x10900 }
       let s : State := { stC (queue 0) with launches := [r] }
       (stC (queue 0)).started 0 1 = none ∧ s.startableWord 0 = some (r, some (queue 0)) ∧ ({ s with queues := [] } : State).startableWord 0 = some (r, none))
    ∧ ((startedQ 6 0 (queue 0)).release = none ∧ (stC { startedQ 6 0 (queue 0) with release := some 0 }).started 0 6 = some ({ startedQ 6 0 (queue 0) with release := some 0 }, record 6 0, 0))
    ∧ (∃ r, (match (stC (startedQ 5 0x10900 (queue 0))).translateAll ctlUnit 0 1 0x10900 4 { r := true } with
        | .ok ((y, 4) :: r) => if y.host = none ∧ y.dev = false ∧ y.fut = false then some r else none | _ => none) = some r)
    ∧ (∃ c, ((startedQ 5 0x10900 (queue 0)).cmds.find? fun c => c.op == 5 && !c.complete) = some c)
    ∧ (∀ c ∈ (startedQ 8 0 (queue 0)).cmds, c.n = 0 ∨ c.complete = true) := by
  refine ⟨by decide +kernel, by decide +kernel, by decide +kernel, by decide +kernel, ok_of (by decide +kernel), by and_intros <;> decide +kernel, by decide +kernel,
    Option.isSome_iff_exists.mp (by decide +kernel), Option.isSome_iff_exists.mp (by decide +kernel), by decide +kernel⟩

/-- A graph descriptor at 0x10900 with one entry node at 0x10940; nodes that are entered once, that batch, and that have a cut-off. -/
def graphBytes : List Byte :=
  natToBytes 8 0x10940 ++ natToBytes 8 0 ++ natToBytes 2 1 ++ natToBytes 2 0 ++ natToBytes 4 16 ++ natToBytes 40 0
    ++ [0, 0xFF, 0, 0xFF] ++ natToBytes 28 0 ++ List.replicate 16 0xFF ++ natToBytes 16 0
def stGC : State := (stC (startedQ 3 0x10900 (queue 0))).setPhysBytes 0x10900 graphBytes
def node (kind : Nat) : GNode :=
  { n := 0, kind := kind, inedge := 0, nbranch := 0, fallback := 1, nb := 1, ldesc := 0x10900, deadline := 100, margin := 10, timer := 5, branch := [] }
def running_ (x : GNode) : Graph := { graph with nodes := [x, { node 0 with n := 1, live := 1 }], edges := [{ n := 0, slots := 4, prod := 1, cons := 0, used := [0], committed := [(0, 0, 7)] }] }
def stN (x : GNode) : State := { st thread with graphs := [running_ x], tsc := 12 }
theorem witness_GraphEvents :
    ((stC (startedQ 3 0x10900 (queue 0))).started 0 3 = some (startedQ 3 0x10900 (queue 0), record 3 0x10900, 0) ∧ fld (record 3 0x10900) 8 8 % 64 = 0)
    ∧ ((match (stC (startedQ 3 0x10900 (queue 0))).tryGraph (startedQ 3 0x10900 (queue 0)) 0 0 0x10900 [] with | .ok (.refused _ _, _) => true | _ => false) = true)
    ∧ ((match stGC.tryGraph (startedQ 3 0x10900 (queue 0)) 0 0 0x10900 [] with | .ok (.started _, _) => true | _ => false) = true)
    ∧ (∀ x ∈ [{ node 0 with ready := [(0, 0, [])] }, node 1, node 2], (stN x).openNode 3 0 = some (running_ x, x))
    ∧ ((node 1).ready = [] ∧ (running_ (node 1)).waiting (node 1) = [(0, 0, 7)] ∧ (node 1).kind ≠ 2)
    ∧ ((node 2).ready = [] ∧ (running_ (node 2)).waiting (node 2) = [(0, 0, 7)] ∧ (node 2).kind = 2 ∧ (stN (node 2)).batchDue (running_ (node 2)) (node 2) = some (7, 1, false)
        ∧ (running_ (node 2)).nodeDone 3 1 = false ∧ 7 < 7 + (node 2).timer)
    ∧ (let x := { node 2 with nb := 2 }
       x.kind = 2 ∧ (stN x).batchDue (running_ x) x = some (12, 1, true) ∧ (running_ x).waiting x = [(0, 0, 7)] ∧ ([(0, 0, 7)] : List (Nat × Nat × Nat))[x.nb - 1]? = none
        ∧ (running_ x).nodeDone 3 1 = false ∧ 7 + x.timer ≤ (stN x).tsc)
    ∧ ((node 1).deadline ≠ 0 ∧ (node 1).deadline ≤ 90 + (node 1).margin) := by
  repeat' apply And.intro
  all_goals decide +kernel

/-- A span whose first group waits for core 0. -/
def waitingSpan : Span := { span with sid := 5, deal := .rect [0] [0] }
def stR : State := { st thread with spans := [waitingSpan], tsc := 1 }
theorem witness_GroupStartAndLife :
    (0 < span.gsz ∧ 63 < 64)
    ∧ (stR.firstWaiting 0).isSome = true ∧ ((stR.firstWaiting 0).map fun p => p.2.2) = some (waitingSpan, .fresh 5 0 none)
    ∧ stR.ctx? 1 = some fetchContext ∧ stR.threadsOf 1 + waitingSpan.gsz ≤ fetchContext.thrlim
    ∧ stR.fits 0 1 1 64 (declBytes waitingSpan.tiles 0) (declBytes waitingSpan.tiles 1) = true ∧ waitingSpan.tiles = [] ∧ waitingSpan.after = 0
    ∧ (let t : Thread := { thread with st := .exited }
       let s : State := { st t with tsc := 1, spans := [span] }
       s.group? 1 = some (grp t) ∧ (grp t).hold = false ∧ (grp t).role = .solo ∧ (∀ x ∈ (grp t).threads, x.st = .exited ∧ x.gw < s.tsc) ∧ s.quiet 1 = true ∧ s.dirtyTiles (grp t) = []
        ∧ s.span? (grp t).sid = some span ∧ span.gw = 0 ∧ s.cwrites = []) := by
  decide +kernel

/-- A group of context 1 on the core for which a group of context 2, three priorities higher, waits. -/
def rival : Span := { waitingSpan with asid := 2, prio := 3 }
def stP : State := { st thread with contexts := [fetchContext, { fetchContext with asid := 2 }], spans := [span, rival], tsc := 100000 }
def pressed (core : Nat) : Context := { fetchContext with preempts := [{ core := core, due := 7 }], save := 0x10800, savelen := 0x4000 }
def resting : Thread := { thread with st := .parked (.monitor 3) }
def stE (core : Nat) (t : Thread) : State := { st t with contexts := [pressed core], tsc := 7 }
theorem witness_PreemptionEvents_1 :
    ((stP.waitersOf 0).map (fun p => (p.2.1, p.2.2.1)) = [(0, rival)] ∧ stP.lowestOn 0 = some (0, 1) ∧ stP.ctx? 1 = some fetchContext
        ∧ (∀ e ∈ fetchContext.preempts, e.core ≠ 0) ∧ 0 + 100000 ≤ stP.tsc ∧ 0 + 2 ≤ rival.prio)
    ∧ ((stE 3 thread).ctx? 1 = some (pressed 3) ∧ (pressed 3).preempts = [{ core := 3, due := 7 }] ∧ 7 ≠ 0 ∧ 7 ≤ (stE 3 thread).tsc
        ∧ ∀ h ∈ ({ stE 3 thread with groups := [] } : State).groups, h.asid ≠ 1)
    ∧ ((stE 0 thread).ctx? 1 = some (pressed 0) ∧ (∃ h ∈ (stE 0 thread).groups, h.asid = 1 ∧ h.core = 0) ∧ ∀ h ∈ (stE 0 thread).groups, h.role = .solo) := by
  decide +kernel
def restingGroup : Group := { grp resting with alloc := 16 }
def stS : State := { stG restingGroup with contexts := [pressed 0], tsc := 7, spans := [span] }
theorem witness_PreemptionEvents_2 :
    (stS.group? 1 = some restingGroup ∧ stS.attached restingGroup = [restingGroup] ∧ stS.preempted restingGroup = true ∧ stS.groupSavable restingGroup = true
        ∧ stS.tilesOf restingGroup = [] ∧ stS.dirtyTiles restingGroup = [])
    ∧ ∃ u, stS.saveAll false [restingGroup] = .ok u :=
  ⟨by decide +kernel, ok_of (by decide +kernel)⟩

/-- The saved group, first to wait on its core and free to come back. -/
def comesBack : Bool :=
  match stS.saveAll false [restingGroup] with
  | .ok u =>
    let s : State := { u with saved := u.saved.map fun v => { v with runnable := true }, contexts := [{ pressed 0 with preempts := [] }] }
    match s.saved.find? fun v => v.gid == 1 with
    | some v => ((s.firstWaiting v.core).map fun p => p.2.2.2) == some (.saved 1) && s.fits v.core v.asid v.gsz v.alloc v.need0 v.need1
        && (match s.writeWoken.restore v with | .ok _ => true | _ => false)
    | none => false
  | .error _ => false
theorem witness_PreemptionEvents_3 : comesBack = true := by decide +kernel

/-- Commands of the engines, at their ends; a thread that waits for a row of its bound tile; a field word with its result; a marked tree. -/
def copy (cw : DWord) : Copy := { id := 5, core := 0, gid := some 1, asid := 1, fn := 0, k := 0, oct := List.replicate 6 0 ++ [cw.setWidth 32, 0], tids := [0], moved := true }
def filling : Thread := { thread with st := .filling 7 0 }
def boundTile : Tile := { tile with bind := some (0x10100, 32) }
def tileOp : TileOp := { id := 5, gid := 1, tid := 0, tile := 7, dst := 3, shadow := false, free := true, handle := 1, wrote := true }
def fieldOp : FieldOp := { id := 5, gid := 1, tid := 0, asid := 1, fn := 5, dst := 8, dcnt := 4, shadow := false, cls := 0, result := some [1, 2, 3, 4] }
theorem witness_EngineCompletionEvents_1 :
    (({ st thread with copies := [copy 0] } : State).copies.find? fun c => c.id == 5) = some (copy 0) ∧ (copy 0).heldFault = false ∧ (copy 0).moved = true ∧ (copy 0).gw = 0
    ∧ ((stT boundTile filling).fillWaiters 7 0 = [(holds filling, filling)] ∧ (match (stT boundTile filling).fillRow 0 7 0 with | .ok _ => true | _ => false) = true)
    ∧ (({ st thread with mxs := [mx] } : State).mxHead 0 = some mx ∧ mx.started = false ∧ mx.heldFault = false)
    ∧ (let m := { mx with fn := 0, tiles := [7, 7, 7], started := true, waitRing := true }
       let s : State := { stT filledRing thread with mxs := [m] }
       s.mxHead 0 = some m ∧ (m.tiles[1]?).bind s.tile? = some filledRing ∧ filledRing.ring = some { slots := 2, pres := 1, prod := 1 } ∧ 1 ≤ ((1 : Word) - 0).toNat)
    ∧ (let m := { mx with finished := true }
       ({ st thread with mxs := [m] } : State).mxHead 0 = some m ∧ m.finished = true ∧ m.gw = 0 ∧ m.fail = 0)
    ∧ (let s : State := { stT tile thread with tileOps := [tileOp], tsc := 1 }
       (s.tileOps.find? fun o => o.id == 5) = some tileOp ∧ s.group? 1 = some (holds thread) ∧ tileOp.heldFault = false ∧ (1, 7) ∈ (holds thread).handles ∧ tileOp.status = 0
        ∧ tileOp.wrote = true ∧ tileOp.gw < s.tsc) := by
  repeat' apply And.intro
  all_goals decide +kernel
theorem witness_EngineCompletionEvents_2 :
    (let c := copy 0x10100
     (({ st thread with copies := [c] } : State).copies.find? fun c => c.id == 5) = some c ∧ c.cw ≠ 0
        ∧ ∃ r, (({ st thread with copies := [c] } : State).tellCopy c).vwrite 0 1 1 0x10100 (natToBytes 8 1) = .ok r)
    ∧ (let s : State := { st thread with fieldOps := [fieldOp] }
       (s.fieldOps.find? fun o => o.id == 5) = some fieldOp ∧ fieldOp.result = some [1, 2, 3, 4] ∧ fieldOp.gw = 0 ∧ s.thread? 1 0 = some thread ∧ thread.st ≠ .exited
        ∧ fieldOp.shadow = thread.popen ∧ fieldOp.poison = false ∧ ([1, 2, 3, 4] : List Word).length = fieldOp.dcnt ∧ fieldOp.dst + fieldOp.dcnt ≤ 64)
    ∧ (let o := { fieldOp with fn := 6, tree := some tree, result := none }
       let s : State := { st thread with fieldOps := [o], allocQ := [.word 5] }
       s.allocHeld = false ∧ s.allocQ = [.word 5] ∧ (s.fieldOps.find? fun o => o.id == 5) = some o ∧ o.tree = some tree)
    ∧ (let m : Marked := { asid := 1, tree := tree }
       let s : State := { st thread with marked := [m], tlb := { ctlTlb false with unit := 1001 } :: (st thread).tlb }
       (s.marked.find? fun m => m.asid == 1 && m.tree.root.toNat == 0x10080) = some m ∧ m.held = false ∧ s.allocHeld = false ∧ s.treeHeld tree.root = false) := by
  refine ⟨⟨by decide +kernel, by decide, ok_of (by decide +kernel)⟩, by decide +kernel, by decide +kernel, by decide +kernel⟩

/-- A halo command that has moved its data. -/
def linkCmd : LinkCmd := { id := 5, gid := some 1, tids := [0], asid := 1, fn := 1, oct := [], moved := true }
theorem witness_DeviceLinkEvents :
    (let s : State := { st thread with linkCmds := [linkCmd] }
     (s.linkCmds.find? fun c => c.id == 5) = some linkCmd ∧ linkCmd.heldFault = false ∧ linkCmd.fn ≠ 3 ∧ linkCmd.moved = true ∧ linkCmd.cw = 0 ∧ linkCmd.gw = 0
        ∧ ∀ y ∈ s.linkCmds, y.asid = 1 → y.exch = 0 → y.fn ≠ 3 → 5 ≤ y.id)
    ∧ (let s := linked (exchange 1 2) (st thread)
       (s.ctx? 1).isSome = true ∧ s.arrivals = [] ∧ (match s.loadExch 1 0 with | .ok u => u.exch? 1 0 == some (exchange 1 2) | _ => false) = true ∧ 0 < (exchange 1 2).nn) := by
  decide +kernel

/-- A tandem pair: the leader's group, and the trailer's, whose thread waits with the signature of its access. -/
def leader : Group := { grp thread with role := .leader, partner := 2 }
def trailer (sig : List Nat) : Group := { grp { thread with st := .waiting, tsig := sig } with gid := 2, role := .trailer, partner := 1 }
def centry : CEntry := { tid := 0, k := 1, sig := [1, 2, 3], made := 0 }
def tandem (es : List CEntry) : Tandem := { leader := 1, trailer := 2, entries := es }
def stTan (es : List CEntry) (r : Group) : State := { stG leader with groups := [leader, r], tandems := [tandem es], tsc := 100000 }
theorem witness_TandemEvents :
    (∀ g ∈ [1, 2], (stTan [centry] (trailer [1, 2, 3])).tandem? g = some (tandem [centry]))
    ∧ (stTan [centry] (trailer [1, 2, 3])).copies? (tandem [centry]) = some (leader, trailer [1, 2, 3]) ∧ (trailer [1, 2, 3]).gid = 2
    ∧ (stTan [centry] (trailer [1, 2, 3])).thread? 2 0 = some { thread with st := .waiting, tsig := [1, 2, 3] }
    ∧ ((tandem [centry]).entries.find? fun e => e.tid == 0 && e.k == 0 + 1 && !e.released) = some centry
    ∧ (centry.sig = [1, 2, 3] ∧ (stTan [centry] (trailer [1, 2, 3])).releaseAcc leader centry = some (stTan [centry] (trailer [1, 2, 3]))) ∧ centry.sig ≠ [1, 2, 4]
    ∧ ((tandem [centry]).due = false ∧ (∀ z ∈ leader.threads, z.st ≠ .parked .access)
        ∧ ((trailer [1]).threads.find? fun z => z.st == .waiting && decide (z.waitTick + 100000 ≤ (stTan [centry] (trailer [1])).tsc)) = some { thread with st := .waiting, tsig := [1] })
    ∧ (let es := List.replicate 256 { centry with tid := 1, released := true }
       256 ≤ es.length ∧ (∀ e ∈ es, e.released = true) ∧ (tandem es).msgs = []
        ∧ ∀ g ∈ [leader, { grp thread with gid := 2, role := .trailer }], ∀ z ∈ g.live, z.pend = 0 ∧ z.grants = [] ∧ z.tacc = (tandem es).made z.tid ∧ z.st ≠ .parked .trap
            ∧ z.st ≠ .parked .access) := by
  repeat' apply And.intro
  all_goals decide +kernel

/-! ### Registers, packets, chains and the step -/

theorem witness_RegisterGroups : 56 + 8 ≤ 64 ∧ 63 + 1 ≤ 64 := by decide
theorem witness_IllegalPackets :
    illegalPacket [0x80000100, 0, 0] = true ∧ (placed 0x80000100 thread).group? 1 = some (grp thread) ∧ (placed 0x80000100 thread).thread? 1 0 = some thread ∧ (grp thread).role ≠ .trailer
    ∧ thread.st = .ready ∧ thread.packet = []
    ∧ (match (placed 0x80000100 thread).fetchPacket (grp thread) 0x10000 with | .ok ws => ws == [0x80000100, 0, 0] | _ => false) = true := by
  decide +kernel
theorem witness_ChainWholeOrNothing :
    (st thread).thread? 1 0 = some thread
    ∧ (match chainThread (fun _ s => .next s) [(0, .iadd 0 3 4 5 0), (1, .fadd 0 6 7 8)] (st thread) 0 with | .next _ => true | _ => false) = true := by decide +kernel
theorem witness_StepRunsDecodedWord :
    (let s := State.reset.withFetchWord 32 0x04183FFF
     let s0 : State := { s with agenda := [] }
     s.agenda = [.issue 0 0] ∧ s0.pressed = false ∧ (s0.packOf 0 0 [] true).map (fun p => p.2.map (·.tid)) = some [0]
      ∧ ((((s0.fetch 1 0).stillReady 1 { pkt := 0x10000, slot := 0 } [0]).filter ((s0.fetch 1 0).chainFree 0 0 [])).map (·.packet)) = [[0x04183FFF, 0, 0]]
      ∧ chainFrom (([0x04183FFF, 0, 0] : List Word).drop 0) = [0x04183FFF] ∧ decode 0x04183FFF = some (.iaddi 0 3 1 0x1FFF))
    ∧ (match (st thread).translateAll 0 1 1 0x10000 12 { x := true } with | .ok [(x, 12)] => x.host.isNone && !x.dev | _ => false) = true := by
  decide +kernel
theorem witness_StepTakesAgenda :
    ({ st thread with agenda := [.event .allocatorRequest, .wait 5] } : State).agenda = [.event .allocatorRequest, .wait 5] ∧ isEvent .allocatorRequest = true
    ∧ (∀ p n, Instr.allocatorRequest ≠ .semaphoreRead p n)
    ∧ (({ State.reset with agenda := [.wait 5] } : State).agenda = [.wait 5] ∧ State.reset.slack = none)
    ∧ (State.reset.agenda = [] ∧ State.reset.firstAct State.reset.acts = none ∧ State.reset.anyReady = false)
    ∧ ∃ t, (placeWord State.reset 0).firstAct [execInstructionFetch 1 0] = some t := by
  refine ⟨rfl, rfl, (fun _ _ h => by cases h), ⟨rfl, by decide +kernel⟩, by decide +kernel, Option.isSome_iff_exists.mp (by decide +kernel)⟩
theorem witness_StepKeepsMemoryWellFormed : State.reset.memWf ∧ (match step State.reset with | .next _ => true | _ => false) = true := by
  simp only [State.memWf]
  decide +kernel

/-! ### Witnesses of values, launches, contexts and records -/

/-- Numbers of the formats: 1, -1, -2 and zeros of both signs. -/
theorem isOne : (fdec f32 0x3F800000).Is 1 := ⟨false, 2 ^ 23, -23, by decide +kernel, by norm_num⟩
theorem isMinusOne : (fdec f32 0xBF800000).Is (-1) := ⟨true, 2 ^ 23, -23, by decide +kernel, by norm_num⟩
theorem isMinusTwo : (fdec f32 0xC0000000).Is (-2) := ⟨true, 2 ^ 23, -22, by decide +kernel, by norm_num⟩
theorem isZero : (fdec f32 0).Is 0 ∧ (fdec f32 0x80000000).Is 0 := ⟨⟨false, 0, -149, by decide +kernel, by norm_num⟩, ⟨true, 0, -149, by decide +kernel, by norm_num⟩⟩
theorem specials : fdec f32 0x7F800000 = .inf false ∧ fdec f32 0xFF800000 = .inf true ∧ fdec f32 0x7FC00000 = .nan false ∧ fdec f32 0x7F800001 = .nan true
    ∧ fsign f32 0x80000000 = true ∧ fsign f32 0 = false := by decide +kernel
theorem witness_FloatArithmeticWords_values :
    f32 ∈ [f64, f32, f16, bf16] ∧ ((fdec f32 0x3F800000).Is 1 ∧ (fdec f32 0xC0000000).Is (-2) ∧ (1 : ℝ) + -2 ≠ 0 ∧ (1 : ℝ) - -2 ≠ 0 ∧ (1 : ℝ) * -2 ≠ 0 ∧ (-2 : ℝ) < 1)
    ∧ ((fdec f32 0xBF800000).Is (-1) ∧ (1 : ℝ) + -1 = 0 ∧ (1 : ℝ) - 1 = 0 ∧ (1 : ℝ) * -2 + -1 ≠ 0 ∧ (1 : ℝ) * -1 + 1 = 0) ∧ ((fdec f32 0).Is 0 ∧ (1 : ℝ) * 0 = 0)
    ∧ (fdec f32 0x7F800000 = .inf false ∧ fdec f32 0xFF800000 = .inf true) ∧ ((fdec f32 0x7FC00000).isNan = true ∧ (fdec f32 0x7F800001).isNan = true ∧ (fdec f32 0).isNan = false) :=
  ⟨by decide, ⟨isOne, isMinusTwo, by norm_num⟩, ⟨isMinusOne, by norm_num⟩, ⟨isZero.1, by norm_num⟩, ⟨specials.1, specials.2.1⟩, by decide +kernel⟩
theorem witness_FloatOneSourceAndCompareWords_values :
    (fdec f32 0xC0000000).Is (-2) ∧ (-2 : ℝ) ≠ 0 ∧ (fdec f32 0).Is 0 ∧ fdec f32 0x7F800000 = .inf false ∧ fdec f32 0x7F800001 = .nan true :=
  ⟨isMinusTwo, by norm_num, isZero.1, specials.1, specials.2.2.2.1⟩
theorem witness_TranscendentalWords_values :
    f32 ∈ [f64, f32] ∧ (fdec f32 0).Is 0 ∧ (fdec f32 0x80000000).Is 0 ∧ ((fdec f32 0xC0000000).Is (-2) ∧ (-2 : ℝ) ≠ 0 ∧ (-2 : ℝ) < 0) ∧ fdec f32 0x7F800000 = .inf false
    ∧ fdec f32 0xFF800000 = .inf true ∧ (fdec f32 0x7FC00000).isNan = true :=
  ⟨by decide, isZero.1, isZero.2, ⟨isMinusTwo, by norm_num, by norm_num⟩, specials.1, specials.2.1, by decide +kernel⟩
theorem witness_RoundedOnce :
    f32 ∈ [f64, f32, f16, bf16] ∧ (3 : Nat) ≠ 0 ∧ ((fdec f32 0x3F800000).Is 1 ∧ (fdec f32 0xC0000000).Is (-2) ∧ (1 : ℝ) ≠ 0 ∧ (-2 : ℝ) ≠ 0) ∧ (0 : ℝ) < 1 :=
  ⟨by decide, by decide, ⟨isOne, isMinusTwo, by norm_num, by norm_num⟩, by norm_num⟩

/-- The thread with a predicate poisoned by a poisoning that no word has consumed yet, or that one has. -/
def doubtful (taken : Bool) : Thread := { shady with skids := [{ n := 1, left := 4, taken := taken, preds := 4 }] }
theorem witness_ControlTransferWords_poison :
    (Issues (.bra 2 1 5) (ln (doubtful false)) (st (doubtful false)) ∧ (ln (doubtful false)).src.ppoison.getLsbD 2 = true
        ∧ (ln (doubtful false)).src.unconsumed [] [(2 : BitVec 3).toNat] = true)
    ∧ (ln (doubtful true)).src.unconsumed [] [(2 : BitVec 3).toNat] = false := by
  refine ⟨⟨⟨rfl, rfl, by decide +kernel⟩, by decide +kernel⟩, by decide +kernel⟩
theorem witness_WaitingAndBarrierWords_fence :
    (let s : State := { st thread with tsc := 1 }
     (thread.nLoad = 0 ∧ thread.nStore = 0 ∧ thread.gw < s.tsc ∧ s.logOpen 1 0 = false) ∧ s.accs = [] ∧ s.tandems = [] ∧ s.owed = [] ∧ s.fieldOps = [] ∧ s.linkCmds = [])
    ∧ (ln thread).cur.raised = 0 := by decide +kernel

/-- A trap of the thread's own word, with an arithmetic flag raised that its context traps. -/
theorem test_trap_then_arithmetic :
    (let t : Thread := { trapped 4 7 with raised := 1 }
     let s : State := { st t with contexts := [{ fetchContext with trapen := 1 }] }
     ((s.trapReturn 1 0 thread.pc).thread? 1 0).map (·.trapAt) = some (some (6, 0, 1))
      ∧ ((({ s with contexts := [fetchContext] } : State).trapReturn 1 0 thread.pc).thread? 1 0).map (·.st) = some .ready) := by decide +kernel

/-- A context's error queue with a posted record, and another that equals it or not, to be posted where there is room or where there is none. -/
def posted : ErrRec := { errRec 1 true with id := 4, posted := true, idx := 0 }
def ctxE (n : Nat) : Context := { ctxF with eqlen := 16, eprod := n }
def stErr (code : Nat) (n : Nat) : State :=
  { st thread with contexts := [ctxE n], tlb := [ctlTlb false], errors := [posted, { errRec 1 true with code := code }] }
theorem witness_ErrorRecordEvents_post :
    (∀ n ∈ [1, 16], (stErr 0 n).econs (ctxE n) = some 0)
    ∧ (((stErr 0 1).errors.find? fun x => x.asid == 1 && x.posted && x.src == 1 && x.code == 0) = some posted ∧ (posted.idx + 2 ^ 32 - 0) % 2 ^ 32 < (1 + 2 ^ 32 - 0) % 2 ^ 32
        ∧ (posted.idx + 1) % 2 ^ 32 = 1 ∧ ((stErr 0 1).ctlWrite 1 (0x10C00 + 64 + 64 * 0) { posted with rep := 1 }.bytes).isSome = true)
    ∧ ((∀ x ∈ (stErr 3 16).errors, ¬(x.posted = true ∧ x.code = 3)) ∧ 16 ≤ (16 + 2 ^ 32 - 0) % 2 ^ 32)
    ∧ ((∀ x ∈ (stErr 3 1).errors, ¬(x.posted = true ∧ x.code = 3)) ∧ (1 + 2 ^ 32 - 0) % 2 ^ 32 < 16
        ∧ (((stErr 3 1).ctlWrite 1 (0x10C00 + 64 + 64 * (1 % 16)) { errRec 1 true with code := 3 }.bytes).bind fun u => u.ctlWrite 1 0x10C00 (natToBytes 4 2)).isSome = true) := by
  decide +kernel
theorem witness_HostEvents_home :
    (∀ l ∈ linesOf (booted.host.window 1 + 0xFFFFFFFFE) 2, ∀ d, booted.homeOf? l = some d → (booted.die d).enabled = true)
    ∧ (({ booted with dirs := [home .I] } : State).homeOf? 0x202 = some 1 ∧ (booted.die 1).enabled = true) := by
  refine ⟨fun l h d => ?_, by decide +kernel⟩
  have e : booted.homeOf? l = none := by revert l; decide +kernel
  rw [e]; intro h; cases h

/-- A context record with ASID 2 at 0x10200. -/
def ctxBytes : List Byte :=
  natToBytes 4 (4 + 2 ^ 8 * 3 + 2 ^ 19 * 4) ++ natToBytes 2 2 ++ natToBytes 2 0 ++ natToBytes 8 0x1000 ++ natToBytes 8 0x10C00 ++ natToBytes 4 16 ++ natToBytes 4 16 ++ natToBytes 8 0x10800
    ++ natToBytes 8 0 ++ natToBytes 4 32 ++ natToBytes 76 0
def stMop : State := (stC { queue 0 with tail := 0 }).setPhysBytes 0x10200 ctxBytes
theorem witness_ManagementEffects :
    ((0x10200 % 128 = 0 ∧ 0x10200 < 2 ^ 48 ∧ (parseContext (stMop.physBytes 0x10200 128)).map (·.asid) = some 2) ∧ parseContext (stMop.physBytes 0x10180 128) = none)
    ∧ (stMop.ctx? 2 = none ∧ stMop.contexts.length < 1024 ∧ 1024 ≤ ({ stMop with contexts := List.replicate 1024 fetchContext } : State).contexts.length)
    ∧ (stMop.ctx? (marg [2] 0) = none ∧ stMop.ctx? (marg [1] 0) = some fetchContext ∧ stMop.contextBusy 1 = true ∧ ({ stMop with groups := [] } : State).contextBusy 1 = false)
    ∧ (stMop.queue? (marg [0] 0) = some { queue 0 with tail := 0 } ∧ stMop.queue? (marg [255] 0) = none ∧ stMop.queue? (marg [256] 0) = none)
    ∧ (let a : Nat := 1 + 2 ^ 19 * 15
       ¬(255 < 255 ∨ stMop.ctx? (a % 2 ^ 16) = none ∨ 0x10800 % 64 ≠ 0 ∨ a / 2 ^ 19 % 2 ^ 5 < 1 ∨ 15 < a / 2 ^ 19 % 2 ^ 5 ∨ a / 2 ^ 24 ≠ 0) ∧ 15 < (1 + 2 ^ 19 * 16) / 2 ^ 19 % 2 ^ 5)
    ∧ ((queue 0).record = none ∧ (queue 0).stopped = false ∧ ({ queue 0 with stopped := true } : Queue).stopped = true ∧ (startedQ 8 0 (queue 0)).record.isSome = true) := by
  decide +kernel

/-- A descriptor of n groups of one thread on one core, its kernel with BARS set or not. -/
def stDeal (n : Nat) (bars : Bool) : State :=
  ((stC (startedQ 1 0x10900 (queue 0))).setPhysBytes 0x10900 (natToBytes 8 0x10A00 ++ natToBytes 4 0 ++ natToBytes 4 n ++ natToBytes 2 1 ++ natToBytes 46 0)).setPhysBytes 0x10A00
    (natToBytes 4 1 ++ natToBytes 4 (if bars then 1 else 0) ++ natToBytes 8 0x10000)
/-- The codes, the LEAF mark, the kernel's BARS and the cores that a launch's descriptor comes to. -/
def judged (s : State) : Option (List Nat × Bool × Option Bool × List Nat) :=
  match s.readLaunch 1 [] 0x10900 (some false) [] with
  | .ok (some i, _) => some (i.codes, i.leaf, i.kernel.map (·.bars), i.cores)
  | _ => none
theorem witness_LaunchJudgedAndDealt :
    (∀ n ∈ [1, 17], ∀ b ∈ [false, true], judged (stDeal n b) = some ([], false, some b, [0])) ∧ judged (stDeal 0 false) = some ([0x22], false, some false, [0])
    ∧ ((match (stDeal 1 true).readLaunch 1 [] 0x10900 (some false) [] with | .ok (some i, _) => some (dealCounts i []) | _ => none) = some [1])
    ∧ ((match (stDeal 17 true).readLaunch 1 [] 0x10900 (some false) [], (stDeal 17 true).ctx? 1 with
        | .ok (some i, _), some c => i.kernel.map fun k => (dealCounts i []).map (fitTogether c.maxg k i.gsz) | _, _ => none) = some [false])
    ∧ (waitingSpan.deal = .rect [0] (List.range [0].length) ∧ [0].Nodup ∧ [0][0]? = some 0 ∧ 0 < waitingSpan.n ∧ 0 + [0].length < ({ waitingSpan with n := 2 } : Span).n)
    ∧ (∃ a, (stDeal 1 false).translate ctlUnit 0 1 0x10A00 {} = .ok a ∧ a.host = none ∧ a.dev = false ∧ ([0].filter fun c => coreDie c == a.home) ≠ [])
    ∧ (match (stDeal 1 false).translate ctlUnit 0 1 0x90000 {} with | .ok _ => false | .error _ => true) = true ∧ ∀ c ∈ [0], coreDie c ≠ 0 := by
  refine ⟨by decide +kernel, by decide +kernel, by decide +kernel, by decide +kernel, by decide +kernel, ?_, by decide +kernel, by decide +kernel⟩
  exact ⟨_, rfl, by decide +kernel, by decide +kernel, by decide +kernel⟩
theorem witness_RecordEvents_waits :
    ((match (stLn 1).tryLaunch 1 [] 0x10900 (some false) [] [] with | .ok (.waits _, _) => false | .ok _ => true | _ => false) = true) := by decide +kernel

/-- A sweep that can start, and one that has written. -/
theorem witness_EngineCompletionEvents_sweep :
    (let m : Marked := { asid := 1, tree := tree }
     let s : State := { stV thread with groups := [], marked := [m], tlb := [ctlTlb false] }
     (∀ y ∈ s.marked, y.swept = false) ∧ s.treeHeld tree.root = false ∧ (match s.sweepTree 1 tree with | .ok _ => true | _ => false) = true
      ∧ ({ s with marked := [{ m with swept := true }], tsc := 1 } : State).marked = [{ m with swept := true }] ∧ m.gw < 1) := by decide +kernel
theorem witness_GroupStartAndLife_done : (∀ o ∈ stR.owed, o.gid = 1 → o.gw < stR.tsc) ∧ (∀ a ∈ stR.accs, a.gid ∉ span.killed) := by decide +kernel
theorem witness_StepRunsDecodedWord_reach :
    (match (st thread).reach 0 1 1 0x10000 12 { x := true } with | .ok [(x, 12)] => x.host.isNone && !x.dev | _ => false) = true := by decide +kernel
theorem witness_StepTakesAgenda_wait : State.reset.slack = none ∧ State.reset.ageing = [] ∧ 0 < State.reset.spare 5 := by decide +kernel

end Sys2Proof.Tests
end

section
/-! SUPPORT. A register group as one value (R5): what its registers hold of the value, and what a write of it leaves. -/

namespace Sys2Proof.Machine

theorem Thread.group_lt (t : Thread) (a n : Nat) : t.group a n < 2 ^ (32 * n) := by
  induction n generalizing a with
  | zero => exact Nat.one_pos
  | succ n ih =>
    have hlo := (t.reg a).isLt
    have hhi := ih (a + 1)
    rw [Thread.group, Nat.mul_succ, Nat.pow_add]
    omega

/-- Register j of a group is digit j of its value in base 2^32. -/
theorem Thread.group_digit (t : Thread) (a : Nat) {n j : Nat} (hj : j < n) :
    t.group a n / 2 ^ (32 * j) % 2 ^ 32 = (t.reg (a + j)).toNat := by
  induction n generalizing a j with
  | zero => exact absurd hj (Nat.not_lt_zero j)
  | succ n ih =>
    have hlo := (t.reg a).isLt
    rw [Thread.group]
    cases j with
    | zero => rw [Nat.mul_zero, Nat.pow_zero, Nat.div_one, Nat.add_mul_mod_self_left, Nat.mod_eq_of_lt hlo, Nat.add_zero]
    | succ j =>
      have hdiv : ((t.reg a).toNat + 2 ^ 32 * t.group (a + 1) n) / 2 ^ 32 = t.group (a + 1) n := by omega
      rw [Nat.mul_succ, Nat.add_comm (32 * j), Nat.pow_add, ← Nat.div_div_eq_div_mul, hdiv, ih _ (Nat.lt_of_succ_lt_succ hj), Nat.add_right_comm a 1 j,
        Nat.add_assoc]

/-- Word j of a value is its digit j in base 2^32. -/
theorem natToWords_getD {n j : Nat} (v : Nat) (hj : j < n) : (natToWords n v).getD j 0 = BitVec.ofNat 32 (v / 2 ^ (32 * j)) := by
  induction n generalizing v j with
  | zero => exact absurd hj (Nat.not_lt_zero j)
  | succ n ih =>
    cases j with
    | zero => simp [natToWords]
    | succ j =>
      rw [natToWords, List.getD_cons_succ, ih _ (Nat.lt_of_succ_lt_succ hj), Nat.mul_succ, Nat.add_comm (32 * j), Nat.pow_add, Nat.div_div_eq_div_mul]

theorem Thread.reg_setGroup (t : Thread) (a n v m : Nat) (h : a + n ≤ 64) :
    (t.setGroup a n v).reg m = if m ≠ 0 ∧ a ≤ m ∧ m < a + n then BitVec.ofNat 32 (v / 2 ^ (32 * (m - a))) else t.reg m := by
  rw [Thread.setGroup_eq_setWords, Thread.reg_setWords _ _ _ _ (by rwa [natToWords_length]), natToWords_length]
  by_cases hm : m ≠ 0 ∧ a ≤ m ∧ m < a + n
  · rw [if_pos hm, if_pos hm, natToWords_getD v (by omega)]
  · rw [if_neg hm, if_neg hm]

/-- A write of a group takes the value modulo the group's width. -/
theorem Thread.setGroup_mod (t : Thread) (a n v : Nat) : t.setGroup a n (v % 2 ^ (32 * n)) = t.setGroup a n v := by
  induction n generalizing t a v with
  | zero => rfl
  | succ n ih =>
    have hlo : BitVec.ofNat 32 (v % 2 ^ (32 * (n + 1))) = BitVec.ofNat 32 v := by
      apply BitVec.eq_of_toNat_eq
      rw [BitVec.toNat_ofNat, BitVec.toNat_ofNat, Nat.mod_mod_of_dvd]
      exact Nat.pow_dvd_pow 2 (by omega)
    have hhi : v % 2 ^ (32 * (n + 1)) / 2 ^ 32 = v / 2 ^ 32 % 2 ^ (32 * n) := by
      rw [Nat.mul_succ, Nat.add_comm (32 * n), Nat.pow_add, Nat.mod_mul_right_div_self]
    rw [Thread.setGroup, Thread.setGroup, hlo, hhi, ih]

theorem Lane.toNat_val (l : Lane) (a : BitVec 6) (k : Nat) : (l.val a k).toNat = l.src.group a.toNat k := by
  rw [Lane.val, BitVec.toNat_ofNat, Nat.mod_eq_of_lt (Thread.group_lt _ _ _)]

/-- A word of R104 whose function is a bit vector operation `g` at its width computes that operation. -/
theorem computes_alu2 {i : Instr} {d a b : BitVec 6} {w : Nat} {f : Nat → Nat → Nat → Nat}
    (g : BitVec (32 * 2 ^ w) → BitVec (32 * 2 ^ w) → BitVec (32 * 2 ^ w)) (he : exec i = alu2 i d.toNat a.toNat b.toNat w f)
    (hg : ∀ x y, f (32 * 2 ^ w) x.toNat y.toNat % 2 ^ (32 * 2 ^ w) = (g x y).toNat) :
    Computes i fun l t => t.put d (g (l.val a (2 ^ w)) (l.val b (2 ^ w))) := by
  have hput : (fun (l : Lane) (t : Thread) => t.put d (g (l.val a (2 ^ w)) (l.val b (2 ^ w))))
      = fun l t => t.setGroup d.toNat (2 ^ w) (f (32 * 2 ^ w) (l.src.group a.toNat (2 ^ w)) (l.src.group b.toNat (2 ^ w))) := by
    funext l t
    rw [Thread.put, ← hg, Thread.setGroup_mod, Lane.toNat_val, Lane.toNat_val]
  rw [hput]
  exact computes_of_runPure he fun _ _ => rfl

theorem toNat_sarNat {n : Nat} (x : BitVec n) (k : Nat) (hn : 0 < n) : sarNat n x.toNat k % 2 ^ n = (x.sshiftRight k).toNat := by
  have hval : sval n x.toNat = x.toInt := by
    have hp : 2 ^ n = 2 ^ (n - 1) * 2 := by rw [← Nat.pow_succ]; congr; omega
    have := x.isLt
    rw [sval, BitVec.toInt_eq_toNat_cond, Nat.mod_eq_of_lt x.isLt]
    by_cases h : x.toNat < 2 ^ (n - 1)
    · rw [if_pos h, if_pos (by omega)]
    · rw [if_neg h, if_neg (by omega)]
  rw [sarNat, hval, ofInt, BitVec.sshiftRight, Int.shiftRight_eq_div_pow, BitVec.toNat_ofInt, Nat.mod_eq_of_lt]
  omega

end Sys2Proof.Machine
end

section
/-! THEOREMS. The memory after reset, register groups, and the integer words of both widths. -/

open Sys2Proof Sys2Proof.Machine

/-- Settles O59: memory is empty at reset. -/
theorem resetMemoryWellFormed : Obligations.ResetMemoryWellFormed := State.reset_memWf

/-- Settles O53: the registers of a group are the digits of its value in base 2^32. -/
theorem registerGroups : Obligations.RegisterGroups := by
  intro t a k v h
  refine ⟨fun j hj => t.group_digit a hj, fun j hj h0 => ?_, fun n _ hout => ?_, t.reg_zero, Thread.reg_zero _, t.setReg_zero _⟩
  · rw [Thread.reg_setGroup _ _ _ _ _ h, if_pos ⟨h0, by omega, by omega⟩, Nat.add_sub_cancel_left]
  · rw [Thread.reg_setGroup _ _ _ _ _ h, if_neg (by omega)]

/-- Settles O4: each word's function on naturals, cut to the width, is the operation on bit vectors. -/
theorem integerPairWords : Obligations.IntegerPairWords := by
  intro c d a b w _
  dsimp only
  have hk : 0 < 32 * 2 ^ w.toNat := Nat.mul_pos (by decide) (Nat.two_pow_pos _)
  refine ⟨?iadd, ?isub, ?and, ?or, ?xor, ?shl, ?shr, ?sar, ?imullo⟩
  case iadd => exact computes_alu2 (f := fun _ x y => x + y) (· + ·) rfl fun x y => (BitVec.toNat_add x y).symm
  case isub =>
    refine computes_alu2 (f := fun n x y => x + 2 ^ n - y) (· - ·) rfl fun x y => ?_
    have := y.isLt
    rw [BitVec.toNat_sub]
    congr 1
    omega
  case and => exact computes_alu2 (f := fun _ x y => x &&& y) (· &&& ·) rfl fun x y => Nat.mod_eq_of_lt (x &&& y).isLt
  case or => exact computes_alu2 (f := fun _ x y => x ||| y) (· ||| ·) rfl fun x y => Nat.mod_eq_of_lt (x ||| y).isLt
  case xor => exact computes_alu2 (f := fun _ x y => x ^^^ y) (· ^^^ ·) rfl fun x y => Nat.mod_eq_of_lt (x ^^^ y).isLt
  case shl =>
    refine computes_alu2 (f := fun n x y => x * 2 ^ shamt n y) (fun x y => x <<< (y.toNat % (32 * 2 ^ w.toNat))) rfl fun x y => ?_
    rw [BitVec.toNat_shiftLeft, Nat.shiftLeft_eq, shamt]
  case shr =>
    refine computes_alu2 (f := fun n x y => x / 2 ^ shamt n y) (fun x y => x >>> (y.toNat % (32 * 2 ^ w.toNat))) rfl fun x y => ?_
    rw [BitVec.toNat_ushiftRight, Nat.shiftRight_eq_div_pow, shamt]
    exact Nat.mod_eq_of_lt (Nat.lt_of_le_of_lt (Nat.div_le_self _ _) x.isLt)
  case sar => exact computes_alu2 (f := fun n x y => sarNat n x (shamt n y)) (fun x y => x.sshiftRight (y.toNat % (32 * 2 ^ w.toNat))) rfl fun x y => toNat_sarNat x _ hk
  case imullo => exact computes_alu2 (f := fun _ x y => x * y) (· * ·) rfl fun x y => (BitVec.toNat_mul x y).symm
end

section
/-! SUPPORT. Results that carry an error, taken apart: what a run of steps that succeeds says of each of them. -/

namespace Sys2Proof.Machine

/-- A bind of an `Except` that succeeds: its parts do. -/
theorem exists_of_bind_ok {ε α β : Type} {x : Except ε α} {f : α → Except ε β} {b : β} (h : x >>= f = .ok b) :
    ∃ a, x = .ok a ∧ f a = .ok b := by
  cases x with
  | error e => cases h
  | ok a => exact ⟨a, rfl, h⟩

/-- A map of an `Except` that succeeds: what it maps does. -/
theorem exists_of_map_ok {ε α β : Type} {x : Except ε α} {f : α → β} {b : β} (h : x.map f = .ok b) : ∃ a, x = .ok a ∧ f a = b := by
  cases x with
  | error e => cases h
  | ok a => exact ⟨a, rfl, Except.ok.inj h⟩

theorem exists_of_mapError_ok {ε δ α : Type} {x : Except ε α} {f : ε → δ} {a : α} (h : x.mapError f = .ok a) : x = .ok a := by
  cases x with
  | error e => cases h
  | ok b =>
    cases h
    rfl

/-- What holds of the initial value and is kept by each successful step holds of the value that a fold ends with. -/
theorem of_foldlM_ok {ε α β : Type} {P : β → Prop} {f : β → α → Except ε β} (hf : ∀ b x c, P b → f b x = .ok c → P c) {xs : List α} {b c : β} (h : P b)
    (ht : xs.foldlM f b = .ok c) : P c := by
  induction xs generalizing b with
  | nil =>
    cases ht
    exact h
  | cons x xs ih =>
    rw [List.foldlM_cons] at ht
    obtain ⟨d, hd, ht⟩ := exists_of_bind_ok ht
    exact ih (hf _ _ _ h hd) ht

theorem getD_memWf {o : Option State} {s : State} (ho : ∀ t, o = some t → t.memWf) (h : s.memWf) : (o.getD s).memWf := by
  cases o with
  | none => exact h
  | some t => exact ho t rfl

end Sys2Proof.Machine
end

section
/-! SUPPORT. The updates of the state leave both memories as they are. -/

namespace Sys2Proof.Machine

theorem State.ticks_memWf {s : State} {n : Nat} (h : s.memWf) : (s.ticks n).memWf := h

theorem State.oneCycle_memWf {s : State} (h : s.memWf) : s.oneCycle.memWf := h

theorem State.fresh_memWf {s : State} (h : s.memWf) : s.fresh.memWf := h

theorem State.updCtx_memWf {s : State} {asid : Nat} {f : Context → Context} (h : s.memWf) : (s.updCtx asid f).memWf := h

theorem State.updGroup_memWf {s : State} {gid : Nat} {f : Group → Group} (h : s.memWf) : (s.updGroup gid f).memWf := h

theorem State.updThread_memWf {s : State} {gid tid : Nat} {f : Thread → Thread} (h : s.memWf) : (s.updThread gid tid f).memWf :=
  State.updGroup_memWf h

theorem State.updSpan_memWf {s : State} {sid : Nat} {f : Span → Span} (h : s.memWf) : (s.updSpan sid f).memWf := h

theorem State.updTile_memWf {s : State} {uid : Nat} {f : Tile → Tile} (h : s.memWf) : (s.updTile uid f).memWf := h

theorem State.updCore_memWf {s : State} {c : Nat} {f : Core → Core} (h : s.memWf) : (s.updCore c f).memWf := h

theorem State.updDie_memWf {s : State} {d : Nat} {f : Die → Die} (h : s.memWf) : (s.updDie d f).memWf := h

theorem State.updQueue_memWf {s : State} {q : Nat} {f : Queue → Queue} (h : s.memWf) : (s.updQueue q f).memWf := h

theorem State.updGraph_memWf {s : State} {g : Nat} {f : Graph → Graph} (h : s.memWf) : (s.updGraph g f).memWf := h

theorem State.updTandem_memWf {s : State} {gid : Nat} {f : Tandem → Tandem} (h : s.memWf) : (s.updTandem gid f).memWf := h

theorem State.setPhysBytes_keepsMemWf {s : State} {pa : Nat} {bs : List Byte} (h : s.memWf) : (s.setPhysBytes pa bs).memWf :=
  ⟨State.setPhysBytes_memWf h.1 pa bs, (State.setPhysBytes_hostMem s pa bs).symm ▸ h.2⟩

theorem State.touch_memWf {s : State} {d l : Nat} (h : s.memWf) : (s.touch d l).memWf := h

theorem State.setWriter_memWf {s : State} {l asid : Nat} (h : s.memWf) : (s.setWriter l asid).memWf := h

theorem State.dropL1_memWf {s : State} {core l : Nat} (h : s.memWf) : (s.dropL1 core l).memWf := h

theorem State.oweAs_memWf {s : State} {o : Owed} (h : s.memWf) : (s.oweAs o).memWf := by
  unfold State.oweAs
  split <;> exact h

theorem State.owe_memWf {s : State} {gid tid id lw gw : Nat} (h : s.memWf) : (s.owe gid tid id lw gw).memWf := by
  unfold State.owe
  split
  · exact State.oweAs_memWf h
  · split
    · exact State.oweAs_memWf h
    · exact h

theorem State.oweUnit_memWf {s : State} {asid core gw : Nat} (h : s.memWf) : (s.oweUnit asid core gw).memWf :=
  State.oweAs_memWf h

theorem State.setMailbox_memWf {s : State} {m : Mailbox} (h : s.memWf) : (s.setMailbox m).memWf := h

theorem State.arithLate_memWf {s : State} {gid tid : Nat} {old : Option Thread} (h : s.memWf) : (s.arithLate gid tid old).memWf := by
  unfold State.arithLate
  split
  · split
    · exact (State.takeTrap_sameCells _ _ _ _ _ _ _).memWf h
    · exact h
  · exact h

theorem State.trapReturn_memWf {s : State} {gid tid : Nat} {pc : PC} (h : s.memWf) : (s.trapReturn gid tid pc).memWf :=
  State.arithLate_memWf ((State.resumeThread_sameCells _ _ _ _).memWf h)

theorem State.parkThread_memWf {s : State} {gid tid : Nat} {c : Cause} (h : s.memWf) : (s.parkThread gid tid c).memWf :=
  State.fresh_memWf (State.updThread_memWf h)

theorem State.wakeThread_memWf {s : State} {gid tid : Nat} (h : s.memWf) : (s.wakeThread gid tid).memWf :=
  State.updThread_memWf h

theorem State.reinTo_memWf {s : State} {core gid : Nat} (h : s.memWf) : (s.reinTo core gid).memWf :=
  State.updGroup_memWf (State.updCore_memWf h)

theorem State.reinRelease_memWf {s : State} {core : Nat} (h : s.memWf) : (s.reinRelease core).memWf := by
  unfold State.reinRelease
  split
  · exact State.updCore_memWf h
  · exact State.reinTo_memWf h

theorem State.leaveRein_memWf {s : State} {core gid : Nat} (h : s.memWf) : (s.leaveRein core gid).memWf := by
  unfold State.leaveRein
  split
  · exact State.reinRelease_memWf h
  · exact State.updCore_memWf h

end Sys2Proof.Machine
end

section
/-! SUPPORT. Translation, the bytes that a core reads, faults and traps keep both memories in canonical form. -/

namespace Sys2Proof.Machine

theorem State.tlbCount_memWf {s : State} {unit die asid va : Nat} (h : s.memWf) : (s.tlbCount unit die asid va).memWf :=
  (State.count_sameCells _ _ _ _).memWf h

theorem State.tlbFill_memWf {s : State} {unit die asid va : Nat} (h : s.memWf) : (s.tlbFill unit die asid va).memWf := by
  unfold State.tlbFill
  split
  · exact h
  · split
    · exact h
    · extract_lets s1
      have hs1 : s1.memWf := State.tlbCount_memWf h
      clear_value s1
      split
      · exact hs1
      · split <;> exact hs1

theorem State.touchFor_memWf {s : State} {need : Need} {unit die asid va n : Nat} (h : s.memWf) : (s.touchFor need unit die asid va n).memWf := by
  unfold State.touchFor
  split
  · exact h
  · exact (State.touchPieces_sameCells _ _ _).memWf h

theorem State.touchRead_memWf {s : State} {unit die asid va n : Nat} (h : s.memWf) : (s.touchRead unit die asid va n).memWf :=
  State.touchFor_memWf h

theorem State.dropRead_memWf {s : State} {core asid va n : Nat} (h : s.memWf) : (s.dropRead core asid va n).memWf := by
  unfold State.dropRead
  split
  · exact h
  · exact foldl_memWf (fun _ _ hs => State.dropL1_memWf hs) _ h

theorem State.poisonBytes_memWf {s : State} {unit die asid va n : Nat} (h : s.memWf) : (s.poisonBytes unit die asid va n).memWf := by
  unfold State.poisonBytes
  split
  · exact h
  · exact foldl_memWf (fun _ _ hs => (State.poisonLine_sameCells _ _).memWf hs) _ h

theorem State.unhold_memWf {s : State} {gone : HeldItem → Bool} (h : s.memWf) : (s.unhold gone).memWf :=
  foldl_memWf (fun _ _ hs => State.writeFaultHeader_memWf (State.updCtx_memWf hs) _) _ h

theorem State.arithTrap_memWf {s : State} {gid tid : Nat} (h : s.memWf) : (s.arithTrap gid tid).memWf := by
  unfold State.arithTrap
  split
  · split
    · exact (State.takeTrap_sameCells _ _ _ _ _ _ _).memWf h
    · exact h
  · exact h

theorem State.updLane_memWf {s : State} {l : Lane} {f : Thread → Thread} (h : s.memWf) : (s.updLane l f).memWf :=
  State.updThread_memWf h

end Sys2Proof.Machine
end

section
/-! SUPPORT. Fetching and issuing leave both memories as they are. -/

namespace Sys2Proof.Machine

theorem State.fetch_memWf {s : State} {gid tid : Nat} (h : s.memWf) : (s.fetch gid tid).memWf := by
  unfold State.fetch
  split
  · split
    · exact State.applyStop_memWf h _ _ _
    · extract_lets s
      have hs : s.memWf := State.touchFor_memWf (State.tlbFill_memWf h)
      clear_value s
      split
      · exact State.applyStop_memWf hs _ _ _
      · exact State.updThread_memWf hs
  · exact h

theorem State.notePassed_memWf {s : State} {core : Nat} (h : s.memWf) : (s.notePassed core).memWf :=
  State.updCore_memWf h

theorem State.notePipes_memWf {s : State} {core quarter pack : Nat} {ws : List Word} (h : s.memWf) : (s.notePipes core quarter pack ws).memWf :=
  State.updCore_memWf h

theorem State.afterIssue_memWf {s : State} {nopAlone : Bool} (h : s.memWf) : (s.afterIssue nopAlone).memWf := by
  unfold State.afterIssue
  extract_lets _ s1
  have hs1 : s1.memWf := h
  clear_value s1
  split
  · exact hs1
  · exact foldl_memWf (fun _ _ hs => State.updThread_memWf hs) _ hs1

theorem State.retryHolds_memWf {s : State} (h : s.memWf) : s.retryHolds.memWf := h

end Sys2Proof.Machine
end

section
/-! SUPPORT. The control words (R119-R132, R173, R219) keep both memories in canonical form. -/

namespace Sys2Proof.Machine

theorem execNop_memWf {s t : State} (h : s.memWf) (ht : execNop s = .next t) : t.memWf := by
  unfold execNop at ht
  cases ht
  exact foldl_memWf (fun _ _ hs => State.arithTrap_memWf (State.updThread_memWf hs)) _ h

theorem execBra_memWf {s t : State} {p : BitVec 3} {n : BitVec 1} {o : BitVec 21} (h : s.memWf) (ht : execBra p n o s = .next t) : t.memWf := by
  refine runWord_memWf (fun l s t h ht => ?_) h ht
  extract_lets poisoned at ht
  split at ht <;> cases ht
  split
  · exact State.updLane_memWf h
  · exact h

theorem execCall_memWf {s t : State} {d : BitVec 6} {i : BitVec 19} (h : s.memWf) (ht : execCall d i s = .next t) : t.memWf := by
  refine runWord_memWf (fun l s t h ht => ?_) h ht
  cases ht
  exact State.updLane_memWf h

theorem execJr_memWf {s t : State} {a : BitVec 6} (h : s.memWf) (ht : execJr a s = .next t) : t.memWf := by
  refine runWord_memWf (fun l s t h ht => ?_) h ht
  split at ht <;> cases ht
  exact State.updLane_memWf h

theorem execJalr_memWf {s t : State} {d a : BitVec 6} (h : s.memWf) (ht : execJalr d a s = .next t) : t.memWf := by
  refine runWord_memWf (fun l s t h ht => ?_) h ht
  split at ht <;> cases ht
  exact State.updLane_memWf h

theorem State.settle_memWf {s : State} (h : s.memWf) : s.settle.memWf :=
  foldl_memWf (fun _ _ hs => (State.settleGroup_sameCells _ _).memWf hs) _ h

theorem exchange_memWf {s t : State} {i : Instr} {op d a b : Nat} (h : s.memWf) (ht : exchange i op d a b s = .next t) : t.memWf := by
  refine thenSettle_memWf (fun t ht => ?_) ht
  refine runWord_memWf (fun l s t h ht => ?_) h ht
  split at ht <;> cases ht
  exact State.updLane_memWf h

theorem execBarG_memWf {s t : State} (h : s.memWf) (ht : execBarG s = .next t) : t.memWf := by
  refine thenSettle_memWf (fun t ht => ?_) ht
  refine runWord_memWf (fun l s t h ht => ?_) h ht
  split at ht <;> cases ht
  exact h

theorem execBarS_memWf {s t : State} {w h' : BitVec 4} (h : s.memWf) (ht : execBarS w h' s = .next t) : t.memWf := by
  refine thenSettle_memWf (fun t ht => ?_) ht
  refine runWord_memWf (fun l s t h ht => ?_) h ht
  split at ht
  · cases ht
    exact h
  · extract_lets fits at ht
    split at ht <;> cases ht

theorem State.dropMxDone_memWf {s : State} {gid tid : Nat} (h : s.memWf) : (s.dropMxDone gid tid).memWf := h

theorem execExit_memWf {s t : State} (h : s.memWf) (ht : execExit s = .next t) : t.memWf := by
  refine thenSettle_memWf (fun t ht => ?_) ht
  refine runWord_memWf (fun l s t h ht => ?_) h ht
  split at ht <;> cases ht
  exact State.updLane_memWf (State.dropMxDone_memWf h)

theorem execTrap_memWf {s t : State} {a : BitVec 6} {n : BitVec 8} (h : s.memWf) (ht : execTrap a n s = .next t) : t.memWf := by
  refine runWord_memWf (fun l s t h ht => ?_) h ht
  cases ht
  exact (State.takeTrap_sameCells _ _ _ _ _ _ _).memWf h

theorem execBrk_memWf {s t : State} {n : BitVec 8} (h : s.memWf) (ht : execBrk n s = .next t) : t.memWf := by
  refine runWord_memWf (fun l s t h ht => ?_) h ht
  cases ht
  exact (State.takeTrap_sameCells _ _ _ _ _ _ _).memWf h

theorem execYield_memWf {s t : State} (h : s.memWf) (ht : execYield s = .next t) : t.memWf := by
  refine runWord_memWf (fun l s t h ht => ?_) h ht
  cases ht
  exact State.updLane_memWf h

theorem execYieldExpiry_memWf {s u : State} {g t : Nat} (h : s.memWf) (ht : execYieldExpiry g t s = .next u) : u.memWf := by
  unfold execYieldExpiry at ht
  split at ht
  · split at ht
    · split at ht <;> cases ht
      exact State.wakeThread_memWf h
    · cases ht
  · cases ht

theorem execErrq_memWf {s t : State} {d : BitVec 6} (h : s.memWf) (ht : execErrq d s = .next t) : t.memWf := by
  refine runWord_memWf (fun l s t h ht => ?_) h ht
  extract_lets t at ht
  split at ht <;> cases ht
  exact State.updLane_memWf h

theorem State.mergeMx_memWf {s : State} {gid tid : Nat} (h : s.memWf) : (s.mergeMx gid tid).memWf :=
  State.updThread_memWf h

theorem execWait_memWf {s u : State} {l s_ p t : BitVec 4} (h : s.memWf) (ht : execWait l s_ p t s = .next u) : u.memWf := by
  refine runWord_memWf (fun l s t h ht => ?_) h ht
  extract_lets le at ht
  split at ht <;> cases ht
  exact State.mergeMx_memWf h

theorem execMwait_memWf {s t : State} {c : BitVec 1} (h : s.memWf) (ht : execMwait c s = .next t) : t.memWf := by
  refine runWord_memWf (fun l s t h ht => ?_) h ht
  split at ht <;> cases ht
  exact State.mergeMx_memWf h

theorem execFence_memWf {s t : State} {c : BitVec 1} {s_ : BitVec 3} {a b : BitVec 6} (h : s.memWf) (ht : execFence c s_ a b s = .next t) : t.memWf := by
  refine runWord_memWf (fun l s t h ht => ?_) h ht
  extract_lets f at ht
  split at ht <;> cases ht
  exact h

theorem execNotAnInstruction_memWf {s t : State} {_w : BitVec 32} (h : s.memWf) (ht : execNotAnInstruction _w s = .next t) : t.memWf := by
  unfold execNotAnInstruction at ht
  cases ht
  exact foldl_memWf (fun _ _ hs => State.stopLane_memWf hs _ _) _ h

theorem execPoisonSkid_memWf {s u : State} {g t : Nat} (h : s.memWf) (ht : execPoisonSkid g t s = .next u) : u.memWf := by
  unfold execPoisonSkid at ht
  split at ht
  · split at ht <;> cases ht
    exact (State.takeTrap_sameCells _ _ _ _ _ _ _).memWf h
  · cases ht

end Sys2Proof.Machine
end

section
/-! SUPPORT. The links between dies (R283-R285) keep both memories in canonical form. -/

namespace Sys2Proof.Machine

theorem State.updLink_memWf {s : State} {src dst : Nat} {f : Link → Link} (h : s.memWf) : (s.updLink src dst f).memWf := h

theorem State.carryLine_memWf {s : State} {src dst line : Nat} {d : LineData} (h : s.memWf) : (s.carryLine src dst line d).memWf :=
  foldl_memWf (fun _ _ hs => (State.putLine_sameCells _ _ _ _ _ _ _).memWf (State.fresh_memWf hs)) _ h

theorem State.flowAlong_memWf {s : State} {way : List (Nat × Nat)} (h : s.memWf) : (s.flowAlong way).memWf :=
  foldl_memWf (fun _ _ hs => (State.flow_sameCells _ _ _ _).memWf hs) _ h

theorem State.hopDone_memWf {s : State} {a b : Nat} {w : WireLine} {d : LineData} (h : s.memWf) : (s.hopDone a b w d).memWf := by
  unfold State.hopDone
  split
  · exact State.flowAlong_memWf (State.updLink_memWf h)
  · exact State.flowAlong_memWf ((State.cross_sameCells _ _ _ _).memWf h)

theorem State.dropMsg_memWf {s : State} {id : Nat} (h : s.memWf) : (s.dropMsg id).memWf := h

theorem execLineReceive_memWf {s t : State} {src dst : Nat} {damaged : Bool} (h : s.memWf)
    (ht : execLineReceive src dst damaged s = .next t) : t.memWf := by
  unfold execLineReceive at ht
  split at ht
  · cases ht
  split at ht
  · cases ht
  split at ht
  · cases ht
  split at ht
  · cases ht
    exact (State.count_sameCells _ _ _ _).memWf (State.updLink_memWf h)
  · extract_lets s1 asid s2 at ht
    have hs1 : s1.memWf := State.updLink_memWf h
    clear_value s1
    have hs2 : s2.memWf := by
      unfold s2
      split
      · exact (State.raiseErr_sameCells _ _).memWf hs1
      · exact hs1
    clear_value s2
    cases ht
    exact State.hopDone_memWf hs2

theorem State.recode_memWf {s : State} {a b : Nat} (h : s.memWf) : (s.recode a b).memWf :=
  (State.count_sameCells _ _ _ _).memWf (foldl_memWf (fun _ _ hs => (State.putLine_sameCells _ _ _ _ _ _ _).memWf hs) _ (State.updLink_memWf h))

theorem execReplayRequest_memWf {s t : State} {src dst : Nat} (h : s.memWf) (ht : execReplayRequest src dst s = .next t) : t.memWf := by
  unfold execReplayRequest at ht
  split at ht
  · cases ht
  split at ht <;> cases ht
  exact State.updLink_memWf (State.recode_memWf h)

theorem State.resetLink_memWf {s : State} {a b : Nat} (h : s.memWf) : (s.resetLink a b).memWf :=
  State.updLink_memWf (State.recode_memWf h)

theorem execLinkRetrain_memWf {s t : State} {a b : Nat} (h : s.memWf) (ht : execLinkRetrain a b s = .next t) : t.memWf := by
  unfold execLinkRetrain at ht
  split at ht <;> cases ht
  exact State.resetLink_memWf (State.resetLink_memWf h)

end Sys2Proof.Machine
end

section
/-! SUPPORT. The parts of an access (R210-R233) keep both memories in canonical form. -/

namespace Sys2Proof.Machine

theorem State.updAcc_memWf {s : State} {id : Nat} {f : Acc → Acc} (h : s.memWf) : (s.updAcc id f).memWf := h

theorem State.writeL1_memWf {s : State} {core l off : Nat} {bs : List Byte} {lw gw : Nat} {poison : Bool}
    (h : s.memWf) : (s.writeL1 core l off bs lw gw poison).memWf := h

theorem State.fromFlc_memWf {s : State} {d l : Nat} (h : s.memWf) : (s.fromFlc d l).memWf := by
  unfold State.fromFlc
  extract_lets x
  split
  · exact (State.count_sameCells _ _ _ _).memWf ((State.setDieLine_sameCells _ _ _).memWf h)
  · exact h

theorem State.askLine_memWf {s : State} {d : Nat} {a : Acc} {p : Part} {k : MsgKind} {st : LineSt} (h : s.memWf) : (s.askLine d a p k st).memWf := by
  unfold State.askLine
  extract_lets l x s0 s1
  have hs0 : s0.memWf := by
    unfold s0
    split
    · exact (State.count_sameCells _ _ _ _).memWf h
    · exact h
  clear_value s0
  have hs1 : s1.memWf := (State.setDieLine_sameCells _ _ _).memWf hs0
  clear_value s1
  exact State.updAcc_memWf ((State.send_sameCells _ _).memWf hs1)

theorem State.sliceAccess_memWf {s : State} {a : Acc} {p : Part} (h : s.memWf) : (s.sliceAccess a p).memWf := by
  unfold State.sliceAccess
  extract_lets d l s x wait
  have hs : s.memWf := State.fromFlc_memWf h
  clear_value s
  have hwait : wait.memWf := State.updAcc_memWf hs
  clear_value wait
  split
  · exact hwait
  · split
    · split
      · split
        · exact State.updAcc_memWf ((State.setDieLine_sameCells _ _ _).memWf hs)
        · exact (State.performAt_sameCells _ _ _ _).memWf hs
      · split
        · exact State.updAcc_memWf ((State.setDieLine_sameCells _ _ _).memWf hs)
        · exact (State.performAt_sameCells _ _ _ _).memWf hs
      · exact State.askLine_memWf hs
      · exact State.askLine_memWf hs
      · exact State.askLine_memWf hs
      · exact hwait
    · split
      · exact (State.performAt_sameCells _ _ _ _).memWf hs
      · exact (State.performAt_sameCells _ _ _ _).memWf hs
      · exact (State.performAt_sameCells _ _ _ _).memWf hs
      · exact (State.performAt_sameCells _ _ _ _).memWf hs
      · exact (State.performAt_sameCells _ _ _ _).memWf hs
      · exact State.askLine_memWf hs
      · exact hwait

theorem State.updEntry_memWf {s : State} {gid aid : Nat} {f : CEntry → CEntry} (h : s.memWf) : (s.updEntry gid aid f).memWf :=
  State.updTandem_memWf h

theorem State.giveValue_memWf {s : State} {gid tid aid : Nat} {recv : Thread → Thread} {ws : List Word} {poison : Bool}
    (h : s.memWf) : (s.giveValue gid tid aid recv ws poison).memWf := by
  unfold State.giveValue
  split
  · exact State.updThread_memWf h
  · exact State.updThread_memWf (State.updThread_memWf (State.updEntry_memWf h))

theorem State.launchAcc_memWf {s : State} {a : Acc} (h : s.memWf) : (s.launchAcc a).memWf := by
  unfold State.launchAcc
  extract_lets b drops hits s1
  have hs1 : s1.memWf := foldl_memWf (fun _ _ hs => State.touch_memWf hs) _ (foldl_memWf (fun _ _ hs => State.dropL1_memWf hs) _ h)
  clear_value s1
  exact hs1

theorem State.sideEnter_memWf {s : State} {a : Acc} {held : Bool} (h : s.memWf) : (s.sideEnter a held).memWf := h

theorem State.dropAccs_memWf {s : State} {gone : Acc → Bool} (h : s.memWf) : (s.dropAccs gone).memWf :=
  foldl_memWf (fun _ _ hs => foldl_memWf (fun _ _ hs => (State.askerDone_sameCells _ _ _ _).memWf hs) _ hs) _ h

theorem State.faultRecord_memWf {s : State} {g : Group} {tid : Nat} {va : DWord} {sev : Nat} (h : s.memWf) : (s.faultRecord g tid va sev).memWf :=
  (State.raiseErr_sameCells _ _).memWf h

theorem State.endThreads_memWf {s : State} {gid : Nat} (h : s.memWf) : (s.endThreads gid).memWf := by
  unfold State.endThreads
  split
  · exact h
  · extract_lets held withdrawn lost side s1 s2 u _ s3 s4
    have hs1 : s1.memWf := foldl_memWf (fun _ _ hs => State.faultRecord_memWf hs) _ h
    clear_value s1
    have hs2 : s2.memWf := foldl_memWf (fun _ _ hs => State.faultRecord_memWf hs) _ hs1
    clear_value s2
    have hu : u.memWf := State.unhold_memWf hs2
    clear_value u
    have hs3 : s3.memWf := State.dropAccs_memWf hu
    clear_value s3
    have hs4 : s4.memWf := State.updGroup_memWf hs3
    clear_value s4
    exact State.updSpan_memWf (State.updTandem_memWf hs4)

theorem State.terminate_memWf {s : State} {gid : Nat} (h : s.memWf) : (s.terminate gid).memWf := by
  unfold State.terminate
  split
  · exact State.endThreads_memWf (State.endThreads_memWf h)
  · exact State.endThreads_memWf h

theorem State.addEntry_memWf {s : State} {l : Lane} {e : CEntry} (h : s.memWf) : (s.addEntry l e).memWf :=
  State.updTandem_memWf h

theorem State.beginOp_memWf {s : State} {l : Lane} {cls dst dcnt : Nat} (h : s.memWf) : (s.beginOp l cls dst dcnt).memWf :=
  State.updLane_memWf h

theorem memAccess_memWf {s t : State} {q : Req} {l : Lane} (h : s.memWf) (ht : memAccess q l s = .ok t) : t.memWf := by
  unfold memAccess at ht
  split at ht
  · cases ht
  split at ht
  · cases ht
  · cases ht
  · cases ht
    exact h
  · split at ht
    · cases ht
    split at ht
    · cases ht
    extract_lets -underBinder count _ a at ht
    split at ht
    · split at ht
      · cases ht
        exact State.updLane_memWf h
      · extract_lets -underBinder s1 at ht
        have hs1 : s1.memWf := State.beginOp_memWf (State.updLane_memWf h)
        clear_value s1
        cases ht
        exact hs1
    · cases ht
      exact State.beginOp_memWf (State.updLane_memWf h)
    · extract_lets -underBinder behind lead at ht
      split at ht
      · split at ht <;> cases ht
        exact State.sideEnter_memWf (State.beginOp_memWf h)
      · split at ht
        · split at ht
          · cases ht
          subst lead
          split at ht
          · cases ht
            exact State.fresh_memWf (State.addEntry_memWf (State.beginOp_memWf (State.updLane_memWf h)))
          · split at ht
            · cases ht
            extract_lets -underBinder s1 at ht
            have hs1 : s1.memWf := State.postFault_memWf (State.sideEnter_memWf (State.beginOp_memWf h)) _ _ _ _ _ _
            clear_value s1
            cases ht
            split
            · exact State.terminate_memWf hs1
            · exact hs1
        · extract_lets -underBinder s0 a s1 at ht
          have hs0 : s0.memWf := foldl_memWf (fun _ _ hs => State.tlbFill_memWf hs) _ h
          clear_value s0
          have hs1 : s1.memWf := State.beginOp_memWf (State.updLane_memWf hs0)
          clear_value s1
          subst lead
          split at ht
          · cases ht
            exact State.launchAcc_memWf hs1
          · extract_lets -underBinder held s2 at ht
            have hs2 : s2.memWf := State.addEntry_memWf hs1
            clear_value s2
            cases ht
            split
            · exact State.fresh_memWf hs2
            · exact State.launchAcc_memWf hs2

end Sys2Proof.Machine
end

section
/-! SUPPORT. The directory (R272-R277, R289, R290) keeps both memories in canonical form: what a home takes in goes to memory as a whole line. -/

namespace Sys2Proof.Machine

theorem State.snoop_memWf {s : State} {x : Dir} {k : MsgKind} {asid d : Nat} (h : s.memWf) : (s.snoop x k asid d).memWf :=
  (State.count_sameCells _ _ _ _).memWf ((State.send_sameCells _ _).memWf h)

theorem State.grantTo_memWf {s : State} {x : Dir} {m : Msg} {st : LineSt} {data : Option LineData} (h : s.memWf) : (s.grantTo x m st data).memWf :=
  (State.send_sameCells _ _).memWf h

theorem State.withLine_memWf {s : State} {l : Nat} {d : LineData} (h : s.memWf) : ({ s with mem := Memory.setLine s.mem l d } : State).memWf := by
  dsimp only [State.memWf]
  exact ⟨Memory.setLine_wf h.1 l d, h.2⟩

theorem State.futurePerform_memWf {s : State} {a : Acc} {p : Part} (h : s.memWf) : (s.futurePerform a p).memWf := by
  unfold State.futurePerform
  extract_lets -underBinder l
  split
  · split
    · exact State.updAcc_memWf h
    · split <;> exact State.updAcc_memWf h
  · extract_lets -underBinder lw gw s1 s2 s3
    have hs1 : s1.memWf := State.writeL1_memWf (State.writePhys_memWf h _ _ _ _)
    clear_value s1
    have hs2 : s2.memWf := by
      unfold s2
      split
      · exact (State.poisonLine_sameCells _ _).memWf hs1
      · exact hs1
    clear_value s2
    have hs3 : s3.memWf := hs2
    clear_value s3
    exact State.updAcc_memWf hs3
  · dsimp only [State.memWf]
    exact State.updAcc_memWf h

theorem State.writeSpill_memWf {s : State} {m : Monitor} (h : s.memWf) : (s.writeSpill m).memWf := by
  unfold State.writeSpill
  split
  · exact getD_memWf (fun _ ht => State.ctlWrite_memWf h ht) h
  · exact h

theorem State.setMonitor_memWf {s : State} {m : Monitor} (h : s.memWf) : (s.setMonitor m).memWf := h

theorem State.insertMonitor_memWf {s : State} {m : Monitor} (h : s.memWf) : (s.insertMonitor m).memWf := by
  unfold State.insertMonitor
  extract_lets full m s1 s2
  have hs1 : s1.memWf := State.setMonitor_memWf h
  clear_value s1
  have hs2 : s2.memWf := by
    unfold s2
    split
    · exact State.writeSpill_memWf hs1
    · exact hs1
  clear_value s2
  split
  · exact (State.wakeMonitor_sameCells _ _ _).memWf hs2
  · exact hs2

theorem State.homeAct_memWf {s : State} {m : Msg} (h : s.memWf) : (s.homeAct m).memWf := by
  unfold State.homeAct
  split
  · split
    · exact State.insertMonitor_memWf h
    · exact h
  · split
    · split
      · exact State.futurePerform_memWf h
      · exact h
    · exact h
  · exact h

theorem State.finishHome_memWf {s : State} {x : Dir} (h : s.memWf) : (s.finishHome x).memWf := by
  unfold State.finishHome
  extract_lets done left
  split
  · exact (State.setDir_sameCells _ _).memWf (State.takeData_memWf h _)
  · split
    · exact (State.setDir_sameCells _ _).memWf ((State.send_sameCells _ _).memWf (State.takeData_memWf h _))
    · split
      · exact (State.setDir_sameCells _ _).memWf (State.grantTo_memWf h)
      · exact State.homeAct_memWf ((State.setDir_sameCells _ _).memWf (State.takeData_memWf h _))
      · exact State.homeAct_memWf ((State.setDir_sameCells _ _).memWf (State.takeData_memWf h _))
      · exact (State.setDir_sameCells _ _).memWf (State.grantTo_memWf h)
      · exact (State.setDir_sameCells _ _).memWf (State.grantTo_memWf h)

theorem State.await_memWf {s : State} {x : Dir} (h : s.memWf) : (s.await x).memWf := by
  unfold State.await
  split
  · exact State.finishHome_memWf h
  · exact (State.setDir_sameCells _ _).memWf h

theorem State.takeExclusive_memWf {s : State} {x : Dir} {m : Msg} (h : s.memWf) : (s.takeExclusive x m).memWf := by
  unfold State.takeExclusive
  extract_lets holds upg s others fwd s1 x1
  have hs : s.memWf := by
    unfold s
    split
    · exact (State.count_sameCells _ _ _ _).memWf h
    · exact h
  clear_value s
  have hs1 : s1.memWf := foldl_memWf (fun _ _ hs => State.snoop_memWf hs) _ hs
  clear_value s1
  exact State.await_memWf hs1

theorem State.forward_memWf {s : State} {x : Dir} {m : Msg} (h : s.memWf) : (s.forward x m).memWf :=
  (State.setDir_sameCells _ _).memWf (State.snoop_memWf h)

theorem State.takeShared_memWf {s : State} {x : Dir} {m : Msg} (h : s.memWf) : (s.takeShared x m).memWf := by
  unfold State.takeShared
  split
  · split
    · exact (State.setDir_sameCells _ _).memWf (State.grantTo_memWf h)
    · exact State.forward_memWf h
  · split <;> exact (State.setDir_sameCells _ _).memWf (State.grantTo_memWf h)

theorem State.takeRecall_memWf {s : State} {x : Dir} {m : Msg} (h : s.memWf) : (s.takeRecall x m).memWf := by
  unfold State.takeRecall
  split
  · exact State.forward_memWf h
  · exact State.homeAct_memWf ((State.setDir_sameCells _ _).memWf h)

theorem State.takeRequest_memWf {s : State} {x : Dir} {m : Msg} (h : s.memWf) : (s.takeRequest x m).memWf := by
  unfold State.takeRequest
  split
  · exact State.takeShared_memWf h
  · exact State.takeRecall_memWf h
  · exact State.takeRecall_memWf h
  · exact State.takeExclusive_memWf h

theorem State.homeNext_memWf {s : State} {l k : Nat} (h : s.memWf) : (s.homeNext l k).memWf := by
  induction k generalizing s with
  | zero =>
    rw [State.homeNext]
    exact h
  | succ n ih =>
    rw [State.homeNext]
    split
    · exact h
    · split
      · exact h
      · split
        · exact h
        · exact ih (State.takeRequest_memWf h)

theorem State.arriveHome_memWf {s : State} {x : Dir} {m : Msg} {src : Nat} (h : s.memWf) : (s.arriveHome x m src).memWf :=
  State.homeNext_memWf ((State.setDir_sameCells _ _).memWf h)

theorem request_memWf {s t : State} {id : Nat} {k : MsgKind} (h : s.memWf) (ht : request id k s = .next t) : t.memWf := by
  unfold request at ht
  split at ht
  · cases ht
  extract_lets x at ht
  split at ht <;> cases ht
  exact State.arriveHome_memWf (State.dropMsg_memWf h)

theorem snooped_memWf {s t : State} {id : Nat} {k : MsgKind} (h : s.memWf) (ht : snooped id k s = .next t) : t.memWf := by
  unfold snooped at ht
  split at ht <;> cases ht
  exact (State.answer_sameCells _ _).memWf (State.dropMsg_memWf h)

theorem execDirectoryAnswer_memWf {s t : State} {id : Nat} (h : s.memWf) (ht : execDirectoryAnswer id s = .next t) : t.memWf := by
  unfold execDirectoryAnswer at ht
  split at ht
  · cases ht
  extract_lets s x at ht
  have hs : s.memWf := State.dropMsg_memWf h
  clear_value s
  split at ht
  · cases ht
    exact hs
  · cases ht
    exact State.homeNext_memWf (State.await_memWf hs)

theorem execNoLineAnswer_memWf {s t : State} {id : Nat} (h : s.memWf) (ht : execNoLineAnswer id s = .next t) : t.memWf := by
  unfold execNoLineAnswer at ht
  split at ht
  · cases ht
  extract_lets s x at ht
  have hs : s.memWf := State.dropMsg_memWf h
  clear_value s
  cases ht
  split
  · exact (State.setDir_sameCells _ _).memWf hs
  · exact hs

theorem State.ackWb_memWf {s : State} {m : Msg} (h : s.memWf) : (s.ackWb m).memWf :=
  (State.send_sameCells _ _).memWf h

theorem execWb_memWf {s t : State} {id : Nat} (h : s.memWf) (ht : execWb id s = .next t) : t.memWf := by
  unfold execWb at ht
  split at ht
  · cases ht
  split at ht
  · cases ht
  extract_lets +onlyGivenNames s x take x1 at ht
  have hs : s.memWf := State.dropMsg_memWf h
  have htake : take.memWf := by
    unfold take
    split
    · exact State.withLine_memWf hs
    · exact hs
  clear_value take
  split at ht
  · split at ht
    · cases ht
      exact State.homeNext_memWf (State.ackWb_memWf ((State.setDir_sameCells _ _).memWf htake))
    · cases ht
      exact State.ackWb_memWf hs
  · split at ht
    · extract_lets +onlyGivenNames sh x2 s1 at ht
      have hs1 : s1.memWf := (State.count_sameCells _ _ _ _).memWf (State.ackWb_memWf htake)
      clear_value s1
      split at ht
      · split at ht
        · extract_lets +onlyGivenNames done at ht
          cases ht
          exact State.homeNext_memWf (State.takeRequest_memWf hs1)
        · cases ht
          exact State.homeNext_memWf (State.await_memWf hs1)
      · cases ht
        exact State.homeNext_memWf (State.await_memWf hs1)
    · cases ht
      exact State.ackWb_memWf hs

theorem execWbAck_memWf {s t : State} {id : Nat} (h : s.memWf) (ht : execWbAck id s = .next t) : t.memWf := by
  unfold execWbAck at ht
  split at ht
  · cases ht
  extract_lets s x at ht
  have hs : s.memWf := State.dropMsg_memWf h
  clear_value s
  cases ht
  split
  · exact (State.retryLine_sameCells _ _ _).memWf ((State.setDieLine_sameCells _ _ _).memWf hs)
  · exact hs

theorem execGrant_memWf {s t : State} {id : Nat} (h : s.memWf) (ht : execGrant id s = .next t) : t.memWf := by
  unfold execGrant at ht
  split at ht
  · cases ht
  extract_lets d s x at ht
  have hs : s.memWf := State.dropMsg_memWf h
  clear_value s
  split at ht
  · cases ht
    exact hs
  · split at ht
    · split at ht
      · split at ht
        · cases ht
          exact State.sliceAccess_memWf ((State.retryLine_sameCells _ _ _).memWf ((State.setDieLine_sameCells _ _ _).memWf hs))
        · cases ht
          exact (State.askerDone_sameCells _ _ _ _).memWf ((State.retryLine_sameCells _ _ _).memWf ((State.setDieLine_sameCells _ _ _).memWf hs))
      · cases ht
        exact (State.askerDone_sameCells _ _ _ _).memWf ((State.retryLine_sameCells _ _ _).memWf ((State.setDieLine_sameCells _ _ _).memWf hs))
    · cases ht
      exact (State.answerHeld_sameCells _ _ _).memWf ((State.setDieLine_sameCells _ _ _).memWf ((State.retryLine_sameCells _ _ _).memWf ((State.setDieLine_sameCells _ _ _).memWf hs)))

theorem execPerformAtHome_memWf {s t : State} {id : Nat} (h : s.memWf) (ht : execPerformAtHome id s = .next t) : t.memWf := by
  unfold execPerformAtHome at ht
  split at ht
  · cases ht
  extract_lets d s x s1 s2 at ht
  have hs : s.memWf := State.dropMsg_memWf h
  clear_value s
  have hs1 : s1.memWf := (State.setDieLine_sameCells _ _ _).memWf hs
  clear_value s1
  have hs2 : s2.memWf := State.updAcc_memWf hs1
  clear_value s2
  cases ht
  exact (State.answerHeld_sameCells _ _ _).memWf ((State.send_sameCells _ _).memWf hs2)

theorem execHomeOperation_memWf {s t : State} {id : Nat} (h : s.memWf) (ht : execHomeOperation id s = .next t) : t.memWf := by
  unfold execHomeOperation at ht
  split at ht
  · cases ht
  split at ht
  · cases ht
  extract_lets -underBinder +onlyGivenNames s x s1 y s2 at ht
  have hs : s.memWf := State.dropMsg_memWf h
  have hs1 : s1.memWf := by
    unfold s1
    split
    · exact hs
    · split
      · exact hs
      · extract_lets +onlyGivenNames cur bad lw gw
        split
        · exact State.dropL1_memWf (State.updAcc_memWf hs)
        · extract_lets -underBinder +onlyGivenNames w1 w2 w3
          have hw1 : w1.memWf := (State.noteWrite_sameCells _ _ _ _).memWf (State.setWriter_memWf (State.setPhysBytes_keepsMemWf hs))
          clear_value w1
          have hw2 : w2.memWf := State.updAcc_memWf hw1
          clear_value w2
          have hw3 : w3.memWf := by
            unfold w3
            split
            · exact (State.poisonLine_sameCells _ _).memWf hw2
            · exact hw2
          clear_value w3
          refine (State.evalMonitors_sameCells _ _).memWf ?_
          split
          · exact State.writeL1_memWf hw3
          · exact State.dropL1_memWf hw3
  clear_value s1
  have hs2 : s2.memWf := (State.count_sameCells _ _ _ _).memWf ((State.retryLine_sameCells _ _ _).memWf ((State.setDieLine_sameCells _ _ _).memWf hs1))
  clear_value s2
  cases ht
  exact State.homeNext_memWf ((State.setDir_sameCells _ _).memWf hs2)

theorem State.giveUp_memWf {s : State} {d home : Nat} {x : DieLine} (h : s.memWf) : (s.giveUp d home x).memWf := by
  unfold State.giveUp
  split
  · exact (State.setDieLine_sameCells _ _ _).memWf h
  · exact (State.send_sameCells _ _).memWf ((State.setDieLine_sameCells _ _ _).memWf h)

theorem execLineAgeing_memWf {s t : State} {d l : Nat} (h : s.memWf) (ht : execLineAgeing d l s = .next t) : t.memWf := by
  unfold execLineAgeing at ht
  extract_lets x at ht
  split at ht
  · cases ht
  split at ht <;> cases ht
  exact State.giveUp_memWf h

theorem State.ageLines_memWf {s : State} (h : s.memWf) : s.ageLines.memWf :=
  foldl_memWf (fun _ _ hs => State.giveUp_memWf hs) _ h

theorem State.leaveFlc_memWf {s : State} {d : Nat} {x : DieLine} (h : s.memWf) : (s.leaveFlc d x).memWf := by
  unfold State.leaveFlc
  split
  · exact State.giveUp_memWf h
  · exact State.giveUp_memWf h
  · exact (State.setDieLine_sameCells _ _ _).memWf h

theorem State.evict_memWf {s t : State} {d l : Nat} (h : s.memWf) (ht : s.evict d l = .next t) : t.memWf := by
  unfold State.evict at ht
  extract_lets +onlyGivenNames x at ht
  split at ht
  · cases ht
  extract_lets +onlyGivenNames gib at ht
  split at ht
  · cases ht
  split at ht
  · cases ht
    exact State.giveUp_memWf h
  · extract_lets +onlyGivenNames there at ht
    clear_value there
    split at ht
    · cases ht
    extract_lets +onlyGivenNames s1 at ht
    have hs1 : s1.memWf := by
      unfold s1
      split
      · exact State.leaveFlc_memWf h
      · exact h
    clear_value s1
    cases ht
    exact (State.setDieLine_sameCells _ _ _).memWf hs1

theorem State.dropHome_memWf {s : State} {d : Nat} (h : s.memWf) : (s.dropHome d).memWf := by
  unfold State.dropHome
  extract_lets +onlyGivenNames ls mine back s1 again
  have hs1 : s1.memWf := by
    unfold s1
    refine foldl_memWf (fun s x hs => ?_) _ h
    unfold back
    split
    · exact State.withLine_memWf hs
    · exact hs
  clear_value s1
  exact hs1

theorem State.resetDie_memWf {s : State} {d : Nat} (h : s.memWf) : (s.resetDie d).memWf := by
  unfold State.resetDie
  extract_lets lost rec1 s1 s2 s3 busy s4 s5 onWay links s6 s7
  have hs1 : s1.memWf := by
    unfold s1
    split
    · exact (State.raiseErr_sameCells _ _).memWf h
    · exact foldl_memWf (fun _ _ hs => (State.raiseErr_sameCells _ _).memWf ((State.poisonLine_sameCells _ _).memWf hs)) _ h
  clear_value s1
  have hs2 : s2.memWf := State.dropHome_memWf (foldl_memWf (fun _ _ hs => State.terminate_memWf hs) _ hs1)
  clear_value s2
  have hs3 : s3.memWf := hs2
  clear_value s3
  have hs4 : s4.memWf := hs3
  clear_value s4
  have hs5 : s5.memWf := by
    unfold s5
    refine foldl_memWf (fun s x hs => ?_) _ hs4
    split
    · extract_lets s
      have hs : s.memWf := by
        unfold s
        split
        · exact State.finishHome_memWf hs
        · exact hs
      clear_value s
      exact State.homeNext_memWf hs
    · exact hs
  clear_value s5
  have hs6 : s6.memWf := hs5
  clear_value s6
  have hs7 : s7.memWf := State.flowAlong_memWf (foldl_memWf (fun _ _ hs => State.resetLink_memWf hs) _ hs6)
  clear_value s7
  exact State.updDie_memWf hs7

theorem execDieReset_memWf {s t : State} {d : Nat} (h : s.memWf) (ht : execDieReset d s = .next t) : t.memWf := by
  unfold execDieReset at ht
  split at ht
  · injection ht with ht
    subst ht
    exact State.resetDie_memWf h
  · cases ht

end Sys2Proof.Machine
end

section
/-! SUPPORT. The integer words that act in more than the thread keep both memories in canonical form. -/

namespace Sys2Proof.Machine

theorem execUset_memWf {s t : State} {c : BitVec 1} {d a : BitVec 6} (h : s.memWf) (ht : execUset c d a s = .next t) : t.memWf := by
  refine runWord_memWf (fun l s t h ht => ?_) h ht
  cases ht
  split
  · exact h
  · dsimp only [State.memWf]
    exact State.updGroup_memWf h

end Sys2Proof.Machine
end

section
/-! SUPPORT. The words that reach memory (R236-R259) and what completes them keep both memories in canonical form. -/

namespace Sys2Proof.Machine

theorem execLdFut_memWf {s t : State} {c : BitVec 1} {d a b : BitVec 6} (h : s.memWf) (ht : execLdFut c d a b s = .next t) : t.memWf := by
  refine runWord_memWf (fun l s t h ht => ?_) h ht
  extract_lets -underBinder ea at ht
  split at ht
  · cases ht
  split at ht
  · cases ht
  · cases ht
    exact h
  · split at ht
    · cases ht
    split at ht
    · cases ht
    split at ht
    · cases ht
      exact State.updLane_memWf h
    · extract_lets -underBinder q _ acc s1 s2 at ht
      have hs1 : s1.memWf := State.tlbFill_memWf h
      clear_value s1
      have hs2 : s2.memWf := State.parkThread_memWf (State.updLane_memWf hs1)
      clear_value s2
      cases ht
      exact hs2

theorem execWaitu_memWf {s t : State} {c : BitVec 1} {d a b : BitVec 6} {m : BitVec 3} {z : BitVec 1} (h : s.memWf)
    (ht : execWaitu c d a b m z s = .next t) : t.memWf := by
  refine runWord_memWf (fun l s t h ht => ?_) h ht
  extract_lets -underBinder n ea at ht
  split at ht
  · cases ht
  · cases ht
    exact h
  · split at ht
    · cases ht
    split at ht
    · cases ht
    split at ht
    · split at ht
      · cases ht
        exact State.updLane_memWf h
      · extract_lets -underBinder s1 s2 e at ht
        have hs1 : s1.memWf := State.tlbFill_memWf h
        clear_value s1
        have hs2 : s2.memWf := State.parkThread_memWf hs1
        clear_value s2
        cases ht
        exact hs2
    · cases ht
      exact h

theorem execMonitorInsert_memWf {s t : State} {id : Nat} (h : s.memWf) (ht : execMonitorInsert id s = .next t) : t.memWf := by
  unfold execMonitorInsert at ht
  split at ht
  · cases ht
  extract_lets l x at ht
  split at ht <;> cases ht
  exact State.arriveHome_memWf (State.setMonitor_memWf h)

theorem execMonitorTimeout_memWf {s t : State} {id : Nat} (h : s.memWf) (ht : execMonitorTimeout id s = .next t) : t.memWf := by
  unfold execMonitorTimeout at ht
  split at ht
  · cases ht
  split at ht <;> cases ht
  exact (State.wakeMonitor_sameCells _ _ _).memWf h

theorem execMonitorSpillReturn_memWf {s t : State} {die slice : Nat} (h : s.memWf) (ht : execMonitorSpillReturn die slice s = .next t) : t.memWf := by
  unfold execMonitorSpillReturn at ht
  split at ht
  · cases ht
  split at ht <;> cases ht
  exact State.setMonitor_memWf h

theorem execMonlost_memWf {s t : State} {die slice : Nat} (h : s.memWf) (ht : execMonlost die slice s = .next t) : t.memWf := by
  unfold execMonlost at ht
  extract_lets lost held asids s1 nack s2 at ht
  have hs1 : s1.memWf := by
    unfold s1
    refine foldl_memWf (fun s x hs => ?_) _ h
    split
    · exact (State.wakeMonitor_sameCells _ _ _).memWf hs
    · exact State.setMonitor_memWf hs
  clear_value s1
  have hs2 : s2.memWf := hs1
  clear_value s2
  cases ht
  exact foldl_memWf (fun _ _ hs => (State.raiseErr_sameCells _ _).memWf hs) _ hs2

theorem execSysv_memWf {s t : State} {c : BitVec 1} {d : BitVec 6} {sel : BitVec 5} (h : s.memWf) (ht : execSysv c d sel s = .next t) : t.memWf := by
  refine runWord_memWf (fun l s t h ht => ?_) h ht
  extract_lets n v at ht
  split at ht
  · cases ht
    exact State.updLane_memWf h
  · split at ht
    · cases ht
    · cases ht
      exact State.updLane_memWf h
    · cases ht
      exact State.addEntry_memWf (State.updLane_memWf h)
    · cases ht
      exact State.updLane_memWf h

theorem execLocq_memWf {s t : State} {c : BitVec 1} {d a : BitVec 6} (h : s.memWf) (ht : execLocq c d a s = .next t) : t.memWf := by
  refine runWord_memWf (fun l s t h ht => ?_) h ht
  split at ht
  · cases ht
  · cases ht
    exact h
  · extract_lets -underBinder va v at ht
    split at ht
    · cases ht
    · cases ht
      exact State.updLane_memWf h
    · extract_lets -underBinder q s1 s2 at ht
      have hs1 : s1.memWf := State.updLane_memWf h
      clear_value s1
      split at ht
      · cases ht
        exact State.addEntry_memWf hs1
      · injection ht with ht
        subst ht
        exact hs1

theorem execSliceAccess_memWf {s t : State} {id : Nat} (h : s.memWf) (ht : execSliceAccess id s = .next t) : t.memWf := by
  unfold execSliceAccess at ht
  split at ht
  · cases ht
  split at ht
  · cases ht
  split at ht
  · cases ht
  split at ht
  · extract_lets x at ht
    split at ht <;> cases ht
    exact State.arriveHome_memWf (State.updAcc_memWf h)
  · cases ht
    exact State.sliceAccess_memWf h

theorem execOwnershipGrant_memWf {s t : State} {id : Nat} (h : s.memWf) (ht : execOwnershipGrant id s = .next t) : t.memWf := by
  unfold execOwnershipGrant at ht
  split at ht
  · cases ht
  split at ht
  · cases ht
  extract_lets d x at ht
  split at ht <;> cases ht
  exact (State.performAt_sameCells _ _ _ _).memWf ((State.setDieLine_sameCells _ _ _).memWf h)

theorem execLoadComplete_memWf {s t : State} {id : Nat} (h : s.memWf) (ht : execLoadComplete id s = .next t) : t.memWf := by
  unfold execLoadComplete at ht
  split at ht
  · cases ht
  split at ht
  · cases ht
  extract_lets s at ht
  have hs : s.memWf := State.performHost_memWf h _ _
  clear_value s
  split at ht
  · cases ht
  split at ht
  · cases ht
    exact hs
  · split at ht
    · cases ht
    split at ht
    · cases ht
      exact State.updThread_memWf (State.owe_memWf hs)
    · cases ht
      exact State.giveValue_memWf (State.owe_memWf hs)

theorem execStoreAck_memWf {s t : State} {id : Nat} (h : s.memWf) (ht : execStoreAck id s = .next t) : t.memWf := by
  unfold execStoreAck at ht
  split at ht
  · cases ht
  split at ht
  · cases ht
  extract_lets s at ht
  have hs : s.memWf := State.performHost_memWf h _ _
  clear_value s
  split at ht
  · cases ht
  split at ht <;> cases ht
  exact State.updThread_memWf (State.owe_memWf hs)

theorem execSideLogReplay_memWf {s t : State} {id : Nat} (h : s.memWf) (ht : execSideLogReplay id s = .next t) : t.memWf := by
  unfold execSideLogReplay at ht
  split at ht
  · cases ht
  extract_lets -underBinder a first at ht
  split at ht
  · cases ht
  split at ht
  · extract_lets -underBinder hold s1 s2 at ht
    have hs1 : s1.memWf := h
    clear_value s1
    have hs2 : s2.memWf := State.postFault_memWf hs1 _ _ _ _ _ _
    clear_value s2
    cases ht
    split
    · exact State.terminate_memWf hs2
    · exact hs2
  · extract_lets -underBinder s1 at ht
    have hs1 : s1.memWf := foldl_memWf (fun _ _ hs => State.tlbFill_memWf hs) _ h
    clear_value s1
    cases ht
    exact hs1

end Sys2Proof.Machine
end

section
/-! SUPPORT. Tiles (R222, R239-R250) keep both memories in canonical form: what a tile writes back goes through the virtual write. -/

namespace Sys2Proof.Machine

theorem State.serveWord_memWf {s : State} {uid w k : Nat} (h : s.memWf) : (s.serveWord uid w k).memWf := by
  induction k generalizing s with
  | zero =>
    rw [State.serveWord]
    exact h
  | succ n ih =>
    rw [State.serveWord]
    split
    · exact h
    · extract_lets isFull next
      subst next
      split
      · exact h
      · split
        · exact ih ((State.deliver_sameCells _ _ _ _ _ _).memWf h)
        · exact ih (State.updTile_memWf ((State.deliver_sameCells _ _ _ _ _ _).memWf h))
        · exact ih (State.updTile_memWf ((State.deliver_sameCells _ _ _ _ _ _).memWf h))

theorem State.serve_memWf {s : State} {uid w : Nat} (h : s.memWf) : (s.serve uid w).memWf :=
  State.serveWord_memWf h

theorem State.lateValue_memWf {s : State} {l : Lane} {dst : Nat} {v : Word} (h : s.memWf) : (s.lateValue l dst v).memWf := by
  unfold State.lateValue
  extract_lets q s1
  have hs1 : s1.memWf := State.beginOp_memWf h
  clear_value s1
  exact hs1

theorem tileLoad_memWf {s t : State} {i : Instr} {wait emptyIt : Bool} {d h' a b : Nat} (h : s.memWf)
    (ht : tileLoad i wait emptyIt d h' a b s = .next t) : t.memWf := by
  refine runWord_memWf (fun l s t h ht => ?_) h ht
  split at ht
  · cases ht
  split at ht
  · cases ht
    exact State.lateValue_memWf h
  · cases ht
    exact State.updLane_memWf h
  · split at ht
    · cases ht
    · cases ht
      exact h
    · split at ht
      · cases ht
      split at ht
      · cases ht
      extract_lets s1 at ht
      have hs1 : s1.memWf := by
        unfold s1
        split
        · exact State.lateValue_memWf h
        · exact State.updLane_memWf h
      clear_value s1
      cases ht
      split
      · exact State.serve_memWf (State.updTile_memWf hs1)
      · exact hs1

theorem tileStore_memWf {s t : State} {i : Instr} {wait raw : Bool} {d h' a b : Nat} (h : s.memWf)
    (ht : tileStore i wait raw d h' a b s = .next t) : t.memWf := by
  refine runWord_memWf (fun l s t h ht => ?_) h ht
  split at ht
  · cases ht
  split at ht
  · cases ht
    exact h
  · split at ht
    · cases ht
    · cases ht
      exact h
    · split at ht
      · cases ht
      extract_lets v p at ht
      split at ht
      · cases ht
      split at ht <;> cases ht
      exact State.serve_memWf (State.updTile_memWf h)

theorem execSttRaw_memWf {s t : State} {c : BitVec 1} {d : BitVec 6} {h' : BitVec 5} {a b : BitVec 6} (h : s.memWf)
    (ht : execSttRaw c d h' a b s = .next t) : t.memWf :=
  tileStore_memWf h ht

theorem State.serveArrivals_memWf {s : State} {uid : Nat} (h : s.memWf) : (s.serveArrivals uid).memWf := by
  unfold State.serveArrivals
  split
  · exact h
  · exact foldl_memWf (fun _ _ hs => (State.deliver_sameCells _ _ _ _ _ _).memWf hs) _ h

theorem State.tileArrive_memWf {s : State} {uid bytes : Nat} (h : s.memWf) : (s.tileArrive uid bytes).memWf :=
  State.serveArrivals_memWf (State.updTile_memWf h)

theorem State.tileFail_memWf {s : State} {uid code : Nat} (h : s.memWf) : (s.tileFail uid code).memWf :=
  State.serveArrivals_memWf (State.updTile_memWf h)

theorem State.serveRole_memWf {s : State} {uid : Nat} {consumer : Bool} {xs : List (Nat × Nat × Nat × Nat)}
    (h : s.memWf) : (s.serveRole uid consumer xs).memWf := by
  induction xs generalizing s with
  | nil =>
    rw [State.serveRole]
    exact h
  | cons p ps ih =>
    rw [State.serveRole]
    split
    · exact h
    · split
      · exact ih ((State.deliver_sameCells _ _ _ _ _ _).memWf (State.updTile_memWf h))
      · exact h

theorem State.serveRing_memWf {s : State} {uid : Nat} (h : s.memWf) : (s.serveRing uid).memWf :=
  State.serveRole_memWf (State.serveRole_memWf h)

theorem State.allocTile_memWf {s : State} {g : Group} {k : Nat} {a b : Word} (h : s.memWf) : (s.allocTile g k a b).2.memWf := by
  unfold State.allocTile
  split
  · exact h
  · split
    · exact h
    · extract_lets +onlyGivenNames x t give fresh
      have hgive : ∀ (s : State) (uid : Nat), s.memWf → (give s uid).memWf := fun s uid hs => State.updGroup_memWf hs
      have hfresh : ∀ u, (fresh u).2.memWf := by
        intro u
        unfold fresh
        generalize (if t.level = 2 then t.die else g.core) = place
        split
        · exact h
        · refine hgive _ _ ?_
          exact h
      clear_value give fresh
      split
      · split
        · split
          · exact h
          · split
            · split
              · exact hgive _ _ h
              · exact h
            · exact hfresh _
        · exact hfresh _
      · exact hfresh _

theorem State.dropTiles_memWf {s : State} {gone : Tile → Bool} (h : s.memWf) : (s.dropTiles gone).memWf := h

theorem State.releaseHandle_memWf {s : State} {gid h' : Nat} (h : s.memWf) : (s.releaseHandle gid h').memWf := by
  unfold State.releaseHandle
  split
  · exact h
  · extract_lets waits s1 s2
    have hs1 : s1.memWf := foldl_memWf (fun _ _ hs => (State.takeTrap_sameCells _ _ _ _ _ _ _).memWf hs) _ h
    clear_value s1
    have hs2 : s2.memWf := State.updGroup_memWf hs1
    clear_value s2
    split
    · exact hs2
    · exact State.dropTiles_memWf hs2

theorem tileWordOp_memWf {s t : State} {i : Instr} {d h : Nat} {f : Lane → Tile → State → Except Stop (Nat × State)}
    (hf : ∀ l x s r, s.memWf → f l x s = .ok r → r.2.memWf) (hs : s.memWf) (ht : tileWordOp i d h f s = .next t) : t.memWf := by
  refine runWord_memWf (fun l s t hs ht => ?_) hs ht
  split at ht
  · cases ht
  extract_lets +onlyGivenNames put at ht
  have hput : ∀ (s : State) (st : Nat), s.memWf → (put s st).memWf := fun s st hs => State.updLane_memWf hs
  clear_value put
  split at ht
  · cases ht
    exact hput _ _ hs
  · split at ht
    · cases ht
    · next st s1 h1 =>
      cases ht
      exact hput _ _ (hf _ _ _ (_, _) hs h1)

theorem execTalloc_memWf {s t : State} {c : BitVec 1} {d : BitVec 6} {h' : BitVec 5} {a : BitVec 6} (h : s.memWf)
    (ht : execTalloc c d h' a s = .next t) : t.memWf := by
  refine runWord_memWf (fun l s t h ht => ?_) h ht
  split at ht
  · cases ht
  split at ht
  · cases ht
    exact h
  · extract_lets r at ht
    cases ht
    refine State.updLane_memWf ?_
    unfold r
    exact State.allocTile_memWf h

theorem beginTileOp_memWf {s : State} {l : Lane} {t : Tile} {d h' : Nat} {free : Bool} (h : s.memWf) : (beginTileOp l t d h' free s).memWf := by
  unfold beginTileOp
  extract_lets s1
  have hs1 : s1.memWf := State.beginOp_memWf h
  clear_value s1
  exact hs1

theorem execTfree_memWf {s t : State} {c : BitVec 1} {d : BitVec 6} {h' : BitVec 5} (h : s.memWf) (ht : execTfree c d h' s = .next t) : t.memWf := by
  refine runWord_memWf (fun l s t h ht => ?_) h ht
  split at ht
  · cases ht
  split at ht
  · cases ht
    exact State.updLane_memWf h
  · cases ht
    exact beginTileOp_memWf h

theorem execTbind_memWf {s t : State} {c : BitVec 1} {d : BitVec 6} {h : BitVec 5} {a : BitVec 6} (hs : s.memWf) (ht : execTbind c d h a s = .next t) :
    t.memWf := by
  refine tileWordOp_memWf (fun l x s r hs hr => ?_) hs ht
  extract_lets +onlyGivenNames base pitch at hr
  split at hr
  · cases hr
    exact hs
  · split at hr
    · cases hr
      exact hs
    · cases hr
      exact State.updTile_memWf hs

theorem execTflush_memWf {s t : State} {c : BitVec 1} {d : BitVec 6} {h' : BitVec 5} (h : s.memWf) (ht : execTflush c d h' s = .next t) : t.memWf := by
  refine runWord_memWf (fun l s t h ht => ?_) h ht
  split at ht
  · cases ht
  split at ht
  · cases ht
    exact State.updLane_memWf h
  · split at ht
    · cases ht
      exact State.updLane_memWf h
    · cases ht
      exact beginTileOp_memWf h

theorem execTring_memWf {s t : State} {c : BitVec 1} {d : BitVec 6} {h : BitVec 5} {a : BitVec 6} (hs : s.memWf) (ht : execTring c d h a s = .next t) :
    t.memWf := by
  refine tileWordOp_memWf (fun l x s r hs hr => ?_) hs ht
  extract_lets +onlyGivenNames n at hr
  split at hr
  · cases hr
    exact hs
  · split at hr
    · cases hr
      exact hs
    · cases hr
      exact State.serveRing_memWf (State.updTile_memWf hs)

theorem execTsetfe_memWf {s t : State} {c : BitVec 1} {d : BitVec 6} {h : BitVec 5} {a : BitVec 6} (hs : s.memWf) (ht : execTsetfe c d h a s = .next t) :
    t.memWf := by
  refine tileWordOp_memWf (fun l x s r hs hr => ?_) hs ht
  extract_lets +onlyGivenNames v at hr
  split at hr
  · cases hr
    exact hs
  · cases hr
    exact foldl_memWf (fun _ _ hs => State.serve_memWf hs) _ (State.updTile_memWf hs)

theorem execTarrt_memWf {s t : State} {c : BitVec 1} {d : BitVec 6} {h : BitVec 5} {a : BitVec 6} (hs : s.memWf) (ht : execTarrt c d h a s = .next t) :
    t.memWf := by
  refine tileWordOp_memWf (fun l x s r hs hr => ?_) hs ht
  extract_lets +onlyGivenNames v at hr
  split at hr
  · cases hr
    exact hs
  · cases hr
    exact State.updTile_memWf hs

theorem execWaita_memWf {s t : State} {c : BitVec 1} {d : BitVec 6} {h' : BitVec 5} {a : BitVec 6} (h : s.memWf)
    (ht : execWaita c d h' a s = .next t) : t.memWf := by
  refine runWord_memWf (fun l s t h ht => ?_) h ht
  split at ht
  · cases ht
    exact State.updLane_memWf h
  · split at ht
    · cases ht
    split at ht <;> cases ht
    exact State.updLane_memWf h

theorem execTinfo_memWf {s t : State} {c : BitVec 1} {d : BitVec 6} {h' : BitVec 5} {a : BitVec 6} (h : s.memWf)
    (ht : execTinfo c d h' a s = .next t) : t.memWf := by
  refine runWord_memWf (fun l s t h ht => ?_) h ht
  split at ht
  · cases ht
  extract_lets ws at ht
  cases ht
  exact State.updLane_memWf h

theorem execRacq_memWf {s t : State} {c : BitVec 1} {d : BitVec 6} {h' : BitVec 5} {a : BitVec 6} (h : s.memWf)
    (ht : execRacq c d h' a s = .next t) : t.memWf := by
  refine runWord_memWf (fun l s t h ht => ?_) h ht
  split at ht
  · cases ht
    exact State.updLane_memWf h
  · split at ht
    · cases ht
    extract_lets role at ht
    split at ht
    · cases ht
      exact State.updLane_memWf h
    · split at ht
      · cases ht
        exact State.updLane_memWf h
      · split at ht
        · extract_lets q at ht
          cases ht
          exact State.updLane_memWf (State.updTile_memWf h)
        · cases ht

theorem execRrel_memWf {s t : State} {c : BitVec 1} {d : BitVec 6} {h : BitVec 5} {a : BitVec 6} (hs : s.memWf) (ht : execRrel c d h a s = .next t) :
    t.memWf := by
  refine tileWordOp_memWf (fun l x s r hs hr => ?_) hs ht
  extract_lets +onlyGivenNames role at hr
  split at hr
  · cases hr
    exact hs
  · split at hr
    · cases hr
      exact hs
    · split at hr
      · cases hr
        exact hs
      · cases hr
        exact State.serveRing_memWf (State.updTile_memWf hs)

theorem State.fillRow_memWf {s t : State} {core uid row : Nat} (h : s.memWf) (ht : s.fillRow core uid row = .ok t) : t.memWf := by
  unfold State.fillRow at ht
  split at ht
  · cases ht
    exact h
  · split at ht
    · cases ht
      exact h
    · split at ht
      · cases ht
        exact h
      · extract_lets va at ht
        split at ht
        · cases ht
        extract_lets ws s1 at ht
        have hs1 : s1.memWf := State.updTile_memWf (foldl_memWf (fun _ _ hs => State.updTile_memWf hs) _ (State.touchRead_memWf h))
        clear_value s1
        cases ht
        exact foldl_memWf (fun _ _ hs => State.serve_memWf hs) _ hs1

theorem State.fillRows_memWf {s t : State} {core uid : Nat} {xs : List Nat} (h : s.memWf) (ht : s.fillRows core uid xs = .ok t) : t.memWf := by
  induction xs generalizing s t with
  | nil =>
    rw [State.fillRows] at ht
    cases ht
    exact h
  | cons p ps ih =>
    rw [State.fillRows] at ht
    split at ht
    · cases ht
    exact ih (State.fillRow_memWf h ‹_›) ht

theorem State.writeBack_memWf {s : State} {core : Nat} {t : Tile} {is : List Nat} {r : State × Nat} (h : s.memWf)
    (ht : s.writeBack core t is = .ok r) : r.1.memWf := by
  induction is generalizing s r with
  | nil =>
    cases ht
    exact h
  | cons i is ih =>
    rw [State.writeBack] at ht
    split at ht
    · cases ht
      exact h
    · extract_lets -underBinder va at ht
      split at ht
      · cases ht
      · next s0 g hw =>
        have hs0 : s0.memWf := State.vwrite_memWf h hw
        extract_lets -underBinder s1 at ht
        have hs1 : s1.memWf := by
          unfold s1
          split
          · split
            · split
              · exact hs0
              · exact (State.poisonLine_sameCells _ _).memWf hs0
            · exact hs0
          · exact hs0
        clear_value s1
        split at ht
        · cases ht
        · next s2 g2 h2 =>
          cases ht
          exact ih (r := (s2, g2)) hs1 h2

theorem State.flushTile_memWf {s : State} {core uid : Nat} {r : State × Nat} (h : s.memWf) (ht : s.flushTile core uid = .ok r) : r.1.memWf := by
  unfold State.flushTile at ht
  split at ht
  · cases ht
    exact h
  · split at ht <;> cases ht
    exact State.updTile_memWf (State.writeBack_memWf h ‹_›)

theorem State.answerFill_memWf {s : State} {gid tid : Nat} {unresolvable : Bool} (h : s.memWf) : (s.answerFill gid tid unresolvable).memWf :=
  State.updThread_memWf h

theorem execTileRowFill_memWf {s t : State} {uid row : Nat} (h : s.memWf) (ht : execTileRowFill uid row s = .next t) : t.memWf := by
  unfold execTileRowFill at ht
  split at ht
  · cases ht
  split at ht
  · cases ht
    exact foldl_memWf (fun _ _ hs => State.wakeThread_memWf hs) _ (State.fillRow_memWf h ‹_›)
  · cases ht
    refine foldl_memWf (fun s x hs => ?_) _ h
    extract_lets s1 s2
    have hs1 : s1.memWf := State.updThread_memWf hs
    clear_value s1
    have hs2 : s2.memWf := State.postFault_memWf hs1 _ _ _ _ _ _
    clear_value s2
    split
    · exact State.answerFill_memWf hs2
    · exact hs2

theorem State.endTileOp_memWf {s : State} {o : TileOp} {status : Nat} (h : s.memWf) : (s.endTileOp o status).memWf := by
  unfold State.endTileOp
  extract_lets s1 s2
  have hs1 : s1.memWf := h
  clear_value s1
  have hs2 : s2.memWf := State.updThread_memWf hs1
  clear_value s2
  split
  · exact State.releaseHandle_memWf hs2
  · exact hs2

theorem execTileOperationComplete_memWf {s t : State} {id : Nat} (h : s.memWf) (ht : execTileOperationComplete id s = .next t) : t.memWf := by
  unfold execTileOperationComplete at ht
  split at ht
  · cases ht
  split at ht
  · cases ht
  split at ht
  · cases ht
  split at ht
  · cases ht
    exact State.endTileOp_memWf h
  · split at ht
    · cases ht
      exact State.endTileOp_memWf h
    · split at ht
      · split at ht
        · cases ht
        split at ht
        · extract_lets held s1 at ht
          have hs1 : s1.memWf := h
          clear_value s1
          cases ht
          exact State.postFault_memWf hs1 _ _ _ _ _ _
        · split at ht
          · cases ht
            exact State.endTileOp_memWf (State.flushTile_memWf h ‹_›)
          · cases ht
            exact State.flushTile_memWf h ‹_›
      · split at ht <;> cases ht
        exact State.endTileOp_memWf h

end Sys2Proof.Machine
end

section
/-! SUPPORT. The hand-over of an engine command keeps both memories in canonical form where the making of its command does. -/

namespace Sys2Proof.Machine

theorem engineWord_memWf {s t : State} {i : Instr} {cls sreg : Nat} {full : Group → State → Bool} {mk : Lane → Bool → State → Except Stop (Nat × State)}
    {join : Nat → Nat → State → State} (hmk : ∀ l bad s r, s.memWf → mk l bad s = .ok r → r.2.memWf)
    (hjoin : ∀ id tid (s : State), s.memWf → (join id tid s).memWf) (h : s.memWf) (ht : engineWord i cls sreg full mk join s = .next t) : t.memWf := by
  refine runWord_memWf (fun l s t h ht => ?_) h ht
  split at ht
  · cases ht
  split at ht
  · cases ht
  extract_lets +onlyGivenNames made at ht
  have hmade : ∀ r, made = .ok r → r.2.memWf := by
    intro r hr
    unfold made at hr
    split at hr
    · cases hr
      exact h
    · split at hr
      · cases hr
      exact hmk _ _ _ _ h hr
  clear_value made
  split at ht
  · cases ht
  · next id s1 =>
    have hs1 : s1.memWf := hmade _ rfl
    cases ht
    refine State.updLane_memWf (hjoin _ _ _ ?_)
    exact hs1

theorem State.finishAll_memWf {s : State} {gid : Nat} {tids : List Nat} {cls : Nat} (h : s.memWf) : (s.finishAll gid tids cls).memWf :=
  foldl_memWf (fun _ _ hs => State.updThread_memWf hs) _ h

end Sys2Proof.Machine
end

section
/-! SUPPORT. The field words (R190-R203) keep both memories in canonical form: an edit writes through the translated write. -/

namespace Sys2Proof.Machine

theorem State.cacheLeaf_memWf {s : State} {core asid : Nat} {t : TreeDesc} {v : Vox} {k : Look} (h : s.memWf) : (s.cacheLeaf core asid t v k).memWf := h

theorem State.dropAbsent_memWf {s : State} {root : DWord} {v : Vox} (h : s.memWf) : (s.dropAbsent root v).memWf := h

theorem State.shareNow_memWf {s : State} {d home l : Nat} (h : s.memWf) : (s.shareNow d home l).memWf := by
  unfold State.shareNow
  extract_lets -underBinder +onlyGivenNames x put mine
  have hput : ∀ (s : State) (y : Dir) (st : LineSt), s.memWf → (put s y st).memWf := fun s y st hs =>
    State.carryLine_memWf ((State.setDieLine_sameCells _ _ _).memWf ((State.setDir_sameCells _ _).memWf hs))
  clear_value put mine
  split
  · exact State.fromFlc_memWf h
  · split
    · exact h
    · extract_lets -underBinder +onlyGivenNames s
      have hs : s.memWf := by
        unfold s
        split
        · exact (State.count_sameCells _ _ _ _).memWf h
        · exact h
      clear_value s
      split
      · exact hput _ _ _ hs
      · split
        · exact hput _ _ _ hs
        · extract_lets -underBinder +onlyGivenNames o
          split
          · exact hs
          · exact hput _ _ _ (State.carryLine_memWf ((State.count_sameCells _ _ _ _).memWf ((State.setDieLine_sameCells _ _ _).memWf hs)))

theorem State.fieldLine_memWf {s : State} {core asid home l : Nat} (h : s.memWf) : (s.fieldLine core asid home l).1.memWf := by
  unfold State.fieldLine
  extract_lets +onlyGivenNames d
  split
  · exact State.touch_memWf h
  · extract_lets +onlyGivenNames t s1 x held noLease s2
    have hs1 : s1.memWf := State.shareNow_memWf h
    have hs2 : s2.memWf := by
      unfold s2
      split
      · exact hs1
      · exact (State.grantLease_sameCells _ _ _).memWf hs1
    clear_value s2
    exact State.touch_memWf hs2

theorem State.cacheWalks_memWf {s : State} {r : Reader} {t : TreeDesc} {ks : List (Vox × Look)} (h : s.memWf) : (s.cacheWalks r t ks).memWf := by
  unfold State.cacheWalks
  refine foldl_memWf (fun s x hs => ?_) _ h
  split
  · exact State.cacheLeaf_memWf hs
  · exact hs

theorem State.afterReads_memWf {s : State} {l : Lane} {reads : List (Nat × Nat)} (h : s.memWf) : (s.afterReads l reads).memWf := by
  unfold State.afterReads
  extract_lets -underBinder +onlyGivenNames r
  have hr : r.1.memWf := List.foldlRecOn (motive := fun r : State × Nat × Nat => r.1.memWf) _ _ h fun _ hr _ _ => State.fieldLine_memWf hr
  clear_value r
  exact State.updLane_memWf (State.owe_memWf hr)

theorem State.doneReading_memWf {s : State} {l : Lane} {tr : Trail} {ws : List Word} {fl : Flags} (h : s.memWf) : (s.doneReading l tr ws fl).s.memWf :=
  State.afterReads_memWf h

theorem State.fieldStart_memWf {s : State} {l : Lane} {o : FieldOp} (h : s.memWf) : (s.fieldStart l o).memWf := by
  unfold State.fieldStart
  extract_lets s1
  have hs1 : s1.memWf := State.beginOp_memWf h
  clear_value s1
  exact hs1

theorem fieldWord_memWf {s t : State} {i : Instr} {fn dst dcnt cls : Nat} {addrRegs : Lane → List Nat} {dataRegs : List Nat}
    {sig : Lane → Option (List Nat)} {eff : Lane → Bool → State → Except FieldFault FieldDone}
    (heff : ∀ l dp s r, s.memWf → eff l dp s = .ok r → r.s.memWf) (h : s.memWf)
    (ht : fieldWord i fn dst dcnt cls addrRegs dataRegs sig eff s = .next t) : t.memWf := by
  refine runWord_memWf (fun l s t h ht => ?_) h ht
  split at ht
  · cases ht
  split at ht
  · cases ht
  split at ht
  · cases ht
  · cases ht
  · cases ht
    exact h
  · next dp _ _ =>
    extract_lets -underBinder +onlyGivenNames tan at ht
    clear_value tan
    split at ht
    · cases ht
    · cases ht
      exact State.fieldStart_memWf (State.updLane_memWf h)
    · cases ht
      exact h
    · split at ht
      · cases ht
      · next r hr =>
        extract_lets -underBinder +onlyGivenNames s1 x s2 at ht
        have hs2 : s2.memWf := State.fieldStart_memWf (State.updLane_memWf (heff _ _ _ _ h hr))
        clear_value s2
        split at ht
        · cases ht
          exact State.addEntry_memWf (State.updLane_memWf hs2)
        · cases ht
          exact hs2

theorem bindEffect_memWf {a : Nat} {busy : List Byte → Bool} {set : Nat → List Byte → Option (Group → Group)} {unset : Group → Group} {l : Lane}
    {s : State}
    {r : FieldDone} (h : s.memWf) (ht : bindEffect a busy set unset l s = .ok r) : r.s.memWf := by
  unfold bindEffect at ht
  split at ht
  · cases ht
    exact h
  · extract_lets -underBinder +onlyGivenNames low va put at ht
    have hput : ∀ st f tr r, put st f tr = .ok r → r.s.memWf := by
      intro st f tr r hr
      cases hr
      refine State.doneReading_memWf ?_
      exact h
    clear_value put
    split at ht
    · cases ht
      exact h
    · split at ht
      · exact hput _ _ _ _ ht
      · split at ht
        · exact hput _ _ _ _ ht
        · split at ht
          · cases ht
          split at ht
          · cases ht
          split at ht
          · split at ht <;> exact hput _ _ _ _ ht
          · exact hput _ _ _ _ ht

theorem bindWord_memWf {s t : State} {i : Instr} {fn d a : Nat} {busy : State → List Byte → Bool} {set : Nat → List Byte → Option (Group → Group)}
    {unset : Group → Group} (h : s.memWf) (ht : bindWord i fn d a busy set unset s = .next t) : t.memWf :=
  fieldWord_memWf (fun _ _ _ _ h hr => bindEffect_memWf h hr) h ht

theorem treeWord_memWf {s t : State} {i : Instr} {fn d dn a an slot : Nat} {unbound : List Word}
    {eff : Lane → TreeDesc → State → Except FieldFault FieldDone} (heff : ∀ l t s r, s.memWf → eff l t s = .ok r → r.s.memWf) (h : s.memWf)
    (ht : treeWord i fn d dn a an slot unbound eff s = .next t) : t.memWf := by
  refine fieldWord_memWf (fun l dp s r h hr => ?_) h ht
  unfold treeEffect at hr
  split at hr
  · cases hr
    exact h
  · exact heff _ _ _ _ h hr

theorem vldEffect_memWf {a : Nat} {l : Lane} {t : TreeDesc} {s : State} {r : FieldDone} (h : s.memWf) (ht : vldEffect a l t s = .ok r) : r.s.memWf := by
  obtain ⟨k, _, ht⟩ := exists_of_bind_ok ht
  cases ht
  exact State.doneReading_memWf (State.cacheWalks_memWf h)

theorem vstenEffect_memWf {a : Nat} {l : Lane} {t : TreeDesc} {s : State} {r : FieldDone} (h : s.memWf)
    (ht : vstenEffect a l t s = .ok r) : r.s.memWf := by
  unfold vstenEffect at ht
  split at ht
  · cases ht
    exact h
  · obtain ⟨ks, _, ht⟩ := exists_of_bind_ok ht
    extract_lets +onlyGivenNames s1 at ht
    have hs1 : s1.memWf := State.cacheWalks_memWf h
    clear_value s1
    split at ht <;> cases ht <;> exact State.doneReading_memWf hs1

theorem vsampEffect_memWf {a : Nat} {l : Lane} {t : TreeDesc} {s : State} {r : FieldDone} (h : s.memWf)
    (ht : vsampEffect a l t s = .ok r) : r.s.memWf := by
  unfold vsampEffect at ht
  extract_lets -underBinder +onlyGivenNames nan at ht
  split at ht
  · cases ht
    exact h
  · split at ht
    · cases ht
      exact h
    · obtain ⟨ks, _, ht⟩ := exists_of_bind_ok ht
      extract_lets -underBinder +onlyGivenNames s1 at ht
      have hs1 : s1.memWf := State.cacheWalks_memWf h
      clear_value s1
      split at ht <;> cases ht <;> exact State.doneReading_memWf hs1

theorem vrayEffect_memWf {a : Nat} {l : Lane} {t : TreeDesc} {s : State} {r : FieldDone} (h : s.memWf) (ht : vrayEffect a l t s = .ok r) : r.s.memWf := by
  unfold vrayEffect at ht
  extract_lets -underBinder +onlyGivenNames w out at ht
  have hout : ∀ e, (out e).s.memWf := fun e => State.doneReading_memWf (State.cacheWalks_memWf h)
  clear_value out
  split at ht
  · cases ht
    exact hout _
  · extract_lets -underBinder +onlyGivenNames os ds fl tmin tmax at ht
    split at ht
    · cases ht
      exact hout _
    · extract_lets -underBinder +onlyGivenNames us fl2 at ht
      split at ht
      · cases ht
        exact hout _
      · split at ht
        · cases ht
          exact hout _
        · split at ht <;> cases ht
          exact hout _

theorem execVleaf_memWf {s t : State} {c : BitVec 1} {d : BitVec 6} {sl : BitVec 3} (h : s.memWf) (ht : execVleaf c d sl s = .next t) : t.memWf := by
  refine fieldWord_memWf (fun l dp s r h hr => ?_) h ht
  cases hr
  exact h

theorem State.fieldWrite_memWf {s : State} {l : Lane} {va n acc : Nat} {f : Nat → Nat} {poison : Bool} {r : Nat × Nat × State} (h : s.memWf)
    (ht : s.fieldWrite l va n acc f poison = .ok r) : r.2.2.memWf := by
  unfold State.fieldWrite at ht
  split at ht
  · cases ht
  split at ht
  · cases ht
  extract_lets -underBinder +onlyGivenNames old bs r at ht
  have hr : r.1.memWf := by
    refine List.foldlRecOn (motive := fun r : State × Nat × List Byte => r.1.memWf) _ _ h fun a ha p _ => ?_
    extract_lets -underBinder +onlyGivenNames s0 s1 s2
    have hs0 : s0.memWf := State.writeTrans_memWf ha _ _ _ _
    clear_value s0
    have hs1 : s1.memWf := by
      unfold s1
      split
      · exact hs0
      · exact State.touch_memWf (State.writeL1_memWf hs0)
    clear_value s1
    have hs2 : s2.memWf := by
      unfold s2
      split
      · exact (State.poisonLine_sameCells _ _).memWf hs1
      · exact hs1
    exact hs2
  clear_value r
  cases ht
  exact hr

theorem editWord_memWf {s t : State} {i : Instr} {fn d a an slot : Nat} {dataRegs : List Nat}
    {act : Lane → Bool → TreeDesc → Nat → Nat → State → Except FieldFault FieldDone}
    (hact : ∀ l dp t va n s r, s.memWf → act l dp t va n s = .ok r → r.s.memWf) (h : s.memWf) (ht : editWord i fn d a an slot dataRegs act s = .next t) :
    t.memWf := by
  refine fieldWord_memWf (fun l dp s r h hr => ?_) h ht
  unfold editEffect at hr
  extract_lets -underBinder +onlyGivenNames stop at hr
  have hstop : ∀ code r, stop code = .ok r → r.s.memWf := by
    intro code r hr
    cases hr
    exact h
  clear_value stop
  split at hr
  · exact hstop _ _ hr
  · split at hr
    · exact hstop _ _ hr
    · split at hr
      · cases hr
      extract_lets -underBinder +onlyGivenNames s1 at hr
      have hs1 : s1.memWf := State.cacheWalks_memWf h
      clear_value s1
      split at hr
      · cases hr
        exact State.doneReading_memWf hs1
      · split at hr
        · cases hr
          exact State.doneReading_memWf hs1
        · extract_lets -underBinder +onlyGivenNames seen at hr
          have hseen : seen.s.memWf := State.doneReading_memWf hs1
          clear_value seen
          obtain ⟨x, hx, rfl⟩ := exists_of_map_ok hr
          have hxs : x.s.memWf := hact _ _ _ _ _ _ _ hseen hx
          split <;> exact hxs

theorem activeBit_memWf {s t : State} {i : Instr} {set : Bool} {d a slot : Nat} (h : s.memWf) (ht : activeBit i set d a slot s = .next t) : t.memWf := by
  refine editWord_memWf (fun l dp t va n s r h hr => ?_) h ht
  unfold activeEffect at hr
  split at hr
  · cases hr
  · next old gw s1 h1 =>
    cases hr
    exact State.fieldWrite_memWf (r := (_, _, _)) h h1

theorem execVst_memWf {s t : State} {c : BitVec 1} {d a : BitVec 6} {sl : BitVec 3} (h : s.memWf) (ht : execVst c d a sl s = .next t) : t.memWf := by
  refine editWord_memWf (fun l dp t va n s r h hr => ?_) h ht
  unfold storeEffect at hr
  extract_lets +onlyGivenNames es at hr
  split at hr
  · cases hr
  · next old gw s1 h1 =>
    cases hr
    exact State.fieldWrite_memWf (r := (_, _, _)) h h1

theorem execFieldWordComplete_memWf {s t : State} {id : Nat} (h : s.memWf) (ht : execFieldWordComplete id s = .next t) : t.memWf := by
  unfold execFieldWordComplete at ht
  split at ht
  · cases ht
  split at ht
  · cases ht
  split at ht
  · cases ht
  extract_lets rs recv at ht
  cases ht
  exact State.updThread_memWf h

end Sys2Proof.Machine
end

section
/-! SUPPORT. The allocator engine (R198-R200) keeps both memories in canonical form. -/

namespace Sys2Proof.Machine

theorem State.planWrite_memWf {s : State} {r : Reader} {gw : Nat} {xs : List (Nat × List Byte)} (h : s.memWf) : (s.planWrite r gw xs).1.memWf := by
  induction xs generalizing s gw with
  | nil => exact h
  | cons x xs ih =>
    rw [State.planWrite]
    split
    · exact h
    · next s1 g hw => exact ih (State.vwrite_memWf (r := (_, _)) h hw)

theorem State.insertLeaf_memWf {s : State} {asid : Nat} {t : TreeDesc} {v : Vox} {r : Plan × State × Nat} (h : s.memWf)
    (ht : s.insertLeaf asid t v = .ok r) :
    r.2.1.memWf := by
  unfold State.insertLeaf at ht
  extract_lets +onlyGivenNames r0 at ht
  split at ht
  · cases ht
  split at ht
  · cases ht
  extract_lets +onlyGivenNames x at ht
  have hx : x.1.memWf := State.planWrite_memWf h
  clear_value x
  cases ht
  dsimp only
  split
  · exact State.dropAbsent_memWf hx
  · exact hx

theorem State.markLeaf_memWf {s : State} {asid : Nat} {t : TreeDesc} {v : Vox} {r : Plan × State × Nat} (h : s.memWf) (ht : s.markLeaf asid t v = .ok r) :
    r.2.1.memWf := by
  unfold State.markLeaf at ht
  extract_lets +onlyGivenNames r0 at ht
  split at ht
  · cases ht
  split at ht
  · cases ht
  extract_lets x y s1 at ht
  have hx : x.1.memWf := State.planWrite_memWf h
  clear_value x
  have hs1 : s1.memWf := by
    unfold s1
    split <;> exact hx
  clear_value s1
  cases ht
  exact hs1

theorem allocWord_memWf {s t : State} {i : Instr} {fn d dn a slot : Nat} {unbound : List Word} (h : s.memWf)
    (ht : allocWord i fn d dn a slot unbound s = .next t) : t.memWf := by
  refine runWord_memWf (fun l s t h ht => ?_) h ht
  split at ht
  · cases ht
  split at ht
  · cases ht
  · cases ht
    exact h
  · split at ht
    · cases ht
      exact State.fieldStart_memWf h
    · extract_lets v _ s1 at ht
      have hs1 : s1.memWf := State.fieldStart_memWf h
      clear_value s1
      cases ht
      exact hs1

theorem State.memWf_of_serveWord_ {s : State} {o : FieldOp} {t : TreeDesc} (h : s.memWf) : (s.serveWord_ o t).memWf := by
  unfold State.serveWord_
  extract_lets +onlyGivenNames v
  split
  · extract_lets +onlyGivenNames s1
    have hs1 : s1.memWf := State.postFault_memWf h _ _ _ _ _ _
    clear_value s1
    split <;> exact hs1
  · next p s1 gw hw =>
    have hs1 : s1.memWf := by
      split at hw
      · exact State.insertLeaf_memWf (r := (_, _, _)) h hw
      · exact State.markLeaf_memWf (r := (_, _, _)) h hw
    exact hs1

theorem State.failAlloc_memWf {s : State} (h : s.memWf) : s.failAlloc.memWf := by
  unfold State.failAlloc
  split <;> exact h

theorem State.unlink_memWf {s u : State} {r : Reader} {t : TreeDesc} {v : Vox} {va l n : Nat} (h : s.memWf) (ht : s.unlink r t v va l n = .ok u) :
    u.memWf := by
  induction n generalizing s va l with
  | zero =>
    cases ht
    exact h
  | succ n ih =>
    rw [State.unlink] at ht
    obtain ⟨⟨h0, _⟩, _, ht⟩ := exists_of_bind_ok ht
    obtain ⟨⟨s1, _⟩, h1, ht⟩ := exists_of_bind_ok ht
    obtain ⟨⟨s2, _⟩, h2, ht⟩ := exists_of_bind_ok ht
    obtain ⟨⟨s3, _⟩, h3, ht⟩ := exists_of_bind_ok ht
    have hs2 : s2.memWf := State.vwrite_memWf (r := (_, _)) (State.vwrite_memWf (r := (_, _)) h h1) h2
    have hs3 : s3.memWf := State.vwrite_memWf (r := (_, _)) hs2 h3
    dsimp only at ht
    split at ht
    · obtain ⟨⟨hb, _⟩, _, ht⟩ := exists_of_bind_ok ht
      obtain ⟨⟨s4, _⟩, h4, ht⟩ := exists_of_bind_ok ht
      obtain ⟨⟨s5, _⟩, h5, ht⟩ := exists_of_bind_ok ht
      have hs5 : s5.memWf := State.vwrite_memWf (r := (_, _)) (State.vwrite_memWf (r := (_, _)) hs3 h4) h5
      dsimp only at ht
      split at ht
      · obtain ⟨f, _, ht⟩ := exists_of_bind_ok ht
        split at ht
        · obtain ⟨⟨s6, _⟩, h6, ht⟩ := exists_of_bind_ok ht
          cases ht
          exact State.vwrite_memWf (r := (_, _)) hs5 h6
        · cases ht
          exact hs5
      · exact ih hs5 ht
    · cases ht
      exact hs3

theorem State.removeLeaves_memWf {s u : State} {r : Reader} {t : TreeDesc} {fs : List PoolLeaf} (h : s.memWf) (ht : s.removeLeaves r t fs = .ok u) :
    u.memWf := by
  induction fs generalizing s with
  | nil =>
    cases ht
    exact h
  | cons f fs ih =>
    rw [State.removeLeaves] at ht
    obtain ⟨⟨_, _⟩, _, ht⟩ := exists_of_bind_ok ht
    obtain ⟨s1, h1, ht⟩ := exists_of_bind_ok ht
    obtain ⟨⟨_, _⟩, _, ht⟩ := exists_of_bind_ok ht
    obtain ⟨⟨s2, _⟩, h2, ht⟩ := exists_of_bind_ok ht
    obtain ⟨⟨s3, _⟩, h3, ht⟩ := exists_of_bind_ok ht
    have hs2 : s2.memWf := State.vwrite_memWf (r := (_, _)) (State.unlink_memWf h h1) h2
    exact ih (State.vwrite_memWf (r := (_, _)) hs2 h3) ht

theorem State.dropTree_memWf {s : State} {root : DWord} (h : s.memWf) : (s.dropTree root).memWf := h

theorem State.sweepTree_memWf {s u : State} {asid : Nat} {t : TreeDesc} (h : s.memWf) (ht : s.sweepTree asid t = .ok u) : u.memWf := by
  unfold State.sweepTree at ht
  extract_lets +onlyGivenNames r s0 at ht
  have hs0 : s0.memWf := State.dropTree_memWf h
  clear_value s0
  obtain ⟨ls, _, ht⟩ := exists_of_bind_ok ht
  split at ht
  · cases ht
    exact h
  · obtain ⟨s1, h1, ht⟩ := exists_of_bind_ok ht
    obtain ⟨⟨hb, _⟩, _, ht⟩ := exists_of_bind_ok ht
    obtain ⟨⟨s2, _⟩, h2, ht⟩ := exists_of_bind_ok ht
    cases ht
    exact State.vwrite_memWf (r := (_, _)) (State.removeLeaves_memWf hs0 h1) h2

theorem execSweep_memWf {s t : State} {asid root : Nat} (h : s.memWf) (ht : execSweep asid root s = .next t) : t.memWf := by
  unfold execSweep at ht
  split at ht
  · cases ht
  extract_lets +onlyGivenNames other at ht
  split at ht
  · split at ht <;> cases ht
    exact h
  · split at ht
    · cases ht
    split at ht
    · next s1 h1 =>
      cases ht
      exact (State.sweepTree_memWf h h1 : s1.memWf)
    · extract_lets +onlyGivenNames s1 at ht
      have hs1 : s1.memWf := State.postFault_memWf h _ _ _ _ _ _
      clear_value s1
      split at ht <;> cases ht <;> exact hs1

end Sys2Proof.Machine
end

section
/-! SUPPORT. The copy engine (R261-R267) keeps both memories in canonical form, whatever the state in which a movement stands. -/

namespace Sys2Proof.Machine

theorem State.makeCopy_memWf {s : State} {core : Nat} {g : Option Group} {asid fn k k2 : Nat} {o : List Word} {bad : Bool} {queue : Option (Nat × Nat)}
    (h : s.memWf) : (s.makeCopy core g asid fn k k2 o bad queue).2.memWf := by
  unfold State.makeCopy
  extract_lets +onlyGivenNames t1 t2 co tile fail0 fail c s1
  have hs1 : s1.memWf := State.fresh_memWf h
  clear_value s1 c fail tile
  split
  · split
    · split
      · dsimp only [State.memWf]
        exact State.updTile_memWf hs1
      · exact hs1
    · exact hs1
  · exact hs1

theorem joinCopy_memWf {s : State} {id tid : Nat} (h : s.memWf) : (joinCopy id tid s).memWf := h

theorem copyWord_memWf {s t : State} {i : Instr} {fn sreg k k2 : Nat} (h : s.memWf) (ht : copyWord i fn sreg k k2 s = .next t) : t.memWf := by
  refine engineWord_memWf (fun l bad s r h hr => ?_) (fun _ _ _ h => joinCopy_memWf h) h ht
  cases hr
  exact State.makeCopy_memWf h

theorem Moved.read_memWf {m : Moved} {core asid va n : Nat} {r : Nat × Moved} (h : m.s.memWf) (ht : m.read core asid va n = .ok r) : r.2.s.memWf := by
  unfold Moved.read at ht
  split at ht <;> cases ht
  exact State.touchRead_memWf h

theorem Moved.write_memWf {m m' : Moved} {core asid va n v : Nat} (h : m.s.memWf) (ht : m.write core asid va n v = .ok m') : m'.s.memWf := by
  unfold Moved.write at ht
  split at ht
  · cases ht
  · next s1 g hw =>
    cases ht
    exact State.vwrite_memWf (r := (_, _)) h hw

theorem Moved.writeBit_memWf {m m' : Moved} {core asid va b used : Nat} {v : Bool} (h : m.s.memWf) (ht : m.writeBit core asid va b used v = .ok m') :
    m'.s.memWf :=
  Moved.write_memWf h ht

theorem Moved.writePlane_memWf {m m' : Moved} {core asid : Nat} {t : Tensor} {j i : Nat} {v : Bool} (h : m.s.memWf)
    (ht : m.writePlane core asid t j i v = .ok m') : m'.s.memWf := by
  unfold Moved.writePlane at ht
  extract_lets used full at ht
  split at ht
  · cases ht
  · next m1 h1 =>
    have hm1 : m1.s.memWf := Moved.writeBit_memWf h h1
    split at ht
    · exact Moved.write_memWf hm1 ht
    · cases ht
      exact hm1

theorem Moved.each_memWf {α : Type} {f : Moved → α → Except EngFault Moved} (hf : ∀ m x m', m.s.memWf → f m x = .ok m' → m'.s.memWf) {xs : List α}
    {m m' : Moved} (h : m.s.memWf) (ht : Moved.each f xs m = .ok m') : m'.s.memWf := by
  induction xs generalizing m with
  | nil =>
    cases ht
    exact h
  | cons x xs ih =>
    rw [Moved.each] at ht
    split at ht
    · next m1 h1 => exact ih (hf _ _ _ h h1) ht
    · cases ht

theorem indexRow_memWf {m : Moved} {core asid : Nat} {t1 t2 : Tensor} {o : CopyOct} {k : Nat} {r : Option Nat × Moved} (h : m.s.memWf)
    (ht : indexRow m core asid t1 t2 o k = .ok r) : r.2.s.memWf := by
  unfold indexRow at ht
  split at ht
  · cases ht
  · next v m1 h1 =>
    cases ht
    exact Moved.read_memWf (r := (_, _)) h h1

theorem moveElem_memWf {c : Copy} {o : CopyOct} {t1 : Tensor} {row0 : Nat} {m m' : Moved} {p : Nat × Nat} (h : m.s.memWf)
    (ht : moveElem c o t1 row0 m p = .ok m') : m'.s.memWf := by
  unfold moveElem at ht
  extract_lets +onlyGivenNames r col n fromTensor toTile ofTile at ht
  have hfrom : ∀ (m : Moved) (i0 i1 q : Nat) (x : Nat × Moved), m.s.memWf → fromTensor m i0 i1 q = .ok x → x.2.s.memWf := by
    intro m i0 i1 q x h hx
    unfold fromTensor at hx
    split at hx
    · exact Moved.read_memWf h hx
    · cases hx
      exact h
  have hto : ∀ (m : Moved) (v : Nat), m.s.memWf → (toTile m v).s.memWf := by
    intro m v h
    unfold toTile
    split
    · exact h
    · exact State.updTile_memWf h
  have hof : ∀ m : Moved, m.s.memWf → (ofTile m).2.s.memWf := by
    intro m h
    unfold ofTile
    split <;> exact h
  clear_value fromTensor toTile ofTile
  split at ht
  · split at ht
    · cases ht
    · next v m1 h1 =>
      have hm1 : m1.s.memWf := hfrom _ _ _ _ (_, _) h h1
      split at ht
      · exact Moved.write_memWf hm1 ht
      · cases ht
        exact hm1
  · split at ht
    · cases ht
    · next v m1 h1 =>
      cases ht
      exact hto _ _ (hfrom _ _ _ _ (_, _) h h1)
  · extract_lets x at ht
    have hx : x.2.s.memWf := hof _ h
    clear_value x
    split at ht
    · exact Moved.write_memWf hx ht
    · cases ht
      exact hx
  · split at ht
    · cases ht
    · next m1 h1 =>
      cases ht
      exact hto _ _ (indexRow_memWf (r := (_, _)) h h1)
    · next i m1 h1 =>
      split at ht
      · cases ht
      · next v m2 h2 =>
        cases ht
        exact hto _ _ (hfrom _ _ _ _ (_, _) (indexRow_memWf (r := (_, _)) h h1) h2)
  · split at ht
    · cases ht
    · next m1 h1 =>
      cases ht
      exact indexRow_memWf (r := (_, _)) h h1
    · next i m1 h1 =>
      extract_lets x at ht
      have hx : x.2.s.memWf := hof _ (indexRow_memWf (r := (_, _)) h h1)
      clear_value x
      split at ht
      · exact Moved.write_memWf hx ht
      · cases ht
        exact hx
  · cases ht
    exact h

theorem moveBit_memWf {c : Copy} {o : CopyOct} {t1 : Tensor} {row0 : Nat} {m m' : Moved} {p : Nat × Nat × Nat} (h : m.s.memWf)
    (ht : moveBit c o t1 row0 m p = .ok m') : m'.s.memWf := by
  unfold moveBit at ht
  extract_lets +onlyGivenNames j r col fromTensor toTensor toTile ofTile at ht
  have hfrom : ∀ (m : Moved) (i0 i1 : Nat) (x : Bool × Moved), m.s.memWf → fromTensor m i0 i1 = .ok x → x.2.s.memWf := by
    intro m i0 i1 x h hx
    unfold fromTensor at hx
    split at hx
    · extract_lets i at hx
      split at hx
      · cases hx
      · next v m1 h1 =>
        cases hx
        exact Moved.read_memWf (r := (_, _)) h h1
    · cases hx
      exact h
  have hput : ∀ (m : Moved) (t : Tensor) (i0 i1 q : Nat) (v : Bool) (m' : Moved), m.s.memWf → toTensor m t i0 i1 q v = .ok m' → m'.s.memWf := by
    intro m t i0 i1 q v m' h hx
    unfold toTensor at hx
    split at hx
    · exact Moved.writePlane_memWf h hx
    · cases hx
      exact h
  have hto : ∀ (m : Moved) (v : Bool), m.s.memWf → (toTile m v).s.memWf := by
    intro m v h
    unfold toTile
    split
    · exact h
    · exact State.updTile_memWf h
  have hof : ∀ m : Moved, m.s.memWf → (ofTile m).2.s.memWf := by
    intro m h
    unfold ofTile
    split <;> exact h
  clear_value fromTensor toTensor toTile ofTile
  split at ht
  · split at ht
    · cases ht
    · next v m1 h1 => exact hput _ _ _ _ _ _ _ (hfrom _ _ _ (_, _) h h1) ht
  · split at ht
    · cases ht
    · next v m1 h1 =>
      cases ht
      exact hto _ _ (hfrom _ _ _ (_, _) h h1)
  · exact hput _ _ _ _ _ _ _ (hof _ h) ht
  · split at ht
    · cases ht
    · next m1 h1 =>
      cases ht
      exact hto _ _ (indexRow_memWf (r := (_, _)) h h1)
    · next i m1 h1 =>
      split at ht
      · cases ht
      · next v m2 h2 =>
        cases ht
        exact hto _ _ (hfrom _ _ _ (_, _) (indexRow_memWf (r := (_, _)) h h1) h2)
  · split at ht
    · cases ht
    · next m1 h1 =>
      cases ht
      exact indexRow_memWf (r := (_, _)) h h1
    · next i m1 h1 => exact hput _ _ _ _ _ _ _ (hof _ (indexRow_memWf (r := (_, _)) h h1)) ht
  · cases ht
    exact h

theorem Copy.rowsOf_memWf {c : Copy} {o : CopyOct} {t1 : Tensor} {m : Moved} {r : List (Nat × Option Nat) × Moved} (h : m.s.memWf)
    (ht : c.rowsOf o t1 m = .ok r) : r.2.s.memWf := by
  unfold Copy.rowsOf at ht
  split at ht
  · obtain ⟨p, hp, rfl⟩ := exists_of_map_ok ht
    refine of_foldlM_ok (P := fun p => p.2.s.memWf) (fun p k q h hq => ?_) h hp
    obtain ⟨x, hx, rfl⟩ := exists_of_map_ok hq
    exact indexRow_memWf h hx
  · cases ht
    exact h

theorem State.poisonVa_memWf {s : State} {core asid va : Nat} (h : s.memWf) : (s.poisonVa core asid va).memWf :=
  State.poisonBytes_memWf h

theorem readTensor_memWf {m : Moved} {core asid addr : Nat} {r : Option Tensor × Moved} (h : m.s.memWf) (ht : readTensor m core asid addr = .ok r) :
    r.2.s.memWf := by
  unfold readTensor at ht
  split at ht
  · cases ht
  extract_lets +onlyGivenNames m1 at ht
  have hm1 : m1.s.memWf := State.touchRead_memWf h
  clear_value m1
  split at ht
  · extract_lets +onlyGivenNames extb at ht
    split at ht <;> cases ht
    exact State.touchRead_memWf hm1
  · cases ht
    exact hm1

theorem State.setTensor_memWf {s : State} {asid k : Nat} {t : Option Tensor} (h : s.memWf) : (s.setTensor asid k t).memWf :=
  State.updCtx_memWf h

theorem State.moveCopy_memWf {s : State} {c : Copy} {r : Moved × Nat} (h : s.memWf) (ht : s.moveCopy c = .ok r) : r.1.s.memWf := by
  unfold State.moveCopy at ht
  extract_lets +onlyGivenNames o at ht
  split at ht
  · split at ht
    · cases ht
    · next t m h1 =>
      have hm : m.s.memWf := readTensor_memWf (r := (_, _)) h h1
      split at ht
      · cases ht
        exact hm
      · cases ht
        exact State.setTensor_memWf hm
  · extract_lets +onlyGivenNames bs at ht
    split at ht
    · cases ht
    · next s1 g hw =>
      cases ht
      exact State.vwrite_memWf (r := (_, _)) h hw
  · split at ht
    · cases ht
      exact h
    · extract_lets +onlyGivenNames tile row0 rows filled at ht
      have hfilled : ∀ s1, filled = .ok s1 → s1.memWf := by
        intro s1 h1
        unfold filled at h1
        split at h1
        · exact State.fillRows_memWf h h1
        · cases h1
          exact h
      clear_value filled
      split at ht
      · cases ht
      · next s1 =>
        have hs1 : s1.memWf := hfilled s1 rfl
        extract_lets +onlyGivenNames planes at ht
        split at ht
        · cases ht
        · next order m0 h0 =>
          have hm0 : m0.s.memWf := Copy.rowsOf_memWf (r := (_, _)) (by exact hs1) h0
          extract_lets -underBinder +onlyGivenNames toTile m1 box r at ht
          clear_value toTile
          have hm1 : m1.s.memWf := by
            unfold m1
            split
            · exact State.updTile_memWf hm0
            · exact hm0
          have hr : ∀ m, r = .ok m → m.s.memWf := by
            intro m hr
            unfold r at hr
            split at hr
            · exact Moved.each_memWf (fun _ _ _ h ht => moveBit_memWf h ht) hm1 hr
            · exact Moved.each_memWf (fun _ _ _ h ht => moveElem_memWf h ht) hm1 hr
          clear_value r
          split at ht
          · cases ht
          · next m =>
            have hm : m.s.memWf := hr m rfl
            extract_lets -underBinder +onlyGivenNames w1 w2 at ht
            have hw1 : w1.memWf := by
              unfold w1
              split
              · split
                · exact State.updTile_memWf hm
                · exact hm
              · exact hm
            clear_value w1
            have hw2 : w2.memWf := by
              unfold w2
              split
              · split
                · exact foldl_memWf (fun _ _ hs => State.serve_memWf hs) _ hw1
                · exact hw1
              · exact hw1
            clear_value w2
            split at ht
            · cases ht
              exact foldl_memWf (fun _ _ hs => State.poisonVa_memWf hs) _ hw2
            · cases ht
              exact hw2

theorem State.setCopy_memWf {s : State} {c : Copy} (h : s.memWf) : (s.setCopy c).memWf := h

theorem State.tellCopy_memWf {s : State} {c : Copy} (h : s.memWf) : (s.tellCopy c).memWf := by
  unfold State.tellCopy
  extract_lets o s1
  have hs1 : s1.memWf := by
    unfold s1
    split
    · exact h
    · split
      · extract_lets s1
        have hs1 : s1.memWf := by
          unfold s1
          split
          · exact State.tileArrive_memWf h
          · exact State.tileFail_memWf h
        clear_value s1
        split
        · split
          · exact State.serveRing_memWf (State.updTile_memWf hs1)
          · exact hs1
        · exact hs1
      · exact h
  clear_value s1
  split
  · exact hs1
  · exact (State.raiseErr_sameCells _ _).memWf hs1

theorem State.endCopy_memWf {s : State} {c : Copy} (h : s.memWf) : (s.endCopy c).memWf := by
  unfold State.endCopy
  extract_lets s1 s2
  have hs1 : s1.memWf := h
  clear_value s1
  have hs2 : s2.memWf := by
    unfold s2
    split
    · exact State.finishAll_memWf hs1
    · exact hs1
  clear_value s2
  split
  · exact (State.queueCmdDone_sameCells _ _ _).memWf hs2
  · exact hs2

theorem execCopyComplete_memWf {s t : State} {id : Nat} (h : s.memWf) (ht : execCopyComplete id s = .next t) : t.memWf := by
  unfold execCopyComplete at ht
  split at ht
  · cases ht
  split at ht
  · cases ht
  extract_lets -underBinder +onlyGivenNames o needSlot slot at ht
  clear_value needSlot slot
  split at ht
  · cases ht
  extract_lets -underBinder +onlyGivenNames s c r at ht
  have hs : s.memWf := by
    unfold s
    split
    · exact State.updTile_memWf h
    · exact h
  have hr : ∀ x, r = .ok x → x.1.memWf := by
    intro x hx
    unfold r at hx
    split at hx
    · cases hx
      exact hs
    · split at hx
      · cases hx
      · next m code hm =>
        cases hx
        exact State.moveCopy_memWf (r := (_, _)) hs hm
  clear_value r
  split at ht
  · extract_lets +onlyGivenNames held at ht
    cases ht
    exact State.postFault_memWf (State.setCopy_memWf hs) _ _ _ _ _ _
  · next s0 c0 =>
    have hs0 : s0.memWf := hr _ rfl
    split at ht
    · cases ht
      exact State.setCopy_memWf hs0
    · extract_lets -underBinder +onlyGivenNames s1 c1 at ht
      have hs1 : s1.memWf := by
        unfold s1
        split
        · exact hs0
        · exact State.tellCopy_memWf hs0
      clear_value s1
      split at ht
      · cases ht
        exact State.endCopy_memWf hs1
      · split at ht
        · next s2 g hw =>
          cases ht
          exact State.endCopy_memWf (State.vwrite_memWf (r := (_, _)) hs1 hw)
        · split at ht
          · cases ht
            exact State.endCopy_memWf ((State.raiseErr_sameCells _ _).memWf (State.postFault_memWf hs1 _ _ _ _ _ _))
          · cases ht
            exact State.postFault_memWf (State.setCopy_memWf hs1) _ _ _ _ _ _

theorem State.failCopy_memWf {s : State} {id : Nat} (h : s.memWf) : (s.failCopy id).memWf := by
  unfold State.failCopy
  split
  · exact h
  · split
    · exact State.endCopy_memWf ((State.raiseErr_sameCells _ _).memWf h)
    · exact State.setCopy_memWf h

end Sys2Proof.Machine
end

section
/-! SUPPORT. Grids and gradients (R204-R208) keep both memories in canonical form. -/

namespace Sys2Proof.Machine

theorem State.fieldRecord_memWf {s : State} {l : Lane} {code : Nat} (h : s.memWf) : (s.fieldRecord l code).memWf :=
  (State.raiseErr_sameCells _ _).memWf h

theorem gridEffect_memWf {a slot first : Nat} {l : Lane} {s : State} {r : FieldDone} (h : s.memWf)
    (ht : gridEffect a slot first l s = .ok r) : r.s.memWf := by
  unfold gridEffect at ht
  split at ht
  · cases ht
    exact State.fieldRecord_memWf h
  · obtain ⟨ls, _, ht⟩ := exists_of_bind_ok ht
    cases ht
    exact State.doneReading_memWf h

theorem execHgrid_memWf {s t : State} {c : BitVec 1} {d a : BitVec 6} {sl : BitVec 2} {lv : BitVec 4} (h : s.memWf)
    (ht : execHgrid c d a sl lv s = .next t) :
    t.memWf :=
  fieldWord_memWf (fun _ _ _ _ h hr => gridEffect_memWf h hr) h ht

theorem gradWord_memWf {s t : State} {i : Instr} {wide : Bool} {d a slot first : Nat} (h : s.memWf)
    (ht : gradWord i wide d a slot first s = .next t) : t.memWf := by
  unfold gradWord at ht
  extract_lets fn at ht
  refine runWord_memWf (fun l s t h ht => ?_) h ht
  split at ht
  · cases ht
  split at ht
  · cases ht
  split at ht
  · cases ht
  · cases ht
  · cases ht
    exact h
  · extract_lets begun at ht
    split at ht
    · cases ht
      exact State.fieldStart_memWf (State.fieldRecord_memWf h)
    · split at ht
      · cases ht
        exact State.fieldStart_memWf (State.fieldRecord_memWf h)
      · extract_lets psize cs failing at ht
        split at ht <;> cases ht
        exact State.fieldStart_memWf (State.updLane_memWf h)

theorem State.packAdd_memWf {s : State} {g : Group} {base : Nat} {x : PackSum} (h : s.memWf) : (s.packAdd g base x).memWf := by
  unfold State.packAdd
  extract_lets n s0 a logged
  have hs0 : s0.memWf := State.updThread_memWf h
  clear_value s0
  split
  · exact State.sideEnter_memWf (State.updThread_memWf hs0)
  · split
    · extract_lets s1
      have hs1 : s1.memWf := State.postFault_memWf (State.sideEnter_memWf (State.updThread_memWf hs0)) _ _ _ _ _ _
      clear_value s1
      split
      · exact State.terminate_memWf hs1
      · exact hs1
    · split
      · exact State.sideEnter_memWf (State.updThread_memWf hs0)
      · extract_lets old s1 s2 gw late
        have hs1 : s1.memWf := State.writePhys_memWf hs0 _ _ _ _
        clear_value s1
        have hs2 : s2.memWf := by
          unfold s2
          split
          · exact (State.poisonLine_sameCells _ _).memWf hs1
          · exact hs1
        clear_value s2
        exact hs2

theorem State.flushSums_memWf {s : State} (h : s.memWf) : s.flushSums.memWf := by
  unfold State.flushSums
  split
  · exact h
  · exact foldl_memWf (fun _ _ hs => State.arithTrap_memWf hs) _ (foldl_memWf (fun _ _ hs => State.packAdd_memWf hs) _ h)
  · exact h

end Sys2Proof.Machine
end

section
/-! SUPPORT. The matrix engine (R160-R173) keeps both memories in canonical form. -/

namespace Sys2Proof.Machine

theorem execTake_memWf {s t : State} {c : BitVec 1} (h : s.memWf) (ht : execTake c s = .next t) : t.memWf := by
  refine runWord_memWf (fun l s t h ht => ?_) h ht
  extract_lets k at ht
  split at ht
  · cases ht
    exact h
  · split at ht <;> cases ht
    exact (State.joinRein_sameCells _ _ _).memWf h

theorem execPass_memWf {s t : State} {c : BitVec 1} (h : s.memWf) (ht : execPass c s = .next t) : t.memWf := by
  refine runWord_memWf (fun l s t h ht => ?_) h ht
  cases ht
  split
  · exact State.reinRelease_memWf h
  · exact h

theorem State.makeMx_memWf {s : State} {g : Group} {fn k : Nat} {o : List Word} {bad : Bool} (h : s.memWf) : (s.makeMx g fn k o bad).2.memWf := h

theorem joinMx_memWf {s : State} {id tid : Nat} (h : s.memWf) : (joinMx id tid s).memWf := h

theorem mxWord_memWf {s t : State} {i : Instr} {fn sreg k : Nat} (h : s.memWf) (ht : mxWord i fn sreg k s = .next t) : t.memWf := by
  refine engineWord_memWf (fun l bad s r h hr => ?_) (fun _ _ _ h => joinMx_memWf h) h ht
  split at hr
  · cases hr
  split at hr <;> cases hr
  exact State.makeMx_memWf h

theorem State.setMx_memWf {s : State} {m : Mx} (h : s.memWf) : (s.setMx m).memWf := h

theorem State.poisonAcc_memWf {s : State} {m : Mx} (h : s.memWf) : (s.poisonAcc m).memWf := by
  unfold State.poisonAcc
  split
  · exact h
  · exact State.updTile_memWf h

theorem State.mxFault_memWf {s : State} {m : Mx} {va k facc : Nat} (h : s.memWf) : (s.mxFault m va k facc).memWf :=
  State.postFault_memWf (State.setMx_memWf h) _ _ _ _ _ _

theorem State.loopFrom_memWf {s : State} {m : Mx} {o : LoopOct} {ua ub uc k : Nat} (h : s.memWf) : (s.loopFrom m o ua ub uc k).memWf := by
  induction k generalizing s m with
  | zero =>
    rw [State.loopFrom]
    exact State.setMx_memWf h
  | succ n ih =>
    rw [State.loopFrom]
    split
    · extract_lets ready
      split
      · exact State.setMx_memWf h
      · split
        · exact State.mxFault_memWf h
        · split
          · exact State.mxFault_memWf (State.fillRows_memWf h ‹_›)
          · split
            · split
              · exact State.setMx_memWf (State.poisonAcc_memWf (State.fillRows_memWf (State.fillRows_memWf h ‹_›) ‹_›))
              · extract_lets vals s3 s4 m1
                have hs3 : s3.memWf := State.updTile_memWf (State.fillRows_memWf (State.fillRows_memWf h ‹_›) ‹_›)
                clear_value s3
                have hs4 : s4.memWf := by
                  unfold s4
                  split
                  · exact State.serveRing_memWf (State.updTile_memWf hs3)
                  · exact hs3
                clear_value s4
                exact ih hs4
            · exact State.setMx_memWf (State.fillRows_memWf (State.fillRows_memWf h ‹_›) ‹_›)
    · exact State.setMx_memWf h

theorem State.touchScale_memWf {s : State} {m : Mx} {o : DrainOct} {t : Tensor} {n : Nat} (h : s.memWf) : (s.touchScale m o t n).memWf := by
  unfold State.touchScale
  split
  · exact State.touchRead_memWf h
  · exact h

theorem State.writeAll_memWf {s : State} {core asid gw : Nat} {xs : List (Nat × List Byte)} {r : State × Nat} (h : s.memWf)
    (ht : s.writeAll core asid gw xs = .ok r) : r.1.memWf := by
  induction xs generalizing s gw r with
  | nil =>
    rw [State.writeAll] at ht
    cases ht
    exact h
  | cons p ps ih =>
    rw [State.writeAll] at ht
    split at ht
    · cases ht
    exact ih (State.vwrite_memWf h ‹_›) ht

theorem State.spoilVas_memWf {s t : State} {m : Mx} {n : Nat} {xs : List (Nat × Nat)} (h : s.memWf) (ht : s.spoilVas m n xs = .ok t) : t.memWf := by
  induction xs generalizing s t with
  | nil =>
    rw [State.spoilVas] at ht
    cases ht
    exact h
  | cons p ps ih =>
    rw [State.spoilVas] at ht
    split at ht
    · cases ht
    exact ih (State.poisonBytes_memWf (State.vwrite_memWf h ‹_›)) ht

theorem State.spoilFrom_memWf {s : State} {m : Mx} {o : DrainOct} {t : Tensor} {k : Nat} (h : s.memWf) : (s.spoilFrom m o t k).memWf := by
  induction k generalizing s m with
  | zero =>
    rw [State.spoilFrom]
    exact State.setMx_memWf h
  | succ n ih =>
    rw [State.spoilFrom]
    split
    · exact ih (State.spoilVas_memWf h ‹_›)
    · split
      · exact ih (State.postFault_memWf h _ _ _ _ _ _)
      · exact State.mxFault_memWf h

theorem State.spoilDrain_memWf {s : State} {m : Mx} {o : DrainOct} {t : Tensor} (h : s.memWf) : (s.spoilDrain m o t).memWf :=
  State.spoilFrom_memWf h

theorem State.foldAmax_memWf {s : State} {m : Mx} {t : Tensor} {w : Fmt} (h : s.memWf) : (s.foldAmax m t w).memWf := by
  unfold State.foldAmax
  split
  · exact State.setMx_memWf h
  · split
    · exact State.setMx_memWf h
    · extract_lets b
      split
      · exact State.mxFault_memWf h
      · split
        · exact State.setMx_memWf h
        · split
          · exact State.mxFault_memWf h
          · exact State.setMx_memWf (State.touch_memWf (State.writePhys_memWf h _ _ _ _))

theorem State.drainFrom_memWf {s : State} {m : Mx} {o : DrainOct} {t : Tensor} {acc : Tile} {res : Option Tile} {k : Nat}
    (h : s.memWf) : (s.drainFrom m o t acc res k).memWf := by
  induction k generalizing s m with
  | zero =>
    rw [State.drainFrom]
    exact State.foldAmax_memWf h
  | succ n ih =>
    rw [State.drainFrom]
    split
    · exact State.mxFault_memWf h
    · extract_lets s
      have hs : s.memWf := State.touchScale_memWf h
      clear_value s
      split
      · exact State.spoilDrain_memWf hs
      · split
        · exact State.mxFault_memWf hs
        · exact ih (State.writeAll_memWf hs ‹_›)

theorem State.runDrain_memWf {s : State} {m : Mx} {o : DrainOct} {t : Tensor} (h : s.memWf) : (s.runDrain m o t).memWf := by
  unfold State.runDrain
  split
  · exact State.mxFault_memWf h
  · next s1 h1 =>
    have hs1 : s1.memWf := State.fillRows_memWf h h1
    split
    · exact State.mxFault_memWf hs1
    · next s2 h2 =>
      have hs2 : s2.memWf := by
        split at h2
        · exact State.fillRows_memWf hs1 h2
        · cases h2
          exact hs1
      split
      · exact State.setMx_memWf hs2
      · exact State.drainFrom_memWf hs2

theorem State.runMx_memWf {s : State} {m0 : Mx} (h : s.memWf) : (s.runMx m0).memWf := by
  unfold State.runMx
  extract_lets m
  split
  · exact State.setMx_memWf h
  · split
    · split
      · exact State.spoilFrom_memWf h
      · exact State.setMx_memWf h
    · split
      · split
        · exact State.spoilDrain_memWf h
        · exact State.setMx_memWf h
        · exact State.setMx_memWf (State.poisonAcc_memWf h)
      · split
        · split
          · exact State.loopFrom_memWf h
          · exact State.setMx_memWf h
        · split
          · exact State.runDrain_memWf h
          · exact State.setMx_memWf h
        · split
          · exact State.mxFault_memWf h
          · exact State.setMx_memWf (State.updTile_memWf (State.fillRows_memWf h ‹_›))

theorem execMatrixCommandStart_memWf {s t : State} {core : Nat} (h : s.memWf) (ht : execMatrixCommandStart core s = .next t) : t.memWf := by
  unfold execMatrixCommandStart at ht
  split at ht
  · split at ht <;> cases ht
    exact State.runMx_memWf h
  · cases ht

theorem execRingSlotReady_memWf {s t : State} {core : Nat} (h : s.memWf) (ht : execRingSlotReady core s = .next t) : t.memWf := by
  unfold execRingSlotReady at ht
  split at ht
  · extract_lets ready at ht
    split at ht <;> cases ht
    exact State.runMx_memWf h
  · cases ht

theorem execMatrixCommandComplete_memWf {s t : State} {core : Nat} (h : s.memWf) (ht : execMatrixCommandComplete core s = .next t) : t.memWf := by
  unfold execMatrixCommandComplete at ht
  split at ht
  · split at ht
    · cases ht
    extract_lets +onlyGivenNames s1 s2 at ht
    have hs1 : s1.memWf := h
    clear_value s1
    have hs2 : s2.memWf := State.finishAll_memWf hs1
    clear_value s2
    split at ht
    · cases ht
      exact hs2
    · extract_lets g s3 at ht
      have hs3 : s3.memWf := by
        unfold s3
        split
        · split
          · exact State.tileFail_memWf hs2
          · exact hs2
        · exact hs2
      clear_value s3
      cases ht
      exact (State.raiseErr_sameCells _ _).memWf hs3
  · cases ht

theorem State.retryMx_memWf {s : State} {id : Nat} (h : s.memWf) : (s.retryMx id).memWf := h

theorem State.failMx_memWf {s : State} {id : Nat} (h : s.memWf) : (s.failMx id).memWf := h

end Sys2Proof.Machine
end

section
/-! SUPPORT. Launches (R325, R326) keep both memories in canonical form. -/

namespace Sys2Proof.Machine

theorem State.cpWrite_memWf {s : State} {asid : Nat} {dead : List Nat} {va : Nat} {bs : List Byte} {r : State × Nat} (h : s.memWf)
    (ht : s.cpWrite asid dead va bs = .ok (some r)) : r.1.memWf := by
  unfold State.cpWrite at ht
  split at ht
  · next r' hw =>
    cases ht
    exact State.vwrite_memWf h hw
  · split at ht <;> cases ht

theorem State.cmdErr_memWf {s : State} {asid code addr synd : Nat} (h : s.memWf) : (s.cmdErr asid code addr synd).memWf :=
  (State.raiseErr_sameCells _ _).memWf h

theorem State.graphErr_memWf {s : State} {asid : Nat} {l : Option Lane} {cause : Nat} (h : s.memWf) : (s.graphErr asid l cause).memWf :=
  (State.raiseErr_sameCells _ _).memWf h

theorem State.finishCmd_memWf {s : State} {asid q : Nat} {cmd : Option Nat} {cw value : Nat} (h : s.memWf) : (s.finishCmd asid q cmd cw value).memWf := by
  unfold State.finishCmd
  extract_lets -underBinder done
  have hdone : ∀ s : State, s.memWf → (done s).memWf := by
    intro s hs
    unfold done
    split
    · exact (State.queueCmdDone_sameCells _ _ _).memWf hs
    · exact hs
  clear_value done
  split
  · exact hdone _ h
  · split
    · exact hdone _ (State.cmdErr_memWf h)
    · split
      · next s1 g hw => exact hdone _ (State.vwrite_memWf (r := (_, _)) h hw)
      · split
        · exact hdone _ (State.cmdErr_memWf (State.postFault_memWf h _ _ _ _ _ _))
        · extract_lets -underBinder w
          refine State.postFault_memWf ?_ _ _ _ _ _ _
          exact State.fresh_memWf h

theorem State.writeResult_memWf {s : State} {asid sid va value : Nat} (h : s.memWf) : (s.writeResult asid sid va value).memWf := by
  unfold State.writeResult
  split
  · exact State.updSpan_memWf (State.vwrite_memWf h ‹_›)
  · split
    · exact State.graphErr_memWf (State.postFault_memWf h _ _ _ _ _ _)
    · extract_lets w
      refine State.postFault_memWf ?_ _ _ _ _ _ _
      exact State.fresh_memWf h

theorem State.answerWord_memWf {s : State} {id : Nat} {unresolvable : Bool} (h : s.memWf) : (s.answerWord id unresolvable).memWf := by
  unfold State.answerWord
  split
  · exact h
  · extract_lets s1
    have hs1 : s1.memWf := h
    clear_value s1
    split
    · split
      · exact State.graphErr_memWf hs1
      · exact State.writeResult_memWf hs1
    · split
      · split
        · exact (State.queueCmdDone_sameCells _ _ _).memWf (State.cmdErr_memWf hs1)
        · exact State.cmdErr_memWf hs1
      · exact State.finishCmd_memWf hs1

theorem State.startSpan_memWf {s : State} {asid q tag prio : Nat} {cmd : Option Nat} {i : LaunchInfo} {k : Kernel} {d : Deal} {n : Nat}
    {node : Option NodeRun} {args : List Word} {argBad : List Nat} {after : Nat}
    (h : s.memWf) : (s.startSpan asid q tag prio cmd i k d n node args argBad after).memWf := by
  unfold State.startSpan
  extract_lets sp _
  exact State.fresh_memWf h

end Sys2Proof.Machine
end

section
/-! SUPPORT. The command processor (R293-R303) keeps both memories in canonical form. -/

namespace Sys2Proof.Machine

theorem State.servedQueue_memWf {s : State} {x : Queue} (h : s.memWf) : (s.servedQueue x).memWf := h

theorem State.stopQueue_memWf {s : State} {q code addr : Nat} (h : s.memWf) : (s.stopQueue q code addr).memWf := by
  unfold State.stopQueue
  split
  · exact h
  · exact State.cmdErr_memWf (State.updQueue_memWf h)

theorem State.holdQueue_memWf {s : State} {x : Queue} {f : CpFault} {kept : Kept} (h : s.memWf) : (s.holdQueue x f kept).memWf :=
  State.updQueue_memWf (State.postFault_memWf h _ _ _ _ _ _)

theorem State.fetchRecord_memWf {s : State} {x : Queue} (h : s.memWf) : (s.fetchRecord x).memWf := by
  unfold State.fetchRecord
  extract_lets va
  split
  · exact State.holdQueue_memWf h
  · exact State.stopQueue_memWf h
  · split
    · split
      · exact State.stopQueue_memWf h
      · exact State.updQueue_memWf h
    · split
      · exact State.stopQueue_memWf h
      · exact State.updQueue_memWf h

theorem execCommandFetch_memWf {s t : State} (h : s.memWf) (ht : execCommandFetch s = .next t) : t.memWf := by
  unfold execCommandFetch at ht
  split at ht
  · cases ht
  split at ht <;> cases ht
  exact State.fetchRecord_memWf (State.servedQueue_memWf h)

theorem execRecordRefetch_memWf {s t : State} {q : Nat} (h : s.memWf) (ht : execRecordRefetch q s = .next t) : t.memWf := by
  unfold execRecordRefetch at ht
  split at ht
  · split at ht
    · split at ht <;> cases ht
      exact State.fetchRecord_memWf h
    · cases ht
  · cases ht

theorem State.dispatched_memWf {s : State} {q n : Nat} (h : s.memWf) : (s.dispatched q n).memWf :=
  State.updQueue_memWf h

theorem State.launchOutcome_memWf {s : State} {asid q tag prio : Nat} {cmd : Option Nat} {desc : Nat} {r : Launched} (h : s.memWf) :
    (s.launchOutcome asid q tag prio cmd desc r).memWf := by
  unfold State.launchOutcome
  extract_lets +onlyGivenNames done
  have hdone : ∀ s : State, s.memWf → (done s).memWf := by
    intro s hs
    unfold done
    split
    · exact (State.queueCmdDone_sameCells _ _ _).memWf hs
    · exact hs
  clear_value done
  split
  · exact hdone _ (State.cmdErr_memWf h)
  · exact h
  · exact State.finishCmd_memWf h
  · exact State.finishCmd_memWf h
  · exact State.startSpan_memWf h

theorem launchRecord_memWf {s t : State} {q op : Nat} (h : s.memWf) (ht : launchRecord q op s = .next t) : t.memWf := by
  unfold launchRecord at ht
  split at ht
  · cases ht
  extract_lets desc at ht
  split at ht
  · cases ht
  split at ht
  · cases ht
    exact (State.queueCmdDone_sameCells _ _ _).memWf (State.cmdErr_memWf (State.dispatched_memWf h))
  · split at ht
    · cases ht
      exact State.holdQueue_memWf h
    · split at ht <;> cases ht
      exact State.updQueue_memWf h
    · cases ht
      exact State.launchOutcome_memWf (State.dispatched_memWf h)

theorem State.launchWord_memWf {s : State} {r : LaunchReq} (h : s.memWf) : (s.launchWord r).memWf := by
  unfold State.launchWord
  extract_lets x extra s0
  have hs0 : s0.memWf := h
  clear_value s0
  split
  · exact State.cmdErr_memWf hs0
  · split
    · extract_lets hold
      refine State.postFault_memWf ?_ _ _ _ _ _ _
      exact h
    · exact h
    · exact State.launchOutcome_memWf hs0

theorem execLaunchCommand_memWf {s t : State} {q : Nat} (h : s.memWf) (ht : execLaunchCommand q s = .next t) : t.memWf := by
  unfold execLaunchCommand at ht
  split at ht
  · exact launchRecord_memWf h ht
  · split at ht
    · split at ht
      · cases ht
      · next x _ _ =>
        cases ht
        refine State.launchWord_memWf ?_
        cases x with
        | none => exact h
        | some x => exact State.servedQueue_memWf h
    · cases ht

theorem execLaunchLeaf_memWf {s t : State} {q : Nat} (h : s.memWf) (ht : execLaunchLeaf q s = .next t) : t.memWf :=
  launchRecord_memWf h ht

theorem State.handCopy_memWf {s : State} {x : Queue} {b : List Byte} {n : Nat} {late : Bool} (h : s.memWf) : (s.handCopy x b n late).memWf := by
  unfold State.handCopy
  extract_lets +onlyGivenNames r mark
  have hr : r.2.memWf := State.makeCopy_memWf h
  clear_value r
  refine State.dispatched_memWf ?_
  exact hr

theorem execCopyCommand_memWf {s t : State} {q : Nat} (h : s.memWf) (ht : execCopyCommand q s = .next t) : t.memWf := by
  unfold execCopyCommand at ht
  split at ht <;> cases ht
  exact State.handCopy_memWf h

theorem execRelease_memWf {s t : State} {q : Nat} (h : s.memWf) (ht : execRelease q s = .next t) : t.memWf := by
  unfold execRelease at ht
  split at ht
  · cases ht
  extract_lets t at ht
  split at ht
  · cases ht
  split at ht
  · cases ht
    exact State.updQueue_memWf h
  · cases ht
    exact State.handCopy_memWf h

theorem execReleaseTime_memWf {s t : State} {q : Nat} (h : s.memWf) (ht : execReleaseTime q s = .next t) : t.memWf := by
  unfold execReleaseTime at ht
  split at ht
  · cases ht
  split at ht
  · split at ht <;> cases ht
    exact State.handCopy_memWf h
  · cases ht

theorem execWaitword_memWf {s t : State} {q : Nat} (h : s.memWf) (ht : execWaitword q s = .next t) : t.memWf := by
  unfold execWaitword at ht
  split at ht
  · cases ht
  extract_lets va a2 wide n at ht
  split at ht
  · split at ht
    · cases ht
      exact State.stopQueue_memWf h
    · cases ht
      exact State.holdQueue_memWf h
  · cases ht
    exact State.stopQueue_memWf h
  · split at ht
    · cases ht
      exact State.stopQueue_memWf h
    · extract_lets e at ht
      cases ht
      exact State.updQueue_memWf (State.fresh_memWf h)

theorem execFenceCommand_memWf {s t : State} {q : Nat} (h : s.memWf) (ht : execFenceCommand q s = .next t) : t.memWf := by
  unfold execFenceCommand at ht
  split at ht
  · cases ht
  split at ht <;> cases ht
  exact (State.queueCmdDone_sameCells _ _ _).memWf (State.dispatched_memWf h)

theorem packOnce_memWf {s t : State} {i : Instr} {sreg : Nat} {act : Lane → State → State} (hact : ∀ l (s : State), s.memWf → (act l s).memWf)
    (h : s.memWf)
    (ht : packOnce i sreg act s = .next t) : t.memWf := by
  refine runWord_memWf (fun l s t h ht => ?_) h ht
  split at ht
  · cases ht
    exact h
  · split at ht
    · cases ht
    extract_lets +onlyGivenNames x s1 at ht
    have hs1 : s1.memWf := h
    clear_value s1
    cases ht
    split
    · exact State.graphErr_memWf hs1
    · exact hact _ _ hs1

theorem execLaunch_memWf {s t : State} {c : BitVec 1} {sr : BitVec 6} (h : s.memWf) (ht : execLaunch c sr s = .next t) : t.memWf := by
  refine packOnce_memWf (fun l s h => ?_) h ht
  exact State.fresh_memWf h

end Sys2Proof.Machine
end

section
/-! SUPPORT. Link commands (R313, R314, R339) keep both memories in canonical form. -/

namespace Sys2Proof.Machine

theorem State.linkErr_memWf {s : State} {asid code addr : Nat} {g : Option Group} {tid : Option Nat} {pc : DWord} {oct : List Word}
    (h : s.memWf) : (s.linkErr asid code addr g tid pc oct).memWf :=
  (State.raiseErr_sameCells _ _).memWf h

theorem State.setExch_memWf {s : State} {asid : Nat} {e : Exch} (h : s.memWf) : (s.setExch asid e).memWf :=
  State.updCtx_memWf h

theorem State.loadExch_memWf {s t : State} {asid n : Nat} (h : s.memWf) (ht : s.loadExch asid n = .ok t) : t.memWf := by
  unfold State.loadExch at ht
  split at ht
  · cases ht
    exact h
  · split at ht
    · cases ht
      exact h
    · split at ht
      · cases ht
        exact State.setExch_memWf h
      · split at ht <;> cases ht
        exact State.setExch_memWf h

theorem State.passSteps_memWf {s : State} {xs : List (Group × Nat)} (h : s.memWf) : (s.passSteps xs).memWf := by
  induction xs generalizing s with
  | nil =>
    rw [State.passSteps]
    exact h
  | cons p ps ih =>
    rw [State.passSteps]
    exact ih ((State.deliver_sameCells _ _ _ _ _ _).memWf h)

theorem State.failSteps_memWf {s : State} {code : Nat} {xs : List (Group × Nat)} (h : s.memWf) : (s.failSteps code xs).memWf := by
  induction xs generalizing s with
  | nil =>
    rw [State.failSteps]
    exact h
  | cons p ps ih =>
    rw [State.failSteps]
    exact ih ((State.deliver_sameCells _ _ _ _ _ _).memWf (State.linkErr_memWf h))

theorem State.serveSteps_memWf {s : State} {asid n : Nat} (h : s.memWf) : (s.serveSteps asid n).memWf := by
  unfold State.serveSteps
  split
  · exact h
  · split
    · exact State.failSteps_memWf h
    · split
      · exact State.passSteps_memWf h
      · exact h

theorem State.settleExch_memWf {s : State} {asid n : Nat} (h : s.memWf) : (s.settleExch asid n).memWf := by
  unfold State.settleExch
  split
  · exact h
  · split
    · exact State.serveSteps_memWf (State.loadExch_memWf h ‹_›)
    · split
      · exact State.failSteps_memWf (State.postFault_memWf h _ _ _ _ _ _)
      · extract_lets c
        refine State.postFault_memWf ?_ _ _ _ _ _ _
        exact State.fresh_memWf h

theorem State.settleSteps_memWf {s : State} (h : s.memWf) : s.settleSteps.memWf :=
  foldl_memWf (fun _ _ hs => State.settleExch_memWf hs) _ h

theorem execStepwait_memWf {s t : State} {c : BitVec 1} {sr : BitVec 6} (h : s.memWf) (ht : execStepwait c sr s = .next t) : t.memWf := by
  refine runWord_memWf (fun l s t h ht => ?_) h ht
  split at ht
  · cases ht
    exact h
  · split at ht
    · cases ht
    extract_lets o n err at ht
    split at ht
    · cases ht
      exact State.linkErr_memWf h
    · split at ht
      · cases ht
        exact State.linkErr_memWf h
      · split at ht
        · cases ht
          exact State.linkErr_memWf h
        · split at ht
          · cases ht
          split at ht
          · cases ht
            exact State.linkErr_memWf h
          · split at ht <;> cases ht
            exact h

theorem State.makeLink_memWf {s : State} {gid : Option Nat} {asid fn k k2 : Nat} {o : List Word} {bad : Bool} {queue : Option (Nat × Nat)} (h : s.memWf) :
    (s.makeLink gid asid fn k k2 o bad queue).2.memWf :=
  State.fresh_memWf h

theorem joinLink_memWf {s : State} {id tid : Nat} (h : s.memWf) : (joinLink id tid s).memWf := h

theorem linkWord_memWf {s t : State} {i : Instr} {fn sreg k k2 : Nat} (h : s.memWf) (ht : linkWord i fn sreg k k2 s = .next t) : t.memWf := by
  refine engineWord_memWf (fun l bad s r h hr => ?_) (fun _ _ _ h => joinLink_memWf h) h ht
  cases hr
  exact State.makeLink_memWf h

theorem execCollCommand_memWf {s t : State} {q : Nat} (h : s.memWf) (ht : execCollCommand q s = .next t) : t.memWf := by
  unfold execCollCommand at ht
  split at ht <;> cases ht
  exact State.dispatched_memWf (State.makeLink_memWf h)

theorem State.writeElems_memWf {s : State} {asid : Nat} {t : Tensor} {poison : Bool} {gw : Nat} {xs : List (Nat × Nat)} {r : State × Nat} (h : s.memWf)
    (ht : s.writeElems asid t poison gw xs = .ok r) : r.1.memWf := by
  induction xs generalizing s gw r with
  | nil =>
    rw [State.writeElems] at ht
    cases ht
    exact h
  | cons p ps ih =>
    rw [State.writeElems] at ht
    split at ht
    · cases ht
    extract_lets s2 at ht
    have hs2 : s2.memWf := by
      unfold s2
      split
      · split
        · split
          · exact State.vwrite_memWf h ‹_›
          · exact (State.poisonLine_sameCells _ _).memWf (State.vwrite_memWf h ‹_›)
        · exact State.vwrite_memWf h ‹_›
      · exact State.vwrite_memWf h ‹_›
    clear_value s2
    exact ih hs2 ht

theorem State.moveColl_memWf {s : State} {c : LinkCmd} {e : Exch} {r : State × LinkCmd} (h : s.memWf) (ht : s.moveColl c e = .ok r) : r.1.memWf := by
  unfold State.moveColl at ht
  extract_lets +onlyGivenNames o kind r0 m useK fmts allowed fail at ht
  split at ht
  · cases ht
    exact h
  · split at ht
    · cases ht
      exact h
    · obtain ⟨⟨tb, _⟩, _, ht⟩ := exists_of_bind_ok ht
      dsimp only at ht
      split at ht
      · cases ht
        exact h
      · split at ht
        all_goals
          obtain ⟨_, _, ht⟩ := exists_of_bind_ok ht
          obtain ⟨_, h1, ht⟩ := exists_of_bind_ok ht
          cases ht
          exact State.writeElems_memWf h h1

theorem State.moveHalo_memWf {s : State} {c : LinkCmd} {e : Exch} {r : State × LinkCmd} (h : s.memWf) (ht : s.moveHalo c e = .ok r) : r.1.memWf := by
  unfold State.moveHalo at ht
  extract_lets +onlyGivenNames o n down zero at ht
  split at ht
  · cases ht
    exact h
  · extract_lets +onlyGivenNames rest at ht
    have hrest : ∀ u, rest u = .ok r → r.1.memWf := by
      intro u hu
      obtain ⟨_, _, hu⟩ := exists_of_bind_ok hu
      cases hu
      exact h
    clear_value rest
    split at ht
    · obtain ⟨_, _, ht⟩ := exists_of_bind_ok ht
      exact hrest _ ht
    · exact hrest _ ht

theorem State.moveLink_memWf {s : State} {c : LinkCmd} {r : State × LinkCmd} (h : s.memWf) (ht : s.moveLink c = .ok r) : r.1.memWf := by
  unfold State.moveLink at ht
  extract_lets +onlyGivenNames w outside at ht
  split at ht
  · cases ht
  · next s1 h1 =>
    have hs1 : s1.memWf := State.loadExch_memWf h h1
    split at ht
    · cases ht
      exact hs1
    · split at ht
      · cases ht
        exact hs1
      · split at ht
        · cases ht
          exact hs1
        · split at ht
          · exact State.moveColl_memWf hs1 (exists_of_mapError_ok ht)
          · exact State.moveHalo_memWf hs1 ht
          · cases ht
            exact hs1

theorem State.setLink_memWf {s : State} {c : LinkCmd} (h : s.memWf) : (s.setLink c).memWf := h

theorem State.endLink_memWf {s : State} {c : LinkCmd} (h : s.memWf) : (s.endLink c).memWf := by
  unfold State.endLink
  extract_lets s1 s2
  have hs1 : s1.memWf := h
  clear_value s1
  have hs2 : s2.memWf := by
    unfold s2
    split
    · exact State.finishAll_memWf hs1
    · exact hs1
  clear_value s2
  split
  · exact (State.queueCmdDone_sameCells _ _ _).memWf hs2
  · exact hs2

theorem State.tellLink_memWf {s : State} {c : LinkCmd} (h : s.memWf) : (s.tellLink c).memWf := by
  unfold State.tellLink
  extract_lets up s1
  have hs1 : s1.memWf := State.updCtx_memWf h
  clear_value s1
  split
  · exact hs1
  · exact State.linkErr_memWf hs1

theorem execLinkCommandComplete_memWf {s t : State} {id : Nat} (h : s.memWf) (ht : execLinkCommandComplete id s = .next t) : t.memWf := by
  unfold execLinkCommandComplete at ht
  split at ht
  · cases ht
  split at ht
  · cases ht
  split at ht
  · cases ht
    exact State.settleSteps_memWf h
  · split at ht
    · extract_lets +onlyGivenNames held at ht
      cases ht
      exact State.postFault_memWf (State.setLink_memWf h) _ _ _ _ _ _
    · next s0 c0 h0 =>
      have hs0 : s0.memWf := by
        split at h0
        · cases h0
          exact h
        · exact State.moveLink_memWf (r := (_, _)) h h0
      split at ht
      · cases ht
        exact State.setLink_memWf hs0
      · extract_lets +onlyGivenNames s1 c at ht
        have hs1 : s1.memWf := by
          unfold s1
          split
          · exact hs0
          · exact State.tellLink_memWf hs0
        clear_value s1
        split at ht
        · cases ht
          exact State.settleSteps_memWf (State.endLink_memWf hs1)
        · split at ht
          · next s2 g hw =>
            cases ht
            exact State.settleSteps_memWf (State.endLink_memWf (State.vwrite_memWf (r := (_, _)) hs1 hw))
          · split at ht
            · cases ht
              exact State.settleSteps_memWf (State.endLink_memWf (State.linkErr_memWf (State.postFault_memWf hs1 _ _ _ _ _ _)))
            · cases ht
              exact State.settleSteps_memWf (State.postFault_memWf (State.setLink_memWf hs1) _ _ _ _ _ _)

theorem State.failLink_memWf {s : State} {id : Nat} (h : s.memWf) : (s.failLink id).memWf := by
  unfold State.failLink
  split
  · exact h
  · split
    · exact State.failSteps_memWf h
    · split
      · exact State.endLink_memWf (State.linkErr_memWf h)
      · exact State.setLink_memWf h

theorem execStepReport_memWf {s t : State} {asid exch n : Nat} {step : Word} (h : s.memWf)
    (ht : execStepReport asid exch n step s = .next t) : t.memWf := by
  unfold execStepReport at ht
  split at ht
  · cases ht
  split at ht
  · cases ht
  split at ht
  · cases ht
  split at ht
  · cases ht
    exact State.settleSteps_memWf (State.setExch_memWf (State.loadExch_memWf h ‹_›))
  · cases ht
    exact State.loadExch_memWf h ‹_›

theorem State.landArrival_memWf {s : State} {a : Arrival} (h : s.memWf) : (s.landArrival a).memWf := by
  unfold State.landArrival
  extract_lets rest
  split
  · exact State.vwrite_memWf h ‹_›
  · extract_lets s1
    have hs1 : s1.memWf := h
    clear_value s1
    exact State.postFault_memWf hs1 _ _ _ _ _ _

theorem execLinkWriteArrival_memWf {s t : State} {asid va : Nat} {data : List Byte} {origin : Option (Word × Word × Word)} (h : s.memWf)
    (ht : execLinkWriteArrival asid va data origin s = .next t) : t.memWf := by
  unfold execLinkWriteArrival at ht
  split at ht
  · cases ht
  extract_lets a at ht
  split at ht
  · cases ht
    exact State.landArrival_memWf (State.fresh_memWf h)
  · cases ht
    exact State.fresh_memWf h

theorem State.answerArrival_memWf {s : State} {id : Nat} {unresolvable : Bool} (h : s.memWf) : (s.answerArrival id unresolvable).memWf := by
  unfold State.answerArrival
  split
  · exact h
  · split
    · exact h
    · exact State.landArrival_memWf h

theorem State.placeHalo_memWf {s t : State} {a : Arrival} {v : Vox} (h : s.memWf) (ht : s.placeHalo a v = .ok t) : t.memWf := by
  unfold State.placeHalo at ht
  split at ht
  · cases ht
  split at ht
  · cases ht
    exact h
  · split at ht
    · cases ht
      exact h
    · split at ht
      · cases ht
      · next p s1 gw hi =>
        split at ht
        · cases ht
          exact h
        · split at ht
          · cases ht
          · next s2 g hw =>
            cases ht
            exact State.vwrite_memWf (r := (_, _)) (State.insertLeaf_memWf (r := (_, _, _)) h hi) hw

theorem execAllocatorRequest_memWf {s t : State} (h : s.memWf) (ht : execAllocatorRequest s = .next t) : t.memWf := by
  unfold execAllocatorRequest at ht
  split at ht
  · cases ht
  split at ht
  · cases ht
  · split at ht
    · cases ht
      exact h
    · split at ht
      · cases ht
        exact h
      · cases ht
        exact State.memWf_of_serveWord_ h
  · split at ht
    · cases ht
      exact h
    · extract_lets +onlyGivenNames o gone at ht
      split at ht
      · next s1 h1 =>
        cases ht
        exact (State.placeHalo_memWf h h1 : s1.memWf)
      · next va k facc _ =>
        split at ht
        all_goals
          cases ht
          dsimp only [State.memWf]
          exact State.postFault_memWf h _ _ _ _ _ _

end Sys2Proof.Machine
end

section
/-! SUPPORT. Graphs (R307, R327-R338) keep both memories in canonical form. -/

namespace Sys2Proof.Machine

theorem State.updNode_memWf {s : State} {graph n : Nat} {f : GNode → GNode} (h : s.memWf) : (s.updNode graph n f).memWf :=
  State.updGraph_memWf h

theorem State.updEdge_memWf {s : State} {graph e : Nat} {f : GEdge → GEdge} (h : s.memWf) : (s.updEdge graph e f).memWf :=
  State.updGraph_memWf h

theorem State.freeRecord_memWf {s : State} {graph e slot block : Nat} (h : s.memWf) : (s.freeRecord graph e slot block).memWf :=
  State.updGraph_memWf (State.updEdge_memWf h)

theorem State.reserve_memWf {s : State} {graph e slot block gid tid : Nat} (h : s.memWf) : (s.reserve graph e slot block gid tid).memWf :=
  State.updThread_memWf (State.updGraph_memWf (State.updEdge_memWf h))

theorem State.dropReservation_memWf {s : State} {graph gid tid e : Nat} (h : s.memWf) : (s.dropReservation graph gid tid e).memWf := by
  unfold State.dropReservation
  split
  · exact h
  · exact State.updThread_memWf (State.freeRecord_memWf h)

theorem State.publish_memWf {s : State} {graph gid tid e : Nat} (h : s.memWf) : (s.publish graph gid tid e).memWf := by
  unfold State.publish
  split
  · exact h
  · exact State.updThread_memWf (State.updEdge_memWf h)

theorem State.answerAsk_memWf {s : State} {gid tid : Nat} {commit : Bool} {e : Nat} {table raddr : DWord} {slot stat : Nat}
    (h : s.memWf) : (s.answerAsk gid tid commit e table raddr slot stat).memWf := by
  unfold State.answerAsk
  split
  · exact h
  · extract_lets -underBinder graph at_ w
    have hw : ∀ r, w = .ok r → r.1.memWf := by
      intro r hr
      unfold w at hr
      split at hr <;> exact State.vwrite_memWf h hr
    clear_value w
    split
    · extract_lets -underBinder s2
      have hs2 : s2.memWf := State.dropRead_memWf (hw (_, _) rfl)
      clear_value s2
      refine (State.deliver_sameCells _ _ _ _ _ _).memWf ?_
      split
      · exact State.publish_memWf hs2
      · exact hs2
    · extract_lets -underBinder s1
      have hs1 : s1.memWf := State.postFault_memWf h _ _ _ _ _ _
      clear_value s1
      split
      · exact (State.takeTrap_sameCells _ _ _ _ _ _ _).memWf (State.dropReservation_memWf hs1)
      · exact State.updThread_memWf hs1

theorem State.retryAsk_memWf {s : State} {gid tid : Nat} {unresolvable : Bool} (h : s.memWf) : (s.retryAsk gid tid unresolvable).memWf := by
  unfold State.retryAsk
  split
  · split
    · split
      · exact (State.takeTrap_sameCells _ _ _ _ _ _ _).memWf (State.dropReservation_memWf h)
      · exact State.answerAsk_memWf h
    · exact h
  · exact h

theorem State.giveSlot_memWf {s : State} {gr : Graph} {e slot gid tid : Nat} {table : DWord}
    (h : s.memWf) : (s.giveSlot gr e slot gid tid table).memWf := by
  unfold State.giveSlot
  split
  · exact State.answerAsk_memWf h
  · exact State.answerAsk_memWf (State.reserve_memWf h)

theorem State.serveWaiters_memWf {s : State} {graph e : Nat} {xs : List (Nat × Nat × DWord)} (h : s.memWf) : (s.serveWaiters graph e xs).memWf := by
  induction xs generalizing s with
  | nil =>
    rw [State.serveWaiters]
    exact h
  | cons p ps ih =>
    rw [State.serveWaiters]
    split
    · exact h
    · split
      · exact h
      · exact ih (State.giveSlot_memWf h)

theorem State.serveEdges_memWf {s : State} (h : s.memWf) : s.serveEdges.memWf := by
  unfold State.serveEdges
  extract_lets s1
  have hs1 : s1.memWf := foldl_memWf (fun _ _ hs => foldl_memWf (fun _ _ hs => State.serveWaiters_memWf hs) _ hs) _ h
  clear_value s1
  exact hs1

theorem State.serveAsk_memWf {s : State} {gid tid : Nat} (h : s.memWf) : (s.serveAsk gid tid).memWf := by
  unfold State.serveAsk
  split
  · split
    · split
      · exact State.answerAsk_memWf h
      · exact h
    · split
      · exact State.answerAsk_memWf h
      · split
        · exact State.answerAsk_memWf h
        · split
          · exact State.answerAsk_memWf h
          · split
            · exact State.answerAsk_memWf h
            · split
              · exact State.fresh_memWf (State.updThread_memWf h)
              · exact State.giveSlot_memWf h
    · exact h
  · exact h

theorem State.serveAsks_memWf {s : State} {gid : Nat} (h : s.memWf) : (s.serveAsks gid).memWf := by
  unfold State.serveAsks
  split
  · exact h
  · exact foldl_memWf (fun _ _ hs => State.serveAsk_memWf hs) _ h

theorem askWord_memWf {s t : State} {i : Instr} {commit : Bool} {sreg e : Nat} (h : s.memWf) (ht : askWord i commit sreg e s = .next t) : t.memWf := by
  unfold askWord at ht
  split at ht
  · next s1 h1 =>
    cases ht
    refine State.serveAsks_memWf (runWord_memWf (fun l s t h ht => ?_) h h1)
    split at ht
    · cases ht
      exact h
    · split at ht
      · cases ht
      · cases ht
        exact State.graphErr_memWf h
      · extract_lets +onlyGivenNames o at ht
        split at ht <;> cases ht
  · next hn => exact absurd ht (hn t)

theorem execFenceComplete_memWf {s u : State} {g t : Nat} (h : s.memWf) (ht : execFenceComplete g t s = .next u) : u.memWf := by
  unfold execFenceComplete at ht
  split at ht
  · split at ht
    · split at ht <;> cases ht
      exact State.wakeThread_memWf h
    · split at ht <;> cases ht
      exact State.serveAsk_memWf h
    · cases ht
  · cases ht

theorem execResult_memWf {s t : State} {c : BitVec 1} {sr : BitVec 6} (h : s.memWf) (ht : execResult c sr s = .next t) : t.memWf := by
  refine packOnce_memWf (fun l s h => ?_) h ht
  extract_lets +onlyGivenNames o va
  split
  · exact State.graphErr_memWf h
  · extract_lets +onlyGivenNames branching s1
    have hs1 : s1.memWf := by
      unfold s1
      split
      · exact State.updSpan_memWf h
      · exact h
    clear_value s1
    split
    · exact hs1
    · exact State.writeResult_memWf hs1

theorem State.nodeEnd_memWf {s : State} {r : NodeRun} {value : Nat} {selector : Option Word} (h : s.memWf) : (s.nodeEnd r value selector).memWf := by
  unfold State.nodeEnd
  split
  · exact h
  · extract_lets s1 fail s2 s3
    have hs1 : s1.memWf := foldl_memWf (fun _ _ hs => State.freeRecord_memWf hs) _ h
    clear_value s1
    have hs2 : s2.memWf := State.updNode_memWf (State.updGraph_memWf hs1)
    clear_value s2
    have hs3 : s3.memWf := by
      unfold s3
      split
      · exact hs2
      · split
        · exact hs2
        · extract_lets sel past m s3
          have hs3 : s3.memWf := by
            unfold s3
            split
            · exact State.graphErr_memWf hs2
            · exact hs2
          clear_value s3
          split
          · exact hs3
          · exact State.updNode_memWf hs3
    clear_value s3
    exact State.serveEdges_memWf hs3

theorem State.settleGraph_memWf {s : State} {id : Nat} (h : s.memWf) : (s.settleGraph id).memWf := by
  unfold State.settleGraph
  split
  · exact h
  · extract_lets ents mark s1
    have hs1 : s1.memWf := by
      unfold s1
      split
      · split
        · exact State.updQueue_memWf h
        · exact h
      · exact h
    clear_value s1
    split
    · exact State.finishCmd_memWf hs1
    · exact hs1

theorem execGraphCommand_memWf {s t : State} {q : Nat} (h : s.memWf) (ht : execGraphCommand q s = .next t) : t.memWf := by
  unfold execGraphCommand at ht
  split at ht
  · cases ht
  extract_lets -underBinder va at ht
  split at ht
  · cases ht
    exact (State.queueCmdDone_sameCells _ _ _).memWf (State.cmdErr_memWf (State.dispatched_memWf h))
  · split at ht
    · cases ht
      exact State.holdQueue_memWf h
    · cases ht
      exact (State.queueCmdDone_sameCells _ _ _).memWf (State.cmdErr_memWf (State.dispatched_memWf h))
    · cases ht
      exact State.finishCmd_memWf (State.dispatched_memWf h)
    · extract_lets -underBinder s1 at ht
      have hs1 : s1.memWf := State.updQueue_memWf (State.fresh_memWf h)
      clear_value s1
      cases ht
      exact State.settleGraph_memWf hs1

theorem State.linkBlocks_memWf {s : State} {g : Graph} {dead : List Nat} {skip : Nat} {xs : List (Nat × Nat × Nat)} (h : s.memWf) :
    (s.linkBlocks g dead skip xs).1.memWf := by
  induction xs generalizing s skip with
  | nil => exact h
  | cons x xs ih =>
    unfold State.linkBlocks
    extract_lets +onlyGivenNames next w
    have hw : ∀ r, w = .ok (some r) → r.1.memWf := by
      intro r hr
      unfold w at hr
      split at hr
      · cases hr
        exact h
      · exact State.cpWrite_memWf h hr
    clear_value w
    split
    · exact h
    · exact h
    · exact ih (hw (_, _) rfl)

theorem State.nodeOutcome_memWf {s : State} {g : Graph} {x : GNode} {run : NodeRun} {after : Nat} {r : Launched}
    (h : s.memWf) : (s.nodeOutcome g x run after r).memWf := by
  unfold State.nodeOutcome
  split
  · exact State.nodeEnd_memWf (State.cmdErr_memWf h)
  · exact h
  · exact State.nodeEnd_memWf (State.finishCmd_memWf h)
  · exact State.nodeEnd_memWf (State.finishCmd_memWf h)
  · exact State.startSpan_memWf h

theorem State.dispatchNode_memWf {s : State} {g : Graph} {x : GNode} {t succ : Nat} {recs : List (Nat × Nat × Nat)} {drop : State → State}
    (hdrop : ∀ s : State, s.memWf → (drop s).memWf) (h : s.memWf) : (s.dispatchNode g x t succ recs drop).memWf := by
  unfold State.dispatchNode
  split
  · exact State.settleGraph_memWf (State.updNode_memWf (State.updNode_memWf (hdrop _ h)))
  · extract_lets +onlyGivenNames run
    split
    next s1 linked gw r h1 =>
    have hs1 : s1.memWf := by
      split at h1
      · cases h1
        exact h
      · have := State.linkBlocks_memWf (g := g) (dead := x.dead) (skip := x.linked) (xs := recs) h
        rwa [h1] at this
    extract_lets +onlyGivenNames hold go
    have hhold : ∀ f kept, (hold f kept).memWf := fun f kept => State.updNode_memWf (State.postFault_memWf hs1 _ _ _ _ _ _)
    have hgo : (go s1).memWf := State.updNode_memWf (hdrop _ hs1)
    clear_value hold go
    split
    · exact hhold _ _
    · split
      · exact State.settleGraph_memWf (State.nodeEnd_memWf (State.cmdErr_memWf hgo))
      · split
        · exact hhold _ _
        · exact State.updNode_memWf hs1
        · exact State.settleGraph_memWf (State.nodeOutcome_memWf hgo)

theorem State.dispatchRecords_memWf {s : State} {g : Graph} {x : GNode} {t n : Nat} (h : s.memWf) : (s.dispatchRecords g x t n).memWf :=
  State.dispatchNode_memWf (fun _ hs => State.updEdge_memWf hs) h

theorem execNodeDispatch_memWf {s t : State} {graph n : Nat} (h : s.memWf) (ht : execNodeDispatch graph n s = .next t) : t.memWf := by
  unfold execNodeDispatch at ht
  split at ht
  · cases ht
  split at ht
  · cases ht
    exact State.dispatchNode_memWf (fun _ hs => State.updNode_memWf hs) h
  · split at ht
    · cases ht
    split at ht
    · split at ht <;> cases ht
      exact State.dispatchRecords_memWf h
    · cases ht
      exact State.dispatchRecords_memWf h

theorem execCoalesceTimer_memWf {s t : State} {graph n : Nat} (h : s.memWf) (ht : execCoalesceTimer graph n s = .next t) : t.memWf := by
  unfold execCoalesceTimer at ht
  split at ht
  · cases ht
  split at ht <;> cases ht
  exact State.dispatchRecords_memWf h

end Sys2Proof.Machine
end

section
/-! SUPPORT. Groups, spans and their cores (R19-R30, R294) keep both memories in canonical form. -/

namespace Sys2Proof.Machine

theorem State.makeResident_memWf {s : State} {x : Span} {core grp : Nat} {leaf : Option LeafInfo}
    (h : s.memWf) : (s.makeResident x core grp leaf).memWf := by
  unfold State.makeResident
  extract_lets _ g _ s1 s2
  have hs1 : s1.memWf := State.fresh_memWf h
  clear_value s1
  have hs2 : s2.memWf := State.updSpan_memWf hs1
  clear_value s2
  refine foldl_memWf (fun s x hs => ?_) _ hs2
  split
  · exact State.allocTile_memWf hs
  · exact hs

theorem State.liftAuto_memWf {s : State} {core asid : Nat} (h : s.memWf) : (s.liftAuto core asid).memWf := h

theorem execGroupResident_memWf {s t : State} {core : Nat} (h : s.memWf) (ht : execGroupResident core s = .next t) : t.memWf := by
  unfold execGroupResident at ht
  split at ht
  · extract_lets limit at ht
    split at ht <;> cases ht
    exact State.liftAuto_memWf (State.makeResident_memWf h)
  · cases ht

theorem State.flushHandles_memWf {s : State} {core : Nat} {us : List Nat} {r : State × Nat} (h : s.memWf) (ht : s.flushHandles core us = .ok r) :
    r.1.memWf := by
  induction us generalizing s r with
  | nil =>
    cases ht
    exact h
  | cons u us ih =>
    rw [State.flushHandles] at ht
    split at ht
    · cases ht
    · next s1 g h1 =>
      split at ht
      · cases ht
      · next s2 g2 h2 =>
        cases ht
        exact ih (r := (s2, g2)) (State.flushTile_memWf (r := (_, _)) h h1) h2

theorem State.endSpan_memWf {s : State} {x : Span} (h : s.memWf) : (s.endSpan x).memWf := by
  unfold State.endSpan
  extract_lets q s1
  have hs1 : s1.memWf := State.finishCmd_memWf h
  clear_value s1
  split
  · exact State.settleGraph_memWf (State.nodeEnd_memWf hs1)
  · exact hs1

theorem State.dropGroup_memWf {s : State} {g : Group} (h : s.memWf) : (s.dropGroup g).memWf := by
  unfold State.dropGroup
  extract_lets s1 s2 graph s3 s4
  have hs1 : s1.memWf := State.leaveRein_memWf h
  clear_value s1
  have hs2 : s2.memWf := foldl_memWf (fun _ _ hs => State.releaseHandle_memWf hs) _ hs1
  clear_value s2
  have hs3 : s3.memWf := foldl_memWf (fun _ _ hs => foldl_memWf (fun _ _ hs => State.dropReservation_memWf hs) _ hs) _ hs2
  clear_value s3
  have hs4 : s4.memWf := State.unhold_memWf hs3
  clear_value s4
  exact hs4

theorem State.groupDone_memWf {s : State} {sid grp : Nat} (h : s.memWf) : (s.groupDone sid grp).memWf := by
  unfold State.groupDone
  extract_lets s1
  have hs1 : s1.memWf := State.updSpan_memWf h
  clear_value s1
  split
  · split
    · exact State.endSpan_memWf hs1
    · exact hs1
  · exact hs1

theorem State.spanEnd_memWf {s t : State} {sid : Nat} (h : s.memWf) (ht : State.spanEnd sid s = .next t) : t.memWf := by
  unfold State.spanEnd at ht
  split at ht
  · split at ht <;> cases ht
    exact State.serveEdges_memWf (State.endSpan_memWf h)
  · cases ht

theorem State.freeSaved_memWf {s : State} {v : Saved} (h : s.memWf) : (s.freeSaved v).memWf := by
  unfold State.freeSaved
  split
  · split
    · exact foldl_memWf (fun _ _ hs => State.freeRecord_memWf hs) _ h
    · exact h
  · exact h

theorem execGroupEnd_memWf {s t : State} {gid : Nat} (h : s.memWf) (ht : execGroupEnd gid s = .next t) : t.memWf := by
  unfold execGroupEnd at ht
  split at ht
  · cases ht
  extract_lets -underBinder both at ht
  split at ht
  · cases ht
  split at ht
  · split at ht
    · cases ht
      exact State.updGroup_memWf (State.flushHandles_memWf h ‹_›)
    · extract_lets -underBinder s1 at ht
      have hs1 : s1.memWf := State.postFault_memWf h _ _ _ _ _ _
      clear_value s1
      split at ht
      · cases ht
        exact foldl_memWf (fun _ _ hs => State.updTile_memWf hs) _ (State.faultRecord_memWf hs1)
      · cases ht
        exact State.updGroup_memWf hs1
  · split at ht
    · extract_lets -underBinder s1 s2 at ht
      have hs1 : s1.memWf := by
        unfold s1
        split
        · exact State.dropGroup_memWf h
        · exact h
      clear_value s1
      have hs2 : s2.memWf := hs1
      clear_value s2
      cases ht
      exact State.serveEdges_memWf (State.groupDone_memWf (State.dropGroup_memWf hs2))
    · cases ht

theorem State.answerEnd_memWf {s : State} {gid : Nat} {unresolvable : Bool} (h : s.memWf) : (s.answerEnd gid unresolvable).memWf := by
  unfold State.answerEnd
  split
  · exact h
  · extract_lets s1
    have hs1 : s1.memWf := State.updGroup_memWf h
    clear_value s1
    split
    · exact foldl_memWf (fun _ _ hs => State.updTile_memWf hs) _ (State.faultRecord_memWf hs1)
    · exact hs1

theorem State.preemptOn_memWf {s : State} {asid : Nat} {cores : List Nat} {auto : Bool} (h : s.memWf) : (s.preemptOn asid cores auto).memWf :=
  State.updCtx_memWf h

theorem execAutoPreempt_memWf {s t : State} {core : Nat} (h : s.memWf) (ht : execAutoPreempt core s = .next t) : t.memWf := by
  unfold execAutoPreempt at ht
  split at ht
  · extract_lets already asks at ht
    split at ht <;> cases ht
    exact State.preemptOn_memWf h
  · cases ht

theorem State.cancelGroup_memWf {s : State} {gid : Nat} (h : s.memWf) : (s.cancelGroup gid).memWf := by
  unfold State.cancelGroup
  dsimp only [State.memWf]
  exact State.dropAccs_memWf h

theorem State.flushNow_memWf {s : State} {g : Group} (h : s.memWf) : (s.flushNow g).memWf := by
  unfold State.flushNow
  refine foldl_memWf (fun s x hs => ?_) _ h
  split
  · exact State.owe_memWf (State.flushTile_memWf hs ‹_›)
  · exact State.faultRecord_memWf (State.updTile_memWf hs)

theorem State.killSpan_memWf {s : State} {sid : Nat} (h : s.memWf) : (s.killSpan sid).memWf := by
  unfold State.killSpan
  extract_lets s1 gids s1 s2 ended s3
  have hs1 : s1.memWf := by
    unfold s1
    refine foldl_memWf (fun _ _ hs => State.freeSaved_memWf hs) _ (foldl_memWf (fun s x hs => ?_) _ (State.updSpan_memWf h))
    extract_lets s1 s2
    have hs1 : s1.memWf := State.cancelGroup_memWf (State.flushNow_memWf (State.terminate_memWf hs))
    clear_value s1
    have hs2 : s2.memWf := by
      unfold s2
      split
      · exact State.dropGroup_memWf (State.cancelGroup_memWf hs1)
      · exact hs1
    clear_value s2
    exact State.dropGroup_memWf hs2
  clear_value s1
  have hs2 : s2.memWf := hs1
  clear_value s2
  have hs3 : s3.memWf := State.updSpan_memWf hs2
  clear_value s3
  split
  · split
    · exact State.serveEdges_memWf (State.endSpan_memWf hs3)
    · exact State.serveEdges_memWf hs3
  · exact State.serveEdges_memWf hs3

theorem execDeadlineExpiry_memWf {s t : State} {asid : Nat} (h : s.memWf) (ht : execDeadlineExpiry asid s = .next t) : t.memWf := by
  unfold execDeadlineExpiry at ht
  split at ht
  · cases ht
  extract_lets due at ht
  split at ht <;> cases ht
  split
  · exact foldl_memWf (fun _ _ hs => State.killSpan_memWf hs) _ (State.updCtx_memWf h)
  · exact (State.raiseErr_sameCells _ _).memWf (foldl_memWf (fun _ _ hs => State.killSpan_memWf hs) _ (State.updCtx_memWf h))

end Sys2Proof.Machine
end

section
/-! SUPPORT. Save and restore (R315-R323) keep both memories in canonical form. -/

namespace Sys2Proof.Machine

theorem State.fillBound_memWf {s t : State} {core : Nat} {ps : List (Nat × Tile)} (h : s.memWf) (ht : s.fillBound core ps = .ok t) : t.memWf := by
  induction ps generalizing s t with
  | nil =>
    cases ht
    exact h
  | cons p ps ih =>
    rw [State.fillBound] at ht
    split at ht
    · cases ht
    · next s1 h1 =>
      refine ih ?_ ht
      split at h1
      · exact State.fillRows_memWf h h1
      · cases h1
        exact h

theorem State.writeImage_memWf {s : State} {g : Group} {va : Nat} {r : State × Nat} (h : s.memWf) (ht : s.writeImage g va = .ok r) : r.1.memWf := by
  unfold State.writeImage at ht
  split at ht <;> cases ht
  exact foldl_memWf (fun _ _ hs => State.poisonVa_memWf hs) _ (State.vwrite_memWf h ‹_›)

theorem State.takeOff_memWf {s : State} {g : Group} {va size : Nat} {byEnq : Bool} (h : s.memWf) : (s.takeOff g va size byEnq).memWf := by
  unfold State.takeOff
  extract_lets v s1 gs
  have hs1 : s1.memWf := State.leaveRein_memWf h
  clear_value s1
  exact State.dropTiles_memWf hs1

theorem State.saveAll_memWf {s t : State} {byEnq : Bool} {gs : List Group} (h : s.memWf) (ht : s.saveAll byEnq gs = .ok t) : t.memWf := by
  induction gs generalizing s with
  | nil =>
    cases ht
    exact h
  | cons g gs ih =>
    rw [State.saveAll] at ht
    split at ht
    · cases ht
    split at ht
    · cases ht
    split at ht
    · cases ht
    · next s1 gw h1 => exact ih (State.takeOff_memWf (State.oweUnit_memWf (State.writeImage_memWf (r := (_, _)) h h1))) ht

/-- A group's tiles are filled and flushed before its save. -/
theorem execGroupSave_memWf {s t : State} {gid : Nat} (h : s.memWf) (ht : execGroupSave gid s = .next t) : t.memWf := by
  unfold execGroupSave at ht
  split at ht
  · cases ht
  extract_lets +onlyGivenNames all byEnq at ht
  split at ht
  · cases ht
  extract_lets -underBinder +onlyGivenNames fault flushed at ht
  have hfault : ∀ (s : State) (g : Group) (va k : Nat), s.memWf → (fault s g va k).memWf := fun s g va k hs =>
    State.updGroup_memWf (State.postFault_memWf hs _ _ _ _ _ _)
  have hflushed : ∀ u, flushed = .ok u → u.memWf := by
    refine List.foldlRecOn (motive := fun r : Except (Group × Nat × Nat) State => ∀ u, r = .ok u → u.memWf) _ _ (fun u hu => ?_) fun r hr g _ u hu => ?_
    · cases hu
      exact h
    · split at hu
      · cases hu
      · next s0 =>
        have hs0 : s0.memWf := hr s0 rfl
        split at hu
        · cases hu
        · next s1 h1 =>
          split at hu
          · next s2 gw h2 =>
            cases hu
            exact State.oweUnit_memWf (State.flushHandles_memWf (r := (_, _)) (State.fillBound_memWf hs0 h1) h2)
          · cases hu
  clear_value fault flushed
  split at ht
  · cases ht
    exact hfault _ _ _ _ h
  · next s1 =>
    have hs1 : s1.memWf := hflushed s1 rfl
    split at ht
    · next s2 h2 =>
      cases ht
      exact State.saveAll_memWf hs1 h2
    · cases ht
      exact hfault _ _ _ _ hs1
    · cases ht

theorem State.answerSave_memWf {s : State} {gid : Nat} {unresolvable : Bool} (h : s.memWf) : (s.answerSave gid unresolvable).memWf :=
  State.updGroup_memWf h

theorem State.writeWoken_memWf {s : State} (h : s.memWf) : s.writeWoken.memWf := by
  unfold State.writeWoken
  refine foldl_memWf (fun s x hs => ?_) _ h
  refine foldl_memWf (fun s x hs => ?_) _ hs
  exact getD_memWf (fun _ ht => State.ctlWrite_memWf (getD_memWf (fun _ ht => State.ctlWrite_memWf hs ht) hs) ht) (getD_memWf (fun _ ht => State.ctlWrite_memWf hs ht) hs)

theorem State.rebind_memWf {s : State} {g : Group} {b : List Byte} {xs : List Nat} {r : State × Group} (h : s.memWf)
    (ht : s.rebind g b xs = .ok r) : r.1.memWf := by
  induction xs generalizing s g r with
  | nil =>
    rw [State.rebind] at ht
    cases ht
    exact h
  | cons p ps ih =>
    rw [State.rebind] at ht
    split at ht
    · exact ih h ht
    · split at ht
      · cases ht
      extract_lets lost at ht
      have hlost : lost.memWf := (State.raiseErr_sameCells _ _).memWf h
      clear_value lost
      split at ht
      · split at ht
        · exact ih h ht
        · exact ih hlost ht
      · split at ht
        · exact ih h ht
        · exact ih hlost ht

theorem State.reissueFut_memWf {s t : State} {g : Group} {ts : List Thread} (h : s.memWf) (ht : s.reissueFut g ts = .ok t) : t.memWf := by
  induction ts generalizing s with
  | nil =>
    cases ht
    exact h
  | cons x ts ih =>
    rw [State.reissueFut] at ht
    split at ht
    · split at ht
      · cases ht
      extract_lets +onlyGivenNames a b at ht
      refine ih ?_ ht
      exact State.fresh_memWf h
    · exact ih h ht

theorem State.restore_memWf {s t : State} {v : Saved} (h : s.memWf) (ht : s.restore v = .ok t) : t.memWf := by
  obtain ⟨⟨b, p⟩, _, ht⟩ := exists_of_bind_ok ht
  obtain ⟨⟨s1, g⟩, h1, ht⟩ := exists_of_bind_ok ht
  have hs1 : s1.memWf := State.rebind_memWf (r := (_, _)) h h1
  obtain ⟨s3, h3, ht⟩ := exists_of_bind_ok ht
  have hs3 : s3.memWf := by
    refine State.reissueFut_memWf ?_ h3
    exact hs1
  cases ht
  refine State.serveEdges_memWf ?_
  split
  · exact hs3
  · exact (State.joinRein_sameCells _ _ _).memWf hs3

theorem State.loseSaved_memWf {s : State} {v : Saved} (h : s.memWf) : (s.loseSaved v).memWf := by
  unfold State.loseSaved
  extract_lets s1 s2
  have hs1 : s1.memWf := (State.raiseErr_sameCells _ _).memWf h
  clear_value s1
  have hs2 : s2.memWf := hs1
  clear_value s2
  exact State.serveEdges_memWf (State.groupDone_memWf (State.updSpan_memWf (State.freeSaved_memWf hs2)))

theorem execGroupRestore_memWf {s t : State} {gid : Nat} (h : s.memWf) (ht : execGroupRestore gid s = .next t) : t.memWf := by
  unfold execGroupRestore at ht
  split at ht
  · cases ht
  extract_lets first at ht
  split at ht
  · cases ht
  split at ht
  · cases ht
    exact (State.settleGroup_sameCells _ _).memWf (State.liftAuto_memWf (State.restore_memWf (State.writeWoken_memWf h) ‹_›))
  · extract_lets s1 at ht
    have hs1 : s1.memWf := State.postFault_memWf (State.writeWoken_memWf h) _ _ _ _ _ _
    clear_value s1
    split at ht
    · cases ht
      exact State.loseSaved_memWf hs1
    · cases ht
      exact hs1

theorem State.answerRestore_memWf {s : State} {gid : Nat} {unresolvable : Bool} (h : s.memWf) : (s.answerRestore gid unresolvable).memWf := by
  unfold State.answerRestore
  split
  · exact h
  · split
    · exact State.loseSaved_memWf h
    · exact h

end Sys2Proof.Machine
end

section
/-! SUPPORT. Tandem groups (R396-R406) keep both memories in canonical form. -/

namespace Sys2Proof.Machine

theorem State.updLive_memWf {s : State} {gid : Nat} {f : Thread → Thread} (h : s.memWf) : (s.updLive gid f).memWf :=
  State.updGroup_memWf h

theorem State.passAll_memWf {s : State} {g : Group} (h : s.memWf) : (s.passAll g).memWf :=
  foldl_memWf (fun _ _ hs => (State.deliver_sameCells _ _ _ _ _ _).memWf hs) _ h

theorem State.copyTiles_memWf {s : State} {core : Nat} {xs : List (Nat × Tile)} (h : s.memWf) : (s.copyTiles core xs).1.memWf := by
  induction xs generalizing s with
  | nil =>
    rw [State.copyTiles]
    exact h
  | cons p ps ih =>
    rw [State.copyTiles]
    refine ih ?_
    dsimp only [State.memWf]
    exact State.fresh_memWf h

theorem State.beginTandem_memWf {s : State} {g : Group} (h : s.memWf) : (s.beginTandem g).memWf := by
  unfold State.beginTandem
  split
  · exact (State.takeTrap_sameCells _ _ _ _ _ _ _).memWf h
  · split
    · extract_lets size s0 merge s1
      have hs0 : s0.memWf := State.passAll_memWf h
      clear_value s0
      have hs1 : s1.memWf := State.updGroup_memWf hs0
      clear_value s1
      split
      · exact h
      · extract_lets r gid t td s2
        have hs2 : s2.memWf := by
          unfold s2
          refine State.updGroup_memWf (State.fresh_memWf ?_)
          unfold r
          exact State.copyTiles_memWf hs1
        clear_value s2
        exact hs2
    · exact h

theorem State.writeImages_memWf {s u : State} {t : Tandem} {l r : Group} (h : s.memWf) (ht : s.writeImages t l r = .ok u) : u.memWf := by
  obtain ⟨s1, h1, ht⟩ := exists_of_bind_ok ht
  obtain ⟨s2, h2, ht⟩ := exists_of_bind_ok ht
  obtain ⟨⟨s3, gw⟩, h3, ht⟩ := exists_of_bind_ok ht
  obtain ⟨⟨s5, gl⟩, h5, ht⟩ := exists_of_bind_ok ht
  obtain ⟨⟨s6, gr⟩, h6, ht⟩ := exists_of_bind_ok ht
  have hs3 : s3.memWf := State.flushHandles_memWf (r := (_, _)) (State.fillBound_memWf (State.fillBound_memWf h h1) h2) h3
  have hs5 : s5.memWf := State.writeImage_memWf (r := (_, _)) (foldl_memWf (fun _ _ hs => State.updTile_memWf hs) _ hs3) h5
  cases ht
  exact State.oweUnit_memWf (State.oweUnit_memWf (State.writeImage_memWf (r := (_, _)) hs5 h6))

theorem State.takeCheckpoint_memWf {s : State} {t : Tandem} {l r : Group} (h : s.memWf) : (s.takeCheckpoint t l r).memWf := by
  unfold State.takeCheckpoint
  split
  · extract_lets s1
    have hs1 : s1.memWf := State.postFault_memWf h _ _ _ _ _ _
    clear_value s1
    split
    · exact (State.takeTrap_sameCells _ _ _ _ _ _ _).memWf (State.updTandem_memWf hs1)
    · exact State.updTandem_memWf hs1
  · exact State.updTandem_memWf (State.updGroup_memWf (State.updGroup_memWf (State.writeImages_memWf h ‹_›)))

theorem State.answerCheckpoint_memWf {s : State} {gid : Nat} {unresolvable : Bool} (h : s.memWf) : (s.answerCheckpoint gid unresolvable).memWf := by
  unfold State.answerCheckpoint
  split
  · extract_lets now s1
    have hs1 : s1.memWf := State.updLive_memWf (State.updLive_memWf (State.updTandem_memWf h))
    clear_value s1
    split
    · exact (State.takeTrap_sameCells _ _ _ _ _ _ _).memWf (State.updTandem_memWf hs1)
    · exact hs1
  · exact h

theorem execTandemCheckpoint_memWf {s t : State} {gid : Nat} (h : s.memWf) (ht : execTandemCheckpoint gid s = .next t) : t.memWf := by
  unfold execTandemCheckpoint at ht
  split at ht
  · cases ht
  split at ht
  · cases ht
  extract_lets ok at ht
  split at ht <;> cases ht
  split
  · exact State.takeCheckpoint_memWf (State.updTandem_memWf h)
  · exact State.updTandem_memWf h

theorem State.rollCopy_memWf {s u : State} {t : Tandem} {g : Group} {va size : Nat} (h : s.memWf) (ht : s.rollCopy t g va size = some u) : u.memWf := by
  unfold State.rollCopy at ht
  split at ht
  · cases ht
  extract_lets -underBinder mine v bad len back u up s1 tiles at ht
  have hs1 : s1.memWf := State.updGroup_memWf h
  clear_value s1
  cases ht
  exact foldl_memWf (fun _ _ hs => State.updTile_memWf hs) _ hs1

theorem State.postMarks_memWf {s : State} {t : Tandem} (h : s.memWf) : (s.postMarks t).memWf :=
  foldl_memWf (fun _ _ hs => State.setMailbox_memWf hs) _ h

theorem State.rollBack_memWf {s u : State} {t : Tandem} {l r : Group} (h : s.memWf) (ht : s.rollBack t l r = some u) : u.memWf := by
  unfold State.rollBack at ht
  extract_lets -underBinder kept mine lose u clear s1 s2 at ht
  have hu : u.memWf := State.unhold_memWf h
  clear_value u
  have hs1 : s1.memWf := hu
  clear_value s1
  have hs2 : s2.memWf := State.updTandem_memWf hs1
  clear_value s2
  obtain ⟨s3, h3, ht⟩ := Option.bind_eq_some_iff.mp ht
  obtain ⟨s4, h4, rfl⟩ := Option.map_eq_some_iff.mp ht
  exact State.postMarks_memWf (State.rollCopy_memWf (State.rollCopy_memWf hs2 h3) h4)

theorem State.mismatch_memWf {s : State} {t : Tandem} {tid : Nat} {addr pc : DWord} {lead trail : Nat}
    (h : s.memWf) : (s.mismatch t tid addr pc lead trail).memWf := by
  unfold State.mismatch
  split
  · exact h
  · split
    · exact (State.takeTrap_sameCells _ _ _ _ _ _ _).memWf h
    · split
      · exact (State.takeTrap_sameCells _ _ _ _ _ _ _).memWf h
      · exact (State.raiseErr_sameCells _ _).memWf (State.rollBack_memWf h ‹_›)

theorem State.releaseAcc_memWf {s t : State} {l : Group} {e : CEntry} (h : s.memWf) (ht : s.releaseAcc l e = some t) : t.memWf := by
  unfold State.releaseAcc at ht
  split at ht
  · cases ht
    exact h
  · split at ht
    · split at ht
      · cases ht
      extract_lets -underBinder facc at ht
      split at ht
      · cases ht
        exact State.sideEnter_memWf h
      · split at ht
        · cases ht
          exact State.sideEnter_memWf h
        · extract_lets -underBinder s1 at ht
          have hs1 : s1.memWf := State.postFault_memWf (State.sideEnter_memWf h) _ _ _ _ _ _
          clear_value s1
          cases ht
          split
          · exact State.terminate_memWf hs1
          · exact hs1
    · cases ht
      exact State.launchAcc_memWf h

theorem execTrailerAccess_memWf {s t : State} {gid tid : Nat} (h : s.memWf) (ht : execTrailerAccess gid tid s = .next t) : t.memWf := by
  unfold execTrailerAccess at ht
  split at ht
  · split at ht
    · cases ht
    split at ht
    · cases ht
    split at ht
    · split at ht
      · split at ht
        · cases ht
        split at ht
        · cases ht
        extract_lets done at ht
        cases ht
        exact State.wakeThread_memWf (State.updTandem_memWf (State.releaseAcc_memWf h ‹_›))
      · cases ht
        exact State.mismatch_memWf h
    · split at ht
      · split at ht <;> cases ht
        exact State.mismatch_memWf h
      · cases ht
  · cases ht

theorem execTandemWaitTimeout_memWf {s t : State} {gid : Nat} (h : s.memWf) (ht : execTandemWaitTimeout gid s = .next t) : t.memWf := by
  unfold execTandemWaitTimeout at ht
  split at ht
  · cases ht
  split at ht
  · cases ht
  extract_lets old rv lone here at ht
  split at ht
  · cases ht
  split at ht
  · cases ht
    exact State.mismatch_memWf h
  · split at ht <;> cases ht
    exact State.mismatch_memWf h

theorem State.endTandem_memWf {s : State} {t : Tandem} {l r : Group} (h : s.memWf) : (s.endTandem t l r).memWf := by
  unfold State.endTandem
  extract_lets s1 s2 alone s3
  have hs1 : s1.memWf := State.dropGroup_memWf h
  clear_value s1
  have hs2 : s2.memWf := hs1
  clear_value s2
  have hs3 : s3.memWf := State.updGroup_memWf hs2
  clear_value s3
  exact State.passAll_memWf hs3

theorem State.serveRendezvous_memWf {s : State} {t : Tandem} {l r : Group} (h : s.memWf) : (s.serveRendezvous t l r).memWf := by
  unfold State.serveRendezvous
  extract_lets ws
  split
  · exact h
  · split
    · exact State.mismatch_memWf h
    · split
      · exact (State.takeTrap_sameCells _ _ _ _ _ _ _).memWf h
      · split
        · exact State.updTandem_memWf (State.passAll_memWf (State.passAll_memWf h))
        · split
          · split
            · exact State.endTandem_memWf h
            · exact State.mismatch_memWf h
          · exact h

theorem State.exitCopy_memWf {s : State} {gid : Nat} {x : Thread} (h : s.memWf) : (s.exitCopy gid x).memWf := by
  unfold State.exitCopy
  split
  · exact State.dropMxDone_memWf (State.updThread_memWf h)
  · exact (State.deliver_sameCells _ _ _ _ _ _).memWf h

theorem State.serveExits_memWf {s : State} {l r : Group} (h : s.memWf) : (s.serveExits l r).memWf := by
  unfold State.serveExits
  refine foldl_memWf (fun s x hs => ?_) _ h
  split
  · split
    · exact State.exitCopy_memWf (State.exitCopy_memWf hs)
    · exact hs
  · exact hs

theorem State.serveTrailerTrap_memWf {s : State} {t : Tandem} {r : Group} {x : Thread} (h : s.memWf) : (s.serveTrailerTrap t r x).memWf := by
  unfold State.serveTrailerTrap
  split
  · exact h
  · split
    · extract_lets s1
      have hs1 : s1.memWf := by
        unfold s1
        split
        · exact State.updThread_memWf h
        · exact h
      clear_value s1
      exact State.trapReturn_memWf (State.updTandem_memWf hs1)
    · exact h

theorem State.stopCopies_memWf {s : State} {t : Tandem} (h : s.memWf) : (s.stopCopies t).memWf :=
  State.updLive_memWf (State.updLive_memWf (State.updTandem_memWf h))

theorem State.settleTandem_memWf {s : State} {leader : Nat} (h : s.memWf) : (s.settleTandem leader).memWf := by
  unfold State.settleTandem
  split
  · exact h
  · split
    · exact h
    · extract_lets fatal
      split
      · exact State.stopCopies_memWf h
      · split
        · exact State.mismatch_memWf h
        · split
          · exact foldl_memWf (fun _ _ hs => State.serveTrailerTrap_memWf hs) _ (State.serveExits_memWf h)
          · split
            · exact foldl_memWf (fun _ _ hs => State.serveTrailerTrap_memWf hs) _ (State.serveExits_memWf h)
            · extract_lets s2
              have hs2 : s2.memWf := State.serveRendezvous_memWf (foldl_memWf (fun _ _ hs => State.serveTrailerTrap_memWf hs) _ (State.serveExits_memWf h))
              clear_value s2
              split
              · exact hs2
              · split
                · exact hs2
                · split
                  · exact State.takeCheckpoint_memWf hs2
                  · exact hs2

theorem State.settleTandems_memWf {s : State} (h : s.memWf) : s.settleTandems.memWf := by
  unfold State.settleTandems
  extract_lets s1
  have hs1 : s1.memWf := by
    unfold s1
    refine foldl_memWf (fun s x hs => ?_) _ h
    split
    · split
      · exact State.beginTandem_memWf hs
      · exact hs
    · exact hs
  clear_value s1
  exact foldl_memWf (fun _ _ hs => State.settleTandem_memWf hs) _ hs1

theorem execTbegin_memWf {s t : State} (h : s.memWf) (ht : execTbegin s = .next t) : t.memWf := by
  refine runWord_memWf (fun l s t h ht => ?_) h ht
  split at ht <;> cases ht
  exact h

theorem rendezvousWord_memWf {s t : State} {i : Instr} {w : Nat} (h : s.memWf) (ht : rendezvousWord i w s = .next t) : t.memWf := by
  refine runWord_memWf (fun l s t h ht => ?_) h ht
  split at ht <;> cases ht
  exact h

end Sys2Proof.Machine
end

section
/-! SUPPORT. The host interface and the management operations (R347-R371) keep both memories in canonical form. -/

namespace Sys2Proof.Machine

theorem execSemaphoreRead_memWf {s t : State} {port n : Nat} (h : s.memWf) (ht : execSemaphoreRead port n s = .next t) : t.memWf := by
  unfold execSemaphoreRead at ht
  split at ht
  · cases ht
  extract_lets +onlyGivenNames x r at ht
  clear_value r
  split at ht <;> cases ht <;> exact h

theorem execSemaphoreWrite_memWf {s t : State} {port n value : Nat} (h : s.memWf) (ht : execSemaphoreWrite port n value s = .next t) : t.memWf := by
  unfold execSemaphoreWrite at ht
  split at ht
  · cases ht
  split at ht <;> cases ht <;> exact h

theorem execPortReset_memWf {s t : State} {port : Nat} (h : s.memWf) (ht : execPortReset port s = .next t) : t.memWf := by
  unfold execPortReset at ht
  split at ht <;> cases ht
  exact h

theorem State.moveOffset_memWf {s : State} {value : DWord} (h : s.memWf) : (s.moveOffset value).memWf := by
  unfold State.moveOffset
  extract_lets by_ _ s1
  have hs1 : s1.memWf := h
  clear_value s1
  split
  · exact hs1
  · split <;> exact hs1

theorem execRegisterWrite_memWf {s t : State} {port off : Nat} {value : DWord} (h : s.memWf) (ht : execRegisterWrite port off value s = .next t) :
    t.memWf := by
  unfold execRegisterWrite at ht
  extract_lets +onlyGivenNames x at ht
  clear_value x
  split at ht
  · cases ht
  split at ht
  · cases ht
    exact h
  · split at ht
    · cases ht
      exact h
    · split at ht
      · cases ht
        exact h
      · split at ht
        · cases ht
          exact State.moveOffset_memWf h
        · cases ht
          exact h

theorem execQtailWrite_memWf {s t : State} {port q index : Nat} (h : s.memWf) (ht : execQtailWrite port q index s = .next t) : t.memWf := by
  unfold execQtailWrite at ht
  split at ht <;> cases ht
  exact State.updQueue_memWf h

theorem execHostMemoryAccess_memWf {s t : State} {port : Nat} {write : Bool} {offset : Nat} {data : List Byte} (h : s.memWf)
    (ht : execHostMemoryAccess port write offset data s = .next t) : t.memWf := by
  unfold execHostMemoryAccess at ht
  split at ht
  · cases ht
  extract_lets pa at ht
  split at ht
  · cases ht
    exact State.writePhys_memWf h _ _ _ _
  · cases ht
    exact h

theorem State.discipline_memWf {s : State} {error : Int} (h : s.memWf) : (s.discipline error).memWf := h

theorem execPpsPulse_memWf {s t : State} {edge : Int} (h : s.memWf) (ht : execPpsPulse edge s = .next t) : t.memWf := by
  unfold execPpsPulse at ht
  split at ht
  · cases ht
  split at ht
  · cases ht
    exact State.discipline_memWf h
  · cases ht
    exact h

theorem execPtmSync_memWf {s t : State} {port : Nat} {error : Int} (h : s.memWf) (ht : execPtmSync port error s = .next t) : t.memWf := by
  unfold execPtmSync at ht
  split at ht
  · cases ht
  split at ht
  · cases ht
    exact State.discipline_memWf h
  · cases ht
    exact h

theorem execBringUp_memWf {s t : State} {flc : List Nat} {firmware runtime : List (BitVec 8)} {version : Nat × Nat} (h : s.memWf)
    (ht : execBringUp flc firmware runtime version s = .next t) : t.memWf := by
  unfold execBringUp at ht
  split at ht
  · cases ht
  split at ht
  · cases ht
    exact h
  · extract_lets m at ht
    cases ht
    exact h

theorem mopStart_memWf {s t : State} {port op : Nat} {act : List DWord → State → Nat × State} (hact : ∀ m s, s.memWf → (act m s).2.memWf) (h : s.memWf)
    (ht : mopStart port op act s = .next t) : t.memWf := by
  unfold mopStart at ht
  split at ht
  · cases ht
  split at ht
  · cases ht
    exact h
  · split at ht
    · cases ht
      exact h
    · extract_lets +onlyGivenNames r m at ht
      have hr : r.2.memWf := hact _ _ h
      clear_value r m
      cases ht
      exact hr

theorem State.watchFcons_memWf {s : State} {asid : Nat} (h : s.memWf) : (s.watchFcons asid).memWf := by
  unfold State.watchFcons
  extract_lets other
  split
  · exact h
  · split
    · split
      · exact h
      · exact State.fresh_memWf h
    · exact h

theorem State.createContext_memWf {s : State} {m : List DWord} (h : s.memWf) : (s.createContext m).2.memWf := by
  unfold State.createContext
  extract_lets +onlyGivenNames a
  split
  · exact h
  · split
    · exact h
    · split
      · exact h
      · split
        · exact h
        · extract_lets +onlyGivenNames s1 zero s2 s3
          have hs1 : s1.memWf := h
          clear_value s1
          have hs2 : s2.memWf := getD_memWf (fun _ ht => State.ctlWrite_memWf hs1 ht) hs1
          clear_value s2
          have hs3 : s3.memWf := getD_memWf (fun _ ht => State.ctlWrite_memWf hs2 ht) hs2
          clear_value s3
          exact State.watchFcons_memWf hs3

theorem State.destroyContext_memWf {s : State} {m : List DWord} (h : s.memWf) : (s.destroyContext m).2.memWf := by
  unfold State.destroyContext
  extract_lets +onlyGivenNames a
  split
  · exact h
  · split <;> exact h

theorem State.bindQueue_memWf {s : State} {port : Nat} {m : List DWord} (h : s.memWf) : (s.bindQueue port m).2.memWf := by
  unfold State.bindQueue
  extract_lets +onlyGivenNames q a logn
  split
  · exact h
  · split <;> exact h

theorem State.unbindQueue_memWf {s : State} {m : List DWord} (h : s.memWf) : (s.unbindQueue m).2.memWf := by
  unfold State.unbindQueue
  split
  · exact h
  · split
    · exact h
    · refine State.unhold_memWf ?_
      exact h

theorem State.resumeQueue_memWf {s : State} {m : List DWord} (h : s.memWf) : (s.resumeQueue m).2.memWf := by
  unfold State.resumeQueue
  split
  · exact h
  · split
    · exact State.updQueue_memWf h
    · exact h

theorem execTlbinv_memWf {s t : State} {port : Nat} (h : s.memWf) (ht : execTlbinv port s = .next t) : t.memWf := by
  unfold execTlbinv at ht
  split at ht
  · next s1 h1 =>
    have hs1 : s1.memWf := by
      refine mopStart_memWf (fun m s h => ?_) h h1
      extract_lets +onlyGivenNames a
      split
      · exact h
      · exact State.fresh_memWf h
    split at ht
    · split at ht <;> cases ht <;> exact hs1
    · cases ht
      exact hs1
  · next hn => exact absurd ht (hn t)

theorem execPreempt_memWf {s t : State} {port : Nat} (h : s.memWf) (ht : execPreempt port s = .next t) : t.memWf := by
  refine mopStart_memWf (fun m s h => ?_) h ht
  split
  · exact h
  · split
    · exact h
    · exact State.preemptOn_memWf h

theorem execPlift_memWf {s t : State} {port : Nat} (h : s.memWf) (ht : execPlift port s = .next t) : t.memWf := by
  refine mopStart_memWf (fun m s h => ?_) h ht
  split
  · exact h
  · split
    · exact h
    · exact State.updCtx_memWf h

theorem execExchset_memWf {s t : State} {port : Nat} (h : s.memWf) (ht : execExchset port s = .next t) : t.memWf := by
  refine mopStart_memWf (fun m s h => ?_) h ht
  extract_lets +onlyGivenNames a n
  split
  · exact h
  · split
    · exact h
    · split
      · exact h
      · exact State.setExch_memWf h

theorem execRtshare_memWf {s t : State} {port : Nat} (h : s.memWf) (ht : execRtshare port s = .next t) : t.memWf := by
  refine mopStart_memWf (fun m s h => ?_) h ht
  extract_lets +onlyGivenNames a p
  split
  · exact h
  · split
    · exact h
    · exact State.updCtx_memWf h

theorem execAttest_memWf {s t : State} {port : Nat} (h : s.memWf) (ht : execAttest port s = .next t) : t.memWf := by
  refine mopStart_memWf (fun m s h => ?_) h ht
  split
  · exact h
  · exact State.writePhys_memWf h _ _ _ _

theorem execWinset_memWf {s t : State} {port : Nat} (h : s.memWf) (ht : execWinset port s = .next t) : t.memWf := by
  refine mopStart_memWf (fun m s h => ?_) h ht
  extract_lets +onlyGivenNames b
  split <;> exact h

theorem execBadop_memWf {s t : State} {port op : Nat} (h : s.memWf) (ht : execBadop port op s = .next t) : t.memWf := by
  unfold execBadop at ht
  split at ht
  · cases ht
  exact mopStart_memWf (fun _ _ h => h) h ht

theorem execMgmtComplete_memWf {s t : State} (h : s.memWf) (ht : execMgmtComplete s = .next t) : t.memWf := by
  unfold execMgmtComplete at ht
  split at ht
  · cases ht
  split at ht
  · cases ht
  extract_lets v at ht
  cases ht
  exact h

end Sys2Proof.Machine
end

section
/-! SUPPORT. Migration (R368) keeps both memories in canonical form. -/

namespace Sys2Proof.Machine

theorem State.wakeSaved_memWf {s : State} {gid tid dst : Nat} {shadow : Bool} {status : Nat}
    (h : s.memWf) : (s.wakeSaved gid tid dst shadow status).memWf := h

theorem State.withdraw_memWf {s : State} {c : Context} {v : Saved} {base : Nat} (h : s.memWf) : (s.withdraw c v base).memWf := by
  unfold State.withdraw
  extract_lets -underBinder +onlyGivenNames mine put s1
  have hput : ∀ (s : State) (p : Monitor × Nat), s.memWf → (put s p).memWf := by
    intro s p hs
    unfold put
    exact getD_memWf (fun _ ht => State.ctlWrite_memWf hs ht) (State.wakeSaved_memWf hs)
  clear_value put
  have hs1 : s1.memWf := foldl_memWf hput _ h
  clear_value s1
  exact hs1

theorem State.poisonPreds_memWf {s : State} {v : Saved} (h : s.memWf) : (s.poisonPreds v).memWf :=
  foldl_memWf (fun _ _ hs => State.poisonVa_memWf hs) _ h

theorem execMigout_memWf {s t : State} {port : Nat} (h : s.memWf) (ht : execMigout port s = .next t) : t.memWf := by
  refine mopStart_memWf (fun m s h => ?_) h ht
  split
  · exact h
  · split
    · exact h
    · extract_lets +onlyGivenNames s0 s1
      have hs1 : s1.memWf := State.writeWoken_memWf (foldl_memWf (fun _ _ hs => State.poisonPreds_memWf (State.withdraw_memWf hs)) _ h)
      clear_value s1
      exact hs1

theorem State.imageSpan_memWf {s : State} {asid : Nat} {b : List Byte} (h : s.memWf) : (s.imageSpan asid b).2.memWf := by
  unfold State.imageSpan
  extract_lets +onlyGivenNames q tag
  split
  · exact h
  · exact State.fresh_memWf h

theorem State.register_memWf {s : State} {c : Context} {b : List Byte} {v : Saved} {base : Nat} (h : s.memWf) : (s.register c b v base).memWf := by
  unfold State.register
  extract_lets len
  refine foldl_memWf (fun s x hs => ?_) _ h
  extract_lets dst open_
  split
  · exact State.wakeSaved_memWf hs
  · extract_lets wide
    split
    · exact State.wakeSaved_memWf hs
    · split
      · exact State.wakeSaved_memWf hs
      · exact State.fresh_memWf hs

theorem State.takeImage_memWf {s : State} {c : Context} {va : Nat} {b : List Byte} {base : Nat} {known : List (List Nat × Nat)} (h : s.memWf) :
    (s.takeImage c va b base known).1.memWf := by
  unfold State.takeImage
  split
  · exact h
  · split
    next sid s1 h1 =>
    have hs1 : s1.memWf := by
      have := State.imageSpan_memWf (asid := c.asid) (b := b) h
      rwa [h1] at this
    extract_lets +onlyGivenNames gsz alloc len offs names tst wait v old s2 s3 s4
    clear_value v names old
    have hs2 : s2.memWf := hs1
    clear_value s2
    have hs3 : s3.memWf := State.updSpan_memWf hs2
    clear_value s3
    have hs4 : s4.memWf := getD_memWf (fun _ ht => State.ctlWrite_memWf hs3 ht) hs3
    clear_value s4
    exact State.register_memWf hs4

theorem execMigin_memWf {s t : State} {port : Nat} (h : s.memWf) (ht : execMigin port s = .next t) : t.memWf := by
  refine mopStart_memWf (fun m s h => ?_) h ht
  split
  · exact h
  · split
    · exact h
    · exact List.foldlRecOn (motive := fun r : State × List (List Nat × Nat) × Nat => r.1.memWf) _ _ h fun _ hr _ _ => State.takeImage_memWf hr

end Sys2Proof.Machine
end

section
/-! SUPPORT. Power and voltage (R372, R395) leave both memories as they are. -/

namespace Sys2Proof.Machine

theorem execPowerExcess_memWf {s t : State} {watts : Nat} (h : s.memWf) (ht : execPowerExcess watts s = .next t) : t.memWf := by
  unfold execPowerExcess at ht
  split at ht <;> cases ht
  exact h

theorem execThermalLimit_memWf {s t : State} {celsius : Nat} (h : s.memWf) (ht : execThermalLimit celsius s = .next t) : t.memWf := by
  unfold execThermalLimit at ht
  split at ht
  · cases ht
  extract_lets _ s1 at ht
  have hs1 : s1.memWf := h
  clear_value s1
  split at ht
  · cases ht
    exact hs1
  · cases ht
    refine foldl_memWf (fun s x hs => ?_) _ (foldl_memWf (fun _ _ hs => (State.raiseErr_sameCells _ _).memWf hs) _ hs1)
    split
    · exact State.resetDie_memWf hs
    · exact hs

theorem execSentinelEvent_memWf {s t : State} {core asid : Nat} (h : s.memWf) (ht : execSentinelEvent core asid s = .next t) : t.memWf := by
  unfold execSentinelEvent at ht
  split at ht
  · cases ht
  extract_lets first s1 at ht
  have hs1 : s1.memWf := State.updCore_memWf (State.updDie_memWf h)
  clear_value s1
  cases ht
  exact State.oneCycle_memWf ((State.raiseErr_sameCells _ _).memWf hs1)

theorem execVoltageStepDown_memWf {s t : State} {die : Nat} (h : s.memWf) (ht : execVoltageStepDown die s = .next t) : t.memWf := by
  unfold execVoltageStepDown at ht
  extract_lets x at ht
  split at ht <;> cases ht
  exact State.updDie_memWf h

theorem execScrub_memWf {s t : State} {line outcome : Nat} (h : s.memWf) (ht : execScrub line outcome s = .next t) : t.memWf := by
  unfold execScrub at ht
  extract_lets log at ht
  split at ht
  · cases ht
    exact h
  · cases ht
    exact (State.raiseErr_sameCells _ _).memWf h
  · cases ht
    exact (State.poisonLine_sameCells _ _).memWf ((State.raiseErr_sameCells _ _).memWf h)
  · cases ht

end Sys2Proof.Machine
end

section
/-! SUPPORT. Faults, error records and their queues (R375-R392) keep both memories in canonical form. -/

namespace Sys2Proof.Machine

theorem State.writeTrap_memWf {s : State} {m : TrapMsg} {ends : Bool} (h : s.memWf) : (s.writeTrap m ends).memWf :=
  (State.raiseErr_sameCells _ _).memWf h

theorem State.flipLead_memWf {s : State} {g : Group} {m : TrapMsg} (h : s.memWf) : (s.flipLead g m).memWf := by
  unfold State.flipLead
  split
  · extract_lets n c s1
    have hs1 : s1.memWf := State.updThread_memWf h
    clear_value s1
    split
    · exact State.updTandem_memWf (State.updThread_memWf hs1)
    · exact hs1
  · exact h

theorem State.trapService_memWf {s : State} {g : Group} {m : TrapMsg} (h : s.memWf) : (s.trapService g m).memWf := by
  unfold State.trapService
  split
  · exact State.updThread_memWf h
  · split
    · exact State.flipLead_memWf h
    · exact State.writeTrap_memWf h

theorem State.trapResume_memWf {s : State} {g : Group} {m : TrapMsg} (h : s.memWf) : (s.trapResume g m).memWf := by
  unfold State.trapResume
  extract_lets k s1
  have hs1 : s1.memWf := State.trapReturn_memWf (State.trapService_memWf h)
  clear_value s1
  split
  · extract_lets s2
    have hs2 : s2.memWf := by
      unfold s2
      split
      · exact State.updThread_memWf hs1
      · exact hs1
    clear_value s2
    exact State.trapReturn_memWf hs2
  · exact State.updTandem_memWf hs1
  · exact hs1

theorem State.serveTrap_memWf {s : State} {m : TrapMsg} (h : s.memWf) : (s.serveTrap m).memWf := by
  unfold State.serveTrap
  split
  · exact h
  · split
    · exact h
    · split
      · exact State.terminate_memWf (State.writeTrap_memWf h)
      · exact State.trapResume_memWf h

theorem State.freeSlot_memWf {s : State} {die cluster : Nat} {m : TrapMsg} (h : s.memWf) : (s.freeSlot die cluster m).memWf :=
  State.setMailbox_memWf h

theorem execTrapMessage_memWf {s t : State} {die cluster : Nat} (h : s.memWf) (ht : execTrapMessage die cluster s = .next t) : t.memWf := by
  unfold execTrapMessage at ht
  split at ht <;> cases ht
  exact State.freeSlot_memWf (State.serveTrap_memWf h)

theorem State.answerThread_memWf {s : State} {gid tid kind : Nat} {va : DWord} {unres : Bool}
    (h : s.memWf) : (s.answerThread gid tid kind va unres).memWf := by
  unfold State.answerThread
  split
  · exact h
  · split
    · exact h
    · split
      · exact (State.takeTrap_sameCells _ _ _ _ _ _ _).memWf h
      · extract_lets s1
        have hs1 : s1.memWf := State.wakeThread_memWf h
        clear_value s1
        split
        · exact State.updThread_memWf hs1
        · exact hs1

theorem State.answerItem_memWf {s : State} {f : FaultRec} {unres : Bool} {h' : HeldItem} (h : s.memWf) : (s.answerItem f unres h').memWf := by
  unfold State.answerItem
  split
  · exact State.answerThread_memWf h
  · exact State.answerFill_memWf h
  · split
    · split
      · exact State.terminate_memWf h
      · exact h
    · exact h
  · split
    · exact State.failCopy_memWf h
    · exact h
  · split
    · exact State.failMx_memWf h
    · exact State.retryMx_memWf h
  · exact h
  · split
    · exact State.failAlloc_memWf h
    · exact h
  · split <;> exact h
  · exact State.updQueue_memWf h
  · exact State.answerWord_memWf h
  · exact State.updNode_memWf h
  · exact h
  · exact State.retryAsk_memWf h
  · exact State.answerEnd_memWf h
  · exact State.answerSave_memWf h
  · exact State.answerRestore_memWf h
  · split
    · exact State.failLink_memWf h
    · exact h
  · exact State.answerArrival_memWf h
  · exact State.answerCheckpoint_memWf h

theorem State.answerRecord_memWf {s : State} {p : FaultRec × Bool} (h : s.memWf) : (s.answerRecord p).memWf := by
  unfold State.answerRecord
  split
  · exact h
  · exact foldl_memWf (fun _ _ hs => State.answerItem_memWf hs) _ h

theorem execFaultResponse_memWf {s t : State} {asid : Nat} (h : s.memWf) (ht : execFaultResponse asid s = .next t) : t.memWf := by
  unfold execFaultResponse at ht
  split at ht
  · cases ht
  split at ht
  · cases ht
  split at ht
  · cases ht
  extract_lets seqs gone recs s1 at ht
  have hs1 : s1.memWf := State.updCtx_memWf h
  clear_value s1
  cases ht
  exact State.watchFcons_memWf (foldl_memWf (fun _ _ hs => State.answerRecord_memWf hs) _ hs1)

theorem execFconsPoll_memWf {s t : State} {asid : Nat} (h : s.memWf) (ht : execFconsPoll asid s = .next t) : t.memWf := by
  unfold execFconsPoll at ht
  split at ht
  · cases ht
  split at ht
  · cases ht
  extract_lets v at ht
  cases ht
  exact State.updCtx_memWf h

theorem State.postHeld_memWf {s : State} {asid n : Nat} (h : s.memWf) : (s.postHeld asid n).memWf := by
  induction n generalizing s with
  | zero => exact h
  | succ n ih =>
    rw [State.postHeld]
    split
    · split
      · exact h
      · next s1 h1 =>
        have hs1 : s1.memWf := State.tryPost_memWf h h1
        extract_lets +onlyGivenNames post s2
        refine ih (s := s2) (State.updCtx_memWf ?_)
        exact hs1
    · exact h

theorem execHeldFaultPost_memWf {s t : State} {asid : Nat} (h : s.memWf) (ht : execHeldFaultPost asid s = .next t) : t.memWf := by
  unfold execHeldFaultPost at ht
  split at ht
  · cases ht
  split at ht
  · cases ht
  extract_lets s1 at ht
  have hs1 : s1.memWf := State.postHeld_memWf h
  clear_value s1
  split at ht <;> cases ht
  exact State.writeFaultHeader_memWf hs1 _

theorem execFaultWriteRetry_memWf {s t : State} {asid : Nat} (h : s.memWf) (ht : execFaultWriteRetry asid s = .next t) : t.memWf := by
  unfold execFaultWriteRetry at ht
  split at ht
  · cases ht
  split at ht
  · cases ht
  extract_lets s1 at ht
  have hs1 : s1.memWf := State.postHeld_memWf h
  clear_value s1
  cases ht
  exact State.writeFaultHeader_memWf (State.updCtx_memWf hs1) _

theorem State.updErr_memWf {s : State} {id : Nat} {f : ErrRec → ErrRec} (h : s.memWf) : (s.updErr id f).memWf := h

theorem State.withLog_memWf {s : State} {l : List ErrRec} {n : Nat} (h : s.memWf) : ({ s with deviceLog := l, logCount := n } : State).memWf := h

theorem State.logRecord_memWf {s : State} {e : ErrRec} (h : s.memWf) : (s.logRecord e).memWf :=
  State.withLog_memWf h

theorem execErrorRecordAccept_memWf {s t : State} {r : Nat} (h : s.memWf) (ht : execErrorRecordAccept r s = .next t) : t.memWf := by
  unfold execErrorRecordAccept at ht
  split at ht
  · cases ht
  split at ht
  · cases ht
    exact State.updErr_memWf h
  · split at ht
    · cases ht
      exact h
    · extract_lets n s1 at ht
      have hs1 : s1.memWf := State.updCtx_memWf (State.updErr_memWf h)
      clear_value s1
      cases ht
      exact getD_memWf (fun _ ht => State.ctlWrite_memWf hs1 ht) hs1

theorem State.dropErr_memWf {s : State} {c : Context} {e : ErrRec} (h : s.memWf) : (s.dropErr c e).memWf := by
  unfold State.dropErr
  extract_lets n s1
  have hs1 : s1.memWf := State.updCtx_memWf h
  clear_value s1
  exact getD_memWf (fun _ ht => State.ctlWrite_memWf hs1 ht) hs1

theorem State.loseErr_memWf {s : State} {c : Context} {e : ErrRec} (h : s.memWf) : (s.loseErr c e).memWf :=
  State.logRecord_memWf (State.dropErr_memWf h)

theorem State.writeErr_memWf {s t : State} {c : Context} {e : ErrRec} (h : s.memWf) (ht : s.writeErr c e = some t) : t.memWf := by
  obtain ⟨s1, h1, ht⟩ := Option.bind_eq_some_iff.mp ht
  exact State.ctlWrite_memWf (State.ctlWrite_memWf h h1) ht

theorem State.postErr_memWf {s : State} {c : Context} {e : ErrRec} (h : s.memWf) : (s.postErr c e).memWf := by
  unfold State.postErr
  split
  · exact State.loseErr_memWf h
  · split
    · extract_lets +onlyGivenNames y
      split
      · exact State.loseErr_memWf h
      · next s1 h1 => exact (State.ctlWrite_memWf h h1 : s1.memWf)
    · split
      · exact State.dropErr_memWf h
      · split
        · exact State.loseErr_memWf h
        · next s1 h1 =>
          have hs1 : s1.memWf := State.writeErr_memWf h h1
          extract_lets +onlyGivenNames old put
          refine State.updCtx_memWf ?_
          exact hs1

theorem execErrorRecordPost_memWf {s t : State} {r : Nat} (h : s.memWf) (ht : execErrorRecordPost r s = .next t) : t.memWf := by
  unfold execErrorRecordPost at ht
  split at ht
  · cases ht
  split at ht
  · cases ht
  split at ht
  · cases ht
    exact State.logRecord_memWf h
  · split at ht
    · cases ht
      exact h
    · cases ht
      exact State.postErr_memWf h

theorem State.answerBare_memWf {s : State} {unres : Bool} {hs : List HeldItem} (h : s.memWf) : (s.answerBare unres hs).memWf :=
  foldl_memWf (fun _ _ hs => State.answerItem_memWf hs) _ h

theorem State.retryAway_memWf {s : State} (h : s.memWf) : s.retryAway.memWf :=
  State.answerBare_memWf h

theorem State.failLost_memWf {s : State} (h : s.memWf) : s.failLost.memWf :=
  State.answerBare_memWf h

theorem execDieEnable_memWf {s t : State} {d : Nat} (h : s.memWf) (ht : execDieEnable d s = .next t) : t.memWf := by
  unfold execDieEnable at ht
  split at ht <;> cases ht
  exact State.retryAway_memWf (State.updDie_memWf h)

theorem execInstructionFetch_memWf {s t : State} {gid tid : Nat} (h : s.memWf) (ht : execInstructionFetch gid tid s = .next t) : t.memWf := by
  unfold execInstructionFetch at ht
  split at ht
  · split at ht <;> cases ht
    exact State.fetch_memWf h
  · cases ht

end Sys2Proof.Machine
end

section
/-! SUPPORT. Upsets and die resets (R279, R385, R393) keep both memories in canonical form. -/

namespace Sys2Proof.Machine

theorem State.arrayRecord_memWf {s : State} {kind sev src asid : Nat} {addr : DWord} (h : s.memWf) : (s.arrayRecord kind sev src asid addr).memWf :=
  (State.raiseErr_sameCells _ _).memWf h

theorem State.lineRecord_memWf {s : State} {kind sev src asid line : Nat} (h : s.memWf) : (s.lineRecord kind sev src asid line).memWf :=
  State.arrayRecord_memWf h

theorem State.lineUpset_memWf {s : State} {src line : Nat} {reader : Option Nat} {bad : Bool} (h : s.memWf) : (s.lineUpset src line reader bad).memWf := by
  unfold State.lineUpset
  split
  · exact (State.poisonLine_sameCells _ _).memWf h
  · exact State.lineRecord_memWf h

theorem State.l2Upset_memWf {s t : State} {die line : Nat} {reader : Option Nat} {bad : Bool} (h : s.memWf)
    (ht : s.l2Upset die line reader bad = .next t) : t.memWf := by
  unfold State.l2Upset at ht
  split at ht
  · cases ht
  extract_lets src s1 at ht
  have hs1 : s1.memWf := State.lineUpset_memWf h
  clear_value s1
  cases ht
  split
  · exact State.lineRecord_memWf hs1
  · exact hs1

theorem State.tagUpset_memWf {s : State} {src line : Nat} {bad : Bool} (h : s.memWf) : (s.tagUpset src line bad).memWf := by
  unfold State.tagUpset
  split
  · exact State.lineRecord_memWf ((State.poisonLine_sameCells _ _).memWf h)
  · exact h

theorem State.l1Upset_memWf {s t : State} {core line : Nat} {reader : Option Nat} {bad : Bool} (h : s.memWf)
    (ht : s.l1Upset core line reader bad = .next t) : t.memWf := by
  unfold State.l1Upset at ht
  split at ht
  · cases ht
    exact State.lineUpset_memWf h
  · split at ht <;> cases ht
    exact State.dropL1_memWf h

theorem State.tileUpset_memWf {s t : State} {uid word : Nat} {bad : Bool} (h : s.memWf) (ht : s.tileUpset uid word bad = .next t) : t.memWf := by
  unfold State.tileUpset at ht
  split at ht
  · cases ht
  split at ht
  · cases ht
  split at ht
  · cases ht
    exact State.arrayRecord_memWf h
  · cases ht
    exact h

theorem State.sideUpset_memWf {s t : State} {id : Nat} {bad : Bool} (h : s.memWf) (ht : s.sideUpset id bad = .next t) : t.memWf := by
  unfold State.sideUpset at ht
  split at ht
  · cases ht
  split at ht
  · cases ht
    exact h
  · extract_lets a s1 s2 at ht
    have hs1 : s1.memWf := foldl_memWf (fun _ _ hs => State.poisonVa_memWf hs) _ h
    clear_value s1
    have hs2 : s2.memWf := (State.raiseErr_sameCells _ _).memWf hs1
    clear_value s2
    cases ht
    exact State.terminate_memWf hs2

theorem State.compareUpset_memWf {s t : State} {gid tid k : Nat} {bad : Bool} (h : s.memWf) (ht : s.compareUpset gid tid k bad = .next t) : t.memWf := by
  unfold State.compareUpset at ht
  split at ht
  · cases ht
  split at ht <;> cases ht
  split
  · exact State.mismatch_memWf h
  · exact h

theorem State.mailboxUpset_memWf {s t : State} {die cluster : Nat} {bad : Bool} (h : s.memWf)
    (ht : s.mailboxUpset die cluster bad = .next t) : t.memWf := by
  unfold State.mailboxUpset at ht
  extract_lets b at ht
  split at ht <;> cases ht
  split
  · exact State.setMailbox_memWf h
  · exact h

theorem State.commandUpset_memWf {s t : State} {matrix : Bool} {id : Nat} {bad : Bool} (h : s.memWf)
    (ht : s.commandUpset matrix id bad = .next t) : t.memWf := by
  unfold State.commandUpset at ht
  split at ht
  · split at ht <;> cases ht
    split <;> exact h
  · split at ht <;> cases ht
    split <;> exact h

theorem State.linkUpset_memWf {s t : State} {id : Nat} {bad : Bool} (h : s.memWf) (ht : s.linkUpset id bad = .next t) : t.memWf := by
  unfold State.linkUpset at ht
  split at ht <;> cases ht
  split <;> exact h

theorem State.fieldUpset_memWf {s t : State} {id : Nat} {bad : Bool} (h : s.memWf) (ht : s.fieldUpset id bad = .next t) : t.memWf := by
  unfold State.fieldUpset at ht
  split at ht
  · cases ht
  split at ht
  · cases ht
    exact h
  · extract_lets ws _ s1 at ht
    have hs1 : s1.memWf := by
      unfold s1
      split
      · exact State.unhold_memWf h
      · exact h
    clear_value s1
    cases ht
    exact hs1

theorem State.regUpset_memWf {s t : State} {gid tid n limit : Nat} {f : Thread → Thread} (h : s.memWf)
    (ht : s.regUpset gid tid n limit f = .next t) : t.memWf := by
  unfold State.regUpset at ht
  split at ht <;> cases ht
  exact State.updThread_memWf h

theorem State.upset_memWf {s t : State} {u : Upset} (h : s.memWf) (ht : s.upset u = .next t) : t.memWf := by
  unfold State.upset at ht
  extract_lets alloc at ht
  split at ht
  · exact State.regUpset_memWf h ht
  · split at ht
    · exact State.regUpset_memWf h ht
    · cases ht
  · exact State.regUpset_memWf h ht
  · split at ht <;> cases ht
    exact State.updGroup_memWf h
  · split at ht <;> cases ht
    exact State.updThread_memWf h
  · exact State.l1Upset_memWf h ht
  · cases ht
    exact h
  · split at ht <;> cases ht
    exact h
  · exact State.tileUpset_memWf h ht
  · exact State.l2Upset_memWf h ht
  · split at ht <;> cases ht
    exact State.tagUpset_memWf h
  · split at ht <;> cases ht
    exact State.tagUpset_memWf h
  · split at ht
    · exact execMonlost_memWf h ht
    · cases ht
      exact h
  · exact State.sideUpset_memWf h ht
  · exact State.compareUpset_memWf h ht
  · exact State.mailboxUpset_memWf h ht
  · exact State.commandUpset_memWf h ht
  · exact State.commandUpset_memWf h ht
  · exact State.linkUpset_memWf h ht
  · exact State.fieldUpset_memWf h ht
  · cases ht
    exact State.lineUpset_memWf h
  · cases ht
    exact h

end Sys2Proof.Machine
end

section
/-! SUPPORT. What follows every action keeps both memories in canonical form. -/

namespace Sys2Proof.Machine

theorem State.follow_memWf {s : State} (h : s.memWf) : s.follow.memWf :=
  State.ageLines_memWf (State.serveEdges_memWf (State.writeWoken_memWf (State.settleTandems_memWf (State.settleSteps_memWf (State.settle_memWf (State.retryHolds_memWf (State.failLost_memWf h)))))))

theorem Msg.act_memWf {m : Msg} {s t : State} (h : s.memWf) (ht : m.act s = .next t) : t.memWf := by
  obtain ⟨id, kind⟩ := m
  cases kind with
  | rds => exact request_memWf h ht
  | rdx => exact request_memWf h ht
  | upg => exact request_memWf h ht
  | wb => exact execWb_memWf h ht
  | inv => exact snooped_memWf h ht
  | fwd => exact snooped_memWf h ht
  | fwdInv => exact snooped_memWf h ht
  | answer => exact execDirectoryAnswer_memWf h ht
  | noLine => exact execNoLineAnswer_memWf h ht
  | grant => exact execGrant_memWf h ht
  | atHome => exact execPerformAtHome_memWf h ht
  | homeOp => exact execHomeOperation_memWf h ht
  | wbAck => exact execWbAck_memWf h ht
  | register => cases ht
  | future => cases ht

theorem restOfWait_memWf {s : State} {n since : Nat} (h : s.memWf) : (restOfWait n since s).memWf := by
  unfold restOfWait
  split <;> exact h

end Sys2Proof.Machine
end

section
/-! SUPPORT. Proposals (R149-R153) keep both memories in canonical form. -/

namespace Sys2Proof.Machine

theorem execAccept_memWf {s t : State} {c : BitVec 1} {d a : BitVec 6} (h : s.memWf) (ht : execAccept c d a s = .next t) : t.memWf := by
  refine runWord_memWf (fun l s t h ht => ?_) h ht
  split at ht
  · cases ht
  extract_lets acc at ht
  cases ht
  exact State.updLane_memWf h

end Sys2Proof.Machine
end

section
/-! SUPPORT. Every instruction and every event keeps both memories in canonical form. A word that acts in the thread alone is `runPure`, or `runRegs` where it can stop. -/

namespace Sys2Proof.Machine

/-- Every instruction and every event keeps both memories in canonical form. -/
theorem exec_memWf {i : Instr} {s t : State} (h : s.memWf) (ht : exec i s = .next t) : t.memWf := by
  cases i
  case nop => exact execNop_memWf h ht
  case exit => exact execExit_memWf h ht
  case trap => exact execTrap_memWf h ht
  case brk => exact execBrk_memWf h ht
  case yield => exact execYield_memWf h ht
  case setrm | getflg | clrflg | iadd | isub | imin | imax | iminu | imaxu | and | or | xor | andn | shl | shr | sar | rotl | imullo | imulhi | imulhiu
    | popc | clz | brev | iabs | bpick | iaddsat | isubsat | iaddi | andi | ori | xori | shiShl | shiShr | shiSar | shiRotl | bitfBfx | bitfBfxs
    | bitfBfi | li | lih | imad | imadW | icmp | pand | por | pxor | pnot | p2w | w2p | sel | uget | fadd | dadd | fsub | dsub | fmul | dmul | fmin
    | dmin | fmax | dmax | fminm | dminm | fmaxm | dmaxm | fabs | dabs | fneg | dneg | fcpys | dcpys | frnd | drnd | fclass | dclass | fscale | dscale
    | ffma | dfma | fcmp | dcmp | hadd2 | hsub2 | hmul2 | hmin2 | hmax2 | badd2 | bsub2 | bmul2 | bmin2 | bmax2 | hfma2 | bfma2 | cvt | rcp | rsq | sqrt
    | div | exp2 | log2 | sin | cos | sincos | sinpi | cospi | tanh | rand | randu | pseed | pcnt | pcntClr => exact runPure_memWf h ht
  case sysv => exact execSysv_memWf h ht
  case locq => exact execLocq_memWf h ht
  case uset => exact execUset_memWf h ht
  case propose | discard => exact runRegs_memWf h ht
  case accept => exact execAccept_memWf h ht
  case xchPair | xchQx1 | xchQx2 | shfl | shflx | voteany | voteall | ballot | redadd | redmin | redmax => exact exchange_memWf h ht
  case bra => exact execBra_memWf h ht
  case call => exact execCall_memWf h ht
  case jr => exact execJr_memWf h ht
  case jalr => exact execJalr_memWf h ht
  case barG => exact execBarG_memWf h ht
  case barS => exact execBarS_memWf h ht
  case ld | st | atom | cas | red | stFut | clrFut | amax | amaxrs => exact runWord_memWf (fun _ _ _ h ht => memAccess_memWf h ht) h ht
  case ldt | ldtWf | ldtWfe => exact tileLoad_memWf h ht
  case stt | sttWe => exact tileStore_memWf h ht
  case sttRaw => exact execSttRaw_memWf h ht
  case fence => exact execFence_memWf h ht
  case wait => exact execWait_memWf h ht
  case waitu => exact execWaitu_memWf h ht
  case ldFut => exact execLdFut_memWf h ht
  case talloc => exact execTalloc_memWf h ht
  case tfree => exact execTfree_memWf h ht
  case tbind => exact execTbind_memWf h ht
  case tflush => exact execTflush_memWf h ht
  case tring => exact execTring_memWf h ht
  case tsetfe => exact execTsetfe_memWf h ht
  case tarrt => exact execTarrt_memWf h ht
  case waita => exact execWaita_memWf h ht
  case tinfo => exact execTinfo_memWf h ht
  case racq => exact execRacq_memWf h ht
  case rrel => exact execRrel_memWf h ht
  case tidset | tidget | copy | copyTl | copyLt | gather | scatter => exact copyWord_memWf h ht
  case mloop | mdrain | mzero => exact mxWord_memWf h ht
  case take => exact execTake_memWf h ht
  case pass => exact execPass_memWf h ht
  case mwait => exact execMwait_memWf h ht
  case vbind | hbind => exact bindWord_memWf h ht
  case vld => exact treeWord_memWf (fun _ _ _ _ h hr => vldEffect_memWf h hr) h ht
  case vsten7 => exact treeWord_memWf (fun _ _ _ _ h hr => vstenEffect_memWf h hr) h ht
  case vsamp => exact treeWord_memWf (fun _ _ _ _ h hr => vsampEffect_memWf h hr) h ht
  case vray => exact treeWord_memWf (fun _ _ _ _ h hr => vrayEffect_memWf h hr) h ht
  case vleaf => exact execVleaf_memWf h ht
  case vins | vdel => exact allocWord_memWf h ht
  case vactClr | vactSet => exact activeBit_memWf h ht
  case vst => exact execVst_memWf h ht
  case hgrid => exact execHgrid_memWf h ht
  case hgrad | hgradd => exact gradWord_memWf h ht
  case enq | commit => exact askWord_memWf h ht
  case result => exact execResult_memWf h ht
  case launch => exact execLaunch_memWf h ht
  case coll | halo | step => exact linkWord_memWf h ht
  case stepwait => exact execStepwait_memWf h ht
  case tbegin => exact execTbegin_memWf h ht
  case tchk | tend => exact rendezvousWord_memWf h ht
  case errq => exact execErrq_memWf h ht
  case instructionFetch => exact execInstructionFetch_memWf h ht
  case poisonSkid => exact execPoisonSkid_memWf h ht
  case yieldExpiry => exact execYieldExpiry_memWf h ht
  case loadComplete => exact execLoadComplete_memWf h ht
  case storeAck => exact execStoreAck_memWf h ht
  case sliceAccess => exact execSliceAccess_memWf h ht
  case fenceComplete => exact execFenceComplete_memWf h ht
  case monitorInsert => exact execMonitorInsert_memWf h ht
  case monitorTimeout => exact execMonitorTimeout_memWf h ht
  case monitorSpillReturn => exact execMonitorSpillReturn_memWf h ht
  case monlost => exact execMonlost_memWf h ht
  case rds | rdx | upg => exact request_memWf h ht
  case wb => exact execWb_memWf h ht
  case inv | fwd | fwdinv => exact snooped_memWf h ht
  case directoryAnswer => exact execDirectoryAnswer_memWf h ht
  case noLineAnswer => exact execNoLineAnswer_memWf h ht
  case grant => exact execGrant_memWf h ht
  case performAtHome => exact execPerformAtHome_memWf h ht
  case homeOperation => exact execHomeOperation_memWf h ht
  case wbAck => exact execWbAck_memWf h ht
  case lineAgeing => exact execLineAgeing_memWf h ht
  case lineReceive => exact execLineReceive_memWf h ht
  case replayRequest => exact execReplayRequest_memWf h ht
  case linkRetrain => exact execLinkRetrain_memWf h ht
  case dieReset => exact execDieReset_memWf h ht
  case trapMessage => exact execTrapMessage_memWf h ht
  case faultResponse => exact execFaultResponse_memWf h ht
  case fconsPoll => exact execFconsPoll_memWf h ht
  case heldFaultPost => exact execHeldFaultPost_memWf h ht
  case faultWriteRetry => exact execFaultWriteRetry_memWf h ht
  case sideLogReplay => exact execSideLogReplay_memWf h ht
  case errorRecordPost => exact execErrorRecordPost_memWf h ht
  case scrub => exact execScrub_memWf h ht
  case sentinelEvent => exact execSentinelEvent_memWf h ht
  case voltageStepDown => exact execVoltageStepDown_memWf h ht
  case powerExcess => exact execPowerExcess_memWf h ht
  case thermalLimit => exact execThermalLimit_memWf h ht
  case ppsPulse => exact execPpsPulse_memWf h ht
  case ptmSync => exact execPtmSync_memWf h ht
  case portReset => exact execPortReset_memWf h ht
  case bringUp => exact execBringUp_memWf h ht
  case hostMemoryAccess => exact execHostMemoryAccess_memWf h ht
  case semaphoreRead => exact execSemaphoreRead_memWf h ht
  case semaphoreWrite => exact execSemaphoreWrite_memWf h ht
  case qtailWrite => exact execQtailWrite_memWf h ht
  case registerWrite => exact execRegisterWrite_memWf h ht
  case ctxCreate => exact mopStart_memWf (fun _ _ h => State.createContext_memWf h) h ht
  case ctxDestroy => exact mopStart_memWf (fun _ _ h => State.destroyContext_memWf h) h ht
  case qbind => exact mopStart_memWf (fun _ _ h => State.bindQueue_memWf h) h ht
  case qunbind => exact mopStart_memWf (fun _ _ h => State.unbindQueue_memWf h) h ht
  case qresume => exact mopStart_memWf (fun _ _ h => State.resumeQueue_memWf h) h ht
  case tlbinv => exact execTlbinv_memWf h ht
  case preempt => exact execPreempt_memWf h ht
  case plift => exact execPlift_memWf h ht
  case migout => exact execMigout_memWf h ht
  case migin => exact execMigin_memWf h ht
  case exchset => exact execExchset_memWf h ht
  case rtshare => exact execRtshare_memWf h ht
  case attest => exact execAttest_memWf h ht
  case winset => exact execWinset_memWf h ht
  case mgmtComplete => exact execMgmtComplete_memWf h ht
  case commandFetch => exact execCommandFetch_memWf h ht
  case recordRefetch => exact execRecordRefetch_memWf h ht
  case launchCommand => exact execLaunchCommand_memWf h ht
  case launchLeaf => exact execLaunchLeaf_memWf h ht
  case graphCommand => exact execGraphCommand_memWf h ht
  case copyCommand => exact execCopyCommand_memWf h ht
  case waitword => exact execWaitword_memWf h ht
  case release => exact execRelease_memWf h ht
  case releaseTime => exact execReleaseTime_memWf h ht
  case collCommand => exact execCollCommand_memWf h ht
  case fenceCommand => exact execFenceCommand_memWf h ht
  case groupResident => exact execGroupResident_memWf h ht
  case groupEnd => exact execGroupEnd_memWf h ht
  case autoPreempt => exact execAutoPreempt_memWf h ht
  case deadlineExpiry => exact execDeadlineExpiry_memWf h ht
  case groupSave => exact execGroupSave_memWf h ht
  case groupRestore => exact execGroupRestore_memWf h ht
  case nodeDispatch => exact execNodeDispatch_memWf h ht
  case coalesceTimer => exact execCoalesceTimer_memWf h ht
  case copyComplete => exact execCopyComplete_memWf h ht
  case tileRowFill => exact execTileRowFill_memWf h ht
  case matrixCommandStart => exact execMatrixCommandStart_memWf h ht
  case ringSlotReady => exact execRingSlotReady_memWf h ht
  case matrixCommandComplete => exact execMatrixCommandComplete_memWf h ht
  case allocatorRequest => exact execAllocatorRequest_memWf h ht
  case sweep => exact execSweep_memWf h ht
  case fieldWordComplete => exact execFieldWordComplete_memWf h ht
  case linkCommandComplete => exact execLinkCommandComplete_memWf h ht
  case stepReport => exact execStepReport_memWf h ht
  case trailerAccess => exact execTrailerAccess_memWf h ht
  case tandemWaitTimeout => exact execTandemWaitTimeout_memWf h ht
  case tandemCheckpoint => exact execTandemCheckpoint_memWf h ht
  case notAnInstruction w => exact execNotAnInstruction_memWf (_w := w) h ht
  case badop => exact execBadop_memWf h ht
  case ownershipGrant => exact execOwnershipGrant_memWf h ht
  case tileOperationComplete => exact execTileOperationComplete_memWf h ht
  case linkWriteArrival => exact execLinkWriteArrival_memWf h ht
  case dieEnable => exact execDieEnable_memWf h ht
  case errorRecordAccept => exact execErrorRecordAccept_memWf h ht

end Sys2Proof.Machine
end

section
/-! SUPPORT. Issuing, and the moves that the agenda names, for any meaning of the instructions that keeps both memories in canonical form. -/

namespace Sys2Proof.Machine

/-- Every next state of an action from a state whose memories are in canonical form is such a state. -/
def KeepsMemWf (f : State → Res) : Prop := ∀ s t : State, s.memWf → f s = .next t → t.memWf

theorem forEach_memWf {α : Type} {f : α → State → Res} (hf : ∀ a, KeepsMemWf (f a)) {s t : State} {as : List α} (h : s.memWf) (ht : forEach f as s = .next t) :
    t.memWf := by
  induction as generalizing s with
  | nil =>
    cases ht
    exact h
  | cons a as ih =>
    rw [forEach] at ht
    split at ht
    · next s1 h1 => exact ih (hf a s s1 h h1) ht
    · next hn => exact absurd ht (hn t)

theorem afterPack_memWf {t : State} {nop : Bool} {r : Res} (h : ∀ u, r = .next u → u.memWf) (ht : afterPack nop r = .next t) : t.memWf := by
  unfold afterPack at ht
  split at ht
  · next s =>
    cases ht
    split
    · exact h s rfl
    · exact State.oneCycle_memWf (h s rfl)
  · next hn => exact absurd ht (hn t)

section
variable {ex : Instr → State → Res} {ill : Word → State → Res} {flush : Flush}
variable (hex : ∀ i, KeepsMemWf (ex i)) (hill : ∀ w, KeepsMemWf (ill w)) (hflush : ∀ s : State, s.memWf → (flush s).memWf)

include hex

theorem chainWords_memWf {s t : State} {all ps : List (Nat × Instr)} {first : Bool} (h : s.memWf)
    (ht : chainWords ex all first ps s = .next t) : t.memWf := by
  induction ps generalizing s first with
  | nil =>
    cases ht
    exact h
  | cons p ps ih =>
    rw [chainWords] at ht
    split at ht
    · next s1 h1 =>
      refine ih (hex _ _ _ ?_ h1) ht
      exact h
    · next hn => exact absurd ht (hn t)

theorem chainThread_memWf {s t : State} {is : List (Nat × Instr)} {tid : Nat} (h : s.memWf) (ht : chainThread ex is s tid = .next t) : t.memWf := by
  unfold chainThread at ht
  split at ht
  · cases ht
    exact h
  · extract_lets s1 at ht
    have hs1 : s1.memWf := State.updThread_memWf h
    clear_value s1
    split at ht
    · next s2 h2 =>
      have hs2 : s2.memWf := by
        refine chainWords_memWf hex ?_ h2
        exact hs1
      split at ht
      · cases ht
        exact State.updThread_memWf hs2
      · cases ht
        refine State.applyStop_memWf ?_ _ _ _
        exact h
    · next hn => exact absurd ht (hn t)

theorem chainPack_memWf {s t : State} {is : List (Nat × Instr)} {tids : List Nat} (h : s.memWf) (ht : chainPack ex is tids s = .next t) :
    t.memWf :=
  forEach_memWf (fun _ _ _ h ht => chainThread_memWf hex h ht) h ht

include hill hflush

theorem issueChain_memWf {s t : State} {g : Group} {pc : PC} {tids : List Nat} {ws : List Word} (h : s.memWf)
    (ht : issueChain ex ill flush s g pc tids ws = .next t) : t.memWf := by
  unfold issueChain at ht
  extract_lets -underBinder ws n base at ht
  split at ht
  · refine hill _ _ _ ?_ ht
    exact h
  · split at ht
    · next s1 h1 =>
      cases ht
      refine hflush _ (hex _ _ _ ?_ h1)
      exact h
    · next hn => exact absurd ht (hn t)
  · extract_lets num at ht
    split at ht
    · next s1 h1 =>
      cases ht
      refine hflush _ (chainPack_memWf hex ?_ h1)
      exact h
    · next hn => exact absurd ht (hn t)

theorem issuePack_memWf {s t : State} {core quarter : Nat} {g : Group} {ts : List Thread} (h : s.memWf)
    (ht : issuePack ex ill flush core quarter g ts s = .next t) : t.memWf := by
  unfold issuePack at ht
  split at ht
  · cases ht
    exact h
  · split at ht
    · next s1 h1 =>
      cases ht
      exact State.afterIssue_memWf (issueChain_memWf hex hill hflush (State.notePipes_memWf h) h1)
    · next hn => exact absurd ht (hn t)

theorem passNops_memWf {s t : State} {gid tid n : Nat} (h : s.memWf) (ht : passNops ex ill flush gid tid n s = .next t) : t.memWf := by
  induction n generalizing s with
  | zero =>
    cases ht
    exact h
  | succ n ih =>
    rw [passNops] at ht
    split at ht
    · split at ht
      · split at ht
        · next s1 h1 => exact ih (issuePack_memWf hex hill hflush h h1) ht
        · next hn => exact absurd ht (hn t)
      · cases ht
        exact h
    · cases ht
      exact h

theorem toChain_memWf {s t : State} {gid tid n : Nat} (h : s.memWf) (ht : toChain ex ill flush gid tid n s = .next t) : t.memWf := by
  induction n generalizing s with
  | zero =>
    cases ht
    exact h
  | succ n ih =>
    rw [toChain] at ht
    split at ht
    · cases ht
      exact h
    · split at ht
      · cases ht
        exact h
      · split at ht
        · split at ht
          · next s1 h1 =>
            refine ih (passNops_memWf hex hill hflush ?_ h1) ht
            split
            · exact State.fetch_memWf h
            · exact h
          · next hn => exact absurd ht (hn t)
        · cases ht
          exact h

theorem prepare_memWf {s t : State} {p : Nat × Nat} (h : s.memWf) (ht : prepare ex ill flush p s = .next t) : t.memWf := by
  unfold prepare at ht
  split at ht
  · next s1 h1 =>
    cases ht
    exact State.updThread_memWf (toChain_memWf hex hill hflush h h1)
  · next hn => exact absurd ht (hn t)

theorem cycleNow_memWf {s t : State} (h : s.memWf) (ht : cycleNow ex ill flush s = .next t) : t.memWf := by
  unfold cycleNow at ht
  extract_lets -underBinder all at ht
  split at ht
  · next s1 h1 =>
    have hs1 : s1.memWf := forEach_memWf (fun _ _ _ h ht => prepare_memWf hex hill hflush h ht) h h1
    extract_lets -underBinder plan go at ht
    have hgo : ∀ p, KeepsMemWf (go p) := by
      intro p s t h ht
      unfold go at ht
      split at ht
      · cases ht
        exact h
      · exact issuePack_memWf hex hill hflush h ht
    clear_value go
    split at ht
    · next s2 h2 =>
      cases ht
      exact State.oneCycle_memWf (forEach_memWf hgo (foldl_memWf (fun _ _ hs => State.notePassed_memWf hs) _ hs1) h2)
    · next hn => exact absurd ht (hn t)
  · next hn => exact absurd ht (hn t)

theorem issueQuarter_memWf {s t : State} {core quarter : Nat} (h : s.memWf) (ht : issueQuarter ex ill flush s core quarter = some (.next t)) :
    t.memWf := by
  unfold issueQuarter at ht
  split at ht
  · cases ht
  extract_lets s1 s2 at ht
  have hs1 : s1.memWf := foldl_memWf (fun _ _ hs => State.fetch_memWf hs) _ h
  clear_value s1
  have hs2 : s2.memWf := State.updCore_memWf hs1
  clear_value s2
  split at ht
  · cases ht
    exact State.oneCycle_memWf hs2
  · exact afterPack_memWf (fun u hu => issuePack_memWf hex hill hflush hs2 hu) (Option.some.inj ht)

end

theorem following_memWf {t : State} {r : Res} (h : ∀ u, r = .next u → u.memWf) (ht : following r = .next t) : t.memWf := by
  unfold following at ht
  split at ht
  · next s =>
    cases ht
    exact State.follow_memWf (h s rfl)
  · next hn => exact absurd ht (hn t)

theorem flushPack_memWf {s : State} (h : s.memWf) : (flushPack s).memWf := by
  unfold flushPack
  exact State.serveAsks_memWf (State.flushSums_memWf h)

theorem State.firstAct_memWf {s t : State} {as : List (State → Res)} (has : ∀ a ∈ as, KeepsMemWf a) (h : s.memWf) (ht : s.firstAct as = some t) : t.memWf := by
  induction as with
  | nil => cases ht
  | cons a as ih =>
    rw [List.forall_mem_cons] at has
    rw [State.firstAct] at ht
    split at ht
    · next u hu =>
      split at ht
      · exact ih has.2 ht
      · cases ht
        exact has.1 _ _ h hu
    · exact ih has.2 ht

section
variable {ex : Instr → State → Res} (hex : ∀ i, KeepsMemWf (ex i))

include hex

theorem State.cycleMove_memWf {s t : State} (h : s.memWf) (ht : State.cycleMove ex s = .next t) : t.memWf :=
  cycleNow_memWf hex (fun _ _ _ h ht => execNotAnInstruction_memWf h ht) (fun _ h => flushPack_memWf h) h ht

theorem State.issueNow_memWf {s t : State} {core quarter : Nat} (h : s.memWf) (ht : State.issueNow ex s core quarter = .next t) : t.memWf := by
  unfold State.issueNow at ht
  split at ht
  · exact State.cycleMove_memWf hex h ht
  · cases hq : issueQuarter ex execNotAnInstruction flushPack s core quarter with
    | none =>
      rw [hq] at ht
      cases ht
    | some r =>
      rw [hq] at ht
      cases (ht : r = .next t)
      exact issueQuarter_memWf hex (fun _ _ _ h ht => execNotAnInstruction_memWf h ht) (fun _ h => flushPack_memWf h) h hq

theorem State.waitMove_memWf {s t : State} {n : Nat} (h : s.memWf) (ht : State.waitMove ex s n = .next t) : t.memWf := by
  unfold State.waitMove at ht
  split at ht
  · split at ht
    · cases ht
      exact restOfWait_memWf (State.cycleMove_memWf hex h ‹_›)
    · exact State.cycleMove_memWf hex h ht
  · cases ht
    exact restOfWait_memWf (State.ticks_memWf h)

theorem State.eventNow_memWf {s t : State} {i : Instr} (h : s.memWf) (ht : State.eventNow ex s i = .next t) : t.memWf := by
  unfold State.eventNow at ht
  split at ht
  · exact hex _ _ _ h ht
  · cases ht

theorem State.ownMove_memWf {s t : State} (hacts : ∀ a ∈ s.acts, KeepsMemWf a) (h : s.memWf) (ht : State.ownMove ex s = .next t) : t.memWf := by
  unfold State.ownMove at ht
  split at ht
  · cases ht
    exact State.firstAct_memWf hacts h ‹_›
  · split at ht
    · exact State.cycleMove_memWf hex h ht
    · cases ht
      exact State.ticks_memWf h

theorem State.move_memWf {s t : State} (hacts : ∀ a ∈ s.acts, KeepsMemWf a) (h : s.memWf) (ht : State.move ex s = .next t) : t.memWf := by
  unfold State.move at ht
  split at ht
  · refine State.eventNow_memWf hex ?_ ht
    exact h
  · refine State.cycleMove_memWf hex ?_ ht
    exact h
  · refine State.issueNow_memWf hex ?_ ht
    exact h
  · refine State.waitMove_memWf hex ?_ ht
    exact h
  · refine State.upset_memWf ?_ ht
    exact h
  · refine State.evict_memWf ?_ ht
    exact h
  · exact State.ownMove_memWf hex hacts h ht

end

end Sys2Proof.Machine
end

section
/-! SUPPORT. The actions that move of themselves keep both memories in canonical form. -/

namespace Sys2Proof.Machine

theorem State.memoryActs_keepMemWf (s : State) : ∀ a ∈ s.memoryActs, KeepsMemWf a := by
  simp only [State.memoryActs, List.forall_mem_append, List.forall_mem_map, List.forall_mem_flatMap, List.forall_mem_cons, List.not_mem_nil,
    IsEmpty.forall_iff, implies_true, and_true]
  exact ⟨⟨⟨⟨⟨⟨⟨fun _ _ _ _ h ht => Msg.act_memWf h ht, fun _ _ _ _ h ht => execLineReceive_memWf h ht⟩, fun _ _ _ _ h ht => execReplayRequest_memWf h ht⟩,
    fun _ _ => ⟨fun _ _ h ht => execSliceAccess_memWf h ht, fun _ _ h ht => execOwnershipGrant_memWf h ht, fun _ _ h ht => execLoadComplete_memWf h ht,
      fun _ _ h ht => execStoreAck_memWf h ht⟩⟩,
    fun _ _ _ _ h ht => execSideLogReplay_memWf h ht⟩, fun _ _ _ _ h ht => execMonitorInsert_memWf h ht⟩, fun _ _ _ _ h ht => execMonitorTimeout_memWf h ht⟩,
    fun _ _ _ _ h ht => execMonitorSpillReturn_memWf h ht⟩

theorem Thread.acts_keepMemWf (gid : Nat) (t : Thread) : ∀ a ∈ t.acts gid, KeepsMemWf a := by
  rw [Thread.acts, List.forall_mem_append]
  constructor
  · split
    · exact List.forall_mem_singleton.mpr fun _ _ h ht => execPoisonSkid_memWf h ht
    · exact List.forall_mem_nil _
  · split
    · exact List.forall_mem_singleton.mpr fun _ _ h ht => execFenceComplete_memWf h ht
    · exact List.forall_mem_singleton.mpr fun _ _ h ht => execFenceComplete_memWf h ht
    · exact List.forall_mem_singleton.mpr fun _ _ h ht => execYieldExpiry_memWf h ht
    · exact List.forall_mem_singleton.mpr fun _ _ h ht => execTileRowFill_memWf h ht
    · exact List.forall_mem_singleton.mpr fun _ _ h ht => execTrailerAccess_memWf h ht
    · exact List.forall_mem_nil _

theorem State.unitActs_keepMemWf (s : State) : ∀ a ∈ s.unitActs, KeepsMemWf a := by
  simp only [State.unitActs, List.forall_mem_append, List.forall_mem_map, List.forall_mem_flatMap, List.forall_mem_cons, List.not_mem_nil,
    IsEmpty.forall_iff, implies_true, and_true]
  refine ⟨⟨⟨⟨⟨⟨⟨fun g _ t _ => t.acts_keepMemWf g.gid, fun _ _ _ _ h ht => execFieldWordComplete_memWf h ht⟩, ?_⟩, fun _ _ _ _ h ht => execSweep_memWf h ht⟩,
    fun _ _ => ⟨fun _ _ h ht => execMatrixCommandStart_memWf h ht, fun _ _ h ht => execRingSlotReady_memWf h ht,
      fun _ _ h ht => execMatrixCommandComplete_memWf h ht⟩⟩,
    fun _ _ _ _ h ht => execCopyComplete_memWf h ht⟩, fun _ _ _ _ h ht => execTileOperationComplete_memWf h ht⟩,
    fun _ _ _ _ h ht => execLinkCommandComplete_memWf h ht⟩
  split
  · exact List.forall_mem_nil _
  · exact List.forall_mem_singleton.mpr fun _ _ h ht => execAllocatorRequest_memWf h ht

theorem State.recoveryActs_keepMemWf (s : State) : ∀ a ∈ s.recoveryActs, KeepsMemWf a := by
  simp only [State.recoveryActs, List.forall_mem_append, List.forall_mem_map, List.forall_mem_flatMap, List.forall_mem_cons, List.not_mem_nil,
    IsEmpty.forall_iff, implies_true, and_true]
  exact ⟨⟨⟨fun _ _ _ _ h ht => execTrapMessage_memWf h ht, fun _ _ _ _ h ht => execErrorRecordAccept_memWf h ht⟩,
    fun _ _ _ _ h ht => execErrorRecordPost_memWf h ht⟩,
    fun _ _ => ⟨fun _ _ h ht => execFaultResponse_memWf h ht, fun _ _ h ht => execFconsPoll_memWf h ht, fun _ _ h ht => execHeldFaultPost_memWf h ht,
      fun _ _ h ht => execFaultWriteRetry_memWf h ht⟩⟩

theorem State.queueActs_keepMemWf (s : State) : ∀ a ∈ s.queueActs, KeepsMemWf a := by
  simp only [State.queueActs, List.forall_mem_append, List.forall_mem_map, List.forall_mem_flatMap, List.forall_mem_cons, List.not_mem_nil,
    IsEmpty.forall_iff, implies_true, and_true]
  refine ⟨⟨⟨⟨?_, fun x _ => ?_⟩, fun _ _ _ _ h ht => execLaunchCommand_memWf h ht⟩, ?_⟩,
    fun _ _ _ _ => ⟨fun _ _ h ht => execNodeDispatch_memWf h ht, fun _ _ h ht => execCoalesceTimer_memWf h ht⟩⟩
  · split
    · exact List.forall_mem_singleton.mpr fun _ _ h ht => execMgmtComplete_memWf h ht
    · exact List.forall_mem_nil _
  · split
    · split
      · exact List.forall_mem_singleton.mpr fun _ _ h ht => execRecordRefetch_memWf h ht
      · exact List.forall_mem_nil _
    · split
      · exact List.forall_mem_singleton.mpr fun _ _ h ht => execLaunchCommand_memWf h ht
      · exact List.forall_mem_singleton.mpr fun _ _ h ht => execLaunchLeaf_memWf h ht
      · exact List.forall_mem_singleton.mpr fun _ _ h ht => execGraphCommand_memWf h ht
      · exact List.forall_mem_singleton.mpr fun _ _ h ht => execCopyCommand_memWf h ht
      · exact List.forall_mem_singleton.mpr fun _ _ h ht => execWaitword_memWf h ht
      · exact List.forall_mem_cons.mpr ⟨fun _ _ h ht => execRelease_memWf h ht, List.forall_mem_singleton.mpr fun _ _ h ht => execReleaseTime_memWf h ht⟩
      · exact List.forall_mem_singleton.mpr fun _ _ h ht => execCollCommand_memWf h ht
      · exact List.forall_mem_singleton.mpr fun _ _ h ht => execFenceCommand_memWf h ht
  · split
    · exact List.forall_mem_nil _
    · exact List.forall_mem_singleton.mpr fun _ _ h ht => execCommandFetch_memWf h ht

theorem State.launchActs_keepMemWf (s : State) : ∀ a ∈ s.launchActs, KeepsMemWf a := by
  simp only [State.launchActs, List.forall_mem_append, List.forall_mem_map, List.forall_mem_flatMap, List.forall_mem_cons, List.not_mem_nil,
    IsEmpty.forall_iff, implies_true, and_true]
  exact ⟨⟨⟨⟨⟨⟨⟨⟨⟨fun _ _ _ _ h ht => execGroupEnd_memWf h ht, fun _ _ _ _ h ht => State.spanEnd_memWf h ht⟩, fun _ _ _ _ h ht => execGroupSave_memWf h ht⟩,
    fun _ _ _ _ h ht => execGroupRestore_memWf h ht⟩, fun _ _ _ _ h ht => execGroupResident_memWf h ht⟩, fun _ _ _ _ h ht => execAutoPreempt_memWf h ht⟩,
    fun _ _ _ _ h ht => execDeadlineExpiry_memWf h ht⟩,
    fun _ _ => ⟨fun _ _ h ht => execTandemWaitTimeout_memWf h ht, fun _ _ h ht => execTandemCheckpoint_memWf h ht⟩⟩,
    fun _ _ _ _ h ht => execVoltageStepDown_memWf h ht⟩, fun _ _ _ _ h ht => execLineAgeing_memWf h ht⟩

theorem State.acts_keepMemWf (s : State) : ∀ a ∈ s.acts, KeepsMemWf a := by
  simp only [State.acts, List.forall_mem_append]
  exact ⟨⟨⟨⟨s.memoryActs_keepMemWf, s.unitActs_keepMemWf⟩, s.recoveryActs_keepMemWf⟩, s.queueActs_keepMemWf⟩, s.launchActs_keepMemWf⟩

end Sys2Proof.Machine
end

section
/-! THEOREMS. Every step keeps both memories in canonical form. -/

open Sys2Proof Sys2Proof.Machine

/-- Settles O60: a step is one move and what follows it; every move is an instruction, an event or an action that is in flight, or the
passing of time, and each of these keeps the form. -/
theorem stepKeepsMemoryWellFormed : Obligations.StepKeepsMemoryWellFormed := by
  intro s t h ht
  exact following_memWf (fun u hu => State.move_memWf (fun _ _ _ h ht => exec_memWf h ht) s.acts_keepMemWf h hu) ht
end

section
/-! SUPPORT. The end of an access (R20, R45, R217, R232) and the replay of the side log (R376): what they change, and that no byte of memory is among it. -/

namespace Sys2Proof.Machine

/-! ### Updates that reach few fields -/

theorem State.oweAs_eq (s : State) (o : Owed) : ∃ os, s.oweAs o = { s with owed := os } := by
  unfold State.oweAs
  split
  · exact ⟨_, rfl⟩
  · exact ⟨s.owed, rfl⟩

/-- What a thread is owed is noted among what is owed, and nowhere else. -/
theorem State.owe_eq (s : State) (gid tid id lw gw : Nat) : ∃ os, s.owe gid tid id lw gw = { s with owed := os } := by
  unfold State.owe
  split
  · exact State.oweAs_eq _ _
  · split
    · exact State.oweAs_eq _ _
    · exact ⟨s.owed, rfl⟩

/-- A lookup changes the translation caches and the counters of its die, and nothing else. -/
theorem State.tlbFill_eq (s : State) (unit die asid va : Nat) : ∃ ts ds, s.tlbFill unit die asid va = { s with tlb := ts, dies := ds } := by
  unfold State.tlbFill
  split
  · exact ⟨s.tlb, s.dies, rfl⟩
  · split
    · exact ⟨s.tlb, s.dies, rfl⟩
    · dsimp only
      split
      · exact ⟨s.tlb, _, rfl⟩
      · split
        · exact ⟨s.tlb, _, rfl⟩
        · exact ⟨_, _, rfl⟩

theorem State.foldl_tlbFill_eq {α : Type} (unit die asid : Nat) (va : α → Nat) (ps : List α) (s : State) :
    ∃ ts ds, ps.foldl (fun s p => s.tlbFill unit die asid (va p)) s = { s with tlb := ts, dies := ds } := by
  induction ps generalizing s with
  | nil => exact ⟨s.tlb, s.dies, rfl⟩
  | cons p ps ih =>
    obtain ⟨ts, ds, h⟩ := s.tlbFill_eq unit die asid (va p)
    rw [List.foldl_cons, h]
    exact ih _

/-- States with the same cells and the same copies of lines have the same bytes. -/
theorem State.sameMemory_of_copies {s t : State} (hm : t.mem = s.mem) (hh : t.hostMem = s.hostMem) (hl : t.lines = s.lines) (hn : t.net = s.net)
    (hd : t.dirs = s.dirs) : s.sameMemory t :=
  ⟨fun a => by simp only [State.physByte, State.heldLine, hm, hl, hn, hd], hh⟩

theorem State.thread?_updThread_self {s : State} {g t : Nat} {x : Thread} (f : Thread → Thread) (hx : s.thread? g t = some x) :
    (s.updThread g t f).thread? g t = some { f x with tid := x.tid } := by
  rw [State.thread?_updThread, hx, Option.map_some, if_pos ⟨rfl, rfl⟩]

/-! ### Registers that no longer pend (R45) -/

/-- A mask has the bits of the registers that it is of, w0 excepted. -/
theorem getLsbD_maskOf (n : Nat) (rs : List Nat) (k : Nat) : (maskOf n rs).getLsbD k = (decide (k < n) && decide (k ≠ 0) && decide (k ∈ rs)) := by
  suffices ∀ m : BitVec n, (rs.foldl (fun m r => if r = 0 then m else m ||| BitVec.ofNat n (2 ^ r)) m).getLsbD k
      = (m.getLsbD k || (decide (k < n) && decide (k ≠ 0) && decide (k ∈ rs))) by
    rw [maskOf, this, show (0 : BitVec n).getLsbD k = false from BitVec.getLsbD_zero, Bool.false_or]
  induction rs with
  | nil => simp
  | cons r rs ih =>
    intro m
    rw [List.foldl_cons, ih]
    by_cases hr : r = 0
    · simp only [hr, if_true, List.mem_cons]
      by_cases hk : k = 0 <;> simp [hk]
    · rw [if_neg hr, BitVec.getLsbD_or, BitVec.getLsbD_ofNat, Nat.testBit_two_pow]
      by_cases hk : k = r
      · subst hk
        by_cases hn : k < n <;> simp [hr, hn]
      · simp [List.mem_cons, hk, Ne.symm hk]

theorem Thread.clearPend_pend_eq_false (t : Thread) {rs : List Nat} {n : Nat} (hn : n < 64) (h0 : n ≠ 0) (h : n ∈ rs) :
    (t.clearPend rs).pend.getLsbD n = false := by
  rw [Thread.clearPend, BitVec.getLsbD_and, BitVec.getLsbD_not, getLsbD_maskOf]
  simp [hn, h0, h]

/-! ### A load's value at its thread (R147, R232) -/

/-- What a thread that has not ended is after it received a load's value in the bank that is open to it: the value's words in their
registers, none of them pending, and one load fewer outstanding. -/
theorem Thread.receive_load {t : Thread} {a : Acc} {ws : List Word} {poison : Bool} (hst : t.st ≠ .exited) (hc : a.cls = 0) (hk : a.kind ≠ .locq)
    (hb : a.shadow = t.popen) (hl : ws.length = a.dcnt) (hd : a.dst + a.dcnt ≤ 64) :
    let x := t.receive a ws poison
    x.nLoad = t.nLoad - 1
      ∧ (∀ k, k < a.dcnt → a.dst + k ≠ 0 → x.reg (a.dst + k) = ws.getD k 0 ∧ x.pend.getLsbD (a.dst + k) = false)
      ∧ (∀ n, n < 64 → (n < a.dst ∨ a.dst + a.dcnt ≤ n) → x.reg n = t.reg n) ∧ x.preds = t.preds ∧ x.pc = t.pc := by
  have hx : t.receive a ws poison
      = ((({ t with nLoad := t.nLoad - 1, lw := max t.lw a.lw, gw := max t.gw a.gw } : Thread).inBank t.popen fun t =>
          (t.setWords a.dst ws).taint ((List.range a.dcnt).map (a.dst + ·)) [] (entering poison a.va)).clearPend ((List.range a.dcnt).map (a.dst + ·))) := by
    rw [Thread.receive, if_neg hk, hc, hb]
    exact if_neg hst
  have hreg : ∀ n, (t.receive a ws poison).reg n = if n ≠ 0 ∧ a.dst ≤ n ∧ n < a.dst + a.dcnt then ws.getD (n - a.dst) 0 else t.reg n := by
    intro n
    rw [hx, ← hl]
    rw [← hl] at hd
    have hw := Thread.reg_setWords { t with nLoad := t.nLoad - 1, lw := max t.lw a.lw, gw := max t.gw a.gw } a.dst ws n hd
    refine Eq.trans (Thread.reg_congr ?_ ?_ ?_ n) hw <;> simp [Thread.inBank]
  have hrest : (t.receive a ws poison).nLoad = t.nLoad - 1 ∧ (t.receive a ws poison).preds = t.preds ∧ (t.receive a ws poison).pc = t.pc := by
    rw [hx]
    simp [Thread.inBank]
  obtain ⟨hload, hpreds, hpc⟩ := hrest
  refine ⟨hload, fun k hk h0 => ⟨?_, ?_⟩, fun n _ hout => ?_, hpreds, hpc⟩
  · rw [hreg, if_pos ⟨h0, by omega, by omega⟩, Nat.add_sub_cancel_left]
  · rw [hx]
    exact Thread.clearPend_pend_eq_false _ (by omega) h0 (List.mem_map.mpr ⟨k, List.mem_range.mpr hk, rfl⟩)
  · rw [hreg, if_neg (by omega)]

/-! ### The end of an access -/

/-- Outside tandem mode a value goes to its thread alone. -/
theorem State.giveValue_solo {s : State} {gid : Nat} (h : s.tandem? gid = none) (tid aid : Nat) (recv : Thread → Thread) (ws : List Word) (poison : Bool) :
    s.giveValue gid tid aid recv ws poison = s.updThread gid tid recv := by
  rw [State.giveValue, h]
  rfl

/-- A load that has been performed in all its parts gives its value to its thread, and is no longer on its way. -/
theorem execLoadComplete_done {s : State} {a : Acc} (ha : s.acc? a.id = some a) (hdone : a.phase = .done) (hparts : a.parts = []) (hc : a.cls = 0)
    (hk : a.kind ≠ .ldFut) (htan : s.tandem? a.gid = none) :
    ∃ os, execLoadComplete a.id s
      = .next (({ s with accs := s.accs.filter fun x => x.id != a.id, owed := os } : State).updThread a.gid a.tid (Thread.receive · a a.value a.poison)) := by
  obtain ⟨os, ho⟩ := ({ s with accs := s.accs.filter fun x => x.id != a.id } : State).owe_eq a.gid a.tid a.id a.lw a.gw
  refine ⟨os, ?_⟩
  rw [← State.giveValue_solo (by exact htan) a.tid a.id _ a.value a.poison]
  simp only [execLoadComplete, ha, hc, hparts, List.length_nil, State.performHost, hdone, ho]
  cases hkind : a.kind with
  | ldFut => exact absurd hkind hk
  | _ => rfl

/-- A store that has been performed in all its parts is acknowledged, and leaves the side log. -/
theorem execStoreAck_done {s : State} {a : Acc} (ha : s.acc? a.id = some a) (hdone : a.phase = .done) (hparts : a.parts = []) (hc : a.cls = 1) :
    ∃ os, execStoreAck a.id s = .next (({ s with
        accs := s.accs.filter fun x => x.id != a.id, sideLog := s.sideLog.filter fun e => e.id != a.id, owed := os } : State).updThread
      a.gid a.tid (Thread.acked · a)) := by
  obtain ⟨os, ho⟩ := ({ s with accs := s.accs.filter fun x => x.id != a.id, sideLog := s.sideLog.filter fun e => e.id != a.id } : State).owe_eq
    a.gid a.tid a.id a.lw a.gw
  refine ⟨os, ?_⟩
  simp only [execStoreAck, ha, hc, hparts, List.length_nil, State.performHost, hdone, ho]
  rfl

theorem acc?_filter_ne (s : State) (id : Nat) : (s.accs.filter fun x => x.id != id).find? (fun a => a.id == id) = none := by
  rw [List.find?_eq_none]
  intro x hx
  have := List.of_mem_filter hx
  simpa using this

/-- The request by which an entry of the side log translates afresh (R376). -/
def Acc.replayReq (a : Acc) : Req :=
  { kind := a.kind, ea := a.va.toNat, size := a.size, scope := a.scope, noret := true, need := { w := true }
    facc := (if a.fld then 12 else 0) + if a.kind = .store ∨ a.kind.future then 1 else 2, addrRegs := [] }

/-- The first entry of its thread, where no fault holds it and it translates, is on its way again. -/
theorem execSideLogReplay_translated {s : State} {e : SideEntry} {ps : List (Trans × Nat)} (hf : (s.sideLog.find? fun x => x.id == e.id) = some e)
    (hheld : e.held = false) (hacc : s.acc? e.id = none)
    (hfirst : (s.sideLog.find? fun x => x.acc.gid == e.acc.gid && x.acc.tid == e.acc.tid).map (·.id) = some e.id)
    (hps : s.translateReq e.acc.core e.acc.asid e.acc.replayReq = .ok ps) :
    ∃ ts ds, execSideLogReplay e.id s = .next { s with
      tlb := ts, dies := ds, accs := s.accs ++ [{ e.acc with parts := partsOf ps e.acc.va.toNat e.acc.size }] } := by
  obtain ⟨ts, ds, hfill⟩ := State.foldl_tlbFill_eq e.acc.core (coreDie e.acc.core) e.acc.asid (·.1) (pagePieces e.acc.va.toNat e.acc.size) s
  refine ⟨ts, ds, ?_⟩
  rw [Acc.replayReq] at hps
  simp only [execSideLogReplay, hf, hfirst, hheld, hacc, hps, hfill, bne_self_eq_false, Option.isSome_none, Bool.or_self, Bool.false_eq_true, if_false]

end Sys2Proof.Machine
end

section
/-! THEOREMS. Completed loads, acknowledged stores and replayed entries of the side log. -/

open Sys2Proof Sys2Proof.Machine

/-- Settles O33: each event, in a state that enables it, updates the thread and a few lists, in closed form; the thread's new registers are read off what a
received load writes. -/
theorem completionEvents : Obligations.CompletionEvents := by
  refine ⟨fun s a t ha hdone hparts ht hst => ⟨fun hc hfut hlocq htan _ hb hl hd => ?load, fun hc => ?store⟩,
    fun s e ps hf hheld hacc hfirst hps => ?replay⟩
  case load =>
    obtain ⟨os, h⟩ := execLoadComplete_done ha hdone hparts hc hfut htan
    obtain ⟨hload, hdst, hrest, hpreds, hpc⟩ := Thread.receive_load (poison := a.poison) hst hc hlocq hb hl hd
    exact ⟨_, _, h, State.thread?_updThread_self _ ht, hload, hdst, hrest, hpreds, hpc, State.sameMemory_of_copies rfl rfl rfl rfl rfl, acc?_filter_ne s a.id⟩
  case store =>
    obtain ⟨os, h⟩ := execStoreAck_done ha hdone hparts hc
    exact ⟨_, _, h, State.thread?_updThread_self _ ht, rfl, State.sameMemory_of_copies rfl rfl rfl rfl rfl, acc?_filter_ne s a.id, rfl⟩
  case replay =>
    obtain ⟨ts, ds, h⟩ := execSideLogReplay_translated hf hheld hacc hfirst hps
    exact ⟨_, h, rfl, rfl, State.sameMemory_of_copies rfl rfl rfl rfl rfl⟩
end

section
/-! SUPPORT. The start of a group (R19, R22, R23), its residence (R25, R294) and its end (R30). -/

namespace Sys2Proof.Machine

/-! ### A group at its start (R19, R22, R23) -/

theorem startUregs_getElem (args : List Word) {k : Nat} (hk : k < 64) :
    (startUregs args)[k] = if 1 ≤ k ∧ k ≤ 15 then args.getD (k - 1) 0 else 0 :=
  Vector.getElem_ofFn hk

theorem startUregs_getD (args : List Word) {k : Nat} (hk : k < 64) :
    (startUregs args).toList.getD k 0 = if 1 ≤ k ∧ k ≤ 15 then args.getD (k - 1) 0 else 0 := by
  rw [List.getD_eq_getElem?_getD, Vector.getElem?_toList, Vector.getElem?_eq_getElem hk, startUregs_getElem args hk]
  exact Option.getD_some ..
/-- A thread of a group at its start (R19). -/
def Span.startThread (x : Span) (cycle tid : Nat) : Thread :=
  { tid := tid, pc := { pkt := x.cbase + BitVec.ofNat 64 (12 * x.entry), slot := 0 }, waitSince := cycle }

theorem Span.group_threads (x : Span) (gid grp core slot cycle : Nat) (leaf : Option LeafInfo) :
    (x.group gid grp core slot cycle leaf).threads = (List.range x.gsz).map (x.startThread cycle) := rfl

theorem Span.group_thread? (x : Span) (gid grp core slot cycle : Nat) (leaf : Option LeafInfo) {tid : Nat} (h : tid < x.gsz) :
    (x.group gid grp core slot cycle leaf).thread? tid = some (x.startThread cycle tid) := by
  have hfind : (List.range x.gsz).find? (fun t => t == tid) = some tid := by
    rw [List.find?_range_eq_some]
    refine ⟨beq_self_eq_true tid, List.mem_range.mpr h, fun j hj => ?_⟩
    simpa using Nat.ne_of_lt hj
  rw [Group.thread?, Span.group_threads, List.find?_map]
  exact congrArg (Option.map _) hfind

theorem Span.startThread_reg (x : Span) (cycle tid : Nat) {n : Nat} (hn : n < 64) : (x.startThread cycle tid).reg n = 0 := by
  have hz : (Vector.replicate 64 (0 : Word))[n]?.getD 0 = 0 := by
    rw [Vector.getElem?_eq_getElem hn, Vector.getElem_replicate]
    rfl
  rw [Thread.reg]
  split
  · rfl
  · exact hz

theorem Span.startThread_pred (x : Span) (cycle tid : Nat) {p : Nat} (hp : 1 ≤ p) (hp8 : p < 8) : (x.startThread cycle tid).pred p = false := by
  have hone : (1 : BitVec 8).getLsbD p = false := by
    rw [show (1 : BitVec 8) = BitVec.ofNat 8 (2 ^ 0) from rfl, BitVec.getLsbD_ofNat, Nat.testBit_two_pow]
    simp [show ¬ 0 = p by omega]
  show (p == 0 || (1 : BitVec 8).getLsbD p) = false
  rw [hone, Bool.or_false]
  simpa using Nat.ne_of_gt hp

/-! ### Residence (R25, R294) -/

/-- The first waiting group of a core that fits, within its context's thread limit and past its start's writes, becomes resident. -/
theorem execGroupResident_fresh {s : State} {core rank since grp : Nat} {x : Span} {leaf : Option LeafInfo} {c : Context}
    (hw : s.firstWaiting core = some (rank, since, x, .fresh x.sid grp leaf)) (hc : s.ctx? x.asid = some c)
    (hlim : s.threadsOf x.asid + x.gsz ≤ c.thrlim) (hafter : x.after = 0 ∨ x.after < s.tsc)
    (hfits : s.fits core x.asid x.gsz x.alloc (declBytes x.tiles 0) (declBytes x.tiles 1) = true) :
    execGroupResident core s = .next ((s.makeResident x core grp leaf).liftAuto core x.asid) := by
  have hpast : (x.after == 0 || decide (x.after < s.tsc)) = true := by simpa using hafter
  simp only [execGroupResident, hw, hfits, hc, Option.map_some, Option.getD_some, hlim, hpast, decide_true, Bool.and_self, if_true]

/-- A group that declares no tiles changes, as it becomes resident, no more than the groups, the spans' deals and the next identifier. -/
theorem State.makeResident_no_tiles (s : State) {x : Span} (core grp : Nat) (leaf : Option LeafInfo) (ht : x.tiles = []) :
    s.makeResident x core grp leaf
      = ({ s.fresh with
          groups := s.groups ++ [{ x.group s.nextId grp core (s.freeGroupSlot core) s.cycle leaf with tslots := s.saveSlots x.asid x.gsz }] } : State).updSpan
        x.sid fun y => y.take core grp := by
  rw [State.makeResident, ht]
  rfl

/-! ### The end of a group (R30, R231) -/

theorem State.spanPast_iff (s : State) (y : Span) :
    s.spanPast y = true ↔ (y.gw < s.tsc ∨ y.gw = 0) ∧ (∀ w ∈ s.cwrites, w.result = true → w.sid ≠ y.sid) ∧ (∀ o ∈ s.owed, o.sid = y.sid → o.gw < s.tsc)
      ∧ ∀ a ∈ s.accs, a.gid ∉ y.killed := by
  simp only [State.spanPast, Bool.and_eq_true, Bool.or_eq_true, decide_eq_true_eq, beq_iff_eq, Bool.not_eq_true', List.any_eq_false, List.all_eq_true,
    bne_iff_ne, ne_eq, List.contains_iff_mem, not_and, and_assoc, or_iff_not_imp_left, not_not]

theorem State.timesPast_iff (s : State) (gid : Nat) : s.timesPast gid = true ↔ ∀ o ∈ s.owed, o.gid = gid → o.gw < s.tsc := by
  simp only [State.timesPast, List.all_eq_true, Bool.or_eq_true, bne_iff_ne, decide_eq_true_eq, or_iff_not_imp_left, ne_eq, not_not]

theorem State.resultsDone_iff (s : State) (g : Group) :
    s.resultsDone g = true ↔ ∀ y, s.span? g.sid = some y → y.ended + 1 < y.n ∨ s.spanPast y = true := by
  unfold State.resultsDone
  cases s.span? g.sid with
  | none => simp
  | some x => simp

/-- A group outside tandem mode whose threads have ended and whose operations and writes are done leaves its core. -/
theorem execGroupEnd_done {s : State} {gid : Nat} {g : Group} (hg : s.group? gid = some g) (hhold : g.hold = false) (hrole : g.role = .solo)
    (hthreads : ∀ t ∈ g.threads, t.st = .exited ∧ t.gw < s.tsc) (hquiet : s.quiet gid = true) (hdirty : s.dirtyTiles g = [])
    (htimes : s.timesPast gid = true) (hresults : s.resultsDone g = true) :
    execGroupEnd gid s
      = .next (((({ s with tandems := s.tandems.filter fun t => t.leader != gid } : State).dropGroup g).groupDone g.sid g.grp).serveEdges) := by
  have hexited : (g.threads.all fun t => t.st == .exited) = true := List.all_eq_true.mpr fun t ht => beq_iff_eq.mpr (hthreads t ht).1
  have hpast : (g.threads.all fun t => decide (t.gw < s.tsc)) = true := List.all_eq_true.mpr fun t ht => decide_eq_true (hthreads t ht).2
  have hpartner : s.partner? g = none := if_pos hrole
  simp only [execGroupEnd, hg, hpartner, hhold, hrole, hexited, hquiet, hdirty, hpast, htimes, hresults]
  rfl

end Sys2Proof.Machine
end

section
/-! THEOREMS. The state of a group at its start, and its residence and end. -/

open Sys2Proof Sys2Proof.Machine

/-- Settles O48: a group's start is read off its construction; the two events, under the conditions that enable them, are their closed forms. -/
theorem groupStartAndLife : Obligations.GroupStartAndLife := by
  refine ⟨fun x gid grp core slot cycle leaf tid => ⟨?count, fun k hk => startUregs_getD x.args hk, fun h => ?thread⟩,
    fun s core gid rank since grp x leaf c g => ⟨fun hw hc hlim hafter hfits hnone => ?resident, execGroupResident_fresh,
      fun hg hhold hrole hthreads hquiet hdirty howed hspan => ?leaves⟩⟩
  case count => rw [Span.group_threads, List.length_map, List.length_range]
  case thread =>
    exact ⟨_, x.group_thread? gid grp core slot cycle leaf h, rfl, rfl, fun n hn => x.startThread_reg cycle tid hn, Thread.pred_zero _,
      fun p hp hp8 => x.startThread_pred cycle tid hp hp8, rfl, rfl, rfl, rfl, rfl⟩
  case resident =>
    have h := execGroupResident_fresh hw hc hlim hafter hfits
    rw [State.makeResident_no_tiles s core grp leaf hnone] at h
    refine ⟨_, _, h, rfl, rfl, rfl, rfl, rfl, ?_, State.sameMemory_of_copies rfl rfl rfl rfl rfl⟩
    exact (List.length_map _).trans List.length_range
  case leaves =>
    refine execGroupEnd_done hg hhold hrole hthreads hquiet hdirty ((s.timesPast_iff gid).mpr howed) ((s.resultsDone_iff g).mpr fun y hy => ?_)
    exact (hspan y hy).imp_right (s.spanPast_iff y).mpr
end

section
/-! SUPPORT. USET, SYSV and LOCQ (R115-R118) in one thread, and what follows every word: which of the thread it leaves. -/

namespace Sys2Proof.Machine

theorem State.reportedCore_solo {s : State} {g : Group} (h : g.role = .solo) : s.reportedCore g = g.core :=
  if_neg (h ▸ nofun)

theorem execUset_one {c : BitVec 1} {d a : BitVec 6} {l : Lane} {s : State} (h : Issues (.uset c d a) l s) :
    Completes (.uset c d a) l s fun u => if s.issue.usetDone then u else
      { u.updGroup l.g.gid fun g => g.setUreg d.toNat (l.src.reg a.toNat) (l.src.anyPoison [a.toNat]) (l.src.poisonVa a.toNat) with
        issue := { u.issue with usetDone := true } } :=
  runWord_one h rfl

theorem execSysv_one {c : BitVec 1} {d : BitVec 6} {sel : BitVec 5} {l : Lane} {s : State} (h : Issues (.sysv c d sel) l s) (hr : l.g.role = .solo) :
    Completes (.sysv c d sel) l s fun u =>
      u.updLane l fun t => t.setGroup d.toNat (if sel.toNat = 11 then 2 else 1) ((s.advanced l).sysValue l.g l.cur.tid sel.toNat) :=
  runWord_one h (if_pos (.inl hr))

theorem dieHops_comm (a b : Nat) : dieHops a b = dieHops b a := by
  rw [dieHops, dieHops, Nat.add_comm b a]
  simp only [eq_comm]

theorem Thread.markPend_pend_eq_true (t : Thread) {rs : List Nat} {n : Nat} (hn : n < 64) (h0 : n ≠ 0) (h : n ∈ rs) :
    (t.markPend rs).pend.getLsbD n = true := by
  rw [Thread.markPend, BitVec.getLsbD_or, getLsbD_maskOf]
  simp [hn, h0, h]

/-- The access by which LOCQ's result comes (R117). -/
def Lane.locqAcc (l : Lane) (s : State) (d : BitVec 6) (va : Nat) : Acc :=
  { ({ kind := .locq, ea := va, size := 4, dst := d.toNat, dcnt := 1, need := {}, facc := 0, addrRegs := [] } : Req).toAcc l s with
    phase := .done, result := s.locqValue l.g.core l.g.asid va }

/-- LOCQ's destination pends, and its result is on its way. -/
def Lane.locqIssued (l : Lane) (d : BitVec 6) (va : Nat) (u : State) : State :=
  { u.updLane l fun t => t.markPend [d.toNat] with accs := u.accs ++ [l.locqAcc u d va], nextId := u.nextId + 1 }

/-- LOCQ writes nothing as it issues: its destination pends, and its result, as the translation stands, is on its way. -/
theorem execLocq_one {c : BitVec 1} {d a : BitVec 6} {l : Lane} {s : State} (h : Issues (.locq c d a) l s) (hr : l.g.role = .solo)
    (hc : l.consume [a.toNat, a.toNat + 1] = .ok false) :
    Completes (.locq c d a) l s (l.locqIssued d (l.src.group a.toNat 2)) := by
  have htan : ∀ sig, l.tandem (s.advanced l) sig = .ok .solo := fun _ => if_pos hr
  have hcount : ∀ t : Thread, t.countAccess l.g.role = t := fun _ => if_pos hr
  refine runWord_one h ?_
  simp only [hc, htan, hcount]
  rfl

/-- A thread once a word has acted in it for it alone: the effect, with poison settled, and but for what the arithmetic trap changes. -/
theorem State.thread?_settled {i : Instr} {l : Lane} {s u : State} {x : Thread} (hx : u.thread? s.issue.gid l.cur.tid = some x) :
    ∃ y, (u.settled i l s).thread? s.issue.gid l.cur.tid = some y ∧ y.sansTrap = (l.after i s x).sansTrap := by
  obtain ⟨f, hf, hs, -⟩ := State.thread?_arithTrap (u.updThread s.issue.gid l.cur.tid (l.after i s)) s.issue.gid l.cur.tid s.issue.gid l.cur.tid
  refine ⟨f (l.after i s x), ?_, hs _⟩
  rw [State.settled, hf, State.thread?_updThread_self _ hx, Option.map_some]
  exact congrArg (fun y => some (f y)) (Thread.tid_eta (l.after i s x) x.tid (Thread.settle_keeps ..).1)

theorem Lane.after_pend (l : Lane) (i : Instr) (s : State) (t : Thread) : (l.after i s t).pend = t.pend := by simp [Lane.after]

theorem Lane.after_reg (l : Lane) (i : Instr) (s : State) (t : Thread) (n : Nat) : (l.after i s t).reg n = t.reg n := by
  apply Thread.reg_congr <;> simp [Lane.after]

/-- What taking a trap changes of a thread is neither its registers nor which of them pend. -/
theorem Thread.eq_of_sansTrap {x y : Thread} (h : x.sansTrap = y.sansTrap) : x.pend = y.pend ∧ ∀ n, x.reg n = y.reg n := by
  unfold Thread.sansTrap at h
  injections
  exact ⟨by assumption, fun n => Thread.reg_congr (by assumption) (by assumption) (by assumption) n⟩

theorem State.sameButThreads.accs {s t : State} (h : s.sameButThreads t) : t.accs = s.accs := by
  unfold State.sameButThreads at h
  have haccs := congrArg State.accs h
  exact haccs

theorem State.sameButThreads.sameMemory {s t : State} (h : s.sameButThreads t) : s.sameMemory t := ⟨h.physByte, h.sameCells.2⟩

theorem State.sameMemory_trans {s t u : State} (h : s.sameMemory t) (k : t.sameMemory u) : s.sameMemory u :=
  ⟨fun a => (k.1 a).trans (h.1 a), k.2.trans h.2⟩

theorem State.thread?_updLane_advanced {s : State} {l : Lane} (h : s.lane? l.cur.tid = some l) (f : Thread → Thread) :
    ((s.advanced l).updLane l f).thread? s.issue.gid l.cur.tid = some { f (l.cur.advance s.issue) with tid := l.cur.tid } := by
  obtain ⟨hcur, hgid, -⟩ := State.lane?_some h
  rw [State.updLane, hgid]
  exact State.thread?_updThread_self f (State.thread?_updThread_self (fun t => t.advance s.issue) hcur)

end Sys2Proof.Machine
end

section
/-! THEOREMS. The uniform-register, system-value and locality words. -/

open Sys2Proof Sys2Proof.Machine

/-- Settles O19: each word of one thread completes with its effect; what LOCQ leaves of its thread outlives what follows every word, since poison and
the arithmetic trap touch neither registers nor which of them pend. -/
theorem systemAndUniformWords : Obligations.SystemAndUniformWords := by
  intro c d a sel s l
  refine ⟨fun h hnot hd => ?uset, fun h hnot hd => ?s0, fun h hdone => ?again, fun h hr => ?sysv, fun h hr hc => ?locq⟩
  case uset =>
    have hn : d.toNat ≠ 0 := fun h0 => hd (BitVec.eq_of_toNat_eq h0)
    have hx := execUset_one h
    simp only [hnot, Bool.false_eq_true, if_false, Group.setUreg, if_neg hn] at hx
    exact hx
  case s0 =>
    have hx := execUset_one h
    rw [hd] at hx ⊢
    simp only [hnot, Bool.false_eq_true, if_false] at hx
    exact hx
  case again =>
    have hx := execUset_one h
    simp only [hdone, if_true] at hx
    exact hx
  case sysv =>
    have hx := execSysv_one h hr
    unfold State.sysValue at hx
    rw [State.reportedCore_solo hr] at hx
    exact hx
  case locq =>
    have hx := execLocq_one h hr hc
    obtain ⟨-, hlane, -⟩ := h
    obtain ⟨y, hy, hsans⟩ := State.thread?_settled (i := .locq c d a) (u := l.locqIssued d (l.src.group a.toNat 2) (s.advanced l))
      (State.thread?_updLane_advanced hlane fun t => t.markPend [d.toNat])
    obtain ⟨hpend, hreg⟩ := Thread.eq_of_sansTrap hsans
    refine ⟨_, _, hx, (State.settled_same ..).accs, rfl, rfl, rfl, rfl, rfl, ?_,
      State.sameMemory_trans (State.sameMemory_of_copies rfl rfl rfl rfl rfl) (State.settled_same ..).sameMemory, y, hy, ?_, fun n => ?_⟩
    · show (s.advanced l).locqValue l.g.core l.g.asid (l.src.group a.toNat 2) = _
      unfold State.locqValue
      dsimp only
      rw [dieHops_comm]
      rfl
    · by_cases h0 : d = 0
      · exact .inl h0
      · refine .inr ?_
        rw [hpend, Lane.after_pend]
        exact Thread.markPend_pend_eq_true _ d.isLt (fun h => h0 (BitVec.eq_of_toNat_eq h)) (List.mem_singleton.mpr rfl)
    · rw [hreg, Lane.after_reg]
      rfl
end

section
/-! SUPPORT. The moves that the agenda names, and the device's own (R26, log 4). -/

namespace Sys2Proof.Machine

theorem portFirst_of_no_read {i : Instr} (h : ∀ p n, i ≠ .semaphoreRead p n) (rest : List Move) : portFirst i rest = .event i :: rest := by
  unfold portFirst
  split
  · exact absurd rfl (h _ _)
  · rfl

/-- Port 1's read goes before another port's that stands right before it (R358). -/
theorem portFirst_portOneRead {p : Nat} (hp : p ≠ 1) (n k : Nat) (rest : List Move) :
    portFirst (.semaphoreRead p n) (.event (.semaphoreRead 1 k) :: rest) = .event (.semaphoreRead 1 k) :: .event (.semaphoreRead p n) :: rest := by
  have hfind : ((Move.event (.semaphoreRead 1 k) :: rest).takeWhile Move.sameTick).find? Move.portOneRead = some (.event (.semaphoreRead 1 k)) := rfl
  simp only [portFirst, if_neg hp, hfind, List.erase_cons_head]

theorem State.spare_of_idle {s : State} (hslack : s.slack = none) (hage : s.ageing = []) (n : Nat) : s.spare n = n := by
  simp only [State.spare, hslack, State.untilAge, hage]
  rfl

theorem step_of_move {s t : State} (h : s.move exec = .next t) : step s = .next t.follow := by
  rw [step, h]
  rfl

theorem State.move_of_event {s : State} {ex : Instr → State → Res} {i : Instr} {rest : List Move} (h : ordered s.agenda = .event i :: rest) :
    s.move ex = ({ s with agenda := rest } : State).eventNow ex i := by
  rw [State.move, h]

theorem State.move_of_wait {s : State} {ex : Instr → State → Res} {n : Nat} {rest : List Move} (h : s.agenda = .wait n :: rest) :
    s.move ex = ({ s with agenda := rest } : State).waitMove ex n := by
  rw [State.move, h]
  rfl

theorem State.move_of_cycle {s : State} {ex : Instr → State → Res} {rest : List Move} (h : s.agenda = .cycle :: rest) :
    s.move ex = ({ s with agenda := rest } : State).cycleMove ex := by
  rw [State.move, h]
  rfl

theorem State.move_of_issue {s : State} {ex : Instr → State → Res} {c q : Nat} {rest : List Move} (h : s.agenda = .issue c q :: rest) :
    s.move ex = ({ s with agenda := rest } : State).issueNow ex c q := by
  rw [State.move, h]
  rfl

theorem State.move_of_nil {s : State} {ex : Instr → State → Res} (h : s.agenda = []) : s.move ex = s.ownMove ex := by
  rw [State.move, h]
  rfl

/-- A wait passes the ticks that can be spared, where any can or none is asked for. -/
theorem State.waitMove_spare {s : State} {ex : Instr → State → Res} {n : Nat} (h : 0 < s.spare n ∨ n = 0) :
    s.waitMove ex n = .next (restOfWait n s.tsc (s.ticks (s.spare n))) := by
  refine if_neg fun hz => ?_
  obtain ⟨h0, hn⟩ : s.spare n = 0 ∧ n ≠ 0 := by simpa using hz
  omega

end Sys2Proof.Machine
end

section
/-! THEOREMS. A step takes what the agenda names. -/

open Sys2Proof Sys2Proof.Machine

/-- Settles O57: the first of the agenda, in the order in which it acts, selects the branch of the move. -/
theorem stepTakesAgenda : Obligations.StepTakesAgenda := by
  intro s i n k p rest t
  refine ⟨fun h he => ?event, fun h hno => ?noRead, fun hp h => ?portOne, fun hslack hage => State.spare_of_idle hslack hage n, fun h hn => ?wait,
    fun h => ?cycle, fun h ht => ?own, fun h hnone hidle => ?idle⟩
  case event =>
    rw [step, State.move_of_event h, State.eventNow, if_pos he]
    rfl
  case noRead =>
    rw [h]
    exact portFirst_of_no_read hno rest
  case portOne =>
    rw [h]
    exact portFirst_portOneRead hp n k rest
  case wait =>
    rw [step_of_move ((State.move_of_wait h).trans (State.waitMove_spare hn))]
    rfl
  case cycle =>
    rw [step, State.move_of_cycle h]
    rfl
  case own =>
    refine step_of_move ((State.move_of_nil h).trans ?_)
    rw [State.ownMove, ht]
  case idle =>
    refine step_of_move ((State.move_of_nil h).trans ?_)
    rw [State.ownMove, hnone]
    exact if_neg (hidle ▸ nofun)
end

section
/-! SUPPORT. The issue of a chain of one word (R36, R39), and the bytes of a packet. -/

namespace Sys2Proof.Machine

/-! ### A chain of one word -/

theorem isNop_singleton (w : Word) : isNop [w] = (w == 0) := by
  rw [isNop, List.cons_beq_cons]
  exact Bool.and_true _

/-- A pack whose chain is one word that decodes issues as the word's meaning. -/
theorem issuePack_singleton (ex : Instr → State → Res) (ill : Word → State → Res) (flush : Flush) (core q : Nat) (g : Group) (x : Thread) (xs : List Thread)
    (s : State) {w : Word} {i : Instr} (hw : chainFrom (x.packet.drop x.pc.slot) = [w]) (hi : decode w.toNat = some i) :
    issuePack ex ill flush core q g (x :: xs) s
      = match ex i { s.notePipes core q (xs.length + 1) [w] with issue :=
          { gid := g.gid, pack := (x :: xs).map (·.tid), tids := (x :: xs).map (·.tid), pc0 := x.pc, next := x.pc.after 1, slot := x.pc.slot
            usnap := some (g.uregs, g.upoison) } } with
        | .next u => .next ((flush u).afterIssue (w == 0))
        | r => r := by
  have hchain : x.chain = [w] := hw
  have hdecode : ([w].mapM fun w => decode w.toNat) = some [i] := by simp [hi]
  simp only [issuePack, issueChain, hw, hchain, hdecode, isNop_singleton, List.length_cons, List.length_nil]
  generalize ex i _ = r
  cases r <;> rfl

/-- A quarter that the agenda issues alone, while no thread has waited out its bound: the issue of the threads whose chains can issue once
they have their packets. -/
theorem State.issueNow_ready {s s1 : State} {ex : Instr → State → Res} {core q : Nat} {g : Group} {t : Thread} {ts : List Thread} {x : Thread}
    {xs : List Thread} (hp : s.pressed = false) (hpack : s.packOf core q [] true = some (g, t :: ts))
    (hs1 : s1 = (((t :: ts).filter fun x => x.packet.isEmpty).foldl (fun s x => s.fetch g.gid x.tid) s).updCore core fun c => { c with passed := setAt c.passed q 0 })
    (hready : (s1.stillReady g.gid t.pc ((t :: ts).map (·.tid))).filter (s1.chainFree core q []) = x :: xs) :
    s.issueNow ex core q = afterPack (isNop x.chain) (issuePack ex execNotAnInstruction flushPack core q g (x :: xs) s1) := by
  subst hs1
  rw [State.issueNow, hp]
  simp only [issueQuarter, hpack, List.head?_cons, Option.map_some, Option.getD_some, hready]
  rfl

/-! ### The bytes of a packet (R36) -/

theorem bytesToNat_digit (bs : List Byte) (j : Nat) : bytesToNat bs / 256 ^ j % 256 = (bs.getD j 0).toNat := by
  induction bs generalizing j with
  | nil => simp [bytesToNat]
  | cons b bs ih =>
    have hb := b.isLt
    rw [bytesToNat]
    cases j with
    | zero => rw [Nat.pow_zero, Nat.div_one, List.getD_cons_zero]; omega
    | succ j =>
      have hdiv : (b.toNat + 256 * bytesToNat bs) / 256 = bytesToNat bs := by omega
      rw [Nat.pow_succ', ← Nat.div_div_eq_div_mul, hdiv, ih, List.getD_cons_succ]

/-- Byte j of word k of some bytes, four to a word, is byte 4k + j of them. -/
theorem natToWords_bytesToNat_digit (bs : List Byte) {n k j : Nat} (hk : k < n) (hj : j < 4) :
    ((natToWords n (bytesToNat bs)).getD k 0).toNat / 256 ^ j % 256 = (bs.getD (4 * k + j) 0).toNat := by
  have hword : 2 ^ 32 = 256 ^ j * 256 * 256 ^ (3 - j) := by
    rw [← Nat.pow_succ, ← Nat.pow_add, show j + 1 + (3 - j) = 4 by omega]
    norm_num
  have hbase : 2 ^ (32 * k) = 256 ^ (4 * k) := by
    rw [show (256 : Nat) = 2 ^ 8 from rfl, ← Nat.pow_mul]
    congr 1
    omega
  rw [natToWords_getD _ hk, BitVec.toNat_ofNat, hbase, ← bytesToNat_digit, Nat.pow_add, ← Nat.div_div_eq_div_mul, hword, Nat.mul_assoc,
    Nat.mod_mul_right_div_self, Nat.mod_mul_right_mod]

theorem State.physBytes_getD (s : State) (pa : Nat) {n k : Nat} (h : k < n) : (s.physBytes pa n).getD k 0 = s.physByte (pa + k) := by
  have hlen : k < (s.physBytes pa n).length := by rwa [State.physBytes, List.length_map, List.length_range]
  rw [List.getD_eq_getElem _ _ hlen]
  simp [State.physBytes]

/-- The packet of an address that is reached in one piece of device memory: the three words of its twelve bytes. -/
theorem State.fetchPacket_device {s : State} {g : Group} {va : Nat} {x : Trans} (h : s.reach g.core (coreDie g.core) g.asid va 12 { x := true } = .ok [(x, 12)])
    (hhost : x.host = none) (hdev : x.dev = false) : s.fetchPacket g va = .ok (natToWords 3 (bytesToNat (s.physBytes x.pa 12))) := by
  simp only [State.fetchPacket, h, List.flatMap_cons, List.flatMap_nil, List.append_nil, State.readTrans, hhost, hdev, Bool.false_eq_true, if_false]

end Sys2Proof.Machine
end

section
/-! THEOREMS. A step that issues runs the word that the packet decodes to. -/

open Sys2Proof Sys2Proof.Machine

/-- Settles O56: a chain of one word issues as the word's meaning, and the step that issues one quarter is that issue. -/
theorem stepRunsDecodedWord : Obligations.StepRunsDecodedWord := by
  refine ⟨fun s core q g x xs w i hw hi => ?issue, fun s core q rest g t ts x xs w i hagenda hpressed hpack hready hw hi => ?step,
    fun s g va x hreach hhost hdev => ?packet⟩
  case issue => exact issuePack_singleton exec execNotAnInstruction flushPack core q g x xs s hw hi
  case step =>
    have hchain : x.chain = [w] := hw
    rw [step, State.move_of_issue hagenda, State.issueNow_ready hpressed hpack rfl hready, issuePack_singleton _ _ _ _ _ _ _ _ _ hw hi, hchain, isNop_singleton]
    dsimp only
    generalize exec i _ = r
    cases r with
    | next u =>
      by_cases h : w = 0
      · simp only [h, if_true]
        rfl
      · simp only [beq_false_of_ne h, if_neg h]
        rfl
    | _ => rfl
  case packet =>
    refine ⟨_, State.fetchPacket_device hreach hhost hdev, natToWords_length 3 _, fun k hk j hj => ?_⟩
    rw [natToWords_bytesToNat_digit _ hk hj, State.physBytes_getD _ _ (by omega), Nat.add_assoc]
end

section
/-! SUPPORT. What the event of each kind of command record does once its command is started (R293, R302, R311, R325, R338, R361). -/

namespace Sys2Proof.Machine

/-! ### Launch records -/

/-- A launch record whose launch is judged: the command has been dispatched, and comes to what the launch comes to. -/
theorem launchRecord_judged {s : State} {q op : Nat} {x : Queue} {b : List Byte} {n : Nat} {r : Launched} {k : Kept} (h : s.started q op = some (x, b, n))
    (hnow : s.startedNow = false) (halign : fld b 8 8 % 64 = 0)
    (hr : s.tryLaunch x.asid x.dead (fld b 8 8) (some (op == 2)) [] x.kept = .ok (r, k)) (hw : ∀ root, r ≠ .waits root) :
    launchRecord q op s = .next ((s.dispatched q n).launchOutcome x.asid q (fld b 0 2) x.prio (some n) (fld b 8 8) r) := by
  simp only [launchRecord, h, hnow, halign, hr]
  cases r with
  | waits root => exact absurd rfl (hw root)
  | _ => rfl

/-- A launch record that waits for a sweep keeps what it has read. -/
theorem launchRecord_waits {s : State} {q op : Nat} {x : Queue} {b : List Byte} {n : Nat} {root : DWord} {k : Kept} (h : s.started q op = some (x, b, n))
    (hnow : s.startedNow = false) (halign : fld b 8 8 % 64 = 0)
    (hr : s.tryLaunch x.asid x.dead (fld b 8 8) (some (op == 2)) [] x.kept = .ok (.waits root, k)) :
    launchRecord q op s = if x.kept = k then notEnabled else .next (s.updQueue q fun y => { y with kept := k }) := by
  simp only [launchRecord, h, hnow, halign, hr]
  rfl

theorem execLaunchCommand_record {s : State} {q : Nat} {r : Queue × List Byte × Nat} (h : s.started q 1 = some r) :
    execLaunchCommand q s = launchRecord q 1 s := by
  rw [execLaunchCommand, h]

/-- A LAUNCH word whose queue is not bound to its context is judged at once. -/
theorem execLaunchCommand_unboundWord {s : State} {q : Nat} {r : LaunchReq} (h : s.started q 1 = none) (hw : s.startableWord q = some (r, none))
    (hnow : s.startedNow = false) : execLaunchCommand q s = .next (s.launchWord r) := by
  simp only [execLaunchCommand, h, hw, hnow]
  rfl

/-- A LAUNCH word whose queue is served next is judged in that queue's turn. -/
theorem execLaunchCommand_queueWord {s : State} {q : Nat} {r : LaunchReq} {y : Queue} (h : s.started q 1 = none) (hw : s.startableWord q = some (r, some y))
    (hnow : s.startedNow = false) : execLaunchCommand q s = .next ((s.servedQueue y).launchWord r) := by
  simp only [execLaunchCommand, h, hw, hnow]
  rfl

/-- A started launch record of either operation is carried out by its event. -/
theorem exec_launchRecord {s : State} {q op : Nat} {i : Instr} {r : Queue × List Byte × Nat}
    (hi : (op = 1 ∧ i = .launchCommand q) ∨ (op = 2 ∧ i = .launchLeaf q)) (h : s.started q op = some r) : exec i s = launchRecord q op s := by
  obtain ⟨rfl, rfl⟩ | ⟨rfl, rfl⟩ := hi
  · exact execLaunchCommand_record h
  · rfl

/-! ### Copies, releases, waits and fences -/

theorem execCopyCommand_started {s : State} {q : Nat} {x : Queue} {b : List Byte} {n : Nat} (h : s.started q 4 = some (x, b, n)) :
    execCopyCommand q s = .next (s.handCopy x b n false) := by
  rw [execCopyCommand, h]

theorem execRelease_started {s : State} {q : Nat} {x : Queue} {b : List Byte} {n : Nat} (h : s.started q 6 = some (x, b, n)) (hx : x.release = none) :
    execRelease q s = .next (if s.tsc < fld b 0x10 8 then s.updQueue q fun y => { y with release := some (fld b 0x10 8) }
      else s.handCopy x b n (decide (fld b 0x10 8 < s.tsc))) := by
  simp only [execRelease, h, hx]
  by_cases ht : s.tsc < fld b 0x10 8
  · simp [ht]
  · simp [ht]

theorem execReleaseTime_started {s : State} {q : Nat} {x : Queue} {b : List Byte} {n t : Nat} (h : s.started q 6 = some (x, b, n)) (hx : x.release = some t)
    (ht : t ≤ s.tsc) : execReleaseTime q s = .next (s.handCopy x b n false) := by
  simp only [execReleaseTime, h, hx, ht, if_true]

theorem bytesToNat_lt (bs : List Byte) : bytesToNat bs < 256 ^ bs.length := by
  induction bs with
  | nil => exact Nat.one_pos
  | cons b bs ih =>
    have hb := b.isLt
    rw [bytesToNat, List.length_cons, Nat.pow_succ]
    omega

theorem fld_lt (bs : List Byte) (off n : Nat) : fld bs off n < 256 ^ n :=
  Nat.lt_of_lt_of_le (bytesToNat_lt _) (Nat.pow_le_pow_right (by decide) (List.length_take_le _ _))

/-- The monitor entry of a WAITWORD record (R293). -/
def waitwordMonitor (s : State) (q : Nat) (x : Queue) (b : List Byte) (y : Trans) : Monitor :=
  { id := s.nextId, asid := x.asid, die := y.home, slice := homeSlice (y.pa / 128), pa := y.pa, va := BitVec.ofNat 64 (fld b 8 8)
    wide := bits (fld b 0x18 8) 3 1 == 1, cmp := bits (fld b 0x18 8) 0 3, opnd := BitVec.ofNat 64 (fld b 0x10 8), timeout := 0, who := .queue q }

/-- A WAITWORD record on a word of device memory that is no future enters its monitor entry. -/
theorem execWaitword_started {s : State} {q : Nat} {x : Queue} {b : List Byte} {n m : Nat} {y : Trans} {r : List (Trans × Nat)}
    (h : s.started q 5 = some (x, b, n))
    (ht : s.translateAll ctlUnit 0 x.asid (fld b 8 8) (if bits (fld b 0x18 8) 3 1 = 1 then 8 else 4) { r := true } = .ok ((y, m) :: r))
    (hhost : y.host = none) (hdev : y.dev = false) (hfut : y.fut = false) :
    execWaitword q s = .next (({ s.fresh with monitors := s.monitors ++ [waitwordMonitor s q x b y] } : State).updQueue q fun x =>
      { x with record := none, dead := [], kept := [] }) := by
  simp only [execWaitword, h, beq_iff_eq, ht, hhost, hdev, hfut]
  rfl

/-- A queue's monitor entry that wakes completes the queue's first WAITWORD command that stands. -/
theorem State.wakeMonitor_queue {s : State} {q : Nat} {x : Queue} {m : Monitor} {c : CmdRec} (hm : m.who = .queue q) (hx : s.queue? q = some x)
    (hc : (x.cmds.find? fun c => c.op == 5 && !c.complete) = some c) :
    s.wakeMonitor m 0 = ({ s with monitors := s.monitors.filter fun y => y.id != m.id } : State).queueCmdDone q c.n := by
  have hq : ({ s with monitors := s.monitors.filter fun y => y.id != m.id } : State).queue? q = some x := hx
  simp only [State.wakeMonitor, hm, hq, hc]

theorem execFenceCommand_started {s : State} {q : Nat} {x : Queue} {b : List Byte} {n : Nat} (h : s.started q 8 = some (x, b, n))
    (hdone : ∀ c ∈ x.cmds, c.n = n ∨ c.complete = true) : execFenceCommand q s = .next ((s.dispatched q n).queueCmdDone q n) := by
  have hall : (x.cmds.all fun c => c.n == n || c.complete) = true := by simpa [List.all_eq_true] using hdone
  simp only [execFenceCommand, h, hall, if_true]

theorem execCollCommand_started {s : State} {q : Nat} {x : Queue} {b : List Byte} {n : Nat} (h : s.started q 7 = some (x, b, n)) :
    execCollCommand q s = .next ((s.makeLink none x.asid 0 (fld b 4 1) (fld b 5 1) (natToWords 8 (fld b 0x20 32)) false (some (q, n))).2.dispatched q n) := by
  rw [execCollCommand, h]

end Sys2Proof.Machine
end

section
/-! SUPPORT. How the groups of a launch are dealt: by turns over a rectangle's cores (R29), and by the homes of leaves (R303). -/

namespace Sys2Proof.Machine

/-! ### A rectangle's groups (R29) -/

/-- In a list of keys without repetition a key is found with what stands at its place. -/
theorem find?_zip_of_nodup {α : Type} {ks : List Nat} {vs : List α} (hn : ks.Nodup) {j k : Nat} {v : α} (hk : ks[j]? = some k) (hv : vs[j]? = some v) :
    (ks.zip vs).find? (fun p => p.1 == k) = some (k, v) := by
  induction ks generalizing vs j with
  | nil => cases hk
  | cons a ks ih =>
    obtain ⟨hnot, hn⟩ := List.nodup_cons.mp hn
    cases vs with
    | nil => cases hv
    | cons b vs =>
      cases j with
      | zero =>
        cases hk
        cases hv
        exact List.find?_cons_of_pos (beq_self_eq_true _)
      | succ j =>
        rw [List.getElem?_cons_succ] at hk hv
        have hne : a ≠ k := fun h => hnot (h ▸ List.mem_of_getElem? hk)
        rw [List.zip_cons_cons, List.find?_cons_of_neg (by simpa using hne)]
        exact ih hn hk hv

theorem zip_map_zip {α : Type} (ks : List Nat) (vs : List α) (g : Nat × α → α) :
    ks.zip ((ks.zip vs).map g) = (ks.zip vs).map fun p => (p.1, g p) := by
  induction ks generalizing vs with
  | nil => rfl
  | cons k ks ih =>
    cases vs with
    | nil => rfl
    | cons v vs => simp [ih]

theorem Span.nextFor_rect {x : Span} {cores next : List Nat} (h : x.deal = .rect cores next) (core : Nat) :
    x.nextFor core = ((cores.zip next).find? fun p => p.1 == core).bind fun p => if p.2 < x.n then some (p.2, none) else none := by
  simp only [Span.nextFor, h]
  cases (cores.zip next).find? fun p => p.1 == core <;> rfl

/-- The number of a core's next group once one has been taken from its deal: a whole round further (R29). -/
def Span.takenNext (cores : List Nat) (core : Nat) (p : Nat × Nat) : Nat := if p.1 = core then p.2 + cores.length else p.2

theorem Span.nextFor_take {x : Span} {cores next : List Nat} (h : x.deal = .rect cores next) (core grp other : Nat) :
    (x.take core grp).nextFor other = ((cores.zip next).find? fun p => p.1 == other).bind fun p =>
      if Span.takenNext cores core p < x.n then some (Span.takenNext cores core p, none) else none := by
  have hdeal : (x.take core grp).deal = .rect cores ((cores.zip next).map (Span.takenNext cores core)) := by
    rw [Span.take, h]
    rfl
  have hn : (x.take core grp).n = x.n := by
    rw [Span.take, h]
  rw [Span.nextFor_rect hdeal, zip_map_zip, List.find?_map, hn]
  cases hf : (cores.zip next).find? ((fun p => p.1 == other) ∘ fun p => (p.1, Span.takenNext cores core p)) with
  | none =>
    have hf' : (cores.zip next).find? (fun p => p.1 == other) = none := hf
    rw [hf']
    rfl
  | some p =>
    have hf' : (cores.zip next).find? (fun p => p.1 == other) = some p := hf
    rw [hf']
    rfl

/-- A rectangle's deal: core j of the list gets group j, then group j and as many further as the list is long, and no other core's next
group changes with it. -/
theorem Span.deals_in_turn {x : Span} {cores : List Nat} (h : x.deal = .rect cores (List.range cores.length)) (hn : cores.Nodup) {j core : Nat}
    (hj : cores[j]? = some core) :
    (j < x.n → x.nextFor core = some (j, none)) ∧ (j + cores.length < x.n → (x.take core j).nextFor core = some (j + cores.length, none))
      ∧ ∀ other, other ≠ core → (x.take core j).nextFor other = x.nextFor other := by
  have hlen : j < cores.length := (List.getElem?_eq_some_iff.mp hj).1
  have hfind : (cores.zip (List.range cores.length)).find? (fun p => p.1 == core) = some (core, j) :=
    find?_zip_of_nodup hn hj (List.getElem?_range hlen)
  refine ⟨fun hx => ?_, fun hx => ?_, fun other hother => ?_⟩
  · rw [Span.nextFor_rect h, hfind]
    exact if_pos hx
  · have htaken : Span.takenNext cores core (core, j) = j + cores.length := if_pos rfl
    rw [Span.nextFor_take h, hfind, Option.bind_some, htaken, if_pos hx]
  · rw [Span.nextFor_take h, Span.nextFor_rect h]
    cases hf : (cores.zip (List.range cores.length)).find? fun p => p.1 == other with
    | none => rfl
    | some p =>
      have hp : p.1 = other := by simpa using List.find?_some hf
      have htaken : Span.takenNext cores core p = p.2 := if_neg (hp ▸ hother)
      rw [Option.bind_some, Option.bind_some, htaken]

/-! ### The groups of leaves (R303) -/

/-- The die by whose cores a leaf's group is dealt: the home of the leaf's page, 0 where it has none (R303). -/
def State.leafHome (s : State) (asid : Nat) (y : LeafSlot) : Nat :=
  match s.translate ctlUnit 0 asid y.va {} with
  | .ok t => if t.host.isSome || t.dev then 0 else t.home
  | .error _ => 0

/-- The core that a leaf's group goes to (R303). -/
def State.leafCore (s : State) (asid : Nat) (cores : List Nat) (y : LeafSlot) (ch : List Nat) (cx : Nat) : Nat :=
  let near := cores.filter fun c => coreDie c == s.leafHome asid y
  if near.isEmpty then cores.getD (cx % cores.length) 0 else near.getD (ch.getD (s.leafHome asid y) 0 % near.length) 0

theorem State.dealLeaves_head? (s : State) (asid : Nat) (root : DWord) (cores : List Nat) (y : LeafSlot) (ys : List LeafSlot) (ch : List Nat) (cx g : Nat) :
    (s.dealLeaves asid root cores (y :: ys) ch cx g).head?
      = some (s.leafCore asid cores y ch cx, g,
          { root := root, slot := y.slot, x := BitVec.ofInt 32 y.o.x, y := BitVec.ofInt 32 y.o.y, z := BitVec.ofInt 32 y.o.z }) := by
  rw [State.dealLeaves, State.leafCore]
  change (if (cores.filter fun c => coreDie c == s.leafHome asid y).isEmpty = true then _ else _ : List _).head? = some (ite _ _ _, _)
  split <;> rfl

theorem getElem?_mod {l : List Nat} (h : l ≠ []) (n : Nat) : l[n % l.length]? = some (l.getD (n % l.length) 0) := by
  have hlt : n % l.length < l.length := Nat.mod_lt _ (List.length_pos_iff.mpr h)
  rw [List.getElem?_eq_getElem hlt, List.getD_eq_getElem _ _ hlt]

theorem State.leafHome_device {s : State} {asid : Nat} {y : LeafSlot} {a : Trans} (h : s.translate ctlUnit 0 asid y.va {} = .ok a) (hhost : a.host = none)
    (hdev : a.dev = false) : s.leafHome asid y = a.home := by
  simp only [State.leafHome, h, hhost, hdev]
  rfl

/-- Where the leaf's home die has cores in the list, that die's counter picks one of them. -/
theorem State.leafCore_near {s : State} {asid : Nat} {cores : List Nat} {y : LeafSlot} (ch : List Nat) (cx : Nat) {d : Nat} (hd : s.leafHome asid y = d)
    (hnear : (cores.filter fun c => coreDie c == d) ≠ []) :
    (cores.filter fun c => coreDie c == d)[ch.getD d 0 % (cores.filter fun c => coreDie c == d).length]? = some (s.leafCore asid cores y ch cx) := by
  rw [getElem?_mod hnear, State.leafCore, hd]
  exact congrArg some (if_neg (by simpa using hnear)).symm

/-- Where the list has no core of the leaf's home die, the other counter picks one of the whole list. -/
theorem State.leafCore_far {s : State} {asid : Nat} {cores : List Nat} {y : LeafSlot} (ch : List Nat) (cx : Nat) (hne : cores ≠ [])
    (hfar : ∀ c ∈ cores, coreDie c ≠ s.leafHome asid y) : cores[cx % cores.length]? = some (s.leafCore asid cores y ch cx) := by
  have hnone : (cores.filter fun c => coreDie c == s.leafHome asid y) = [] := by simpa [List.filter_eq_nil_iff] using hfar
  rw [getElem?_mod hne, State.leafCore, hnone]
  rfl

/-- A leaf that lies in host memory or in the device page, or does not translate, has no home die. -/
theorem State.leafHome_far {s : State} {asid : Nat} {y : LeafSlot} {cores : List Nat}
    (hdev : ∀ a, s.translate ctlUnit 0 asid y.va {} = .ok a → a.host = none → a.dev = false → ∀ c ∈ cores, coreDie c ≠ a.home)
    (hzero : ∀ c ∈ cores, coreDie c ≠ 0) : ∀ c ∈ cores, coreDie c ≠ s.leafHome asid y := by
  cases ht : s.translate ctlUnit 0 asid y.va {} with
  | error e =>
    have h0 : s.leafHome asid y = 0 := by rw [State.leafHome, ht]
    rwa [h0]
  | ok a =>
    by_cases hout : (a.host.isSome || a.dev) = true
    · have h0 : s.leafHome asid y = 0 := by simp only [State.leafHome, ht, hout, if_true]
      rwa [h0]
    · obtain ⟨hhost, hd⟩ : a.host = none ∧ a.dev = false := by simpa using hout
      rw [State.leafHome_device ht hhost hd]
      exact hdev a ht hhost hd

end Sys2Proof.Machine
end

section
/-! SUPPORT. How a launch is read (R325) and judged (R326). -/

namespace Sys2Proof.Machine

/-! ### Reads of a command -/

theorem CpM.bind_of_ok {α β : Type} {x : CpM α} {f : α → CpM β} {k k1 : Kept} {a : α} (h : x k = .ok (a, k1)) : (x >>= f) k = f a k1 := by
  show (x k >>= fun r => f r.1 r.2) = f a k1
  rw [h]
  rfl

theorem CpM.exists_of_bind_ok {α β : Type} {x : CpM α} {f : α → CpM β} {k : Kept} {r : β × Kept} (h : (x >>= f) k = .ok r) :
    ∃ a k1, x k = .ok (a, k1) ∧ f a k1 = .ok r := by
  have h : Except.bind (x k) (fun r => f r.1 r.2) = .ok r := h
  cases hx : x k with
  | error e =>
    rw [hx] at h
    cases h
  | ok a =>
    rw [hx] at h
    exact ⟨a.1, a.2, rfl, h⟩

/-- A run goes on after a read that only one of two cases makes. -/
theorem CpM.exists_of_ite_bind_ok {α β : Type} {c : Prop} [Decidable c] {x y : CpM α} {f : α → CpM β} {k : Kept} {r : β × Kept}
    (h : (if c then x >>= f else y >>= f) k = .ok r) : ∃ a k1, f a k1 = .ok r := by
  by_cases hc : c
  · rw [if_pos hc] at h
    obtain ⟨a, k1, -, hf⟩ := CpM.exists_of_bind_ok h
    exact ⟨a, k1, hf⟩
  · rw [if_neg hc] at h
    obtain ⟨a, k1, -, hf⟩ := CpM.exists_of_bind_ok h
    exact ⟨a, k1, hf⟩

/-! ### Refusal codes -/

/-- A code stands among those of the conditions that hold where its condition holds, the codes of a table being different. -/
theorem mem_codes_iff {l : List (Nat × Bool)} {c : Nat} {p : Bool} (hl : (l.map (·.1)).Nodup) (h : (c, p) ∈ l) :
    c ∈ (l.filter (·.2)).map (·.1) ↔ p = true := by
  constructor
  · intro hc
    obtain ⟨⟨c', p'⟩, hmem, rfl⟩ := List.mem_map.mp hc
    obtain ⟨hin, hp⟩ := List.mem_filter.mp hmem
    have heq := List.inj_on_of_nodup_map hl h hin rfl
    exact (congrArg Prod.snd heq).trans hp
  · intro hp
    exact List.mem_map.mpr ⟨(c, p), List.mem_filter.mpr ⟨h, hp⟩, rfl⟩

theorem foldl_lowest (l : List Nat) (m : Nat) (hm : m ≠ 0) (hl : ∀ c ∈ l, c ≠ 0) :
    let r := l.foldl (fun m c => if m = 0 ∨ c < m then c else m) m
    r ≠ 0 ∧ (r = m ∨ r ∈ l) ∧ r ≤ m ∧ ∀ c ∈ l, r ≤ c := by
  induction l generalizing m with
  | nil => simp [hm]
  | cons c l ih =>
    have hc : c ≠ 0 := hl c List.mem_cons_self
    have hl' : ∀ d ∈ l, d ≠ 0 := fun d hd => hl d (List.mem_cons_of_mem c hd)
    rw [List.foldl_cons]
    by_cases h : c < m
    · rw [if_pos (.inr h)]
      have := ih c hc hl'
      grind
    · rw [if_neg (by omega)]
      have := ih m hm hl'
      grind

/-- Of codes that are not 0 the lowest is the one that is among them and below none. -/
theorem lowest_eq {l : List Nat} {code : Nat} (hl : ∀ c ∈ l, c ≠ 0) (hin : code ∈ l) (hmin : ∀ c ∈ l, code ≤ c) :
    lowest (l.map fun c => (c, true)) = code := by
  have hcodes : ((l.map fun c => (c, true)).filter (·.2)).map (·.1) = l := by
    rw [List.filter_eq_self.mpr (by simp), List.map_map]
    exact List.map_id l
  rw [lowest, hcodes]
  cases l with
  | nil => cases hin
  | cons d l =>
    have hd : d ≠ 0 := hl d List.mem_cons_self
    have hlow := foldl_lowest l d hd fun c hc => hl c (List.mem_cons_of_mem d hc)
    rw [List.foldl_cons, if_pos (.inl rfl)]
    grind

/-! ### Reading a launch -/

/-- The codes of the refusals that hold of a launch as it is read (R326): RECT, NOCORE, NOGROUP, LOCAL, KHDR, LDESC and TREE. -/
def launchCodes (rect nocore nogroup loc khdr ldesc tree : Bool) : List Nat :=
  ([(0x20, rect), (0x21, nocore), (0x22, nogroup), (0x23, loc), (0x25, khdr), (0x26, ldesc), (0x2D, tree)].filter (·.2)).map (·.1)

section
variable {rect nocore nogroup loc khdr ldesc tree : Bool}

theorem launchCodes_nodup : [0x20, 0x21, 0x22, 0x23, 0x25, 0x26, 0x2D].Nodup := by decide

theorem rect_mem_launchCodes : 0x20 ∈ launchCodes rect nocore nogroup loc khdr ldesc tree ↔ rect = true :=
  mem_codes_iff launchCodes_nodup (by simp)

theorem nocore_mem_launchCodes : 0x21 ∈ launchCodes rect nocore nogroup loc khdr ldesc tree ↔ nocore = true :=
  mem_codes_iff launchCodes_nodup (by simp)

theorem nogroup_mem_launchCodes : 0x22 ∈ launchCodes rect nocore nogroup loc khdr ldesc tree ↔ nogroup = true :=
  mem_codes_iff launchCodes_nodup (by simp)

theorem ldesc_mem_launchCodes : 0x26 ∈ launchCodes rect nocore nogroup loc khdr ldesc tree ↔ ldesc = true :=
  mem_codes_iff launchCodes_nodup (by simp)

theorem launchCodes_ne_zero : ∀ c ∈ launchCodes rect nocore nogroup loc khdr ldesc tree, c ≠ 0 := by
  intro c hc
  obtain ⟨p, hp, rfl⟩ := List.mem_map.mp hc
  have hin : p.1 ∈ [0x20, 0x21, 0x22, 0x23, 0x25, 0x26, 0x2D] := List.mem_map_of_mem (f := Prod.fst) (List.mem_of_mem_filter hp)
  intro h0
  rw [h0] at hin
  exact absurd hin (by decide)

end

/-- What a launch's descriptor gives (R325), and which refusals its reading finds (R326). -/
structure ReadsAs (s : State) (b : List Byte) (want : Option Bool) (i : LaunchInfo) : Prop where
  cw : i.cw = fld b 0x20 8
  x0 : i.x0 = fld b 8 1
  y0 : i.y0 = fld b 9 1
  n : i.n = fld b 0xC 4
  gsz : i.gsz = fld b 0x10 2
  leaf : i.leaf = (bits (fld b 0x12 2) 0 1 == 1)
  w : i.w = 2 ^ min (fld b 0xA 1) 5
  h : i.h = 2 ^ min (fld b 0xB 1) 4
  cores : i.cores = s.rectCores i.x0 i.y0 i.w i.h
  codes : ∃ loc khdr ldesc tree : Bool,
    i.codes = launchCodes (decide (fld b 0xA 1 > 5 ∨ fld b 0xB 1 > 4 ∨ i.x0 > 31 ∨ i.y0 > 15) || i.x0 % i.w != 0 || i.y0 % i.h != 0) i.cores.isEmpty
      ((if i.leaf then i.n != 0 else i.n == 0) || decide (i.gsz = 0 ∨ i.gsz > 1024)) loc khdr ldesc tree
    ∧ (i.cw % 8 ≠ 0 → ldesc = true) ∧ (∀ l, want = some l → l ≠ i.leaf → ldesc = true)

namespace ReadsAs

variable {s : State} {b : List Byte} {want : Option Bool} {i : LaunchInfo}

theorem codes_ne_zero (h : ReadsAs s b want i) : ∀ c ∈ i.codes, c ≠ 0 := by
  obtain ⟨_, _, _, _, hcodes, -, -⟩ := h.codes
  rw [hcodes]
  exact launchCodes_ne_zero

/-- RECT. -/
theorem rect_iff (h : ReadsAs s b want i) :
    0x20 ∈ i.codes ↔ 5 < fld b 0xA 1 ∨ 4 < fld b 0xB 1 ∨ 31 < i.x0 ∨ 15 < i.y0 ∨ i.x0 % i.w ≠ 0 ∨ i.y0 % i.h ≠ 0 := by
  obtain ⟨_, _, _, _, hcodes, -, -⟩ := h.codes
  rw [hcodes, rect_mem_launchCodes]
  simp only [Bool.or_eq_true, decide_eq_true_eq, bne_iff_ne, gt_iff_lt, or_assoc]

/-- NOCORE. -/
theorem nocore_iff (h : ReadsAs s b want i) : 0x21 ∈ i.codes ↔ i.cores = [] := by
  obtain ⟨_, _, _, _, hcodes, -, -⟩ := h.codes
  rw [hcodes, nocore_mem_launchCodes, List.isEmpty_iff]

theorem cores_ne_nil (h : ReadsAs s b want i) (hcodes : i.codes = []) : i.cores ≠ [] :=
  fun hnil => absurd (h.nocore_iff.mpr hnil) (hcodes ▸ List.not_mem_nil)

/-- NOGROUP. -/
theorem nogroup_iff (h : ReadsAs s b want i) :
    0x22 ∈ i.codes ↔ (i.n = 0 ∧ i.leaf = false) ∨ (i.n ≠ 0 ∧ i.leaf = true) ∨ i.gsz = 0 ∨ 1024 < i.gsz := by
  obtain ⟨_, _, _, _, hcodes, -, -⟩ := h.codes
  rw [hcodes, nogroup_mem_launchCodes]
  cases i.leaf <;> simp

/-- LDESC, where the LEAF bit is not the one that the command asks for. -/
theorem ldesc_of_leaf (h : ReadsAs s b want i) : ∀ l, want = some l → l ≠ i.leaf → 0x26 ∈ i.codes := by
  obtain ⟨_, _, _, _, hcodes, -, hleaf⟩ := h.codes
  rw [hcodes, ldesc_mem_launchCodes]
  exact hleaf

/-- LDESC, where the completion word is misaligned. -/
theorem ldesc_of_cw (h : ReadsAs s b want i) : i.cw % 8 ≠ 0 → 0x26 ∈ i.codes := by
  obtain ⟨_, _, _, _, hcodes, hcw, -⟩ := h.codes
  rw [hcodes, ldesc_mem_launchCodes]
  exact hcw

end ReadsAs

/-- A launch that can be read is as its descriptor's bytes have it. -/
theorem State.readLaunch_readsAs {s : State} {asid : Nat} {dead : List Nat} {va : Nat} {want : Option Bool} {k0 k1 : Kept} {i : LaunchInfo}
    (h : s.readLaunch asid dead va want k0 = .ok (some i, k1)) :
    ∃ b k, s.cpBytes asid dead va 64 k0 = .ok (some b, k) ∧ ReadsAs s b want i := by
  unfold State.readLaunch at h
  obtain ⟨b, k, hb, h⟩ := CpM.exists_of_bind_ok h
  cases b with
  | none => cases h
  | some b =>
    obtain ⟨argb, k2, h⟩ := CpM.exists_of_ite_bind_ok h
    obtain ⟨kern, k3, h⟩ := CpM.exists_of_ite_bind_ok h
    obtain ⟨tb, k4, h⟩ := CpM.exists_of_ite_bind_ok h
    cases h
    refine ⟨b, k, hb, rfl, rfl, rfl, rfl, rfl, rfl, rfl, rfl, rfl, _, _, _, _, rfl, fun hcw => ?_, fun l hl hne => ?_⟩
    · have hcw : fld b 0x20 8 % 8 ≠ 0 := hcw
      simp [hcw]
    · have hne : l ≠ (bits (fld b 0x12 2) 0 1 == 1) := hne
      simp [hl, hne]

/-! ### Judging a launch -/

theorem refuseBy_refused {i : LaunchInfo} {k : Kernel} {code : Nat} (walk : CpM Launched) (kept : Kept) (h0 : code ≠ 0) (hbars : k.bars = false) :
    refuseBy i k code walk kept = .ok (.refused i.cw code, kept) := by
  rw [refuseBy, if_neg h0, if_pos (by simp [hbars])]

theorem refuseBy_zero (i : LaunchInfo) (k : Kernel) (walk : CpM Launched) : refuseBy i k 0 walk = walk := rfl

/-- A launch of which refusals hold ends with the lowest code, unless its kernel asks for its groups to be resident together. -/
theorem State.tryLaunch_refused {s : State} {asid : Nat} {dead : List Nat} {va : Nat} {want : Option Bool} {k0 k1 : Kept} {i : LaunchInfo}
    (h : s.readLaunch asid dead va want k0 = .ok (some i, k1)) (h0 : lowest ((i.codes ++ []).map fun c => (c, true)) ≠ 0)
    (hbars : ∀ k, i.kernel = some k → k.bars = false) :
    s.tryLaunch asid dead va want [] k0 = .ok (.refused i.cw (lowest ((i.codes ++ []).map fun c => (c, true))), k1) := by
  unfold State.tryLaunch
  rw [CpM.bind_of_ok h]
  dsimp only
  cases hk : i.kernel with
  | none => rfl
  | some k =>
    dsimp only
    split
    · rfl
    · split
      · rfl
      · exact refuseBy_refused _ k1 h0 (hbars k hk)

/-- A launch over a rectangle that no condition of its reading refuses is dealt by it, unless its groups do not fit together. -/
theorem State.tryLaunch_rect {s : State} {asid : Nat} {dead : List Nat} {va : Nat} {want : Option Bool} {k0 k1 : Kept} {i : LaunchInfo} {k : Kernel} {fits : Bool}
    (h : s.readLaunch asid dead va want k0 = .ok (some i, k1)) (hcodes : i.codes = []) (hcores : i.cores ≠ []) (hleaf : i.leaf = false)
    (hk : i.kernel = some k) (hfits : (!k.bars || (dealCounts i []).all (fitTogether (((s.ctx? asid).map (·.maxg)).getD 0) k i.gsz)) = fits) :
    s.tryLaunch asid dead va want [] k0
      = .ok (if fits then .dealt i k (.rect i.cores (List.range i.cores.length)) i.n else .refused i.cw 0x24, k1) := by
  unfold State.tryLaunch
  rw [CpM.bind_of_ok h]
  have hsome : i.cores.isEmpty = false := by simpa using hcores
  simp only [hk, hcodes, hleaf, hsome]
  change (refuseBy i k 0 (pure (Except.ok []) >>= _)) k1 = _
  rw [refuseBy_zero, CpM.bind_of_ok (a := Except.ok []) (k1 := k1) rfl]
  simp only [State.dealLeaves, hfits]
  cases fits <;> rfl

/-! ### What a launch comes to -/

theorem State.launchOutcome_dealt (s : State) (asid q tag prio n desc : Nat) (i : LaunchInfo) (k : Kernel) (d : Deal) (m : Nat) :
    ∃ sp, (s.launchOutcome asid q tag prio (some n) desc (.dealt i k d m)).spans = s.spans ++ [sp] ∧ sp.deal = d ∧ sp.n = m ∧ sp.asid = asid ∧ sp.prio = prio
      ∧ sp.cw = BitVec.ofNat 64 i.cw ∧ sp.args = i.args ∧ sp.gsz = i.gsz ∧ sp.alloc = k.alloc ∧ sp.cbase = BitVec.ofNat 64 k.code ∧ sp.entry = k.entry :=
  ⟨_, rfl, rfl, rfl, rfl, rfl, rfl, rfl, rfl, rfl, rfl, rfl⟩

end Sys2Proof.Machine
end

section
/-! THEOREMS. What the records of a queue do, and how a launch is judged and dealt. -/

open Sys2Proof Sys2Proof.Machine

/-- Settles O46: each record's event, where its command is started, is the closed form of its case; a launch is judged by the codes of its reading, whose
lowest is written, and dealt by the list of its present cores or by its leaves' homes. -/
theorem recordEvents : Obligations.RecordEvents := by
  refine ⟨fun s q x b n => ⟨fun op i hi h hnow halign => ⟨fun r k hr hw => ?judged, fun root k hr => ?waits⟩, fun r => execLaunchCommand_unboundWord,
      fun r y => execLaunchCommand_queueWord, execCopyCommand_started, execRelease_started, fun t => execReleaseTime_started,
      fun y m r h ht hhost hdev hfut => ?waitword, fun m c => State.wakeMonitor_queue, execFenceCommand_started, fun h => ?coll⟩,
    fun s asid dead va want k0 k1 i hread => ?launch⟩
  case judged =>
    rw [exec_launchRecord hi h]
    exact launchRecord_judged h hnow halign hr hw
  case waits =>
    rw [exec_launchRecord hi h]
    exact launchRecord_waits h hnow halign hr
  case waitword =>
    refine ⟨_, _, execWaitword_started h ht hhost hdev hfut, rfl, rfl, rfl, ?_, ?_, rfl, State.sameMemory_of_copies rfl rfl rfl rfl rfl⟩
    · show bits (fld b 0x18 8) 0 3 = _
      rw [bits, Nat.pow_zero, Nat.div_one]
      rfl
    · show (BitVec.ofNat 64 (fld b 0x10 8)).toNat = _
      rw [BitVec.toNat_ofNat]
      exact Nat.mod_eq_of_lt (fld_lt b 0x10 8)
  case coll =>
    exact ⟨_, _, execCollCommand_started h, rfl, rfl, rfl, rfl, State.sameMemory_of_copies rfl rfl rfl rfl rfl⟩
  case launch =>
    obtain ⟨b, k, hb, hi⟩ := State.readLaunch_readsAs hread
    refine ⟨?read, ?refused, ?dealt, ?unfit, fun x hx hn j core hj => Span.deals_in_turn hx hn hj, ?leaf, fun _ _ _ _ _ _ _ => ⟨rfl, rfl⟩,
      fun _ _ _ _ _ _ _ _ => State.launchOutcome_dealt ..⟩
    case read =>
      refine ⟨b, k, hb, hi.cw, hi.x0, hi.y0, hi.n, hi.gsz, ?_, hi.w, hi.h, hi.cores, hi.rect_iff, hi.nocore_iff, hi.nogroup_iff, hi.ldesc_of_leaf, hi.ldesc_of_cw⟩
      rw [hi.leaf, bits, Nat.pow_zero, Nat.div_one, Nat.pow_one, beq_eq_decide]
    case refused =>
      intro code ⟨hin, hmin⟩ hbars
      have hlow : lowest ((i.codes ++ []).map fun c => (c, true)) = code := by
        rw [List.append_nil]
        exact lowest_eq hi.codes_ne_zero hin hmin
      have h0 : lowest ((i.codes ++ []).map fun c => (c, true)) ≠ 0 := hlow ▸ hi.codes_ne_zero code hin
      rw [State.tryLaunch_refused hread h0 hbars, hlow]
    case dealt =>
      intro kern hcodes hleaf hk hfit
      refine State.tryLaunch_rect (fits := true) hread hcodes (hi.cores_ne_nil hcodes) hleaf hk ?_
      simpa [List.all_eq_true] using hfit
    case unfit =>
      intro kern hcodes hleaf hk hbars hfit
      refine State.tryLaunch_rect (fits := false) hread hcodes (hi.cores_ne_nil hcodes) hleaf hk ?_
      simpa [hbars] using hfit
    case leaf =>
      intro root y ys ch cx g hne
      refine ⟨_, _, State.dealLeaves_head? .., rfl, rfl, fun a ha hhost hdev hnear => ?_, fun hdev hzero => ?_⟩
      · exact State.leafCore_near ch cx (State.leafHome_device ha hhost hdev) hnear
      · exact State.leafCore_far ch cx hne (State.leafHome_far hdev hzero)
end

section
/-! SUPPORT. A word as the sum of its fields (R35, R46), and the decoder's result for a word: its own word is that word (R69). -/

namespace Sys2Proof

/-! ### Fields of a word -/

theorem fieldBits_toNat (n lo w : Nat) : (fieldBits n lo w).toNat = field n lo w := by
  rw [fieldBits, field, BitVec.toNat_ofNat]

/-- A field is its lower part and, above it, the rest. -/
theorem field_append (m n lo w : Nat) : field (m + n) lo w = field m lo w + 2 ^ m * field n (lo + m) w := by
  rw [field, field, field, pow_add, Nat.mod_mul, Nat.div_div_eq_div_mul, ← pow_add]

/-- The fields of the widths `ns` that stand one after another in a word from bit `lo` on, each at its weight. -/
def fieldSum : List Nat → Nat → Nat → Nat
  | [], _, _ => 0
  | n :: ns, lo, w => 2 ^ lo * field n lo w + fieldSum ns (lo + n) w

theorem fieldSum_eq (ns : List Nat) (lo w : Nat) : fieldSum ns lo w = 2 ^ lo * field ns.sum lo w := by
  induction ns generalizing lo with
  | nil => rw [fieldSum, List.sum_nil, field, Nat.pow_zero, Nat.mod_one, Nat.mul_zero]
  | cons n ns ih => rw [fieldSum, ih, List.sum_cons, field_append, pow_add]; ring

/-- A word is the sum of the fields of any division of its 32 bits. -/
theorem word_eq_fieldSum {w : Nat} (hw : w < 2 ^ 32) (ns : List Nat) (h : ns.sum = 32) : w = fieldSum ns 0 w := by
  rw [fieldSum_eq, h, field, Nat.pow_zero, Nat.div_one, Nat.one_mul, Nat.mod_eq_of_lt hw]

/-! ### The word of what a word decodes to -/

/-- What a decoder gives for a word, if anything, has this word as its own. -/
def WordOf (w : Nat) (o : Option Instr) : Prop := ∀ i, o = some i → encode i = w

theorem wordOf_none (w : Nat) : WordOf w none ↔ True := ⟨fun _ => trivial, fun _ _ h => nomatch h⟩

theorem wordOf_some (w : Nat) (i : Instr) : WordOf w (some i) ↔ encode i = w :=
  ⟨fun h => h i rfl, fun h _ e => Option.some.inj e ▸ h⟩

theorem wordOf_ite (w : Nat) (p : Prop) [Decidable p] (x y : Option Instr) : WordOf w (if p then x else y) ↔ (p → WordOf w x) ∧ (¬p → WordOf w y) := by
  by_cases h : p <;> simp [h]

/-- What reduces `WordOf` of a row to an equation between numbers: the row's bits and the fields of the word that are its operands. -/
theorem wordOf_rules :
    (∀ w, WordOf w none ↔ True) ∧ (∀ w i, WordOf w (some i) ↔ encode i = w)
    ∧ (∀ w (p : Prop) [Decidable p] x y, WordOf w (if p then x else y) ↔ (p → WordOf w x) ∧ (¬p → WordOf w y))
    ∧ (∀ p : Prop, (p → True) = True) ∧ (∀ p : Prop, (p ∧ True) = p) ∧ ∀ n lo w, (fieldBits n lo w).toNat = field n lo w :=
  ⟨wordOf_none, wordOf_some, wordOf_ite, fun p => implies_true p, and_true, fieldBits_toNat⟩

section
variable {w : Nat} (hw : w < 2 ^ 32)
include hw

theorem wordOf_decodeSys (hm : field 6 25 w = 0x00) : WordOf w (decodeSys w) := by
  have hsum := word_eq_fieldSum hw [3, 2, 3, 5, 6, 6, 6, 1] rfl
  simp only [fieldSum, Nat.reduceAdd] at hsum
  have h0 : field 5 0 w = field 3 0 w + 8 * field 2 3 w := field_append 3 2 0 w
  have h1 : field 5 3 w = field 2 3 w + 4 * field 3 5 w := field_append 2 3 3 w
  have h2 : field 8 0 w = field 3 0 w + 8 * field 5 3 w := field_append 3 5 0 w
  have h3 : field 12 13 w = field 6 13 w + 64 * field 6 19 w := field_append 6 6 13 w
  unfold decodeSys
  split <;> simp only [wordOf_rules, encode] <;> omega

theorem wordOf_decodeIop (hm : field 6 25 w = 0x01) : WordOf w (decodeIop w) := by
  have hsum := word_eq_fieldSum hw [5, 2, 6, 6, 6, 6, 1] rfl
  simp only [fieldSum, Nat.reduceAdd] at hsum
  have h0 : field 8 5 w = field 2 5 w + 4 * field 6 7 w := field_append 2 6 5 w
  unfold decodeIop
  split <;> simp only [wordOf_rules, encode] <;> omega

theorem wordOf_decodeShi (hm : field 6 25 w = 0x06) : WordOf w (decodeShi w) := by
  have hsum := word_eq_fieldSum hw [5, 6, 2, 6, 6, 6, 1] rfl
  simp only [fieldSum, Nat.reduceAdd] at hsum
  unfold decodeShi
  split <;> simp only [wordOf_rules, encode] <;> omega

theorem wordOf_decodeBitf (hm : field 6 25 w = 0x07) : WordOf w (decodeBitf w) := by
  have hsum := word_eq_fieldSum hw [5, 5, 1, 2, 6, 6, 6, 1] rfl
  simp only [fieldSum, Nat.reduceAdd] at hsum
  unfold decodeBitf
  split <;> simp only [wordOf_rules, encode] <;> omega

theorem wordOf_decodeImad (hm : field 6 25 w = 0x0A) : WordOf w (decodeImad w) := by
  have hsum := word_eq_fieldSum hw [1, 6, 6, 6, 6, 6, 1] rfl
  simp only [fieldSum, Nat.reduceAdd] at hsum
  unfold decodeImad
  split <;> simp only [wordOf_rules, encode] <;> omega

theorem wordOf_decodePred (hm : field 6 25 w = 0x0C) : WordOf w (decodePred w) := by
  have hsum := word_eq_fieldSum hw [5, 2, 3, 3, 3, 3, 3, 3, 6, 1] rfl
  simp only [fieldSum, Nat.reduceAdd] at hsum
  have h0 : field 6 13 w = field 3 13 w + 8 * field 3 16 w := field_append 3 3 13 w
  have h1 : field 6 19 w = field 3 19 w + 8 * field 3 22 w := field_append 3 3 19 w
  have h2 : field 8 5 w = field 2 5 w + 4 * field 6 7 w := field_append 2 6 5 w
  have h3 : field 6 7 w = field 3 7 w + 8 * field 3 10 w := field_append 3 3 7 w
  have h4 : field 14 5 w = field 2 5 w + 4 * field 12 7 w := field_append 2 12 5 w
  have h5 : field 12 7 w = field 3 7 w + 8 * field 9 10 w := field_append 3 9 7 w
  have h6 : field 9 10 w = field 3 10 w + 8 * field 6 13 w := field_append 3 6 10 w
  unfold decodePred
  split <;> simp only [wordOf_rules, encode] <;> omega

theorem wordOf_decodeSysv (hm : field 6 25 w = 0x0E) : WordOf w (decodeSysv w) := by
  have hsum := word_eq_fieldSum hw [8, 5, 6, 6, 6, 1] rfl
  simp only [fieldSum, Nat.reduceAdd] at hsum
  unfold decodeSysv
  split <;> simp only [wordOf_rules, encode] <;> omega

theorem wordOf_decodeUni (hm : field 6 25 w = 0x0F) : WordOf w (decodeUni w) := by
  have hsum := word_eq_fieldSum hw [8, 5, 6, 6, 6, 1] rfl
  simp only [fieldSum, Nat.reduceAdd] at hsum
  unfold decodeUni
  split <;> simp only [wordOf_rules, encode] <;> omega

theorem wordOf_decodeFop (hm : field 6 25 w = 0x10) : WordOf w (decodeFop w) := by
  have hsum := word_eq_fieldSum hw [7, 3, 3, 6, 6, 6, 1] rfl
  simp only [fieldSum, Nat.reduceAdd] at hsum
  have h0 : field 6 7 w = field 3 7 w + 8 * field 3 10 w := field_append 3 3 7 w
  unfold decodeFop
  split <;> simp only [wordOf_rules, encode] <;> omega

theorem wordOf_decodeFfma (hm : field 6 25 w = 0x11) : WordOf w (decodeFfma w) := by
  have hsum := word_eq_fieldSum hw [1, 6, 6, 6, 6, 6, 1] rfl
  simp only [fieldSum, Nat.reduceAdd] at hsum
  unfold decodeFfma
  split <;> simp only [wordOf_rules, encode] <;> omega

theorem wordOf_decodeFcmp (hm : field 6 25 w = 0x12) : WordOf w (decodeFcmp w) := by
  have hsum := word_eq_fieldSum hw [5, 2, 6, 6, 3, 3, 6, 1] rfl
  simp only [fieldSum, Nat.reduceAdd] at hsum
  unfold decodeFcmp
  split <;> simp only [wordOf_rules, encode] <;> omega

theorem wordOf_decodeHop (hm : field 6 25 w = 0x13) : WordOf w (decodeHop w) := by
  have hsum := word_eq_fieldSum hw [5, 2, 6, 6, 6, 6, 1] rfl
  simp only [fieldSum, Nat.reduceAdd] at hsum
  unfold decodeHop
  split <;> simp only [wordOf_rules, encode] <;> omega

theorem wordOf_decodeHfma2 (hm : field 6 25 w = 0x14) : WordOf w (decodeHfma2 w) := by
  have hsum := word_eq_fieldSum hw [1, 6, 6, 6, 6, 6, 1] rfl
  simp only [fieldSum, Nat.reduceAdd] at hsum
  unfold decodeHfma2
  split <;> simp only [wordOf_rules, encode] <;> omega

theorem wordOf_decodeSfu (hm : field 6 25 w = 0x16) : WordOf w (decodeSfu w) := by
  have hsum := word_eq_fieldSum hw [5, 1, 1, 6, 6, 6, 6, 1] rfl
  simp only [fieldSum, Nat.reduceAdd] at hsum
  have h0 : field 7 6 w = field 1 6 w + 2 * field 6 7 w := field_append 1 6 6 w
  have h1 : field 8 5 w = field 1 5 w + 2 * field 7 6 w := field_append 1 7 5 w
  unfold decodeSfu
  split <;> simp only [wordOf_rules, encode] <;> omega

theorem wordOf_decodeRand (hm : field 6 25 w = 0x17) : WordOf w (decodeRand w) := by
  have hsum := word_eq_fieldSum hw [5, 14, 6, 6, 1] rfl
  simp only [fieldSum, Nat.reduceAdd] at hsum
  unfold decodeRand
  split <;> simp only [wordOf_rules, encode] <;> omega

theorem wordOf_decodeProp (hm : field 6 25 w = 0x18) : WordOf w (decodeProp w) := by
  have hsum := word_eq_fieldSum hw [8, 5, 6, 6, 6, 1] rfl
  simp only [fieldSum, Nat.reduceAdd] at hsum
  have h0 : field 12 13 w = field 6 13 w + 64 * field 6 19 w := field_append 6 6 13 w
  unfold decodeProp
  split <;> simp only [wordOf_rules, encode] <;> omega

theorem wordOf_decodeXch (hm : field 6 25 w = 0x19) : WordOf w (decodeXch w) := by
  have hsum := word_eq_fieldSum hw [5, 2, 6, 6, 6, 6, 1] rfl
  simp only [fieldSum, Nat.reduceAdd] at hsum
  have h0 : field 8 5 w = field 2 5 w + 4 * field 6 7 w := field_append 2 6 5 w
  unfold decodeXch
  split <;> simp only [wordOf_rules, encode] <;> omega

theorem wordOf_decodeJr (hm : field 6 25 w = 0x1C) : WordOf w (decodeJr w) := by
  have hsum := word_eq_fieldSum hw [5, 8, 6, 6, 6, 1] rfl
  simp only [fieldSum, Nat.reduceAdd] at hsum
  unfold decodeJr
  split <;> simp only [wordOf_rules, encode] <;> omega

theorem wordOf_decodeBar (hm : field 6 25 w = 0x1D) : WordOf w (decodeBar w) := by
  have hsum := word_eq_fieldSum hw [4, 4, 5, 12, 6, 1] rfl
  simp only [fieldSum, Nat.reduceAdd] at hsum
  have h0 : field 8 0 w = field 4 0 w + 16 * field 4 4 w := field_append 4 4 0 w
  unfold decodeBar
  split <;> simp only [wordOf_rules, encode] <;> omega

theorem wordOf_decodeLdt (hm : field 6 25 w = 0x22) : WordOf w (decodeLdt w) := by
  have hsum := word_eq_fieldSum hw [2, 6, 6, 5, 6, 6, 1] rfl
  simp only [fieldSum, Nat.reduceAdd] at hsum
  unfold decodeLdt
  split <;> simp only [wordOf_rules, encode] <;> omega

theorem wordOf_decodeStt (hm : field 6 25 w = 0x23) : WordOf w (decodeStt w) := by
  have hsum := word_eq_fieldSum hw [2, 6, 6, 5, 6, 6, 1] rfl
  simp only [fieldSum, Nat.reduceAdd] at hsum
  unfold decodeStt
  split <;> simp only [wordOf_rules, encode] <;> omega

theorem wordOf_decodeFut (hm : field 6 25 w = 0x2A) : WordOf w (decodeFut w) := by
  have hsum := word_eq_fieldSum hw [5, 2, 6, 6, 6, 6, 1] rfl
  simp only [fieldSum, Nat.reduceAdd] at hsum
  have h0 : field 8 5 w = field 2 5 w + 4 * field 6 7 w := field_append 2 6 5 w
  unfold decodeFut
  split <;> simp only [wordOf_rules, encode] <;> omega

theorem wordOf_decodeTile (hm : field 6 25 w = 0x2B) : WordOf w (decodeTile w) := by
  have hsum := word_eq_fieldSum hw [5, 3, 6, 5, 6, 6, 1] rfl
  simp only [fieldSum, Nat.reduceAdd] at hsum
  have h0 : field 9 5 w = field 3 5 w + 8 * field 6 8 w := field_append 3 6 5 w
  unfold decodeTile
  split <;> simp only [wordOf_rules, encode] <;> omega

theorem wordOf_decodeTidt (hm : field 6 25 w = 0x2C) : WordOf w (decodeTidt w) := by
  have hsum := word_eq_fieldSum hw [3, 8, 8, 6, 6, 1] rfl
  simp only [fieldSum, Nat.reduceAdd] at hsum
  unfold decodeTidt
  split <;> simp only [wordOf_rules, encode] <;> omega

theorem wordOf_decodeCopy (hm : field 6 25 w = 0x2D) : WordOf w (decodeCopy w) := by
  have hsum := word_eq_fieldSum hw [3, 8, 8, 6, 6, 1] rfl
  simp only [fieldSum, Nat.reduceAdd] at hsum
  unfold decodeCopy
  split <;> simp only [wordOf_rules, encode] <;> omega

theorem wordOf_decodeMx (hm : field 6 25 w = 0x2E) : WordOf w (decodeMx w) := by
  have hsum := word_eq_fieldSum hw [3, 8, 8, 6, 6, 1] rfl
  simp only [fieldSum, Nat.reduceAdd] at hsum
  have h0 : field 16 3 w = field 8 3 w + 256 * field 8 11 w := field_append 8 8 3 w
  have h1 : field 22 3 w = field 8 3 w + 256 * field 14 11 w := field_append 8 14 3 w
  have h2 : field 14 11 w = field 8 11 w + 256 * field 6 19 w := field_append 8 6 11 w
  unfold decodeMx
  split <;> simp only [wordOf_rules, encode] <;> omega

theorem wordOf_decodeAmax (hm : field 6 25 w = 0x2F) : WordOf w (decodeAmax w) := by
  have hsum := word_eq_fieldSum hw [5, 2, 6, 6, 6, 6, 1] rfl
  simp only [fieldSum, Nat.reduceAdd] at hsum
  unfold decodeAmax
  split <;> simp only [wordOf_rules, encode] <;> omega

theorem wordOf_decodeFld (hm : field 6 25 w = 0x30) : WordOf w (decodeFld w) := by
  have hsum := word_eq_fieldSum hw [5, 5, 3, 6, 6, 6, 1] rfl
  simp only [fieldSum, Nat.reduceAdd] at hsum
  unfold decodeFld
  split <;> simp only [wordOf_rules, encode] <;> omega

theorem wordOf_decodeHsh (hm : field 6 25 w = 0x31) : WordOf w (decodeHsh w) := by
  have hsum := word_eq_fieldSum hw [4, 1, 5, 2, 1, 6, 6, 6, 1] rfl
  simp only [fieldSum, Nat.reduceAdd] at hsum
  have h0 : field 5 0 w = field 4 0 w + 16 * field 1 4 w := field_append 4 1 0 w
  unfold decodeHsh
  split <;> simp only [wordOf_rules, encode] <;> omega

theorem wordOf_decodeGraph (hm : field 6 25 w = 0x32) : WordOf w (decodeGraph w) := by
  have hsum := word_eq_fieldSum hw [3, 8, 8, 6, 6, 1] rfl
  simp only [fieldSum, Nat.reduceAdd] at hsum
  have h0 : field 16 3 w = field 8 3 w + 256 * field 8 11 w := field_append 8 8 3 w
  unfold decodeGraph
  split <;> simp only [wordOf_rules, encode] <;> omega

theorem wordOf_decodeColl (hm : field 6 25 w = 0x33) : WordOf w (decodeColl w) := by
  have hsum := word_eq_fieldSum hw [3, 8, 8, 6, 6, 1] rfl
  simp only [fieldSum, Nat.reduceAdd] at hsum
  have h0 : field 16 3 w = field 8 3 w + 256 * field 8 11 w := field_append 8 8 3 w
  unfold decodeColl
  split <;> simp only [wordOf_rules, encode] <;> omega

theorem wordOf_decodeTnd (hm : field 6 25 w = 0x34) : WordOf w (decodeTnd w) := by
  have hsum := word_eq_fieldSum hw [8, 5, 12, 6, 1] rfl
  simp only [fieldSum, Nat.reduceAdd] at hsum
  unfold decodeTnd
  split <;> simp only [wordOf_rules, encode] <;> omega

theorem wordOf_decodeRaw : WordOf w (decodeRaw w) := by
  unfold decodeRaw
  split
  case h_1 hm => exact wordOf_decodeSys hw hm
  case h_2 hm => exact wordOf_decodeIop hw hm
  case h_7 hm => exact wordOf_decodeShi hw hm
  case h_8 hm => exact wordOf_decodeBitf hw hm
  case h_11 hm => exact wordOf_decodeImad hw hm
  case h_13 hm => exact wordOf_decodePred hw hm
  case h_15 hm => exact wordOf_decodeSysv hw hm
  case h_16 hm => exact wordOf_decodeUni hw hm
  case h_17 hm => exact wordOf_decodeFop hw hm
  case h_18 hm => exact wordOf_decodeFfma hw hm
  case h_19 hm => exact wordOf_decodeFcmp hw hm
  case h_20 hm => exact wordOf_decodeHop hw hm
  case h_21 hm => exact wordOf_decodeHfma2 hw hm
  case h_23 hm => exact wordOf_decodeSfu hw hm
  case h_24 hm => exact wordOf_decodeRand hw hm
  case h_25 hm => exact wordOf_decodeProp hw hm
  case h_26 hm => exact wordOf_decodeXch hw hm
  case h_29 hm => exact wordOf_decodeJr hw hm
  case h_30 hm => exact wordOf_decodeBar hw hm
  case h_33 hm => exact wordOf_decodeLdt hw hm
  case h_34 hm => exact wordOf_decodeStt hw hm
  case h_41 hm => exact wordOf_decodeFut hw hm
  case h_42 hm => exact wordOf_decodeTile hw hm
  case h_43 hm => exact wordOf_decodeTidt hw hm
  case h_44 hm => exact wordOf_decodeCopy hw hm
  case h_45 hm => exact wordOf_decodeMx hw hm
  case h_46 hm => exact wordOf_decodeAmax hw hm
  case h_47 hm => exact wordOf_decodeFld hw hm
  case h_48 hm => exact wordOf_decodeHsh hw hm
  case h_49 hm => exact wordOf_decodeGraph hw hm
  case h_50 hm => exact wordOf_decodeColl hw hm
  case h_51 hm => exact wordOf_decodeTnd hw hm
  case h_3 hm | h_4 hm | h_5 hm | h_6 hm =>
    have hsum := word_eq_fieldSum hw [13, 6, 6, 6, 1] rfl
    simp only [fieldSum, Nat.reduceAdd] at hsum
    simp only [wordOf_rules, encode]
    omega
  case h_9 hm | h_10 hm | h_28 hm | h_52 hm =>
    have hsum := word_eq_fieldSum hw [19, 6, 6, 1] rfl
    simp only [fieldSum, Nat.reduceAdd] at hsum
    simp only [wordOf_rules, encode]
    omega
  case h_12 hm =>
    have hsum := word_eq_fieldSum hw [5, 2, 6, 6, 3, 3, 6, 1] rfl
    simp only [fieldSum, Nat.reduceAdd] at hsum
    simp only [wordOf_rules, encode]
    omega
  case h_14 hm =>
    have hsum := word_eq_fieldSum hw [3, 1, 1, 2, 6, 6, 6, 6, 1] rfl
    simp only [fieldSum, Nat.reduceAdd] at hsum
    simp only [wordOf_rules, encode]
    omega
  case h_22 hm =>
    have hsum := word_eq_fieldSum hw [5, 4, 1, 3, 6, 6, 6, 1] rfl
    simp only [fieldSum, Nat.reduceAdd] at hsum
    simp only [wordOf_rules, encode]
    omega
  case h_27 hm =>
    have hsum := word_eq_fieldSum hw [21, 1, 3, 6, 1] rfl
    simp only [fieldSum, Nat.reduceAdd] at hsum
    simp only [wordOf_rules, encode]
    omega
  case h_31 hm | h_32 hm =>
    have hsum := word_eq_fieldSum hw [8, 2, 3, 6, 6, 6, 1] rfl
    simp only [fieldSum, Nat.reduceAdd] at hsum
    simp only [wordOf_rules, encode]
    omega
  case h_35 hm | h_37 hm =>
    have hsum := word_eq_fieldSum hw [5, 2, 6, 6, 6, 6, 1] rfl
    simp only [fieldSum, Nat.reduceAdd] at hsum
    simp only [wordOf_rules, encode]
    omega
  case h_36 hm =>
    have hsum := word_eq_fieldSum hw [4, 1, 2, 6, 6, 6, 6, 1] rfl
    simp only [fieldSum, Nat.reduceAdd] at hsum
    simp only [wordOf_rules, encode]
    omega
  case h_38 hm =>
    have hsum := word_eq_fieldSum hw [10, 6, 6, 3, 6, 1] rfl
    simp only [fieldSum, Nat.reduceAdd] at hsum
    simp only [wordOf_rules, encode]
    omega
  case h_39 hm =>
    have hsum := word_eq_fieldSum hw [9, 4, 4, 4, 4, 6, 1] rfl
    simp only [fieldSum, Nat.reduceAdd] at hsum
    simp only [wordOf_rules, encode]
    omega
  case h_40 hm =>
    have hsum := word_eq_fieldSum hw [3, 1, 3, 6, 6, 6, 6, 1] rfl
    simp only [fieldSum, Nat.reduceAdd] at hsum
    simp only [wordOf_rules, encode]
    omega
  case h_53 => exact (wordOf_none w).mpr trivial

end

end Sys2Proof
end

section
/-! SUPPORT. The digits of an instruction's word: each operand stands at its own place, and the row's bits everywhere else (R46). With them the
decoder is computed on the word of every row. -/

namespace Sys2Proof

/-! ### Digits of a sum of operands -/

/-- The digit of n bits at the place of weight l. -/
def digit (n l x : Nat) : Nat := x / l % 2 ^ n

theorem field_eq_digit (n lo w : Nat) : field n lo w = digit n (2 ^ lo) w := rfl

theorem fieldBits_eq_digit (n lo w : Nat) : fieldBits n lo w = BitVec.ofNat n (digit n (2 ^ lo) w) := by
  rw [← BitVec.toNat_inj, fieldBits_toNat, BitVec.toNat_ofNat, digit, Nat.mod_mod, field]

theorem digit_ofNat (n l k : Nat) : digit n l (no_index (OfNat.ofNat k)) = OfNat.ofNat k / l % 2 ^ n := by rw [digit]

theorem digit_at {n m x : Nat} (v : BitVec n) (hm : 0 < m) (hx : digit n m x = 0) : digit n m (x + v.toNat * m) = v.toNat := by
  rw [digit, Nat.add_mul_div_right _ _ hm, Nat.add_mod, ← digit, hx, Nat.zero_add, Nat.mod_mod, Nat.mod_eq_of_lt v.isLt]

theorem digit_below {j n l m x : Nat} (v : BitVec j) (h : m % (l * 2 ^ n) = 0) : digit n l (x + v.toNat * m) = digit n l x := by
  obtain ⟨t, rfl⟩ := Nat.dvd_of_mod_eq_zero h
  rcases Nat.eq_zero_or_pos l with rfl | hl
  · rw [digit, digit, Nat.div_zero, Nat.div_zero]
  · rw [digit, show x + v.toNat * (l * 2 ^ n * t) = x + l * (2 ^ n * (t * v.toNat)) by ring, Nat.add_mul_div_left _ _ hl, Nat.add_mul_mod_self_left, digit]

theorem digit_above {j n l m x : Nat} (v : BitVec j) (h : l % (m * 2 ^ j) = 0) (hm : 0 < m) (hx : digit j m x = 0) :
    digit n l (x + v.toNat * m) = digit n l x := by
  obtain ⟨t, rfl⟩ := Nat.dvd_of_mod_eq_zero h
  obtain ⟨q, hq⟩ := Nat.dvd_of_mod_eq_zero hx
  have hdiv : (x + v.toNat * m) / (m * 2 ^ j) = x / (m * 2 ^ j) := by
    rw [← Nat.div_div_eq_div_mul, ← Nat.div_div_eq_div_mul, Nat.add_mul_div_right _ _ hm, hq, Nat.mul_add_div (Nat.two_pow_pos j),
      Nat.div_eq_of_lt v.isLt, Nat.add_zero, Nat.mul_div_cancel_left _ (Nat.two_pow_pos j)]
  rw [digit, digit, ← Nat.div_div_eq_div_mul, hdiv, Nat.div_div_eq_div_mul]

/-- What evaluates a digit of a row's word: a field is a digit, and the operands of the sum are passed one after another, the lowest first. -/
theorem digit_rules :
    (∀ n lo w, field n lo w = digit n (2 ^ lo) w) ∧ (∀ n lo w, fieldBits n lo w = BitVec.ofNat n (digit n (2 ^ lo) w))
    ∧ (∀ n l k, digit n l (no_index (OfNat.ofNat k)) = OfNat.ofNat k / l % 2 ^ n)
    ∧ (∀ n m x (v : BitVec n), 0 < m → digit n m x = 0 → digit n m (x + v.toNat * m) = v.toNat)
    ∧ (∀ j n l m x (v : BitVec j), m % (l * 2 ^ n) = 0 → digit n l (x + v.toNat * m) = digit n l x)
    ∧ (∀ j n l m x (v : BitVec j), l % (m * 2 ^ j) = 0 → 0 < m → digit j m x = 0 → digit n l (x + v.toNat * m) = digit n l x)
    ∧ (∀ n x (v : BitVec n), digit n 1 x = 0 → digit n 1 (x + v.toNat) = v.toNat)
    ∧ (∀ j n l x (v : BitVec j), l % 2 ^ j = 0 → digit j 1 x = 0 → digit n l (x + v.toNat) = digit n l x)
    ∧ ∀ n (v : BitVec n), BitVec.ofNat n v.toNat = v := by
  refine ⟨field_eq_digit, fieldBits_eq_digit, digit_ofNat, fun _ _ _ v => digit_at v, fun _ _ _ _ _ v => digit_below v, fun _ _ _ _ _ v => digit_above v,
    fun n x v hx => ?_, fun j n l x v h hx => ?_, fun n v => BitVec.ofNat_toNat n v ▸ BitVec.setWidth_eq v⟩
  · simpa using digit_at v Nat.one_pos hx
  · simpa using digit_above v (by simpa using h) Nat.one_pos hx

/-! ### The rows of the opcode table

The constructors stand in the order of the table, which is that of the majors (R47). The decoder is computed on the words of one stretch of
the table after another: first the major, then the code below it, the must-be-zero fields and the operands. -/

/-- The instruction's row is one of `lo` to `hi - 1`. -/
def Instr.inRows (lo hi : Nat) (i : Instr) : Bool := Nat.ble lo i.ctorIdx && Nat.blt i.ctorIdx hi

theorem decodeRaw_encode_system_iop {i : Instr} (hi : i.inRows 0 32 = true) : decodeRaw (encode i) = some i := by
  cases i <;> cases hi
  all_goals
    rw [encode, decodeRaw]
    conv in field 6 25 _ => norm_num (maxDischargeDepth := 8) only [digit_rules]
    norm_num (maxDischargeDepth := 8) only [decodeSys, decodeIop, digit_rules, if_true, if_false, and_self, false_and]

theorem decodeRaw_encode_immediate_to_uniform {i : Instr} (h : i.codesOk = true) (hi : i.inRows 32 59 = true) : decodeRaw (encode i) = some i := by
  cases i <;> cases hi
  all_goals
    rw [encode, decodeRaw]
    conv in field 6 25 _ => norm_num (maxDischargeDepth := 8) only [digit_rules]
    norm_num (maxDischargeDepth := 8) only [decodeShi, decodeBitf, decodeImad, decodePred, decodeSysv, decodeUni, digit_rules, if_true, if_false, and_self, false_and]
  case sysv c d sel =>
    have hsel : sel.toNat ≤ 11 := of_decide_eq_true h
    split
    · omega
    · rfl

theorem decodeRaw_encode_float_and_sfu {i : Instr} (hi : i.inRows 59 114 = true) : decodeRaw (encode i) = some i := by
  cases i <;> cases hi
  all_goals
    rw [encode, decodeRaw]
    conv in field 6 25 _ => norm_num (maxDischargeDepth := 8) only [digit_rules]
    norm_num (maxDischargeDepth := 8) only [decodeFop, decodeFfma, decodeFcmp, decodeHop, decodeHfma2, decodeSfu, digit_rules, if_true, if_false, and_self, false_and]

theorem decodeRaw_encode_random_to_waitu {i : Instr} (hi : i.inRows 114 153 = true) : decodeRaw (encode i) = some i := by
  cases i <;> cases hi
  all_goals
    rw [encode, decodeRaw]
    conv in field 6 25 _ => norm_num (maxDischargeDepth := 8) only [digit_rules]
    norm_num (maxDischargeDepth := 8) only [decodeRand, decodeProp, decodeXch, decodeJr, decodeBar, decodeLdt, decodeStt, digit_rules, if_true, if_false, and_self, false_and]

theorem decodeRaw_encode_future_to_amax {i : Instr} (hi : i.inRows 153 182 = true) : decodeRaw (encode i) = some i := by
  cases i <;> cases hi
  all_goals
    rw [encode, decodeRaw]
    conv in field 6 25 _ => norm_num (maxDischargeDepth := 8) only [digit_rules]
    norm_num (maxDischargeDepth := 8) only [decodeFut, decodeTile, decodeTidt, decodeCopy, decodeMx, decodeAmax, digit_rules, if_true, if_false, and_self, false_and]

theorem decodeRaw_encode_field_to_errq {i : Instr} (hi : i.inRows 182 209 = true) : decodeRaw (encode i) = some i := by
  cases i <;> cases hi
  all_goals
    rw [encode, decodeRaw]
    conv in field 6 25 _ => norm_num (maxDischargeDepth := 8) only [digit_rules]
    norm_num (maxDischargeDepth := 8) only [decodeFld, decodeHsh, decodeGraph, decodeColl, decodeTnd, digit_rules, if_true, if_false, and_self, false_and]

/-- The steps of the other agents are no words. -/
theorem codesOk_of_late_row {i : Instr} (hi : Nat.ble 209 i.ctorIdx = true) : i.codesOk = false := by
  cases i <;> cases hi <;> rfl

theorem decodeRaw_encode {i : Instr} (h : i.codesOk = true) : decodeRaw (encode i) = some i := by
  have hrow : i.inRows 0 32 = true ∨ i.inRows 32 59 = true ∨ i.inRows 59 114 = true ∨ i.inRows 114 153 = true ∨ i.inRows 153 182 = true
      ∨ i.inRows 182 209 = true ∨ Nat.ble 209 i.ctorIdx = true := by
    simp only [Instr.inRows, Bool.and_eq_true, Nat.ble_eq, Nat.blt_eq]
    omega
  rcases hrow with hi | hi | hi | hi | hi | hi | hi
  · exact decodeRaw_encode_system_iop hi
  · exact decodeRaw_encode_immediate_to_uniform h hi
  · exact decodeRaw_encode_float_and_sfu hi
  · exact decodeRaw_encode_random_to_waitu hi
  · exact decodeRaw_encode_future_to_amax hi
  · exact decodeRaw_encode_field_to_errq hi
  · exact absurd h (by rw [codesOk_of_late_row hi]; exact Bool.false_ne_true)

theorem decode_eq_some_iff {w : Nat} {i : Instr} : decode w = some i ↔ decodeRaw w = some i ∧ i.wellFormed = true := by
  rw [decode, Option.filter_eq_some_iff]

theorem codesOk_of_wellFormed {i : Instr} (h : i.wellFormed = true) : i.codesOk = true := by
  simp only [Instr.wellFormed, Bool.and_eq_true] at h
  obtain ⟨⟨⟨⟨hcodes, -⟩, -⟩, -⟩, -⟩ := h
  exact hcodes

end Sys2Proof
end

section
/-! THEOREMS. The words that the manual writes out, and that the decoder and the encoder are each other's inverses. -/

open Sys2Proof Sys2Proof

/-- Settles O1: the decoder, computed on the word of each row of the opcode table with every operand at every value. -/
theorem decodeOfEncode : Obligations.DecodeOfEncode := by
  intro i h
  exact decode_eq_some_iff.mpr ⟨decodeRaw_encode (codesOk_of_wellFormed h), h⟩

/-- Settles O2: row by row, the word is the sum of its fields, and those are the row's bits and operands. -/
theorem encodeOfDecode : Obligations.EncodeOfDecode := by
  intro w i hw h
  obtain ⟨hraw, hwf⟩ := decode_eq_some_iff.mp h
  exact ⟨wordOf_decodeRaw hw i hraw, hwf⟩

/-- Settles O3, by evaluating the decoder on each of the words. -/
theorem manualWordsDecode : Obligations.ManualWordsDecode := by
  unfold Obligations.ManualWordsDecode
  and_intros <;> decide
end

section
/-! SUPPORT. The signed reading of a value (R5), and the mailbox of a cluster after a message (R378). -/

namespace Sys2Proof.Machine

/-- The signed reading of a number is that of its bit vector. -/
theorem sval_eq_toInt {n : Nat} (v : Nat) (hn : 0 < n) : sval n v = (BitVec.ofNat n v).toInt := by
  have hpow : 2 ^ n = 2 * 2 ^ (n - 1) := by rw [← Nat.pow_succ', Nat.succ_eq_add_one, Nat.sub_add_cancel hn]
  rw [sval, BitVec.toInt_eq_toNat_cond, BitVec.toNat_ofNat]
  refine if_congr ?_ rfl rfl
  omega

/-! ### Mailboxes -/

theorem State.mailbox_at (s : State) (d c : Nat) : (s.mailbox d c).die = d ∧ (s.mailbox d c).cluster = c := by
  unfold State.mailbox
  cases h : s.mailboxes.find? fun m => m.die == d && m.cluster == c with
  | none => exact ⟨rfl, rfl⟩
  | some m => simpa using List.find?_some h

theorem State.mailbox_setMailbox_same (s : State) (m : Mailbox) : (s.setMailbox m).mailbox m.die m.cluster = m := by
  simp [State.mailbox, State.setMailbox]

theorem State.mailbox_setMailbox_of_ne (s : State) (m : Mailbox) {d c : Nat} (h : ¬(d = m.die ∧ c = m.cluster)) :
    (s.setMailbox m).mailbox d c = s.mailbox d c := by
  have hm : (m.die == d && m.cluster == c) = false := by
    rw [Bool.and_eq_false_imp]
    intro hd
    rw [beq_eq_false_iff_ne]
    exact fun hc => h ⟨(beq_iff_eq.mp hd).symm, hc.symm⟩
  have hfilter : ∀ x : Mailbox, (!(x.die == m.die && x.cluster == m.cluster) && (x.die == d && x.cluster == c)) = (x.die == d && x.cluster == c) := by
    intro x
    by_cases hx : x.die = d ∧ x.cluster = c
    · obtain ⟨rfl, rfl⟩ := hx
      have hne : (x.die == m.die && x.cluster == m.cluster) = false := Bool.and_eq_false_imp.2 (by simpa using h)
      rw [hne, Bool.not_false, Bool.true_and]
    · have : (x.die == d && x.cluster == c) = false := by simpa using hx
      rw [this, Bool.and_false]
  have hfind : (s.mailboxes.filter fun x => !(x.die == m.die && x.cluster == m.cluster)).find? (fun x => x.die == d && x.cluster == c)
      = s.mailboxes.find? fun x => x.die == d && x.cluster == c := by
    rw [List.find?_filter]
    congr 1
    funext x
    rw [← hfilter x, Bool.decide_and, Bool.decide_eq_true, Bool.decide_eq_true, ← Bool.and_assoc, Bool.and_self]
  simp only [State.mailbox, State.setMailbox, List.find?_cons, hm, hfind]

/-- A message goes into a slot after those that the mailbox holds, or, where none is free, after those that wait. -/
theorem Mailbox.post_cases (b : Mailbox) (x : TrapMsg) :
    (b.post x).die = b.die ∧ (b.post x).cluster = b.cluster
    ∧ ((∃ r, b.post x = { b with slots := b.slots ++ [{ x with reserved := r }] }) ∨ (b.room x.core = none ∧ b.post x = { b with pending := b.pending ++ [x] })) := by
  unfold Mailbox.post
  cases h : b.room x.core with
  | none => exact ⟨rfl, rfl, .inr ⟨rfl, rfl⟩⟩
  | some r => exact ⟨rfl, rfl, .inl ⟨r, rfl⟩⟩

/-! ### The message of a trap (R379) -/

/-- The message that a thread of a group sends when it takes a trap. -/
def State.trapMsg (s : State) (g : Group) (t : Thread) (tid kind code : Nat) (aval : Word) (va : DWord) : TrapMsg :=
  { pc := t.pc, kind := kind, code := if kind = 8 then 0 else code, core := g.core, tid := tid, asid := g.asid
    grp := g.grp, aval := aval, tsc := s.tsc, gid := g.gid, va := if kind = 7 then t.nextSkid.va else va
    reason := if kind = 8 then code else 0, parity := kind == 7 && t.nextSkid.parity }

/-- Taking a trap posts the thread's message at its cluster's mailbox and changes no other. -/
theorem State.mailbox_takeTrap {s : State} {gid tid : Nat} {g : Group} {t : Thread} (kind code : Nat) (aval : Word) (va : DWord)
    (hg : s.group? gid = some g) (ht : g.thread? tid = some t) (hrole : g.role ≠ .trailer) (d c : Nat) :
    (s.takeTrap gid tid kind code aval va).mailbox d c
      = if d = coreDie g.core ∧ c = coreCluster g.core then (s.mailbox d c).post (s.trapMsg g t tid kind code aval va) else s.mailbox d c := by
  obtain ⟨hdie, hclus⟩ := s.mailbox_at (coreDie g.core) (coreCluster g.core)
  obtain ⟨pdie, pclus, -⟩ := Mailbox.post_cases (s.mailbox (coreDie g.core) (coreCluster g.core)) (s.trapMsg g t tid kind code aval va)
  have hgid := State.group?_gid hg
  subst hgid
  have hbox : (s.takeTrap g.gid tid kind code aval va).mailbox d c
      = (s.setMailbox ((s.mailbox (coreDie g.core) (coreCluster g.core)).post (s.trapMsg g t tid kind code aval va))).mailbox d c := by
    unfold State.takeTrap
    rw [hg]
    dsimp only
    rw [ht]
    dsimp only
    rw [if_neg fun h => hrole h.1]
    rfl
  rw [hbox]
  split
  · next h =>
    obtain ⟨rfl, rfl⟩ := h
    have hsame := State.mailbox_setMailbox_same s ((s.mailbox (coreDie g.core) (coreCluster g.core)).post (s.trapMsg g t tid kind code aval va))
    rwa [pdie, pclus, hdie, hclus] at hsame
  · next h =>
    exact State.mailbox_setMailbox_of_ne s _ (by rwa [pdie, pclus, hdie, hclus])

theorem State.thread?_of_group {s : State} {gid tid : Nat} {g : Group} {t : Thread} (hg : s.group? gid = some g)
    (ht : g.thread? tid = some t) : s.thread? gid tid = some t := by
  rw [State.thread?, hg, Option.bind_some, ht]

theorem State.sameOthers_updThread (s : State) (gid tid : Nat) (f : Thread → Thread) : s.sameOthers (s.updThread gid tid f) gid tid := by
  intro h u hne
  rw [State.thread?_updThread]
  simp [hne]

theorem State.sameOthers_takeTrap (s : State) (gid tid kind code : Nat) (aval : Word) (va : DWord) :
    s.sameOthers (s.takeTrap gid tid kind code aval va) gid tid := by
  intro h u hne
  rw [State.thread?_takeTrap]
  simp [hne]

/-! ### The return from a trap (R380, R381) -/

theorem State.thread?_resumeThread_parked {s : State} {gid tid : Nat} {pc : PC} {t : Thread} (ht : s.thread? gid tid = some t)
    (hst : t.st = .parked .trap) :
    (s.resumeThread gid tid pc).thread? gid tid
      = some { t with st := .ready, trapAt := none, waitSince := s.cycle, pc := pc, packet := if pc = t.pc then t.packet else [], fence := none } := by
  rw [State.resumeThread, State.thread?_updThread_self _ ht, if_pos hst]

theorem State.thread?_resumeThread_other {s : State} {gid tid : Nat} {pc : PC} {t : Thread} (ht : s.thread? gid tid = some t)
    (hst : t.st ≠ .parked .trap) : (s.resumeThread gid tid pc).thread? gid tid = some t := by
  rw [State.resumeThread, State.thread?_updThread_self _ ht, if_neg hst]

/-- A thread that stands ready after a trap of kind 4 or 5, with a flag raised that its context traps on, takes its arithmetic trap. -/
theorem State.arithLate_ready {s : State} {gid tid : Nat} {g : Group} {t old : Thread} {k c : Nat} {v : Word}
    (hold : old.trapAt = some (k, c, v)) (hg : s.group? gid = some g) (ht : s.thread? gid tid = some t) (hst : t.st = .ready) :
    s.arithLate gid tid (some old)
      = if (k = 4 ∨ k = 5) ∧ t.raised &&& s.trapen g.asid ≠ 0 then s.takeTrap gid tid 6 0 (t.raised.setWidth 32) else s := by
  rw [State.arithLate, Option.bind_some, hold, hg, ht]
  simp only [hst, and_true, bne_iff_ne]

theorem State.trapReturn_parked {s : State} {gid tid : Nat} {pc : PC} {g : Group} {t : Thread} {k c : Nat} {v : Word}
    (hg : s.group? gid = some g) (ht : s.thread? gid tid = some t) (hst : t.st = .parked .trap) (hat : t.trapAt = some (k, c, v)) :
    s.trapReturn gid tid pc = if (k = 4 ∨ k = 5) ∧ t.raised &&& s.trapen g.asid ≠ 0
      then (s.resumeThread gid tid pc).takeTrap gid tid 6 0 (t.raised.setWidth 32) else s.resumeThread gid tid pc := by
  obtain ⟨th, hg'⟩ : ∃ th, (s.resumeThread gid tid pc).group? gid = some { g with threads := th } :=
    State.group?_updThread s gid tid _ gid g hg
  rw [State.trapReturn, ht]
  have hlate := State.arithLate_ready hat hg' (State.thread?_resumeThread_parked ht hst) rfl
  exact hlate

end Sys2Proof.Machine
end

section
/-! THEOREMS. The integer operations of the atomics, and taking a trap and returning from it. -/

open Sys2Proof Sys2Proof.Machine

/-- Settles O32: each operation, on numbers, is that of the bit vectors. -/
theorem atomicOperations : Obligations.AtomicOperations := by
  intro w old b hw hold hb x y
  have hpos : 0 < w := by omega
  have hx : x.toNat = old := by rw [BitVec.toNat_ofNat, Nat.mod_eq_of_lt hold]
  have hy : y.toNat = b := by rw [BitVec.toNat_ofNat, Nat.mod_eq_of_lt hb]
  have sx : sval w old = x.toInt := sval_eq_toInt old hpos
  have sy : sval w b = y.toInt := sval_eq_toInt b hpos
  refine ⟨?add, ?min, ?max, rfl, rfl, ?and, ?or, ?xor, rfl, rfl, rfl⟩
  case add => rw [BitVec.toNat_add, hx, hy]; rfl
  case min => rw [← sx, ← sy]; rfl
  case max => rw [← sx, ← sy]; rfl
  case and => rw [BitVec.toNat_and, hx, hy]; rfl
  case or => rw [BitVec.toNat_or, hx, hy]; rfl
  case xor => rw [BitVec.toNat_xor, hx, hy]; rfl

/-- Settles O37: the thread from what `takeTrap` does to it, the mailbox from what posting its message does, and the return from the two
cases of `resumeThread`. -/
theorem trapEntryAndReturn : Obligations.TrapEntryAndReturn := by
  refine ⟨fun s gid tid kind code aval g t hg ht hrole => ?taken, fun s gid tid pc t ht => ?returned⟩
  case taken =>
    intro u box box'
    have hthread : s.thread? gid tid = some t := State.thread?_of_group hg ht
    have hbox : ∀ d c, u.mailbox d c = _ := fun d c => State.mailbox_takeTrap kind code aval 0 hg ht hrole d c
    have hpost : box' = box.post (s.trapMsg g t tid kind code aval 0) := (hbox _ _).trans (if_pos ⟨rfl, rfl⟩)
    obtain ⟨-, -, hslot⟩ := box.post_cases (s.trapMsg g t tid kind code aval 0)
    have hx : u.thread? gid tid = _ := State.thread?_takeTrap s gid tid kind code aval 0 gid tid
    rw [hthread, Option.map_some, if_pos ⟨rfl, rfl⟩] at hx
    refine ⟨⟨_, hx, rfl, rfl, rfl, rfl, rfl, rfl, rfl⟩, ?_,
      fun d c hne => (hbox d c).trans (if_neg hne), (State.takeTrap_same ..).sameMemory, State.sameOthers_takeTrap s gid tid kind code aval 0⟩
    rw [hpost]
    rcases hslot with ⟨r, h⟩ | ⟨hroom, h⟩
    · refine ⟨{ s.trapMsg g t tid kind code aval 0 with reserved := r }, rfl, rfl, rfl, rfl, rfl, State.group?_gid hg, rfl, rfl, .inl ?_⟩
      rw [h]
      exact ⟨rfl, rfl⟩
    · refine ⟨s.trapMsg g t tid kind code aval 0, rfl, rfl, rfl, rfl, rfl, State.group?_gid hg, rfl, rfl, .inr ⟨hroom, ?_⟩⟩
      rw [h]
      exact ⟨rfl, rfl⟩
  case returned =>
    intro u
    exact ⟨fun hst => ⟨_, State.thread?_resumeThread_parked ht hst, rfl, rfl, rfl, rfl, rfl, rfl⟩,
      State.thread?_resumeThread_other ht, (State.updThread_same ..).sameMemory, State.sameOthers_updThread s gid tid _,
      fun g k c v hg hst hat => State.trapReturn_parked hg ht hst hat⟩
end

section
/-! SUPPORT. A lane-exchange word with its result granted (R41, R128), and the fetch of a packet (R36, R40). -/

namespace Sys2Proof.Machine

/-- A lane-exchange word that has its result writes it, and the wake rules of its group follow. -/
theorem exchange_granted {i : Instr} {l : Lane} {s : State} {ws : List Word} (op d a b : Nat) (hgrant : l.grant s = some ws) (h : Issues i l s) :
    let t := ((s.advanced l).updLane l fun t => t.setWords d ws).settled i l s
    exchange i op d a b s = .next (t.settleGroup t.issue.gid) := by
  have hf : l.grant (s.advanced l) = some ws := hgrant
  rw [exchange, runWord_one (t := (s.advanced l).updLane l fun t => t.setWords d ws) h (by rw [hf])]
  rfl

/-! ### The fetch of a packet (R36, R40) -/

/-- The state in which a thread of a group has fetched the packet at its PC: the translation and the lines that its core now holds. -/
def State.fetched (s : State) (g : Group) (t : Thread) : State :=
  (s.tlbFill g.core (coreDie g.core) g.asid t.pc.pkt.toNat).touchFor { x := true } g.core (coreDie g.core) g.asid t.pc.pkt.toNat 12

section
variable {s : State} {gid tid : Nat} {g : Group} {t : Thread} (hg : s.group? gid = some g) (ht : s.thread? gid tid = some t)
include hg ht

omit hg in
theorem execInstructionFetch_ready (hst : t.st = .ready) (hpacket : t.packet = []) : execInstructionFetch gid tid s = .next (s.fetch gid tid) := by
  simp only [execInstructionFetch, ht, hst, hpacket, and_self, if_true]

/-- A thread takes a packet that R40 allows, and any packet once it stands inside it. -/
theorem State.fetch_legal {ws : List Word} (hws : s.fetchPacket g t.pc.pkt.toNat = .ok ws) (hok : t.pc.slot ≠ 0 ∨ illegalPacket ws = false) :
    s.fetch gid tid = (s.fetched g t).updThread gid tid fun t => { t with packet := ws } := by
  have hno : ¬(decide (t.pc.slot = 0) && illegalPacket ws) = true := by
    rcases hok with h | h <;> simp [h]
  simp only [State.fetch, hg, ht, hws]
  exact if_neg hno

theorem State.fetch_illegal {ws : List Word} (hws : s.fetchPacket g t.pc.pkt.toNat = .ok ws) (hslot : t.pc.slot = 0) (hbad : illegalPacket ws = true) :
    s.fetch gid tid = (s.fetched g t).takeTrap gid tid 2 0 0 := by
  simp only [State.fetch, hg, ht, hws]
  exact if_pos (by rw [hslot, hbad]; rfl)

theorem State.fetch_fault {va kind : Nat} (hws : s.fetchPacket g t.pc.pkt.toNat = .error (va, kind)) :
    s.fetch gid tid = s.applyStop gid tid (.fault (BitVec.ofNat 64 va) kind 3) := by
  simp only [State.fetch, hg, ht, hws]

end

end Sys2Proof.Machine
end

section
/-! THEOREMS. The lane-exchange words, and what happens to a thread of itself. -/

open Sys2Proof Sys2Proof.Machine

/-- Settles O17: the eleven words are one operation. -/
theorem laneExchangeWords : Obligations.LaneExchangeWords := by
  intro c d a b s l ws hgrant gives
  exact ⟨exchange_granted 0 _ _ _ hgrant, exchange_granted 1 _ _ _ hgrant, exchange_granted 2 _ _ _ hgrant, exchange_granted 3 _ _ _ hgrant,
    exchange_granted 4 _ _ _ hgrant, exchange_granted 5 _ _ _ hgrant, exchange_granted 6 _ _ _ hgrant, exchange_granted 7 _ _ _ hgrant,
    exchange_granted 8 _ _ _ hgrant, exchange_granted 9 _ _ _ hgrant, exchange_granted 10 _ _ _ hgrant⟩

/-- Settles O29: each event is enabled by the thread's state, and a fetch goes as its packet says. -/
theorem threadEvents : Obligations.ThreadEvents := by
  intro s gid tid g t ws va kind w hg ht words fill
  have hfetch : t.st = .ready → t.packet = [] → exec (.instructionFetch gid tid) s = .next (s.fetch gid tid) := execInstructionFetch_ready ht
  refine ⟨fun hst hp hws hok => ?legal, fun hst hp hws hslot hbad => ?illegal, fun hst hp hws => ?fault, fun hskid hst => ?skid,
    fun u hst hu => ?yield, fun f hst hdone => ?fence, fun e table hst hdone => ?commit, fun htids => ?none⟩
  case legal => rw [hfetch hst hp, State.fetch_legal hg ht hws hok]; rfl
  case illegal => rw [hfetch hst hp, State.fetch_illegal hg ht hws hslot hbad]; rfl
  case fault => rw [hfetch hst hp, State.fetch_fault hg ht hws]
  case skid =>
    show execPoisonSkid gid tid s = _
    simp only [execPoisonSkid, ht]
    exact if_pos ⟨hskid, hst⟩
  case yield =>
    show execYieldExpiry gid tid s = _
    simp only [execYieldExpiry, ht, hst, hu, if_true]
  case fence =>
    show execFenceComplete gid tid s = _
    simp only [execFenceComplete, hg, ht, hst, hdone, if_true]
  case commit =>
    show execFenceComplete gid tid s = _
    simp only [execFenceComplete, hg, ht, hst]
    exact if_pos hdone
  case none =>
    show execNotAnInstruction w s = _
    rw [execNotAnInstruction, htids]
    rfl
end

section
/-! SUPPORT. Which packets R40 forbids, and what the fetch of a packet leaves of memory (R36, R290). -/

namespace Sys2Proof.Machine

/-! ### The chains of a packet (R39, R40) -/

/-- Two words of one chain that need the same pipe: any two of one pipe but FP, or three of FP. -/
theorem pipeClash_iff (ps : List (Option Pipe)) :
    pipeClash ps = true ↔ (∃ p : Pipe, p ≠ .fp ∧ 2 ≤ ps.count (some p)) ∨ 3 ≤ ps.count (some .fp) := by
  have hcount : ∀ p : Pipe, (ps.filter (· == some p)).length = ps.count (some p) := fun p => List.count_eq_length_filter.symm
  simp only [pipeClash, hcount, Bool.or_eq_true, decide_eq_true_eq, List.any_eq_true]
  refine or_congr_left ⟨fun ⟨p, hp, h⟩ => ⟨p, ?_, h⟩, fun ⟨p, hp, h⟩ => ⟨p, ?_, h⟩⟩
  · rintro rfl
    simp at hp
  · cases p <;> simp at hp ⊢

/-- Two pipes that two words of one chain cannot both need. -/
def samePipe (p q : Option Pipe) : Prop := p = q ∧ p ≠ none ∧ p ≠ some .fp

theorem pipeClash_one (p : Option Pipe) : pipeClash [p] = false := by
  rw [Bool.eq_false_iff, ne_eq, pipeClash_iff]
  have hlen : ∀ q, [p].count q ≤ 1 := fun q => List.count_le_length
  rintro (⟨q, -, h⟩ | h)
  · have := hlen (some q); omega
  · have := hlen (some .fp); omega

theorem pipeClash_two (p q : Option Pipe) : pipeClash [p, q] = true ↔ samePipe p q := by
  rw [pipeClash_iff]
  constructor
  · rintro (⟨r, hr, h⟩ | h)
    · by_cases hp : p = some r <;> by_cases hq : q = some r <;> simp_all [samePipe]
    · have := List.count_le_length (a := some Pipe.fp) (l := [p, q])
      simp only [List.length_cons, List.length_nil] at this
      omega
  · rintro ⟨rfl, hnone, hfp⟩
    obtain ⟨r, rfl⟩ := Option.ne_none_iff_exists'.mp hnone
    exact .inl ⟨r, by simpa using hfp, by simp⟩

theorem pipeClash_three (p q r : Option Pipe) :
    pipeClash [p, q, r] = true ↔ samePipe p q ∨ samePipe q r ∨ samePipe p r ∨ (p = some .fp ∧ q = some .fp ∧ r = some .fp) := by
  rw [pipeClash_iff]
  constructor
  · rintro (⟨x, hx, h⟩ | h)
    · by_cases hp : p = some x <;> by_cases hq : q = some x <;> by_cases hr : r = some x <;> simp_all [samePipe]
    · by_cases hp : p = some .fp <;> by_cases hq : q = some .fp <;> by_cases hr : r = some .fp <;> simp_all
  · have twice : ∀ {x y : Option Pipe} (l : List (Option Pipe)), samePipe x y → (∀ z, 2 ≤ [x, y].count z → 2 ≤ l.count z) →
        (∃ p : Pipe, p ≠ .fp ∧ 2 ≤ l.count (some p)) := by
      rintro x y l ⟨rfl, hnone, hfp⟩ hl
      obtain ⟨z, rfl⟩ := Option.ne_none_iff_exists'.mp hnone
      exact ⟨z, by simpa using hfp, hl _ (by simp)⟩
    rintro (h | h | h | ⟨rfl, rfl, rfl⟩)
    · exact .inl (twice _ h fun z hz => by simp only [List.count_cons] at hz ⊢; omega)
    · exact .inl (twice _ h fun z hz => by simp only [List.count_cons] at hz ⊢; omega)
    · exact .inl (twice _ h fun z hz => by simp only [List.count_cons] at hz ⊢; omega)
    · exact .inr (by simp)

/-- The chains of three words, by the chain bits of the first two. -/
theorem chainsOf_three (w0 w1 w2 : Word) :
    chainsOf 3 [w0, w1, w2] = match chained w0, chained w1 with
      | true, true => [[w0, w1, w2]]
      | true, false => [[w0, w1], [w2]]
      | false, true => [[w0], [w1, w2]]
      | false, false => [[w0], [w1], [w2]] := by
  cases h0 : chained w0 <;> cases h1 : chained w1 <;> simp [chainsOf, chainFrom, h0, h1]

theorem illegalPacket_three (w0 w1 w2 : Word) :
    illegalPacket [w0, w1, w2] = true ↔ chained w2 = true
      ∨ ((chainsOf 3 [w0, w1, w2]).any fun c => pipeClash (c.map fun w => pipeOf w.toNat)) = true
      ∨ (chained w0 = true ∧ pipeOf w0.toNat = some .ctl) ∨ (chained w1 = true ∧ pipeOf w1.toNat = some .ctl) := by
  simp only [illegalPacket, Bool.or_eq_true, List.any_cons, List.any_nil, Bool.or_false, Bool.and_eq_true, beq_iff_eq]
  simp only [List.getD_cons_succ, List.getD_cons_zero]
  tauto

/-! ### What a fetch leaves (R36, R290) -/

/-- A die's note that it has touched a line changes no copy. -/
theorem State.touch_heldLine (s : State) (d l k : Nat) : (s.touch d l).heldLine k = s.heldLine k := by
  generalize hf : (fun p : Nat × DieLine => if p.1 == d && p.2.line == l then (p.1, { p.2 with last := s.tsc }) else p) = f
  have hkeep : ∀ p, (f p).2.line = p.2.line ∧ (f p).2.st = p.2.st ∧ (f p).2.data = p.2.data := by
    intro p
    subst hf
    dsimp only
    split <;> exact ⟨rfl, rfl, rfl⟩
  have hfind : (s.touch d l).lines.find? (fun p => p.2.line == k && p.2.st.owns)
      = (s.lines.find? fun p => p.2.line == k && p.2.st.owns).map f := by
    have hlines : (s.touch d l).lines = s.lines.map f := by rw [← hf]; rfl
    rw [hlines, List.find?_map]
    congr 2
    funext p
    simp only [Function.comp, (hkeep p).1, (hkeep p).2.1]
  simp only [State.heldLine, hfind]
  cases s.lines.find? fun p => p.2.line == k && p.2.st.owns with
  | none => rfl
  | some p => exact congrArg some (hkeep p).2.2

theorem State.touch_sameMemory (s : State) (d l : Nat) : s.sameMemory (s.touch d l) :=
  ⟨fun a => by simp only [State.physByte, State.touch_heldLine]; rfl, rfl⟩

/-- A unit's reading leaves every group, thread and mailbox, and all of memory. -/
structure State.onlyRead (s t : State) : Prop where
  groups : t.groups = s.groups
  mailboxes : t.mailboxes = s.mailboxes
  memory : s.sameMemory t

theorem State.onlyRead.trans {s t u : State} (h : s.onlyRead t) (k : t.onlyRead u) : s.onlyRead u :=
  ⟨k.groups.trans h.groups, k.mailboxes.trans h.mailboxes, State.sameMemory_trans h.memory k.memory⟩

theorem State.onlyRead_refl (s : State) : s.onlyRead s := ⟨rfl, rfl, fun _ => rfl, rfl⟩

theorem foldl_onlyRead {α : Type} {f : State → α → State} (h : ∀ (s : State) (x : α), s.onlyRead (f s x)) (l : List α) (s : State) :
    s.onlyRead (l.foldl f s) := by
  induction l generalizing s with
  | nil => exact s.onlyRead_refl
  | cons x xs ih => exact (h s x).trans (ih (f s x))

theorem State.touch_onlyRead (s : State) (die l : Nat) : s.onlyRead (s.touch die l) := ⟨rfl, rfl, s.touch_sameMemory die l⟩

theorem State.touchPieces_onlyRead (s : State) (die : Nat) (ps : List (Trans × Nat)) : s.onlyRead (s.touchPieces die ps) :=
  foldl_onlyRead (fun s l => s.touch_onlyRead die l) _ s

theorem State.touchFor_onlyRead (s : State) (need : Need) (unit die asid va n : Nat) : s.onlyRead (s.touchFor need unit die asid va n) := by
  unfold State.touchFor
  split
  · exact s.onlyRead_refl
  · exact s.touchPieces_onlyRead die _

theorem State.tlbFill_onlyRead (s : State) (unit die asid va : Nat) : s.onlyRead (s.tlbFill unit die asid va) := by
  obtain ⟨ts, ds, h⟩ := s.tlbFill_eq unit die asid va
  rw [h]
  exact ⟨rfl, rfl, State.sameMemory_of_copies rfl rfl rfl rfl rfl⟩

theorem State.fetched_onlyRead (s : State) (g : Group) (t : Thread) : s.onlyRead (s.fetched g t) :=
  (s.tlbFill_onlyRead ..).trans (State.touchFor_onlyRead ..)

section
variable {s t : State} (h : s.onlyRead t)
include h

theorem State.onlyRead.group? (gid : Nat) : t.group? gid = s.group? gid := by rw [State.group?, h.groups]; rfl

theorem State.onlyRead.thread? (gid tid : Nat) : t.thread? gid tid = s.thread? gid tid := by rw [State.thread?, h.group?]; rfl

theorem State.onlyRead.mailbox (d c : Nat) : t.mailbox d c = s.mailbox d c := by rw [State.mailbox, h.mailboxes]; rfl

end

/-- The message that a mailbox is sent stands in it. -/
theorem Mailbox.exists_post (b : Mailbox) (x : TrapMsg) : ∃ r, { x with reserved := r } ∈ (b.post x).slots ++ (b.post x).pending := by
  obtain ⟨-, -, ⟨r, h⟩ | ⟨-, h⟩⟩ := b.post_cases x
  · exact ⟨r, by rw [h]; simp⟩
  · exact ⟨x.reserved, by rw [h]; simp⟩

end Sys2Proof.Machine
end

section
/-! THEOREMS. Illegal Packet. -/

open Sys2Proof Sys2Proof.Machine

/-- Settles O54: the check by the four ways in which three words fall into chains; what comes of it by the fetch and the trap. -/
theorem illegalPackets : Obligations.IllegalPackets := by
  intro w0 w1 w2 pipe clash ctl a b
  refine ⟨?check, fun s gid tid g t hg ht hrole hst hpacket hws hbad => ?reached⟩
  case check =>
    rw [illegalPacket_three, chainsOf_three]
    have hclash : ∀ x y, clash x y ↔ samePipe (pipe x) (pipe y) := fun _ _ => Iff.rfl
    simp only [hclash, a, b, ctl, pipe]
    cases h0 : chained w0 <;> cases h1 : chained w1 <;> simp [pipeClash_one, pipeClash_two, pipeClash_three] <;> tauto
  case reached =>
    have hread := s.fetched_onlyRead g t
    have hexec : exec (.instructionFetch gid tid) s = .next (s.fetch gid tid) := execInstructionFetch_ready ht hst hpacket
    have ht' : (s.fetched g t).thread? gid tid = some t := (hread.thread? gid tid).trans ht
    have hg' : (s.fetched g t).group? gid = some g := (hread.group? gid).trans hg
    by_cases hslot : t.pc.slot = 0
    · rw [hexec, State.fetch_illegal hg ht hws hslot hbad]
      have hthread := State.thread?_takeTrap (s.fetched g t) gid tid 2 0 0 0 gid tid
      rw [ht', Option.map_some, if_pos ⟨rfl, rfl⟩] at hthread
      refine ⟨_, _, rfl, hthread, rfl, rfl, rfl, State.sameMemory_trans hread.memory (State.takeTrap_same ..).sameMemory, fun _ => ⟨rfl, hpacket, ?_⟩,
        fun h => absurd hslot h⟩
      have hgt : g.thread? tid = some t := by rw [State.thread?, hg, Option.bind_some] at ht; exact ht
      rw [State.mailbox_takeTrap 2 0 0 0 hg' hgt hrole, if_pos ⟨rfl, rfl⟩]
      obtain ⟨r, hr⟩ := Mailbox.exists_post ((s.fetched g t).mailbox (coreDie g.core) (coreCluster g.core)) ((s.fetched g t).trapMsg g t tid 2 0 0 0)
      exact ⟨_, hr, rfl, rfl, State.group?_gid hg, rfl⟩
    · rw [hexec, State.fetch_legal hg ht hws (.inl hslot)]
      exact ⟨_, _, rfl, State.thread?_updThread_self _ ht', rfl, rfl, rfl, State.sameMemory_trans hread.memory (State.updThread_same ..).sameMemory,
        fun h => absurd h hslot, fun _ => ⟨hst, rfl⟩⟩
end

section
/-! SUPPORT. What a stop leaves of its thread and of memory (R41, R375, R382). -/

namespace Sys2Proof.Machine

/-! ### What a stopped chain leaves of its thread (R41) -/

/-- Two threads with one PC, and the same registers, predicates, flags and generator state. -/
structure Thread.sameValues (t x : Thread) : Prop where
  regs : x.regs = t.regs
  shadow : x.shadow = t.shadow
  preds : x.preds = t.preds
  flags : x.flags = t.flags
  pc : x.pc = t.pc
  key : x.key = t.key
  ctr : x.ctr = t.ctr

theorem Thread.sameValues_refl (t : Thread) : t.sameValues t := ⟨rfl, rfl, rfl, rfl, rfl, rfl, rfl⟩

theorem Thread.sameValues.trans {t x y : Thread} (h : t.sameValues x) (k : x.sameValues y) : t.sameValues y :=
  ⟨k.regs.trans h.regs, k.shadow.trans h.shadow, k.preds.trans h.preds, k.flags.trans h.flags, k.pc.trans h.pc, k.key.trans h.key, k.ctr.trans h.ctr⟩

/-- A thread of a state stands in another with the values that it had. -/
def State.keepsValues (s u : State) (gid tid : Nat) : Prop :=
  ∀ t, s.thread? gid tid = some t → ∃ x, u.thread? gid tid = some x ∧ t.sameValues x

theorem State.keepsValues.trans {s u v : State} {gid tid : Nat} (h : s.keepsValues u gid tid) (k : u.keepsValues v gid tid) : s.keepsValues v gid tid := by
  intro t ht
  obtain ⟨x, hx, htx⟩ := h t ht
  obtain ⟨y, hy, hxy⟩ := k x hx
  exact ⟨y, hy, htx.trans hxy⟩

theorem State.keepsValues_of_thread {s u : State} {gid tid : Nat} (h : u.thread? gid tid = s.thread? gid tid) : s.keepsValues u gid tid :=
  fun t ht => ⟨t, h.trans ht, Thread.sameValues_refl t⟩

theorem State.keepsValues_updThread (s : State) (gid tid : Nat) {f : Thread → Thread} (hf : ∀ t : Thread, t.sameValues { f t with tid := t.tid }) :
    s.keepsValues (s.updThread gid tid f) gid tid :=
  fun t ht => ⟨_, State.thread?_updThread_self f ht, hf t⟩

theorem State.keepsValues_takeTrap (s : State) (gid tid kind code : Nat) (aval : Word) (va : DWord) :
    s.keepsValues (s.takeTrap gid tid kind code aval va) gid tid := by
  intro t ht
  refine ⟨_, by rw [State.thread?_takeTrap, ht, Option.map_some, if_pos ⟨rfl, rfl⟩], ?_⟩
  exact ⟨rfl, rfl, rfl, rfl, rfl, rfl, rfl⟩

/-- A change to a group that leaves its threads leaves every thread of the state. -/
theorem State.thread?_updGroup_of_threads (s : State) (g : Nat) (f : Group → Group) (hgid : ∀ x, (f x).gid = x.gid)
    (hthreads : ∀ x, (f x).threads = x.threads) (gid tid : Nat) : (s.updGroup g f).thread? gid tid = s.thread? gid tid := by
  have hthread : ∀ x : Group, (f x).thread? tid = x.thread? tid := fun x => by rw [Group.thread?, hthreads]; rfl
  simp only [State.thread?, State.group?_updGroup s g gid f hgid]
  cases s.group? gid with
  | none => rfl
  | some x => by_cases h : gid = g <;> simp [h, hthread]

/-- The rein changes of a thread no more than that it is ready. -/
theorem State.keepsValues_reinTo (s : State) (core g gid tid : Nat) : s.keepsValues (s.reinTo core g) gid tid := by
  intro t ht
  generalize hwake : (fun t : Thread => if t.st = .parked .rein then { t with st := .ready, waitSince := s.cycle } else t) = wake
  have hsame : ∀ x, x.sameValues (wake x) ∧ (wake x).tid = x.tid := by
    intro x
    rw [← hwake]
    dsimp only
    split <;> exact ⟨⟨rfl, rfl, rfl, rfl, rfl, rfl, rfl⟩, rfl⟩
  generalize hrein : (fun x : Group => { x with awaitRein := false, threads := x.threads.map wake }) = rein
  have hgroup : (s.reinTo core g).group? gid = (s.group? gid).map fun x => if gid = g then rein x else x := by
    rw [← hrein, ← hwake]
    exact State.group?_updGroup (s.updCore core _) g gid _ fun _ => rfl
  obtain ⟨x, hx, hxt⟩ := Option.bind_eq_some_iff.mp ht
  have hthread : (rein x).thread? tid = some (wake t) := by
    rw [← hrein]
    show (x.threads.map wake).find? _ = _
    rw [List.find?_map]
    have hpred : ((fun y : Thread => y.tid == tid) ∘ wake) = fun y => y.tid == tid := funext fun y => by rw [Function.comp, (hsame y).2]
    rw [hpred]
    exact congrArg (Option.map wake) hxt
  by_cases h : gid = g
  · exact ⟨wake t, by rw [State.thread?, hgroup, hx, Option.map_some, if_pos h, Option.bind_some, hthread], (hsame t).1⟩
  · exact ⟨t, by rw [State.thread?, hgroup, hx, Option.map_some, if_neg h, Option.bind_some, hxt], Thread.sameValues_refl t⟩

theorem State.keepsValues_joinRein (s : State) (core g gid tid : Nat) : s.keepsValues (s.joinRein core g) gid tid := by
  unfold State.joinRein
  dsimp only
  split
  · exact s.keepsValues_reinTo core g gid tid
  · split <;> exact State.keepsValues_of_thread rfl

/-! ### The record of a fault leaves the threads that stand at it (R229, R382) -/

/-- A thread that stands parked under a fault is the same in another state. -/
def State.keepsHeld (s u : State) (gid tid : Nat) : Prop :=
  ∀ t, s.thread? gid tid = some t → t.st = .parked .access → u.thread? gid tid = some t

section
variable {gid tid : Nat}

theorem State.keepsHeld_of_groups {s u : State} (h : u.groups = s.groups) : s.keepsHeld u gid tid := by
  intro t ht _
  rw [State.thread?, State.group?, h]
  exact ht

theorem State.keepsHeld.trans {s u v : State} (h : s.keepsHeld u gid tid) (k : u.keepsHeld v gid tid) : s.keepsHeld v gid tid :=
  fun t ht hst => k t (h t ht hst) hst

theorem foldl_keepsHeld {α : Type} {f : State → α → State} (h : ∀ (s : State) (x : α), s.keepsHeld (f s x) gid tid) (l : List α) (s : State) :
    s.keepsHeld (l.foldl f s) gid tid := by
  induction l generalizing s with
  | nil => exact State.keepsHeld_of_groups rfl
  | cons x xs ih => exact (h s x).trans (ih (f s x))

/-- A change that leaves a thread under a fault as it is. -/
theorem State.keepsHeld_updThread (s : State) (g t : Nat) {f : Thread → Thread} (hf : ∀ x, x.st = .parked .access → f x = x) :
    s.keepsHeld (s.updThread g t f) gid tid := by
  intro x hx hst
  rw [State.thread?_updThread, hx, Option.map_some, hf x hst]
  exact congrArg some (ite_self x)

/-- A monitor wakes a thread that waits at it, and no thread that stands under a fault. -/
theorem State.keepsHeld_wakeMonitor (s : State) (m : Monitor) (status : Nat) : s.keepsHeld (s.wakeMonitor m status) gid tid := by
  unfold State.wakeMonitor
  dsimp only
  split
  · split
    · refine State.keepsHeld.trans (State.keepsHeld_of_groups ?_) (State.keepsHeld_updThread _ _ _ fun x hx => ?_)
      · split <;> rfl
      · rw [if_neg]
        rw [hx]
        exact fun h => by cases h
    · exact State.keepsHeld_of_groups rfl
  · split
    · split
      · unfold State.queueCmdDone
        dsimp only
        split <;> exact State.keepsHeld_of_groups rfl
      · exact State.keepsHeld_of_groups rfl
    · exact State.keepsHeld_of_groups rfl
  · exact State.keepsHeld_of_groups rfl

theorem State.setPhysBytes_groups (s : State) (pa : Nat) (bs : List Byte) : (s.setPhysBytes pa bs).groups = s.groups := by
  induction bs generalizing s pa with
  | nil => rfl
  | cons b bs ih => exact ih (s.setPhysByte pa b) (pa + 1)

theorem State.keepsHeld_writePhys (s : State) (die asid pa : Nat) (bs : List Byte) : s.keepsHeld (s.writePhys die asid pa bs) gid tid := by
  refine (State.keepsHeld_of_groups (s.setPhysBytes_groups pa bs)).trans (foldl_keepsHeld (fun s l => ?_) _ _)
  refine State.keepsHeld.trans (u := (s.setWriter l asid).noteWrite l _ _) (State.keepsHeld_of_groups rfl) (foldl_keepsHeld (fun s m => ?_) _ _)
  split
  · exact s.keepsHeld_wakeMonitor m 0
  · exact State.keepsHeld_of_groups rfl

theorem State.keepsHeld_writeTrans (s : State) (die asid : Nat) (t : Trans) (bs : List Byte) : s.keepsHeld (s.writeTrans die asid t bs) gid tid := by
  unfold State.writeTrans
  split
  · exact State.keepsHeld_of_groups rfl
  · split
    · exact State.keepsHeld_of_groups rfl
    · exact s.keepsHeld_writePhys die asid t.pa bs

/-- The writing of bytes piece by piece, as `vwrite` does it. -/
theorem State.keepsHeld_vwrite {s : State} {unit die asid va : Nat} {bs : List Byte} {r : State × Nat} (hr : s.vwrite unit die asid va bs = .ok r) :
    s.keepsHeld r.1 gid tid := by
  unfold State.vwrite at hr
  split at hr
  · cases hr
  · next ps _ =>
    cases hr
    refine State.keepsHeld.trans ?_ (State.keepsHeld_of_groups (State.touchPieces_onlyRead ..).groups)
    suffices hpieces : ∀ (l : List (Trans × Nat)) (a : State × Nat × List Byte), s.keepsHeld a.1 gid tid →
        s.keepsHeld (l.foldl (fun (acc : State × Nat × List Byte) p =>
          (acc.1.writeTrans die asid p.1 (acc.2.2.take p.2), max acc.2.1 (acc.1.gwctOf p.1 p.2), acc.2.2.drop p.2)) a).1 gid tid from
      hpieces ps (s, 0, bs) (State.keepsHeld_of_groups rfl)
    intro l
    induction l with
    | nil => exact fun a ha => ha
    | cons p ps ih => exact fun a ha => ih _ (ha.trans (a.1.keepsHeld_writeTrans die asid p.1 _))

theorem State.keepsHeld_ctlWrite {s u : State} {asid va : Nat} {bs : List Byte} (h : s.ctlWrite asid va bs = some u) : s.keepsHeld u gid tid := by
  unfold State.ctlWrite at h
  split at h
  · next r hr =>
    cases h
    exact State.keepsHeld_vwrite hr
  · cases h

theorem State.keepsHeld_writeFaultHeader (s : State) (asid : Nat) : s.keepsHeld (s.writeFaultHeader asid) gid tid := by
  unfold State.writeFaultHeader
  split
  · exact State.keepsHeld_of_groups rfl
  · next c _ =>
    cases hw : s.ctlWrite asid (c.fqbase.toNat + 8) (natToBytes 4 (if c.fheld > 0 then 1 else 0) ++ natToBytes 4 c.fheld ++ natToBytes 4 c.fovcnt) with
    | none => exact State.keepsHeld_of_groups rfl
    | some u => exact State.keepsHeld_ctlWrite hw

theorem State.keepsHeld_tryPost {s u : State} {c : Context} {f : FaultRec} (h : s.tryPost c f = some u) : s.keepsHeld u gid tid := by
  unfold State.tryPost at h
  split at h
  · cases h
  · split at h
    · cases h
    · split at h
      · cases h
      · next s1 h1 => exact (State.keepsHeld_ctlWrite h1).trans (State.keepsHeld_ctlWrite h)

theorem State.keepsHeld_postFault (s : State) (asid va kind acc src : Nat) (item : HeldItem) :
    s.keepsHeld (s.postFault asid va kind acc src item) gid tid := by
  unfold State.postFault
  split
  · exact State.keepsHeld_of_groups rfl
  · split
    · exact State.keepsHeld_of_groups rfl
    · dsimp only
      split
      · exact State.keepsHeld_of_groups rfl
      · split
        · next s1 h1 =>
          exact (State.keepsHeld_of_groups (u := s.fresh) rfl).trans ((State.keepsHeld_tryPost h1).trans (State.keepsHeld_of_groups rfl))
        · refine State.keepsHeld.trans ?_ (State.keepsHeld_writeFaultHeader _ asid)
          split <;> exact State.keepsHeld_of_groups rfl

end

/-! ### Every stop (R41) -/

theorem State.keepsValues_faultThread (s : State) (gid tid : Nat) (va : DWord) (k acc : Nat) :
    s.keepsValues (s.faultThread gid tid va k acc) gid tid := by
  unfold State.faultThread
  split
  · exact State.keepsValues_of_thread rfl
  · next g _ =>
    have hposted : ∀ src, s.keepsValues ((s.parkThread gid tid .access).postFault g.asid va.toNat k acc src (.thread gid tid)) gid tid :=
      fun src t ht => ⟨_, State.keepsHeld_postFault _ _ _ _ _ _ _ _ (State.thread?_updThread_self _ ht) rfl, ⟨rfl, rfl, rfl, rfl, rfl, rfl, rfl⟩⟩
    have trapped : ∀ (u : State) (fs : List FaultRec), s.keepsValues u gid tid →
        s.keepsValues (({ u with faults := fs } : State).takeTrap gid tid 9 k 0 va) gid tid :=
      fun u fs hu => State.keepsValues.trans hu (State.keepsValues_takeTrap { u with faults := fs } gid tid 9 k 0 va)
    dsimp only
    split
    · exact trapped _ _ (hposted _)
    · exact hposted _

/-- Whatever stops a chain, the thread keeps its registers, predicates, flags and PC. -/
theorem State.keepsValues_applyStop (s : State) (gid tid : Nat) (st : Stop) : s.keepsValues (s.applyStop gid tid st) gid tid := by
  have marked : ∀ (f : Thread → Thread) (h : Group → Group), (∀ t : Thread, t.sameValues { f t with tid := t.tid }) → (∀ x, (h x).gid = x.gid) →
      (∀ x, (h x).threads = x.threads) → s.keepsValues (((s.updThread gid tid f).updGroup gid h).takeTrap gid tid 7 0 0) gid tid := by
    intro f h hf hgid hthreads
    have hgroup := State.thread?_updGroup_of_threads (s.updThread gid tid f) gid h hgid hthreads gid tid
    exact (s.keepsValues_updThread gid tid hf).trans ((State.keepsValues_of_thread hgroup).trans (State.keepsValues_takeTrap _ gid tid 7 0 0 0))
  have own : ∀ f : Thread → Thread, (∀ t : Thread, t.sameValues { f t with tid := t.tid }) → s.keepsValues (s.updThread gid tid f) gid tid :=
    fun f hf => s.keepsValues_updThread gid tid hf
  cases st with
  | trap k c a => exact s.keepsValues_takeTrap gid tid k c a 0
  | parity rs ps us => exact marked _ _ (fun t => by constructor <;> simp) (fun _ => rfl) fun _ => rfl
  | poison rs ps us => exact marked _ _ (fun t => ⟨rfl, rfl, rfl, rfl, rfl, rfl, rfl⟩) (fun _ => rfl) fun _ => rfl
  | park c =>
    have hpark : s.keepsValues (s.parkThread gid tid c) gid tid := own _ fun _ => ⟨rfl, rfl, rfl, rfl, rfl, rfl, rfl⟩
    unfold State.applyStop
    dsimp only
    split
    · exact hpark.trans (State.keepsValues_joinRein _ _ gid gid tid)
    · exact hpark
  | fence f => exact own _ fun _ => ⟨rfl, rfl, rfl, rfl, rfl, rfl, rfl⟩
  | hold => exact own _ fun _ => ⟨rfl, rfl, rfl, rfl, rfl, rfl, rfl⟩
  | fill tile row => exact own _ fun _ => ⟨rfl, rfl, rfl, rfl, rfl, rfl, rfl⟩
  | ask commit edge table => exact own _ fun _ => ⟨rfl, rfl, rfl, rfl, rfl, rfl, rfl⟩
  | trailer sig => exact own _ fun _ => ⟨rfl, rfl, rfl, rfl, rfl, rfl, rfl⟩
  | fault va k acc => exact s.keepsValues_faultThread gid tid va k acc
  | entry va kind acc k sig => exact (s.keepsValues_faultThread gid tid va kind acc).trans (State.keepsValues_of_thread rfl)

/-- No stop but a fault's changes memory. -/
theorem State.sameMemory_applyStop (s : State) (gid tid : Nat) {st : Stop} (hfault : ∀ va k acc, st ≠ .fault va k acc)
    (hentry : ∀ va k acc n sig, st ≠ .entry va k acc n sig) : s.sameMemory (s.applyStop gid tid st) := by
  have trapped : ∀ (u : State) (k c : Nat) (a : Word), s.sameMemory u → s.sameMemory (u.takeTrap gid tid k c a 0) :=
    fun u k c a hu => State.sameMemory_trans hu (State.takeTrap_same u gid tid k c a 0).sameMemory
  cases st with
  | trap k c a => exact trapped s k c a ⟨fun _ => rfl, rfl⟩
  | parity rs ps us => exact trapped _ 7 0 0 ⟨fun _ => rfl, rfl⟩
  | poison rs ps us => exact trapped _ 7 0 0 ⟨fun _ => rfl, rfl⟩
  | park c =>
    unfold State.applyStop State.joinRein
    dsimp only
    split
    · split
      · exact ⟨fun _ => rfl, rfl⟩
      · split <;> exact ⟨fun _ => rfl, rfl⟩
    · exact ⟨fun _ => rfl, rfl⟩
  | fence f => exact ⟨fun _ => rfl, rfl⟩
  | hold => exact ⟨fun _ => rfl, rfl⟩
  | fill tile row => exact ⟨fun _ => rfl, rfl⟩
  | ask commit edge table => exact ⟨fun _ => rfl, rfl⟩
  | trailer sig => exact ⟨fun _ => rfl, rfl⟩
  | fault va k acc => exact absurd rfl (hfault va k acc)
  | entry va kind acc k sig => exact absurd rfl (hentry va kind acc k sig)

/-- Of several stops one is chosen; of none, none. -/
theorem chosenStop_eq_none {l : List (Nat × Nat × Stop)} (h : chosenStop l = none) : l = [] := by
  rw [chosenStop, List.findSome?_eq_none_iff] at h
  have hany := h (fun _ => true) (by simp)
  cases l with
  | nil => rfl
  | cons x xs => simp at hany

end Sys2Proof.Machine
end

section
/-! THEOREMS. A chain takes effect whole or not at all. -/

open Sys2Proof Sys2Proof.Machine

/-- Settles O55: the words of the chain either stop nowhere, or one stop is applied in the state before them. -/
theorem chainWholeOrNothing : Obligations.ChainWholeOrNothing := by
  intro is s tid t u ht hu s1
  simp only [chainThread, ht] at hu
  split at hu
  · next v hv =>
    split at hu
    · next hnone =>
      cases hu
      exact .inl ⟨v, chosenStop_eq_none hnone, rfl, hv⟩
    · next st _ =>
      cases hu
      obtain ⟨x, hx, hsame⟩ := State.keepsValues_applyStop { s with issue := { s.issue with slot := st.2.1 } } s.issue.gid tid st.2.2 t ht
      obtain ⟨hregs, hshadow, hpreds, hflags, hpc, hkey, hctr⟩ := hsame
      exact .inr ⟨st.2.1, st.2.2, x, rfl, hx, hregs, hshadow, hpreds, hflags, hpc, hkey, hctr,
        fun hfault hentry => State.sameMemory_applyStop _ _ _ hfault hentry⟩
  · next hr => exact absurd hu (hr u)
end

section
/-! SUPPORT. The access of a memory word outside tandem mode (R20, R45, R210, R232, R233), and what it leaves of memory and of
other threads. -/

namespace Sys2Proof.Machine

/-! ### What an access leaves as it goes on its way (R217, R290, R354) -/

theorem State.dropL1_onlyRead (s : State) (core l : Nat) : s.onlyRead (s.dropL1 core l) := ⟨rfl, rfl, fun _ => rfl, rfl⟩

theorem State.filled_onlyRead (s : State) (l : Lane) (va n : Nat) : s.onlyRead (s.filled l va n) :=
  foldl_onlyRead (fun (s : State) (p : Nat × Nat) => s.tlbFill_onlyRead l.g.core (coreDie l.g.core) l.g.asid p.1) _ s

/-- An access that goes on its way changes no thread and no byte. -/
theorem State.launchAcc_onlyRead (s : State) (a : Acc) : s.onlyRead (s.launchAcc a) := by
  have htouched : ∀ (drops hits : List Nat),
      s.onlyRead (hits.foldl (fun s l => s.touch (coreDie a.core) l) (drops.foldl (fun s l => s.dropL1 a.core l) s)) := fun drops hits =>
    (foldl_onlyRead (fun s l => s.dropL1_onlyRead a.core l) drops s).trans (foldl_onlyRead (fun s l => s.touch_onlyRead (coreDie a.core) l) hits _)
  obtain ⟨hgroups, hboxes, hmemory⟩ := htouched _ _
  exact ⟨hgroups, hboxes, hmemory⟩

/-! ### What the word of one thread leaves -/

/-- No byte of memory differs, and no thread but one. -/
structure State.leavesRest (s t : State) (gid tid : Nat) : Prop where
  memory : s.sameMemory t
  others : s.sameOthers t gid tid

section
variable {s t u : State} {gid tid : Nat}

theorem State.leavesRest.trans (h : s.leavesRest t gid tid) (k : t.leavesRest u gid tid) : s.leavesRest u gid tid :=
  ⟨State.sameMemory_trans h.memory k.memory, fun g v hne => (k.others g v hne).trans (h.others g v hne)⟩

theorem State.onlyRead.leavesRest (h : s.onlyRead t) : s.leavesRest t gid tid := ⟨h.memory, fun g v _ => h.thread? g v⟩

end

theorem State.updThread_leavesRest (s : State) (gid tid : Nat) (f : Thread → Thread) : s.leavesRest (s.updThread gid tid f) gid tid :=
  ⟨(State.updThread_same ..).sameMemory, s.sameOthers_updThread gid tid f⟩

theorem State.settled_leavesRest (t : State) (i : Instr) (l : Lane) (s : State) : t.leavesRest (t.settled i l s) s.issue.gid l.cur.tid := by
  refine ⟨(State.settled_same ..).sameMemory, fun g v hne => ?_⟩
  obtain ⟨f, hf, -, hid⟩ := State.thread?_arithTrap (t.updThread s.issue.gid l.cur.tid (l.after i s)) s.issue.gid l.cur.tid g v
  rw [State.settled, hf, hid hne, Option.map_id_apply]
  exact t.sameOthers_updThread s.issue.gid l.cur.tid (l.after i s) g v hne

/-! ### The access of a word -/

/-- Registers that hold no poison are used as they are (R384). -/
theorem Lane.consume_clean {l : Lane} {rs : List Nat} (h : l.src.anyPoison rs = false) : l.consume rs = .ok false := by
  rw [Lane.consume, h]
  rfl

/-- Of a clean run of registers every shorter one is clean. -/
theorem Thread.anyPoison_range_of_le {t : Thread} {b m n : Nat} (hmn : m ≤ n) (h : t.anyPoison ((List.range n).map (b + ·)) = false) :
    t.anyPoison ((List.range m).map (b + ·)) = false := by
  simp only [Thread.anyPoison, List.any_eq_false, List.mem_map, List.mem_range] at h ⊢
  rintro r ⟨k, hk, rfl⟩
  exact h _ ⟨k, by omega, rfl⟩

/-- Registers of an access, by its size field (R60). -/
theorem accessRegs_eq (z : BitVec 3) : accessRegs z.toNat = match z.toNat with | 5 => 2 | 6 => 4 | 7 => 8 | _ => 1 := by
  revert z
  decide

theorem State.updThread_id (s : State) (gid tid : Nat) : s.updThread gid tid (fun t => t) = s := by
  have hgroup : ∀ g : Group, g.updThread tid (fun t => t) = g := fun g => by
    rw [Group.updThread, updWhere_id _ _ fun _ => rfl]
  show { s with groups := updWhere _ _ s.groups } = s
  rw [updWhere_id _ _ hgroup]

section
variable {q : Req} {l : Lane} {s : State} (hrole : l.g.role = .solo) (hroom : l.cur.outstanding q.cls < 63) (haddr : l.consume q.addrRegs = .ok false)
include hrole hroom haddr

/-- An access at an address that is no multiple of what it must be a multiple of stops with the alignment fault. -/
theorem memAccess_misaligned {dp : Bool} (hdata : l.consume q.dataRegs = .ok dp) (halign : q.ea % q.align ≠ 0) :
    memAccess q l s = .error (.fault (BitVec.ofNat 64 q.ea) fkAlign q.facc) := by
  have hnot : l.g.role ≠ .trailer := by rw [hrole]; decide
  rw [memAccess, if_neg (by omega)]
  simp only [haddr, hdata]
  exact if_pos ⟨halign, hnot⟩

/-- An access that nothing stops is counted, its destination pends, and it is on its way. -/
theorem memAccess_solo {dp : Bool} {ps : List (Trans × Nat)} (hdata : l.consume q.dataRegs = .ok dp) (halign : q.ea % q.align = 0)
    (hside : q.noret = true → s.sideLogHas l.g.gid l.cur.tid = false) (hps : s.translateReq l.g.core l.g.asid q = .ok ps) :
    memAccess q l s = .ok (((s.filled l q.ea q.size).beginOp l q.cls q.dst q.dcnt).launchAcc
      { q.toAcc l s with poison := dp, parts := partsOf ps q.ea q.size }) := by
  have hbehind : (q.noret && s.sideLogHas l.g.gid l.cur.tid) = false := by
    rw [Bool.and_eq_false_imp]
    exact hside
  have htandem : l.tandem s q.sig = .ok .solo := if_pos hrole
  have hcount : ∀ u : State, u.updLane l (fun t => Thread.countAccess t l.g.role) = u := fun u => by
    rw [hrole]
    exact u.updThread_id l.g.gid l.cur.tid
  rw [memAccess, if_neg (by omega)]
  simp only [haddr, hdata, htandem, hbehind, hps, hcount]
  rw [if_neg fun h => h.1 halign]
  rfl

end

/-- What a word of the thread path whose access goes on its way leaves as it was. -/
theorem State.launched_leavesRest (i : Instr) {l : Lane} {s : State} (hgid : l.g.gid = s.issue.gid) (va n cls dst dcnt : Nat) (a : Acc) :
    s.leavesRest (((((s.advanced l).filled l va n).beginOp l cls dst dcnt).launchAcc a).settled i l s) s.issue.gid l.cur.tid := by
  have hbegun : ∀ u : State, u.leavesRest (u.beginOp l cls dst dcnt) s.issue.gid l.cur.tid := fun u => by
    rw [← hgid]
    exact u.updThread_leavesRest l.g.gid l.cur.tid _
  exact (s.updThread_leavesRest _ _ _).trans ((State.filled_onlyRead ..).leavesRest.trans
    ((hbegun _).trans ((State.launchAcc_onlyRead ..).leavesRest.trans (State.settled_leavesRest ..))))

/-- A word of the thread path whose effect is its access. -/
theorem accessWord_of_memAccess {i : Instr} {q : Lane → Req} (hexec : ∀ s, exec i s = runWord i (fun l s => memAccess (q l) l s) s) : AccessWord i q := by
  intro s l dp ps hissues hrole hroom haddr hdata halign hside hps
  have hrun := memAccess_solo (s := s.advanced l) hrole hroom haddr hdata halign hside hps
  have hgid : l.g.gid = s.issue.gid := (State.lane?_some hissues.2.1).2.1
  obtain ⟨hmemory, hothers⟩ := State.launched_leavesRest i hgid (q l).ea (q l).size (q l).cls (q l).dst (q l).dcnt
    { (q l).toAcc l (s.advanced l) with poison := dp, parts := partsOf ps (q l).ea (q l).size }
  exact ⟨_, (hexec s).trans (runWord_one hissues hrun), rfl, hmemory, hothers⟩

/-- A word of the thread path whose address is misaligned stops with the alignment fault. -/
theorem exec_misaligned {i : Instr} {q : Lane → Req} (hexec : ∀ s, exec i s = runWord i (fun l s => memAccess (q l) l s) s) {s : State} {l : Lane}
    (hissues : Issues i l s) (hrole : l.g.role = .solo) (hroom : l.cur.outstanding (q l).cls < 63) (haddr : l.src.anyPoison (q l).addrRegs = false)
    (hdata : l.src.anyPoison (q l).dataRegs = false) (halign : (q l).ea % (q l).align ≠ 0) :
    exec i s = .next (s.stopLane l.cur.tid (.fault (BitVec.ofNat 64 (q l).ea) fkAlign (q l).facc)) :=
  (hexec s).trans (runWord_one_stop hissues (memAccess_misaligned hrole hroom (Lane.consume_clean haddr) (Lane.consume_clean hdata) halign))

/-! ### The requests of the words that must be aligned (R251-R254, R256) -/

section
variable (c : BitVec 1) (d a b : BitVec 6) (sc : BitVec 2) (op : BitVec 5) (y : BitVec 1)

/-- The request of ATOM (R251). -/
def atomReq (l : Lane) : Req :=
  { kind := .rmw (op.toNat % 16), ea := l.src.group a.toNat 2, size := 4 * atomRegs op.toNat, data := l.src.group b.toNat (atomRegs op.toNat)
    scope := sc.toNat, dst := d.toNat, dcnt := atomRegs op.toNat, need := { r := true, w := true }, facc := 2, align := 4 * atomRegs op.toNat
    addrRegs := [a.toNat, a.toNat + 1], dataRegs := (List.range (atomRegs op.toNat)).map (b.toNat + ·) }

theorem exec_atom (s : State) : exec (.atom c d a b sc op) s = runWord (.atom c d a b sc op) (fun l s => memAccess (atomReq d a b sc op l) l s) s := rfl

/-- The request of RED (R253). -/
def redReq (l : Lane) : Req :=
  { kind := .rmw (op.toNat % 16), ea := l.src.group a.toNat 2, size := 4 * atomRegs op.toNat, data := l.src.group b.toNat (atomRegs op.toNat)
    scope := sc.toNat, cls := 1, noret := true, need := { w := true }, facc := 2, align := 4 * atomRegs op.toNat
    addrRegs := [a.toNat, a.toNat + 1], dataRegs := (List.range (atomRegs op.toNat)).map (b.toNat + ·) }

theorem exec_red (s : State) : exec (.red c a b sc op) s = runWord (.red c a b sc op) (fun l s => memAccess (redReq a b sc op l) l s) s := rfl

/-- The request of CAS (R252). -/
def casReq (l : Lane) : Req :=
  { kind := .cas, ea := l.src.group a.toNat 2, size := 4 * 2 ^ y.toNat, data := l.src.group b.toNat (2 ^ y.toNat)
    data2 := l.src.group (b.toNat + 2 ^ y.toNat) (2 ^ y.toNat), scope := sc.toNat, dst := d.toNat, dcnt := 2 ^ y.toNat
    need := { r := true, w := true }, facc := 2, align := 4 * 2 ^ y.toNat, addrRegs := [a.toNat, a.toNat + 1]
    dataRegs := (List.range (2 * 2 ^ y.toNat)).map (b.toNat + ·) }

theorem exec_cas (s : State) : exec (.cas c d a b sc y) s = runWord (.cas c d a b sc y) (fun l s => memAccess (casReq d a b sc y l) l s) s := rfl

/-- The request of AMAX (R254). -/
def amaxReq (l : Lane) : Req :=
  { kind := .amax, ea := l.src.group a.toNat 2, size := 4, data := (l.src.reg b.toNat).toNat, scope := sc.toNat, cls := 1, noret := true
    need := { w := true }, facc := 2, align := 4, addrRegs := [a.toNat, a.toNat + 1], dataRegs := [b.toNat] }

theorem exec_amax (s : State) : exec (.amax c a b sc) s = runWord (.amax c a b sc) (fun l s => memAccess (amaxReq a b sc l) l s) s := rfl

/-- The request of AMAXRS (R254). -/
def amaxrsReq (l : Lane) : Req :=
  { kind := .amaxrs, ea := l.src.group a.toNat 2, size := 4, scope := sc.toNat, dst := d.toNat, dcnt := 1, need := { r := true, w := true }
    facc := 2, align := 4, addrRegs := [a.toNat, a.toNat + 1] }

theorem exec_amaxrs (s : State) : exec (.amaxrs c d a sc) s = runWord (.amaxrs c d a sc) (fun l s => memAccess (amaxrsReq d a sc l) l s) s := rfl

/-- The request of ST.FUT (R256). -/
def stFutReq (l : Lane) : Req :=
  { kind := .stFut, ea := l.src.group a.toNat 2, size := 8, data := l.src.group b.toNat 2, cls := 1, noret := true, need := { w := true }
    facc := 1, align := 8, addrRegs := [a.toNat, a.toNat + 1], dataRegs := [b.toNat, b.toNat + 1] }

theorem exec_stFut (s : State) : exec (.stFut c a b) s = runWord (.stFut c a b) (fun l s => memAccess (stFutReq a b l) l s) s := rfl

/-- The request of CLR.FUT (R256). -/
def clrFutReq (l : Lane) : Req :=
  { kind := .clrFut, ea := l.src.group a.toNat 2, size := 8, cls := 1, noret := true, need := { w := true }, facc := 1, align := 8
    addrRegs := [a.toNat, a.toNat + 1] }

theorem exec_clrFut (s : State) : exec (.clrFut c a) s = runWord (.clrFut c a) (fun l s => memAccess (clrFutReq a l) l s) s := rfl

end

/-- LD.FUT at an address that is no multiple of 8 stops with the alignment fault. -/
theorem execLdFut_misaligned {c : BitVec 1} {d a b : BitVec 6} {s : State} {l : Lane} (hissues : Issues (.ldFut c d a b) l s) (hroom : l.cur.nLoad < 63)
    (haddr : l.src.anyPoison [a.toNat, a.toNat + 1] = false) (halign : l.src.group a.toNat 2 % 8 ≠ 0) :
    exec (.ldFut c d a b) s = .next (s.stopLane l.cur.tid (.fault (BitVec.ofNat 64 (l.src.group a.toNat 2)) fkAlign 0)) := by
  have hroom' : ¬l.cur.nLoad ≥ 63 := by omega
  refine runWord_one_stop hissues ?_
  simp only [Lane.consume_clean haddr, if_neg hroom']
  exact if_pos halign

end Sys2Proof.Machine
end

section
/-! THEOREMS. The accesses of the memory words. -/

open Sys2Proof Sys2Proof.Machine

/-- Settles O20: each word is one access, whose request the statement writes out. -/
theorem memoryAccessWords : Obligations.MemoryAccessWords := by
  refine ⟨fun c d a b z p sc o op y _ _ => ?accesses, fun c d a b sc op y s l => ?faults⟩
  case accesses =>
    intro bytes regs ea at_ w k pair
    have hregs : accessRegs z.toNat = regs := accessRegs_eq z
    refine ⟨?ld, ?st, accessWord_of_memAccess (exec_atom c d a b sc op), accessWord_of_memAccess (exec_red c a b sc op),
      accessWord_of_memAccess (exec_cas c d a b sc y), accessWord_of_memAccess (exec_amax c a b sc), accessWord_of_memAccess (exec_amaxrs c d a sc),
      accessWord_of_memAccess (exec_stFut c a b), accessWord_of_memAccess (exec_clrFut c a)⟩
    case ld => rw [← hregs]; exact accessWord_of_memAccess fun s => rfl
    case st => rw [← hregs]; exact accessWord_of_memAccess fun s => rfl
  case faults =>
    intro ea clean room faults w hroom hclean
    obtain ⟨hload, hstore, hpair, hrole⟩ := hroom
    have hsome : ∀ n, n ≤ 8 → clean ((List.range n).map (b.toNat + ·)) := fun n hn => Thread.anyPoison_range_of_le hn hclean
    have hregs : ∀ o : BitVec 5, atomRegs o.toNat ≤ 8 := fun o => by unfold atomRegs; split <;> omega
    have hcas : 2 * 2 ^ y.toNat ≤ 8 := by have := Nat.pow_le_pow_right (n := 2) (by omega) (show y.toNat ≤ 1 by omega); omega
    exact ⟨fun hi h => exec_misaligned (exec_atom c d a b sc op) hi hrole hload hpair (hsome _ (hregs op)) h,
      fun hi h => exec_misaligned (exec_red c a b sc op) hi hrole hstore hpair (hsome _ (hregs op)) h,
      fun hi h => exec_misaligned (exec_cas c d a b sc y) hi hrole hload hpair (hsome _ hcas) h,
      fun hi h => exec_misaligned (exec_amax c a b sc) hi hrole hstore hpair (hsome 1 (by omega)) h,
      fun hi h => exec_misaligned (exec_amaxrs c d a sc) hi hrole hload hpair rfl h,
      fun hi h => exec_misaligned (exec_stFut c a b) hi hrole hstore hpair (hsome 2 (by omega)) h,
      fun hi h => exec_misaligned (exec_clrFut c a) hi hrole hstore hpair rfl h,
      fun hi h => execLdFut_misaligned hi hload hpair h⟩
end

section
/-! SUPPORT. Finite values as reals (R76), and the rounding of a number to an integer by a mode (R79). -/

namespace Sys2Proof.Machine

/-! ### Signed magnitudes -/

@[simp] theorem signed_false (m : Nat) : signed false m = m := rfl
@[simp] theorem signed_true (m : Nat) : signed true m = -(m : Int) := rfl

@[simp] theorem natAbs_signed (s : Bool) (m : Nat) : (signed s m).natAbs = m := by cases s <;> simp

theorem signed_not (s : Bool) (m : Nat) : signed (!s) m = -signed s m := by cases s <;> simp

@[simp] theorem signed_eq_zero {s : Bool} {m : Nat} : signed s m = 0 ↔ m = 0 := by cases s <;> simp

theorem signed_neg_iff {s : Bool} {m : Nat} (hm : m ≠ 0) : signed s m < 0 ↔ s = true := by
  cases s with
  | false => simp
  | true => simp; omega

theorem signed_mul (s1 s2 : Bool) (m1 m2 : Nat) : signed (s1 != s2) (m1 * m2) = signed s1 m1 * signed s2 m2 := by
  cases s1 <;> cases s2 <;> simp

theorem cast_signed (s : Bool) (m : Nat) : ((signed s m : Int) : ℝ) = (if s then -1 else 1) * (m : ℝ) := by cases s <;> simp

theorem abs_cast_signed (s : Bool) (m : Nat) : |((signed s m : Int) : ℝ)| = m := by cases s <;> simp

/-- A finite value is its signed mantissa times its power of two. -/
theorem FVal.is_fin {s : Bool} {m : Nat} {e : Int} {v : ℝ} : (FVal.fin s m e).Is v ↔ v = signed s m * (2 : ℝ) ^ e := by
  constructor
  · rintro ⟨s, m, e, ⟨rfl, rfl, rfl⟩, rfl⟩
    rw [cast_signed, mul_assoc]
  · rintro rfl
    exact ⟨s, m, e, rfl, by rw [cast_signed, mul_assoc]⟩

theorem FVal.Is.exists_fin {x : FVal} {v : ℝ} (h : x.Is v) : ∃ s m e, x = .fin s m e ∧ v = signed s m * (2 : ℝ) ^ e := by
  obtain ⟨s, m, e, rfl, -⟩ := id h
  exact ⟨s, m, e, rfl, FVal.is_fin.mp h⟩

theorem signed_mul_zpow_eq_zero {s : Bool} {m : Nat} {e : Int} : (signed s m : ℝ) * (2 : ℝ) ^ e = 0 ↔ m = 0 := by
  have hpow : (2 : ℝ) ^ e ≠ 0 := by positivity
  rw [mul_eq_zero, or_iff_left hpow, Int.cast_eq_zero, signed_eq_zero]

/-! ### Powers of two -/

/-- A power of two split at a natural exponent. -/
theorem two_zpow_eq_pow_mul {a b : Int} (h : b ≤ a) : (2 : ℝ) ^ a = 2 ^ (a - b).toNat * (2 : ℝ) ^ b := by
  rw [← zpow_natCast, Int.toNat_of_nonneg (by omega), ← zpow_add₀ two_ne_zero]
  congr 1
  omega

/-- The binary exponent of a number is unique. -/
theorem two_zpow_bracket_unique {x : ℝ} {t u : Int} (ht : (2 : ℝ) ^ t ≤ x) (ht' : x < (2 : ℝ) ^ (t + 1)) (hu : (2 : ℝ) ^ u ≤ x)
    (hu' : x < (2 : ℝ) ^ (u + 1)) : t = u := by
  have h1 := (zpow_lt_zpow_iff_right₀ (by norm_num : (1 : ℝ) < 2)).mp (ht.trans_lt hu')
  have h2 := (zpow_lt_zpow_iff_right₀ (by norm_num : (1 : ℝ) < 2)).mp (hu.trans_lt ht')
  omega

/-- The binary exponent of m 2^e is e plus the place of the highest bit of m. -/
theorem two_zpow_log2_bracket {m : Nat} (hm : m ≠ 0) (e : Int) :
    (2 : ℝ) ^ (e + m.log2) ≤ m * (2 : ℝ) ^ e ∧ (m : ℝ) * (2 : ℝ) ^ e < (2 : ℝ) ^ (e + m.log2 + 1) := by
  have hlow : ((2 ^ m.log2 : Nat) : ℝ) ≤ m := by exact_mod_cast Nat.log2_self_le hm
  have hhigh : (m : ℝ) < ((2 ^ (m.log2 + 1) : Nat) : ℝ) := by exact_mod_cast Nat.lt_log2_self
  have hpos : (0 : ℝ) < (2 : ℝ) ^ e := by positivity
  push_cast at hlow hhigh
  rw [add_assoc, zpow_add₀ two_ne_zero, zpow_add₀ two_ne_zero, mul_comm ((2 : ℝ) ^ e), mul_comm ((2 : ℝ) ^ e)]
  exact ⟨mul_le_mul_of_nonneg_right (by exact_mod_cast hlow) hpos.le, mul_lt_mul_of_pos_right (by exact_mod_cast hhigh) hpos⟩

/-! ### Rounding to an integer -/

/-- The mode whose roundings are the mirror images about zero. -/
def RMode.mirror : RMode → RMode
  | .rdn => .rup
  | .rup => .rdn
  | mode => mode

@[simp] theorem RMode.mirror_mirror (mode : RMode) : mode.mirror.mirror = mode := by cases mode <;> rfl

theorem RoundsTo.neg {mode : RMode} {x : ℝ} {n : Int} (h : RoundsTo mode x n) : RoundsTo mode.mirror (-x) (-n) := by
  have hdist : |-x - ((-n : Int) : ℝ)| = |x - n| := by rw [Int.cast_neg, ← neg_sub', abs_neg]
  cases mode with
  | rne =>
    have heven : -n % 2 = 0 ↔ n % 2 = 0 := by omega
    exact (by rwa [hdist, heven] : |-x - ((-n : Int) : ℝ)| < 1 / 2 ∨ (|-x - ((-n : Int) : ℝ)| = 1 / 2 ∧ -n % 2 = 0))
  | rtz =>
    obtain ⟨hle, hlt, hsign⟩ := h
    refine ⟨?_, ?_, ?_⟩
    · rwa [Int.cast_neg, abs_neg, abs_neg]
    · rwa [Int.cast_neg, abs_neg, abs_neg]
    · rwa [Int.cast_neg, neg_mul_neg]
  | rdn =>
    obtain ⟨hle, hlt⟩ := h
    exact ⟨by push_cast; linarith, by push_cast; linarith⟩
  | rup =>
    obtain ⟨hle, hlt⟩ := h
    exact ⟨by push_cast; linarith, by push_cast; linarith⟩
  | rna =>
    have habs : |((-n : Int) : ℝ)| = |(n : ℝ)| := by rw [Int.cast_neg, abs_neg]
    exact (by rwa [hdist, abs_neg, habs] :
      |-x - ((-n : Int) : ℝ)| < 1 / 2 ∨ (|-x - ((-n : Int) : ℝ)| = 1 / 2 ∧ |-x| < |((-n : Int) : ℝ)|))

/-- An integer rounds to itself. -/
theorem roundsTo_self (mode : RMode) (n : Int) : RoundsTo mode n n := by
  cases mode with
  | rne => exact .inl (by norm_num)
  | rtz => exact ⟨le_rfl, lt_add_one _, mul_self_nonneg _⟩
  | rdn => exact ⟨le_rfl, lt_add_one _⟩
  | rup => exact ⟨le_rfl, lt_add_one _⟩
  | rna => exact .inl (by norm_num)

/-- A rounding to nearest, whatever becomes of ties, moves a number by at most a half. -/
theorem RoundsTo.abs_sub_le_half {mode : RMode} {x : ℝ} {n : Int} (h : RoundsTo mode x n) (hmode : mode = .rne ∨ mode = .rna) : |x - n| ≤ 1 / 2 := by
  obtain rfl | rfl := hmode
  all_goals
    obtain hlt | ⟨heq, -⟩ := h
    · exact hlt.le
    · exact heq.le

/-- Rounding does not pass an integer. -/
theorem RoundsTo.le_of_le {mode : RMode} {x : ℝ} {n c : Int} (h : RoundsTo mode x n) (hx : x ≤ c) : n ≤ c := by
  have nearest : |x - n| ≤ 1 / 2 → n ≤ c := fun hnear => by
    have hlow := (abs_le.mp hnear).1
    have : (n : ℝ) < ((c + 1 : Int) : ℝ) := by push_cast; linarith
    exact Int.lt_add_one_iff.mp (by exact_mod_cast this)
  cases mode with
  | rne => exact nearest (h.abs_sub_le_half (.inl rfl))
  | rna => exact nearest (h.abs_sub_le_half (.inr rfl))
  | rdn => exact_mod_cast h.1.trans hx
  | rup =>
    have : (n : ℝ) < ((c + 1 : Int) : ℝ) := by push_cast; linarith [h.2]
    exact Int.lt_add_one_iff.mp (by exact_mod_cast this)
  | rtz =>
    obtain ⟨hle, hlt, hsign⟩ := h
    by_contra hlarge
    have hcn : ((c + 1 : Int) : ℝ) ≤ n := by exact_mod_cast not_le.mp hlarge
    push_cast at hcn
    rcases le_or_gt n 0 with hn | hn
    · have hn : (n : ℝ) ≤ 0 := by exact_mod_cast hn
      rw [abs_of_nonpos hn, abs_of_nonpos (by linarith : x ≤ 0)] at hlt
      linarith
    · have hn : (0 : ℝ) < n := by exact_mod_cast hn
      have hx0 : 0 ≤ x := nonneg_of_mul_nonneg_right hsign hn
      rw [abs_of_pos hn, abs_of_nonneg hx0] at hle
      linarith

theorem RoundsTo.le_of_ge {mode : RMode} {x : ℝ} {n c : Int} (h : RoundsTo mode x n) (hx : c ≤ x) : c ≤ n := by
  have hneg := h.neg.le_of_le (c := -c) (by push_cast; linarith)
  omega

/-! ### The rounding of a magnitude by its remainder -/

theorem roundsUp_mirror (mode : RMode) (s odd : Bool) (r d : Nat) : roundsUp mode.mirror (!s) odd r d = roundsUp mode s odd r d := by
  cases mode <;> cases s <;> rfl

/-- How a remainder stands to the half of its divisor. -/
theorem div_half_iff {r d : Nat} (hd : 0 < d) :
    ((r : ℝ) / d < 1 / 2 ↔ 2 * r < d) ∧ (1 / 2 < (r : ℝ) / d ↔ d < 2 * r) ∧ ((r : ℝ) / d = 1 / 2 ↔ 2 * r = d) := by
  have hd : (0 : ℝ) < d := by exact_mod_cast hd
  rw [div_lt_div_iff₀ hd two_pos, div_lt_div_iff₀ two_pos hd, div_eq_div_iff hd.ne' two_ne_zero, one_mul, mul_comm]
  exact ⟨by exact_mod_cast Iff.rfl, by exact_mod_cast Iff.rfl, by exact_mod_cast Iff.rfl⟩

/-- The distances of q + r / d to the integers about it. -/
theorem abs_sub_floor_and_next {q r d : Nat} (hr : r < d) :
    |(q + r / d : ℝ) - ((q : Nat) : Int)| = r / d ∧ |(q + r / d : ℝ) - ((q + 1 : Nat) : Int)| = 1 - r / d := by
  have hd : (0 : ℝ) < d := by exact_mod_cast Nat.zero_lt_of_lt hr
  have hlt : (r : ℝ) / d < 1 := (div_lt_one hd).mpr (by exact_mod_cast hr)
  constructor
  · rw [Int.cast_natCast, add_sub_cancel_left, abs_of_nonneg (by positivity)]
  · rw [abs_sub_comm, abs_of_nonneg (by push_cast; linarith)]
    push_cast
    ring

/-- A nonnegative number q + r / d, rounded as its remainder says. -/
theorem roundsTo_of_roundsUp (mode : RMode) {q r d : Nat} (hr : r < d) :
    RoundsTo mode (q + r / d : ℝ) ((if roundsUp mode false (q % 2 == 1) r d then q + 1 else q : Nat) : Int) := by
  have hdpos : 0 < d := Nat.zero_lt_of_lt hr
  have hd : (0 : ℝ) < d := by exact_mod_cast hdpos
  have hnonneg : (0 : ℝ) ≤ r / d := by positivity
  have hlt : (r : ℝ) / d < 1 := (div_lt_one hd).mpr (by exact_mod_cast hr)
  obtain ⟨hbelow, habove, htie⟩ := div_half_iff (r := r) hdpos
  obtain ⟨hdown, hup⟩ := abs_sub_floor_and_next (q := q) hr
  cases mode with
  | rne =>
    by_cases hu : roundsUp .rne false (q % 2 == 1) r d = true
    · rw [if_pos hu]
      simp only [roundsUp, Bool.or_eq_true, Bool.and_eq_true, decide_eq_true_eq, beq_iff_eq] at hu
      rcases hu with hgt | ⟨heq, hodd⟩
      · exact .inl (by rw [hup]; linarith [habove.mpr hgt])
      · exact .inr ⟨by rw [hup, htie.mpr heq]; norm_num, by omega⟩
    · rw [if_neg hu]
      simp only [roundsUp, Bool.or_eq_true, Bool.and_eq_true, decide_eq_true_eq, beq_iff_eq, not_or, not_and] at hu
      rcases Nat.lt_or_ge (2 * r) d with hlow | hge
      · exact .inl (by rw [hdown]; exact hbelow.mpr hlow)
      · have heq : 2 * r = d := by omega
        exact .inr ⟨by rw [hdown]; exact htie.mpr heq, by have := hu.2 heq; omega⟩
  | rtz =>
    rw [if_neg (by simp [roundsUp])]
    refine ⟨?_, ?_, by push_cast; positivity⟩
    · rw [abs_of_nonneg (by push_cast; positivity), abs_of_nonneg (by positivity)]; push_cast; linarith
    · rw [abs_of_nonneg (by positivity), abs_of_nonneg (by push_cast; positivity)]; push_cast; linarith
  | rdn =>
    rw [if_neg (by simp [roundsUp])]
    exact ⟨by push_cast; linarith, by push_cast; linarith⟩
  | rup =>
    by_cases hr0 : r = 0
    · rw [if_neg (by simp [roundsUp, hr0]), hr0]
      exact ⟨by simp, by simp⟩
    · have hpos : (0 : ℝ) < r / d := div_pos (by exact_mod_cast Nat.pos_of_ne_zero hr0) hd
      rw [if_pos (by simp [roundsUp, hr0])]
      exact ⟨by push_cast; linarith, by push_cast; linarith⟩
  | rna =>
    rcases Nat.lt_or_ge (2 * r) d with hlow | hge
    · rw [if_neg (by simp [roundsUp, hlow])]
      exact .inl (by rw [hdown]; exact hbelow.mpr hlow)
    · rw [if_pos (by simp [roundsUp, hge])]
      rcases Nat.lt_or_eq_of_le hge with hgt | heq
      · exact .inl (by rw [hup]; linarith [habove.mpr hgt])
      · refine .inr ⟨by rw [hup, htie.mpr heq.symm]; norm_num, ?_⟩
        rw [abs_of_nonneg (by positivity), abs_of_nonneg (by push_cast; positivity)]
        push_cast
        linarith

/-- A magnitude shifted right is rounded by its mode (R79). -/
theorem roundsTo_roundShift (mode : RMode) (s : Bool) (m k : Nat) :
    RoundsTo mode ((signed s m : ℝ) / 2 ^ k) (signed s (roundShift mode s m k)) := by
  have hsplit : (m : ℝ) / 2 ^ k = ((m / 2 ^ k : Nat) : ℝ) + ((m % 2 ^ k : Nat) : ℝ) / ((2 ^ k : Nat) : ℝ) := by
    have hpow : ((2 ^ k : Nat) : ℝ) ≠ 0 := by positivity
    have hcast : (m : ℝ) = ((2 ^ k : Nat) : ℝ) * ((m / 2 ^ k : Nat) : ℝ) + ((m % 2 ^ k : Nat) : ℝ) := by
      exact_mod_cast (Nat.div_add_mod m (2 ^ k)).symm
    rw [show (2 : ℝ) ^ k = ((2 ^ k : Nat) : ℝ) by push_cast; rfl]
    field_simp
    linarith
  have hplus : ∀ mode, RoundsTo mode ((m : ℝ) / 2 ^ k) (roundShift mode false m k : Nat) := fun mode => by
    rw [hsplit]
    exact roundsTo_of_roundsUp mode (Nat.mod_lt _ (Nat.two_pow_pos k))
  cases s with
  | false => simpa using hplus mode
  | true =>
    have hmirror : roundShift mode true m k = roundShift mode.mirror false m k := by
      rw [roundShift, ← roundsUp_mirror]
      rfl
    have := (hplus mode.mirror).neg
    rw [RMode.mirror_mirror, ← hmirror] at this
    rwa [signed_true, signed_true, Int.cast_neg, neg_div]

end Sys2Proof.Machine
end

section
/-! SUPPORT. The narrowing `roundFin` (R79, R81, R84): the multiple of the last place that it delivers, its encoding and its flags. -/

namespace Sys2Proof.Machine

/-! ### The formats -/

/-- The formats of R76. -/
theorem two_le_eb_of_mem {f : Fmt} (hf : f ∈ [f64, f32, f16, bf16]) : 2 ≤ f.eb := by
  have hall : ∀ g ∈ [f64, f32, f16, bf16], 2 ≤ g.eb := by decide
  exact hall f hf

theorem Fmt.two_pow_eb {f : Fmt} (hf : 2 ≤ f.eb) : 2 ^ f.eb = 2 * f.bias + 2 ∧ 1 ≤ f.bias := by
  have hsucc : 2 ^ f.eb = 2 * 2 ^ (f.eb - 1) := by rw [← Nat.pow_succ']; congr; omega
  have htwo : 2 ^ 1 ≤ 2 ^ (f.eb - 1) := Nat.pow_le_pow_right two_pos (by omega)
  rw [Fmt.bias]
  omega

/-! ### The multiple of 2^q to which a number is rounded -/

/-- The mantissa, in units of 2^q, to which (-1)^s m 2^e is rounded. -/
def mantAt (mode : RMode) (s : Bool) (m : Nat) (e q : Int) : Nat :=
  if q ≤ e then m * 2 ^ (e - q).toNat else roundShift mode s m (q - e).toNat

/-- Whether (-1)^s m 2^e is no multiple of 2^q. -/
def lostAt (m : Nat) (e q : Int) : Bool := !decide (q ≤ e) && m % 2 ^ (q - e).toNat != 0

/-- A number in units of 2^q, where q is at most its exponent. -/
theorem signed_div_zpow_of_le {s : Bool} {m : Nat} {e q : Int} (h : q ≤ e) :
    (signed s m * (2 : ℝ) ^ e) / (2 : ℝ) ^ q = signed s (m * 2 ^ (e - q).toNat) := by
  have hpow : (2 : ℝ) ^ q ≠ 0 := by positivity
  rw [two_zpow_eq_pow_mul h, cast_signed, cast_signed]
  push_cast
  field_simp

/-- A number in units of 2^q, where q is above its exponent. -/
theorem signed_div_zpow_of_lt {s : Bool} {m : Nat} {e q : Int} (h : e < q) :
    (signed s m * (2 : ℝ) ^ e) / (2 : ℝ) ^ q = signed s m / 2 ^ (q - e).toNat := by
  have hpow : (2 : ℝ) ^ e ≠ 0 := by positivity
  rw [two_zpow_eq_pow_mul h.le]
  field_simp

theorem roundsUp_zero (mode : RMode) (s odd : Bool) {d : Nat} (hd : 0 < d) : roundsUp mode s odd 0 d = false := by
  cases mode with
  | rne => simp [roundsUp, hd.ne]
  | rtz => rfl
  | rdn => simp [roundsUp]
  | rup => simp [roundsUp]
  | rna => simp [roundsUp, hd.ne']

theorem roundsTo_mantAt (mode : RMode) (s : Bool) (m : Nat) (e q : Int) :
    RoundsTo mode ((signed s m * (2 : ℝ) ^ e) / (2 : ℝ) ^ q) (signed s (mantAt mode s m e q)) := by
  rw [mantAt]
  split
  · next h =>
    rw [signed_div_zpow_of_le h]
    exact roundsTo_self mode _
  · next h =>
    rw [signed_div_zpow_of_lt (not_le.mp h)]
    exact roundsTo_roundShift mode s m _

theorem mantAt_mul_of_le (mode : RMode) (s : Bool) (m : Nat) {e q : Int} (h : q ≤ e) :
    mantAt mode s m e q * (2 : ℝ) ^ q = m * (2 : ℝ) ^ e := by
  rw [mantAt, if_pos h, two_zpow_eq_pow_mul h]
  push_cast
  ring

/-- A rounding changes exactly the numbers that are no multiples of its unit. -/
theorem mantAt_ne_iff (mode : RMode) (s : Bool) (m : Nat) (e q : Int) :
    signed s (mantAt mode s m e q) * (2 : ℝ) ^ q ≠ signed s m * (2 : ℝ) ^ e ↔ lostAt m e q = true := by
  have hpow : (2 : ℝ) ^ q ≠ 0 := by positivity
  rw [ne_eq, ← eq_div_iff hpow]
  by_cases h : q ≤ e
  · simp [signed_div_zpow_of_le h, mantAt, lostAt, h]
  · have hlt := not_le.mp h
    have hd : (0 : ℝ) < 2 ^ (q - e).toNat := by positivity
    rw [signed_div_zpow_of_lt hlt, mantAt, if_neg h, eq_div_iff hd.ne']
    have hnat : (signed s (roundShift mode s m (q - e).toNat) : ℝ) * 2 ^ (q - e).toNat = signed s m
        ↔ roundShift mode s m (q - e).toNat * 2 ^ (q - e).toNat = m := by
      cases s with
      | false => simp only [signed_false, Int.cast_natCast]; exact_mod_cast Iff.rfl
      | true => simp only [signed_true, Int.cast_neg, Int.cast_natCast, neg_mul, neg_inj]; exact_mod_cast Iff.rfl
    rw [hnat]
    have hexact : roundShift mode s m (q - e).toNat * 2 ^ (q - e).toNat = m ↔ m % 2 ^ (q - e).toNat = 0 := by
      constructor
      · intro heq
        rw [← heq, Nat.mul_mod_left]
      · intro hzero
        rw [roundShift, hzero, roundsUp_zero _ _ _ (Nat.two_pow_pos _)]
        exact Nat.div_mul_cancel (Nat.dvd_of_mod_eq_zero hzero)
    rw [hexact]
    simp [lostAt, h]

/-- Rounding does not pass a multiple of the unit. -/
theorem mantAt_le {mode : RMode} {s : Bool} {m c : Nat} {e q : Int} (h : m * (2 : ℝ) ^ e ≤ c * (2 : ℝ) ^ q) : mantAt mode s m e q ≤ c := by
  have hround := roundsTo_mantAt mode s m e q
  have hdiv : m * (2 : ℝ) ^ e / (2 : ℝ) ^ q ≤ c := (div_le_iff₀ (by positivity)).mpr h
  cases s with
  | false =>
    have := hround.le_of_le (c := c) (by simpa using hdiv)
    rw [signed_false] at this
    omega
  | true =>
    have := hround.le_of_ge (c := -c) (by simpa [neg_div] using hdiv)
    rw [signed_true] at this
    omega

theorem le_mantAt {mode : RMode} {s : Bool} {m c : Nat} {e q : Int} (h : c * (2 : ℝ) ^ q ≤ m * (2 : ℝ) ^ e) : c ≤ mantAt mode s m e q := by
  have hround := roundsTo_mantAt mode s m e q
  have hdiv : c ≤ m * (2 : ℝ) ^ e / (2 : ℝ) ^ q := (le_div_iff₀ (by positivity)).mpr h
  cases s with
  | false =>
    have := hround.le_of_ge (c := c) (by simpa using hdiv)
    rw [signed_false] at this
    omega
  | true =>
    have := hround.le_of_le (c := -c) (by simpa [neg_div] using hdiv)
    rw [signed_true] at this
    omega

/-- A mantissa at the last place of its binade has its leading bit at the place of the format's, or has been rounded up to the next binade. -/
theorem mantAt_bounds {mode : RMode} {s : Bool} {m b : Nat} {e t : Int} (hlow : (2 : ℝ) ^ t ≤ m * (2 : ℝ) ^ e)
    (hhigh : m * (2 : ℝ) ^ e < (2 : ℝ) ^ (t + 1)) : 2 ^ b ≤ mantAt mode s m e (t - b) ∧ mantAt mode s m e (t - b) ≤ 2 ^ (b + 1) := by
  constructor
  · refine le_mantAt (le_of_eq_of_le ?_ hlow)
    rw [Nat.cast_pow, ← zpow_natCast, Nat.cast_ofNat, ← zpow_add₀ two_ne_zero, add_sub_cancel]
  · refine mantAt_le (hhigh.le.trans_eq ?_)
    rw [Nat.cast_pow, ← zpow_natCast, Nat.cast_ofNat, ← zpow_add₀ two_ne_zero]
    congr 1
    push_cast
    omega

/-! ### The encoding of a finite result (R76) -/

theorem Fmt.zero_eq (f : Fmt) (s : Bool) : f.zero s = s.toNat * 2 ^ f.eb * 2 ^ f.fb := by
  cases s <;> simp [Fmt.zero, Fmt.signBit, Nat.pow_add]

theorem fsign_zero_add {f : Fmt} (s : Bool) {b : Nat} (hb : b < 2 ^ f.eb * 2 ^ f.fb) : fsign f (f.zero s + b) = s := by
  rw [fsign, bits, Fmt.zero_eq, Nat.pow_add, Nat.mul_assoc, Nat.mul_comm s.toNat, Nat.mul_add_div (by positivity), Nat.div_eq_of_lt hb]
  cases s <;> rfl

/-- The fields of a pattern below those of an infinity. -/
theorem fdec_zero_add {f : Fmt} (s : Bool) {b : Nat} (hb : b < (2 ^ f.eb - 1) * 2 ^ f.fb) :
    fdec f (f.zero s + b) = if b / 2 ^ f.fb = 0 then .fin s (b % 2 ^ f.fb) (1 - f.bias - f.fb)
      else .fin s (b % 2 ^ f.fb + 2 ^ f.fb) ((b / 2 ^ f.fb : Nat) - f.bias - f.fb) := by
  have hfb : 0 < 2 ^ f.fb := Nat.two_pow_pos _
  have hexp : b / 2 ^ f.fb < 2 ^ f.eb - 1 := (Nat.div_lt_iff_lt_mul hfb).mpr hb
  have hsign : (bits (f.zero s + b) (f.eb + f.fb) 1 == 1) = s := fsign_zero_add s (hb.trans_le (Nat.mul_le_mul_right _ (Nat.sub_le _ _)))
  have hexpField : bits (f.zero s + b) f.fb f.eb = b / 2 ^ f.fb := by
    rw [bits, Fmt.zero_eq, Nat.mul_comm _ (2 ^ f.fb), Nat.mul_add_div hfb, Nat.mul_comm s.toNat, Nat.mul_add_mod, Nat.mod_eq_of_lt (hexp.trans_le (Nat.sub_le _ _))]
  have hfracField : bits (f.zero s + b) 0 f.fb = b % 2 ^ f.fb := by
    rw [bits, Fmt.zero_eq, Nat.pow_zero, Nat.div_one, Nat.mul_comm _ (2 ^ f.fb), Nat.mul_add_mod]
  rw [fdec]
  simp only [hsign, hexpField, hfracField, if_neg (show b / 2 ^ f.fb ≠ 2 ^ f.eb - 1 by omega)]

/-- The pattern of a mantissa of at most one place too many above the binade a: its value is the mantissa in units of that binade's last place. -/
theorem fdec_zero_add_is {f : Fmt} (s : Bool) {a mant : Nat} (hb : a * 2 ^ f.fb + mant < (2 ^ f.eb - 1) * 2 ^ f.fb) (hle : mant ≤ 2 * 2 ^ f.fb)
    (ha : a = 0 ∨ 2 ^ f.fb ≤ mant) :
    (fdec f (f.zero s + (a * 2 ^ f.fb + mant))).Is (signed s mant * (2 : ℝ) ^ ((a : Int) + 1 - f.bias - f.fb)) := by
  have hfb : 0 < 2 ^ f.fb := Nat.two_pow_pos _
  have hdiv : (a * 2 ^ f.fb + mant) / 2 ^ f.fb = a + mant / 2 ^ f.fb := by rw [Nat.mul_comm, Nat.mul_add_div hfb]
  have hmod : (a * 2 ^ f.fb + mant) % 2 ^ f.fb = mant % 2 ^ f.fb := by rw [Nat.mul_comm, Nat.mul_add_mod]
  rw [fdec_zero_add s hb, hdiv, hmod]
  rcases Nat.lt_or_ge mant (2 ^ f.fb) with hsub | hnorm
  · -- a subnormal number, or zero
    have ha : a = 0 := ha.resolve_right (by omega)
    rw [ha, Nat.div_eq_of_lt hsub, if_pos rfl, Nat.mod_eq_of_lt hsub, FVal.is_fin]
    norm_num
  rcases Nat.eq_or_lt_of_le hle with htop | hlt
  · -- rounded up to the next binade
    rw [htop, Nat.mul_div_cancel _ hfb, Nat.mul_mod_left, if_neg (by omega), FVal.is_fin, cast_signed, cast_signed]
    have hexp : ((a + 2 : Nat) : Int) - f.bias - f.fb = (a + 1 - f.bias - f.fb) + 1 := by push_cast; ring
    rw [hexp, zpow_add_one₀ two_ne_zero]
    push_cast
    ring
  · have hone : mant / 2 ^ f.fb = 1 := Nat.div_eq_of_lt_le (by omega) (by omega)
    have hrest : mant % 2 ^ f.fb + 2 ^ f.fb = mant := by
      have := Nat.div_add_mod mant (2 ^ f.fb)
      rw [hone] at this
      omega
    rw [hone, if_neg (by omega), hrest, FVal.is_fin]
    push_cast
    rfl

/-- The largest finite value, in units of the last place of the binade a, is passed exactly where the pattern reaches that of infinity (R79). -/
theorem most_lt_iff {f : Fmt} (hf : 2 ≤ f.eb) {a mant : Nat} (hle : mant ≤ 2 * 2 ^ f.fb) (ha : a = 0 ∨ 2 ^ f.fb ≤ mant) :
    (2 - (2 : ℝ) ^ (-(f.fb : Int))) * (2 : ℝ) ^ (f.bias : Int) < mant * (2 : ℝ) ^ ((a : Int) + 1 - f.bias - f.fb)
      ↔ (2 ^ f.eb - 1) * 2 ^ f.fb ≤ a * 2 ^ f.fb + mant := by
  obtain ⟨heb, hbias⟩ := Fmt.two_pow_eb hf
  have hscale : (0 : ℝ) < 2 ^ (f.bias + f.fb) := by positivity
  have hmost : (2 - (2 : ℝ) ^ (-(f.fb : Int))) * (2 : ℝ) ^ (f.bias : Int) * 2 ^ (f.bias + f.fb) = ((2 * 2 ^ f.fb - 1) * 2 ^ (2 * f.bias) : ℝ) := by
    rw [zpow_neg, zpow_natCast, zpow_natCast, pow_add, two_mul f.bias, pow_add]
    field_simp
  have hvalue : mant * (2 : ℝ) ^ ((a : Int) + 1 - f.bias - f.fb) * 2 ^ (f.bias + f.fb) = (mant * 2 ^ (a + 1) : ℝ) := by
    rw [mul_assoc, ← zpow_natCast, ← zpow_natCast, ← zpow_add₀ two_ne_zero]
    congr 2
    push_cast
    ring
  rw [← mul_lt_mul_iff_left₀ hscale, hmost, hvalue]
  have hfb : 1 ≤ 2 ^ f.fb := Nat.one_le_two_pow
  have hnat : ((2 * 2 ^ f.fb - 1) * 2 ^ (2 * f.bias) : ℝ) < (mant * 2 ^ (a + 1) : ℝ) ↔ (2 * 2 ^ f.fb - 1) * 2 ^ (2 * f.bias) < mant * 2 ^ (a + 1) := by
    rw [← Nat.cast_lt (α := ℝ), Nat.cast_mul, Nat.cast_sub (by omega)]
    push_cast
    rfl
  rw [hnat, heb, show 2 * f.bias + 2 - 1 = 2 * f.bias + 1 by omega]
  rcases Nat.lt_trichotomy (a + 1) (2 * f.bias) with hbelow | htop | habove
  · have hpow : 2 * 2 ^ (a + 1) ≤ 2 ^ (2 * f.bias) := Nat.pow_succ' ▸ Nat.pow_le_pow_right two_pos hbelow
    have hleft : mant * 2 ^ (a + 1) ≤ (2 * 2 ^ f.fb - 1) * 2 ^ (2 * f.bias) :=
      calc mant * 2 ^ (a + 1) ≤ ((2 * 2 ^ f.fb - 1) * 2) * 2 ^ (a + 1) := Nat.mul_le_mul_right _ (by omega)
        _ ≤ (2 * 2 ^ f.fb - 1) * 2 ^ (2 * f.bias) := by rw [Nat.mul_assoc]; exact Nat.mul_le_mul_left _ hpow
    have hright : (a + 3) * 2 ^ f.fb ≤ (2 * f.bias + 1) * 2 ^ f.fb := Nat.mul_le_mul_right _ (by omega)
    rw [Nat.add_mul] at hright
    exact iff_of_false (by omega) (by omega)
  · have hright : (2 * f.bias + 1) * 2 ^ f.fb = a * 2 ^ f.fb + 2 * 2 ^ f.fb := by rw [← htop]; ring
    rw [htop, Nat.mul_lt_mul_right (Nat.two_pow_pos _), hright]
    omega
  · have hmant : 2 ^ f.fb ≤ mant := ha.resolve_left (by omega)
    have hpow : 2 * 2 ^ (2 * f.bias) ≤ 2 ^ (a + 1) := Nat.pow_succ' ▸ Nat.pow_le_pow_right two_pos habove
    have hleft : 2 ^ f.fb * (2 * 2 ^ (2 * f.bias)) ≤ mant * 2 ^ (a + 1) := Nat.mul_le_mul hmant hpow
    have hstrict : (2 * 2 ^ f.fb - 1) * 2 ^ (2 * f.bias) < (2 * 2 ^ f.fb) * 2 ^ (2 * f.bias) := Nat.mul_lt_mul_of_pos_right (by omega) (Nat.two_pow_pos _)
    have hright : (2 * f.bias) * 2 ^ f.fb ≤ a * 2 ^ f.fb := Nat.mul_le_mul_right _ (by omega)
    have hexpand : (2 * f.bias + 1) * 2 ^ f.fb = (2 * f.bias) * 2 ^ f.fb + 2 ^ f.fb := by ring
    have hassoc : 2 ^ f.fb * (2 * 2 ^ (2 * f.bias)) = (2 * 2 ^ f.fb) * 2 ^ (2 * f.bias) := by ring
    exact iff_of_true (by omega) (by omega)

end Sys2Proof.Machine
end

section
/-! SUPPORT. The narrowing of an integer times a power of two is that number rounded once (R79, R81, R84). -/

namespace Sys2Proof.Machine

/-! ### The narrowing in closed form -/

/-- Whether a number, rounded with an unbounded exponent range, stays below the smallest normal value (R84). -/
def tinyAt (f : Fmt) (mode : RMode) (s : Bool) (m : Nat) (e : Int) : Bool :=
  let top : Int := e + Nat.log2 m
  decide (top < 1 - f.bias) &&
    !(decide (top = 1 - f.bias - 1) && (decide (top - f.fb > e) && decide (roundShift mode s m (top - f.fb - e).toNat = 2 ^ (f.fb + 1))))

/-- The place of the leading bit that a result's last place is counted from: no lower than the smallest normal value's. -/
def placeOf (f : Fmt) (m : Nat) (e : Int) : Int := max (e + Nat.log2 m) (1 - f.bias)

/-- The pattern without its sign: the mantissa above the patterns of the lower binades. -/
def bodyOf (f : Fmt) (mode : RMode) (s : Bool) (m : Nat) (e : Int) : Nat :=
  (placeOf f m e + f.bias - 1).toNat * 2 ^ f.fb + mantAt mode s m e (placeOf f m e - f.fb)

theorem roundFin_eq (f : Fmt) (mode : RMode) (s : Bool) (m : Nat) (e : Int) :
    roundFin f mode s m e = if (2 ^ f.eb - 1) * 2 ^ f.fb ≤ bodyOf f mode s m e then (overflowTo f mode s, fOF ||| fNX)
      else (f.zero s + bodyOf f mode s m e,
        flagIf (lostAt m e (placeOf f m e - f.fb)) fNX ||| flagIf (lostAt m e (placeOf f m e - f.fb) && tinyAt f mode s m e) fUF) := by
  have hbody : (placeOf f m e + f.bias - 1) * 2 ^ f.fb + (mantAt mode s m e (placeOf f m e - f.fb) : Int) = (bodyOf f mode s m e : Nat) := by
    have hplace : 0 ≤ placeOf f m e + f.bias - 1 := by rw [placeOf]; omega
    rw [bodyOf, Nat.cast_add, Nat.cast_mul, Int.toNat_of_nonneg hplace]
    push_cast
    rfl
  have hmodel : roundFin f mode s m e =
      if (placeOf f m e + f.bias - 1) * 2 ^ f.fb + (mantAt mode s m e (placeOf f m e - f.fb) : Int) ≥ ((2 ^ f.eb - 1) * 2 ^ f.fb : Nat) then
        (overflowTo f mode s, fOF ||| fNX)
      else (f.zero s + ((placeOf f m e + f.bias - 1) * 2 ^ f.fb + (mantAt mode s m e (placeOf f m e - f.fb) : Int)).toNat,
        flagIf (lostAt m e (placeOf f m e - f.fb)) fNX ||| flagIf (lostAt m e (placeOf f m e - f.fb) && tinyAt f mode s m e) fUF) := rfl
  rw [hmodel, hbody, Int.toNat_natCast]
  simp only [ge_iff_le, Nat.cast_le]

/-- What an overflow delivers, by mode and sign (R79). -/
theorem overflowTo_eq (f : Fmt) (mode : RMode) (s : Bool) :
    overflowTo f mode s = if mode = .rtz ∨ (mode = .rdn ∧ s = false) ∨ (mode = .rup ∧ s = true) then f.maxFin s else f.inf s := by
  cases mode <;> cases s <;> rfl

/-! ### The flags of a result in range -/

theorem narrowing_flags (nx tiny : Bool) :
    (flagIf nx fNX ||| flagIf (nx && tiny) fUF) &&& ~~~(fNX ||| fUF) = 0
      ∧ ((flagIf nx fNX ||| flagIf (nx && tiny) fUF) &&& fNX ≠ 0 ↔ nx = true)
      ∧ ((flagIf nx fNX ||| flagIf (nx && tiny) fUF) &&& fUF ≠ 0 ↔ nx = true ∧ tiny = true) := by
  cases nx <;> cases tiny <;> decide

theorem tinyAt_iff (f : Fmt) (mode : RMode) (s : Bool) {m : Nat} (hm : m ≠ 0) (e : Int) :
    tinyAt f mode s m e = true
      ↔ mantAt mode s m e (e + m.log2 - f.fb) * (2 : ℝ) ^ (e + m.log2 - f.fb : Int) < (2 : ℝ) ^ (1 - f.bias : Int) := by
  obtain ⟨hlow, hhigh⟩ := two_zpow_log2_bracket hm e
  obtain ⟨hmin, hmax⟩ := mantAt_bounds (mode := mode) (s := s) (b := f.fb) hlow hhigh
  have hpow : ∀ n : Nat, ((2 ^ n : Nat) : ℝ) * (2 : ℝ) ^ (e + m.log2 - f.fb : Int) = (2 : ℝ) ^ (e + m.log2 + (n - f.fb) : Int) := fun n => by
    rw [Nat.cast_pow, ← zpow_natCast, Nat.cast_ofNat, ← zpow_add₀ two_ne_zero]
    congr 1
    ring
  have hunit : (0 : ℝ) < (2 : ℝ) ^ (e + m.log2 - f.fb : Int) := by positivity
  have hge := mul_le_mul_of_nonneg_right (Nat.cast_le (α := ℝ).mpr hmin) hunit.le
  have hle := mul_le_mul_of_nonneg_right (Nat.cast_le (α := ℝ).mpr hmax) hunit.le
  rw [hpow] at hge hle
  rcases lt_trichotomy (e + m.log2 : Int) (1 - f.bias - 1) with hbelow | htop | habove
  · have hlt : (2 : ℝ) ^ (e + m.log2 + ((f.fb + 1 : Nat) - f.fb) : Int) < (2 : ℝ) ^ (1 - f.bias : Int) :=
      (zpow_lt_zpow_iff_right₀ one_lt_two).mpr (by push_cast; omega)
    refine iff_of_true ?_ (hle.trans_lt hlt)
    simp only [tinyAt, Bool.and_eq_true, decide_eq_true_eq, Bool.not_eq_true', Bool.and_eq_false_imp]
    exact ⟨by omega, fun h => absurd h (by omega)⟩
  · have hnext : (2 : ℝ) ^ (1 - f.bias : Int) = ((2 ^ (f.fb + 1) : Nat) : ℝ) * (2 : ℝ) ^ (e + m.log2 - f.fb : Int) := by
      rw [hpow]
      congr 1
      push_cast
      omega
    rw [hnext, mul_lt_mul_iff_left₀ hunit, Nat.cast_lt]
    have hcarry : mantAt mode s m e (e + m.log2 - f.fb) = 2 ^ (f.fb + 1)
        ↔ e + m.log2 - f.fb > e ∧ roundShift mode s m (e + m.log2 - f.fb - e).toNat = 2 ^ (f.fb + 1) := by
      by_cases hexact : e + m.log2 - f.fb ≤ e
      · refine iff_of_false (fun hcarry => ?_) fun h => absurd h.1 (not_lt.mpr hexact)
        have hvalue := mantAt_mul_of_le mode s m hexact
        rw [hcarry, hpow] at hvalue
        refine hhigh.ne (hvalue.symm.trans ?_)
        congr 1
        push_cast
        omega
      · rw [mantAt, if_neg hexact, and_iff_right (not_le.mp hexact)]
    simp only [tinyAt, Bool.and_eq_true, decide_eq_true_eq, Bool.not_eq_true', Bool.and_eq_false_imp, decide_eq_false_iff_not]
    rw [show mantAt mode s m e (e + m.log2 - f.fb) < 2 ^ (f.fb + 1) ↔ ¬mantAt mode s m e (e + m.log2 - f.fb) = 2 ^ (f.fb + 1) by omega, hcarry, not_and]
    exact ⟨fun h => h.2 htop, fun h => ⟨by omega, fun _ => h⟩⟩
  · have hle : (2 : ℝ) ^ (1 - f.bias : Int) ≤ (2 : ℝ) ^ (e + m.log2 + (f.fb - f.fb) : Int) :=
      (zpow_le_zpow_iff_right₀ one_lt_two).mpr (by omega)
    refine iff_of_false ?_ (not_lt.mpr (hle.trans hge))
    simp only [tinyAt, Bool.and_eq_true, decide_eq_true_eq]
    exact fun h => absurd h.1 (by omega)

/-! ### The narrowing rounds once -/

theorem bodyOf_bounds {f : Fmt} {mode : RMode} {s : Bool} {m : Nat} (hm : m ≠ 0) (e : Int) :
    mantAt mode s m e (placeOf f m e - f.fb) ≤ 2 * 2 ^ f.fb
      ∧ ((placeOf f m e + f.bias - 1).toNat = 0 ∨ 2 ^ f.fb ≤ mantAt mode s m e (placeOf f m e - f.fb)) := by
  obtain ⟨hlow, hhigh⟩ := two_zpow_log2_bracket hm e
  rcases le_or_gt (1 - f.bias : Int) (e + m.log2) with hnormal | hsub
  · rw [placeOf, max_eq_left hnormal, ← Nat.pow_succ']
    obtain ⟨hmin, hmax⟩ := mantAt_bounds (mode := mode) (s := s) (b := f.fb) hlow hhigh
    exact ⟨hmax, .inr hmin⟩
  · rw [placeOf, max_eq_right hsub.le]
    have hbelow : (2 : ℝ) ^ (e + m.log2 + 1) ≤ ((2 ^ f.fb : Nat) : ℝ) * (2 : ℝ) ^ (1 - f.bias - f.fb : Int) := by
      rw [Nat.cast_pow, ← zpow_natCast, Nat.cast_ofNat, ← zpow_add₀ two_ne_zero]
      exact (zpow_le_zpow_iff_right₀ one_lt_two).mpr (by omega)
    have hmant : mantAt mode s m e (1 - f.bias - f.fb) ≤ 2 ^ f.fb := mantAt_le (hhigh.le.trans hbelow)
    exact ⟨by omega, .inl (by omega)⟩

/-- The binade of the body, as an exponent. -/
theorem two_zpow_placeOf (f : Fmt) (m : Nat) (e : Int) :
    (2 : ℝ) ^ (placeOf f m e - f.fb : Int) = (2 : ℝ) ^ (((placeOf f m e + f.bias - 1).toNat : Int) + 1 - f.bias - f.fb) := by
  have hplace : 0 ≤ placeOf f m e + f.bias - 1 := by rw [placeOf]; omega
  rw [Int.toNat_of_nonneg hplace]
  congr 1
  ring

/-- A result passes the largest finite value exactly where its pattern reaches that of infinity. -/
theorem most_lt_mantAt_iff {f : Fmt} (hf : 2 ≤ f.eb) (mode : RMode) (s : Bool) {m : Nat} (hm : m ≠ 0) (e : Int) :
    (2 - (2 : ℝ) ^ (-(f.fb : Int))) * (2 : ℝ) ^ (f.bias : Int) < mantAt mode s m e (placeOf f m e - f.fb) * (2 : ℝ) ^ (placeOf f m e - f.fb : Int)
      ↔ (2 ^ f.eb - 1) * 2 ^ f.fb ≤ bodyOf f mode s m e := by
  obtain ⟨hmax, hnormal⟩ := bodyOf_bounds (f := f) (mode := mode) (s := s) hm e
  rw [two_zpow_placeOf]
  exact most_lt_iff hf hmax hnormal

/-- A result in range decodes to its mantissa in units of its last place. -/
theorem fdec_bodyOf_is {f : Fmt} {mode : RMode} (s : Bool) {m : Nat} (hm : m ≠ 0) {e : Int} (hb : bodyOf f mode s m e < (2 ^ f.eb - 1) * 2 ^ f.fb) :
    (fdec f (f.zero s + bodyOf f mode s m e)).Is (signed s (mantAt mode s m e (placeOf f m e - f.fb)) * (2 : ℝ) ^ (placeOf f m e - f.fb : Int)) := by
  obtain ⟨hmax, hnormal⟩ := bodyOf_bounds (f := f) (mode := mode) (s := s) hm e
  rw [two_zpow_placeOf]
  exact fdec_zero_add_is s hb hmax hnormal

theorem zero_add_lt_two_pow_width {f : Fmt} (s : Bool) {b : Nat} (hb : b < 2 ^ f.eb * 2 ^ f.fb) : f.zero s + b < 2 ^ f.width := by
  have hsign : f.zero s ≤ 2 ^ f.eb * 2 ^ f.fb := by rw [Fmt.zero_eq]; cases s <;> simp
  have hwidth : 2 ^ f.width = 2 * (2 ^ f.eb * 2 ^ f.fb) := by rw [Fmt.width, pow_add, pow_add, pow_one, mul_assoc]
  omega

theorem narrows_roundFin {f : Fmt} (hf : 2 ≤ f.eb) (mode : RMode) (s : Bool) {m : Nat} (hm : m ≠ 0) (e : Int) :
    Narrows f mode (signed s m * (2 : ℝ) ^ e) (roundFin f mode s m e) := by
  intro t s' hlow hhigh hs least ulp most
  have hpos : (0 : ℝ) < (2 : ℝ) ^ e := by positivity
  rw [abs_mul, abs_cast_signed, abs_of_pos hpos] at hlow hhigh
  obtain ⟨hlow', hhigh'⟩ := two_zpow_log2_bracket hm e
  obtain rfl : t = e + m.log2 := two_zpow_bracket_unique hlow hhigh hlow' hhigh'
  obtain rfl : s' = s := by
    rw [mul_neg_iff, or_iff_right (fun h => h.2.not_gt hpos), and_iff_left hpos, Int.cast_lt_zero, signed_neg_iff hm] at hs
    exact Bool.eq_iff_iff.mpr hs
  have hmost : most < |(signed s' (mantAt mode s' m e (placeOf f m e - f.fb)) : ℝ) * ulp| ↔ (2 ^ f.eb - 1) * 2 ^ f.fb ≤ bodyOf f mode s' m e := by
    rw [abs_mul, abs_cast_signed, abs_of_pos (show 0 < ulp by positivity)]
    exact most_lt_mantAt_iff hf mode s' hm e
  refine ⟨signed s' (mantAt mode s' m e (placeOf f m e - f.fb)), signed s' (mantAt mode s' m e (e + m.log2 - f.fb)), roundsTo_mantAt mode s' m e _,
    roundsTo_mantAt mode s' m e _, fun hover => ?overflow, fun hin => ?fits⟩
  case overflow => rw [roundFin_eq, if_pos (hmost.mp hover), overflowTo_eq]
  case fits =>
    have hbody : bodyOf f mode s' m e < (2 ^ f.eb - 1) * 2 ^ f.fb := not_le.mp fun h => not_lt.mpr hin (hmost.mpr h)
    have hbody' := hbody.trans_le (Nat.mul_le_mul_right _ (Nat.sub_le _ 1))
    rw [roundFin_eq, if_neg (not_le.mpr hbody)]
    obtain ⟨hflags, hnx, huf⟩ := narrowing_flags (lostAt m e (placeOf f m e - f.fb)) (tinyAt f mode s' m e)
    have hlost := mantAt_ne_iff mode s' m e (placeOf f m e - f.fb)
    have htiny := tinyAt_iff f mode s' hm e
    refine ⟨fdec_bodyOf_is s' hm hbody, fsign_zero_add s' hbody', zero_add_lt_two_pow_width s' hbody', hflags, hnx.trans hlost.symm,
      huf.trans (and_congr hlost.symm ?_)⟩
    rw [htiny, abs_mul, abs_cast_signed, abs_of_pos (by positivity)]

end Sys2Proof.Machine
end

section
/-! SUPPORT. The quotient and the square root (R141): each is narrowed from a number that lies on the same side of every point at which rounding turns. -/

namespace Sys2Proof.Machine

/-! ### Where a rounding to nearest turns -/

section
variable (x : ℝ) (q n : Int)

/-- A number in units of 2^q, in halves of them. -/
theorem div_two_zpow_eq_half : x / (2 : ℝ) ^ q = x / (2 : ℝ) ^ (q - 1) / 2 := by
  rw [div_div, ← zpow_add_one₀ two_ne_zero, sub_add_cancel]

theorem abs_div_sub_lt_half_iff : |x / (2 : ℝ) ^ q - n| < 1 / 2
    ↔ ((2 * n - 1 : Int) : ℝ) * (2 : ℝ) ^ (q - 1) < x ∧ x < ((2 * n + 1 : Int) : ℝ) * (2 : ℝ) ^ (q - 1) := by
  have hpos : (0 : ℝ) < (2 : ℝ) ^ (q - 1) := by positivity
  rw [div_two_zpow_eq_half, abs_lt, ← lt_div_iff₀ hpos, ← div_lt_iff₀ hpos]
  push_cast
  exact and_congr ⟨fun h => by linarith, fun h => by linarith⟩ ⟨fun h => by linarith, fun h => by linarith⟩

theorem abs_div_sub_eq_half_iff : |x / (2 : ℝ) ^ q - n| = 1 / 2
    ↔ x = ((2 * n + 1 : Int) : ℝ) * (2 : ℝ) ^ (q - 1) ∨ x = ((2 * n - 1 : Int) : ℝ) * (2 : ℝ) ^ (q - 1) := by
  have hpos : (0 : ℝ) < (2 : ℝ) ^ (q - 1) := by positivity
  rw [div_two_zpow_eq_half, abs_eq (by norm_num), ← div_eq_iff hpos.ne', ← div_eq_iff hpos.ne']
  push_cast
  exact or_congr ⟨fun h => by linarith, fun h => by linarith⟩ ⟨fun h => by linarith, fun h => by linarith⟩

end

/-! ### Numbers that a grid does not tell apart -/

/-- Two numbers lie alike to every multiple of 2^g. -/
def SameSide (g : Int) (x y : ℝ) : Prop := ∀ c : Int, (c * (2 : ℝ) ^ g ≤ x ↔ c * (2 : ℝ) ^ g ≤ y) ∧ (x ≤ c * (2 : ℝ) ^ g ↔ y ≤ c * (2 : ℝ) ^ g)

section
variable {g h : Int} {x y : ℝ}

theorem SameSide.neg (hxy : SameSide g x y) : SameSide g (-x) (-y) := by
  intro c
  obtain ⟨hle, hge⟩ := hxy (-c)
  push_cast at hle hge
  exact ⟨by rw [le_neg, ← neg_mul, hge, le_neg, neg_mul], by rw [neg_le, ← neg_mul, hle, neg_le, neg_mul]⟩

theorem SameSide.signed (hxy : SameSide g x y) (s : Bool) : SameSide g (signed s 1 * x) (signed s 1 * y) := by
  cases s with
  | false => simpa using hxy
  | true => simpa using hxy.neg

theorem SameSide.coarser (hxy : SameSide g x y) (hgh : g ≤ h) : SameSide h x y := by
  intro c
  have hpow : (c : ℝ) * (2 : ℝ) ^ h = ((c * 2 ^ (h - g).toNat : Int) : ℝ) * (2 : ℝ) ^ g := by
    rw [two_zpow_eq_pow_mul hgh]
    push_cast
    ring
  rw [hpow]
  exact hxy _

variable (hxy : SameSide g x y)
include hxy

theorem SameSide.lt_iff (c : Int) : x < c * (2 : ℝ) ^ g ↔ y < c * (2 : ℝ) ^ g := by rw [← not_le, ← not_le, (hxy c).1]

theorem SameSide.gt_iff (c : Int) : c * (2 : ℝ) ^ g < x ↔ c * (2 : ℝ) ^ g < y := by rw [← not_le, ← not_le, (hxy c).2]

theorem SameSide.eq_iff (c : Int) : x = c * (2 : ℝ) ^ g ↔ y = c * (2 : ℝ) ^ g := by
  rw [le_antisymm_iff, le_antisymm_iff, (hxy c).1, (hxy c).2]

theorem SameSide.neg_iff : x < 0 ↔ y < 0 := by simpa using hxy.lt_iff 0

theorem SameSide.le_abs_iff : (2 : ℝ) ^ g ≤ |x| ↔ (2 : ℝ) ^ g ≤ |y| := by
  have hpos := (hxy 1).1
  have hneg := (hxy.neg 1).1
  rw [Int.cast_one, one_mul] at hpos hneg
  rw [le_abs, le_abs, hpos, hneg]

theorem SameSide.abs_lt_iff : |x| < (2 : ℝ) ^ g ↔ |y| < (2 : ℝ) ^ g := by rw [← not_le, ← not_le, hxy.le_abs_iff]

/-- A rounding to nearest even turns at odd multiples of half its unit. -/
theorem SameSide.roundsTo_rne {q : Int} (hq : g + 1 ≤ q) (n : Int) : RoundsTo .rne (x / (2 : ℝ) ^ q) n ↔ RoundsTo .rne (y / (2 : ℝ) ^ q) n := by
  have hcoarse := hxy.coarser (show g ≤ q - 1 by omega)
  simp only [RoundsTo, abs_div_sub_lt_half_iff, abs_div_sub_eq_half_iff, hcoarse.lt_iff, hcoarse.gt_iff, hcoarse.eq_iff]

end

/-- What a number with places below the half of its last place is narrowed to is also the narrowing of each number that lies alike to those places. -/
theorem Narrows.of_sameSide {f : Fmt} {x y : ℝ} {g : Int} {r : Nat × Flags} (hxy : SameSide g x y) (hlarge : (2 : ℝ) ^ (g + f.fb + 1) ≤ |x|)
    (hy : Narrows f .rne y r) : Narrows f .rne x r := by
  intro t s hlow hhigh hs least ulp most
  have ht : g + f.fb + 1 ≤ t := by
    have := (zpow_lt_zpow_iff_right₀ (one_lt_two (α := ℝ))).mp (hlarge.trans_lt hhigh)
    omega
  have hlow' := (hxy.coarser (show g ≤ t by omega)).le_abs_iff.mp hlow
  have hhigh' := (hxy.coarser (show g ≤ t + 1 by omega)).abs_lt_iff.mp hhigh
  obtain ⟨n, k, hn, hk, hover, hfits⟩ := hy t s hlow' hhigh' (hs.trans hxy.neg_iff)
  have hulp : g ≤ max t least - f.fb := by omega
  have hexact : (n : ℝ) * ulp ≠ x ↔ (n : ℝ) * ulp ≠ y := by
    rw [ne_comm, ne_comm (b := y), ne_eq, ne_eq, (hxy.coarser hulp).eq_iff]
  refine ⟨n, k, (hxy.roundsTo_rne (by omega) n).mpr hn, (hxy.roundsTo_rne (by omega) k).mpr hk, hover, fun hin => ?_⟩
  obtain ⟨hvalue, hsign, hwidth, hflags, hnx, huf⟩ := hfits hin
  exact ⟨hvalue, hsign, hwidth, hflags, hnx.trans hexact.symm, huf.trans (and_congr_left' hexact.symm)⟩

/-! ### The sticky bit -/

/-- A number between q and q + 1, and q with one bit below it that says whether they differ, lie alike to every integer. -/
theorem sameSide_sticky {q b : Nat} {a : ℝ} (hle : q ≤ a) (hlt : a < q + 1) (hb : b = if a = q then 0 else 1) (g : Int) :
    SameSide g (a * (2 : ℝ) ^ g) (((2 * q + b : Nat) : ℝ) * (2 : ℝ) ^ (g - 1)) := by
  intro c
  have hpos : (0 : ℝ) < (2 : ℝ) ^ g := by positivity
  have hhalf : ((2 * q + b : Nat) : ℝ) * (2 : ℝ) ^ (g - 1) = (q + b / 2 : ℝ) * (2 : ℝ) ^ g := by
    rw [zpow_sub_one₀ two_ne_zero]
    push_cast
    ring
  rw [hhalf, mul_le_mul_iff_left₀ hpos, mul_le_mul_iff_left₀ hpos, mul_le_mul_iff_left₀ hpos, mul_le_mul_iff_left₀ hpos]
  by_cases ha : a = q
  · rw [hb, if_pos ha, ha]
    simp
  · have hlt' : (q : ℝ) < a := lt_of_le_of_ne hle (Ne.symm ha)
    rw [hb, if_neg ha]
    have hbelow : (c : ℝ) ≤ q ↔ ¬((q : ℝ) + 1 ≤ c) := by
      rw [not_le, ← Int.cast_natCast, ← Int.cast_one, ← Int.cast_add, Int.cast_le, Int.cast_lt, Int.lt_add_one_iff]
    rcases le_or_gt (c : ℝ) q with hc | hc
    · exact ⟨iff_of_true (by linarith) (by push_cast; linarith), iff_of_false (by linarith) (by push_cast; linarith)⟩
    · have hc' : (q : ℝ) + 1 ≤ c := not_not.mp fun h => not_le.mpr hc (hbelow.mpr h)
      exact ⟨iff_of_false (by linarith) (by push_cast; linarith), iff_of_true (by linarith) (by push_cast; linarith)⟩

/-- A magnitude a 2^g, whose integer part q has enough places, is rounded once where q is narrowed with a sticky bit below it. -/
theorem narrows_sticky {f : Fmt} (hf : 2 ≤ f.eb) (s : Bool) {q b : Nat} {a : ℝ} (hle : q ≤ a) (hlt : a < q + 1) (hb : b = if a = q then 0 else 1)
    (hlarge : 2 ^ (f.fb + 1) ≤ q) (g : Int) : Narrows f .rne (signed s 1 * (a * (2 : ℝ) ^ g)) (roundFin f .rne s (2 * q + b) (g - 1)) := by
  have hsame := (sameSide_sticky hle hlt hb g).signed s
  have hone : (signed s (2 * q + b) : ℝ) * (2 : ℝ) ^ (g - 1) = signed s 1 * (((2 * q + b : Nat) : ℝ) * (2 : ℝ) ^ (g - 1)) := by
    rw [cast_signed, cast_signed]
    push_cast
    ring
  have hpos : 0 < 2 ^ (f.fb + 1) := Nat.two_pow_pos _
  refine (hone ▸ narrows_roundFin hf .rne s (m := 2 * q + b) (by omega) (g - 1)).of_sameSide hsame ?_
  have hq : ((2 ^ (f.fb + 1) : Nat) : ℝ) ≤ a := (Nat.cast_le.mpr hlarge).trans hle
  have ha : 0 ≤ a := (Nat.cast_nonneg _).trans hle
  rw [abs_mul, abs_cast_signed, Nat.cast_one, one_mul, abs_of_nonneg (by positivity), add_assoc, zpow_add₀ two_ne_zero, mul_comm]
  refine mul_le_mul_of_nonneg_right ?_ (by positivity)
  exact_mod_cast hq

/-! ### The quotient -/

theorem fdivV_fin (f : Fmt) (s1 s2 : Bool) {m1 m2 : Nat} (e1 e2 : Int) (h1 : m1 ≠ 0) (h2 : m2 ≠ 0) :
    fdivV f (.fin s1 m1 e1) (.fin s2 m2 e2) = roundFin f .rne (s1 != s2)
      (2 * (m1 * 2 ^ (f.fb + 5 + m2.log2) / m2) + if m1 * 2 ^ (f.fb + 5 + m2.log2) % m2 = 0 then 0 else 1) (e1 - e2 - (f.fb + 5 + m2.log2 : Nat) - 1) := by
  simp only [fdivV, h1, h2, false_and, if_false]

theorem narrows_fdivV {f : Fmt} (hf : 2 ≤ f.eb) {x y : FVal} {u v : ℝ} (hx : x.Is u) (hy : y.Is v) (hu : u ≠ 0) (hv : v ≠ 0) :
    Narrows f .rne (u / v) (fdivV f x y) := by
  obtain ⟨s1, m1, e1, rfl, rfl⟩ := hx.exists_fin
  obtain ⟨s2, m2, e2, rfl, rfl⟩ := hy.exists_fin
  rw [ne_eq, signed_mul_zpow_eq_zero] at hu hv
  rw [fdivV_fin f s1 s2 e1 e2 hu hv]
  set k := f.fb + 5 + m2.log2 with hk
  have hm2 : (0 : ℝ) < m2 := by exact_mod_cast Nat.pos_of_ne_zero hv
  have hquot : (signed s1 m1 : ℝ) * (2 : ℝ) ^ e1 / (signed s2 m2 * (2 : ℝ) ^ e2)
      = signed (s1 != s2) 1 * (((m1 * 2 ^ k : Nat) : ℝ) / m2 * (2 : ℝ) ^ (e1 - e2 - k)) := by
    rw [zpow_sub₀ two_ne_zero, zpow_sub₀ two_ne_zero, zpow_natCast]
    cases s1 <;> cases s2 <;> simp <;> field_simp
  have hlarge : 2 ^ (f.fb + 1) ≤ m1 * 2 ^ k / m2 := by
    rw [Nat.le_div_iff_mul_le (Nat.pos_of_ne_zero hv)]
    calc 2 ^ (f.fb + 1) * m2 ≤ 2 ^ (f.fb + 1) * 2 ^ (m2.log2 + 1) := Nat.mul_le_mul_left _ Nat.lt_log2_self.le
      _ = 2 ^ (f.fb + 1 + (m2.log2 + 1)) := (pow_add ..).symm
      _ ≤ 2 ^ k := Nat.pow_le_pow_right two_pos (by omega)
      _ ≤ m1 * 2 ^ k := Nat.le_mul_of_pos_left _ (Nat.pos_of_ne_zero hu)
  have hexact : (((m1 * 2 ^ k : Nat) : ℝ) / m2 = ((m1 * 2 ^ k / m2 : Nat) : ℝ)) ↔ m1 * 2 ^ k % m2 = 0 := by
    rw [div_eq_iff hm2.ne', ← Nat.cast_mul, Nat.cast_inj, ← Nat.dvd_iff_mod_eq_zero, Nat.dvd_iff_div_mul_eq, eq_comm]
  rw [hquot]
  refine narrows_sticky hf (s1 != s2) Nat.cast_div_le ?_ (by simp only [hexact]) hlarge _
  rw [div_lt_iff₀ hm2]
  exact_mod_cast Nat.lt_mul_of_div_lt (Nat.lt_succ_self _) (Nat.pos_of_ne_zero hv)

/-! ### The square root -/

/-- The bits below the n-th are found one by one: the square of what is found is at most v, and that of the next number is above it. -/
theorem isqrtBits_spec {v n r : Nat} (hle : r * r ≤ v) (hlt : v < (r + 2 ^ n) * (r + 2 ^ n)) :
    isqrtBits v n r * isqrtBits v n r ≤ v ∧ v < (isqrtBits v n r + 1) * (isqrtBits v n r + 1) := by
  induction n generalizing r with
  | zero => exact ⟨hle, hlt⟩
  | succ n ih =>
    have hsum : r + 2 ^ n + 2 ^ n = r + 2 ^ (n + 1) := by rw [Nat.pow_succ']; ring
    rw [isqrtBits]
    split
    · next hfits => exact ih hfits (by rwa [hsum])
    · next hlarge => exact ih hle (not_le.mp hlarge)

theorem isqrt_eq_sqrt (v : Nat) : isqrt v = Nat.sqrt v := by
  refine Nat.eq_sqrt.mpr (isqrtBits_spec (Nat.zero_le v) ?_)
  rw [Nat.zero_add, ← Nat.pow_add]
  exact Nat.lt_log2_self.trans_le (Nat.pow_le_pow_right two_pos (by omega))

/-- The root of m 2^e for an even e, from the integer root of m shifted by 2k places. -/
theorem sqrt_mul_zpow {m : Nat} {e : Int} (he : e % 2 = 0) (k : Nat) :
    Real.sqrt (m * (2 : ℝ) ^ e) = Real.sqrt (m * 2 ^ (2 * k) : Nat) * (2 : ℝ) ^ (e / 2 - k) := by
  have hsquare : (m : ℝ) * (2 : ℝ) ^ e = ((m * 2 ^ (2 * k) : Nat) : ℝ) * ((2 : ℝ) ^ (e / 2 - k)) ^ 2 := by
    rw [← zpow_natCast, ← zpow_mul, Nat.cast_mul, Nat.cast_pow, ← zpow_natCast, mul_assoc, Nat.cast_ofNat, ← zpow_add₀ two_ne_zero]
    congr 2
    push_cast
    omega
  rw [hsquare, Real.sqrt_mul (Nat.cast_nonneg _), Real.sqrt_sq (by positivity)]

/-- The mantissa and exponent of an operand of the root, its exponent made even. -/
def evenMant (m : Nat) (e : Int) : Nat := if e % 2 = 0 then m else 2 * m
def evenExp (e : Int) : Int := if e % 2 = 0 then e else e - 1

theorem evenExp_mod (e : Int) : evenExp e % 2 = 0 := by
  rw [evenExp]
  split <;> omega

theorem evenMant_mul_zpow (m : Nat) (e : Int) : (evenMant m e : ℝ) * (2 : ℝ) ^ evenExp e = m * (2 : ℝ) ^ e := by
  rw [evenMant, evenExp]
  split
  · rfl
  · rw [zpow_sub_one₀ two_ne_zero]
    push_cast
    ring

theorem fsqrtV_fin (f : Fmt) {m : Nat} (e : Int) (hm : m ≠ 0) :
    fsqrtV f (.fin false m e) = roundFin f .rne false
      (2 * Nat.sqrt (evenMant m e * 2 ^ (2 * (f.fb + 4)))
        + if Nat.sqrt (evenMant m e * 2 ^ (2 * (f.fb + 4))) * Nat.sqrt (evenMant m e * 2 ^ (2 * (f.fb + 4))) = evenMant m e * 2 ^ (2 * (f.fb + 4)) then 0 else 1)
      (evenExp e / 2 - (f.fb + 4 : Nat) - 1) := by
  rw [← isqrt_eq_sqrt]
  exact if_neg hm

theorem narrows_fsqrtV {f : Fmt} (hf : 2 ≤ f.eb) {x : FVal} {v : ℝ} (hx : x.Is v) (hv : 0 < v) : Narrows f .rne (Real.sqrt v) (fsqrtV f x) := by
  obtain ⟨s, m, e, rfl, rfl⟩ := hx.exists_fin
  have hpow : (0 : ℝ) < (2 : ℝ) ^ e := by positivity
  have hmpos : (0 : ℝ) < signed s m := pos_of_mul_pos_left hv hpow.le
  obtain rfl : s = false := by
    cases s with
    | false => rfl
    | true => exact absurd hmpos (by simp)
  have hm : m ≠ 0 := by
    rintro rfl
    simp at hmpos
  rw [fsqrtV_fin f e hm, signed_false, Int.cast_natCast, ← evenMant_mul_zpow, sqrt_mul_zpow (evenExp_mod e) (f.fb + 4)]
  set w := evenMant m e * 2 ^ (2 * (f.fb + 4)) with hw
  have hlarge : 2 ^ (f.fb + 1) ≤ Nat.sqrt w := by
    rw [Nat.le_sqrt, ← Nat.pow_add]
    have hmant : 1 ≤ evenMant m e := by rw [evenMant]; split <;> omega
    exact (Nat.pow_le_pow_right two_pos (by omega)).trans (Nat.le_mul_of_pos_left _ hmant)
  have hexact : Real.sqrt w = (Nat.sqrt w : ℝ) ↔ Nat.sqrt w * Nat.sqrt w = w := by
    rw [Real.sqrt_eq_iff_mul_self_eq (Nat.cast_nonneg _) (Nat.cast_nonneg _)]
    exact_mod_cast eq_comm
  have := narrows_sticky hf false Real.nat_sqrt_le_real_sqrt Real.real_sqrt_lt_nat_sqrt_succ
    (b := if Nat.sqrt w * Nat.sqrt w = w then 0 else 1) (by simp only [hexact]) hlarge (evenExp e / 2 - (f.fb + 4 : Nat))
  rwa [signed_false, Nat.cast_one, Int.cast_one, one_mul] at this

end Sys2Proof.Machine
end

section
/-! THEOREMS. Every finite result is the exact one rounded once. -/

open Sys2Proof Sys2Proof.Machine

/-- Settles O11: the narrowing in closed form gives the multiple of the last place, its pattern and its flags; the quotient and the root are narrowed with a sticky bit. -/
theorem roundedOnce : Obligations.RoundedOnce := by
  intro f hf
  have heb := two_le_eb_of_mem hf
  refine ⟨fun mode s m e hm => ?_, fun x y u v => narrows_fdivV heb, fun x v => narrows_fsqrtV heb⟩
  rw [← mul_assoc, ← cast_signed]
  exact narrows_roundFin heb mode s hm e
end

section
/-! SUPPORT. Sums, products and fused multiply-adds (R81, R82), and minima and maxima (R83), of bit patterns. -/

namespace Sys2Proof.Machine

/-! ### The sign of a pattern and its decoded value (R76) -/

section
variable {f : Fmt} {a : Nat} {s : Bool}

theorem fsign_of_fdec_fin {m : Nat} {e : Int} (h : fdec f a = .fin s m e) : fsign f a = s := by
  simp only [fdec] at h
  split at h
  · split at h <;> cases h
  · split at h <;> cases h <;> rfl

theorem fsign_of_fdec_inf (h : fdec f a = .inf s) : fsign f a = s := by
  simp only [fdec] at h
  split at h
  · split at h
    · cases h
      rfl
    · cases h
  · split at h <;> cases h

/-- A pattern of a finite number, taken apart. -/
theorem fdec_is_exists_fin {v : ℝ} (h : (fdec f a).Is v) : ∃ m e, fdec f a = .fin (fsign f a) m e ∧ v = signed (fsign f a) m * (2 : ℝ) ^ e := by
  obtain ⟨s, m, e, hdec, hv⟩ := h.exists_fin
  rw [fsign_of_fdec_fin hdec]
  exact ⟨m, e, hdec, hv⟩

end

theorem FVal.exists_nan_of_isNan {x : FVal} (h : x.isNan = true) : ∃ b, x = .nan b := by
  cases x with
  | nan b => exact ⟨b, rfl⟩
  | inf s => cases h
  | fin s m e => cases h

/-! ### One narrowing -/

/-- A pattern with its flags is the narrowing of the number q, an integer times a power of two. -/
def NarrowedTo (f : Fmt) (mode : RMode) (q : ℝ) (r : Nat × Flags) : Prop :=
  ∃ n e : Int, q = n * (2 : ℝ) ^ e ∧ r = roundFin f mode (decide (n < 0)) n.natAbs e

theorem narrowedTo_roundFin (f : Fmt) (mode : RMode) (s : Bool) {m : Nat} (hm : m ≠ 0) (e : Int) :
    NarrowedTo f mode (signed s m * (2 : ℝ) ^ e) (roundFin f mode s m e) := by
  have hsign : decide (signed s m < 0) = s := by rw [Bool.decide_congr (signed_neg_iff hm), Bool.decide_eq_true]
  exact ⟨signed s m, e, rfl, by rw [hsign, natAbs_signed]⟩

theorem narrowedTo_roundInt (f : Fmt) (mode : RMode) {v : Int} (hv : v ≠ 0) (e : Int) (zs : Bool) :
    NarrowedTo f mode (v * (2 : ℝ) ^ e) (roundInt f mode v e zs) := ⟨v, e, rfl, if_neg hv⟩

/-- The exact sum of two finite values. -/
theorem sumExact_eq (s1 : Bool) (m1 : Nat) (e1 : Int) (s2 : Bool) (m2 : Nat) (e2 : Int) :
    ((sumExact s1 m1 e1 s2 m2 e2).1 : ℝ) * (2 : ℝ) ^ (sumExact s1 m1 e1 s2 m2 e2).2 = signed s1 m1 * (2 : ℝ) ^ e1 + signed s2 m2 * (2 : ℝ) ^ e2 := by
  rw [two_zpow_eq_pow_mul (min_le_left e1 e2), two_zpow_eq_pow_mul (min_le_right e1 e2)]
  simp only [sumExact]
  push_cast
  ring

/-- The exact product of two finite values. -/
theorem signed_mul_signed (s1 : Bool) (m1 : Nat) (e1 : Int) (s2 : Bool) (m2 : Nat) (e2 : Int) :
    (signed s1 m1 : ℝ) * (2 : ℝ) ^ e1 * (signed s2 m2 * (2 : ℝ) ^ e2) = signed (s1 != s2) (m1 * m2) * (2 : ℝ) ^ (e1 + e2) := by
  rw [signed_mul, zpow_add₀ two_ne_zero]
  push_cast
  ring

/-- A sum narrowed, or its exact zero. -/
theorem roundInt_sumExact_cases (f : Fmt) (mode : RMode) (s1 : Bool) (m1 : Nat) (e1 : Int) (s2 : Bool) (m2 : Nat) (e2 : Int) (zs : Bool) :
    let q : ℝ := signed s1 m1 * (2 : ℝ) ^ e1 + signed s2 m2 * (2 : ℝ) ^ e2
    let r := sumExact s1 m1 e1 s2 m2 e2
    (q ≠ 0 → NarrowedTo f mode q (roundInt f mode r.1 r.2 zs)) ∧ (q = 0 → roundInt f mode r.1 r.2 zs = (f.zero zs, 0)) := by
  have hpow : (2 : ℝ) ^ (sumExact s1 m1 e1 s2 m2 e2).2 ≠ 0 := by positivity
  dsimp only
  rw [← sumExact_eq, ne_eq, mul_eq_zero, or_iff_left hpow, Int.cast_eq_zero]
  exact ⟨fun h => narrowedTo_roundInt f mode h _ zs, fun h => if_pos h⟩

theorem zeroSign_eq (mode : RMode) (z1 z2 s1 s2 : Bool) :
    zeroSign mode z1 z2 s1 s2 = if decide (z1 = true ∧ z2 = true ∧ s1 = s2) then s1 else mode == .rdn := by
  simp only [zeroSign, Bool.and_eq_true, beq_iff_eq, and_assoc, decide_eq_true_eq]

/-! ### Sums, differences, products and multiply-adds of finite numbers -/

section
variable {f : Fmt} (mode : RMode) {a b c : Nat} {u v w : ℝ} (hx : (fdec f a).Is u) (hy : (fdec f b).Is v)

/-- What the sum gives: the exact sum narrowed, or the zero of R81. -/
theorem faddV_cases {x y : FVal} {s1 s2 : Bool} {m1 m2 : Nat} {e1 e2 : Int} (hx : x = .fin s1 m1 e1) (hy : y = .fin s2 m2 e2) :
    let q : ℝ := signed s1 m1 * (2 : ℝ) ^ e1 + signed s2 m2 * (2 : ℝ) ^ e2
    (q ≠ 0 → NarrowedTo f mode q (faddV f mode x y))
      ∧ (q = 0 → faddV f mode x y = (f.zero (if decide (x.isZero = true ∧ y.isZero = true ∧ s1 = s2) then s1 else mode == .rdn), 0)) := by
  subst hx hy
  rw [← zeroSign_eq]
  exact roundInt_sumExact_cases f mode s1 m1 e1 s2 m2 e2 (zeroSign mode (m1 == 0) (m2 == 0) s1 s2)

include hx hy

theorem fadd_finite :
    (u + v ≠ 0 → NarrowedTo f mode (u + v) (fadd f mode a b))
      ∧ (u + v = 0 → fadd f mode a b
        = (f.zero (if decide ((fdec f a).isZero = true ∧ (fdec f b).isZero = true ∧ fsign f a = fsign f b) then fsign f a else mode == .rdn), 0)) := by
  obtain ⟨m1, e1, h1, rfl⟩ := fdec_is_exists_fin hx
  obtain ⟨m2, e2, h2, rfl⟩ := fdec_is_exists_fin hy
  exact faddV_cases mode h1 h2

theorem fsub_finite :
    (u - v ≠ 0 → NarrowedTo f mode (u - v) (fsub f mode a b))
      ∧ (u - v = 0 → fsub f mode a b
        = (f.zero (if decide ((fdec f a).isZero = true ∧ (fdec f b).isZero = true ∧ fsign f a = !fsign f b) then fsign f a else mode == .rdn), 0)) := by
  obtain ⟨m1, e1, h1, rfl⟩ := fdec_is_exists_fin hx
  obtain ⟨m2, e2, h2, rfl⟩ := fdec_is_exists_fin hy
  have hneg : (fdec f b).neg = .fin (!fsign f b) m2 e2 := by rw [h2]; rfl
  have hzero : (fdec f b).isZero = (fdec f b).neg.isZero := by rw [h2]; rfl
  have hcases := faddV_cases (f := f) mode h1 hneg
  rw [signed_not, Int.cast_neg, neg_mul, ← sub_eq_add_neg, ← hzero] at hcases
  exact hcases

theorem fmul_finite :
    (u * v ≠ 0 → NarrowedTo f mode (u * v) (fmul f mode a b)) ∧ (u * v = 0 → fmul f mode a b = (f.zero (fsign f a != fsign f b), 0)) := by
  obtain ⟨m1, e1, h1, rfl⟩ := fdec_is_exists_fin hx
  obtain ⟨m2, e2, h2, rfl⟩ := fdec_is_exists_fin hy
  rw [signed_mul_signed, ne_eq, signed_mul_zpow_eq_zero, fmul, h1, h2]
  constructor
  · intro hm
    rw [fmulV, if_neg hm]
    exact narrowedTo_roundFin f mode _ hm _
  · exact fun hm => if_pos hm

theorem ffma_finite (hz : (fdec f c).Is w) :
    (u * v + w ≠ 0 → NarrowedTo f mode (u * v + w) (ffma f mode a b c))
      ∧ (u * v + w = 0 → ffma f mode a b c
        = (f.zero (if decide (((fdec f a).isZero || (fdec f b).isZero) = true ∧ (fdec f c).isZero = true ∧ (fsign f a != fsign f b) = fsign f c)
            then fsign f a != fsign f b else mode == .rdn), 0)) := by
  obtain ⟨m1, e1, h1, rfl⟩ := fdec_is_exists_fin hx
  obtain ⟨m2, e2, h2, rfl⟩ := fdec_is_exists_fin hy
  obtain ⟨m3, e3, h3, rfl⟩ := fdec_is_exists_fin hz
  have hzero : (m1 * m2 == 0) = ((fdec f a).isZero || (fdec f b).isZero) := by
    rw [h1, h2, FVal.isZero, FVal.isZero, Bool.eq_iff_iff]
    simp
  have hzero' : (m3 == 0) = (fdec f c).isZero := by rw [h3, FVal.isZero]
  have hvalue : ffma f mode a b c = roundInt f mode (sumExact (fsign f a != fsign f b) (m1 * m2) (e1 + e2) (fsign f c) m3 e3).1
      (sumExact (fsign f a != fsign f b) (m1 * m2) (e1 + e2) (fsign f c) m3 e3).2
      (zeroSign mode (m1 * m2 == 0) (m3 == 0) (fsign f a != fsign f b) (fsign f c)) := by
    rw [ffma, h1, h2, h3, ffmaV]
  rw [hvalue, ← zeroSign_eq, ← hzero, ← hzero', signed_mul_signed]
  exact roundInt_sumExact_cases f mode (fsign f a != fsign f b) (m1 * m2) (e1 + e2) (fsign f c) m3 e3 _

end

end Sys2Proof.Machine
end

section
/-! SUPPORT. What the operations give of infinities and NaNs (R82), and the order of numbers (R83). -/

namespace Sys2Proof.Machine

/-! ### Kinds of values -/

@[simp] theorem FVal.isNan_neg (x : FVal) : x.neg.isNan = x.isNan := by cases x <;> rfl
@[simp] theorem FVal.isSnan_neg (x : FVal) : x.neg.isSnan = x.isSnan := by cases x <;> rfl

theorem FVal.Is.isNan {x : FVal} {v : ℝ} (h : x.Is v) : x.isNan = false := by
  obtain ⟨s, m, e, rfl, -⟩ := h
  rfl

theorem FVal.Is.isZero_iff {x : FVal} {v : ℝ} (h : x.Is v) : x.isZero = true ↔ v = 0 := by
  obtain ⟨s, m, e, rfl, rfl⟩ := h.exists_fin
  rw [signed_mul_zpow_eq_zero, FVal.isZero, beq_iff_eq]

/-- What a NaN among two operands gives (R82). -/
theorem nanResult_pair (f : Fmt) (x y : FVal) : nanResult f [x, y] = (f.nan, if x.isSnan || y.isSnan then fNV else 0) := by
  simp [nanResult, flagIf]

/-! ### Infinities -/

section
variable {f : Fmt} {mode : RMode} {a b c : Nat} {s1 s2 s3 : Bool} {u v w : ℝ}

theorem fadd_inf_inf (hx : fdec f a = .inf s1) (hy : fdec f b = .inf s2) :
    fadd f mode a b = if s1 = s2 then (f.inf s1, 0) else (f.nan, fNV) := by rw [fadd, hx, hy, faddV]

theorem fsub_inf_inf (hx : fdec f a = .inf s1) (hy : fdec f b = .inf s2) :
    fsub f mode a b = if s1 = s2 then (f.nan, fNV) else (f.inf s1, 0) := by
  rw [fsub, hx, hy]
  cases s1 <;> cases s2 <;> rfl

theorem fmul_inf_inf (hx : fdec f a = .inf s1) (hy : fdec f b = .inf s2) : fmul f mode a b = (f.inf (s1 != s2), 0) := by rw [fmul, hx, hy, fmulV]

/-- An infinity and a finite number. -/
theorem addSub_inf_finite (hx : fdec f a = .inf s1) (hy : (fdec f b).Is v) :
    fadd f mode a b = (f.inf s1, 0) ∧ fadd f mode b a = (f.inf s1, 0) ∧ fsub f mode a b = (f.inf s1, 0) ∧ fsub f mode b a = (f.inf (!s1), 0) := by
  obtain ⟨m, e, hdec, -⟩ := fdec_is_exists_fin hy
  simp only [fadd, fsub, hx, hdec]
  exact ⟨rfl, rfl, rfl, rfl⟩

theorem fmul_inf_finite (hx : fdec f a = .inf s1) (hy : (fdec f b).Is v) :
    fmul f mode a b = (if v = 0 then (f.nan, fNV) else (f.inf (s1 != fsign f b), 0))
      ∧ fmul f mode b a = (if v = 0 then (f.nan, fNV) else (f.inf (fsign f b != s1), 0)) := by
  obtain ⟨m, e, hdec, hv⟩ := fdec_is_exists_fin hy
  simp only [fmul, hx, hdec, fmulV, hv, signed_mul_zpow_eq_zero, and_self]

/-- What a multiply-add gives whose product is an infinity of a sign, by its addend. -/
def infPlus (f : Fmt) (s : Bool) : FVal → Nat × Flags
  | .nan b => (f.nan, flagIf b fNV)
  | .inf s3 => if s3 = s then (f.inf s, 0) else (f.nan, fNV)
  | .fin _ _ _ => (f.inf s, 0)

theorem ffmaV_inf_inf (z : FVal) : ffmaV f mode (.inf s1) (.inf s2) z = infPlus f (s1 != s2) z := by cases z <;> rfl

theorem ffmaV_inf_fin (m : Nat) (e : Int) (z : FVal) :
    ffmaV f mode (.inf s1) (.fin s2 m e) z = if m = 0 then (f.nan, fNV) else infPlus f (s1 != s2) z := by
  cases z <;> simp [ffmaV, FVal.isZero, infPlus]

theorem ffmaV_fin_inf (m : Nat) (e : Int) (z : FVal) :
    ffmaV f mode (.fin s1 m e) (.inf s2) z = if m = 0 then (f.nan, fNV) else infPlus f (s1 != s2) z := by
  cases z <;> simp [ffmaV, FVal.isZero, infPlus]

theorem ffma_inf_finite (hx : fdec f a = .inf s1) (hy : (fdec f b).Is v) :
    ffma f mode a b c = if v = 0 then (f.nan, fNV) else infPlus f (s1 != fsign f b) (fdec f c) := by
  obtain ⟨m, e, hdec, hv⟩ := fdec_is_exists_fin hy
  simp only [ffma, hx, hdec, ffmaV_inf_fin, hv, signed_mul_zpow_eq_zero]

theorem ffma_finite_inf (hx : (fdec f a).Is u) (hy : fdec f b = .inf s2) :
    ffma f mode a b c = if u = 0 then (f.nan, fNV) else infPlus f (fsign f a != s2) (fdec f c) := by
  obtain ⟨m, e, hdec, hu⟩ := fdec_is_exists_fin hx
  simp only [ffma, hy, hdec, ffmaV_fin_inf, hu, signed_mul_zpow_eq_zero]

theorem ffma_inf_zero (h : (fdec f a = .inf s1 ∧ (fdec f b).Is 0) ∨ (fdec f b = .inf s1 ∧ (fdec f a).Is 0)) :
    ffma f mode a b c = (f.nan, fNV) := by
  rcases h with ⟨hx, hy⟩ | ⟨hy, hx⟩
  · rw [ffma_inf_finite hx hy, if_pos rfl]
  · rw [ffma_finite_inf hx hy, if_pos rfl]

/-- A product that is an infinity: of two, or of one and a nonzero number. -/
theorem ffma_inf_product (h : (fdec f a = .inf s1 ∧ (fdec f b = .inf s2 ∨ ((fdec f b).Is v ∧ v ≠ 0 ∧ fsign f b = s2)))
    ∨ (fdec f b = .inf s2 ∧ (fdec f a).Is v ∧ v ≠ 0 ∧ fsign f a = s1)) : ffma f mode a b c = infPlus f (s1 != s2) (fdec f c) := by
  rcases h with ⟨hx, hy | ⟨hy, hv, rfl⟩⟩ | ⟨hy, hx, hv, rfl⟩
  · rw [ffma, hx, hy, ffmaV_inf_inf]
  · rw [ffma_inf_finite hx hy, if_neg hv]
  · rw [ffma_finite_inf hx hy, if_neg hv]

theorem infPlus_inf (f : Fmt) (s s3 : Bool) : infPlus f s (.inf s3) = if s3 = s then (f.inf s3, 0) else (f.nan, fNV) := by
  rw [infPlus]
  split
  · next h => rw [h]
  · rfl

theorem infPlus_finite {z : FVal} (s : Bool) (hz : z.Is w) : infPlus f s z = (f.inf s, 0) := by
  obtain ⟨s3, m, e, rfl, -⟩ := hz
  rfl

theorem infPlus_nan {z : FVal} (s : Bool) (hz : z.isNan = true) : infPlus f s z = (f.nan, if z.isSnan then fNV else 0) := by
  obtain ⟨b, rfl⟩ := z.exists_nan_of_isNan hz
  rfl

/-- A finite product and an addend that is no number: the addend's infinity, or the NaN. -/
theorem ffma_finite_addend_inf (hx : (fdec f a).Is u) (hy : (fdec f b).Is v) (hz : fdec f c = .inf s3) : ffma f mode a b c = (f.inf s3, 0) := by
  obtain ⟨m1, e1, h1, -⟩ := fdec_is_exists_fin hx
  obtain ⟨m2, e2, h2, -⟩ := fdec_is_exists_fin hy
  rw [ffma, h1, h2, hz, ffmaV]

theorem ffma_finite_addend_nan (hx : (fdec f a).Is u) (hy : (fdec f b).Is v) (hz : (fdec f c).isNan = true) :
    ffma f mode a b c = (f.nan, if (fdec f c).isSnan then fNV else 0) := by
  obtain ⟨m1, e1, h1, -⟩ := fdec_is_exists_fin hx
  obtain ⟨m2, e2, h2, -⟩ := fdec_is_exists_fin hy
  obtain ⟨b, h3⟩ := FVal.exists_nan_of_isNan hz
  rw [ffma, h1, h2, h3, ffmaV]
  rfl

/-! ### NaNs -/

theorem faddV_nan {x y : FVal} (h : x.isNan = true ∨ y.isNan = true) : faddV f mode x y = nanResult f [x, y] := by
  rcases h with h | h
  · obtain ⟨b, rfl⟩ := x.exists_nan_of_isNan h
    cases y <;> rfl
  · obtain ⟨b, rfl⟩ := y.exists_nan_of_isNan h
    cases x <;> rfl

theorem fmulV_nan {x y : FVal} (h : x.isNan = true ∨ y.isNan = true) : fmulV f mode x y = nanResult f [x, y] := by
  rcases h with h | h
  · obtain ⟨b, rfl⟩ := x.exists_nan_of_isNan h
    cases y <;> rfl
  · obtain ⟨b, rfl⟩ := y.exists_nan_of_isNan h
    cases x <;> rfl

theorem ffmaV_nan {x y : FVal} (z : FVal) (h : x.isNan = true ∨ y.isNan = true) : ffmaV f mode x y z = nanResult f [x, y, z] := by
  rcases h with h | h
  · obtain ⟨b, rfl⟩ := x.exists_nan_of_isNan h
    rfl
  · obtain ⟨b, rfl⟩ := y.exists_nan_of_isNan h
    cases x <;> rfl

/-- A NaN among the factors or terms. -/
theorem arith_nan (h : (fdec f a).isNan = true ∨ (fdec f b).isNan = true) :
    let nan : Bool → Nat × Flags := fun invalid => (f.nan, if invalid then fNV else 0)
    fadd f mode a b = nan ((fdec f a).isSnan || (fdec f b).isSnan) ∧ fsub f mode a b = nan ((fdec f a).isSnan || (fdec f b).isSnan)
      ∧ fmul f mode a b = nan ((fdec f a).isSnan || (fdec f b).isSnan)
      ∧ ffma f mode a b c = nan ((fdec f a).isSnan || (fdec f b).isSnan || (fdec f c).isSnan) := by
  refine ⟨?_, ?_, ?_, ?_⟩
  · rw [fadd, faddV_nan h, nanResult_pair]
  · rw [fsub, faddV_nan (by rwa [FVal.isNan_neg]), nanResult_pair, FVal.isSnan_neg]
  · rw [fmul, fmulV_nan h, nanResult_pair]
  · rw [ffma, ffmaV_nan _ h]
    simp [nanResult, flagIf, or_assoc]

/-- A NaN that is added to a product that is none (R82). -/
theorem ffma_addend_nan (hz : (fdec f c).isNan = true)
    (hzero : ¬(((fdec f a).isZero = true ∧ fdec f b = .inf s2) ∨ (fdec f a = .inf s1 ∧ (fdec f b).isZero = true)))
    (hx : (fdec f a).Is u ∨ fdec f a = .inf s1) (hy : (fdec f b).Is v ∨ fdec f b = .inf s2) :
    ffma f mode a b c = (f.nan, if (fdec f c).isSnan then fNV else 0) := by
  rw [not_or] at hzero
  rcases hx with hx | hx <;> rcases hy with hy | hy
  · exact ffma_finite_addend_nan hx hy hz
  · have hu : u ≠ 0 := fun h => hzero.1 ⟨hx.isZero_iff.mpr h, hy⟩
    rw [ffma_finite_inf hx hy, if_neg hu, infPlus_nan _ hz]
  · have hv : v ≠ 0 := fun h => hzero.2 ⟨hx, hy.isZero_iff.mpr h⟩
    rw [ffma_inf_finite hx hy, if_neg hv, infPlus_nan _ hz]
  · rw [ffma, hx, hy, ffmaV_inf_inf, infPlus_nan _ hz]

/-! ### Minima and maxima (R83) -/

/-- The order of finite values is that of the numbers. -/
theorem fltV_eq_true_iff {x y : FVal} (hx : x.Is u) (hy : y.Is v) : fltV x y = true ↔ u < v := by
  obtain ⟨s1, m1, e1, rfl, rfl⟩ := hx.exists_fin
  obtain ⟨s2, m2, e2, rfl, rfl⟩ := hy.exists_fin
  have hpos : (0 : ℝ) < (2 : ℝ) ^ (sumExact s1 m1 e1 (!s2) m2 e2).2 := by positivity
  have hsum := sumExact_eq s1 m1 e1 (!s2) m2 e2
  rw [signed_not, Int.cast_neg, neg_mul, ← sub_eq_add_neg] at hsum
  rw [fltV, decide_eq_true_eq, ← sub_neg (a := (signed s1 m1 : ℝ) * _), ← hsum, ← Int.cast_lt_zero (R := ℝ), mul_neg_iff,
    or_iff_right (fun h => h.2.not_gt hpos), and_iff_left hpos]

/-- Of two numbers, -0 below +0, one of them is delivered as it stands. -/
theorem fminmax_numbers {great number : Bool} (hx : (fdec f a).isNan = false) (hy : (fdec f b).isNan = false) :
    fminmax f great number a b
      = (if (fltV (fdec f a) (fdec f b) || (feqV (fdec f a) (fdec f b) && fsign f a && !fsign f b)) != great then a else b, 0) := by
  simp only [fminmax, hx, hy, Bool.false_and, Bool.false_eq_true, if_false]

theorem fminmax_of_lt (great number : Bool) (hx : (fdec f a).Is u) (hy : (fdec f b).Is v) (h : u < v) :
    fminmax f great number a b = (if great then b else a, 0) ∧ fminmax f great number b a = (if great then b else a, 0) := by
  have hlt : fltV (fdec f a) (fdec f b) = true := (fltV_eq_true_iff hx hy).mpr h
  have hgt : fltV (fdec f b) (fdec f a) = false := Bool.eq_false_iff.mpr fun hc => lt_asymm h ((fltV_eq_true_iff hy hx).mp hc)
  rw [fminmax_numbers hx.isNan hy.isNan, fminmax_numbers hy.isNan hx.isNan, feqV, feqV, hlt, hgt]
  cases great <;> simp

/-- Of two equal numbers the one with the sign is the lesser. -/
theorem fminmax_of_eq (great number : Bool) (hx : (fdec f a).Is u) (hy : (fdec f b).Is v) (h : u = v) (hsx : fsign f a = true) (hsy : fsign f b = false) :
    fminmax f great number a b = (if great then b else a, 0) := by
  have hlt : fltV (fdec f a) (fdec f b) = false := Bool.eq_false_iff.mpr fun hc => h.not_lt ((fltV_eq_true_iff hx hy).mp hc)
  have hgt : fltV (fdec f b) (fdec f a) = false := Bool.eq_false_iff.mpr fun hc => h.not_gt ((fltV_eq_true_iff hy hx).mp hc)
  rw [fminmax_numbers hx.isNan hy.isNan, feqV, hlt, hgt, hx.isNan, hy.isNan, hsx, hsy]
  cases great <;> rfl

theorem fminmax_nans (great number : Bool) (hx : (fdec f a).isNan = true) (hy : (fdec f b).isNan = true) :
    fminmax f great number a b = (f.nan, if (fdec f a).isSnan || (fdec f b).isSnan then fNV else 0) := by
  simp only [fminmax, hx, hy, Bool.and_self, if_true, flagIf]

/-- Beside a NaN, the number, or the NaN. -/
theorem fminmax_nan (great number : Bool) (hx : (fdec f a).isNan = true) (hy : (fdec f b).isNan = false) :
    fminmax f great number a b = (if number then b else f.nan, if (fdec f a).isSnan || (fdec f b).isSnan then fNV else 0)
      ∧ fminmax f great number b a = (if number then b else f.nan, if (fdec f a).isSnan || (fdec f b).isSnan then fNV else 0) := by
  simp only [fminmax, hx, hy, Bool.and_false, Bool.and_true, Bool.false_eq_true, if_false, if_true, flagIf, Bool.or_comm (fdec f b).isSnan, and_self]

end
end Sys2Proof.Machine
end

section
/-! SUPPORT. The words of the floating-point unit (R133, R134), each a result group and its flags, and those of its state and of the random stream (R145, R146). -/

namespace Sys2Proof.Machine

section
variable {i : Instr} {d a b e : BitVec 6} {n nd na : Nat}

/-- A word of two operands in the thread's rounding mode. -/
theorem computes_fpBin {f : RMode → Nat → Nat → Nat × Flags} (he : exec i = fpBin i n d.toNat a.toNat b.toNat f) :
    Computes i fun l t => t.fpResult d.toNat n (f l.src.rmode (l.src.group a.toNat n) (l.src.group b.toNat n)) :=
  computes_of_runPure he fun _ _ => rfl

/-- A word of three operands in the thread's rounding mode. -/
theorem computes_fpTern {f : RMode → Nat → Nat → Nat → Nat × Flags} (he : exec i = fpTern i n d.toNat a.toNat b.toNat e.toNat f) :
    Computes i fun l t => t.fpResult d.toNat n (f l.src.rmode (l.src.group a.toNat n) (l.src.group b.toNat n) (l.src.group e.toNat n)) :=
  computes_of_runPure he fun _ _ => rfl

/-- A word of one operand, and what its thread's state adds to it. -/
theorem computes_fpOne {g : Thread → Nat → Nat × Flags}
    (he : exec i = runPure i fun l t => t.fpResult d.toNat nd (g l.src (l.src.group a.toNat na))) :
    Computes i fun l t => t.fpResult d.toNat nd (g l.src (l.src.group a.toNat na)) :=
  computes_of_runPure he fun _ _ => rfl

end

/-! ### The rounding mode and the random stream -/

theorem computes_setrm (m : BitVec 3) : Computes (.setrm m) fun _ t => { t with rmode := modeOf t m.toNat } := computes_of_runPure rfl fun _ _ => rfl

/-- One draw, its value made a number by `value` (R99, R146). -/
def uniformDraw (d : BitVec 6) (value : Word → Nat) (l : Lane) (t : Thread) : Thread :=
  let u := t.setReg d.toNat (BitVec.ofNat 32 (value (mix32 l.src.key l.src.ctr)))
  { u with ctr := u.ctr + 1 }

theorem computes_randu (c : BitVec 1) (d : BitVec 6) : Computes (.randu c d) (uniformDraw d uniformOf) := computes_of_runPure rfl fun _ _ => rfl

theorem uniformOf_eq : uniformOf = fun k => (roundFin f32 .rne false (k.toNat / 256 + 1) (-24)).1 := rfl

end Sys2Proof.Machine
end

section
/-! THEOREMS. Sums, products, minima and maxima, and fused multiply-adds. -/

open Sys2Proof Sys2Proof.Machine

/-- Settles O8: each word is its function in the thread's rounding mode; the functions by the kinds of their operands. -/
theorem floatArithmeticWords : Obligations.FloatArithmeticWords := by
  refine ⟨fun c d a b => ?binary, fun c d a b e => ?ternary, fun f _ mode a b c s1 s2 s3 u v w => ?values⟩
  case binary =>
    intro two
    have word : ∀ {i n f}, exec i = fpBin i n d.toNat a.toNat b.toNat f → Computes i (two n f) := computes_fpBin
    clear_value two
    exact ⟨word rfl, word rfl, word rfl, word rfl, word rfl, word rfl, word rfl, word rfl, word rfl, word rfl, word rfl, word rfl, word rfl, word rfl, word rfl,
      word rfl, word rfl, word rfl, word rfl, word rfl, word rfl, word rfl, word rfl, word rfl, word rfl, word rfl, word rfl, word rfl⟩
  case ternary =>
    intro three
    have word : ∀ {i n f}, exec i = fpTern i n d.toNat a.toNat b.toNat e.toNat f → Computes i (three n f) := computes_fpTern
    clear_value three
    exact ⟨word rfl, word rfl, word rfl, word rfl⟩
  case values =>
    intro x y z sx sy narrow zero nan odd
    refine ⟨fun hx hy => ?finite, fun hx hy => ?infinities, fun hx hy => ?infinity, fun h => ffma_inf_zero h, fun h => ?product,
      fun hx hy hz => ffma_finite_addend_inf hx hy hz, fun h => arith_nan h, fun hz _ _ hzero hx hy => ffma_addend_nan hz hzero hx hy, fun great => ?minmax⟩
    case finite =>
      obtain ⟨hadd, hadd0⟩ := fadd_finite mode hx hy
      obtain ⟨hsub, hsub0⟩ := fsub_finite mode hx hy
      obtain ⟨hmul, hmul0⟩ := fmul_finite mode hx hy
      refine ⟨hadd, hadd0, hsub, hsub0, hmul, hmul0, fun hz => ffma_finite mode hx hy hz, fun number => ⟨fun hlt => ?_, fun heq hsx hsy => ?_⟩⟩
      · obtain ⟨hmin, hmin'⟩ := fminmax_of_lt false number hx hy hlt
        obtain ⟨hmax, hmax'⟩ := fminmax_of_lt true number hx hy hlt
        exact ⟨hmin, hmax, hmin', hmax'⟩
      · exact ⟨fminmax_of_eq false number hx hy heq hsx hsy, fminmax_of_eq true number hx hy heq hsx hsy⟩
    case infinities => exact ⟨fadd_inf_inf hx hy, fsub_inf_inf hx hy, fmul_inf_inf hx hy⟩
    case infinity =>
      obtain ⟨hadd, hadd', hsub, hsub'⟩ := addSub_inf_finite (mode := mode) hx hy
      obtain ⟨hmul, hmul'⟩ := fmul_inf_finite (mode := mode) hx hy
      exact ⟨hadd, hadd', hsub, hsub', hmul, hmul'⟩
    case product =>
      have hproduct := ffma_inf_product (mode := mode) (c := c) h
      exact ⟨fun hz => (hproduct.trans (congrArg _ hz)).trans (infPlus_inf f _ s3), fun hz => hproduct.trans (infPlus_finite _ hz)⟩
    case minmax =>
      refine ⟨fun hx hy number => fminmax_nans great number hx hy, fun hx hy => ?_⟩
      obtain ⟨hnum, hnum'⟩ := fminmax_nan great true hx hy
      obtain ⟨hnan, hnan'⟩ := fminmax_nan great false hx hy
      exact ⟨hnum, hnum', hnan, hnan'⟩
end

section
/-! SUPPORT. Roundings to integral values, conversions (R86, R135, R139), and the quotients, reciprocals and roots that R82 and R143 list. -/

namespace Sys2Proof.Machine

/-! ### Rounding to an integral value -/

/-- The rounding to an integral value is the one whose last place is the units'. -/
theorem roundToInt_eq (mode : RMode) (s : Bool) (m : Nat) (e : Int) : roundToInt mode s m e = (mantAt mode s m e 0, !lostAt m e 0) := by
  rw [roundToInt, mantAt, lostAt, sub_zero, zero_sub]
  by_cases h : e ≥ 0
  · rw [if_pos h, if_pos h]
    simp [h]
  · rw [if_neg h, if_neg h]
    simp [h, bne]

theorem roundsTo_roundToInt (mode : RMode) (s : Bool) (m : Nat) (e : Int) :
    RoundsTo mode (signed s m * (2 : ℝ) ^ e) (signed s (roundToInt mode s m e).1) := by
  have := roundsTo_mantAt mode s m e 0
  rwa [zpow_zero, div_one, ← show (roundToInt mode s m e).1 = mantAt mode s m e 0 by rw [roundToInt_eq]] at this

/-- The rounding says whether it is exact. -/
theorem roundToInt_exact_iff (mode : RMode) (s : Bool) (m : Nat) (e : Int) :
    (roundToInt mode s m e).2 = true ↔ (signed s (roundToInt mode s m e).1 : ℝ) = signed s m * (2 : ℝ) ^ e := by
  have := mantAt_ne_iff mode s m e 0
  rw [zpow_zero, mul_one] at this
  rw [roundToInt_eq, Bool.not_eq_true', ← Bool.not_eq_true, ← this, not_not]

section
variable {f g : Fmt} {mode : RMode} {a n : Nat} {s sat sgn : Bool} {m : Nat} {e : Int}

theorem frndV_fin (h : fdec f a = .fin s m e) :
    let i := signed s (roundToInt mode s m e).1
    ((i : ℝ) = signed s m * (2 : ℝ) ^ e → frndV f mode a = (a, 0))
      ∧ ((i : ℝ) ≠ signed s m * (2 : ℝ) ^ e → frndV f mode a = (if i = 0 then f.zero s else (roundFin f .rtz s i.natAbs 0).1, fNX)) := by
  dsimp only
  rw [← roundToInt_exact_iff, ne_eq, ← roundToInt_exact_iff, natAbs_signed, frndV, h]
  simp only [signed_eq_zero]
  refine ⟨fun hexact => if_pos hexact, fun hinexact => (if_neg hinexact).trans ?_⟩
  split <;> rfl

/-! ### Conversions -/

/-- The least and the greatest integer of a destination (R86). -/
def intLow (n : Nat) (sgn : Bool) : Int := if sgn then -(2 ^ (n - 1) : Nat) else 0
def intHigh (n : Nat) (sgn : Bool) : Int := if sgn then (2 ^ (n - 1) : Nat) - 1 else (2 ^ n : Nat) - 1

theorem intLow_le_intHigh_add_one (n : Nat) (sgn : Bool) : intLow n sgn ≤ intHigh n sgn + 1 := by
  rw [intLow, intHigh]
  cases sgn with
  | false => simp
  | true =>
    have := Nat.two_pow_pos (n - 1)
    simp only [if_true]
    omega

theorem cvtFI_fin (h : fdec f a = .fin s m e) :
    let i := signed s (roundToInt mode s m e).1
    let out := if sat then fNX else fNV
    (intHigh n sgn < i → cvtFI f n sgn mode sat a = (ofInt n (intHigh n sgn), out))
      ∧ (i < intLow n sgn → cvtFI f n sgn mode sat a = (ofInt n (intLow n sgn), out))
      ∧ (intLow n sgn ≤ i → i ≤ intHigh n sgn →
        cvtFI f n sgn mode sat a = (ofInt n i, if (i : ℝ) = signed s m * (2 : ℝ) ^ e then 0 else fNX)) := by
  intro i out
  have hbounds := intLow_le_intHigh_add_one n sgn
  have hvalue : cvtFI f n sgn mode sat a = if i > intHigh n sgn then (ofInt n (intHigh n sgn), out)
      else if i < intLow n sgn then (ofInt n (intLow n sgn), out) else (ofInt n i, flagIf (!(roundToInt mode s m e).2) fNX) := by
    rw [cvtFI, h]
    rfl
  have hflag : flagIf (!(roundToInt mode s m e).2) fNX = if (i : ℝ) = signed s m * (2 : ℝ) ^ e then 0 else fNX := by
    rw [← if_congr (roundToInt_exact_iff mode s m e) rfl rfl]
    cases (roundToInt mode s m e).2 <;> rfl
  rw [hvalue, hflag]
  exact ⟨fun hover => if_pos hover, fun hunder => by rw [if_neg (by omega), if_pos hunder],
    fun hge hle => by rw [if_neg (by omega), if_neg (by omega)]⟩

theorem cvtFF_fin (h : fdec f a = .fin s m e) (hm : m ≠ 0) :
    cvtFF f g mode sat a = if sat = true ∧ (roundFin g mode s m e).2 &&& fOF ≠ 0 then (g.maxFin s, (roundFin g mode s m e).2) else roundFin g mode s m e := by
  simp only [cvtFF, h, if_neg hm, Bool.and_eq_true, bne_iff_ne]

theorem cvtFF_zero (h : fdec f a = .fin s 0 e) : cvtFF f g mode sat a = (g.zero s, 0) := by simp only [cvtFF, h, if_true]

/-- What an infinity is rounded or converted to. -/
theorem cvt_inf (h : fdec f a = .inf s) :
    frndV f mode a = (f.inf s, 0) ∧ cvtFF f g mode sat a = (g.inf s, 0)
      ∧ cvtFI f n sgn mode sat a = (ofInt n (if s then intLow n sgn else intHigh n sgn), if sat then fNX else fNV) := by
  rw [frndV, cvtFF, cvtFI, h]
  exact ⟨rfl, rfl, rfl⟩

/-- What a NaN is rounded or converted to. -/
theorem cvt_nan (h : fdec f a = .nan s) :
    frndV f mode a = (f.nan, if s then fNV else 0) ∧ cvtFF f g mode sat a = (g.nan, if s then fNV else 0) ∧ cvtFI f n sgn mode sat a = (0, fNV) := by
  rw [frndV, cvtFF, cvtFI, h]
  exact ⟨rfl, rfl, rfl⟩

/-- The integer that the low bits of a value stand for. -/
theorem cvtIF_eq (f : Fmt) (n : Nat) (sgn : Bool) (mode : RMode) (a : Nat) :
    let i : Int := if sgn = true ∧ 2 ^ (n - 1) ≤ a % 2 ^ n then (a % 2 ^ n : Nat) - (2 ^ n : Nat) else (a % 2 ^ n : Nat)
    cvtIF f n sgn mode a = if i = 0 then (f.zero false, 0) else roundFin f mode (decide (i < 0)) i.natAbs 0 := by
  intro i
  have hi : (if sgn then sval n a else (a % 2 ^ n : Nat)) = i := by
    cases sgn with
    | false => simp [i]
    | true =>
      simp only [i, if_true, true_and, sval]
      by_cases hlow : a % 2 ^ n < 2 ^ (n - 1)
      · rw [if_pos hlow, if_neg (not_le.mpr hlow)]
      · rw [if_neg hlow, if_pos (not_lt.mp hlow)]
  rw [cvtIF, hi, roundInt]

end

/-! ### Quotients, reciprocals and roots -/

section
variable {f : Fmt} {a : Nat} {u : ℝ}

theorem fdec_is_zero (h : (fdec f a).Is 0) : ∃ e, fdec f a = .fin (fsign f a) 0 e := by
  obtain ⟨m, e, hdec, hv⟩ := fdec_is_exists_fin h
  rw [signed_mul_zpow_eq_zero.mp hv.symm] at hdec
  exact ⟨e, hdec⟩

theorem fdec_is_nonzero (h : (fdec f a).Is u) (hu : u ≠ 0) : ∃ m e, m ≠ 0 ∧ fdec f a = .fin (fsign f a) m e := by
  obtain ⟨m, e, hdec, rfl⟩ := fdec_is_exists_fin h
  exact ⟨m, e, fun hm => hu (signed_mul_zpow_eq_zero.mpr hm), hdec⟩

theorem fdec_is_negative (h : (fdec f a).Is u) (hu : u < 0) : ∃ m e, m ≠ 0 ∧ fdec f a = .fin true m e := by
  obtain ⟨m, e, hdec, rfl⟩ := fdec_is_exists_fin h
  have hm : m ≠ 0 := fun hm => hu.ne (signed_mul_zpow_eq_zero.mpr hm)
  rw [mul_neg_iff, or_iff_right (fun hc => hc.2.not_gt (by positivity)), and_iff_left (by positivity), Int.cast_lt_zero, signed_neg_iff hm] at hu
  exact ⟨m, e, hm, hu ▸ hdec⟩

section
variable (f) (s1 s2 : Bool) (e1 e2 : Int)

theorem fdivV_zero_zero : fdivV f (.fin s1 0 e1) (.fin s2 0 e2) = (f.nan, fNV) := rfl

theorem fdivV_fin_zero {m : Nat} (hm : m ≠ 0) : fdivV f (.fin s1 m e1) (.fin s2 0 e2) = (f.inf (s1 != s2), fDZ) := by simp [fdivV, hm]

theorem fdivV_zero_fin {m : Nat} (hm : m ≠ 0) : fdivV f (.fin s1 0 e1) (.fin s2 m e2) = (f.zero (s1 != s2), 0) := by simp [fdivV, hm]

end

theorem fdivV_nan {x y : FVal} (h : x.isNan = true ∨ y.isNan = true) : fdivV f x y = (f.nan, if x.isSnan || y.isSnan then fNV else 0) := by
  rw [← nanResult_pair]
  rcases h with h | h
  · obtain ⟨b, rfl⟩ := x.exists_nan_of_isNan h
    cases y <;> rfl
  · obtain ⟨b, rfl⟩ := y.exists_nan_of_isNan h
    cases x <;> rfl

/-- What DIV gives of the operands of R82. -/
theorem fdivV_specials (f : Fmt) (a b : Nat) (s1 s2 : Bool) (u v : ℝ) :
    let x := fdec f a
    let y := fdec f b
    let sx := fsign f a
    let sy := fsign f b
    let nan : Bool → Nat × Flags := fun invalid => (f.nan, if invalid then fNV else 0)
    (x.Is 0 → y.Is 0 → fdivV f x y = nan true) ∧ (x = .inf s1 → y = .inf s2 → fdivV f x y = nan true)
      ∧ (x.Is u → u ≠ 0 → y.Is 0 → fdivV f x y = (f.inf (sx != sy), fDZ)) ∧ (x.Is u → y = .inf s2 → fdivV f x y = (f.zero (sx != sy), 0))
      ∧ (x.Is 0 → y.Is v → v ≠ 0 → fdivV f x y = (f.zero (sx != sy), 0)) ∧ (x = .inf s1 → y.Is v → fdivV f x y = (f.inf (sx != sy), 0))
      ∧ (x.isNan = true ∨ y.isNan = true → fdivV f x y = nan (x.isSnan || y.isSnan)) := by
  intro x y sx sy nan
  refine ⟨fun hx hy => ?_, fun hx hy => ?_, fun hx hu hy => ?_, fun hx hy => ?_, fun hx hy hv => ?_, fun hx hy => ?_, fdivV_nan⟩
  · obtain ⟨e1, h1⟩ := fdec_is_zero hx
    obtain ⟨e2, h2⟩ := fdec_is_zero hy
    simp only [x, y, h1, h2]
    exact fdivV_zero_zero f _ _ e1 e2
  · rw [hx, hy]
    rfl
  · obtain ⟨m, e1, hm, h1⟩ := fdec_is_nonzero hx hu
    obtain ⟨e2, h2⟩ := fdec_is_zero hy
    simp only [x, y, h1, h2]
    exact fdivV_fin_zero f _ _ e1 e2 hm
  · obtain ⟨m, e, h1, -⟩ := fdec_is_exists_fin hx
    simp only [x, hy, h1, sx, sy, fsign_of_fdec_inf hy]
    rfl
  · obtain ⟨e1, h1⟩ := fdec_is_zero hx
    obtain ⟨m, e2, hm, h2⟩ := fdec_is_nonzero hy hv
    simp only [x, y, h1, h2]
    exact fdivV_zero_fin f _ _ e1 e2 hm
  · obtain ⟨m, e, h2, -⟩ := fdec_is_exists_fin hy
    simp only [y, hx, h2, sx, sy, fsign_of_fdec_inf hx]
    rfl

theorem rcpV_zero (h : (fdec f a).Is 0) : rcpV f a = (f.inf (fsign f a), fDZ) := by
  obtain ⟨e, hdec⟩ := fdec_is_zero h
  rw [rcpV, hdec, fdivV_fin_zero f false _ 0 e one_ne_zero, Bool.false_bne]

theorem rcpV_inf {s : Bool} (h : fdec f a = .inf s) : rcpV f a = (f.zero s, 0) := by
  rw [rcpV, h, fdivV, Bool.false_bne]

theorem rcpV_nan (h : (fdec f a).isNan = true) : rcpV f a = (f.nan, if (fdec f a).isSnan then fNV else 0) := by
  rw [rcpV, fdivV_nan (.inr h)]
  rfl

/-- What SQRT gives of the operands of R82. -/
theorem fsqrtV_specials (f : Fmt) (a : Nat) (u : ℝ) :
    let x := fdec f a
    let nan : Bool → Nat × Flags := fun invalid => (f.nan, if invalid then fNV else 0)
    (x.Is 0 → fsqrtV f x = (f.zero (fsign f a), 0)) ∧ (x = .inf false → fsqrtV f x = (f.inf false, 0)) ∧ (x = .inf true → fsqrtV f x = nan true)
      ∧ (x.Is u → u < 0 → fsqrtV f x = nan true) ∧ (x.isNan = true → fsqrtV f x = nan x.isSnan) := by
  intro x nan
  refine ⟨fun hx => ?_, fun hx => ?_, fun hx => ?_, fun hx hu => ?_, fun hx => ?_⟩
  · obtain ⟨e, h⟩ := fdec_is_zero hx
    simp only [x, h]
    rfl
  · rw [hx]
    rfl
  · rw [hx]
    rfl
  · obtain ⟨m, e, hm, h⟩ := fdec_is_negative hx hu
    simp only [x, h, fsqrtV, if_neg hm]
    rfl
  · obtain ⟨b, h⟩ := FVal.exists_nan_of_isNan hx
    rw [h]
    rfl

/-- What RSQ gives of the operands of R143. -/
theorem rsqV_specials (a : Nat) (u : ℝ) :
    let x := fdec f32 a
    let nan : Bool → Nat × Flags := fun invalid => (f32.nan, if invalid then fNV else 0)
    (x.Is 0 → rsqV a = (f32.inf (fsign f32 a), fDZ)) ∧ (x = .inf false → rsqV a = (0, 0)) ∧ (x = .inf true → rsqV a = nan true)
      ∧ (x.Is u → u < 0 → rsqV a = nan true) ∧ (x.isNan = true → rsqV a = nan x.isSnan) := by
  intro x nan
  refine ⟨fun hx => ?_, fun hx => ?_, fun hx => ?_, fun hx hu => ?_, fun hx => ?_⟩
  · obtain ⟨e, h⟩ := fdec_is_zero hx
    simp only [rsqV, h, if_true]
  · simp only [rsqV, show fdec f32 a = .inf false from hx]
    rfl
  · simp only [rsqV, show fdec f32 a = .inf true from hx]
    rfl
  · obtain ⟨m, e, hm, h⟩ := fdec_is_negative hx hu
    simp only [rsqV, h, if_neg hm]
    rfl
  · obtain ⟨b, h⟩ := FVal.exists_nan_of_isNan hx
    simp only [rsqV, show fdec f32 a = .nan b from h, h]
    rfl

end
end Sys2Proof.Machine
end

section
/-! THEOREMS. One-source and compare words, the words of the transcendental unit, and those of the floating-point state and the random stream. -/

open Sys2Proof Sys2Proof.Machine

/-- Settles O9: each word is its function; the roundings and conversions by the kind of their operand, a finite one through its rounding to an integral value. -/
theorem floatOneSourceAndCompareWords : Obligations.FloatOneSourceAndCompareWords := by
  refine ⟨fun c d a b p r s_ f k => ?words, fun f _ g _ mode a n s sat sgn v => ?values⟩
  case words =>
    intro one test
    have word : ∀ {i nd na g}, exec i = runPure i (fun l t => t.fpResult d.toNat nd (g l.src (l.src.group a.toNat na))) → Computes i (one nd na g) := computes_fpOne
    have compare : ∀ {i n g}, exec i = runPure i (test n g) → Computes i (test n g) := fun he => computes_of_runPure he fun _ _ => rfl
    clear_value one
    exact ⟨word rfl, word rfl, word rfl, word rfl, word rfl, word rfl, word rfl, word rfl, word rfl, compare rfl, compare rfl⟩
  case values =>
    intro x lo hi out word
    refine ⟨fun hx => ?finite, fun hx hv => ?nonzero, fun hx => ?zero, fun hx => cvt_inf hx, fun hx => cvt_nan hx, cvtIF_eq f n sgn mode a⟩
    case finite =>
      obtain ⟨m, e, hdec, rfl⟩ := fdec_is_exists_fin hx
      obtain ⟨hexact, hinexact⟩ := frndV_fin (mode := mode) hdec
      exact ⟨_, roundsTo_roundToInt mode _ m e, hexact, hinexact, cvtFI_fin hdec⟩
    case nonzero =>
      obtain ⟨m, e, hdec, rfl⟩ := fdec_is_exists_fin hx
      exact ⟨m, e, by rw [cast_signed, mul_assoc], cvtFF_fin hdec fun hm => hv (signed_mul_zpow_eq_zero.mpr hm)⟩
    case zero =>
      obtain ⟨e, hdec⟩ := fdec_is_zero hx
      exact cvtFF_zero hdec

/-- Settles O10: each word is its function; DIV, RCP, SQRT and RSQ by the kinds of their operands. -/
theorem transcendentalWords : Obligations.TranscendentalWords := by
  refine ⟨fun c d a b w => ?words, fun f _ a b s1 s2 u v => ?values⟩
  case words =>
    intro one n
    have word : ∀ {i nd na} {g : Nat → Nat × Flags},
        exec i = runPure i (fun l t => t.fpResult d.toNat nd (g (l.src.group a.toNat na))) → Computes i (one nd na g) :=
      fun {_ _ _ g} he => computes_fpOne (g := fun _ => g) he
    clear_value one
    exact ⟨word rfl, word rfl, word rfl, computes_fpBin (f := fun _ x y => fdivV (sfuFmt w) (fdec (sfuFmt w) x) (fdec (sfuFmt w) y)) rfl,
      word rfl, word rfl, word rfl, word rfl, word rfl, word rfl, word rfl, word rfl⟩
  case values =>
    intro x y sx sy nan
    exact ⟨fdivV_specials f a b s1 s2 u v, ⟨fun hx => rcpV_zero hx, fun hx => rcpV_inf hx, fun hx => rcpV_nan hx⟩, fsqrtV_specials f a u,
      fun hf => by subst hf; exact rsqV_specials a u⟩

/-- Settles O12: each word acts in the thread alone; the codes of SETRM up to 4 name the modes in the order of R79. -/
theorem threadStateWords : Obligations.ThreadStateWords := by
  intro c d a m k hm
  have word : ∀ {i f}, exec i = runPure i f → (∀ l th, f { l with g := { l.g with threads := th } } = f l) → Computes i f := computes_of_runPure
  refine ⟨?setrm, word rfl fun _ _ => rfl, word rfl fun _ _ => rfl, word rfl fun _ _ => rfl, ?randu, word rfl fun _ _ => rfl, word rfl fun _ _ => rfl,
    word rfl fun _ _ => rfl⟩
  case setrm =>
    have hmodes := computes_setrm m
    generalize m.toNat = code at hm hmodes ⊢
    interval_cases code <;> exact hmodes
  case randu =>
    show Computes _ (uniformDraw d fun k => (roundFin f32 .rne false (k.toNat / 256 + 1) (-24)).1)
    rw [← uniformOf_eq]
    exact computes_randu c d
end

section
/-! SUPPORT. Branches and register jumps (R119, R121, R384): what poison does to a branch, and what a jump through a clean pair comes to. -/

namespace Sys2Proof.Machine

/-- What a branch does once it reads its predicate as `v`: where that is not what the word negates, it goes on at the packet at its offset. -/
def State.branched (s : State) (l : Lane) (n : BitVec 1) (o : BitVec 21) (v : Bool) : State :=
  if v != (n == 1) then s.updLane l fun t => t.goto (packetAt s.issue.pc0.pkt o.toInt) else s

section
variable {p : BitVec 3} {n : BitVec 1} {o : BitVec 21} {s : State} {l : Lane} (h : Issues (.bra p n o) l s)
include h

theorem execBra_clean (hp : p = 0 ∨ l.src.ppoison.getLsbD p.toNat = false) :
    Completes (.bra p n o) l s fun s => s.branched l n o (l.src.pred p.toNat) := by
  have hclean : (p != 0 && l.src.ppoison.getLsbD p.toNat) = false := by
    rcases hp with rfl | hp
    · rfl
    · rw [hp, Bool.and_false]
  exact runWord_one h (by simp only [hclean, Bool.false_and, Bool.false_eq_true, if_false, Bool.not_false, Bool.true_and]; rfl)

theorem execBra_unconsumed (hp : p ≠ 0) (hpoison : l.src.ppoison.getLsbD p.toNat = true) (hu : l.src.unconsumed [] [p.toNat] = true) :
    exec (.bra p n o) s = .next (s.stopLane l.cur.tid (.poison [] [p.toNat] [])) :=
  runWord_one_stop h (by simp only [bne_iff_ne.mpr hp, hpoison, hu, Bool.and_self, if_true])

theorem execBra_consumed (hp : p ≠ 0) (hpoison : l.src.ppoison.getLsbD p.toNat = true) (hu : l.src.unconsumed [] [p.toNat] = false) :
    Completes (.bra p n o) l s fun s => s.branched l n o false :=
  runWord_one h (by simp only [bne_iff_ne.mpr hp, hpoison, hu, Bool.and_false, Bool.false_eq_true, if_false, Bool.and_self, Bool.not_true, Bool.false_and]; rfl)

end

/-- A register jump through a pair without poison goes to the packet that the pair holds, if that lies on the packet grid. -/
theorem jumpTarget_clean {l : Lane} {a : Nat} (h : l.src.anyPoison [a, a + 1] = false) :
    jumpTarget l a = if (((BitVec.ofNat 64 (l.src.group a 2)).toNat : Int) - l.g.cbase.toNat) % 12 = 0
      then .ok (BitVec.ofNat 64 (l.src.group a 2)) else .error illegal := by
  simp only [jumpTarget, Lane.consume, h, Bool.false_eq_true, if_false, ne_eq, ite_not]

end Sys2Proof.Machine
end

section
/-! THEOREMS. Control transfer. -/

open Sys2Proof Sys2Proof.Machine

/-- Settles O14: a branch by its predicate's poison, a register jump by the grid. -/
theorem controlTransferWords : Obligations.ControlTransferWords := by
  intro p n o d a i s l here goTo link target clean onGrid
  have jump : clean → onGrid → jumpTarget l a.toNat = .ok target := fun hc hg => (jumpTarget_clean hc).trans (if_pos hg)
  have noJump : clean → ¬onGrid → jumpTarget l a.toNat = .error (.trap 1 0 0) := fun hc hg => (jumpTarget_clean hc).trans (if_neg hg)
  refine ⟨fun h hp => execBra_clean h hp, fun h hp hpoison hu => execBra_unconsumed h hp hpoison hu, fun h hp hpoison hu => ?consumed,
    fun h => runWord_one h rfl, fun h hc hg => runWord_one h (by rw [jump hc hg]; rfl), fun h hc hg => runWord_one h (by rw [jump hc hg]; rfl),
    fun h hc hg => runWord_one_stop h (by rw [noJump hc hg]), fun h hc hg => runWord_one_stop h (by rw [noJump hc hg])⟩
  case consumed =>
    have hx := execBra_consumed h hp hpoison hu
    have htaken : (false != (n == 1)) = true ↔ n = 1 := by simp
    simp only [State.branched, htaken] at hx
    exact hx
end

section
/-! SUPPORT. Words that wait for others: what a word does once its grant stands at its slot, and before (R41, log 8). -/

namespace Sys2Proof.Machine

/-- A word that has only to be granted: it goes on with its grant, and else does as `wait` says. -/
def orGranted (wait : Lane → State → Except Stop State) (l : Lane) (s : State) : Except Stop State :=
  match l.grant s with
  | some _ => .ok s
  | none => wait l s

section
variable {wait : Lane → State → Except Stop State} {l : Lane} {s : State}

theorem orGranted_some (h : (l.grant s).isSome = true) : orGranted wait l s = .ok s := by
  obtain ⟨ws, hws⟩ := Option.isSome_iff_exists.mp h
  rw [orGranted, hws]

theorem orGranted_none (h : l.grant s = none) : orGranted wait l s = wait l s := by
  rw [orGranted, h]

end

section
variable {i : Instr} {l : Lane} {s : State} (h : Issues i l s)
include h

theorem runWord_orGranted {wait : Lane → State → Except Stop State} (hgrant : (l.grant s).isSome = true) :
    runWord i (orGranted wait) s = .next ((s.advanced l).settled i l s) :=
  runWord_one h (orGranted_some (s := s.advanced l) hgrant)

theorem runWord_orGranted_stop {wait : Lane → State → Except Stop State} {st : Stop} (hgrant : l.grant s = none) (hwait : wait l (s.advanced l) = .error st) :
    runWord i (orGranted wait) s = .next (s.stopLane l.cur.tid st) :=
  runWord_one_stop h ((orGranted_none (s := s.advanced l) hgrant).trans hwait)

end

end Sys2Proof.Machine
end

section
/-! THEOREMS. The end of a thread, traps of its own, and the words of tandem mode. -/

open Sys2Proof Sys2Proof.Machine

/-- Settles O15: EXIT of a thread outside tandem mode or with its rendezvous granted; each other word is one branch of its meaning. -/
theorem exitTrapAndTandemWords : Obligations.ExitTrapAndTandemWords := by
  refine ⟨fun a n s l => ?words, fun s l => ?tandem⟩
  case words =>
    intro ends
    have exits : Issues .exit l s → (l.g.role = .solo ∨ (l.grant s).isSome = true) → CompletesAndWakes .exit l s ends := by
      intro h hends
      have hgo : (decide (l.g.role = .solo) || (l.grant (s.advanced l)).isSome) = true := by
        rw [Bool.or_eq_true, decide_eq_true_iff]
        exact hends
      show execExit s = _
      rw [execExit, runWord_one (t := ends (s.advanced l)) h (if_pos hgo)]
      rfl
    exact ⟨fun h hsolo => exits h (.inl hsolo), fun h hgrant => exits h (.inr hgrant), fun h => runWord_one h rfl, fun h => runWord_one h rfl,
      fun h => runWord_one h rfl⟩
  case tandem =>
    refine ⟨fun h hgrant => runWord_orGranted h hgrant, fun h hgrant => runWord_orGranted h hgrant, fun h hgrant => runWord_orGranted h hgrant,
      fun h hgrant => runWord_orGranted_stop h hgrant rfl, fun h hgrant => runWord_orGranted_stop h hgrant rfl,
      fun h hgrant => runWord_orGranted_stop h hgrant rfl⟩
end

section
/-! SUPPORT. The predicates as one byte (R113), and the words that compare (R112), select (R114) and multiply with a pair (R111), as operations on bit vectors. -/

namespace Sys2Proof.Machine

/-- A word whose meaning is `runPure` computes every effect that equals its own. -/
theorem computes_of_runPure_eq {i : Instr} {f g : Lane → Thread → Thread} (he : exec i = runPure i f)
    (hf : ∀ l th, f { l with g := { l.g with threads := th } } = f l) (hfg : ∀ l t, f l t = g l t) : Computes i g :=
  funext₂ hfg ▸ computes_of_runPure he hf

/-! ### Predicates -/

/-- A value is the sum of its bits. -/
theorem foldl_bits_eq_mod (v n : Nat) : (List.range n).foldl (fun m k => if v.testBit k then m + 2 ^ k else m) 0 = v % 2 ^ n := by
  induction n with
  | zero => exact (Nat.mod_one v).symm
  | succ n ih =>
    rw [List.range_succ, List.foldl_append, ih, List.foldl_cons, List.foldl_nil, Nat.mod_pow_succ, ← Nat.toNat_testBit]
    cases v.testBit n <;> simp

/-- The value that P2W writes: the predicates as one byte, p0 among them as true. -/
theorem Thread.predByte (t : Thread) :
    BitVec.ofNat 32 ((List.range 8).foldl (fun v k => if t.pred k then v + 2 ^ k else v) 0) = (t.preds ||| 1).setWidth 32 := by
  have hpred : ∀ k ∈ List.range 8, t.pred k = (t.preds ||| 1).toNat.testBit k := by
    intro k hk
    rw [BitVec.testBit_toNat, BitVec.getLsbD_or, Thread.pred, Bool.or_comm]
    have h8 := List.mem_range.mp hk
    interval_cases k <;> rfl
  rw [List.foldl_ext _ (fun m k => if (t.preds ||| 1).toNat.testBit k then m + 2 ^ k else m) _ fun m k hk => by rw [hpred k hk], foldl_bits_eq_mod,
    Nat.mod_eq_of_lt (t.preds ||| 1).isLt, BitVec.ofNat_toNat]

theorem getLsbD_foldl_putBit {w : Nat} (f : Nat → Bool) (ks : List Nat) (hks : ∀ k ∈ ks, k < w) (m : BitVec w) (j : Nat) :
    (ks.foldl (fun m k => putBit m k (f k)) m).getLsbD j = if j ∈ ks then f j else m.getLsbD j := by
  induction ks generalizing m with
  | nil => rfl
  | cons k ks ih =>
    rw [List.foldl_cons, ih (fun n hn => hks n (List.mem_cons_of_mem k hn)), getLsbD_putBit _ _ _ _ (hks k List.mem_cons_self)]
    by_cases hj : j ∈ ks <;> by_cases hk : j = k <;> simp [hj, hk]

/-- Writes of several predicates, none of them p0. -/
theorem Thread.foldl_setPred (f : Nat → Bool) (ks : List Nat) (hks : ∀ k ∈ ks, k ≠ 0) (t : Thread) :
    ks.foldl (fun t k => t.setPred k (f k)) t = { t with preds := ks.foldl (fun m k => putBit m k (f k)) t.preds } := by
  induction ks generalizing t with
  | nil => rfl
  | cons k ks ih =>
    have hset : t.setPred k (f k) = { t with preds := putBit t.preds k (f k) } := if_neg (hks k List.mem_cons_self)
    rw [List.foldl_cons, ih (fun n hn => hks n (List.mem_cons_of_mem k hn)), hset]
    rfl

/-- What W2P writes: p1 to p7 from the word's low byte; p0 stays. -/
theorem Thread.setPreds_of_word (t : Thread) (x : Word) :
    [1, 2, 3, 4, 5, 6, 7].foldl (fun t k => t.setPred k (x.getLsbD k)) t = { t with preds := x.setWidth 8 &&& 0xFE ||| t.preds &&& 1 } := by
  rw [Thread.foldl_setPred _ _ (by decide)]
  congr 1
  refine BitVec.eq_of_getLsbD_eq fun j hj => ?_
  rw [getLsbD_foldl_putBit _ _ (by decide), BitVec.getLsbD_or, BitVec.getLsbD_and, BitVec.getLsbD_and, BitVec.getLsbD_setWidth]
  interval_cases j <;> simp

/-- P2W's byte gives W2P the predicates p1 to p7 back. -/
theorem predByte_roundTrip (x : BitVec 8) : ((x ||| 1).setWidth 32).setWidth 8 &&& (0xFE : BitVec 8) = x &&& 0xFE := by
  rw [BitVec.setWidth_setWidth_of_le _ (by decide), BitVec.setWidth_eq, BitVec.and_or_distrib_right]
  exact BitVec.or_zero

/-! ### Comparison, selection, and the multiply-add of a pair -/

/-- Selection between register groups is selection between their values. -/
theorem Lane.group_ite (l : Lane) (c : Bool) (a b : BitVec 6) (k : Nat) :
    l.src.group (if c then a.toNat else b.toNat) k = (if c then l.val a k else l.val b k).toNat := by
  cases c <;> exact (l.toNat_val _ k).symm

theorem ofInt_eq_toNat (n : Nat) (i : Int) : ofInt n i = (BitVec.ofInt n i).toNat := (BitVec.toNat_ofInt ..).symm

/-- The product of two signed words and the sum with a pair, at 64 bits. -/
theorem ofInt_mulAdd (x y : Word) (z : BitVec 64) : ofInt 64 (x.toInt * y.toInt + (z.toNat : Nat)) = (x.signExtend 64 * y.signExtend 64 + z).toNat := by
  rw [ofInt_eq_toNat, BitVec.ofInt_add, BitVec.ofInt_mul, BitVec.ofInt_natCast, BitVec.ofNat_toNat, BitVec.setWidth_eq]
  rfl

/-- The conditions of ICMP on bit vectors. -/
def icmpHolds {n : Nat} (f : Nat) (x y : BitVec n) : Bool :=
  match f with
  | 0 => x == y | 1 => x != y | 2 => x.slt y | 3 => x.sle y | 4 => y.slt x | 5 => y.sle x
  | 6 => x.ult y | 7 => x.ule y | 8 => y.ult x | _ => y.ule x

theorem icmpTrue_toNat {n : Nat} (hn : 0 < n) (f : Nat) (x y : BitVec n) : icmpTrue f n x.toNat y.toNat = icmpHolds f x y := by
  have hval : ∀ z : BitVec n, sval n z.toNat = z.toInt := fun z => by rw [sval_eq_toInt _ hn, BitVec.ofNat_toNat, BitVec.setWidth_eq]
  have heq : (x.toNat == y.toNat) = (x == y) := by rw [Bool.eq_iff_iff, beq_iff_eq, beq_iff_eq, BitVec.toNat_inj]
  unfold icmpTrue icmpHolds
  split <;> simp only [hval, heq, bne, BitVec.slt, BitVec.sle, BitVec.ult, BitVec.ule, gt_iff_lt, ge_iff_le]

/-! ### NOP -/

/-- What NOP does for one thread of its pack (R42). -/
def State.passed (s : State) (u : Nat) : State := (s.updThread s.issue.gid u fun t => t.advance s.issue).arithTrap s.issue.gid u

theorem State.passed_frame (s : State) (u : Nat) : LaneFrame True s (s.passed u) u := by
  refine ⟨State.arithTrap_same_of (by rfl) _ _, by rw [State.passed, State.arithTrap_issue]; rfl, fun _ h x hx => ?_, fun h v hv => ?_⟩
  · obtain ⟨th, hth⟩ := State.group?_updThread s s.issue.gid u (fun t => t.advance s.issue) h x hx
    exact (State.group?_arithTrap _ s.issue.gid u h _ hth).imp fun _ h => h
  · obtain ⟨f, hf, -, hid⟩ := State.thread?_arithTrap (s.updThread s.issue.gid u fun t => t.advance s.issue) s.issue.gid u h v
    rw [State.passed, hf, hid hv, Option.map_id_fun, id, State.thread?_updThread]
    simp [hv]

/-- A thread past a NOP: its PC has moved, and it is as it was but for the trap of flags that its chain has raised. -/
theorem State.passed_thread {s : State} {u : Nat} {g : Group} {x : Thread} (hg : s.group? s.issue.gid = some g) (hx : g.thread? u = some x) :
    ∃ y, (s.passed u).thread? s.issue.gid u = some y ∧ y.sansTrap = (x.advance s.issue).sansTrap
      ∧ ((x.advance s.issue).raised &&& s.trapen g.asid = 0 → y = x.advance s.issue) := by
  have hthread : (s.updThread s.issue.gid u fun t => t.advance s.issue).thread? s.issue.gid u = some (x.advance s.issue) :=
    State.thread?_updThread_self _ (by rw [State.thread?, hg, Option.bind_some, hx])
  obtain ⟨f, hf, hs, -⟩ := State.thread?_arithTrap (s.updThread s.issue.gid u fun t => t.advance s.issue) s.issue.gid u s.issue.gid u
  refine ⟨f (x.advance s.issue), by rw [State.passed, hf, hthread, Option.map_some], hs _, fun hr => ?_⟩
  obtain ⟨th, hgroup⟩ := State.group?_updThread s s.issue.gid u (fun t => t.advance s.issue) _ g hg
  rw [hthread, Option.map_some, State.arithTrap_none hgroup hthread hr, hthread] at hf
  exact (Option.some.inj hf).symm

/-- What holds of a state after every thread of a list has passed a NOP. -/
theorem State.foldl_passed_frame (us : List Nat) (s : State) : PackFrame True s (us.foldl State.passed s) us := by
  induction us generalizing s with
  | nil => exact ⟨rfl, rfl, fun _ _ x hx => ⟨x.threads, hx⟩, fun _ _ _ => rfl⟩
  | cons u us ih =>
    have hone := s.passed_frame u
    have hrest := ih (s.passed u)
    have hgid : (s.passed u).issue.gid = s.issue.gid := by rw [hone.issue]
    rw [List.foldl_cons]
    refine ⟨State.sameButThreads_trans hone.same hrest.same, by rw [hrest.issue, hone.issue], fun q h x hx => ?_, fun h v hv => ?_⟩
    · obtain ⟨th, hth⟩ := hone.group q h x hx
      exact (hrest.group q h _ hth).imp fun _ h => h
    · rw [hrest.thread h v fun e => hv ⟨e.1.trans hgid, List.mem_cons_of_mem u e.2⟩, hone.thread h v fun e => hv ⟨e.1, e.2 ▸ List.mem_cons_self⟩]

/-- A thread of a pack that passes a NOP is as after its own, since no other thread's changes it. -/
theorem State.foldl_passed_thread {us : List Nat} {u : Nat} (hu : u ∈ us) (hn : us.Nodup) {s : State} {g : Group} {x : Thread}
    (hg : s.group? s.issue.gid = some g) (hx : g.thread? u = some x) :
    ∃ y, (us.foldl State.passed s).thread? s.issue.gid u = some y ∧ y.sansTrap = (x.advance s.issue).sansTrap
      ∧ ((x.advance s.issue).raised &&& s.trapen g.asid = 0 → y = x.advance s.issue) := by
  induction us generalizing s g with
  | nil => cases hu
  | cons v us ih =>
    obtain ⟨hv, hn⟩ := List.nodup_cons.mp hn
    have hone := s.passed_frame v
    have hgid : (s.passed v).issue.gid = s.issue.gid := by rw [hone.issue]
    rw [List.foldl_cons]
    by_cases huv : u = v
    · subst huv
      have hkeep := (State.foldl_passed_frame us (s.passed u)).thread s.issue.gid u fun e => hv e.2
      rw [hkeep]
      exact State.passed_thread hg hx
    · obtain ⟨th, hgroup⟩ := hone.group trivial _ g hg
      have hthread := hone.thread s.issue.gid u fun e => huv e.2
      simp only [State.thread?, hgroup, hg, Option.bind_some] at hthread
      have htrapen : (s.passed v).trapen g.asid = s.trapen g.asid := by simp only [State.trapen, State.ctx?, hone.same.contexts]
      have hadvance : x.advance (s.passed v).issue = x.advance s.issue := by rw [hone.issue]; rfl
      have hrest := ih ((List.mem_cons.mp hu).resolve_left huv) hn (hgid ▸ hgroup) (hthread.trans hx)
      rw [hgid, hadvance] at hrest
      exact htrapen ▸ hrest

end Sys2Proof.Machine
end

section
/-! THEOREMS. The predicate words, NOP, and the words that compare, select and multiply-add. -/

open Sys2Proof Sys2Proof.Machine

/-- Settles O7: each word acts in the thread alone; the byte of P2W and the writes of W2P, bit by bit. -/
theorem predicateWords : Obligations.PredicateWords := by
  intro c d a b r
  exact ⟨computes_of_runPure rfl fun _ _ => rfl, computes_of_runPure rfl fun _ _ => rfl,
    computes_of_runPure_eq rfl (fun _ _ => rfl) fun l t => congrArg (t.setPred d.toNat) (congrFun₂ Bool.bne_eq_xor _ _), computes_of_runPure rfl fun _ _ => rfl,
    computes_of_runPure_eq rfl (fun _ _ => rfl) fun l t => congrArg (t.setReg r.toNat) l.src.predByte,
    computes_of_runPure_eq rfl (fun _ _ => rfl) fun l t => t.setPreds_of_word (l.src.reg r.toNat), fun x y => by rw [predByte_roundTrip]⟩

/-- Settles O6: NOP thread by thread of its pack; the other words as operations on bit vectors. -/
theorem multiplyAddCompareSelectWords : Obligations.MultiplyAddCompareSelectWords := by
  refine ⟨fun c d a b e p w f hw hf => ?words, fun c d a b w n p => ?sel⟩
  case words =>
    intro k holds
    refine ⟨fun s tid g x hu hn hg hx => ?nop, computes_of_runPure rfl fun _ _ => rfl, ?imadW, ?icmp, ?uget⟩
    case nop =>
      obtain ⟨y, hy, hsans, hraised⟩ := State.foldl_passed_thread hu hn hg hx
      have hframe := State.foldl_passed_frame s.issue.tids s
      exact ⟨_, y, rfl, hy, hsans, hraised, hframe.same, hframe.same.physByte, hframe.thread⟩
    case imadW =>
      refine computes_of_runPure_eq rfl (fun _ _ => rfl) fun l t => congrArg (t.setGroup d.toNat 2) ?_
      rw [← l.toNat_val e 2]
      exact ofInt_mulAdd _ _ _
    case icmp =>
      refine computes_of_runPure_eq rfl (fun _ _ => rfl) fun l t => congrArg (t.setPred p.toNat) ?_
      rw [← l.toNat_val a, ← l.toNat_val b]
      exact icmpTrue_toNat (Nat.mul_pos (by decide) (Nat.two_pow_pos _)) f.toNat _ _
    case uget =>
      refine computes_of_runPure_eq rfl (fun _ _ => rfl) fun l t => congrArg (t.setReg d.toNat) ?_
      exact if_congr (BitVec.toNat_inj (y := 0)) rfl rfl
  case sel => exact computes_of_runPure_eq rfl (fun _ _ => rfl) fun l t => congrArg (t.setGroup d.toNat _) (l.group_ite _ a b _)
end

section
/-! SUPPORT. The functions of the single-width integer words (R104, R105, R107-R110) on naturals and integers, as operations on bit vectors. -/

namespace Sys2Proof.Machine

section
variable {i : Instr} {d a b : BitVec 6}

/-- A 32-bit word of two sources computes every function that equals its own. -/
theorem computes_alu32 {f g : Word → Word → Word} (hfg : ∀ x y, f x y = g x y) (he : exec i = alu32 i d.toNat a.toNat b.toNat f) :
    Computes i fun l t => t.setReg d.toNat (g (l.src.reg a.toNat) (l.src.reg b.toNat)) :=
  computes_of_runPure_eq he (fun _ _ => rfl) fun _ _ => congrArg _ (hfg _ _)

/-- A 32-bit word of one source computes every function that equals its own. -/
theorem computes_alu1 {f g : Word → Word} (hfg : ∀ x, f x = g x) (he : exec i = alu1 i d.toNat a.toNat f) :
    Computes i fun l t => t.setReg d.toNat (g (l.src.reg a.toNat)) :=
  computes_of_runPure_eq he (fun _ _ => rfl) fun _ _ => congrArg _ (hfg _)

end

/-! ### Minima, maxima and saturation -/

theorem ite_slt_eq_min {n : Nat} (x y : BitVec n) : (if x.slt y then x else y) = BitVec.ofInt n (min x.toInt y.toInt) := by
  have hmin : min x.toInt y.toInt = (if x.slt y then x else y).toInt := by
    rw [BitVec.slt]
    split_ifs with h <;> rw [decide_eq_true_iff] at h <;> omega
  rw [hmin, BitVec.ofInt_toInt]

theorem ite_slt_eq_max {n : Nat} (x y : BitVec n) : (if x.slt y then y else x) = BitVec.ofInt n (max x.toInt y.toInt) := by
  have hmax : max x.toInt y.toInt = (if x.slt y then y else x).toInt := by
    rw [BitVec.slt]
    split_ifs with h <;> rw [decide_eq_true_iff] at h <;> omega
  rw [hmax, BitVec.ofInt_toInt]

theorem ite_ult_eq_min {n : Nat} (x y : BitVec n) : (if x.ult y then x else y) = BitVec.ofNat n (min x.toNat y.toNat) := by
  have hmin : min x.toNat y.toNat = (if x.ult y then x else y).toNat := by
    rw [BitVec.ult]
    split_ifs with h <;> rw [decide_eq_true_iff] at h <;> omega
  rw [hmin, BitVec.ofNat_toNat, BitVec.setWidth_eq]

theorem ite_ult_eq_max {n : Nat} (x y : BitVec n) : (if x.ult y then y else x) = BitVec.ofNat n (max x.toNat y.toNat) := by
  have hmax : max x.toNat y.toNat = (if x.ult y then y else x).toNat := by
    rw [BitVec.ult]
    split_ifs with h <;> rw [decide_eq_true_iff] at h <;> omega
  rw [hmax, BitVec.ofNat_toNat, BitVec.setWidth_eq]

theorem sat32_eq (v : Int) : sat32 v = BitVec.ofInt 32 (max (-2147483648) (min 2147483647 v)) := by
  rw [sat32]
  split_ifs with hlow hhigh
  · rw [show max (-2147483648) (min 2147483647 v) = -2147483648 by omega]
    rfl
  · rw [show max (-2147483648) (min 2147483647 v) = 2147483647 by omega]
    rfl
  · rw [show max (-2147483648) (min 2147483647 v) = v by omega]

theorem ite_msb_neg_eq_natAbs {n : Nat} (x : BitVec n) : (if x.msb then -x else x) = BitVec.ofInt n x.toInt.natAbs := by
  rw [BitVec.msb_eq_toInt]
  by_cases h : x.toInt < 0
  · rw [if_pos (decide_eq_true h), show (x.toInt.natAbs : Int) = -x.toInt by omega, BitVec.ofInt_neg, BitVec.ofInt_toInt]
  · rw [if_neg (by simpa using h), show (x.toInt.natAbs : Int) = x.toInt by omega, BitVec.ofInt_toInt]

/-! ### High products -/

theorem ofInt_high_mul (x y : Word) : BitVec.ofInt 32 (x.toInt * y.toInt / 4294967296) = (x.signExtend 64 * y.signExtend 64).extractLsb' 32 32 := by
  have hprod : x.signExtend 64 * y.signExtend 64 = BitVec.ofInt 64 (x.toInt * y.toInt) := (BitVec.ofInt_mul ..).symm
  refine BitVec.eq_of_toNat_eq ?_
  rw [hprod, BitVec.extractLsb'_toNat, Nat.shiftRight_eq_div_pow, BitVec.toNat_ofInt, BitVec.toNat_ofInt]
  generalize x.toInt * y.toInt = p
  omega

theorem ofNat_high_mul (x y : Word) : BitVec.ofNat 32 (x.toNat * y.toNat / 2 ^ 32) = (x.setWidth 64 * y.setWidth 64).extractLsb' 32 32 := by
  refine BitVec.eq_of_toNat_eq ?_
  have hwide : ∀ z : Word, z.toNat % 2 ^ 64 = z.toNat := fun z => Nat.mod_eq_of_lt (by omega)
  rw [BitVec.extractLsb'_toNat, Nat.shiftRight_eq_div_pow, BitVec.toNat_mul, BitVec.toNat_setWidth, BitVec.toNat_setWidth, hwide, hwide, BitVec.toNat_ofNat]
  generalize x.toNat * y.toNat = p
  omega

theorem rotateLeft_of_lt (x : Word) {k : Nat} (h : k < 32) : x.rotateLeft k = x <<< k ||| x >>> (32 - k) := by
  rw [BitVec.rotateLeft_def, Nat.mod_eq_of_lt h]

/-! ### Counting and reversing bits -/

theorem popcount_eq_length (n v : Nat) : popcount n v = ((List.range n).filter v.testBit).length := by
  induction n generalizing v with
  | zero => rfl
  | succ n ih =>
    have hcomp : v.testBit ∘ Nat.succ = (v / 2).testBit := funext fun k => Nat.testBit_succ v k
    rw [popcount, ih, List.range_succ_eq_map, List.filter_cons, List.filter_map, hcomp, Nat.testBit_zero]
    rcases Nat.mod_two_eq_zero_or_one v with h | h <;> simp [h, Nat.add_comm]

theorem ofNat_popcount (x : Word) : BitVec.ofNat 32 (popcount 32 x.toNat) = BitVec.ofNat 32 ((List.range 32).filter fun k => x.getLsbD k).length := by
  rw [popcount_eq_length]
  rfl

theorem leadZeros_eq_log2 {n v : Nat} (h : v < 2 ^ n) : leadZeros n v = if v = 0 then n else n - 1 - v.log2 := by
  induction n with
  | zero => rw [if_pos (Nat.lt_one_iff.mp h)]; rfl
  | succ n ih =>
    rw [leadZeros]
    by_cases hlow : v < 2 ^ n
    · rw [Nat.div_eq_of_lt hlow, if_neg (by decide), ih hlow]
      split_ifs with h0
      · exact Nat.add_comm 1 n
      · have := (Nat.log2_lt h0).mpr hlow
        omega
    · have hv : v ≠ 0 := fun h0 => hlow (h0 ▸ Nat.two_pow_pos n)
      have hdiv : v / 2 ^ n = 1 := Nat.div_eq_of_lt_le (by omega) (by rw [Nat.pow_succ] at h; omega)
      rw [hdiv, if_pos rfl, if_neg hv, (Nat.log2_eq_iff hv).mpr ⟨Nat.le_of_not_lt hlow, h⟩]
      omega

theorem ofNat_leadZeros (x : Word) : BitVec.ofNat 32 (leadZeros 32 x.toNat) = if x = 0 then 32 else BitVec.ofNat 32 (31 - x.toNat.log2) := by
  rw [leadZeros_eq_log2 x.isLt, apply_ite (BitVec.ofNat 32)]
  exact if_congr (BitVec.toNat_inj (y := 0)) rfl rfl

theorem bitRev_lt (n v : Nat) : bitRev n v < 2 ^ n := by
  induction n generalizing v with
  | zero => exact Nat.one_pos
  | succ n ih =>
    have := ih (v / 2)
    have hbit : v % 2 * 2 ^ n ≤ 2 ^ n := (Nat.mul_le_mul_right _ (by omega : v % 2 ≤ 1)).trans (Nat.one_mul _).le
    rw [bitRev, Nat.pow_succ]
    omega

theorem testBit_bitRev {n j : Nat} (v : Nat) (hj : j < n) : (bitRev n v).testBit j = v.testBit (n - 1 - j) := by
  induction n generalizing v with
  | zero => exact absurd hj (Nat.not_lt_zero j)
  | succ n ih =>
    rw [bitRev, Nat.mul_comm, Nat.testBit_two_pow_mul_add _ (bitRev_lt n _)]
    split_ifs with hlow
    · rw [ih _ hlow, ← Nat.testBit_succ]
      congr 1
      omega
    · obtain rfl : j = n := by omega
      simp [Nat.testBit_zero]

theorem ofNat_bitRev {n : Nat} (x : BitVec n) : BitVec.ofNat n (bitRev n x.toNat) = x.reverse := by
  refine BitVec.eq_of_getLsbD_eq fun j hj => ?_
  rw [BitVec.getLsbD_ofNat, testBit_bitRev _ hj, BitVec.getLsbD_reverse, BitVec.getMsbD_eq_getLsbD]
  rfl

/-! ### Bit fields and bytes -/

theorem extract_eq_ofNat_bits {n : Nat} (x : BitVec n) (lo len : Nat) : x.extractLsb' lo len = BitVec.ofNat len (bits x.toNat lo len) := by
  rw [bits, ← Nat.shiftRight_eq_div_pow, BitVec.extractLsb']
  exact BitVec.eq_of_toNat_eq (by rw [BitVec.toNat_ofNat, BitVec.toNat_ofNat, Nat.mod_mod])

theorem bits_lt (v lo len : Nat) : bits v lo len < 2 ^ len := Nat.mod_lt _ (Nat.two_pow_pos len)

theorem toNat_extract {n : Nat} (x : BitVec n) (lo len : Nat) : (x.extractLsb' lo len).toNat = bits x.toNat lo len := by
  rw [extract_eq_ofNat_bits, BitVec.toNat_ofNat, Nat.mod_eq_of_lt (bits_lt ..)]

theorem bits_one_eq_one {n : Nat} (x : BitVec n) (k : Nat) : bits x.toNat k 1 = 1 ↔ x.getLsbD k = true := by
  rw [← BitVec.testBit_toNat, Nat.testBit_eq_decide_div_mod_eq, decide_eq_true_iff]
  rfl

theorem ofNat_fieldOf (x : Word) (pos len : Nat) : BitVec.ofNat 32 (fieldOf x pos len) = (x.extractLsb' pos len).setWidth 32 := by
  rw [← BitVec.ofNat_toNat, toNat_extract]
  rfl

theorem ofInt_sval_fieldOf (x : Word) (pos : Nat) {len : Nat} (h : 0 < len) :
    BitVec.ofInt 32 (sval len (fieldOf x pos len)) = (x.extractLsb' pos len).signExtend 32 := by
  rw [sval_eq_toInt _ h, fieldOf, ← extract_eq_ofNat_bits]
  rfl

/-- A byte of BPICK as a bit vector (R105), given the one below it. -/
def bpickField (x y : Word) (i : Nat) (below : BitVec 8) : BitVec 8 :=
  if 1 ≤ i ∧ y.getLsbD (12 + i) then (if below.msb then 0xFF#8 else 0#8)
  else if y.getLsbD (8 + i) then 0#8
  else x.extractLsb' (8 * (y.extractLsb' (2 * i) 2).toNat) 8

theorem bpickByte_toNat (x y : Word) (i : Nat) (below : BitVec 8) : bpickByte x.toNat y.toNat i below.toNat = (bpickField x y i below).toNat := by
  have hmsb : below.toNat ≥ 128 ↔ below.msb = true := by rw [BitVec.msb_eq_decide, decide_eq_true_iff]
  simp only [bpickByte, bpickField, apply_ite BitVec.toNat, toNat_extract, bits_one_eq_one, hmsb]
  rfl

theorem toNat_append_add {m n : Nat} (x : BitVec m) (y : BitVec n) : (x ++ y).toNat = x.toNat * 2 ^ n + y.toNat := by
  rw [BitVec.toNat_append, ← Nat.shiftLeft_add_eq_or_of_lt y.isLt, Nat.shiftLeft_eq]

theorem ofNat_bytes (b0 b1 b2 b3 : BitVec 8) :
    BitVec.ofNat 32 (b0.toNat + 256 * b1.toNat + 65536 * b2.toNat + 16777216 * b3.toNat) = (b3 ++ b2 ++ b1 ++ b0 : BitVec 32) := by
  refine BitVec.eq_of_toNat_eq ?_
  rw [BitVec.toNat_ofNat, toNat_append_add, toNat_append_add, toNat_append_add]
  omega

/-- The four bytes of BPICK, each from the one below it (R105). -/
def bpickWord (x y : Word) : Word :=
  let b0 := bpickField x y 0 0
  let b1 := bpickField x y 1 b0
  let b2 := bpickField x y 2 b1
  let b3 := bpickField x y 3 b2
  b3 ++ b2 ++ b1 ++ b0

theorem bpick_eq (x y : Word) : BitVec.ofNat 32 (bpick x.toNat y.toNat) = bpickWord x y := by
  have h0 : bpickByte x.toNat y.toNat 0 0 = (bpickField x y 0 0).toNat := bpickByte_toNat x y 0 0
  simp only [bpick, h0, bpickByte_toNat]
  exact ofNat_bytes ..

end Sys2Proof.Machine
end

section
/-! THEOREMS. The integer words of one width. -/

open Sys2Proof Sys2Proof.Machine

/-- Settles O5: each word's function on words is the operation on bit vectors. -/
theorem integerUnaryWords : Obligations.IntegerUnaryWords := by
  refine ⟨fun c d a b => ?two, fun c d a b => ?bpick, fun c d a i n l p m _ => ?one⟩
  case two =>
    intro two clamp
    have word : ∀ {i f g}, (∀ x y, f x y = g x y) → exec i = alu32 i d.toNat a.toNat b.toNat f → Computes i (two g) := computes_alu32
    clear_value two
    exact ⟨word ite_slt_eq_min rfl, word ite_slt_eq_max rfl, word ite_ult_eq_min rfl, word ite_ult_eq_max rfl, word (fun _ _ => rfl) rfl,
      word (fun x y => rotateLeft_of_lt x (Nat.mod_lt _ (by decide))) rfl, word ofInt_high_mul rfl, word ofNat_high_mul rfl,
      word (fun x y => sat32_eq (x.toInt + y.toInt)) rfl, word (fun x y => sat32_eq (x.toInt - y.toInt)) rfl⟩
  case bpick =>
    intro byte pick
    have hpick : ∀ x y, bpickWord x y = pick x y := fun _ _ => rfl
    exact computes_alu32 (fun x y => (bpick_eq x y).trans (hpick x y)) rfl
  case one =>
    intro one field
    have hlow : ∀ x : Word, m ++ x.setWidth 13 = m ++ x.extractLsb' 0 13 := fun x => congrArg (m ++ ·) (BitVec.setWidth_eq_extractLsb' (by decide))
    have word : ∀ {i f g}, (∀ x, f x = g x) → exec i = alu1 i d.toNat a.toNat f → Computes i (one g) := computes_alu1
    clear_value one
    exact ⟨word ofNat_popcount rfl, word ofNat_leadZeros rfl, word ofNat_bitRev rfl, word ite_msb_neg_eq_natAbs rfl, word (fun _ => rfl) rfl,
      word (fun _ => rfl) rfl, word (fun _ => rfl) rfl, word (fun _ => rfl) rfl, word (fun _ => rfl) rfl, word (fun _ => rfl) rfl, word (fun _ => rfl) rfl,
      word (fun x => rotateLeft_of_lt x n.isLt) rfl, word (fun x => ofNat_fieldOf x _ _) rfl, word (fun x => ofInt_sval_fieldOf x _ (Nat.succ_pos _)) rfl,
      computes_of_runPure rfl fun _ _ => rfl, computes_of_runPure rfl fun _ _ => rfl,
      computes_of_runPure_eq rfl (fun _ _ => rfl) fun ln t => congrArg (t.setReg d.toNat) (hlow (ln.src.reg d.toNat))⟩
end

section
/-! SUPPORT. The wake rules of a group (R298) thread by thread: a pass that updates several threads in turn, the threads that a rule leaves alone, and a
thread that parks as it issues. -/

namespace Sys2Proof.Machine

/-! ### Updates of several threads in turn -/

/-- In a list whose keys differ, an element is found by its key. -/
theorem find?_key_of_mem {α : Type} {key : α → Nat} {l : List α} (hn : (l.map key).Nodup) {a : α} (ha : a ∈ l) : l.find? (fun x => key x == key a) = some a := by
  have hsome : (l.find? fun x => key x == key a).isSome = true := List.find?_isSome.mpr ⟨a, ha, beq_self_eq_true _⟩
  obtain ⟨b, hb⟩ := Option.isSome_iff_exists.mp hsome
  have hkey : key b = key a := by simpa using List.find?_some hb
  rw [hb, List.inj_on_of_nodup_map hn (List.mem_of_find?_eq_some hb) ha hkey]

theorem Group.thread?_of_mem {g : Group} (hn : (g.threads.map (·.tid)).Nodup) {u : Thread} (hu : u ∈ g.threads) : g.thread? u.tid = some u :=
  find?_key_of_mem hn hu

theorem updWhere_map_key {α : Type} {key : α → Nat} {f : α → α} (hf : ∀ x, key (f x) = key x) (p : α → Bool) (l : List α) :
    (updWhere p f l).map key = l.map key := by
  rw [updWhere, List.map_map]
  refine List.map_congr_left fun x _ => ?_
  rw [Function.comp_apply]
  split
  · exact hf x
  · rfl

theorem updWhere_updWhere {α : Type} {p : α → Bool} {f : α → α} (hf : ∀ x, p (f x) = p x) (h : α → α) (l : List α) :
    updWhere p h (updWhere p f l) = updWhere p (fun x => h (f x)) l := by
  rw [updWhere, updWhere, updWhere, List.map_map]
  refine List.map_congr_left fun x _ => ?_
  rw [Function.comp_apply]
  by_cases hx : p x = true
  · rw [if_pos hx, if_pos hx, if_pos ((hf x).trans hx)]
  · rw [if_neg hx, if_neg hx, if_neg hx]

/-- An update of a thread that leaves its index. -/
def Thread.keepTid (f : Thread → Thread) (t : Thread) : Thread := { f t with tid := t.tid }

/-- The thread indices of a group stay as a thread of it is updated. -/
theorem Group.updThread_tids (g : Group) (u : Nat) (f : Thread → Thread) : (g.updThread u f).threads.map (·.tid) = g.threads.map (·.tid) :=
  updWhere_map_key (f := Thread.keepTid f) (fun _ => rfl) _ g.threads

theorem Group.mem_updThread {g : Group} {u : Nat} {f : Thread → Thread} {t : Thread} :
    t ∈ (g.updThread u f).threads ↔ ∃ t0 ∈ g.threads, (if t0.tid = u then t0.keepTid f else t0) = t := by
  simp only [Group.updThread, updWhere, List.mem_map, beq_iff_eq]
  rfl

theorem State.group?_updThread_self {s : State} {gid : Nat} {g : Group} (hg : s.group? gid = some g) (u : Nat) (f : Thread → Thread) :
    (s.updThread gid u f).group? gid = some (g.updThread u f) := by
  rw [State.updThread, State.group?_updGroup s gid gid (fun g => g.updThread u f) fun _ => rfl, hg, Option.map_some, if_pos rfl]

/-- Two updates of a thread, one after the other, are one. -/
theorem State.updThread_updThread (s : State) (gid u : Nat) (f h : Thread → Thread) :
    (s.updThread gid u f).updThread gid u h = s.updThread gid u fun t => h (t.keepTid f) := by
  have hthreads : ∀ g : Group, (g.updThread u f).updThread u h = g.updThread u fun t => h (t.keepTid f) := fun g =>
    congrArg (fun ts => { g with threads := ts }) (updWhere_updWhere (f := Thread.keepTid f) (fun _ => rfl) (Thread.keepTid h) g.threads)
  have hgroups := updWhere_updWhere (p := fun g => g.gid == gid) (f := fun g => g.updThread u f) (fun _ => rfl) (fun g => g.updThread u h) s.groups
  refine congrArg (fun gs => { s with groups := gs }) (hgroups.trans ?_)
  simp only [hthreads]

section
variable {α : Type} (gid : Nat) (key : α → Nat) (f : Nat → α → Thread → Thread)

/-- One pass over a group: for each element of a list, the thread of its key is updated, as the cycle stands. -/
def State.updEach (s : State) (l : List α) : State := l.foldl (fun s a => s.updThread gid (key a) (f s.cycle a)) s

/-- What such a pass makes of a thread. -/
def Thread.updBy (now : Nat) (l : List α) (t : Thread) : Thread :=
  match l.find? fun a => key a == t.tid with
  | some a => t.keepTid (f now a)
  | none => t

/-- What such a pass makes of a group. -/
def Group.updEach (g : Group) (now : Nat) (l : List α) : Group := { g with threads := g.threads.map (Thread.updBy key f now l) }

variable {gid key f}

theorem Thread.updBy_of_mem {now : Nat} {l : List α} (hn : (l.map key).Nodup) {a : α} (ha : a ∈ l) {t : Thread} (ht : t.tid = key a) :
    Thread.updBy key f now l t = t.keepTid (f now a) := by
  rw [Thread.updBy, ht, find?_key_of_mem hn ha]

theorem Thread.updBy_of_not_mem {now : Nat} {l : List α} {t : Thread} (ht : ∀ a ∈ l, key a ≠ t.tid) : Thread.updBy key f now l t = t := by
  rw [Thread.updBy, List.find?_eq_none.mpr fun a ha => by simpa using ht a ha]

theorem Thread.updBy_tid (now : Nat) (l : List α) (t : Thread) : (Thread.updBy key f now l t).tid = t.tid := by
  rw [Thread.updBy]
  split <;> rfl

theorem Group.updEach_tids (g : Group) (now : Nat) (l : List α) : (g.updEach key f now l).threads.map (·.tid) = g.threads.map (·.tid) := by
  rw [Group.updEach, List.map_map]
  exact List.map_congr_left fun t _ => Thread.updBy_tid now l t

theorem Group.thread?_updEach (g : Group) (now : Nat) (l : List α) (u : Nat) :
    (g.updEach key f now l).thread? u = (g.thread? u).map (Thread.updBy key f now l) :=
  find?_map_congr _ _ (fun t => by rw [Thread.updBy_tid]) g.threads

/-- A pass over threads that differ: each is updated once, by the element of its key. -/
theorem State.group?_updEach {s : State} {g : Group} (hg : s.group? gid = some g) {l : List α} (hn : (l.map key).Nodup) :
    (s.updEach gid key f l).group? gid = some (g.updEach key f s.cycle l) := by
  induction l generalizing s g with
  | nil => exact hg.trans (by rw [Group.updEach, show Thread.updBy key f s.cycle [] = id from rfl, List.map_id])
  | cons a l ih =>
    obtain ⟨hkey, hrest⟩ := List.nodup_cons.mp hn
    have hnot : ∀ b ∈ l, key b ≠ key a := fun b hb he => hkey (he ▸ List.mem_map_of_mem hb)
    refine (ih (State.group?_updThread_self hg (key a) (f s.cycle a)) hrest).trans ?_
    rw [Group.updEach, Group.updEach, Group.updThread, updWhere, List.map_map]
    congr 2
    refine List.map_congr_left fun t _ => ?_
    rw [Function.comp_apply]
    by_cases ht : t.tid = key a
    · rw [if_pos (beq_iff_eq.mpr ht), Thread.updBy_of_mem hn List.mem_cons_self ht]
      exact Thread.updBy_of_not_mem fun b hb he => hnot b hb (he.trans ht)
    · rw [if_neg (by simpa using ht), Thread.updBy, Thread.updBy, List.find?_cons_of_neg (by simpa using Ne.symm ht)]
      rfl

end

/-! ### What a rule gives a thread -/

/-- A thread whose waiting word has acted at cycle `now`, with its results. -/
def Thread.delivered (now dst : Nat) (ws : List Word) (poison : Option DWord) (t : Thread) : Thread :=
  let t' := { t with st := .ready, waitSince := now }
  if t.parkAlone then
    { (t'.retired.setWords dst ws).taint ((List.range ws.length).map (dst + ·)) t.parkOwn poison with
      pc := t.parkNext, packet := if t.parkNext.slot = 0 then [] else t.packet, fence := none }
  else { t' with grants := t.grants ++ [(t.parkSlot, ws, poison)] }

theorem State.deliver_eq (s : State) (gid tid dst : Nat) (ws : List Word) (poison : Option DWord) :
    s.deliver gid tid dst ws poison = s.updThread gid tid (Thread.delivered s.cycle dst ws poison) := rfl

theorem Thread.delivered_keeps (now dst : Nat) (ws : List Word) (poison : Option DWord) (t : Thread) :
    (t.delivered now dst ws poison).st = .ready ∧ (t.delivered now dst ws poison).barG = t.barG := by
  rw [Thread.delivered]
  split <;> simp

/-- What a completed convergence point gives a thread that stands at it: its index, destination, result, and the poison that comes with it. -/
def Group.handout (g : Group) (t : Thread) : Option (Nat × Nat × Word × Option DWord) :=
  match t.arrived with
  | some x => if g.setComplete t x.1 then
      some (t.tid, x.2.1, (exchangeResult x.1 t.tid x.2.2.2.1 (g.setOf x.1 t.tid)).1, exchangeEnters x.1 t.tid x.2.2.2.1 (g.setOf x.1 t.tid))
    else none
  | none => none

/-- A thread that has received its result at a convergence point. -/
def Thread.received (now : Nat) (r : Nat × Nat × Word × Option DWord) (t : Thread) : Thread :=
  (t.keepTid (Thread.delivered now r.2.1 [r.2.2.1] r.2.2.2)).synced

theorem State.settleConverge_eq (s : State) (g : Group) :
    s.settleConverge g = s.updEach g.gid (·.1) Thread.received (g.threads.filterMap g.handout) := by
  have hstep : ∀ (s : State) (r : Nat × Nat × Word × Option DWord), (s.deliver g.gid r.1 r.2.1 [r.2.2.1] r.2.2.2).updThread g.gid r.1 Thread.synced
      = s.updThread g.gid r.1 (Thread.received s.cycle r) := fun s r => State.updThread_updThread ..
  simp only [State.updEach, ← hstep]
  rfl

/-- A thread that the group barrier has released. -/
def Thread.released (now : Nat) (_ : Thread) (t : Thread) : Thread :=
  let u := t.keepTid (Thread.delivered now 0 [] none)
  { u with barG := u.barG + 1 }.synced

theorem Thread.released_keeps (now : Nat) (u t : Thread) : (Thread.released now u t).st = .ready ∧ (Thread.released now u t).barG = t.barG + 1 := by
  obtain ⟨hst, hbar⟩ := Thread.delivered_keeps now 0 [] none t
  exact ⟨hst, congrArg (· + 1) hbar⟩

/-- A group whose barrier has released its live threads. -/
def Group.releaseAll (g : Group) (now : Nat) : Group := g.updEach (·.tid) Thread.released now g.live

/-- The group barrier releases its live threads once each of them stands at the same barrier with its loads complete and nothing in the side log. -/
theorem State.settleBarG_eq {s : State} {g : Group} {n : Nat}
    (h : ∀ u ∈ g.live, u.st = .parked (.barG (n + 1)) ∧ u.barG = n ∧ u.nLoad = 0 ∧ s.logOpen g.gid u.tid = false) :
    s.settleBarG g = s.updEach g.gid (·.tid) Thread.released g.live := by
  have hstep : ∀ (s : State) (u : Thread), ((s.deliver g.gid u.tid 0 [] none).updThread g.gid u.tid fun t => { t with barG := t.barG + 1 }.synced)
      = s.updThread g.gid u.tid (Thread.released s.cycle u) := fun s u => State.updThread_updThread ..
  have hfirst : ∀ u ∈ g.live, u.barG = n := fun u hu => (h u hu).2.1
  have hall : (g.live.all fun u => u.st == .parked (.barG (n + 1)) && u.nLoad == 0 && !s.logOpen g.gid u.tid) = true := by
    refine List.all_eq_true.mpr fun u hu => ?_
    obtain ⟨hst, -, hload, hlog⟩ := h u hu
    simp [hst, hload, hlog]
  simp only [State.updEach, ← hstep]
  unfold State.settleBarG
  cases hlive : g.live with
  | nil => rfl
  | cons t ts =>
    rw [hlive] at hall hfirst
    dsimp only
    rw [hfirst t List.mem_cons_self, if_pos hall]

/-! ### Rules that find nothing to do -/

theorem State.settleConverge_of_none {s : State} {g : Group} (h : ∀ t ∈ g.threads, t.arrived = none) : s.settleConverge g = s := by
  have hnone : g.threads.filterMap g.handout = [] := List.filterMap_eq_nil_iff.mpr fun t ht => by rw [Group.handout, h t ht]
  rw [State.settleConverge_eq, hnone]
  rfl

theorem Group.mem_live {g : Group} {t : Thread} : t ∈ g.live ↔ t ∈ g.threads ∧ t.st ≠ .exited := by
  rw [Group.live, List.mem_filter, bne_iff_ne]

section
variable {g : Group} (hn : (g.threads.map (·.tid)).Nodup) (now : Nat)
include hn

theorem Group.live_nodup : (g.live.map (·.tid)).Nodup := hn.sublist (List.filter_sublist.map _)

/-- The barrier's release moves each live thread past it. -/
theorem Group.thread?_releaseAll {u : Thread} (hu : u ∈ g.live) : (g.releaseAll now).thread? u.tid = some (u.keepTid (Thread.released now u)) := by
  rw [Group.releaseAll, Group.thread?_updEach, Group.thread?_of_mem hn (Group.mem_live.mp hu).1, Option.map_some,
    Thread.updBy_of_mem (Group.live_nodup hn) hu rfl]

/-- After the barrier's release every thread has ended or is ready. -/
theorem Group.st_of_mem_releaseAll {t : Thread} (ht : t ∈ (g.releaseAll now).threads) : t.st = .exited ∨ t.st = .ready := by
  obtain ⟨t0, ht0, rfl⟩ := List.mem_map.mp ht
  by_cases hst : t0.st = .exited
  · refine .inl (congrArg Thread.st (Thread.updBy_of_not_mem fun a ha heq => ?_) |>.trans hst)
    obtain ⟨hmem, hlive⟩ := Group.mem_live.mp ha
    exact hlive (List.inj_on_of_nodup_map hn hmem ht0 heq ▸ hst)
  · refine .inr ?_
    rw [Thread.updBy_of_mem (Group.live_nodup hn) (Group.mem_live.mpr ⟨ht0, hst⟩) rfl]
    exact (Thread.released_keeps now t0 t0).1

end

/-- A group with a thread that is ready has not arrived whole at its barrier. -/
theorem State.settleBarG_of_ready {s : State} {g : Group} {x : Thread} (hx : x ∈ g.threads) (hst : x.st = .ready) : s.settleBarG g = s := by
  have hlive : x ∈ g.live := Group.mem_live.mpr ⟨hx, hst ▸ nofun⟩
  unfold State.settleBarG
  cases hl : g.live with
  | nil => rfl
  | cons t ts =>
    rw [hl] at hlive
    refine if_neg fun hall => ?_
    have hno := List.all_eq_true.mp hall x hlive
    simp [hst] at hno

theorem State.settleBarS_of_none {s : State} {g : Group} (h : ∀ t ∈ g.threads, ∀ k w h, t.st ≠ .parked (.barS k w h)) : s.settleBarS g = s := by
  unfold State.settleBarS
  split
  · rename_i hsome
    obtain ⟨t, ht, hst⟩ := List.exists_of_findSome?_eq_some hsome
    split at hst
    · exact absurd ‹_› (h t ht _ _ _)
    · cases hst
  · rfl

/-- A span barrier is not released while a thread of a group of its rectangle is ready. -/
theorem State.settleBarS_of_ready {s : State} {g : Group} {x : Thread} (hg : g ∈ s.groups) (hrole : g.role ≠ .trailer) (hx : x ∈ g.threads)
    (hst : x.st = .ready) : s.settleBarS g = s := by
  have hlive : x ∈ g.live := Group.mem_live.mpr ⟨hx, hst ▸ nofun⟩
  unfold State.settleBarS
  split
  · refine if_neg fun hok => ?_
    rename_i sp k w h _ _
    have hmem : g ∈ s.groups.filter fun h' => h'.sid == g.sid && h'.role != .trailer && sameRect w h h'.core g.core :=
      List.mem_filter.mpr ⟨hg, by simp [hrole, sameRect]⟩
    have hall := List.all_eq_true.mp (Bool.and_eq_true_iff.mp hok).2 g hmem
    have hno := List.all_eq_true.mp hall x hlive
    simp [hst] at hno
  · rfl

/-- A thread that is ready is not woken. -/
theorem State.thread?_settleOwn {s : State} {g : Group} {x : Thread} (hn : (g.threads.map (·.tid)).Nodup) (hx : x ∈ g.threads) (hst : x.st = .ready) (gid : Nat) :
    (s.settleOwn g).thread? gid x.tid = s.thread? gid x.tid := by
  have hother : ∀ t ∈ g.threads.filter fun t => s.ownWake g t, t.tid ≠ x.tid := by
    intro t ht heq
    obtain ⟨hmem, hwake⟩ := List.mem_filter.mp ht
    obtain rfl := List.inj_on_of_nodup_map hn hmem hx heq
    simp [State.ownWake, hst] at hwake
  unfold State.settleOwn
  generalize (g.threads.filter fun t => s.ownWake g t) = ts at hother
  induction ts generalizing s with
  | nil => rfl
  | cons t ts ih =>
    rw [List.foldl_cons, ih fun u hu => hother u (List.mem_cons_of_mem t hu), State.wakeThread, State.thread?_updThread]
    have hne : ¬(gid = g.gid ∧ x.tid = t.tid) := fun h => hother t List.mem_cons_self h.2.symm
    simp [hne]

/-- The wake rules of a group, one after the other, with the group as each of them finds it. -/
theorem State.settleGroup_eq {s : State} {gid : Nat} {g0 g1 g2 g3 : Group} (h0 : s.group? gid = some g0) (h1 : (s.settleConverge g0).group? gid = some g1)
    (h2 : ((s.settleConverge g0).settleBarG g1).group? gid = some g2) (h3 : (((s.settleConverge g0).settleBarG g1).settleBarS g2).group? gid = some g3) :
    s.settleGroup gid = (((s.settleConverge g0).settleBarG g1).settleBarS g2).settleOwn g3 := by
  simp only [State.settleGroup, h0, h1, h2, h3]

/-! ### A thread that parks as it issues (R41) -/

/-- A word that stands alone parks its thread at once. -/
theorem State.stopLane_park {s : State} (ha : s.issue.alone = true) (u : Nat) {c : Cause} (hc : c ≠ .rein) :
    ∃ stops, s.stopLane u (.park c) = ({ s with issue := { s.issue with stops := stops } } : State).parkThread s.issue.gid u c := by
  refine ⟨s.issue.stops ++ [(u, s.issue.slot, .park c)], ?_⟩
  simp only [State.stopLane, ha, if_true, State.applyStop]
  split
  · exact absurd rfl hc
  · rfl

section
variable {s : State} (ha : s.issue.alone = true) (u : Nat) {c : Cause} (hc : c ≠ .rein)
include ha hc

/-- A thread that parks changes its group in itself alone: it stands at its cause. -/
theorem State.group?_stopLane_park {g : Group} (hg : s.group? s.issue.gid = some g) :
    ∃ f : Thread → Thread, (s.stopLane u (.park c)).group? s.issue.gid = some (g.updThread u f)
      ∧ ∀ t, (f t).st = .parked c ∧ (f t).barG = t.barG ∧ (f t).nLoad = t.nLoad := by
  obtain ⟨stops, hpark⟩ := State.stopLane_park ha u hc
  rw [hpark]
  exact ⟨_, State.group?_updThread_self (s := { s with issue := { s.issue with stops := stops } }) hg u _, fun t => ⟨rfl, rfl, rfl⟩⟩

theorem State.logOpen_stopLane_park (gid tid : Nat) : (s.stopLane u (.park c)).logOpen gid tid = s.logOpen gid tid := by
  obtain ⟨stops, hpark⟩ := State.stopLane_park ha u hc
  rw [hpark]
  rfl

end

theorem State.issue_gid_stopLane_park (s : State) (u : Nat) {c : Cause} (hc : c ≠ .rein) : (s.stopLane u (.park c)).issue.gid = s.issue.gid := by
  cases ha : s.issue.alone with
  | true =>
    obtain ⟨stops, hpark⟩ := State.stopLane_park ha u hc
    rw [hpark]
    rfl
  | false =>
    simp only [State.stopLane, ha, Bool.false_eq_true, if_false]

/-- The group of a lane, in the state: its threads, and what the lane sees of it. -/
theorem State.lane?_group {s : State} {u : Nat} {l : Lane} (h : s.lane? u = some l) :
    ∃ g, s.group? s.issue.gid = some g ∧ g.threads = l.g.threads ∧ g.role = l.g.role ∧ g.thread? u = some l.cur := by
  simp only [State.lane?, Option.bind_eq_some_iff, Option.map_eq_some_iff] at h
  obtain ⟨g, hg, t, ht, rfl⟩ := h
  refine ⟨g, hg, ?_, ?_, ht⟩ <;> cases s.issue.usnap <;> rfl

/-! ### Words after which the wake rules are applied -/

section
variable {i : Instr} {f : Lane → State → Except Stop State} {l : Lane} {s : State} (h : Issues i l s)
include h

theorem completesAndWakes_of_thenSettle {eff : State → State} (he : exec i s = thenSettle (runWord i f s)) (hf : f l (s.advanced l) = .ok (eff (s.advanced l))) :
    CompletesAndWakes i l s eff := by
  show exec i s = _
  rw [he, runWord_one h hf]
  rfl

theorem exec_park_of_thenSettle {c : Cause} (hc : c ≠ .rein) (he : exec i s = thenSettle (runWord i f s)) (hf : f l (s.advanced l) = .error (.park c)) :
    exec i s = .next ((s.stopLane l.cur.tid (.park c)).settleGroup s.issue.gid) := by
  rw [he, runWord_one_stop h hf, thenSettle, State.issue_gid_stopLane_park s _ hc]

end

end Sys2Proof.Machine
end

section
/-! SUPPORT. What WAIT, MWAIT, ERRQ and FENCE wait for (R173, R219, R257, R258, R387), and the release of the group barrier (R123, R126). -/

namespace Sys2Proof.Machine

theorem State.mxIdle_iff (s : State) (gid tid : Nat) : s.mxIdle gid tid = true ↔ ∀ c ∈ s.mxs, c.gid = gid → tid ∉ c.tids := by
  simp [State.mxIdle]

theorem State.recordsAccepted_iff (s : State) (gid tid : Nat) :
    s.recordsAccepted gid tid = true ↔ ∀ e ∈ s.errors, e.gid = some gid → (e.tid = 0xFFFF ∨ e.tid = tid ∨ tid ∈ e.tids) → e.accepted = true := by
  rw [State.recordsAccepted, List.all_eq_true]
  refine forall₂_congr fun e _ => ?_
  simp only [Bool.or_eq_true, Bool.and_eq_true, bne_iff_ne, Bool.not_eq_true', List.contains_eq_mem, decide_eq_false_iff_not]
  tauto

end Sys2Proof.Machine
end

section
/-! SUPPORT. What a fence waits for (R219). -/

namespace Sys2Proof.Machine

/-- The time that a fence waits for: of the completion times, the one of its scope. -/
def State.fenceTime (s : State) (g : Group) (x : Thread) (w : FenceWait) : Nat :=
  if ((s.span? g.sid).map Span.oneDie).getD false = true ∧ w.scope = 1 then (s.fenceTimes g x w).1 else (s.fenceTimes g x w).2

/-- Both masks of a fence name its thread alone, or nothing. -/
def FenceWait.threadOnly (w : FenceWait) : Prop := (w.pa = 0 ∧ w.pb = 0) ∨ (w.pa = 1 ∧ w.pb = 1)

/-- What a fence waits for, by its scope. -/
theorem State.fenceDone_iff (s : State) (g : Group) (x : Thread) (w : FenceWait) :
    s.fenceDone g x w = true ↔
      (w.threadOnly ∨ w.pa / 2 ^ 0 % 2 = 1 ∨ w.pa / 2 ^ 3 % 2 = 1 → x.nLoad = 0)
      ∧ (w.pa / 2 ^ 3 % 2 = 1 → ∀ o ∈ s.fieldOps, o.gid = g.gid → o.tid ≠ x.tid)
      ∧ s.logOpen g.gid x.tid = false
      ∧ (1 ≤ w.scope ∨ ¬w.threadOnly → x.nStore = 0 ∧ s.othersStored g w = true)
      ∧ (1 ≤ w.scope → s.fenceTime g x w < s.tsc)
      ∧ (3 ≤ w.scope → ∀ c ∈ s.linkCmds, c.gid = some g.gid → x.tid ∉ c.tids) := by
  have himp : ∀ a b : Bool, (!a || b) = true ↔ (a = true → b = true) := by decide
  have hbit : ∀ k, (bits w.pa k 1 == 1) = true ↔ w.pa / 2 ^ k % 2 = 1 := fun k => beq_iff_eq
  have hthread : (w.pa == 0 && w.pb == 0 || w.pa == 1 && w.pb == 1) = true ↔ w.threadOnly := by
    simp only [Bool.or_eq_true, Bool.and_eq_true, beq_iff_eq, FenceWait.threadOnly]
  unfold State.fenceDone
  dsimp only
  rw [Bool.and_eq_true, Bool.and_eq_true, Bool.and_eq_true, and_assoc, and_assoc]
  refine and_congr ?loads (and_congr ?field (and_congr (iff_of_eq (Bool.not_eq_true' _)) ?scope))
  case loads => rw [himp, Bool.or_eq_true, Bool.or_eq_true, hthread, hbit, hbit, or_assoc, beq_iff_eq]
  case field =>
    rw [himp, hbit]
    simp
  case scope =>
    have hmost : (3 ≤ w.scope → ∀ c ∈ s.linkCmds, c.gid = some g.gid → x.tid ∉ c.tids)
        ↔ (3 ≤ w.scope → (!s.linkCmds.any fun c => c.gid == some g.gid && c.tids.contains x.tid) = true) := by simp
    rw [hmost]
    rcases hscope : w.scope with _ | _ | n
    · refine (iff_of_eq (Bool.or_eq_true _ _)).trans ?_
      rw [hthread]
      simp [or_iff_not_imp_left]
    · simp [State.fenceTime, hscope, and_assoc]
    · have hlinks : 3 ≤ n + 2 ↔ ¬n = 0 := by omega
      simp [State.fenceTime, hscope, and_assoc, hlinks, or_iff_not_imp_left]

/-- The completion times that a fence waits for are no earlier than its thread's own. -/
theorem State.fenceTimes_ge (s : State) (g : Group) (x : Thread) (w : FenceWait) : x.lw ≤ (s.fenceTimes g x w).1 ∧ x.gw ≤ (s.fenceTimes g x w).2 := by
  unfold State.fenceTimes
  generalize (s.owed.filter fun o => o.sid == g.sid && (decide (o.id < w.upto) || (o.gid == g.gid && o.tid == x.tid))) = os
  suffices ∀ m : Nat × Nat, m.1 ≤ (os.foldl (fun m o => (max m.1 o.lw, max m.2 o.gw)) m).1 ∧ m.2 ≤ (os.foldl (fun m o => (max m.1 o.lw, max m.2 o.gw)) m).2 from
    this (x.lw, x.gw)
  induction os with
  | nil => exact fun m => ⟨le_rfl, le_rfl⟩
  | cons o os ih =>
    intro m
    obtain ⟨hlw, hgw⟩ := ih (max m.1 o.lw, max m.2 o.gw)
    exact ⟨(le_max_left _ _).trans hlw, (le_max_left _ _).trans hgw⟩

section
variable {s : State} {g : Group} {x : Thread} {w : FenceWait}

/-- The thread's own completion time of the fence's scope. -/
def State.ownTime (s : State) (g : Group) (x : Thread) (w : FenceWait) : Nat :=
  if ((s.span? g.sid).map Span.oneDie).getD false = true ∧ w.scope = 1 then x.lw else x.gw

theorem State.ownTime_le_fenceTime : s.ownTime g x w ≤ s.fenceTime g x w := by
  obtain ⟨hlw, hgw⟩ := s.fenceTimes_ge g x w
  unfold State.ownTime State.fenceTime
  split
  · exact hlw
  · exact hgw

theorem State.fenceTime_of_owed_nil (h : s.owed = []) : s.fenceTime g x w = s.ownTime g x w := by
  rw [State.fenceTime, State.fenceTimes, h]
  rfl

/-- Where no store is on its way, no other thread has one that a fence waits for. -/
theorem State.othersStored_of_none (haccs : ∀ a ∈ s.accs, a.cls ≠ 1) (htandems : s.tandems = []) : s.othersStored g w = true := by
  have hno : (s.accs.any fun a => a.cls == 1 && s.before g w a.gid a.id) = false :=
    List.any_eq_false.mpr fun a ha => by simp [haccs a ha]
  rw [State.othersStored, hno, htandems]
  exact Bool.or_true _

/-- What a fence waits for of its own thread, by the masks and the scope (R219). -/
def State.ownFenceWaits (s : State) (g : Group) (x : Thread) (w : FenceWait) : Prop :=
  ((w.pa / 2 ^ 0 % 2 = 1 ∨ (w.pa = 0 ∧ w.pb = 0)) ∨ w.pa / 2 ^ 3 % 2 = 1 → x.nLoad = 0)
  ∧ (w.pa / 2 ^ 3 % 2 = 1 → ∀ o ∈ s.fieldOps, o.gid = g.gid → o.tid ≠ x.tid)
  ∧ s.logOpen g.gid x.tid = false
  ∧ (1 ≤ w.scope ∨ ¬w.threadOnly → x.nStore = 0)
  ∧ (1 ≤ w.scope → s.ownTime g x w < s.tsc)
  ∧ (3 ≤ w.scope → ∀ c ∈ s.linkCmds, c.gid = some g.gid → x.tid ∉ c.tids)

/-- A mask that names its thread alone, or nothing, names the thread. -/
theorem FenceWait.names_of_threadOnly (h : w.threadOnly) : w.pa / 2 ^ 0 % 2 = 1 ∨ (w.pa = 0 ∧ w.pb = 0) := by
  rcases h with h0 | ⟨h1, -⟩
  · exact .inr h0
  · exact .inl (by rw [h1]; rfl)

theorem State.ownFenceWaits_of_fenceDone (h : s.fenceDone g x w = true) : s.ownFenceWaits g x w := by
  obtain ⟨hloads, hfield, hlog, hstores, htime, hlinks⟩ := (s.fenceDone_iff g x w).mp h
  refine ⟨fun hmask => hloads ?_, hfield, hlog, fun hs => (hstores hs).1, fun hs => State.ownTime_le_fenceTime.trans_lt (htime hs), hlinks⟩
  rcases hmask with (h0 | h0) | h3
  · exact .inr (.inl h0)
  · exact .inl (.inl h0)
  · exact .inr (.inr h3)

/-- Where no other thread has a store or a completion time, a fence waits for nothing but its own thread. -/
theorem State.fenceDone_of_ownFenceWaits (h : s.ownFenceWaits g x w) (haccs : ∀ a ∈ s.accs, a.cls ≠ 1) (htandems : s.tandems = []) (howed : s.owed = []) :
    s.fenceDone g x w = true := by
  obtain ⟨hloads, hfield, hlog, hstores, htime, hlinks⟩ := h
  refine (s.fenceDone_iff g x w).mpr ⟨fun hmask => hloads ?_, hfield, hlog, fun hs => ⟨hstores hs, State.othersStored_of_none haccs htandems⟩,
    fun hs => (State.fenceTime_of_owed_nil howed).trans_lt (htime hs), hlinks⟩
  rcases hmask with hthread | h0 | h3
  · exact .inl (FenceWait.names_of_threadOnly hthread)
  · exact .inl (.inl h0)
  · exact .inr h3

end

end Sys2Proof.Machine
end

section
/-! SUPPORT. The words of the barriers (R123, R124, R126), and the release of the group barrier. -/

namespace Sys2Proof.Machine

/-- What BAR.G does before its thread is granted: it parks at the next barrier. -/
def barGWait (l : Lane) (_ : State) : Except Stop State := .error (.park (.barG (l.src.barG + 1)))

/-- What BAR.S does before its thread is granted: it parks at the next barrier, where its rectangle is no larger than the span. -/
def barSWait (w h : BitVec 4) (l : Lane) (s : State) : Except Stop State :=
  let fits := ((s.span? l.g.sid).map fun x => decide (2 ^ w.toNat ≤ x.w) && decide (2 ^ h.toNat ≤ x.h)).getD false
  if fits then .error (.park (.barS (l.src.barS + 1) w.toNat h.toNat)) else .error illegal

theorem exec_barG (s : State) : exec .barG s = thenSettle (runWord .barG (orGranted barGWait) s) := rfl

theorem exec_barS (w h : BitVec 4) (s : State) : exec (.barS w h) s = thenSettle (runWord (.barS w h) (orGranted (barSWait w h)) s) := rfl

theorem barSWait_fits {w h : BitVec 4} {l : Lane} {s : State} {x : Span} (hx : s.span? l.g.sid = some x) (hw : 2 ^ w.toNat ≤ x.w) (hh : 2 ^ h.toNat ≤ x.h) :
    barSWait w h l s = .error (.park (.barS (l.src.barS + 1) w.toNat h.toNat)) := by
  simp [barSWait, hx, hw, hh]

/-- Once every live thread of a group stands at one of its barriers, with its loads complete and nothing in the side log, the wake rules of
the group leave each of them ready, past that barrier. -/
theorem State.settleGroup_releases {s : State} {gid : Nat} {g : Group} {n : Nat} (hg : s.group? gid = some g) (hn : (g.threads.map (·.tid)).Nodup)
    (h : ∀ u ∈ g.live, u.st = .parked (.barG (n + 1)) ∧ u.barG = n ∧ u.nLoad = 0 ∧ s.logOpen gid u.tid = false) {u : Thread} (hu : u ∈ g.live) :
    ∃ v, (s.settleGroup gid).thread? gid u.tid = some v ∧ v.st = .ready ∧ v.barG = n + 1 := by
  obtain rfl := State.group?_gid hg
  have hstands : ∀ t ∈ g.threads, t.st = .exited ∨ t.st = .parked (.barG (n + 1)) := fun t ht => by
    by_cases hst : t.st = .exited
    · exact .inl hst
    · exact .inr (h t (Group.mem_live.mpr ⟨ht, hst⟩)).1
  have hconverge : s.settleConverge g = s := State.settleConverge_of_none fun t ht => by
    rcases hstands t ht with hst | hst <;> rw [Thread.arrived, hst]
  have hg2 : (s.settleBarG g).group? g.gid = some (g.releaseAll s.cycle) := State.settleBarG_eq h ▸ State.group?_updEach hg (Group.live_nodup hn)
  have hbarS : (s.settleBarG g).settleBarS (g.releaseAll s.cycle) = s.settleBarG g :=
    State.settleBarS_of_none fun t ht k w h => by rcases Group.st_of_mem_releaseAll hn _ ht with hst | hst <;> exact hst ▸ nofun
  have hrules : s.settleGroup g.gid = (s.settleBarG g).settleOwn (g.releaseAll s.cycle) := by
    rw [State.settleGroup_eq hg (hconverge.symm ▸ hg) (hconverge.symm ▸ hg2) (by rw [hconverge, hbarS]; exact hg2), hconverge, hbarS]
  obtain ⟨hready, hpast⟩ := Thread.released_keeps s.cycle u u
  have hthread := Group.thread?_releaseAll hn s.cycle hu
  have hmem : u.keepTid (Thread.released s.cycle u) ∈ (g.releaseAll s.cycle).threads := List.mem_of_find?_eq_some hthread
  have hnodup : ((g.releaseAll s.cycle).threads.map (·.tid)).Nodup := (Group.updEach_tids ..).symm ▸ hn
  refine ⟨_, ?_, hready, hpast.trans (by rw [(h u hu).2.1])⟩
  rw [hrules]
  exact (State.thread?_settleOwn hnodup hmem hready g.gid).trans (by rw [State.thread?, hg2, Option.bind_some]; exact hthread)

/-! ### The last arrival at the group barrier -/

section
variable {g : Group} {x : Thread} {f : Thread → Thread} (hf : ∀ t, (f t).st = .parked (.barG (x.barG + 1)) ∧ (f t).barG = t.barG ∧ (f t).nLoad = t.nLoad)
include hf

/-- As the last thread arrives, every live thread of the group stands at its barrier. -/
theorem Group.stands_of_mem_live (hn : (g.threads.map (·.tid)).Nodup) (hx : x ∈ g.threads)
    (hothers : ∀ u ∈ g.threads, u.tid ≠ x.tid → u.st = .exited ∨ (u.st = .parked (.barG (x.barG + 1)) ∧ u.barG = x.barG))
    {t : Thread} (ht : t ∈ (g.updThread x.tid f).live) :
    t.st = .parked (.barG (x.barG + 1)) ∧ t.barG = x.barG ∧ ∃ u ∈ g.threads, t.tid = u.tid ∧ t.nLoad = u.nLoad := by
  obtain ⟨hmem, hlive⟩ := Group.mem_live.mp ht
  obtain ⟨u, hu, rfl⟩ := Group.mem_updThread.mp hmem
  by_cases htid : u.tid = x.tid
  · obtain rfl := List.inj_on_of_nodup_map hn hu hx htid
    obtain ⟨hst, hbar, hload⟩ := hf u
    rw [if_pos rfl]
    exact ⟨hst, hbar, u, hu, rfl, hload⟩
  · rw [if_neg htid] at hlive ⊢
    obtain ⟨hst, hbar⟩ := (hothers u hu htid).resolve_left hlive
    exact ⟨hst, hbar, u, hu, rfl, rfl⟩

theorem Group.exists_live_updThread {u : Thread} (hu : u ∈ g.threads) (hst : u.st ≠ .exited) : ∃ t ∈ (g.updThread x.tid f).live, t.tid = u.tid := by
  refine ⟨_, Group.mem_live.mpr ⟨Group.mem_updThread.mpr ⟨u, hu, rfl⟩, ?_⟩, ?_⟩
  · split
    · exact (hf u).1 ▸ nofun
    · exact hst
  · split <;> rfl

end

/-- The group barrier releases every live thread as the last of them arrives (R123, R126). -/
theorem exec_barG_last {l : Lane} {s : State} (hi : Issues .barG l s) (hgrant : l.grant s = none) (ha : s.issue.alone = true)
    (hn : (l.g.threads.map (·.tid)).Nodup) (hsrc : l.src = l.cur)
    (hothers : ∀ u ∈ l.g.threads, u.tid ≠ l.cur.tid → u.st = .exited ∨ (u.st = .parked (.barG (l.cur.barG + 1)) ∧ u.barG = l.cur.barG))
    (hclean : ∀ u ∈ l.g.threads, u.nLoad = 0 ∧ s.logOpen s.issue.gid u.tid = false) :
    ∃ t, exec .barG s = .next t ∧ ∀ u ∈ l.g.threads, u.st ≠ .exited →
      ∃ v, t.thread? s.issue.gid u.tid = some v ∧ v.st = .ready ∧ v.barG = l.cur.barG + 1 := by
  obtain ⟨g, hg, hthreads, -, hcur⟩ := State.lane?_group hi.2.1
  have hwait : ∀ n, Cause.barG n ≠ .rein := fun _ => nofun
  obtain ⟨f, hpark, hf⟩ := State.group?_stopLane_park ha l.cur.tid (hwait (l.src.barG + 1)) hg
  have hexec := exec_park_of_thenSettle hi (hwait _) (exec_barG s) (orGranted_none (s := s.advanced l) hgrant)
  rw [← hthreads] at hn hothers hclean ⊢
  rw [hsrc] at hf
  refine ⟨_, hexec, fun u hu hst => ?_⟩
  obtain ⟨t, ht, htid⟩ := Group.exists_live_updThread hf hu hst
  refine htid ▸ State.settleGroup_releases hpark ((Group.updThread_tids ..).symm ▸ hn) (fun t ht => ?_) ht
  obtain ⟨hst, hbar, w, hw, hwtid, hload⟩ := Group.stands_of_mem_live hf hn (List.mem_of_find?_eq_some hcur) hothers ht
  exact ⟨hst, hbar, hload.trans (hclean w hw).1, by rw [State.logOpen_stopLane_park ha _ (hwait _), hwtid]; exact (hclean w hw).2⟩

end Sys2Proof.Machine
end

section
/-! THEOREMS. The words that wait, and the barriers. -/

open Sys2Proof Sys2Proof.Machine

/-- Settles O16: each word is one branch of its meaning; a fence by what it waits for, and the group barrier by its wake rule at the last arrival. -/
theorem waitingAndBarrierWords : Obligations.WaitingAndBarrierWords := by
  refine ⟨fun c d k1 k2 k3 k4 sc m n s l => ?waits, fun w h s l => ?barriers⟩
  case waits =>
    intro s0 le counts still f
    have hcounts : counts ↔ ((k1 == 15 || decide (l.src.nLoad ≤ k1.toNat)) && (k2 == 15 || decide (l.src.nStore ≤ k2.toNat))
        && (k3 == 15 || decide (l.src.nCopy ≤ k3.toNat)) && (k4 == 15 || decide (l.src.nTile ≤ k4.toNat))) = true := by
      simp only [Bool.and_eq_true, Bool.or_eq_true, beq_iff_eq, decide_eq_true_iff, and_assoc]
      rfl
    exact ⟨fun hi hc => runWord_one hi (if_pos (hcounts.mp hc)), fun hi hc => runWord_one_stop hi (if_neg (mt hcounts.mpr hc)),
      fun hi hidle => runWord_one hi (if_pos hidle), fun hi hs => runWord_one hi (if_pos hs),
      fun hi hbusy => runWord_one_stop hi (if_neg (ne_true_of_eq_false hbusy)), fun hi hs => runWord_one_stop hi (if_neg hs),
      fun hi hdone => runWord_one hi (if_pos hdone), fun hi hnot => runWord_one_stop hi (if_neg (ne_true_of_eq_false hnot)),
      fun t gid tid g x w => ⟨t.mxIdle_iff gid tid, t.recordsAccepted_iff gid tid, State.ownFenceWaits_of_fenceDone, State.fenceDone_of_ownFenceWaits⟩⟩
  case barriers =>
    intro arrived
    have hwait : ∀ n, Cause.barG n ≠ .rein := fun _ => nofun
    have hwaitS : ∀ n w h, Cause.barS n w h ≠ .rein := fun _ _ _ => nofun
    exact ⟨fun hi hg => completesAndWakes_of_thenSettle hi (exec_barG s) (orGranted_some (s := s.advanced l) hg),
      fun hi hg => completesAndWakes_of_thenSettle hi (exec_barS w h s) (orGranted_some (s := s.advanced l) hg),
      fun hi hg => exec_park_of_thenSettle hi (hwait _) (exec_barG s) (orGranted_none (s := s.advanced l) hg),
      fun hi hg ⟨x, hx, hw, hh⟩ =>
        exec_park_of_thenSettle hi (hwaitS _ _ _) (exec_barS w h s) ((orGranted_none (s := s.advanced l) hg).trans (barSWait_fits hx hw hh)),
      fun hi hg ha hn hsrc _ hothers hclean => exec_barG_last hi hg ha hn hsrc hothers hclean⟩
end

section
/-! SUPPORT. A convergence point (R127, R128) and what it gives each of its members (R129, R130). -/

namespace Sys2Proof.Machine

/-! ### The members of a set, and what they gave -/

/-- What a thread of a group gave at a convergence point: zero where it has ended or there is none. -/
def Group.given (g : Group) (u : Nat) : Word := (((g.thread? u).bind Thread.arrived).map (·.2.2.1)).getD 0

/-- The set of a member knows what each thread of its block gave. -/
theorem Group.valOf_setOf (g : Group) {op t u : Nat} (h : u / blockOf op = t / blockOf op) : (valOf (g.setOf op t) u).1 = g.given u := by
  have hfind : (g.setOf op t).find? (fun x => x.tid == u) = g.thread? u := by
    rw [Group.setOf, List.find?_filter]
    refine List.find?_congr fun x _ => ?_
    by_cases hx : x.tid = u <;> simp [hx, h]
  rw [valOf, hfind, Group.given]
  cases (g.thread? u).bind Thread.arrived <;> rfl

/-- The members of a set have one set. -/
theorem Group.setOf_of_mem {g : Group} {op t : Nat} {u : Thread} (hu : u ∈ g.setOf op t) : u ∈ g.threads ∧ g.setOf op u.tid = g.setOf op t := by
  obtain ⟨hmem, hblock⟩ := List.mem_filter.mp hu
  exact ⟨hmem, by rw [Group.setOf, Group.setOf, beq_iff_eq.mp hblock]⟩

theorem xor_div_two_pow_of_lt (t : Nat) {k n : Nat} (h : k < 2 ^ n) : (t ^^^ k) / 2 ^ n = t / 2 ^ n := by
  rw [Nat.xor_div_two_pow, Nat.div_eq_of_lt h, Nat.xor_zero]

/-- A member whose value another receives is of that one's block. -/
theorem partnerOf_div {op t u : Nat} {b : Word} (h : partnerOf op t b = some u) : u / blockOf op = t / blockOf op := by
  unfold partnerOf at h
  split at h
  · exact Option.some.inj h ▸ xor_div_two_pow_of_lt t (n := 1) (by decide)
  · exact Option.some.inj h ▸ xor_div_two_pow_of_lt t (n := 2) (by decide)
  · exact Option.some.inj h ▸ xor_div_two_pow_of_lt t (n := 2) (by decide)
  · obtain rfl := Option.some.inj h
    show (32 * (t / 32) + b.toNat % 32) / 32 = t / 32
    omega
  · exact Option.some.inj h ▸ xor_div_two_pow_of_lt t (n := 5) (Nat.mod_lt _ (by decide))
  · cases h

/-- A word that passes one member's value gives what that member gave. -/
theorem Group.exchangeResult_partner (g : Group) {op t u : Nat} {b : Word} (h : partnerOf op t b = some u) :
    (exchangeResult op t b (g.setOf op t)).1 = g.given u := by
  rw [← g.valOf_setOf (partnerOf_div h)]
  simp only [exchangeResult, h]

/-! ### The words that combine the values of a set -/

/-- The set of a word over 32 threads. -/
def Group.block (g : Group) (t : Nat) : List Thread := g.threads.filter fun u => u.tid / 32 == t / 32

theorem Group.mem_block {g : Group} {t : Nat} {u : Thread} : u ∈ g.block t ↔ u ∈ g.threads ∧ u.tid / 32 = t / 32 := by
  rw [Group.block, List.mem_filter, beq_iff_eq]

/-- What the threads that have arrived gave, with their indices and whether it is poisoned. -/
def arrivals (set : List Thread) : List (Nat × Word × Bool) := set.filterMap fun t => t.arrived.map fun x => (t.tid, x.2.2.1, x.2.2.2.2)

theorem mem_arrivals {set : List Thread} {y : Nat × Word × Bool} :
    y ∈ arrivals set ↔ ∃ u ∈ set, ∃ x, u.arrived = some x ∧ (u.tid, x.2.2.1, x.2.2.2.2) = y := by
  simp only [arrivals, List.mem_filterMap, Option.map_eq_some_iff]

section
variable {g : Group} (hn : (g.threads.map (·.tid)).Nodup)
include hn

theorem Group.given_of_arrived {u : Thread} (hu : u ∈ g.threads) {x : Nat × Nat × Word × Word × Bool} (hx : u.arrived = some x) : g.given u.tid = x.2.2.1 := by
  rw [Group.given, Group.thread?_of_mem hn hu, Option.bind_some, hx]
  rfl

omit hn in
/-- A thread that gave something other than zero has arrived. -/
theorem Group.arrived_of_given_ne_zero {n : Nat} (h : g.given n ≠ 0) : ∃ u ∈ g.threads, u.tid = n ∧ ∃ x, u.arrived = some x := by
  unfold Group.given at h
  cases hu : g.thread? n with
  | none => exact absurd (by rw [hu]; rfl) h
  | some u =>
    cases hx : u.arrived with
    | none => exact absurd (by rw [hu, Option.bind_some, hx]; rfl) h
    | some x => exact ⟨u, List.mem_of_find?_eq_some hu, Group.thread?_tid hu, x, hx⟩

theorem Group.any_arrivals (t : Nat) : ((arrivals (g.block t)).any fun x => x.2.1 != 0) = true ↔ ∃ u ∈ g.block t, g.given u.tid ≠ 0 := by
  rw [List.any_eq_true]
  constructor
  · rintro ⟨y, hy, hne⟩
    obtain ⟨u, hu, x, hx, rfl⟩ := mem_arrivals.mp hy
    exact ⟨u, hu, by rw [Group.given_of_arrived hn (Group.mem_block.mp hu).1 hx]; exact bne_iff_ne.mp hne⟩
  · rintro ⟨u, hu, hne⟩
    obtain ⟨v, hv, htid, x, hx⟩ := Group.arrived_of_given_ne_zero hne
    obtain rfl := List.inj_on_of_nodup_map hn hv (Group.mem_block.mp hu).1 htid
    rw [Group.given_of_arrived hn hv hx] at hne
    exact ⟨_, mem_arrivals.mpr ⟨v, hu, x, hx, rfl⟩, bne_iff_ne.mpr hne⟩

theorem Group.all_arrivals {t : Nat} (hall : ∀ u ∈ g.block t, u.st = .exited ∨ ∃ x, u.arrived = some x) :
    ((arrivals (g.block t)).all fun x => x.2.1 != 0) = true ↔ ∀ u ∈ g.block t, u.st ≠ .exited → g.given u.tid ≠ 0 := by
  rw [List.all_eq_true]
  constructor
  · intro h u hu hst
    obtain ⟨x, hx⟩ := (hall u hu).resolve_left hst
    rw [Group.given_of_arrived hn (Group.mem_block.mp hu).1 hx]
    exact bne_iff_ne.mp (h _ (mem_arrivals.mpr ⟨u, hu, x, hx, rfl⟩))
  · intro h y hy
    obtain ⟨u, hu, x, hx, rfl⟩ := mem_arrivals.mp hy
    have hlive : u.st ≠ .exited := fun hst => by rw [Thread.arrived, hst] at hx; cases hx
    have hne := h u hu hlive
    rw [Group.given_of_arrived hn (Group.mem_block.mp hu).1 hx] at hne
    exact bne_iff_ne.mpr hne

omit hn in
theorem Group.map_valOf (t : Nat) : ((g.block t).map fun u => (valOf (g.block t) u.tid).1) = (g.block t).map fun u => g.given u.tid :=
  List.map_congr_left fun _ hu => g.valOf_setOf (op := 5) (Group.mem_block.mp hu).2

end

theorem getLsbD_foldl_or {α : Type} (p : α → Bool) (k : α → Nat) (l : List α) (v : Word) {j : Nat} (hj : j < 32) :
    (l.foldl (fun v x => if p x then v ||| BitVec.ofNat 32 (2 ^ k x) else v) v).getLsbD j = (v.getLsbD j || l.any fun x => p x && k x == j) := by
  induction l generalizing v with
  | nil => exact (Bool.or_false _).symm
  | cons x l ih =>
    rw [List.foldl_cons, ih, List.any_cons, ← Bool.or_assoc]
    congr 1
    cases p x with
    | false => simp
    | true =>
      rw [if_pos rfl, BitVec.getLsbD_or, BitVec.getLsbD_ofNat, Nat.testBit_two_pow, decide_eq_true hj, Bool.true_and, Bool.true_and]
      rfl

/-- A fold that takes each element below the one at hand, by a key, ends with a least one. -/
theorem foldl_least {α : Type} {key : α → Int} {lt : α → α → Bool} (hlt : ∀ x y, lt x y = true ↔ key x < key y) (l : List α) (m : α) :
    let r := l.foldl (fun m x => if lt x m then x else m) m
    (r = m ∨ r ∈ l) ∧ key r ≤ key m ∧ ∀ x ∈ l, key r ≤ key x := by
  induction l generalizing m with
  | nil => exact ⟨.inl rfl, le_rfl, nofun⟩
  | cons y l ih =>
    have hy := hlt y m
    obtain ⟨hmem, hfirst, hrest⟩ := ih (if lt y m then y else m)
    rw [List.foldl_cons]
    by_cases h : lt y m = true
    · rw [if_pos h] at hmem hfirst hrest ⊢
      exact ⟨.inr (List.mem_cons.mpr hmem), hfirst.trans (hy.mp h).le, List.forall_mem_cons.mpr ⟨hfirst, hrest⟩⟩
    · rw [if_neg h] at hmem hfirst hrest ⊢
      have hle : key m ≤ key y := not_lt.mp (mt hy.mpr h)
      exact ⟨hmem.imp_right (List.mem_cons_of_mem y), hfirst, List.forall_mem_cons.mpr ⟨hfirst.trans hle, hrest⟩⟩

/-- What a member of a set is given by a word that takes the least of the values by a key. -/
theorem Group.least_of_block {key : Word → Int} {lt : Word → Word → Bool} (hlt : ∀ x y, lt x y = true ↔ key x < key y) (g : Group) {t : Nat} {u : Thread}
    (hu : u ∈ g.block t) :
    let all := (g.block t).map fun u => (valOf (g.block t) u.tid).1
    let r := all.foldl (fun m x => if lt x m then x else m) (all.headD 0)
    (∃ u ∈ g.block t, r = g.given u.tid) ∧ ∀ u ∈ g.block t, key r ≤ key (g.given u.tid) := by
  intro all r
  have hall : all = (g.block t).map fun u => g.given u.tid := g.map_valOf t
  obtain ⟨hmem, -, hle⟩ := foldl_least hlt all (all.headD 0)
  have hhead : all.headD 0 ∈ all := by
    have hne : all ≠ [] := fun h => List.ne_nil_of_mem (List.mem_map_of_mem hu) h
    cases h : all with
    | nil => exact absurd h hne
    | cons x xs => exact List.mem_cons_self
  have hr : r ∈ all := hmem.elim (fun h => (show r = all.headD 0 from h) ▸ hhead) id
  rw [hall] at hr
  obtain ⟨v, hv, hval⟩ := List.mem_map.mp hr
  exact ⟨⟨v, hv, hval.symm⟩, fun w hw => hle _ (hall ▸ List.mem_map_of_mem hw)⟩

/-- BALLOT's bit j is whether thread j of the block gave something other than zero (R129). -/
theorem Group.getLsbD_ballot {g : Group} (hn : (g.threads.map (·.tid)).Nodup) (t : Nat) {j : Nat} (hj : j < 32) :
    ((arrivals (g.block t)).foldl (fun v x => if x.2.1 != 0 then v ||| BitVec.ofNat 32 (2 ^ (x.1 - 32 * (t / 32))) else v) (0 : Word)).getLsbD j
      = (g.given (32 * (t / 32) + j) != 0) := by
  rw [getLsbD_foldl_or (α := Nat × Word × Bool) (fun x => x.2.1 != 0) (fun x => x.1 - 32 * (t / 32)) _ _ hj,
    show (0 : Word).getLsbD j = false from BitVec.getLsbD_zero, Bool.false_or, Bool.eq_iff_iff, List.any_eq_true, bne_iff_ne]
  constructor
  · rintro ⟨y, hy, hbit⟩
    obtain ⟨u, hu, x, hx, rfl⟩ := mem_arrivals.mp hy
    obtain ⟨hne, hindex⟩ := Bool.and_eq_true_iff.mp hbit
    obtain ⟨hmem, hblock⟩ := Group.mem_block.mp hu
    have htid : 32 * (t / 32) + j = u.tid := by
      have := beq_iff_eq.mp hindex
      omega
    rw [htid, Group.given_of_arrived hn hmem hx]
    exact bne_iff_ne.mp hne
  · intro hne
    obtain ⟨u, hu, htid, x, hx⟩ := Group.arrived_of_given_ne_zero hne
    rw [← htid, Group.given_of_arrived hn hu hx] at hne
    have hblock : u ∈ g.block t := Group.mem_block.mpr ⟨hu, by omega⟩
    refine ⟨_, mem_arrivals.mpr ⟨u, hblock, x, hx, rfl⟩, Bool.and_eq_true_iff.mpr ⟨bne_iff_ne.mpr hne, beq_iff_eq.mpr ?_⟩⟩
    show u.tid - 32 * (t / 32) = j
    omega

/-! ### Completion -/

/-- A list's filtered image has its keys among the list's, in order. -/
theorem map_filterMap_sublist {α β : Type} {f : α → Option β} {key : β → Nat} {key' : α → Nat} (h : ∀ a b, f a = some b → key b = key' a) (l : List α) :
    ((l.filterMap f).map key).Sublist (l.map key') := by
  induction l with
  | nil => exact List.Sublist.refl _
  | cons a l ih =>
    rw [List.filterMap_cons]
    cases hf : f a with
    | none => exact ih.cons _
    | some b =>
      rw [List.map_cons, List.map_cons, h a b hf]
      exact ih.cons_cons _

theorem Group.handout_tid {g : Group} (t : Thread) (r : Nat × Nat × Word × Option DWord) (h : g.handout t = some r) : r.1 = t.tid := by
  unfold Group.handout at h
  split at h
  · split at h
    · cases h
      rfl
    · cases h
  · cases h

/-- What a thread has of its set once every live member stands at its word (R128). -/
theorem Group.handout_of_complete {g : Group} {t : Thread} {x : Nat × Nat × Word × Word × Bool} (hx : t.arrived = some x)
    (hall : ∀ u ∈ g.setOf x.1 t.tid, u.st = .exited ∨ (u.pc = t.pc ∧ u.arrived.map (·.1) = some x.1)) :
    g.handout t = some (t.tid, x.2.1, (exchangeResult x.1 t.tid x.2.2.2.1 (g.setOf x.1 t.tid)).1, exchangeEnters x.1 t.tid x.2.2.2.1 (g.setOf x.1 t.tid)) := by
  have hcomplete : g.setComplete t x.1 = true := by
    refine List.all_eq_true.mpr fun u hu => ?_
    rcases hall u hu with hst | ⟨hpc, hop⟩
    · simp [hst]
    · simp [hpc, hop]
  rw [Group.handout, hx]
  exact if_pos hcomplete

/-- A thread whose set is complete has its result once the wake rules of its group have been applied: it is ready, and so is left alone by the barriers
and by the rules for a thread's own operations. -/
theorem State.settleGroup_gives {s : State} {gid : Nat} {g : Group} (hg : s.group? gid = some g) (hn : (g.threads.map (·.tid)).Nodup) (hrole : g.role ≠ .trailer)
    {u : Thread} (hu : u ∈ g.threads) {r : Nat × Nat × Word × Option DWord} (hr : g.handout u = some r) :
    (s.settleGroup gid).thread? gid u.tid = some (u.keepTid (Thread.received s.cycle r)) := by
  obtain rfl := State.group?_gid hg
  have hkeys : ((g.threads.filterMap g.handout).map (·.1)).Nodup := hn.sublist (map_filterMap_sublist Group.handout_tid g.threads)
  have hg1 : (s.settleConverge g).group? g.gid = some (g.updEach (·.1) Thread.received s.cycle (g.threads.filterMap g.handout)) :=
    State.settleConverge_eq s g ▸ State.group?_updEach hg hkeys
  have hthread : (g.updEach (·.1) Thread.received s.cycle (g.threads.filterMap g.handout)).thread? u.tid = some (u.keepTid (Thread.received s.cycle r)) := by
    rw [Group.thread?_updEach, Group.thread?_of_mem hn hu, Option.map_some,
      Thread.updBy_of_mem hkeys (List.mem_filterMap.mpr ⟨u, hu, hr⟩) (Group.handout_tid u r hr).symm]
  have hrole1 : (g.updEach (·.1) Thread.received s.cycle (g.threads.filterMap g.handout)).role ≠ .trailer := hrole
  have hn1 : ((g.updEach (·.1) Thread.received s.cycle (g.threads.filterMap g.handout)).threads.map (·.tid)).Nodup := (Group.updEach_tids ..).symm ▸ hn
  generalize g.updEach (·.1) Thread.received s.cycle (g.threads.filterMap g.handout) = g1 at hg1 hthread hrole1 hn1
  have hmem : u.keepTid (Thread.received s.cycle r) ∈ g1.threads := List.mem_of_find?_eq_some hthread
  have hready : (u.keepTid (Thread.received s.cycle r)).st = .ready := (Thread.delivered_keeps s.cycle r.2.1 [r.2.2.1] r.2.2.2 u).1
  have hbarG : (s.settleConverge g).settleBarG g1 = s.settleConverge g := State.settleBarG_of_ready hmem hready
  have hbarS : (s.settleConverge g).settleBarS g1 = s.settleConverge g := State.settleBarS_of_ready (List.mem_of_find?_eq_some hg1) hrole1 hmem hready
  rw [State.settleGroup_eq hg hg1 (by rw [hbarG]; exact hg1) (by rw [hbarG, hbarS]; exact hg1), hbarG, hbarS]
  exact (State.thread?_settleOwn hn1 hmem hready g.gid).trans (by rw [State.thread?, hg1, Option.bind_some]; exact hthread)

/-- A lane-exchange word at which the last live member of its set arrives gives every arrived member of the set its result (R127, R128). -/
theorem exchange_completes {i : Instr} {op d a vb : Nat} {s : State} {l : Lane} {g : Group} (he : exec i s = exchange i op d a vb s) (hgrant : l.grant s = none)
    (ha : s.issue.alone = true) (hrole : l.g.role = .solo) (hn : (l.g.threads.map (·.tid)).Nodup) (hi : Issues i l s) :
    let s1 := s.stopLane l.cur.tid (.park (.converge op d (l.src.reg a) (l.src.reg vb) (l.src.anyPoison [a])))
    s1.group? s.issue.gid = some g →
      (∀ u ∈ g.setOf op l.cur.tid, u.st = .exited ∨ (u.pc = l.cur.pc ∧ u.arrived.map (·.1) = some op)) →
      (g.threads.map (·.tid)).Nodup ∧ ∃ t, exec i s = .next t ∧ ∀ u ∈ g.setOf op l.cur.tid, ∀ x, u.arrived = some x →
        t.thread? s.issue.gid u.tid = ((s1.deliver s.issue.gid u.tid x.2.1 [(exchangeResult op u.tid x.2.2.2.1 (g.setOf op u.tid)).1]
          (exchangeEnters op u.tid x.2.2.2.1 (g.setOf op u.tid))).thread? s.issue.gid u.tid).map Thread.synced := by
  intro s1 hg hall
  have hcause : Cause.converge op d (l.src.reg a) (l.src.reg vb) (l.src.anyPoison [a]) ≠ .rein := nofun
  have hlater : l.grant (s.advanced l) = none := hgrant
  have hexec : exec i s = .next (s1.settleGroup s.issue.gid) := exec_park_of_thenSettle hi hcause he (by rw [hlater])
  obtain ⟨g0, hg0, hthreads, hrole0, -⟩ := State.lane?_group hi.2.1
  obtain ⟨f, hpark, -⟩ := State.group?_stopLane_park ha l.cur.tid hcause hg0
  obtain rfl : g = g0.updThread l.cur.tid f := Option.some.inj (hg.symm.trans hpark)
  have hnodup : ((g0.updThread l.cur.tid f).threads.map (·.tid)).Nodup := (Group.updThread_tids ..).symm ▸ hthreads ▸ hn
  have hsolo : (g0.updThread l.cur.tid f).role ≠ .trailer := by
    show g0.role ≠ .trailer
    rw [hrole0, hrole]
    nofun
  generalize g0.updThread l.cur.tid f = g at hg hall hnodup hsolo
  refine ⟨hnodup, _, hexec, fun u hu x hx => ?_⟩
  obtain ⟨hmem, hset⟩ := Group.setOf_of_mem hu
  have hlive : u.st ≠ .exited := fun hst => by rw [Thread.arrived, hst] at hx; cases hx
  obtain ⟨hpc, hop⟩ := (hall u hu).resolve_left hlive
  obtain rfl : x.1 = op := by rw [hx] at hop; exact Option.some.inj hop
  have hhand := Group.handout_of_complete hx fun v hv => (hall v (hset ▸ hv)).imp_right fun h => ⟨h.1.trans hpc.symm, h.2⟩
  have hthread : s1.thread? s.issue.gid u.tid = some u := by rw [State.thread?, hg, Option.bind_some, Group.thread?_of_mem hnodup hmem]
  rw [State.settleGroup_gives hg hnodup hsolo hmem hhand, State.deliver_eq, State.thread?_updThread_self _ hthread]
  rfl

end Sys2Proof.Machine
end

section
/-! THEOREMS. A convergence point completes. -/

open Sys2Proof Sys2Proof.Machine

/-- Settles O18: the last arrival completes the set; what the set then gives a member is the value of another one, or its values combined. -/
theorem laneExchangeCompletes : Obligations.LaneExchangeCompletes := by
  intro c d a b s l hgrant ha hrole hn val members completes
  have word : ∀ {i op vb} {gives : Group → Nat → Word → Word → Prop}, exec i s = exchange i op d.toNat a.toNat vb s →
      (∀ g : Group, (g.threads.map (·.tid)).Nodup → ∀ u ∈ g.threads, (∀ w ∈ g.setOf op u.tid, w.st = .exited ∨ ∃ x, w.arrived = some x) →
        ∀ v, gives g u.tid v (exchangeResult op u.tid v (g.setOf op u.tid)).1) → completes i op vb gives := by
    intro i op vb gives he hgives hi s1 g hg hall
    obtain ⟨hnodup, t, hexec, hmembers⟩ := exchange_completes he hgrant ha hrole hn hi hg hall
    refine ⟨t, hexec, fun u hu x hx => ?_⟩
    obtain ⟨hmem, hset⟩ := Group.setOf_of_mem hu
    refine ⟨_, hgives g hnodup u hmem (fun w hw => ?_) _, hmembers u hu x hx⟩
    exact (hall w (hset ▸ hw)).imp_right fun h => (Option.map_eq_some_iff.mp h.2).imp fun x hx => hx.1
  clear_value completes
  have partner : ∀ {g : Group} {op t u : Nat} {b : Word}, partnerOf op t b = some u → (exchangeResult op t b (g.setOf op t)).1 = val g u :=
    fun h => Group.exchangeResult_partner _ h
  refine ⟨word rfl fun _ _ _ _ _ _ => partner rfl, word rfl fun _ _ _ _ _ _ => partner rfl, word rfl fun _ _ _ _ _ _ => partner rfl,
    word rfl fun _ _ _ _ _ _ => partner rfl, word rfl fun _ _ _ _ _ _ => partner rfl, word rfl ?any, word rfl ?all, word rfl ?ballot, word rfl ?add,
    word rfl ?min, word rfl ?max⟩
  case any => exact fun g hn u hu _ v => if_congr (Group.any_arrivals hn u.tid) rfl rfl
  case all => exact fun g hn u hu hall v => if_congr (Group.all_arrivals hn hall) rfl rfl
  case ballot => exact fun g hn u hu _ v j hj => Group.getLsbD_ballot hn u.tid hj
  case add => exact fun g _ u _ _ v => congrArg (List.foldl (· + ·) 0) (g.map_valOf u.tid)
  case min =>
    intro g _ u hu _ v
    have hleast := g.least_of_block (key := BitVec.toInt) (lt := BitVec.slt) (fun _ _ => BitVec.slt_iff_toInt_lt) (Group.mem_block.mpr ⟨hu, rfl⟩)
    exact hleast.imp_right fun hle w hw => decide_eq_true (hle w hw)
  case max =>
    intro g _ u hu _ v
    have hleast := g.least_of_block (key := fun x : Word => -x.toInt) (lt := fun x m => m.slt x)
      (fun _ _ => BitVec.slt_iff_toInt_lt.trans neg_lt_neg_iff.symm) (Group.mem_block.mpr ⟨hu, rfl⟩)
    exact hleast.imp_right fun hle w hw => decide_eq_true (neg_le_neg_iff.mp (hle w hw))
end

section
/-! SUPPORT. The proposal words (R149-R151): what each does with the thread's proposal open, and with it closed. -/

namespace Sys2Proof.Machine

section
variable {i : Instr} {f : Lane → Except Stop (Thread → Thread)} {s : State} {l : Lane} (h : Issues i l s)
include h

/-- A word that acts in the thread alone, issued by one thread, where none of its checks stops it. -/
theorem runRegs_one {u : Thread → Thread} (hf : f l = .ok u) : runRegs i f s = .next (((s.advanced l).updLane l u).settled i l s) :=
  runWord_one h (by rw [hf])

/-- A word that acts in the thread alone, issued by one thread, where a check of its own stops it. -/
theorem runRegs_one_stop {st : Stop} (hf : f l = .error st) : runRegs i f s = .next (s.stopLane l.cur.tid st) :=
  runWord_one_stop h (by rw [hf])

end

@[simp] theorem Thread.commitShadow_ptot (t : Thread) : t.commitShadow.ptot = t.ptot := by rw [commitShadow]

@[simp] theorem Thread.commitShadow_pacc (t : Thread) : t.commitShadow.pacc = t.pacc := by rw [commitShadow]

/-- What ACCEPT does to its thread (R150, R153), the shadow kept where `acc` says so: the counts are those before the proposal is kept or dropped. -/
def Thread.accepted (t : Thread) (acc snan drop : Bool) (d : Nat) : Thread :=
  let u := if acc then t.commitShadow else t
  let v := { u with ctr := u.ctr + 1, popen := false, ptot := satIncr t.ptot, pacc := if acc then satIncr t.pacc else t.pacc }.raise (flagIf snan fNV)
  if drop then v else v.setReg d (if acc then 1 else 0)

section
variable {c : BitVec 1} {d a : BitVec 6} {s : State} {l : Lane}

/-- ACCEPT in an open proposal: the value of A and the draw decide (R150). Keeping the shadow touches neither count. -/
theorem execAccept_open (h : Issues (.accept c d a) l s) (hp : l.src.popen = true) :
    Completes (.accept c d a) l s fun s => s.updLane l fun t =>
      t.accepted (accepts (l.src.reg a.toNat) l.src.draw) (fdec f32 (l.src.reg a.toNat).toNat).isSnan s.issue.dropD d.toNat := by
  refine runWord_one h ?_
  simp only [hp, Bool.not_true, Bool.false_eq_true, if_false, apply_ite Thread.ptot, apply_ite Thread.pacc, Thread.commitShadow_ptot, Thread.commitShadow_pacc, ite_self]
  rfl

/-- ACCEPT in a closed proposal is Illegal Instruction (R150). -/
theorem execAccept_closed (h : Issues (.accept c d a) l s) (hp : l.src.popen = false) : exec (.accept c d a) s = .next (s.stopLane l.cur.tid illegal) :=
  runWord_one_stop h (if_pos (by rw [hp]; rfl))

end

end Sys2Proof.Machine
end

section
/-! THEOREMS. The proposal words. -/

open Sys2Proof Sys2Proof.Machine

/-- Settles O13: each of the three words turns on whether the proposal is open; PROPOSE and DISCARD then act in the thread alone. -/
theorem proposalWords : Obligations.ProposalWords := by
  intro c d a s l
  refine ⟨fun h hp => ?propose, fun h hp => execAccept_open h hp, fun h hp => ?discard, fun h hp => ?proposeOpen,
    fun h hp => execAccept_closed h hp, fun h hp => ?discardClosed⟩
  case propose => exact runRegs_one h (if_neg (ne_true_of_eq_false hp))
  case discard => exact runRegs_one h (if_pos hp)
  case proposeOpen => exact runRegs_one_stop h (if_pos hp)
  case discardClosed => exact runRegs_one_stop h (if_neg (ne_true_of_eq_false hp))
end

section
/-! SUPPORT. The words that give an engine a command (R160, R262, R333), the rein (R158), and STEPWAIT (R343). -/

namespace Sys2Proof.Machine

/-! ### Acceptance of a command -/

section
variable {i : Instr} {cls sreg : Nat} {full : Group → State → Bool} {mkE : Lane → Bool → State → Except Stop (Nat × State)} {join : Nat → Nat → State → State}

/-- An engine word whose acceptance finds room, where the thread is ready for it, and makes the command, is an engine word in the terms of the claims. -/
theorem engineWord_accepts {ready : Lane → State → Prop} {mk : Lane → Bool → State → Nat × State} (he : ∀ s, exec i s = engineWord i cls sreg full mkE join s)
    (hmk : ∀ l bad s, ready l s → full l.g s = false ∧ mkE l bad s = .ok (mk l bad s)) : EngineWord i cls sreg ready mk join := by
  intro s l bad hi hcount hoct hcmd hready
  obtain ⟨hroom, hmade⟩ := hmk l bad (s.advanced l) hready
  have hcmd : (s.advanced l).issue.cmd = none := hcmd
  show exec i s = _
  rw [he]
  refine runWord_one hi ?_
  simp only [overCount, ge_iff_le, Nat.not_le.mpr hcount, decide_false, Bool.false_eq_true, if_false, hoct, hcmd, hroom, hmade]

/-- An engine word that finds room, and whose command is refused, stops its thread. -/
theorem engineWord_refused (he : ∀ s, exec i s = engineWord i cls sreg full mkE join s) {s : State} {l : Lane} {bad : Bool} {st : Stop} (hi : Issues i l s)
    (hcount : l.cur.outstanding cls < 63) (hoct : l.consumeOct sreg = .ok bad) (hcmd : s.issue.cmd = none) (hroom : full l.g (s.advanced l) = false)
    (hrefused : mkE l bad (s.advanced l) = .error st) : exec i s = .next (s.stopLane l.cur.tid st) := by
  have hcmd : (s.advanced l).issue.cmd = none := hcmd
  rw [he]
  refine runWord_one_stop hi ?_
  simp only [overCount, ge_iff_le, Nat.not_le.mpr hcount, decide_false, Bool.false_eq_true, if_false, hoct, hcmd, hroom, hrefused]

end

/-- A word of the copy engines is accepted where its core has fewer than 128 of their commands (R262). -/
theorem copyWord_accepts {i : Instr} {fn sreg k k2 : Nat} (he : ∀ s, exec i s = copyWord i fn sreg k k2 s) :
    EngineWord i 2 sreg (fun l s => (s.copies.filter fun c => c.core == l.g.core && c.gid.isSome).length < 128)
      (fun l bad s => s.makeCopy l.g.core (s.group? l.g.gid) l.g.asid fn k k2 (l.g.octet sreg) bad none) joinCopy :=
  engineWord_accepts he fun _ _ _ hroom => ⟨decide_eq_false (Nat.not_le.mpr hroom), rfl⟩

/-- A word of the collective engine is accepted at once (R333). -/
theorem linkWord_accepts {i : Instr} {fn sreg k k2 : Nat} (he : ∀ s, exec i s = linkWord i fn sreg k k2 s) :
    EngineWord i 2 sreg (fun _ _ => True) (fun l bad s => s.makeLink (some l.g.gid) l.g.asid fn k k2 (l.g.octet sreg) bad none) joinLink :=
  engineWord_accepts he fun _ _ _ _ => ⟨rfl, rfl⟩

section
variable {i : Instr} {fn sreg k : Nat} (he : ∀ s, exec i s = mxWord i fn sreg k s)
include he

/-- A matrix word is accepted where its group has fewer than four commands in flight, and the rein unless it is an MZERO (R158, R160). -/
theorem mxWord_accepts {ready : Lane → State → Prop} (hfew : ∀ l s, ready l s → (s.mxs.filter fun m => m.gid == l.g.gid).length < 4)
    (hgroup : ∀ l s, ready l s → (s.group? l.g.gid).isSome = true) (hrein : ∀ l s, ready l s → fn = 2 ∨ (s.core l.g.core).rein = some l.g.gid) :
    EngineWord i 3 sreg ready (fun l bad s => s.makeMx { ((s.group? l.g.gid).getD l.g) with uregs := l.g.uregs } fn k (l.g.octet sreg) bad) joinMx := by
  refine engineWord_accepts he fun l bad s hready => ⟨?_, ?_⟩
  · rw [decide_eq_false (Nat.not_le.mpr (hfew l s hready)), Bool.false_and]
  · obtain ⟨g, hg⟩ := Option.isSome_iff_exists.mp (hgroup l s hready)
    have hheld : ¬(fn ≠ 2 ∧ (s.core l.g.core).rein ≠ some l.g.gid) := fun h => (hrein l s hready).elim h.1 h.2
    simp only [if_neg hheld, hg, Option.getD_some]

/-- Without the rein, MLOOP and MDRAIN are Illegal Instruction (R158), however many commands are in flight. -/
theorem mxWord_without_rein (hfn : fn ≠ 2) {s : State} {l : Lane} (hi : Issues i l s) (hcount : l.cur.nTile < 63) (hoct : l.consumeOct sreg = .ok false)
    (hcmd : s.issue.cmd = none) (hrein : ((s.advanced l).core l.g.core).rein ≠ some l.g.gid) : exec i s = .next (s.stopLane l.cur.tid illegal) := by
  refine engineWord_refused he hi hcount hoct hcmd ?_ (if_pos ⟨hfn, hrein⟩)
  rw [beq_false_of_ne hfn, beq_false_of_ne hrein, Bool.false_or, Bool.and_false]

end

/-! ### The rein -/

section
variable {s : State} {core gid : Nat}

theorem State.joinRein_free (hrein : (s.core core).rein = none) (hq : (s.core core).reinQ = []) : s.joinRein core gid = s.reinTo core gid := by
  simp [joinRein, hrein, hq]

theorem State.reinRelease_nil (hq : (s.core core).reinQ = []) : s.reinRelease core = s.updCore core fun c => { c with rein := none } := by
  rw [reinRelease, hq]

theorem State.reinRelease_cons {g : Nat} {gs : List Nat} (hq : (s.core core).reinQ = g :: gs) : s.reinRelease core = s.reinTo core g := by
  rw [reinRelease, hq]

end

section
variable {c : BitVec 1} {s : State} {l : Lane}

theorem execTake_free (h : Issues (.take c) l s) (hrein : ((s.advanced l).core l.g.core).rein = none) (hq : ((s.advanced l).core l.g.core).reinQ = []) :
    Completes (.take c) l s fun s => s.reinTo l.g.core l.g.gid := by
  refine runWord_one h ?_
  simp [hrein, hq, State.joinRein_free hrein hq]

theorem execTake_waits (h : Issues (.take c) l s) (hother : ((s.advanced l).core l.g.core).rein ≠ some l.g.gid)
    (hbusy : ((s.advanced l).core l.g.core).rein ≠ none ∨ ((s.advanced l).core l.g.core).reinQ ≠ []) :
    exec (.take c) s = .next (s.stopLane l.cur.tid (.park .rein)) := by
  refine runWord_one_stop h ((if_neg hother).trans (if_neg ?_))
  rw [Bool.and_eq_true, Option.isNone_iff_eq_none, List.isEmpty_iff]
  exact fun hfree => hbusy.elim (· hfree.1) (· hfree.2)

theorem execPass_holder {eff : State → State} (h : Issues (.pass c) l s) (hrein : ((s.advanced l).core l.g.core).rein = some l.g.gid)
    (heff : (s.advanced l).reinRelease l.g.core = eff (s.advanced l)) : Completes (.pass c) l s eff :=
  runWord_one h (congrArg Except.ok ((if_pos hrein).trans heff))

end

/-! ### STEPWAIT -/

theorem Exch.leadOk_iff (e : Exch) : e.leadOk = true ↔ ∀ m ∈ e.nbr.take e.nn, (e.self - m).toInt ≤ (e.lead : Int) := by
  simp only [leadOk, List.all_eq_true, decide_eq_true_iff]

/-- The words of an octet after its first are zero where none of them differs from zero. -/
theorem Group.octet_rest_any (g : Group) (n : Nat) : ((g.octet n).drop 1).any (· != 0) = true ↔ (g.octet n).drop 1 ≠ List.replicate 7 0 := by
  have hlen : ((g.octet n).drop 1).length = 7 := by simp [octet]
  simp only [Ne, List.eq_replicate_iff, List.any_eq_true, hlen, true_and, bne_iff_ne, not_forall, exists_prop]

/-- What STEPWAIT records of its thread, with a code (R343). -/
def State.stepwaitErr (s : State) (l : Lane) (sreg code : Nat) : State :=
  s.linkErr l.g.asid code 0 (some l.g) (some l.cur.tid) s.issue.pc0.pkt (l.g.octet sreg)

/-- What STEPWAIT does before its thread is granted. -/
def stepwaitWait (sreg : Nat) (l : Lane) (s : State) : Except Stop State :=
  match l.consumeOct sreg with
  | .error e => .error e
  | .ok bad =>
    let n := ((l.g.octet sreg).getD 0 0).toNat
    if bad then .ok (s.stepwaitErr l sreg 0x19)
    else if n ≥ 64 then .ok (s.stepwaitErr l sreg 0x30)
    else if ((l.g.octet sreg).drop 1).any (· != 0) then .ok (s.stepwaitErr l sreg 0x34)
    else match s.exch? l.g.asid n with
      | none => .error (.park (.stepWait n))
      | some e =>
        if e.nn = 0 then .ok (s.stepwaitErr l sreg 0x30)
        else if e.leadOk then .ok { s with l1 := s.l1.filter fun x => x.core != l.g.core }
        else .error (.park (.stepWait n))

theorem exec_stepwait (c : BitVec 1) (o : BitVec 6) (s : State) :
    exec (.stepwait c o) s = runWord (.stepwait c o) (orGranted (stepwaitWait o.toNat)) s := rfl

section
variable {sreg : Nat} {l : Lane} {s : State} (hoct : l.consumeOct sreg = .ok false)
include hoct

theorem stepwaitWait_number (hn : 64 ≤ (l.g.ureg sreg).toNat) : stepwaitWait sreg l s = .ok (s.stepwaitErr l sreg 0x30) := by
  rw [stepwaitWait, hoct]
  exact if_pos hn

variable (hn : (l.g.ureg sreg).toNat < 64)
include hn

theorem stepwaitWait_nonzero (hrest : (l.g.octet sreg).drop 1 ≠ List.replicate 7 0) : stepwaitWait sreg l s = .ok (s.stepwaitErr l sreg 0x34) := by
  rw [stepwaitWait, hoct]
  exact (if_neg (Nat.not_le.mpr hn)).trans (if_pos ((l.g.octet_rest_any sreg).mpr hrest))

variable (hrest : (l.g.octet sreg).drop 1 = List.replicate 7 0) {e : Exch} (he : s.exch? l.g.asid (l.g.ureg sreg).toNat = some e)
include hrest he

/-- A STEPWAIT that names a read exchange in a well-formed octet goes by the exchange's entry. -/
theorem stepwaitWait_entry : stepwaitWait sreg l s = if e.nn = 0 then .ok (s.stepwaitErr l sreg 0x30)
    else if e.leadOk then .ok { s with l1 := s.l1.filter fun x => x.core != l.g.core } else .error (.park (.stepWait (l.g.ureg sreg).toNat)) := by
  have hfirst : (l.g.octet sreg).getD 0 0 = l.g.ureg sreg := rfl
  have hzero : ((l.g.octet sreg).drop 1).any (· != 0) = false := Bool.eq_false_iff.mpr (mt (l.g.octet_rest_any sreg).mp (not_not_intro hrest))
  simp only [stepwaitWait, hoct, hfirst, Bool.false_eq_true, if_false, ge_iff_le, Nat.not_le.mpr hn, hzero, he]

theorem stepwaitWait_unconfigured (hnn : e.nn = 0) : stepwaitWait sreg l s = .ok (s.stepwaitErr l sreg 0x30) :=
  (stepwaitWait_entry hoct hn hrest he).trans (if_pos hnn)

variable (hnn : e.nn ≠ 0)
include hnn

theorem stepwaitWait_passes (hlead : e.leadOk = true) : stepwaitWait sreg l s = .ok { s with l1 := s.l1.filter fun x => x.core != l.g.core } :=
  (stepwaitWait_entry hoct hn hrest he).trans ((if_neg hnn).trans (if_pos hlead))

theorem stepwaitWait_parks (hlead : ¬e.leadOk = true) : stepwaitWait sreg l s = .error (.park (.stepWait (l.g.ureg sreg).toNat)) :=
  (stepwaitWait_entry hoct hn hrest he).trans ((if_neg hnn).trans (if_neg hlead))

end

end Sys2Proof.Machine
end

section
/-! THEOREMS. The words that give the engines their commands. -/

open Sys2Proof Sys2Proof.Machine

/-- Settles O25: the words of each engine are accepted alike; the rein goes by its holder and its queue, STEPWAIT by its octet and the exchange's entry. -/
theorem engineCommandWords : Obligations.EngineCommandWords := by
  refine ⟨fun c o k j => ?copies, fun c o k => ?matrix, fun c o k j => ?links⟩
  case copies =>
    exact ⟨copyWord_accepts fun _ => rfl, copyWord_accepts fun _ => rfl, copyWord_accepts fun _ => rfl, copyWord_accepts fun _ => rfl,
      copyWord_accepts fun _ => rfl, copyWord_accepts fun _ => rfl, copyWord_accepts fun _ => rfl⟩
  case matrix =>
    intro few rein make
    refine ⟨mxWord_accepts (fun _ => rfl) (fun _ _ h => h.1.1) (fun _ _ h => h.1.2) (fun _ _ h => .inr h.2),
      mxWord_accepts (fun _ => rfl) (fun _ _ h => h.1.1) (fun _ _ h => h.1.2) (fun _ _ h => .inr h.2),
      mxWord_accepts (fun _ => rfl) (fun _ _ h => h.1) (fun _ _ h => h.2) (fun _ _ _ => .inl rfl), fun s l => ?_⟩
    intro holder queue
    refine ⟨mxWord_without_rein (fun _ => rfl) (by decide), mxWord_without_rein (fun _ => rfl) (by decide), fun h hheld => ?takeHeld, execTake_free, execTake_waits,
      fun h hheld hq => ?passLast, fun g gs h hheld hq => ?passNext, fun h hother => ?passOther⟩
    case takeHeld => exact runWord_one h (if_pos hheld)
    case passLast => exact execPass_holder h hheld (State.reinRelease_nil hq)
    case passNext => exact execPass_holder h hheld (State.reinRelease_cons hq)
    case passOther => exact runWord_one h (congrArg Except.ok (if_neg hother))
  case links =>
    refine ⟨linkWord_accepts fun _ => rfl, linkWord_accepts fun _ => rfl, linkWord_accepts fun _ => rfl, fun s l e => ?_⟩
    rintro n idle zero lead recorded ⟨hgrant, hoct⟩
    have completes : ∀ {eff : State → State}, Issues (.stepwait c o) l s → stepwaitWait o.toNat l (s.advanced l) = .ok (eff (s.advanced l)) →
        Completes (.stepwait c o) l s eff := fun h hw => runWord_one h ((orGranted_none (s := s.advanced l) hgrant).trans hw)
    refine ⟨fun h hn hz he hnn hlead => completes h (stepwaitWait_passes hoct hn hz he hnn (e.leadOk_iff.mpr hlead)),
      fun h hn hz he hnn hlead => runWord_orGranted_stop h hgrant (stepwaitWait_parks hoct hn hz he hnn (mt e.leadOk_iff.mp hlead)),
      fun h hn hz he hnn => completes h (stepwaitWait_unconfigured hoct hn hz he hnn), fun h hn => completes h (stepwaitWait_number hoct hn),
      fun h hn hz => completes h (stepwaitWait_nonzero hoct hn hz)⟩
end

section
/-! SUPPORT. The end of what the copy engines, the matrix engines, the field unit and the allocator do (R160, R190, R193, R200, R206, R243, R244, R266). -/

namespace Sys2Proof.Machine

/-- A GWCT that is none, or is past, holds nothing back (R217). -/
theorem not_waits_of_past {gw tsc : Nat} (h : gw = 0 ∨ gw < tsc) : ¬(gw ≥ tsc ∧ gw ≠ 0) := by omega

/-! ### Copies -/

/-- A copy that has moved its data, with its writes past their GWCT, tells its result; then it writes its completion word, where it has one, and ends (R266). -/
theorem execCopyComplete_moved {s : State} {id : Nat} {c : Copy} (hc : (s.copies.find? fun c => c.id == id) = some c) (hheld : c.heldFault = false)
    (hmoved : c.moved = true) (hgw : c.gw = 0 ∨ c.gw < s.tsc) :
    let s1 := if c.told then s else s.tellCopy c
    (c.cw = 0 → execCopyComplete id s = .next (s1.endCopy { c with told := true }))
      ∧ ∀ u gw, c.cw ≠ 0 → s1.vwrite c.core (coreDie c.core) c.asid c.cw (natToBytes 8 (cwValue c.fail + if c.late then 2 ^ 62 else 0)) = .ok (u, gw) →
        execCopyComplete id s = .next (u.endCopy { c with told := true }) := by
  have hsame : ({ c with moved := true, heldFault := false } : Copy) = c := by rw [← hmoved, ← hheld]
  have htold : ({ c with moved := true, heldFault := false, told := true } : Copy).cw = c.cw := rfl
  refine ⟨fun hcw => ?_, fun u gw hcw hw => ?_⟩
  · simp only [execCopyComplete, hc, hheld, hmoved, Bool.not_true, Bool.and_false, Bool.false_and, Bool.true_or, Bool.false_eq_true, if_false, if_true,
      hsame, if_neg (not_waits_of_past hgw), htold, hcw]
  · simp only [execCopyComplete, hc, hheld, hmoved, Bool.not_true, Bool.and_false, Bool.false_and, Bool.true_or, Bool.false_eq_true, if_false, if_true,
      hsame, if_neg (not_waits_of_past hgw), htold, hcw, hw]

/-! ### The matrix engines -/

/-- The head of a core's sequence starts where it has not started and no fault holds it (R159). -/
theorem execMatrixCommandStart_head {s : State} {core : Nat} {m : Mx} (hm : s.mxHead core = some m) (hstarted : m.started = false) (hheld : m.heldFault = false) :
    execMatrixCommandStart core s = .next (s.runMx m) := by
  simp only [execMatrixCommandStart, hm, hstarted, hheld, Bool.or_self, Bool.false_eq_true, if_false]

/-- The loop goes on once the slot that it waits for is published (R164). -/
theorem execRingSlotReady_published {s : State} {core : Nat} {m : Mx} {t : Tile} {r : Ring} (hm : s.mxHead core = some m) (hwait : m.waitRing = true)
    (ht : (m.tiles[1]?).bind s.tile? = some t) (hr : t.ring = some r) (hready : 1 ≤ (r.prod - r.cons).toNat ∧ (r.prod - r.cons).toNat < 2 ^ 31) :
    execRingSlotReady core s = .next (s.runMx m) := by
  simp only [execRingSlotReady, hm, hwait, ht, hr, hready, and_self, decide_true, Bool.and_self, if_true]

/-- A matrix command that has not failed lowers the counts of its threads, and its flags pend in those that have not ended (R160, R173). -/
theorem execMatrixCommandComplete_succeeded {s : State} {core : Nat} {m : Mx} (hm : s.mxHead core = some m) (hfinished : m.finished = true)
    (hgw : m.gw = 0 ∨ m.gw < s.tsc) (hfail : m.fail = 0) :
    execMatrixCommandComplete core s = .next (({ s with
      mxs := s.mxs.filter fun x => x.id != m.id
      mxDone := s.mxDone ++ (m.tids.filter fun t => ((s.thread? m.gid t).map fun x => x.st != .exited).getD false).map fun t => { gid := m.gid, tid := t, flags := m.flags } } :
      State).finishAll m.gid m.tids 3) := by
  have hpast : (m.gw != 0 && decide (m.gw ≥ s.tsc)) = false := by
    rw [Bool.and_eq_false_iff, bne_eq_false_iff_eq, decide_eq_false_iff_not, Nat.not_le]
    exact hgw
  simp only [execMatrixCommandComplete, hm, hfinished, hpast, hfail, Bool.not_true, Bool.or_self, Bool.false_eq_true, if_false, if_true]

/-! ### Tiles -/

/-- A row that its fill brings in lets every thread that waits for it go on (R243). -/
theorem execTileRowFill_filled {s u : State} {uid row : Nat} {g : Group} {t : Thread} {ws : List (Group × Thread)}
    (hwait : s.fillWaiters uid row = (g, t) :: ws) (hfill : s.fillRow g.core uid row = .ok u) :
    execTileRowFill uid row s = .next (((g, t) :: ws).foldl (fun s x => s.wakeThread x.1.gid x.2.tid) u) := by
  simp only [execTileRowFill, hwait, hfill]

/-- An operation whose write-back is made and past its GWCT ends with status 0 (R244). -/
theorem execTileOperationComplete_wrote {s : State} {id : Nat} {o : TileOp} {g : Group} (ho : (s.tileOps.find? fun o => o.id == id) = some o)
    (hg : s.group? o.gid = some g) (hheld : o.heldFault = false) (hhandle : (o.handle, o.tile) ∈ g.handles) (hstatus : o.status = 0) (hwrote : o.wrote = true)
    (hgw : o.gw < s.tsc) : execTileOperationComplete id s = .next (s.endTileOp o 0) := by
  have hnamed : (g.handles.any fun p => p.1 == o.handle && p.2 == o.tile) = true := List.any_eq_true.mpr ⟨_, hhandle, by simp⟩
  simp only [execTileOperationComplete, ho, hg, hheld, hnamed, hstatus, hwrote, hgw, Bool.not_true, bne_self_eq_false, Bool.false_eq_true, if_false, if_true]

/-! ### Field words -/

theorem Thread.finish_outstanding (t : Thread) (cls : Nat) : (t.finish cls).outstanding cls = t.outstanding cls - 1 := by
  rcases cls with - | - | - | cls <;> rfl

/-- A counter is in no register and no predicate. -/
theorem Thread.finish_keeps (t : Thread) (cls : Nat) :
    (t.finish cls).regs = t.regs ∧ (t.finish cls).shadow = t.shadow ∧ (t.finish cls).popen = t.popen ∧ (t.finish cls).preds = t.preds ∧ (t.finish cls).st = t.st := by
  rcases cls with - | - | - | cls <;> exact ⟨rfl, rfl, rfl, rfl, rfl⟩

/-- Words that come to a thread, in the bank that is open to it: each is in its register, which no longer pends; no other register, no counter and
no predicate changes (R45, R190). -/
theorem Thread.receiveWords_regs {t : Thread} {dst : Nat} {ws : List Word} (hd : dst + ws.length ≤ 64) (enter : Option DWord) :
    let rs := (List.range ws.length).map (dst + ·)
    let x := (t.inBank t.popen fun t => (t.setWords dst ws).taint rs [] enter).clearPend rs
    (∀ k, k < ws.length → dst + k ≠ 0 → x.reg (dst + k) = ws.getD k 0 ∧ x.pend.getLsbD (dst + k) = false)
      ∧ (∀ n, n < dst ∨ dst + ws.length ≤ n → x.reg n = t.reg n) ∧ (∀ cls, x.outstanding cls = t.outstanding cls) ∧ x.preds = t.preds := by
  intro rs x
  have hreg : ∀ n, x.reg n = if n ≠ 0 ∧ dst ≤ n ∧ n < dst + ws.length then ws.getD (n - dst) 0 else t.reg n := by
    intro n
    refine (Thread.reg_congr ?_ ?_ ?_ n).trans (Thread.reg_setWords t dst ws n hd) <;> simp [x, inBank]
  refine ⟨fun k hk h0 => ⟨?_, ?_⟩, fun n hout => ?_, fun cls => ?_, by simp [x, inBank]⟩
  · rw [hreg, if_pos ⟨h0, by omega, by omega⟩, Nat.add_sub_cancel_left]
  · exact Thread.clearPend_pend_eq_false _ (by omega) h0 (List.mem_map.mpr ⟨k, List.mem_range.mpr hk, rfl⟩)
  · rw [hreg, if_neg (by omega)]
  · simp [x, inBank, outstanding]

/-- A thread of which an operation ends receives its words, unless it has ended itself or the operation has none (R190). -/
def Thread.receiveField (o : FieldOp) (ws : List Word) (t : Thread) : Thread :=
  let rs := (List.range o.dcnt).map (o.dst + ·)
  let t := t.finish o.cls
  if t.st = .exited || o.dcnt == 0 then t
  else (t.inBank o.shadow fun t => (t.setWords o.dst ws).taint rs [] (entering o.poison o.va)).clearPend rs

/-- A field word whose writes are past their GWCT gives its result to its thread, and is no longer in flight (R190). -/
theorem execFieldWordComplete_past {s : State} {id : Nat} {o : FieldOp} {ws : List Word} (ho : (s.fieldOps.find? fun o => o.id == id) = some o)
    (hres : o.result = some ws) (hgw : o.gw = 0 ∨ o.gw < s.tsc) :
    execFieldWordComplete id s
      = .next (({ s with fieldOps := s.fieldOps.filter fun x => x.id != id } : State).updThread o.gid o.tid (Thread.receiveField o ws)) := by
  have hpast : ¬(o.gw ≠ 0 ∧ o.gw ≥ s.tsc) := fun h => not_waits_of_past hgw h.symm
  rw [execFieldWordComplete, ho]
  simp only [hres, if_neg hpast]
  rfl

/-- What a thread that has not ended holds once it has its result: the words in their registers, none of them pending, and one operation
fewer in flight. -/
theorem Thread.receiveField_regs {o : FieldOp} {ws : List Word} {t : Thread} (hst : t.st ≠ .exited) (hb : o.shadow = t.popen) (hl : ws.length = o.dcnt)
    (hd : o.dst + o.dcnt ≤ 64) :
    let x := t.receiveField o ws
    (∀ k, k < o.dcnt → o.dst + k ≠ 0 → x.reg (o.dst + k) = ws.getD k 0 ∧ x.pend.getLsbD (o.dst + k) = false)
      ∧ (∀ n, n < 64 → (n < o.dst ∨ o.dst + o.dcnt ≤ n) → x.reg n = t.reg n) ∧ x.outstanding o.cls = t.outstanding o.cls - 1 ∧ x.preds = t.preds := by
  intro x
  obtain ⟨hregs, hshadow, hpopen, hpreds, hfst⟩ := t.finish_keeps o.cls
  by_cases h0 : o.dcnt = 0
  · have hx : x = t.finish o.cls := by simp [x, receiveField, h0]
    rw [hx]
    exact ⟨fun k hk => absurd hk (by omega), fun n _ _ => Thread.reg_congr hregs hshadow hpopen n, t.finish_outstanding o.cls, hpreds⟩
  · have hx : x = ((t.finish o.cls).inBank (t.finish o.cls).popen fun t =>
        (t.setWords o.dst ws).taint ((List.range ws.length).map (o.dst + ·)) [] (entering o.poison o.va)).clearPend ((List.range ws.length).map (o.dst + ·)) := by
      have hgo : ¬((t.finish o.cls).st = .exited || o.dcnt == 0) = true := by simp [hfst, hst, h0]
      exact (if_neg hgo).trans (by rw [hb, hpopen, hl])
    rw [← hl] at hd ⊢
    obtain ⟨hdst, hrest, hcount, hsame⟩ := Thread.receiveWords_regs (t := t.finish o.cls) hd (entering o.poison o.va)
    rw [hx]
    exact ⟨hdst, fun n _ hout => (hrest n hout).trans (Thread.reg_congr hregs hshadow hpopen n), (hcount _).trans (t.finish_outstanding o.cls), hsame.trans hpreds⟩

/-! ### The sweep and the allocator's requests -/

/-- A tree that is marked for its sweep, and that nothing holds, is swept; its marks then wait for the latest write to be complete (R200). -/
theorem execSweep_unheld {s u : State} {asid root : Nat} {m : Marked} (hm : (s.marked.find? fun m => m.asid == asid && m.tree.root.toNat == root) = some m)
    (hheld : m.held = false) (halloc : s.allocHeld = false) (hnone : ∀ y ∈ s.marked, y.swept = false) (htree : s.treeHeld m.tree.root = false)
    (hu : s.sweepTree asid m.tree = .ok u) :
    execSweep asid root s = .next { u with
      marked := u.marked.map fun x => if !(x.asid == asid && x.tree.root == m.tree.root) then x else { x with swept := true, gw := u.lastGwct } } := by
  have hswept : m.swept = false := hnone m (List.mem_of_find?_eq_some hm)
  have hany : s.marked.any (·.swept) = false := List.any_eq_false.mpr fun y hy => ne_true_of_eq_false (hnone y hy)
  simp only [execSweep, hm, hswept, hheld, halloc, hany, htree, hu, Bool.or_self, Bool.false_eq_true, if_false]

/-- A sweep ends once its writes are complete: the tree's mark goes (R200). -/
theorem execSweep_ends {s : State} {asid root : Nat} {m : Marked} (hm : (s.marked.find? fun m => m.asid == asid && m.tree.root.toNat == root) = some m)
    (hswept : m.swept = true) (hgw : m.gw < s.tsc) :
    execSweep asid root s = .next { s with marked := s.marked.filter fun y => !(y.asid == asid && y.tree.root == m.tree.root) } := by
  simp only [execSweep, hm, hswept, gt_iff_lt, hgw, if_true]

/-- The engine serves a VINS or VDEL at the head of its queue, but for while a sweep runs (R198, R200). -/
theorem execAllocatorRequest_word {s : State} {id : Nat} {q : List AllocReq} {o : FieldOp} {r : TreeDesc} (halloc : s.allocHeld = false)
    (hidle : ∀ m ∈ s.marked, m.held = false ∧ m.swept = false) (hq : s.allocQ = .word id :: q) (ho : (s.fieldOps.find? fun o => o.id == id) = some o)
    (hr : o.tree = some r) : execAllocatorRequest s = .next (s.serveWord_ o r) := by
  have hany : (s.marked.any fun m => m.held || m.swept) = false := List.any_eq_false.mpr fun m hm => by simp [hidle m hm]
  simp only [execAllocatorRequest, halloc, hany, hq, ho, hr, Bool.or_self, Bool.false_eq_true, if_false]

end Sys2Proof.Machine
end

section
/-! THEOREMS. The end of what the engines do. -/

open Sys2Proof Sys2Proof.Machine

/-- Settles O50: each event, in a state that enables it, is its closed form; a field word's registers are read off what its thread receives. -/
theorem engineCompletionEvents : Obligations.EngineCompletionEvents := by
  refine ⟨fun s id core uid row c m o g => ⟨fun hc hheld hmoved hgw hcw => ?copy, fun u gw hc hheld hmoved hgw hcw hw => ?copyWord,
      fun t ws u hwait hfill => execTileRowFill_filled hwait hfill, fun hm hstarted hheld => execMatrixCommandStart_head hm hstarted hheld,
      fun t r hm hwait ht hr hone hmany => execRingSlotReady_published hm hwait ht hr ⟨hone, hmany⟩,
      fun hm hfinished hgw hfail => execMatrixCommandComplete_succeeded hm hfinished hgw hfail,
      fun ho hg hheld hhandle hstatus hwrote hgw => execTileOperationComplete_wrote ho hg hheld hhandle hstatus hwrote hgw⟩,
    fun s id asid root o ws t m => ⟨fun ho hres hgw ht hst hb _ hl hd => ?fieldWord,
      fun q r halloc hidle hq ho hr => execAllocatorRequest_word halloc hidle hq ho hr, fun u hm hheld halloc hnone htree hu => ?sweep,
      fun hm hswept hgw => execSweep_ends hm hswept hgw⟩⟩
  case copy => exact (execCopyComplete_moved hc hheld hmoved hgw).1 hcw
  case copyWord => exact (execCopyComplete_moved hc hheld hmoved hgw).2 u gw hcw hw
  case fieldWord =>
    obtain ⟨hdst, hrest, hcount, hpreds⟩ := Thread.receiveField_regs hst hb hl hd
    exact ⟨_, _, execFieldWordComplete_past ho hres hgw, State.thread?_updThread_self _ ht, hdst, hrest, hcount, hpreds,
      State.sameMemory_of_copies rfl rfl rfl rfl rfl⟩
  case sweep =>
    refine ⟨_, execSweep_unheld hm hheld halloc hnone htree hu, fun _ => rfl, List.length_map .., fun y hy hasid hroot => ?_⟩
    obtain ⟨x, -, rfl⟩ := List.mem_map.mp hy
    split_ifs at hasid hroot ⊢ with hother
    · simp [hasid, hroot] at hother
    · exact ⟨rfl, rfl⟩
end

section
/-! SUPPORT. The words of the field unit (R190, R191): what each puts in flight, and the requests and adds that VINS, VDEL, HGRAD and HGRADD make. -/

namespace Sys2Proof.Machine

/-! ### Words that read, bind and edit -/

theorem overCount_of_lt {l : Lane} {cls : Nat} (h : l.cur.outstanding cls < 63) : overCount l cls = false := decide_eq_false (Nat.not_le.mpr h)

theorem Lane.tandem_solo {l : Lane} (h : l.g.role = .solo) (s : State) (sig : List Nat) : l.tandem s sig = .ok .solo := if_pos h

/-- A field word outside tandem mode that its effect serves: the effect takes place, and its result is in flight (R190). -/
theorem fieldWord_one {i : Instr} {fn dst dcnt cls : Nat} {addrRegs : Lane → List Nat} {dataRegs : List Nat} {sig : Lane → Option (List Nat)}
    {eff : Lane → Bool → State → Except FieldFault FieldDone} {s : State} {l : Lane} {dp : Bool} {r : FieldDone} (hi : Issues i l s) (hrole : l.g.role = .solo)
    (hcount : l.cur.outstanding cls < 63) (hbehind : s.behindAlloc l = false) (haddr : l.consume (addrRegs l) = .ok false)
    (hdata : l.consume dataRegs = .ok dp) (hr : eff l dp (s.advanced l) = .ok r) :
    fieldWord i fn dst dcnt cls addrRegs dataRegs sig eff s = .next (((r.s.updLane l fun t => t.raise r.flags).fieldStart l
      { blankOp fn dst dcnt cls with result := some r.words, gw := r.gw, poison := r.bad, va := r.va }).settled i l s) := by
  have hbehind : (s.advanced l).behindAlloc l = false := hbehind
  refine runWord_one hi ?_
  cases sig l <;> simp only [overCount_of_lt hcount, hbehind, haddr, hdata, Lane.tandem_solo hrole, hr, Bool.false_eq_true, if_false]

/-- A word whose meaning is `fieldWord` is a field word in the terms of the claims, with any effect that says the same of every thread. -/
theorem isFieldWord_of_fieldWord {i : Instr} {fn dst dcnt cls : Nat} {regs : Lane → State → List Nat} {dataRegs : List Nat} {sig : Lane → Option (List Nat)}
    {eff eff' : Lane → Bool → State → Except FieldFault FieldDone}
    (he : ∀ s, exec i s = fieldWord i fn dst dcnt cls (fun l => regs l s) dataRegs sig eff s) (heff : ∀ l dp s, eff' l dp s = eff l dp s) :
    FieldWord i fn dst dcnt cls regs dataRegs eff' := by
  intro s l dp r hi hrole hcount hbehind haddr hdata hr
  exact (he s).trans (fieldWord_one hi hrole hcount hbehind haddr hdata ((heff l dp _).symm.trans hr))

/-- A status word that holds a code alone. -/
theorem fieldStatus_code (code : Nat) : fieldStatus code 0 = BitVec.ofNat 32 (code * 2 ^ 24) := by rw [fieldStatus, Nat.add_zero]

theorem exec_vleaf (c : BitVec 1) (d : BitVec 6) (sl : BitVec 3) (s : State) : exec (.vleaf c d sl) s = execVleaf c d sl s := rfl

theorem exec_hgrid (c : BitVec 1) (d a : BitVec 6) (gs : BitVec 2) (lv : BitVec 4) (s : State) : exec (.hgrid c d a gs lv) s = execHgrid c d a gs lv s := rfl

/-- A word that reads the tree of a slot is a field word in the terms of the claims. -/
theorem isFieldWord_of_treeWord {i : Instr} {fn d dn a an slot : Nat} {unbound unbound' : List Word} {eff eff' : Lane → TreeDesc → State → Except FieldFault FieldDone}
    (he : ∀ s, exec i s = treeWord i fn d dn a an slot unbound eff s) (hunbound : unbound' = unbound) (heff : eff' = eff) :
    FieldWord i fn d dn 0 (fun _ _ => (List.range an).map (a + ·)) [] fun l _ s => treeEffect slot unbound' eff' l s :=
  isFieldWord_of_fieldWord he fun _ _ _ => by rw [hunbound, heff]

/-- A word that edits a voxel is a field word in the terms of the claims. -/
theorem isFieldWord_of_editWord {i : Instr} {fn d a an slot : Nat} {dataRegs : List Nat}
    {act : Lane → Bool → TreeDesc → Nat → Nat → State → Except FieldFault FieldDone} {eff' : Lane → Bool → State → Except FieldFault FieldDone}
    (he : ∀ s, exec i s = editWord i fn d a an slot dataRegs act s)
    (heff : ∀ l dp s, eff' l dp s = editEffect a slot act l dp s) : FieldWord i fn d 1 0 (fun _ _ => (List.range 3).map (a + ·)) dataRegs eff' :=
  isFieldWord_of_fieldWord he heff

/-- A binding word is a field word in the terms of the claims. -/
theorem isFieldWord_of_bindWord {i : Instr} {fn d a : Nat} {busy : State → List Byte → Bool} {set : Nat → List Byte → Option (Group → Group)} {unset : Group → Group}
    {eff' : Lane → Bool → State → Except FieldFault FieldDone} (he : ∀ s, exec i s = bindWord i fn d a busy set unset s)
    (heff : ∀ l dp s, eff' l dp s = bindEffect a (busy s) set unset l s) :
    FieldWord i fn d 1 0 (fun l s => if s.issue.pack.foldl min l.cur.tid = l.cur.tid then [a, a + 1] else []) [] eff' :=
  isFieldWord_of_fieldWord he heff

/-- A descriptor is busy where its bytes are accepted and name a tree whose sweep is running (R192). -/
theorem State.sweepingDescriptor_eq_any (s : State) (b : List Byte) : ((parseTree 0 b).map fun t => s.sweeping t.root).getD false
    = (parseTree 0 b).any fun t => s.marked.any fun m => m.tree.root == t.root && (m.held || m.swept) := by
  cases parseTree 0 b <;> rfl

/-- HGRID of an unbound slot gives sixteen NaNs, and is recorded (R206). -/
theorem gridEffect_unbound {a slot first : Nat} {l : Lane} {s : State} (h : l.grid slot = none) :
    gridEffect a slot first l s = .ok { words := List.replicate 8 0x7E007E00, s := s.fieldRecord l 1 } := by
  rw [gridEffect, h]
  rfl

/-! ### Requests to the allocator engine (R198, R200) -/

/-- A request for a bound tree, in flight and at the end of the engine's queue. -/
def State.askAllocator (s : State) (l : Lane) (fn d dn : Nat) (t : TreeDesc) (v : Vox) : State :=
  let s1 := s.fieldStart l { blankOp fn d dn 0 with tree := some t, x := v.x, y := v.y, z := v.z }
  { s1 with allocQ := s1.allocQ ++ [.word (s1.nextId - 1)] }

section
variable {i : Instr} {fn d dn a slot : Nat} {unbound : List Word} {s : State} {l : Lane} (hi : Issues i l s) (hcount : l.cur.outstanding 0 < 63)
  (hclean : l.consume ((List.range 3).map (a + ·)) = .ok false)
include hi hcount hclean

/-- A request for an unbound slot has its answer at once (R198). -/
theorem allocWord_unbound (htree : l.tree slot = none) : allocWord i fn d dn a slot unbound s
    = .next (((s.advanced l).fieldStart l { blankOp fn d dn 0 with result := some unbound }).settled i l s) := by
  refine runWord_one hi ?_
  simp only [overCount_of_lt hcount, hclean, htree, Bool.false_eq_true, if_false]

/-- A request for a bound tree goes to the engine (R198, R200). -/
theorem allocWord_bound {t : TreeDesc} (htree : l.tree slot = some t) : allocWord i fn d dn a slot unbound s
    = .next (((s.advanced l).askAllocator l fn d dn t (l.vox a)).settled i l s) := by
  refine runWord_one hi ?_
  simp only [overCount_of_lt hcount, hclean, htree, Bool.false_eq_true, if_false]
  rfl

end

/-! ### Adds of gradients (R207, R208) -/

/-- The address of the table that the adds of HGRAD, or of HGRADD, go to; 0 where the grid has none. -/
def GridDesc.gradTable (g : GridDesc) (wide : Bool) : DWord := if wide then g.part else g.grad

theorem GridDesc.gradTable_eq_zero (g : GridDesc) (wide : Bool) : ((wide && g.part == 0) || (!wide && g.grad == 0)) = (g.gradTable wide == 0) := by
  cases wide
  · exact Bool.false_or _
  · exact Bool.or_false _

/-- The contributions that a thread forms for the table of HGRAD, or for its core's partial table of HGRADD, and their flags. -/
def State.gradAdds (s : State) (l : Lane) (g : GridDesc) (wide : Bool) (d a first : Nat) : List Contribution × Flags :=
  let place := match s.span? l.g.sid with
    | some sp => (s.rectCores sp.x0 sp.y0 sp.w sp.h).findIdx (· == l.g.core)
    | none => 0
  contributions g first (l.nums a 3) (l.src.words d 8) (if wide then some (g.part.toNat + place * (8 * (g.lm1 + 1) * 2 ^ g.t * g.f)) else none)

section
variable {i : Instr} {wide : Bool} {d a slot first : Nat} {s : State} {l : Lane} {dp : Bool} (hi : Issues i l s) (hcount : l.cur.outstanding 1 < 63)
  (hbehind : (s.advanced l).behindAlloc l = false) (hposition : l.consume (l.posRegs a slot) = .ok false)
  (hup : l.consume ((List.range 8).map (d + ·)) = .ok dp)
include hi hcount hbehind hposition hup

/-- A gradient word whose slot is unbound, or whose grid has no table for its adds, is recorded, and is in flight with nothing added. -/
theorem gradWord_recorded {g : GridDesc} (hnone : l.grid slot = none ∨ (l.grid slot = some g ∧ g.gradTable wide = 0)) : gradWord i wide d a slot first s
    = .next ((((s.advanced l).fieldRecord l fsUnbound).fieldStart l { blankOp (if wide then 19 else 18) 0 0 1 with result := some [] }).settled i l s) := by
  refine runWord_one hi ?_
  simp only [overCount_of_lt hcount, hbehind, hposition, hup, Bool.false_eq_true, if_false]
  obtain hgrid | ⟨hgrid, htable⟩ := hnone <;> rw [hgrid]
  exact if_pos ((g.gradTable_eq_zero wide).trans (beq_iff_eq.mpr htable))

/-- A gradient word all of whose elements can be added to joins its contributions to those of its pack. -/
theorem gradWord_adds {g : GridDesc} (hgrid : l.grid slot = some g) (htable : g.gradTable wide ≠ 0)
    (hland : ∀ x ∈ ((s.advanced l).gradAdds l g wide d a first).1, ∃ r, (s.advanced l).addTarget l.g.core l.g.asid x.va = .ok r) :
    let adds := (s.advanced l).gradAdds l g wide d a first
    let s1 : State := { s.advanced l with
      issue := { (s.advanced l).issue with sums := adds.1.foldl (addSum l.cur.tid wide dp) (s.advanced l).issue.sums } }
    gradWord i wide d a slot first s = .next (((s1.updLane l fun t => t.raise adds.2).fieldStart l
      { blankOp (if wide then 19 else 18) 0 0 1 with result := some [] }).settled i l s) := by
  intro adds s1
  have htabled : ((wide && g.part == 0) || (!wide && g.grad == 0)) = false := (g.gradTable_eq_zero wide).trans (beq_eq_false_iff_ne.mpr htable)
  refine runWord_one hi ?_
  simp only [overCount_of_lt hcount, hbehind, hposition, hup, hgrid, htabled, Bool.false_eq_true, if_false]
  refine if_neg fun h => ?_
  have hsome := List.isEmpty_eq_false_iff.mp ((Bool.not_eq_true' _).mp (Bool.and_eq_true_iff.mp h).1)
  obtain ⟨x, hx⟩ := List.exists_mem_of_ne_nil _ hsome
  obtain ⟨hmem, hfails⟩ := List.mem_filter.mp hx
  obtain ⟨r, hr⟩ := hland x hmem
  rw [hr] at hfails
  exact Bool.false_ne_true hfails

end

end Sys2Proof.Machine
end

section
/-! THEOREMS. The words of the field unit. -/

open Sys2Proof Sys2Proof.Machine

/-- Settles O26: each word is a field word whose effect, case by case, is what the statement writes out; a descriptor that is read uncorrectably is
not accepted, whatever its bytes. -/
theorem fieldReadAndBindWords : Obligations.FieldReadAndBindWords := by
  refine ⟨fun c d a sl gs lv => ?reads, fun c d a sl gs => ?binds⟩
  case reads =>
    intro regs tree grid slotted none_
    have hunbound : none_ = fieldStatus fsUnbound 0 := by decide
    refine ⟨isFieldWord_of_treeWord (fun _ => rfl) (by rw [hunbound]) ?vld, isFieldWord_of_treeWord (fun _ => rfl) (by rw [hunbound]; rfl) rfl,
      isFieldWord_of_treeWord (fun _ => rfl) (by rw [hunbound]) rfl, isFieldWord_of_treeWord (fun _ => rfl) (by rw [hunbound]) rfl,
      isFieldWord_of_fieldWord (exec_vleaf c d sl) fun _ _ _ => rfl,
      isFieldWord_of_fieldWord (regs := fun l _ => l.posRegs a.toNat gs.toNat) (exec_hgrid c d a gs lv) fun l _ s => ?hgrid⟩
    case vld =>
      funext l t s
      unfold vldEffect
      show (match s.lookup l.reader t (l.vox a.toNat) with | .error _ => _ | .ok _ => _) = (asRead (s.lookup l.reader t (l.vox a.toNat)) >>= _)
      cases s.lookup l.reader t (l.vox a.toNat) <;> rfl
    case hgrid =>
      show (match l.grid gs.toNat with | none => _ | some _ => _) = _
      cases hgrid : l.grid gs.toNat with
      | none => exact (gridEffect_unbound hgrid).symm
      | some g => rfl
  case binds =>
    intro binds regs
    have heff : ∀ busy accept unset l dp s, binds busy accept unset l dp s = bindEffect a.toNat (busy s) accept unset l s := by
      intro busy accept unset l dp s
      simp only [binds, bindEffect, State.lowLane, fieldStatus_code]
      generalize (s.lane? (List.foldl min l.cur.tid s.issue.pack)).getD l = low
      generalize low.src.group a.toNat 2 = va
      cases s.issue.bound with
      | some b => rfl
      | none =>
        refine if_congr Iff.rfl rfl (if_congr Iff.rfl rfl (if_congr Iff.rfl rfl ?_))
        cases s.rd l.reader va 64 with
        | error e => rfl
        | ok r =>
          refine if_congr Iff.rfl rfl ?_
          -- read uncorrectably, an accepted descriptor and one that is not come to the same
          cases r.2 <;> cases accept va r.1 <;> rfl
    clear_value binds
    refine ⟨isFieldWord_of_bindWord (fun _ => rfl) fun l dp s => ?vbind, isFieldWord_of_bindWord (fun _ => rfl) (heff (fun _ _ => false) _ _)⟩
    case vbind =>
      simp only [State.sweepingDescriptor_eq_any]
      exact heff ..

/-- Settles O27: an edit is a field word whose effect is what the statement writes out; a request, and a gradient word, by its slot and the table of its adds. -/
theorem fieldEditAndAllocatorWords : Obligations.FieldEditAndAllocatorWords := by
  refine ⟨fun c d a sl => ?edits, fun c d a sl gs lv s l t g dp => ?asks⟩
  case edits =>
    intro regs edits bit
    have heff : ∀ act l dp s, edits act l dp s = editEffect a.toNat sl.toNat act l dp s := by
      intro act l dp s
      simp only [edits, editEffect, fieldStatus_code]
      rfl
    have hbit : ∀ set, activeEffect set = bit set := by
      intro set
      funext l dp t va n s
      simp only [activeEffect, bit, bits, pow_one]
      cases s.fieldWrite l (va + 0x20 + n / 8) 1 2 (fun b => (putBit (BitVec.ofNat 8 b) (n % 8) set).toNat) false with
      | error e => rfl
      | ok r => cases s.vread l.g.core (coreDie l.g.core) l.g.asid (va + 0x20 + n / 8) 1 <;> rfl
    exact ⟨isFieldWord_of_editWord (fun _ => rfl) (hbit false ▸ heff (activeEffect false)), isFieldWord_of_editWord (fun _ => rfl) (hbit true ▸ heff (activeEffect true)),
      isFieldWord_of_editWord (fun _ => rfl) (heff (storeEffect a.toNat))⟩
  case asks =>
    intro clean bound grid v op asks begun at_ adds position ready lands gather
    exact ⟨fun hi hcount hclean htree => allocWord_bound hi hcount hclean htree, fun hi hcount hclean htree => allocWord_bound hi hcount hclean htree,
      fun hi hcount hclean htree => allocWord_unbound hi hcount hclean htree, fun hi hcount hclean htree => allocWord_unbound hi hcount hclean htree,
      fun hi ⟨hcount, hbehind, hposition, hup⟩ => gradWord_recorded (wide := false) hi hcount hbehind hposition hup,
      fun hi ⟨hcount, hbehind, hposition, hup⟩ => gradWord_recorded (wide := true) hi hcount hbehind hposition hup,
      fun hi ⟨hcount, hbehind, hposition, hup⟩ => gradWord_adds (wide := false) hi hcount hbehind hposition hup,
      fun hi ⟨hcount, hbehind, hposition, hup⟩ => gradWord_adds (wide := true) hi hcount hbehind hposition hup⟩
end

section
/-! SUPPORT. The words of a tile (R222): what a write leaves of each; and the first of the threads that wait for a word (R223). -/

namespace Sys2Proof.Machine

/-- A written word is found where it was written, and every other word where it was found before. -/
theorem find?_putWord (ps : List (Nat × Word)) (w : Nat) (v : Word) (x : Nat) :
    (putWord ps w v).find? (fun p => p.1 == x) = if x = w then some (w, v) else ps.find? fun p => p.1 == x := by
  induction ps with
  | nil =>
    by_cases hx : x = w
    · simp [putWord, hx]
    · simp [putWord, hx, Ne.symm hx]
  | cons p ps ih =>
    rw [putWord]
    by_cases hx : x = w
    · rw [if_pos hx] at ih ⊢
      split_ifs with hlt heq
      · simp [hx]
      · simp [hx]
      · rwa [List.find?_cons_of_neg (by simp; omega)]
    · rw [if_neg hx] at ih ⊢
      split_ifs with hlt heq
      · rw [List.find?_cons_of_neg (by simp; omega)]
      · rw [List.find?_cons_of_neg (by simp; omega), List.find?_cons_of_neg (by simp; omega)]
      · rw [List.find?_cons, List.find?_cons, ih]

theorem Tile.word_setWord (t : Tile) (w : Nat) (v : Word) (p : Bool) (x : Nat) : (t.setWord w v p).word x = if x = w then v else t.word x := by
  have hfind : (t.setWord w v p).words.find? (fun q => q.1 == x) = if x = w then some (w, v) else t.words.find? fun q => q.1 == x :=
    find?_putWord t.words w v x
  rw [Tile.word, hfind]
  split_ifs <;> rfl

/-- The first waiter of a full word, where it waits to take the word and empty it, is served first. -/
theorem State.serve_fullEmpty {s : State} {t : Tile} {w gid tid n dst : Nat} {rest : List (Nat × Nat × Nat × TileWant × Nat)} (ht : s.tile? t.uid = some t)
    (hfull : t.full.contains w = true) (hfirst : s.wordWaiters t.uid w = (gid, tid, n, .fullEmpty, dst) :: rest) :
    s.serve t.uid w
      = ((s.deliver gid tid dst [t.word w] (entering (t.poison.contains w) 0)).updTile t.uid fun t => t.setFull w false).serveWord t.uid w rest.length := by
  simp only [State.serve, hfirst, List.length_cons, State.serveWord, ht, hfull, List.find?_cons]

end Sys2Proof.Machine
end

section
/-! THEOREMS. A tile's words, read after they were written. -/

open Sys2Proof Sys2Proof.Machine

/-- Settles O23: a written word is found where it was written; the waiter that is served first is the first that the word's state can serve. -/
theorem tileWordReadAfterWrite : Obligations.TileWordReadAfterWrite := by
  refine ⟨fun t w v p => ⟨?same, fun x hx => ?others, rfl⟩, fun s t w gid tid n dst rest ht hfull hfirst => ⟨_, State.serve_fullEmpty ht hfull hfirst⟩⟩
  case same => rw [Tile.word_setWord, if_pos rfl]
  case others => rw [Tile.word_setWord, if_neg hx]
end

section
/-! SUPPORT. The words that read and write a word of a tile (R222, R239): what a tile access names, and what each word then does. -/

namespace Sys2Proof.Machine

/-! ### The word that an access names (R240) -/

section
variable {l : Lane} {s : State} {h a b : Nat} {t : Tile}

theorem tileAccess_unallocated (hnone : s.handle? l.g h = none) : tileAccess l s h a b = .error tileTrap := by
  rw [tileAccess, hnone]

theorem tileAccess_level1 (ht : s.handle? l.g h = some t) (hlevel : t.level = 1) : tileAccess l s h a b = .error illegal := by
  simp only [tileAccess, ht, if_pos hlevel]

theorem tileAccess_outside (ht : s.handle? l.g h = some t) (hlevel : t.level ≠ 1) (hout : t.rows ≤ (l.src.reg a).toNat ∨ t.rw ≤ (l.src.reg b).toNat) :
    tileAccess l s h a b = .error tileTrap := by
  simp only [tileAccess, ht, if_neg hlevel, ge_iff_le, if_pos hout]

theorem tileAccess_inside (ht : s.handle? l.g h = some t) (hlevel : t.level ≠ 1) (hrow : (l.src.reg a).toNat < t.rows) (hcol : (l.src.reg b).toNat < t.rw)
    (hfilled : t.unfilled (l.src.reg a).toNat = false) :
    tileAccess l s h a b = .ok (t, (l.src.reg a).toNat * t.rw + (l.src.reg b).toNat) := by
  have hin : ¬((l.src.reg a).toNat ≥ t.rows ∨ (l.src.reg b).toNat ≥ t.rw) := by omega
  simp only [tileAccess, ht, if_neg hlevel, if_neg hin, hfilled, Bool.false_eq_true, if_false]

end

/-! ### Reading and writing the word (R222) -/

/-- The value of a tile's word goes to its register: at once where it is clean, as a load's value where it has the poison mark (R383). -/
def Lane.tileRead (l : Lane) (t : Tile) (w d : Nat) (s : State) : State :=
  if t.poison.contains w then s.lateValue l d (t.word w) else s.updLane l fun th => th.setReg d (t.word w)

theorem Lane.tileRead_clean {t : Tile} {w : Nat} (hw : t.poison.contains w = false) (l : Lane) (d : Nat) (s : State) :
    l.tileRead t w d s = s.updLane l fun th => th.setReg d (t.word w) := if_neg (by rw [hw]; decide)

theorem Lane.tileRead_poisoned {t : Tile} {w : Nat} (hw : ¬t.poison.contains w = false) (l : Lane) (d : Nat) (s : State) :
    l.tileRead t w d s = s.lateValue l d (t.word w) := if_pos (eq_true_of_ne_false hw)

section
variable {i : Instr} {l : Lane} {s : State} {d h a b : Nat} {t : Tile} {w : Nat}
variable (hi : Issues i l s) (hgrant : l.grant s = none) (hclean : l.consume [a, b] = .ok false)
include hi hgrant hclean

section
variable (hroom : l.cur.nLoad < 63)
include hroom

/-- A load from a tile's word goes on where it does not wait or the word is full. -/
theorem tileLoad_reads {wait : Bool} {u : State} (emptyIt : Bool) (hnamed : tileAccess l (s.advanced l) h a b = .ok (t, w))
    (hfull : wait = true → t.full.contains w = true) (hread : l.tileRead t w d (s.advanced l) = u) :
    tileLoad i wait emptyIt d h a b s = .next ((if emptyIt then (u.updTile t.uid fun t => t.setFull w false).serve t.uid w else u).settled i l s) := by
  have hgrant : l.grant (s.advanced l) = none := hgrant
  have hgoes : (wait && !t.full.contains w) = false := by cases wait <;> simp_all
  subst hread
  refine runWord_one hi ?_
  simp only [overCount_of_lt (cls := 0) hroom, hgrant, hclean, hnamed, hgoes, Bool.false_eq_true, if_false]
  rfl

/-- A load that waits for a full word parks at an empty one. -/
theorem tileLoad_parks (emptyIt : Bool) (hnamed : tileAccess l (s.advanced l) h a b = .ok (t, w)) (hempty : t.full.contains w = false) :
    tileLoad i true emptyIt d h a b s = .next (s.stopLane l.cur.tid (.park (.tileWord t.uid w (if emptyIt then .fullEmpty else .full) d))) := by
  have hgrant : l.grant (s.advanced l) = none := hgrant
  refine runWord_one_stop hi ?_
  simp only [overCount_of_lt (cls := 0) hroom, hgrant, hclean, hnamed, hempty, Bool.false_eq_true, if_false]
  rfl

theorem tileLoad_stops (wait emptyIt : Bool) {st : Stop} (hstop : tileAccess l (s.advanced l) h a b = .error st) :
    tileLoad i wait emptyIt d h a b s = .next (s.stopLane l.cur.tid st) := by
  have hgrant : l.grant (s.advanced l) = none := hgrant
  refine runWord_one_stop hi ?_
  simp only [overCount_of_lt (cls := 0) hroom, hgrant, hclean, hstop, Bool.false_eq_true, if_false]

end

section
variable (hroom : l.cur.nStore < 63)
include hroom

/-- A store to a tile's word goes on where the fence of its hand-off, if it makes one, is done, and it does not wait or the word is empty. -/
theorem tileStore_writes {wait raw : Bool} (hnamed : tileAccess l (s.advanced l) h a b = .ok (t, w)) (hfence : raw = true ∨ handoffFence l (s.advanced l) t = none)
    (hempty : wait = true → t.full.contains w = false) :
    tileStore i wait raw d h a b s = .next ((((s.advanced l).updTile t.uid fun t =>
      let t := t.setWord w (l.src.reg d) (l.src.anyPoison [d]); if raw then t else t.setFull w true).serve t.uid w).settled i l s) := by
  have hgrant : l.grant (s.advanced l) = none := hgrant
  have hgoes : (wait && t.full.contains w) = false := by cases wait <;> simp_all
  have hdone : (if raw = true then none else handoffFence l (s.advanced l) t) = none := by cases raw <;> simp_all
  refine runWord_one hi ?_
  simp only [overCount_of_lt (cls := 1) hroom, hgrant, hclean, hnamed, hgoes, hdone, Bool.false_eq_true, if_false]

/-- A store that waits for an empty word parks at a full one, with the value that it will write. -/
theorem tileStore_parks (hnamed : tileAccess l (s.advanced l) h a b = .ok (t, w)) (hfence : handoffFence l (s.advanced l) t = none)
    (hfull : t.full.contains w = true) :
    tileStore i true false d h a b s = .next (s.stopLane l.cur.tid (.park (.tileWord t.uid w (.empty (l.src.reg d) (l.src.anyPoison [d])) 0))) := by
  have hgrant : l.grant (s.advanced l) = none := hgrant
  refine runWord_one_stop hi ?_
  simp only [overCount_of_lt (cls := 1) hroom, hgrant, hclean, hnamed, hfence, hfull, Bool.false_eq_true, if_false, Bool.and_self, if_true]

theorem tileStore_stops (wait raw : Bool) {st : Stop} (hstop : tileAccess l (s.advanced l) h a b = .error st) :
    tileStore i wait raw d h a b s = .next (s.stopLane l.cur.tid st) := by
  have hgrant : l.grant (s.advanced l) = none := hgrant
  refine runWord_one_stop hi ?_
  simp only [overCount_of_lt (cls := 1) hroom, hgrant, hclean, hstop, Bool.false_eq_true, if_false]

end

end

end Sys2Proof.Machine
end

section
/-! THEOREMS. The words that read and write a word of a tile. -/

open Sys2Proof Sys2Proof.Machine

/-- Settles O22: the six words are one load and one store, each by whether it waits and whether it changes the word's bit. -/
theorem tileWords : Obligations.TileWords := by
  intro c d h a b s l t r k w idle named fence clean reads v p full trap hidle
  obtain ⟨hgrant, hload, hstore, hclean⟩ := hidle
  have inside : named → tileAccess l (s.advanced l) h.toNat a.toNat b.toNat = .ok (t, w) :=
    fun ⟨ht, hlevel, hrow, hcol, hfilled⟩ => tileAccess_inside ht hlevel hrow hcol hfilled
  have released : fence → handoffFence l (s.advanced l) t = none := fun hf => if_pos hf
  refine ⟨fun hn hc hi => tileLoad_reads (wait := false) hi hgrant hclean hload false (inside hn) nofun (Lane.tileRead_clean hc ..),
    fun hn hc hf hi => tileLoad_reads hi hgrant hclean hload false (inside hn) (fun _ => hf) (Lane.tileRead_clean hc ..),
    fun hn hc hf hi => tileLoad_reads hi hgrant hclean hload true (inside hn) (fun _ => hf) (Lane.tileRead_clean hc ..),
    fun hn hc hi => tileLoad_reads (wait := false) hi hgrant hclean hload false (inside hn) nofun (Lane.tileRead_poisoned hc ..),
    fun hn hc hf hi => tileLoad_reads hi hgrant hclean hload false (inside hn) (fun _ => hf) (Lane.tileRead_poisoned hc ..),
    fun hn hf hi => tileStore_writes hi hgrant hclean hstore (inside hn) (.inr (released hf)) nofun,
    fun hn hf he hi => tileStore_writes hi hgrant hclean hstore (inside hn) (.inr (released hf)) fun _ => he,
    fun hn hi => tileStore_writes hi hgrant hclean hstore (inside hn) (.inl rfl) nofun,
    fun hn he hi => tileLoad_parks hi hgrant hclean hload false (inside hn) he, fun hn he hi => tileLoad_parks hi hgrant hclean hload true (inside hn) he,
    fun hn hf hfull hi => tileStore_parks hi hgrant hclean hstore (inside hn) (released hf) hfull, ?stops⟩
  case stops =>
    intro i hmem hi
    have stops : ∀ st, tileAccess l (s.advanced l) h.toNat a.toNat b.toNat = .error st → exec i s = .next (s.stopLane l.cur.tid st) := by
      intro st hstop
      simp only [List.mem_cons, List.not_mem_nil, or_false] at hmem
      rcases hmem with rfl | rfl | rfl | rfl | rfl | rfl
      · exact tileLoad_stops hi hgrant hclean hload false false hstop
      · exact tileLoad_stops hi hgrant hclean hload true false hstop
      · exact tileLoad_stops hi hgrant hclean hload true true hstop
      · exact tileStore_stops hi hgrant hclean hstore false false hstop
      · exact tileStore_stops hi hgrant hclean hstore true false hstop
      · exact tileStore_stops hi hgrant hclean hstore false true hstop
    exact ⟨fun hnone => stops _ (tileAccess_unallocated hnone), fun ht hlevel hout => stops _ (tileAccess_outside ht hlevel hout),
      fun ht hlevel => stops _ (tileAccess_level1 ht hlevel)⟩
end

section
/-! SUPPORT. The words that manage tiles (R241-R250): their status with its effect, what they wait for, and the tile that TALLOC gives (R242). -/

namespace Sys2Proof.Machine

/-! ### Words that write a status (R243-R248) -/

section
variable {i : Instr} {l : Lane} {s : State} (hi : Issues i l s) (hroom : l.cur.nTile < 63)
include hi hroom

/-- A word that manages a tile, where its group holds the handle: the effect, and the status after it. -/
theorem tileWordOp_held {d h : Nat} {t : Tile} (ht : (s.advanced l).handle? l.g h = some t) {f : Lane → Tile → State → Except Stop (Nat × State)} {st : Nat} {u : State}
    (hf : f l t (s.advanced l) = .ok (st, u)) :
    tileWordOp i d h f s = .next ((u.updLane l fun th => th.setReg d (BitVec.ofNat 32 st)).settled i l s) := by
  refine runWord_one hi ?_
  simp only [overCount_of_lt (cls := 3) hroom, ht, hf, Bool.false_eq_true, if_false]

theorem tileWordOp_unallocated {d h : Nat} (hnone : (s.advanced l).handle? l.g h = none) (f : Lane → Tile → State → Except Stop (Nat × State)) :
    tileWordOp i d h f s = .next (((s.advanced l).updLane l fun th => th.setReg d (BitVec.ofNat 32 2)).settled i l s) := by
  refine runWord_one hi ?_
  simp only [overCount_of_lt (cls := 3) hroom, hnone, Bool.false_eq_true, if_false]

end

section
variable {c : BitVec 1} {d : BitVec 6} {h : BitVec 5} {a : BitVec 6} {s : State} {l : Lane} {t : Tile}

/-- TALLOC of a thread writes the status that the allocation gives (R243). -/
theorem execTalloc_one {g : Group} (hi : Issues (.talloc c d h a) l s) (hroom : l.cur.nTile < 63) (hg : (s.advanced l).group? l.g.gid = some g) :
    Completes (.talloc c d h a) l s fun s =>
      let r := s.allocTile g h.toNat (l.src.reg a.toNat) (l.src.reg (a.toNat + 1))
      r.2.updLane l fun t => t.setReg d.toNat (BitVec.ofNat 32 r.1) := by
  refine runWord_one hi ?_
  simp only [overCount_of_lt (cls := 3) hroom, hg, Bool.false_eq_true, if_false]

section
variable (hi : Issues (.tfree c d h) l s) (hroom : l.cur.nTile < 63)
include hi hroom

theorem execTfree_held (ht : (s.advanced l).handle? l.g h.toNat = some t) : Completes (.tfree c d h) l s (beginTileOp l t d.toNat h.toNat true) := by
  refine runWord_one hi ?_
  simp only [overCount_of_lt (cls := 3) hroom, ht, Bool.false_eq_true, if_false]

theorem execTfree_unallocated (hnone : (s.advanced l).handle? l.g h.toNat = none) : Completes (.tfree c d h) l s fun s => s.updLane l fun t => t.setReg d.toNat 2 := by
  refine runWord_one hi ?_
  simp only [overCount_of_lt (cls := 3) hroom, hnone, Bool.false_eq_true, if_false]

end

section
variable (hi : Issues (.tflush c d h) l s) (hroom : l.cur.nTile < 63)
include hi hroom

theorem execTflush_bound (ht : (s.advanced l).handle? l.g h.toNat = some t) (hbind : t.bind ≠ none) :
    Completes (.tflush c d h) l s (beginTileOp l t d.toNat h.toNat false) := by
  refine runWord_one hi ?_
  simp only [overCount_of_lt (cls := 3) hroom, ht, Bool.false_eq_true, if_false, Option.isNone_iff_eq_none, if_neg hbind]

theorem execTflush_unbound (ht : (s.advanced l).handle? l.g h.toNat = some t) (hbind : t.bind = none) :
    Completes (.tflush c d h) l s fun s => s.updLane l fun t => t.setReg d.toNat 0 := by
  refine runWord_one hi ?_
  simp only [overCount_of_lt (cls := 3) hroom, ht, hbind, Option.isNone_none, Bool.false_eq_true, if_false, if_true]

theorem execTflush_unallocated (hnone : (s.advanced l).handle? l.g h.toNat = none) : Completes (.tflush c d h) l s fun s => s.updLane l fun t => t.setReg d.toNat 2 := by
  refine runWord_one hi ?_
  simp only [overCount_of_lt (cls := 3) hroom, hnone, Bool.false_eq_true, if_false]

end

end

/-! ### The tile that TALLOC gives (R242) -/

/-- The shapes of tiles of a core's own levels that are no bit planes lie in the map of R242. -/
theorem shapeOk_core {a b : Word} (hrows : a.toNat % 65536 ≠ 0) (hcols : a.toNat / 65536 ≠ 0) (hecode : b.toNat % 16 ≤ 4) (hplanes : b.toNat / 16 % 16 = 0)
    (hlevel : b.toNat / 256 % 4 ≤ 1) (hrest : b.toNat / 1024 = 0) : shapeOk a b = true := by
  have ha := a.isLt
  have hcols' : a.toNat / 65536 % 65536 ≠ 0 := by omega
  have hfive : b.toNat % 16 ≠ 5 := by omega
  have htwo : b.toNat / 256 % 4 ≠ 2 := by omega
  have hmid : b.toNat / 1024 % 64 = 0 := by omega
  have hhigh : b.toNat / 65536 % 65536 = 0 := by omega
  simp [shapeOk, bits, hrows, hcols', hfive, htwo, hmid, hhigh, hplanes]
  exact ⟨by omega, decide_eq_true (by omega)⟩

/-- The fresh tile of a shape, with the words of earlier tiles of its context that it may hold (R242, R350). -/
def State.freshTile (s : State) (g : Group) (a b : Word) : Tile :=
  { newTile s.nextId g a b with old := (s.oldWords.filter fun p => p.1 == g.asid).map (·.2) }

/-- The state in which a group holds a new tile under a handle. -/
def State.withTile (s : State) (g : Group) (h : Nat) (t : Tile) : State :=
  ({ s with tiles := s.tiles ++ [t], nextId := s.nextId + 1 } : State).updGroup g.gid fun g => { g with handles := g.handles ++ [(h, t.uid)] }

/-- TALLOC of a tile of a core's own level gives the fresh tile where the handle is free and the level has room. -/
theorem State.allocTile_core {s : State} {g : Group} {h : Nat} {a b : Word} (hfree : g.handles.any (fun p => p.1 == h) = false) (hshape : shapeOk a b = true)
    (hlevel : (s.freshTile g a b).level ≠ 2)
    (hroom : s.tileUse (s.freshTile g a b).level g.core + tileBytes (s.freshTile g a b).rows (s.freshTile g a b).rw ≤ levelSize (s.freshTile g a b).level) :
    s.allocTile g h a b = (0, s.withTile g h (s.freshTile g a b)) := by
  simp only [State.freshTile] at hlevel hroom
  simp only [State.allocTile, hfree, hshape, if_neg hlevel, gt_iff_lt, Nat.not_lt.mpr hroom, Bool.not_true, Bool.false_eq_true, if_false]
  rfl

theorem State.group?_withTile {s : State} {g : Group} (hg : s.group? g.gid = some g) (h : Nat) (t : Tile) :
    (s.withTile g h t).group? g.gid = some { g with handles := g.handles ++ [(h, t.uid)] } := by
  have hg : ({ s with tiles := s.tiles ++ [t], nextId := s.nextId + 1 } : State).group? g.gid = some g := hg
  rw [State.withTile, State.group?_updGroup _ _ _ _ fun _ => by rfl, hg, Option.map_some, if_pos rfl]

/-! ### WAITA, TINFO, RACQ and RREL (R221, R247-R249) -/

section
variable {c : BitVec 1} {d : BitVec 6} {h : BitVec 5} {a : BitVec 6} {s : State} {l : Lane} {t : Tile}

section
variable (hi : Issues (.waita c d h a) l s) (hgrant : l.grant s = none) (ht : (s.advanced l).handle? l.g h.toNat = some t)
include hi hgrant ht

/-- WAITA of a thread goes on with what its tile answers. -/
theorem execWaita_answered {v : Word} (hv : t.waitaResult (l.src.reg a.toNat) = some v) :
    Completes (.waita c d h a) l s fun s => s.updLane l fun th => th.setReg d.toNat v := by
  have hgrant : l.grant (s.advanced l) = none := hgrant
  refine runWord_one hi ?_
  simp only [hgrant, ht, hv]

theorem execWaita_parks (hv : t.waitaResult (l.src.reg a.toNat) = none) :
    exec (.waita c d h a) s = .next (s.stopLane l.cur.tid (.park (.arrival t.uid (l.src.reg a.toNat) d.toNat))) := by
  have hgrant : l.grant (s.advanced l) = none := hgrant
  refine runWord_one_stop hi ?_
  simp only [hgrant, ht, hv]

end

section
variable (hi : Issues (.tinfo c d h a) l s) (hroom : l.cur.nTile < 63)
include hi hroom

theorem execTinfo_held (ht : (s.advanced l).handle? l.g h.toNat = some t) :
    Completes (.tinfo c d h a) l s fun s => s.updLane l fun th => th.setWords d.toNat (t.info (l.src.reg a.toNat).toNat) := by
  refine runWord_one hi ?_
  simp only [overCount_of_lt (cls := 3) hroom, ht, Bool.false_eq_true, if_false]

theorem execTinfo_unallocated (hnone : (s.advanced l).handle? l.g h.toNat = none) :
    Completes (.tinfo c d h a) l s fun s => s.updLane l fun th => th.setWords d.toNat [0, 0, 0, 0] := by
  refine runWord_one hi ?_
  simp only [overCount_of_lt (cls := 3) hroom, hnone, Bool.false_eq_true, if_false]

end

section
variable (hi : Issues (.racq c d h a) l s) (hgrant : l.grant s = none) (ht : (s.advanced l).handle? l.g h.toNat = some t)
include hi hgrant ht

theorem execRacq_notRing (hring : t.ring = none) : Completes (.racq c d h a) l s fun s => s.updLane l fun th => th.setWords d.toNat [0xFFFFFFFF, 8] := by
  have hgrant : l.grant (s.advanced l) = none := hgrant
  refine runWord_one hi ?_
  simp only [hgrant, ht, hring]

/-- RACQ of a thread reserves the next sequence of its role where there is one (R247). -/
theorem execRacq_acquires {r : Ring} {consumer : Bool} (hring : t.ring = some r) (hrole : (l.src.reg a.toNat).toNat = consumer.toNat)
    (hcan : r.canAcquire consumer = true) :
    Completes (.racq c d h a) l s fun s =>
      (s.updTile t.uid fun t => { t with ring := some (r.acquire consumer).2 }).updLane l fun th => th.setWords d.toNat [(r.acquire consumer).1, 0] := by
  have hgrant : l.grant (s.advanced l) = none := hgrant
  have hknown : ¬consumer.toNat > 1 := by cases consumer <;> decide
  have hconsumer : (consumer.toNat == 1) = consumer := by cases consumer <;> rfl
  refine runWord_one hi ?_
  simp only [hgrant, ht, hring, hrole, if_neg hknown, hconsumer, hcan, if_true]

end

end

end Sys2Proof.Machine
end

section
/-! THEOREMS. The words that manage tiles. -/

open Sys2Proof Sys2Proof.Machine

/-- Settles O24: each word is one branch of its meaning, by its handle and the tile; a shape of a core's own level that has room gives the fresh tile. -/
theorem tileManagementWords : Obligations.TileManagementWords := by
  refine ⟨fun c d h a s l g t hroom => ?manages, fun s g h a b => ?gives, fun c d h a s l t r r' => ?waits⟩
  case manages =>
    intro put s0 has none_ n base pitch bindShape ringShape
    have hbind : (t.ring.isSome || t.level == 1 || base % 4 != 0 || pitch % 4 != 0 || decide (pitch < t.rw * 4) || l.src.reg (a.toNat + 3) != 0) = true ↔ ¬bindShape := by
      simp only [bindShape, Bool.or_eq_true, Option.isSome_iff_ne_none, beq_iff_eq, bne_iff_ne, decide_eq_true_eq, ← Nat.not_le]
      tauto
    have hring : (t.bind.isSome || t.level == 1 || (n != 0 && (decide (n < 2 ∨ n > 64) || t.rows % n != 0))) = true ↔ ¬ringShape := by
      simp only [ringShape, Bool.or_eq_true, Bool.and_eq_true, Option.isSome_iff_ne_none, beq_iff_eq, bne_iff_ne, decide_eq_true_eq,
        show n < 2 ∨ n > 64 ↔ ¬(2 ≤ n ∧ n ≤ 64) by omega]
      tauto
    refine ⟨fun hi hg => execTalloc_one hi hroom hg, fun hi ht => execTfree_held hi hroom ht, fun hi hnone => execTfree_unallocated hi hroom hnone,
      fun hi ht hbind => execTflush_bound hi hroom ht hbind, fun hi ht hbind => execTflush_unbound hi hroom ht hbind,
      fun hi hnone => execTflush_unallocated hi hroom hnone, fun hi hnone => tileWordOp_unallocated hi hroom hnone _,
      fun hi ht hshape => tileWordOp_held hi hroom ht (if_pos (hbind.mpr hshape)),
      fun hi ht hshape hfree hidle => tileWordOp_held hi hroom ht ((if_neg fun h => hbind.mp h hshape).trans (if_neg (by rw [hfree]; exact ne_true_of_eq_false hidle))),
      fun hi ht hshape hbusy => tileWordOp_held hi hroom ht ((if_neg fun h => hbind.mp h hshape).trans (if_pos (by rwa [Bool.or_eq_true, Option.isSome_iff_ne_none]))),
      fun hi ht hshape hidle => tileWordOp_held hi hroom ht ((if_neg fun h => hring.mp h hshape).trans (if_neg (ne_true_of_eq_false hidle))),
      fun hi ht hshape => tileWordOp_held hi hroom ht (if_pos (hring.mpr hshape)),
      fun hi ht hshape hbusy => tileWordOp_held hi hroom ht ((if_neg fun h => hring.mp h hshape).trans (if_pos hbusy)),
      fun hi ht hn => tileWordOp_held hi hroom ht (if_neg (Nat.not_lt.mpr hn)),
      fun hi ht hn => tileWordOp_held hi hroom ht (if_neg (Nat.not_le.mpr hn)),
      fun hi ht hn => tileWordOp_held hi hroom ht (if_pos hn)⟩
  case gives =>
    intro rows cols ecode level hg hfree hrows hcols hecode hplanes hlevel hrest hroom
    have hrows' : (s.freshTile g a b).rows = rows := by simp [State.freshTile, newTile, bits, rows]
    have hcols' : (s.freshTile g a b).cols = cols := by simp [State.freshTile, newTile, bits, cols]; omega
    have hecode' : (s.freshTile g a b).ecode = ecode := by simp [State.freshTile, newTile, bits, ecode]
    have hlevel' : (s.freshTile g a b).level = level := by simp [State.freshTile, newTile, bits, level]
    have hplanes' : (s.freshTile g a b).planes = 0 := by simpa [State.freshTile, newTile, bits] using hplanes
    have halloc : s.allocTile g h a b = (0, s.withTile g h (s.freshTile g a b)) := by
      refine State.allocTile_core hfree (shapeOk_core hrows hcols hecode hplanes hlevel hrest) ?_ ?_
      · rw [hlevel']
        omega
      · have hsize : levelSize level = if level = 0 then 512 * 1024 else 1024 * 1024 := by
          rcases (show level = 0 ∨ level = 1 by omega) with h0 | h1
          · rw [h0]; rfl
          · rw [h1]; rfl
        rw [Tile.rw, hlevel', hrows', hcols', hecode', hplanes', hsize]
        exact hroom
    rw [halloc]
    refine ⟨rfl, ?_, s.freshTile g a b, List.mem_append_right _ (List.mem_singleton_self _), rfl, hrows', hcols', hecode', hlevel', rfl, rfl, rfl, rfl, rfl, rfl, rfl⟩
    rw [State.group?_withTile hg]
    rfl
  case waits =>
    intro has arg sat words put role
    refine ⟨fun hi hgrant ht hsat => execWaita_answered hi hgrant ht (if_pos (decide_eq_true hsat)),
      fun hi hgrant ht hsat hfail => execWaita_answered hi hgrant ht ((if_neg (decide_eq_true_iff.not.mpr hsat)).trans (if_pos hfail)),
      fun hi hgrant ht hsat hfail => execWaita_parks hi hgrant ht ((if_neg (decide_eq_true_iff.not.mpr hsat)).trans (if_neg (ne_true_of_eq_false hfail))),
      fun hi hroom ht => execTinfo_held hi hroom ht, fun hi hroom hnone => execTinfo_unallocated hi hroom hnone,
      fun hi hgrant ht hring harg hcan => execRacq_acquires (consumer := false) hi hgrant ht hring (congrArg BitVec.toNat harg) (decide_eq_true hcan),
      fun hi hgrant ht hring harg hone hlt => execRacq_acquires (consumer := true) hi hgrant ht hring (congrArg BitVec.toNat harg) (decide_eq_true ⟨hone, hlt⟩),
      fun hi hgrant ht hring => execRacq_notRing hi hgrant ht hring,
      fun hi hroom ht hring hrole hrel => tileWordOp_held hi hroom ht ?released,
      fun hi hroom ht hring hrole hheld => tileWordOp_held hi hroom ht ?unheld,
      fun hi hroom ht hring => tileWordOp_held hi hroom ht ?notRing⟩
    case released =>
      simp only [hring]
      exact (if_neg (Nat.not_lt.mpr hrole)).trans (by rw [hrel])
    case unheld =>
      have hrel : r.release (role == 1) arg = none := by rw [hrole]; exact if_neg (ne_true_of_eq_false hheld)
      have hknown : ¬role > 1 := by omega
      simp only [hring]
      exact (if_neg hknown).trans (by rw [hrel])
    case notRing => simp only [hring]
end

section
/-! SUPPORT. LD.FUT and WAITU (R225, R227, R256, R259): what each leaves where it parks its thread, and that no trap of its chain takes the
thread from there unless the chain raised a flag (R381). -/

namespace Sys2Proof.Machine

/-! ### A thread that parks (R27) -/

/-- A thread that parks stands at its cause, with its registers, its loads and the flags of its chain. -/
theorem State.thread?_parkThread {s : State} {gid tid : Nat} {x : Thread} (hx : s.thread? gid tid = some x) (c : Cause) :
    ∃ y, (s.parkThread gid tid c).thread? gid tid = some y ∧ y.st = .parked c ∧ y.regs = x.regs ∧ y.nLoad = x.nLoad ∧ y.raised = x.raised :=
  ⟨_, State.thread?_updThread_self _ hx, rfl, rfl, rfl, rfl⟩

/-- No arithmetic trap is taken before the end of a chain, nor at the end of one that raised no flag (R381). -/
theorem State.arithTrap_of_quiet {s : State} {gid tid : Nat} {x : Thread} (hx : s.thread? gid tid = some x) (h : x.raised = 0 ∨ s.issue.last = false) :
    s.arithTrap gid tid = s := by
  obtain ⟨g, hg, -⟩ := Option.bind_eq_some_iff.mp hx
  rcases h with hraised | hlast
  · exact State.arithTrap_none hg hx (by rw [hraised]; exact BitVec.zero_and)
  · simp only [State.arithTrap, hg, hx, hlast, Bool.false_and, Bool.false_eq_true, if_false]

section
variable {i : Instr} {l : Lane} {s u : State} {x : Thread}

/-- What follows a word leaves its thread, where no trap is due, as poison settles in it. -/
theorem State.thread?_settled_of_quiet (hx : u.thread? s.issue.gid l.cur.tid = some x) (h : x.raised = 0 ∨ u.issue.last = false) :
    (u.settled i l s).thread? s.issue.gid l.cur.tid = some (l.after i s x) := by
  have hafter : (u.updThread s.issue.gid l.cur.tid (l.after i s)).thread? s.issue.gid l.cur.tid = some (l.after i s x) := by
    rw [State.thread?_updThread_self _ hx]
    exact congrArg some (Thread.tid_eta _ _ (Thread.settle_keeps ..).1)
  rw [State.settled, State.arithTrap_of_quiet hafter]
  · exact hafter
  · exact h.imp_left fun hraised => by simpa [Lane.after] using hraised

/-- A word that parks its thread, in a state in which it stood as `x`, leaves it parked where no trap is due: with its registers and its loads. -/
theorem State.parked_settled {v : State} {c : Cause} (hx : v.thread? s.issue.gid l.cur.tid = some x)
    (hgroups : u.groups = (v.parkThread s.issue.gid l.cur.tid c).groups) (hissue : u.issue = s.issue)
    (h : x.raised = 0 ∨ s.issue.last = false) :
    ∃ y, (u.settled i l s).thread? s.issue.gid l.cur.tid = some y ∧ y.st = .parked c ∧ y.regs = x.regs ∧ y.nLoad = x.nLoad := by
  obtain ⟨y, hy, hst, hregs, hloads, hraised⟩ := State.thread?_parkThread hx c
  have hu : u.thread? s.issue.gid l.cur.tid = some y := by
    rw [← hy]
    simp only [State.thread?, State.group?, hgroups]
  refine ⟨_, State.thread?_settled_of_quiet hu (hissue ▸ h.imp_left hraised.trans), ?_⟩
  simp [Lane.after, hst, hregs, hloads]

end

/-- A chain has raised no flag as its word issues where it had raised none, or the word stands alone; and else it may not have ended (R381). -/
theorem Thread.advance_quiet {t : Thread} {i : Issue} (h : t.raised = 0 ∨ i.last = false ∨ i.alone = true) :
    (t.advance i).raised = 0 ∨ i.last = false := by
  rcases h with hraised | hlast | halone
  · exact .inl (by simp only [Thread.advance, hraised, ite_self])
  · exact .inr hlast
  · exact .inl (by simp only [Thread.advance, halone, if_true])

/-! ### LD.FUT (R225, R256) -/

section
variable {c : BitVec 1} {d a b : BitVec 6} {s : State} {l : Lane} {ps : List (Trans × Nat)}

/-- The access of an LD.FUT to its cell. -/
def Lane.ldFutAcc (l : Lane) (d a b : BitVec 6) (ps : List (Trans × Nat)) (s : State) : Acc :=
  { ({ kind := .ldFut, ea := l.src.group a.toNat 2, size := 8, dst := d.toNat, dcnt := 2, need := { r := true }, facc := 0, addrRegs := [] } : Req).toAcc l s with
    parts := partsOf ps (l.src.group a.toNat 2) 8, streg := b.toNat }

/-- The state in which an LD.FUT's thread stands parked, and its access is on its way. -/
def Lane.ldFutParked (l : Lane) (d a b : BitVec 6) (ps : List (Trans × Nat)) (s : State) : State :=
  let ea := l.src.group a.toNat 2
  let u := ((s.tlbFill l.g.core (coreDie l.g.core) l.g.asid ea).updLane l fun t => t.begin 0).parkThread l.g.gid l.cur.tid
    (.future d.toNat b.toNat (BitVec.ofNat 64 ea))
  { u with accs := u.accs ++ [{ l.ldFutAcc d a b ps s with id := u.nextId }], nextId := u.nextId + 1 }

section
variable (hi : Issues (.ldFut c d a b) l s) (hroom : l.cur.nLoad < 63) (hclean : l.consume [a.toNat, a.toNat + 1] = .ok false)
variable (halign : l.src.group a.toNat 2 % 8 = 0)
variable (hps : (s.advanced l).translateAll l.g.core (coreDie l.g.core) l.g.asid (l.src.group a.toNat 2) 8 { r := true } = .ok ps)
include hi hroom hclean halign hps

theorem execLdFut_notFuture (hfut : ps.any (fun p => !p.1.fut) = true) :
    Completes (.ldFut c d a b) l s fun s => s.updLane l fun t => t.setReg b.toNat 2 := by
  refine runWord_one hi ?_
  simp only [ge_iff_le, Nat.not_le.mpr hroom, hclean, halign, ne_eq, not_true_eq_false, hps, hfut, if_false, if_true]

theorem execLdFut_parks (hfut : ps.any (fun p => !p.1.fut) = false) : Completes (.ldFut c d a b) l s (l.ldFutParked d a b ps) := by
  refine runWord_one hi ?_
  simp only [ge_iff_le, Nat.not_le.mpr hroom, hclean, halign, ne_eq, not_true_eq_false, hps, hfut, if_false, Bool.false_eq_true]
  rfl

end

/-- The access of a parked LD.FUT is on its way, no byte of memory changes, and of the groups only that the thread parks with one load more. -/
theorem Lane.ldFutParked_leaves (l : Lane) (d a b : BitVec 6) (ps : List (Trans × Nat)) (s : State) :
    (∃ id, (l.ldFutParked d a b ps s).accs = s.accs ++ [{ l.ldFutAcc d a b ps s with id := id }]) ∧ s.sameMemory (l.ldFutParked d a b ps s)
      ∧ (l.ldFutParked d a b ps s).groups = ((s.updLane l fun t => t.begin 0).parkThread l.g.gid l.cur.tid
          (.future d.toNat b.toNat (BitVec.ofNat 64 (l.src.group a.toNat 2)))).groups
      ∧ (l.ldFutParked d a b ps s).issue = s.issue := by
  obtain ⟨ts, ds, htlb⟩ := s.tlbFill_eq l.g.core (coreDie l.g.core) l.g.asid (l.src.group a.toNat 2)
  rw [Lane.ldFutParked, htlb]
  exact ⟨⟨_, rfl⟩, State.sameMemory_of_copies rfl rfl rfl rfl rfl, rfl, rfl⟩

/-- The thread of an LD.FUT stands parked at its cell, with one load more, where no trap of its chain is due. -/
theorem Lane.ldFutParked_thread (d a b : BitVec 6) (ps : List (Trans × Nat)) (i : Instr) (hl : s.lane? l.cur.tid = some l)
    (hquiet : l.cur.raised = 0 ∨ s.issue.last = false ∨ s.issue.alone = true) :
    ∃ y, ((l.ldFutParked d a b ps (s.advanced l)).settled i l s).thread? s.issue.gid l.cur.tid = some y
      ∧ y.st = .parked (.future d.toNat b.toNat (BitVec.ofNat 64 (l.src.group a.toNat 2))) ∧ y.nLoad = l.cur.nLoad + 1 := by
  obtain ⟨-, -, hgroups, hissue⟩ := l.ldFutParked_leaves d a b ps (s.advanced l)
  rw [(State.lane?_some hl).2.1] at hgroups
  obtain ⟨y, hy, hst, -, hloads⟩ := State.parked_settled (i := i) (State.thread?_updLane_advanced hl fun t => t.begin 0) hgroups
    hissue (Thread.advance_quiet hquiet)
  exact ⟨y, hy, hst, hloads⟩

end

/-! ### WAITU (R227, R259) -/

section
variable {c : BitVec 1} {d a b : BitVec 6} {m : BitVec 3} {z : BitVec 1} {s : State} {l : Lane} {x : Trans} {n : Nat} {ps : List (Trans × Nat)}

/-- The monitor entry of a WAITU, for a word at a translated address (R227). -/
def Lane.waituEntry (l : Lane) (d a b : BitVec 6) (m : BitVec 3) (z : BitVec 1) (x : Trans) (id : Nat) : Monitor :=
  { id := id, asid := l.g.asid, die := x.home, slice := homeSlice (x.pa / 128), pa := x.pa, va := BitVec.ofNat 64 (l.src.group a.toNat 2)
    wide := z == 1, cmp := m.toNat, shadow := l.src.popen, slot := l.g.tslots.getD l.cur.tid 0, opnd := BitVec.ofNat 64 (l.src.group b.toNat (2 ^ z.toNat))
    timeout := (l.src.reg (b.toNat + 2 ^ z.toNat)).toNat, who := .thread l.g.gid l.cur.tid, dst := d.toNat }

/-- The state in which a WAITU's thread stands parked, and its entry is on its way. -/
def Lane.waituParked (l : Lane) (d a b : BitVec 6) (m : BitVec 3) (z : BitVec 1) (x : Trans) (s : State) : State :=
  let u := (s.tlbFill l.g.core (coreDie l.g.core) l.g.asid (l.src.group a.toNat 2)).parkThread l.g.gid l.cur.tid (.monitor d.toNat)
  { u with monitors := u.monitors ++ [l.waituEntry d a b m z x u.nextId], nextId := u.nextId + 1 }

section
variable (hi : Issues (.waitu c d a b m z) l s) (hclean : l.consume [a.toNat, a.toNat + 1] = .ok false)
variable (halign : l.src.group a.toNat 2 % (4 * 2 ^ z.toNat) = 0)
variable (hps : (s.advanced l).translateAll l.g.core (coreDie l.g.core) l.g.asid (l.src.group a.toNat 2) (4 * 2 ^ z.toNat) { r := true } = .ok ((x, n) :: ps))
include hi hclean halign hps

theorem execWaitu_outside (hout : (x.host.isSome || x.dev || x.fut) = true) :
    Completes (.waitu c d a b m z) l s fun s => s.updLane l fun t => t.setReg d.toNat 2 := by
  refine runWord_one hi ?_
  simp only [hclean, halign, ne_eq, not_true_eq_false, hps, hout, if_false, if_true]

theorem execWaitu_parks (hin : (x.host.isSome || x.dev || x.fut) = false) : Completes (.waitu c d a b m z) l s (l.waituParked d a b m z x) := by
  refine runWord_one hi ?_
  simp only [hclean, halign, ne_eq, not_true_eq_false, hps, hin, if_false, Bool.false_eq_true]
  rfl

end

/-- The entry of a parked WAITU is on its way, no byte of memory changes, and of the groups only that the thread parks. -/
theorem Lane.waituParked_leaves (l : Lane) (d a b : BitVec 6) (m : BitVec 3) (z : BitVec 1) (x : Trans) (s : State) :
    (∃ id, (l.waituParked d a b m z x s).monitors = s.monitors ++ [l.waituEntry d a b m z x id]) ∧ s.sameMemory (l.waituParked d a b m z x s)
      ∧ (l.waituParked d a b m z x s).groups = (s.parkThread l.g.gid l.cur.tid (.monitor d.toNat)).groups
      ∧ (l.waituParked d a b m z x s).issue = s.issue := by
  obtain ⟨ts, ds, htlb⟩ := s.tlbFill_eq l.g.core (coreDie l.g.core) l.g.asid (l.src.group a.toNat 2)
  rw [Lane.waituParked, htlb]
  exact ⟨⟨_, rfl⟩, State.sameMemory_of_copies rfl rfl rfl rfl rfl, rfl, rfl⟩

/-- The thread of a WAITU stands parked at its monitor, with its registers, where no trap of its chain is due. -/
theorem Lane.waituParked_thread (d a b : BitVec 6) (m : BitVec 3) (z : BitVec 1) (x : Trans) (i : Instr) (hl : s.lane? l.cur.tid = some l)
    (hquiet : l.cur.raised = 0 ∨ s.issue.last = false ∨ s.issue.alone = true) :
    ∃ y, ((l.waituParked d a b m z x (s.advanced l)).settled i l s).thread? s.issue.gid l.cur.tid = some y
      ∧ y.st = .parked (.monitor d.toNat) ∧ y.regs = l.cur.regs := by
  obtain ⟨hcur, hgid, -⟩ := State.lane?_some hl
  obtain ⟨-, -, hgroups, hissue⟩ := l.waituParked_leaves d a b m z x (s.advanced l)
  rw [hgid] at hgroups
  obtain ⟨y, hy, hst, hregs, -⟩ := State.parked_settled (i := i) (State.thread?_updThread_self (fun t => t.advance s.issue) hcur) hgroups
    hissue (Thread.advance_quiet hquiet)
  exact ⟨y, hy, hst, hregs⟩

/-- The operand of a WAITU, of one register or two, is kept whole in its entry. -/
theorem Lane.waituEntry_opnd (l : Lane) (d a b : BitVec 6) (m : BitVec 3) (z : BitVec 1) (x : Trans) (id : Nat) :
    (l.waituEntry d a b m z x id).opnd.toNat = l.src.group b.toNat (2 ^ z.toNat) := by
  have hlt := Thread.group_lt l.src b.toNat (2 ^ z.toNat)
  have hregs : 2 ^ (32 * 2 ^ z.toNat) ≤ 2 ^ 64 := Nat.pow_le_pow_right (by omega) (by
    have := Nat.pow_le_pow_right (n := 2) (by omega) (show z.toNat ≤ 1 by omega)
    omega)
  exact (BitVec.toNat_ofNat ..).trans (Nat.mod_eq_of_lt (hlt.trans_le hregs))

theorem State.sameButThreads.monitors {s t : State} (h : s.sameButThreads t) : t.monitors = s.monitors := by
  unfold State.sameButThreads at h
  have hmonitors := congrArg State.monitors h
  exact hmonitors

end

end Sys2Proof.Machine
end

section
/-! THEOREMS. LD.FUT and WAITU. -/

open Sys2Proof Sys2Proof.Machine

/-- Settles O21: each word, where its page lets it wait, leaves its access or its entry and its thread parked, and what follows the word leaves them so. -/
theorem futureLoadAndMonitorWords : Obligations.FutureLoadAndMonitorWords := by
  intro c d a b m z s l x ps ea n clean ok at_
  refine ⟨fun hi hok halign hps hfut => execLdFut_notFuture hi hok.1 hok.2 halign hps hfut, fun hi hok halign hps hfut => ?future,
    fun hi hclean halign hps hout => execWaitu_outside hi hclean halign hps hout, fun hi hclean halign hps hin => ?monitor⟩
  case future =>
    obtain ⟨⟨id, haccs⟩, hmemory, -⟩ := l.ldFutParked_leaves d a b ps (s.advanced l)
    have hsettled := State.settled_same (l.ldFutParked d a b ps (s.advanced l)) (.ldFut c d a b) l s
    exact ⟨_, _, execLdFut_parks hi hok.1 hok.2 halign hps hfut, hsettled.accs.trans haccs, rfl, rfl, rfl, rfl, rfl, rfl,
      State.sameMemory_trans (State.updThread_same ..).sameMemory (State.sameMemory_trans hmemory hsettled.sameMemory),
      Lane.ldFutParked_thread d a b ps _ hi.2.1⟩
  case monitor =>
    obtain ⟨⟨id, hmonitors⟩, hmemory, -⟩ := l.waituParked_leaves d a b m z x (s.advanced l)
    have hsettled := State.settled_same (l.waituParked d a b m z x (s.advanced l)) (.waitu c d a b m z) l s
    exact ⟨_, _, execWaitu_parks hi hclean halign hps hin, hsettled.monitors.trans hmonitors, rfl, rfl, rfl, rfl,
      l.waituEntry_opnd d a b m z x id, rfl, rfl, rfl, rfl, rfl, rfl,
      State.sameMemory_trans (State.updThread_same ..).sameMemory (State.sameMemory_trans hmemory hsettled.sameMemory),
      Lane.waituParked_thread d a b m z x _ hi.2.1⟩
end

section
/-! SUPPORT. An access at its slice (R217, R220, R272): performed, asked for, or waiting for ownership, by the line's state. -/

namespace Sys2Proof.Machine

section
variable {s : State} {a : Acc} {p : Part} {ps : List Part} (ha : s.acc? a.id = some a) (hparts : a.parts = p :: ps) (hfree : s.blocked a = false)
include ha hparts hfree

/-- An access that is no future word's, has issued, and goes to device memory, is one for its slice (R217). -/
theorem execSliceAccess_arrives (hphase : a.phase = .issued) (hhost : p.host = none) (hdev : p.dev = false) (hfut : a.kind.future = false) :
    exec (.sliceAccess a.id) s = .next (s.sliceAccess a p) := by
  show execSliceAccess a.id s = _
  simp only [execSliceAccess, ha, hparts, hphase, hhost, hdev, hfree, hfut, bne_self_eq_false, Option.isSome_none, Bool.or_self, Bool.false_eq_true, if_false]

/-- Past the lease horizon an atomic that waits for ownership of its line is performed (R220). -/
theorem execOwnershipGrant_past (hphase : a.phase = .waitOwn)
    (hst : (s.dieLine (coreDie a.core) (p.pa / 128)).st = .E ∨ (s.dieLine (coreDie a.core) (p.pa / 128)).st = .M)
    (hpast : max (s.dieHorizon (coreDie a.core) (p.pa / 128)) (s.dieLine (coreDie a.core) (p.pa / 128)).gh + 2 < s.tsc) :
    exec (.ownershipGrant a.id) s = .next ((s.setDieLine (coreDie a.core) { s.dieLine (coreDie a.core) (p.pa / 128) with own := some a.core }).performAt (coreDie a.core) a p) := by
  show execOwnershipGrant a.id s = _
  have howned : ((s.dieLine (coreDie a.core) (p.pa / 128)).st == .E || (s.dieLine (coreDie a.core) (p.pa / 128)).st == .M) = true := by
    rcases hst with h | h <;> rw [h] <;> rfl
  simp only [execOwnershipGrant, ha, hparts, hphase, hfree, howned, decide_eq_true hpast, beq_self_eq_true, Bool.not_false, Bool.and_self, if_true]

end

section
variable {s : State} {a : Acc} {p : Part} {x : DieLine} (hx : (s.fromFlc (coreDie a.core) (p.pa / 128)).dieLine (coreDie a.core) (p.pa / 128) = x)
variable (hidle : x.atHomeBusy = false)
include hx hidle

/-- A reading access is performed on a line that the die holds. -/
theorem State.sliceAccess_reads (hreads : a.kind.writes = false) (hst : x.st ∈ [LineSt.S, .E, .O, .M, .SM]) :
    s.sliceAccess a p = (s.fromFlc (coreDie a.core) (p.pa / 128)).performAt (coreDie a.core) a p := by
  simp only [State.sliceAccess, hx, hidle, hreads, Bool.false_eq_true, if_false]
  simp only [List.mem_cons, List.not_mem_nil, or_false] at hst
  rcases hst with h | h | h | h | h <;> rw [h]

theorem State.sliceAccess_asks_rds (hreads : a.kind.writes = false) (hst : x.st = .I) :
    s.sliceAccess a p = (s.fromFlc (coreDie a.core) (p.pa / 128)).askLine (coreDie a.core) a p .rds .IS := by
  simp only [State.sliceAccess, hx, hidle, hreads, hst, Bool.false_eq_true, if_false]

section
variable (hwrites : a.kind.writes = true)
include hwrites

theorem State.sliceAccess_asks_upg (hst : x.st = .S ∨ x.st = .O) :
    s.sliceAccess a p = (s.fromFlc (coreDie a.core) (p.pa / 128)).askLine (coreDie a.core) a p .upg .SM := by
  simp only [State.sliceAccess, hx, hidle, hwrites, Bool.false_eq_true, if_false, if_true]
  rcases hst with h | h <;> rw [h]

theorem State.sliceAccess_asks_rdx (hst : x.st = .I) :
    s.sliceAccess a p = (s.fromFlc (coreDie a.core) (p.pa / 128)).askLine (coreDie a.core) a p .rdx .IM := by
  simp only [State.sliceAccess, hx, hidle, hwrites, hst, Bool.false_eq_true, if_false, if_true]

/-- A writing access to a line that its die owns alone is performed, or waits for the ownership of its core, as it needs that or not (R220). -/
theorem State.sliceAccess_owned (hst : x.st = .E ∨ x.st = .M) :
    s.sliceAccess a p = if a.kind.atomic && a.scope != 0 && x.own != some a.core then
        ((s.fromFlc (coreDie a.core) (p.pa / 128)).setDieLine (coreDie a.core) { x with own := none }).updAcc a.id fun a => { a with phase := .waitOwn }
      else (s.fromFlc (coreDie a.core) (p.pa / 128)).performAt (coreDie a.core) a p := by
  simp only [State.sliceAccess, hx, hidle, hwrites, Bool.false_eq_true, if_false, if_true]
  rcases hst with h | h <;> rw [h]

end

end

/-- The far-line cache misses where its die has one, and asks for a line of another home that it does not hold (R271, R286). -/
theorem State.askMisses_iff (s : State) (d l home : Nat) :
    ((s.dieLine d l).st == .I && (s.die d).flc != 0 && home != d) = true ↔ (s.dieLine d l).st = .I ∧ (s.die d).flc ≠ 0 ∧ home ≠ d := by
  simp only [Bool.and_eq_true, beq_iff_eq, bne_iff_ne, and_assoc, ne_eq]

/-- An access waits for ownership where it is an atomic wider than its group on a line that its core does not own. -/
theorem Acc.waitsForOwn_iff (a : Acc) (x : DieLine) :
    (a.kind.atomic && a.scope != 0 && x.own != some a.core) = true ↔ ¬(a.kind.atomic = false ∨ a.scope = 0 ∨ x.own = some a.core) := by
  simp only [Bool.and_eq_true, bne_iff_ne, not_or, Bool.not_eq_false, and_assoc, ne_eq]

end Sys2Proof.Machine
end

section
/-! THEOREMS. What an access does at its slice. -/

open Sys2Proof Sys2Proof.Machine

/-- Settles O30: an access that arrives does what the state of its line, as it came back from the far-line cache, lets it. -/
theorem sliceAccessEvents : Obligations.SliceAccessEvents := by
  intro s a p ps ha hparts hfree d l x0 s1 x arrives asks owns
  have slice : arrives → exec (.sliceAccess a.id) s = .next (s.sliceAccess a p) :=
    fun ⟨hphase, hhost, hdev, hfut, _⟩ => execSliceAccess_arrives ha hparts hfree hphase hhost hdev hfut
  have hidle : arrives → x.atHomeBusy = false := fun h => h.2.2.2.2
  have hasks : ∀ k st, s1.askLine d a p k st = asks k st := by
    intro k st
    rw [State.askLine, if_congr (s1.askMisses_iff d l p.home) rfl rfl]
  refine ⟨fun h hreads hst => (slice h).trans (congrArg _ (State.sliceAccess_reads rfl (hidle h) hreads hst)),
    fun h hreads hst => (slice h).trans (congrArg _ ((State.sliceAccess_asks_rds rfl (hidle h) hreads hst).trans (hasks ..))),
    fun h hwrites hst => (slice h).trans (congrArg _ ((State.sliceAccess_asks_upg rfl (hidle h) hwrites hst).trans (hasks ..))),
    fun h hwrites hst => (slice h).trans (congrArg _ ((State.sliceAccess_asks_rdx rfl (hidle h) hwrites hst).trans (hasks ..))),
    fun h hwrites hst howns => (slice h).trans (congrArg _ ((State.sliceAccess_owned rfl (hidle h) hwrites hst).trans (if_neg fun hw => (a.waitsForOwn_iff x).mp hw howns))),
    fun h hwrites hst howns => (slice h).trans (congrArg _ ((State.sliceAccess_owned rfl (hidle h) hwrites hst).trans (if_pos ((a.waitsForOwn_iff x).mpr howns)))),
    fun hphase hst hpast => execOwnershipGrant_past ha hparts hfree hphase hst hpast⟩
end

section
/-! SUPPORT. Monitor entries: their comparisons (R227), what a wake leaves (R229), their life at the home slice (R228, R299, R300), and MONLOST (R394). -/

namespace Sys2Proof.Machine

/-! ### Updates that leave memory, the copies of its lines, and the accesses -/

/-- Two states with the same cells of memory, the same copies of lines wherever they stand, and the same accesses on their way. -/
structure State.sameCopies (s t : State) : Prop where
  mem : t.mem = s.mem
  hostMem : t.hostMem = s.hostMem
  lines : t.lines = s.lines
  net : t.net = s.net
  dirs : t.dirs = s.dirs
  accs : t.accs = s.accs

theorem State.sameCopies_refl (s : State) : s.sameCopies s := ⟨rfl, rfl, rfl, rfl, rfl, rfl⟩

theorem State.sameCopies.trans {s t u : State} (h : s.sameCopies t) (k : t.sameCopies u) : s.sameCopies u :=
  ⟨k.mem.trans h.mem, k.hostMem.trans h.hostMem, k.lines.trans h.lines, k.net.trans h.net, k.dirs.trans h.dirs, k.accs.trans h.accs⟩

theorem State.sameCopies.sameMemory {s t : State} (h : s.sameCopies t) : s.sameMemory t :=
  State.sameMemory_of_copies h.mem h.hostMem h.lines h.net h.dirs

theorem foldl_sameCopies {α : Type} {f : State → α → State} (h : ∀ (s : State) (x : α), s.sameCopies (f s x)) (l : List α) (s : State) :
    s.sameCopies (l.foldl f s) := by
  induction l generalizing s with
  | nil => exact s.sameCopies_refl
  | cons x xs ih => exact (h s x).trans (ih (f s x))

/-! ### A wake (R229) -/

/-- A wake takes its entry from the list of the entries, and reaches neither memory nor an access. -/
theorem State.wakeMonitor_leaves (s : State) (m : Monitor) (status : Nat) :
    s.sameCopies (s.wakeMonitor m status) ∧ (s.wakeMonitor m status).monitors = s.monitors.filter fun x => x.id != m.id := by
  unfold State.wakeMonitor
  dsimp only
  split
  · split
    · split <;> exact ⟨⟨rfl, rfl, rfl, rfl, rfl, rfl⟩, rfl⟩
    · exact ⟨⟨rfl, rfl, rfl, rfl, rfl, rfl⟩, rfl⟩
  · split
    · split
      · unfold State.queueCmdDone
        dsimp only
        split <;> exact ⟨⟨rfl, rfl, rfl, rfl, rfl, rfl⟩, rfl⟩
      · exact ⟨⟨rfl, rfl, rfl, rfl, rfl, rfl⟩, rfl⟩
    · exact ⟨⟨rfl, rfl, rfl, rfl, rfl, rfl⟩, rfl⟩
  · exact ⟨⟨rfl, rfl, rfl, rfl, rfl, rfl⟩, rfl⟩

theorem State.thread?_of_groups {s u : State} (h : u.groups = s.groups) (gid tid : Nat) : u.thread? gid tid = s.thread? gid tid := by
  simp only [State.thread?, State.group?, h]

/-- A state without a monitor entry. -/
def State.sansMonitor (s : State) (m : Monitor) : State := { s with monitors := s.monitors.filter fun x => x.id != m.id }

/-- A thread that waits at an entry goes on with the entry's wake; a thread that does not is left alone. -/
def Thread.wokenBy (m : Monitor) (status : Nat) (times : Nat × Nat) (now upto : Nat) (t : Thread) : Thread :=
  if t.st = .parked (.monitor m.dst) then t.monitorWoken m.dst status m.shadow times now upto else t

section
variable {s : State} {m : Monitor} {gid tid : Nat} (hwho : m.who = .thread gid tid)
include hwho

/-- A wake of the entry of a resident thread changes of the groups that thread alone. -/
theorem State.wakeMonitor_resident {g : Group} (hg : s.group? gid = some g) (status : Nat) :
    ∃ (u : State) (times : Nat × Nat), u.groups = s.groups ∧ s.wakeMonitor m status = u.updThread gid tid (Thread.wokenBy m status times s.cycle s.nextId) := by
  have hg : (s.sansMonitor m).group? gid = some g := hg
  rw [State.sansMonitor] at hg
  by_cases h0 : status = 0
  · refine ⟨(s.sansMonitor m).dropL1 g.core (m.pa / 128), (s.sansMonitor m).valueTimes (m.pa / 128), rfl, ?_⟩
    simp only [State.wakeMonitor, hwho, hg, if_pos h0]
    rfl
  · refine ⟨s.sansMonitor m, (0, 0), rfl, ?_⟩
    simp only [State.wakeMonitor, hwho, hg, if_neg h0]
    rfl

/-- A wake of the entry of a resident thread that waits at it gives the thread the status, and changes no other thread. -/
theorem State.wakeMonitor_thread {t : Thread} (ht : s.thread? gid tid = some t) (hst : t.st = .parked (.monitor m.dst)) (status : Nat) :
    (∃ times, (s.wakeMonitor m status).thread? gid tid = some { t.monitorWoken m.dst status m.shadow times s.cycle s.nextId with tid := t.tid })
      ∧ s.sameOthers (s.wakeMonitor m status) gid tid := by
  obtain ⟨g, hg, -⟩ := Option.bind_eq_some_iff.mp ht
  obtain ⟨u, times, hgroups, hwoken⟩ := State.wakeMonitor_resident hwho hg status
  have hu := State.thread?_of_groups hgroups
  rw [hwoken]
  refine ⟨⟨times, ?_⟩, fun h v hne => (u.sameOthers_updThread gid tid _ h v hne).trans (hu h v)⟩
  rw [State.thread?_updThread_self _ ((hu gid tid).trans ht), Thread.wokenBy, if_pos hst]

end

/-- A woken thread has the status in the bank that its word selected, and goes on as the status says; its other registers and its PC stand. -/
theorem Thread.monitorWoken_open {t : Thread} {dst : Nat} (hdst : dst < 64) (status : Nat) (times : Nat × Nat) (now upto : Nat) :
    let x := t.monitorWoken dst status t.popen times now upto
    x.st = (if status = 0 then .fencing { scope := 2, pa := 1, pb := 1, upto := upto } else .ready)
      ∧ (dst ≠ 0 → x.reg dst = BitVec.ofNat 32 status) ∧ (∀ n, n ≠ dst → x.reg n = t.reg n) ∧ x.pc = t.pc := by
  intro x
  have hreg : ∀ n, x.reg n = (t.setReg dst (BitVec.ofNat 32 status)).reg n := fun n =>
    Thread.reg_congr (t := x) (u := t.setReg dst (BitVec.ofNat 32 status)) rfl rfl (by simp [x, Thread.monitorWoken, Thread.inBank]) n
  refine ⟨rfl, fun h0 => ?_, fun n hn => ?_, by simp [x, Thread.monitorWoken, Thread.inBank]⟩
  · rw [hreg, Thread.reg_setReg _ _ _ _ hdst, if_pos ⟨h0, rfl⟩]
  · rw [hreg, Thread.reg_setReg _ _ _ _ hdst, if_neg fun h => hn h.2]

/-! ### The comparisons (R227) -/

/-- Each comparison of two numbers of a width is that of their bit vectors. -/
theorem monitorTrue_eq {n v b : Nat} (hn : 0 < n) (hv : v < 2 ^ n) (hb : b < 2 ^ n) :
    let x := BitVec.ofNat n v
    let y := BitVec.ofNat n b
    monitorTrue 0 n v b = (x == y) ∧ monitorTrue 1 n v b = (x != y) ∧ monitorTrue 2 n v b = y.sle x ∧ monitorTrue 3 n v b = y.ule x
      ∧ monitorTrue 4 n v b = x.slt y ∧ monitorTrue 5 n v b = x.ult y ∧ monitorTrue 6 n v b = ((x &&& y) != 0) ∧ monitorTrue 7 n v b = ((x &&& y) == 0) := by
  intro x y
  have hx : x.toNat = v := (BitVec.toNat_ofNat ..).trans (Nat.mod_eq_of_lt hv)
  have hy : y.toNat = b := (BitVec.toNat_ofNat ..).trans (Nat.mod_eq_of_lt hb)
  have heq : (v == b) = (x == y) := by rw [Bool.eq_iff_iff, beq_iff_eq, beq_iff_eq, ← BitVec.toNat_inj, hx, hy]
  have hand : (v &&& b == 0) = (x &&& y == 0) := by
    rw [Bool.eq_iff_iff, beq_iff_eq, beq_iff_eq, ← BitVec.toNat_inj, BitVec.toNat_and, hx, hy]
    rfl
  have hsx : sval n v = x.toInt := sval_eq_toInt v hn
  have hsy : sval n b = y.toInt := sval_eq_toInt b hn
  refine ⟨heq, congrArg not heq, ?_, ?_, ?_, ?_, congrArg not hand, hand⟩
  · rw [BitVec.sle, ← hsx, ← hsy]; rfl
  · rw [BitVec.ule, hx, hy]; rfl
  · rw [BitVec.slt, ← hsx, ← hsy]; rfl
  · rw [BitVec.ult, hx, hy]; rfl

/-! ### The life of an entry (R228, R299, R300) -/

section
variable {s : State} {m : Monitor}

/-- A registration whose thread has no earlier store to its line to perform arrives at the home in its turn (R212, R289). -/
theorem execMonitorInsert_arrives (hfind : (s.monitors.find? fun x => x.id == m.id && !x.inserted && !x.queued) = some m) (hstores : s.storesBefore m = false)
    (henabled : (s.die m.die).enabled = true) (hmay : s.mayArrive (s.dir (m.pa / 128) m.die) (s.waiterSrc m) = true) :
    exec (.monitorInsert m.id) s = .next ((s.setMonitor { m with queued := true }).arriveHome (s.dir (m.pa / 128) m.die)
      { id := 0, kind := .register, line := m.pa / 128, src := m.die, dst := m.die, acc := m.id, asid := m.asid } (s.waiterSrc m)) := by
  show execMonitorInsert m.id s = _
  simp only [execMonitorInsert, hfind, hstores, henabled, hmay, Bool.not_true, Bool.or_self, Bool.false_eq_true, if_false]

/-- An entry as the home's slice takes it, with the tick at which it times out. -/
def Monitor.entered (m : Monitor) (now : Nat) (spilled : Bool) : Monitor :=
  { m with inserted := true, due := if m.timeout = 0 ∨ m.due ≠ 0 then m.due else now + m.timeout, spilled := spilled }

theorem State.insertMonitor_table (hroom : s.tableAt m.die m.slice < 256) :
    s.insertMonitor m = if (s.setMonitor (m.entered s.tsc false)).monitorHolds (m.entered s.tsc false) then
      (s.setMonitor (m.entered s.tsc false)).wakeMonitor (m.entered s.tsc false) 0 else s.setMonitor (m.entered s.tsc false) := by
  have hfull : decide (s.tableAt m.die m.slice ≥ 256) = false := decide_eq_false (Nat.not_le.mpr hroom)
  simp only [State.insertMonitor, hfull, Bool.false_eq_true, if_false]
  rfl

theorem State.insertMonitor_spill (hfull : 256 ≤ s.tableAt m.die m.slice) :
    s.insertMonitor m = if ((s.setMonitor (m.entered s.tsc true)).writeSpill (m.entered s.tsc true)).monitorHolds (m.entered s.tsc true) then
      ((s.setMonitor (m.entered s.tsc true)).writeSpill (m.entered s.tsc true)).wakeMonitor (m.entered s.tsc true) 0
      else (s.setMonitor (m.entered s.tsc true)).writeSpill (m.entered s.tsc true) := by
  have hfull : decide (s.tableAt m.die m.slice ≥ 256) = true := decide_eq_true hfull
  simp only [State.insertMonitor, hfull, if_true]
  rfl

theorem execMonitorTimeout_due (hfind : (s.monitors.find? fun x => x.id == m.id) = some m) (h0 : m.due ≠ 0) (hdue : m.due ≤ s.tsc) :
    exec (.monitorTimeout m.id) s = .next (s.wakeMonitor m 1) := by
  show execMonitorTimeout m.id s = _
  simp only [execMonitorTimeout, hfind, if_pos (And.intro h0 hdue)]

theorem execMonitorSpillReturn_room {die slice : Nat} (hfind : (s.monitors.find? fun x => x.spilled && x.die == die && x.slice == slice) = some m)
    (hroom : s.tableAt die slice < 256) : exec (.monitorSpillReturn die slice) s = .next (s.setMonitor { m with spilled := false }) := by
  show execMonitorSpillReturn die slice s = _
  simp only [execMonitorSpillReturn, hfind, if_pos hroom]

end

/-! ### MONLOST (R394) -/

/-- The entries that a slice's table holds. -/
def State.entriesAt (s : State) (die slice : Nat) : List Monitor := s.monitors.filter fun m => m.inserted && !m.spilled && m.die == die && m.slice == slice

/-- What the loss of an entry does: a thread wakes with status 3, another holder registers its entry again. -/
def State.loseMonitor (s : State) (m : Monitor) : State :=
  match m.who with
  | .thread _ _ => s.wakeMonitor m 3
  | _ => s.setMonitor { m with inserted := false, queued := false }

theorem State.loseMonitor_thread (s : State) {m : Monitor} {gid tid : Nat} (hwho : m.who = .thread gid tid) : s.loseMonitor m = s.wakeMonitor m 3 := by
  rw [State.loseMonitor, hwho]

theorem State.loseMonitor_sameCopies (s : State) (m : Monitor) : s.sameCopies (s.loseMonitor m) := by
  rw [State.loseMonitor]
  split
  · exact (s.wakeMonitor_leaves m 3).1
  · exact ⟨rfl, rfl, rfl, rfl, rfl, rfl⟩

/-- An entry that is in its table after the loss of another was there before, and is not that one. -/
theorem State.loseMonitor_monitors {s : State} {m x : Monitor} (hx : x ∈ (s.loseMonitor m).monitors) (hin : x.inserted = true) : x ∈ s.monitors ∧ x.id ≠ m.id := by
  rw [State.loseMonitor] at hx
  split at hx
  · rw [(s.wakeMonitor_leaves m 3).2, List.mem_filter] at hx
    exact ⟨hx.1, by simpa using hx.2⟩
  · obtain ⟨y, hy, rfl⟩ := List.mem_map.mp hx
    split_ifs at hin ⊢ with hid
    exact ⟨hy, by simpa using hid⟩

theorem foldl_loseMonitor_monitors {ms : List Monitor} {s : State} {x : Monitor} (hx : x ∈ (ms.foldl State.loseMonitor s).monitors) (hin : x.inserted = true) :
    x ∈ s.monitors ∧ ∀ m ∈ ms, x.id ≠ m.id := by
  induction ms generalizing s with
  | nil => exact ⟨hx, nofun⟩
  | cons m ms ih =>
    obtain ⟨hx', hms⟩ := ih hx
    obtain ⟨hs, hm⟩ := State.loseMonitor_monitors hx' hin
    exact ⟨hs, List.forall_mem_cons.mpr ⟨hm, hms⟩⟩

/-- Records of errors are noted, and nothing else changes. -/
theorem State.foldl_raiseErr_eq {α : Type} (r : α → ErrRec) (ns : List α) (s : State) :
    ∃ es n, ns.foldl (fun s n => s.raiseErr (r n)) s = { s with errors := es, nextId := n } := by
  induction ns generalizing s with
  | nil => exact ⟨s.errors, s.nextId, rfl⟩
  | cons n ns ih =>
    obtain ⟨es, k, h⟩ := ih (s.raiseErr (r n))
    exact ⟨es, k, h⟩

/-- The record that MONLOST leaves in a context (R390, R394). -/
def monlostRec (die slice asid : Nat) : ErrRec := { id := 0, asid := asid, tsc := 0, src := srcNum die (0x100 + slice), kind := 0x13, sev := 1 }

/-- MONLOST: the entries of the slice's table are lost one by one, its held loads are answered, and the contexts concerned get records. -/
theorem execMonlost_eq (die slice : Nat) (s : State) :
    ∃ (as : List Acc) (es : List ErrRec) (n : Nat), exec (.monlost die slice) s
      = .next { (s.entriesAt die slice).foldl State.loseMonitor s with accs := as, errors := es, nextId := n } := by
  obtain ⟨asids, as, h⟩ : ∃ (asids : List Nat) (as : List Acc), exec (.monlost die slice) s
      = .next (asids.foldl (fun s n => s.raiseErr (monlostRec die slice n)) { (s.entriesAt die slice).foldl State.loseMonitor s with accs := as }) := ⟨_, _, rfl⟩
  obtain ⟨es, n, hrecs⟩ := State.foldl_raiseErr_eq (monlostRec die slice) asids { (s.entriesAt die slice).foldl State.loseMonitor s with accs := as }
  exact ⟨as, es, n, h.trans (congrArg Host.Outcome.next hrecs)⟩

end Sys2Proof.Machine
end

section
/-! THEOREMS. What happens to monitor entries. -/

open Sys2Proof Sys2Proof.Machine

/-- Settles O34: the comparisons as those of bit vectors; each event is one branch of its meaning; MONLOST by the entries that outlive the loss of each entry of the
table; and a wake by what it gives its thread. -/
theorem monitorEvents : Obligations.MonitorEvents := by
  refine ⟨fun n v b hn hv hb => monitorTrue_eq (by omega) hv hb, fun s m die slice => ?life, fun s m gid tid status t hwho ht hst hdst hbank => ?wake⟩
  case life =>
    intro due inTable spilled line evaluated
    refine ⟨execMonitorInsert_arrives, State.insertMonitor_table, State.insertMonitor_spill, execMonitorTimeout_due, execMonitorSpillReturn_room, ?lost⟩
    case lost =>
      obtain ⟨as, es, n, hlost⟩ := execMonlost_eq die slice s
      have hcopies := foldl_sameCopies State.loseMonitor_sameCopies (s.entriesAt die slice) s
      refine ⟨_, hlost, hcopies.sameMemory.1, fun x hx ⟨hin, hspill, hdie, hslice⟩ => ?_, fun gid tid hsole hwho => ?_⟩
      · obtain ⟨hs, hne⟩ := foldl_loseMonitor_monitors hx hin
        exact hne x (List.mem_filter.mpr ⟨hs, by simp [hin, hspill, hdie, hslice]⟩) rfl
      · rw [← s.loseMonitor_thread hwho]
        exact congrArg (fun ms => (ms.foldl State.loseMonitor s).thread? gid tid) hsole
  case wake =>
    intro u
    obtain ⟨⟨times, hthread⟩, hothers⟩ := State.wakeMonitor_thread hwho ht hst status
    obtain ⟨hcopies, hmonitors⟩ := s.wakeMonitor_leaves m status
    obtain ⟨hst', hdst', hrest, hpc⟩ := Thread.monitorWoken_open hdst status times s.cycle s.nextId (t := t)
    rw [hbank] at hthread
    refine ⟨_, hthread, hst', hdst', hrest, hpc, fun y hy => ?_, hcopies.sameMemory.1, hothers⟩
    rw [hmonitors] at hy
    simpa using List.of_mem_filter hy
end

section
/-! SUPPORT. What a part of an access leaves when it is performed (R210, R217, R251): of the copies of lines, and of the accesses. -/

namespace Sys2Proof.Machine

/-! ### A die's copy of a line -/

section
variable {s : State} {d l : Nat}

/-- A line that a die does not hold invalid stands among the copies. -/
theorem State.dieLine_found (hst : (s.dieLine d l).st ≠ .I) : (s.lines.find? fun p => p.1 == d && p.2.line == l) = some (d, s.dieLine d l) := by
  cases hfind : s.lines.find? fun p => p.1 == d && p.2.line == l with
  | none =>
    rw [State.dieLine, hfind] at hst
    exact absurd rfl hst
  | some q =>
    have hq := List.find?_some hfind
    simp only [Bool.and_eq_true, beq_iff_eq] at hq
    rw [State.dieLine, hfind, ← hq.1]
    rfl

theorem State.dieLine_line (hst : (s.dieLine d l).st ≠ .I) : (s.dieLine d l).line = l := by
  have hfound := List.find?_some (State.dieLine_found hst)
  simpa using hfound

theorem State.dieLine_of_lines {t : State} (h : t.lines = s.lines) (d l : Nat) : t.dieLine d l = s.dieLine d l := by
  rw [State.dieLine, h]
  rfl

end

section
variable {x : DieLine} (hst : x.st ≠ .I)
include hst

/-- A copy that is not invalid is kept before the others of its state. -/
theorem State.setDieLine_lines (s : State) (d : Nat) :
    (s.setDieLine d x).lines = (d, x) :: s.lines.filter fun p => !(p.1 == d && p.2.line == x.line) := by
  have hkept : (x.st == .I && x.held.isEmpty && !x.atHomeBusy) = false := by rw [beq_false_of_ne hst]; rfl
  simp only [State.setDieLine, hkept, Bool.false_eq_true, if_false]

theorem State.dieLine_setDieLine (s : State) (d : Nat) : (s.setDieLine d x).dieLine d x.line = x := by
  rw [State.dieLine, State.setDieLine_lines hst, List.find?_cons_of_pos (by simp)]
  rfl

end

/-! ### The current value of a line, after a die's copy of it is replaced (R212) -/

/-- The copy in which an owner holds a line's current value. -/
def ownerOf (lines : List (Nat × DieLine)) (l : Nat) : Option (Nat × DieLine) := lines.find? fun p => p.2.line == l && p.2.st.owns

/-- A byte of memory is read off the owner's data, where there is one, and else off what messages, homes and memory hold (R212). -/
theorem State.physByte_of_ownerOf {s t : State} {y : Nat} (h : (ownerOf t.lines (y / 128)).map (·.2.data) = (ownerOf s.lines (y / 128)).map (·.2.data))
    (hnet : t.net = s.net) (hdirs : t.dirs = s.dirs) (hmem : t.mem = s.mem) : t.physByte y = s.physByte y := by
  have value : ∀ u : State, u.heldLine (y / 128) = match (ownerOf u.lines (y / 128)).map (·.2.data) with
      | some data => some data
      | none => match u.net.find? fun m => m.line == y / 128 && m.data.isSome && (m.kind == .wb || m.kind == .grant || m.kind == .answer) with
        | some m => m.data
        | none => (u.dirs.find? fun d => d.line == y / 128 && d.data.isSome).bind (·.data) := by
    intro u
    rw [State.heldLine, ← ownerOf]
    cases ownerOf u.lines (y / 128) <;> rfl
  rw [State.physByte, State.physByte, value, value, h, hnet, hdirs, hmem]

section
variable {x : DieLine} (hst : x.st ≠ .I)
include hst

/-- The owner of another line is the owner still. -/
theorem ownerOf_setDieLine_of_ne (s : State) (d : Nat) {l : Nat} (hl : l ≠ x.line) : ownerOf (s.setDieLine d x).lines l = ownerOf s.lines l := by
  rw [State.setDieLine_lines hst, ownerOf, List.find?_cons_of_neg (by simp [hl.symm]), List.find?_filter]
  refine List.find?_congr fun q _ => ?_
  by_cases hq : q.2.line = l
  · simp [hq, hl]
  · simp [hq]

theorem State.physByte_setDieLine_of_ne (s : State) (d : Nat) {y : Nat} (hy : y / 128 ≠ x.line) : (s.setDieLine d x).physByte y = s.physByte y :=
  State.physByte_of_ownerOf (by rw [ownerOf_setDieLine_of_ne hst s d hy]) rfl rfl rfl

end

theorem eq_of_mem_of_length_le_one {α : Type} {l : List α} (h : l.length ≤ 1) {x y : α} (hx : x ∈ l) (hy : y ∈ l) : x = y := by
  match l, h with
  | [z], _ => rw [List.mem_singleton.mp hx, List.mem_singleton.mp hy]

/-- A line whose only copy in a die is replaced by one with its state and its data has the owner's data that it had. -/
theorem ownerOf_setDieLine_same {s : State} {d l : Nat} {y : DieLine} (hst : (s.dieLine d l).st ≠ .I)
    (honly : (s.lines.filter fun q => q.1 == d && q.2.line == l).length ≤ 1) (howner : (s.lines.filter fun q => q.2.line == l && q.2.st.owns).length ≤ 1)
    (hline : y.line = l) (hsame : y.st = (s.dieLine d l).st) (hdata : y.data = (s.dieLine d l).data) :
    (ownerOf (s.setDieLine d y).lines l).map (·.2.data) = (ownerOf s.lines l).map (·.2.data) := by
  have hfound := State.dieLine_found hst
  have hmem := List.mem_of_find?_eq_some hfound
  rw [State.setDieLine_lines (hsame ▸ hst), hline]
  by_cases howns : (s.dieLine d l).st.owns = true
  case pos =>
    have hold : ownerOf s.lines l = some (d, s.dieLine d l) := by
      rw [ownerOf]
      cases hfind : s.lines.find? fun p => p.2.line == l && p.2.st.owns with
      | none => exact absurd (List.find?_eq_none.mp hfind _ hmem) (by simp [State.dieLine_line hst, howns])
      | some q =>
        have hq := List.find?_some hfind
        rw [eq_of_mem_of_length_le_one howner (List.mem_filter.mpr ⟨List.mem_of_find?_eq_some hfind, hq⟩)
          (List.mem_filter.mpr ⟨hmem, by simp [State.dieLine_line hst, howns]⟩)]
    rw [hold, ownerOf, List.find?_cons_of_pos (by simp [hline, hsame, howns])]
    exact congrArg some hdata
  case neg =>
    rw [ownerOf, List.find?_cons_of_neg (by simp [hsame, howns]), List.find?_filter]
    refine congrArg _ (List.find?_congr fun q hq => ?_)
    by_cases hown : (q.1 == d && q.2.line == l) = true
    · have hx : q = (d, s.dieLine d l) :=
        eq_of_mem_of_length_le_one honly (List.mem_filter.mpr ⟨hq, hown⟩) (List.mem_filter.mpr ⟨hmem, by simp [State.dieLine_line hst]⟩)
      simp [hx, howns]
    · simp only [eq_false_of_ne_true hown, Bool.not_false, true_and, Bool.decide_eq_true]

/-! ### Performing a part (R210, R217, R251) -/

/-- The value of the bytes that a part covers in its die's copy of their line. -/
def State.partValue (s : State) (d : Nat) (p : Part) : Nat :=
  bytesToNat ((List.range p.n).map fun k => lineByte (s.dieLine d (p.pa / 128)).data (p.pa % 128 + k))

theorem State.acc?_updAcc {s : State} {a : Acc} (ha : s.acc? a.id = some a) {f : Acc → Acc} (hf : ∀ b, (f b).id = b.id) : (s.updAcc a.id f).acc? a.id = some (f a) := by
  rw [State.acc?, State.updAcc, find?_updWhere Acc.id a.id a.id f hf, ← State.acc?, ha, Option.map_some, if_pos rfl]

theorem State.evalMonitors_sameCopies (s : State) (l : Nat) : s.sameCopies (s.evalMonitors l) :=
  foldl_sameCopies (fun s m => by split; exacts [(s.wakeMonitor_leaves m 0).1, s.sameCopies_refl]) _ s

/-- A line that another access asked for, or none, has no message to answer once an access is performed (R275). -/
theorem State.askerDone_of_ne {s : State} {d l id : Nat} (h : (s.dieLine d l).asker ≠ some id) : s.askerDone d l id = s := if_neg h

theorem State.sameCopies_askerDone {t u : State} {d l id : Nat} (h : t.sameCopies u) (hasker : (t.dieLine d l).asker ≠ some id) : t.sameCopies (u.askerDone d l id) := by
  rw [State.askerDone_of_ne (State.dieLine_of_lines h.lines d l ▸ hasker)]
  exact h

/-- A die's copy of a line once a part has read it. -/
def State.lineRead (s : State) (d : Nat) (a : Acc) (p : Part) : DieLine :=
  let x := s.dieLine d (p.pa / 128)
  { x with last := s.tsc, own := if x.own = some a.core then x.own else none }

/-- An access once its next part has read its line: with what it read, and the completion times and the poison mark of the line. -/
def State.partRead (s : State) (d : Nat) (p : Part) (a : Acc) : Acc :=
  let times := s.lineTimes (s.dieLine d (p.pa / 128))
  { a.took p (s.partValue d p) with lw := max a.lw times.1, gw := max a.gw times.2, poison := a.poison || s.poisonLines.contains (p.pa / 128) }

/-- The completion times of a part that writes, 2 ticks past the lease horizons of its die and of every die (R217). -/
def State.partTimes (s : State) (d : Nat) (p : Part) : Nat × Nat :=
  let h := s.dieHorizon d (p.pa / 128)
  (max s.tsc h + 2, max s.tsc (max h (s.dieLine d (p.pa / 128)).gh) + 2)

/-- A die's copy of a line once a part has written bytes to it. -/
def State.lineWritten (s : State) (d : Nat) (a : Acc) (p : Part) (bs : List Byte) : DieLine :=
  let x := s.dieLine d (p.pa / 128)
  { x with
    data := lineSetBytes x.data (p.pa % 128) bs, st := .M, last := s.tsc, lw := max x.lw (s.partTimes d p).1, gw := max x.gw (s.partTimes d p).2
    own := if x.own = some a.core then x.own else none }

/-- An access once its next part has written its line. -/
def State.partWritten (s : State) (d : Nat) (p : Part) (a : Acc) : Acc :=
  { a.took p (s.partValue d p) with
    lw := max a.lw (s.partTimes d p).1, gw := max a.gw (s.partTimes d p).2, poison := a.poison || (s.poisonLines.contains (p.pa / 128) && a.kind.atomic) }

theorem State.grantLease_sameCopies (s : State) (core : Nat) (x : L1Line) : s.sameCopies (s.grantLease core x) := ⟨rfl, rfl, rfl, rfl, rfl, rfl⟩

/-- The state in which a part's bytes stand in its line, its write is noted, and its core's copy has them too or is dropped (R217, R383). -/
def State.written (s : State) (d : Nat) (a : Acc) (p : Part) (bs : List Byte) : State :=
  let l := p.pa / 128
  let times := s.partTimes d p
  let s2 := (((s.setDieLine d (s.lineWritten d a p bs)).setWriter l a.asid).noteWrite l times.1 times.2).updAcc a.id (s.partWritten d p)
  let s3 := if a.poison then s2.poisonLine l else s2
  if a.cp = 0 then s3.writeL1 a.core l (p.pa % 128) bs times.1 times.2 a.poison else s3.dropL1 a.core l

theorem State.written_sameCopies (s : State) (d : Nat) (a : Acc) (p : Part) (bs : List Byte) :
    ((s.setDieLine d (s.lineWritten d a p bs)).updAcc a.id (s.partWritten d p)).sameCopies (s.written d a p bs) := by
  have hnoted : ∀ (t : State) (l asid lw gw id : Nat) (f : Acc → Acc), (t.updAcc id f).sameCopies (((t.setWriter l asid).noteWrite l lw gw).updAcc id f) :=
    fun _ _ _ _ _ _ _ => ⟨rfl, rfl, rfl, rfl, rfl, rfl⟩
  have hmarked : ∀ (t : State) (l : Nat), t.sameCopies (if a.poison then t.poisonLine l else t) := fun t l => by
    split <;> exact ⟨rfl, rfl, rfl, rfl, rfl, rfl⟩
  have hcore : ∀ (t : State) (l off lw gw : Nat), t.sameCopies (if a.cp = 0 then t.writeL1 a.core l off bs lw gw a.poison else t.dropL1 a.core l) :=
    fun t l off lw gw => by split <;> exact ⟨rfl, rfl, rfl, rfl, rfl, rfl⟩
  exact (hnoted ..).trans ((hmarked ..).trans (hcore ..))

section
variable {s : State} {d : Nat} {a : Acc} {p : Part}
variable (hst : (s.dieLine d (p.pa / 128)).st ≠ .I) (hasker : (s.dieLine d (p.pa / 128)).asker ≠ some a.id)
include hst hasker

/-- A part that writes nothing reads its line, in its die's copy and for its access, and changes no other. -/
theorem State.performAt_reads (hnone : a.newBytes p (s.partValue d p) = none) :
    ((s.setDieLine d (s.lineRead d a p)).updAcc a.id (s.partRead d p)).sameCopies (s.performAt d a p) := by
  have hline : (s.lineRead d a p).line = p.pa / 128 := State.dieLine_line hst
  have hread : ((s.setDieLine d (s.lineRead d a p)).updAcc a.id (s.partRead d p)).dieLine d (p.pa / 128) = s.lineRead d a p := by
    rw [← hline]
    exact State.dieLine_setDieLine (x := s.lineRead d a p) hst s d
  rw [State.partValue] at hnone
  simp only [State.performAt, hnone]
  refine State.sameCopies_askerDone ?_ (by rw [hread]; exact hasker)
  split
  · split
    · split
      · exact ⟨rfl, rfl, rfl, rfl, rfl, rfl⟩
      · exact ⟨rfl, rfl, rfl, rfl, rfl, rfl⟩
    · exact ⟨rfl, rfl, rfl, rfl, rfl, rfl⟩
  · exact ⟨rfl, rfl, rfl, rfl, rfl, rfl⟩

/-- A part that writes bytes writes them to its line, in its die's copy and for its access, and changes no other. -/
theorem State.performAt_writes {bs : List Byte} (hsome : a.newBytes p (s.partValue d p) = some bs) :
    ((s.setDieLine d (s.lineWritten d a p bs)).updAcc a.id (s.partWritten d p)).sameCopies (s.performAt d a p) := by
  have hline : (s.lineWritten d a p bs).line = p.pa / 128 := State.dieLine_line hst
  have hwritten : ((s.setDieLine d (s.lineWritten d a p bs)).updAcc a.id (s.partWritten d p)).dieLine d (p.pa / 128) = s.lineWritten d a p bs := by
    rw [← hline]
    exact State.dieLine_setDieLine (x := s.lineWritten d a p bs) nofun s d
  have hperformed : s.performAt d a p = ((s.written d a p bs).evalMonitors (p.pa / 128)).askerDone d (p.pa / 128) a.id := by
    show (match a.newBytes p (s.partValue d p) with | none => _ | some bs => _) = _
    rw [hsome]
    rfl
  rw [hperformed]
  exact State.sameCopies_askerDone ((s.written_sameCopies d a p bs).trans (State.evalMonitors_sameCopies _ _)) (by rw [hwritten]; exact hasker)

end

/-! ### What a part leaves, read off the copy of its line and its access -/

section
variable {s t : State} {d l : Nat} {y : DieLine} {a : Acc} {f : Acc → Acc} (h : ((s.setDieLine d y).updAcc a.id f).sameCopies t)
include h

theorem State.sameCopies.dieLine_of_setDieLine (hst : y.st ≠ .I) (hline : y.line = l) : t.dieLine d l = y := by
  rw [State.dieLine_of_lines h.lines, ← hline]
  exact State.dieLine_setDieLine hst s d

theorem State.sameCopies.acc?_of_updAcc (ha : s.acc? a.id = some a) (hf : ∀ b, (f b).id = b.id) : t.acc? a.id = some (f a) := by
  rw [State.acc?, h.accs]
  exact State.acc?_updAcc (s := s.setDieLine d y) ha hf

theorem State.sameCopies.physByte_of_ne (hst : y.st ≠ .I) (hline : y.line = l) {z : Nat} (hz : z / 128 ≠ l) : t.physByte z = s.physByte z :=
  (h.sameMemory.1 z).trans (State.physByte_setDieLine_of_ne hst s d (hline ▸ hz))

end

section
variable {a : Acc} (hkind : a.kind ≠ .store)
include hkind

/-- An access that computes nothing to write writes nothing, whatever it is conditional on. -/
theorem Acc.newBytes_eq_none {cur : Nat} (hnew : accNew a cur = none) (p : Part) : a.newBytes p cur = none := by
  rw [Acc.newBytes, if_neg hkind, hnew]
  split
  · exact ite_self none
  · rfl

/-- An unconditional access writes what it computes of the old value. -/
theorem Acc.newBytes_unconditional (hcond : a.cond = none) (p : Part) (cur : Nat) : a.newBytes p cur = (accNew a cur).map (natToBytes p.n) := by
  rw [Acc.newBytes, if_neg hkind, hcond]

end

/-- An unconditional atomic takes the old value (R251, R252). -/
theorem Acc.result_took_atomic {a : Acc} (hatomic : a.kind.atomic = true) (hcond : a.cond = none) (p : Part) (cur : Nat) : (a.took p cur).result = cur := by
  rw [Acc.took, hcond]
  cases hk : a.kind with
  | load _ | store | ldFut | stFut | clrFut | locq => rw [hk] at hatomic; exact absurd hatomic nofun
  | _ => rfl

end Sys2Proof.Machine
end

section
/-! THEOREMS. What performing a part does. -/

open Sys2Proof Sys2Proof.Machine

/-- Settles O31: a part that writes nothing and one that writes bytes each replace their line in the copy of their die and update their access. -/
theorem performedPart : Obligations.PerformedPart := by
  intro s a p ps ha hparts _ _ d l x old t hasker hst honly howner
  have reads := State.performAt_reads (d := d) (p := p) hst hasker
  have writes := fun {bs} => State.performAt_writes (d := d) (p := p) (bs := bs) hst hasker
  have hline : x.line = l := State.dieLine_line hst
  refine ⟨fun y hy => ?others, fun sx hk => ?load, fun hk => ?store, fun op hk hcond hsize => ?rmw, fun hk hcond => ?cas⟩
  case others =>
    cases hnew : a.newBytes p old with
    | none => exact (reads hnew).physByte_of_ne hst hline hy
    | some bs => exact (writes hnew).physByte_of_ne nofun hline hy
  case load =>
    have hread := reads (Acc.newBytes_eq_none (by rw [hk]; nofun) (by rw [accNew, hk]) p)
    rw [hread.acc?_of_updAcc ha fun _ => rfl]
    refine ⟨?_, ?_, fun y => ?_⟩
    · simp only [Option.map_some, State.partRead, Acc.took, hk]
      rfl
    · simp only [Option.map_some, State.partRead, Acc.took, hparts, List.drop_succ_cons, List.drop_zero]
    · by_cases hy : y / 128 = l
      · refine (hread.sameMemory.1 y).trans (State.physByte_of_ownerOf ?_ rfl rfl rfl)
        rw [hy]
        exact ownerOf_setDieLine_same hst honly howner hline rfl rfl
      · exact hread.physByte_of_ne hst hline hy
  case store =>
    have hwritten := writes (bs := natToBytes p.n (a.data / 256 ^ p.off)) (if_pos hk)
    rw [hwritten.dieLine_of_setDieLine nofun hline, hwritten.acc?_of_updAcc ha fun _ => rfl]
    exact ⟨rfl, rfl, rfl, rfl⟩
  case rmw =>
    have hnew : accNew a old = some (rmwNew op (8 * a.size) old a.data) := by rw [accNew, hk]
    have hwritten := writes (bs := natToBytes p.n (rmwNew op (8 * a.size) old a.data)) (by
      rw [Acc.newBytes_unconditional (by rw [hk]; nofun) hcond]
      exact congrArg _ hnew)
    rw [hwritten.dieLine_of_setDieLine nofun hline, hwritten.acc?_of_updAcc ha fun _ => rfl]
    exact ⟨rfl, congrArg some (Acc.result_took_atomic (by rw [hk]; rfl) hcond p old)⟩
  case cas =>
    have hbytes := Acc.newBytes_unconditional (a := a) (by rw [hk]; nofun) hcond p old
    have hnew : accNew a old = if old = a.data then some a.data2 else none := by rw [accNew, hk]
    have hresult : (a.took p old).result = old := Acc.result_took_atomic (by rw [hk]; rfl) hcond p old
    by_cases heq : old = a.data
    · have hwritten := writes (hbytes.trans (by rw [hnew, if_pos heq]; rfl))
      rw [hwritten.dieLine_of_setDieLine nofun hline, hwritten.acc?_of_updAcc ha fun _ => rfl, if_pos heq]
      exact ⟨rfl, congrArg some hresult⟩
    · have hread := reads (hbytes.trans (by rw [hnew, if_neg heq]; rfl))
      rw [hread.dieLine_of_setDieLine hst hline, hread.acc?_of_updAcc ha fun _ => rfl, if_neg heq]
      exact ⟨rfl, congrArg some hresult⟩
end

section
/-! SUPPORT. The end of a link command, the report of a neighbour's step, and the writes that arrive from other devices (R263, R313, R314). -/

namespace Sys2Proof.Machine

/-- The commands on an exchange end in the order in which they were accepted: the earliest has none before it (R341). -/
theorem State.no_earlier_linkCmd {s : State} {c : LinkCmd} (hfirst : ∀ y ∈ s.linkCmds, y.asid = c.asid → y.exch = c.exch → y.fn ≠ 3 → c.id ≤ y.id) :
    (s.linkCmds.any fun y => y.asid == c.asid && y.exch == c.exch && y.fn != 3 && c.fn != 3 && decide (y.id < c.id)) = false := by
  refine List.any_eq_false.mpr fun y hy hearlier => ?_
  simp only [Bool.and_eq_true, beq_iff_eq, bne_iff_ne, decide_eq_true_eq] at hearlier
  obtain ⟨⟨⟨⟨hasid, hexch⟩, hfn⟩, -⟩, hlt⟩ := hearlier
  exact Nat.not_lt.mpr (hfirst y hy hasid hexch hfn) hlt

/-- A command that is the earliest on its exchange, has moved its data and has no completion word tells its threads, unless it has told them, and
ends once its writes are past their GWCT (R263). -/
theorem execLinkCommandComplete_moved {s : State} {id : Nat} {c : LinkCmd} (hc : (s.linkCmds.find? fun c => c.id == id) = some c)
    (hheld : c.heldFault = false) (hfn : c.fn ≠ 3) (hmoved : c.moved = true) (hcw : c.cw = 0) (hgw : c.gw = 0 ∨ c.gw < s.tsc)
    (hfirst : ∀ y ∈ s.linkCmds, y.asid = c.asid → y.exch = c.exch → y.fn ≠ 3 → c.id ≤ y.id) :
    execLinkCommandComplete id s = .next ((if c.told then s else s.tellLink c).endLink { c with told := true }).settleSteps := by
  have hword : ({ c with heldFault := false, moved := true, told := true } : LinkCmd).cw = 0 := hcw
  simp only [execLinkCommandComplete, hc, hheld, State.no_earlier_linkCmd hfirst, if_neg hfn, hmoved, if_neg (not_waits_of_past hgw), hword,
    Bool.or_self, Bool.false_eq_true, if_false, if_true]

/-- The step of a neighbour of the entry is its new value there, once nothing is on its way to the context (R313, R314). -/
theorem execStepReport_neighbour {s u : State} {asid exch n : Nat} {x : Context} {e : Exch} (hx : s.ctx? asid = some x) (hexch : exch < 64)
    (hlanded : ∀ a ∈ s.arrivals, a.asid ≠ asid) (hload : s.loadExch asid exch = .ok u) (he : u.exch? asid exch = some e) (hn : n < e.nn) (step : Word) :
    execStepReport asid exch n step s = .next (u.setExch asid { e with nbr := setAt e.nbr n step }).settleSteps := by
  have hnone : (s.arrivals.any fun a => a.asid == asid) = false := List.any_eq_false.mpr fun a ha => by simpa using hlanded a ha
  simp only [execStepReport, hx, hnone, Nat.not_le.mpr hexch, hload, he, hn, Option.isNone_some, decide_false, Bool.or_self, Bool.false_eq_true,
    if_false, if_true]

section
variable {s : State} {asid : Nat} {x : Context} (hx : s.ctx? asid = some x) (va : Nat) (data : List Byte)
include hx

/-- A plain write that arrives for a context is landed. -/
theorem execLinkWriteArrival_plain : execLinkWriteArrival asid va data none s
    = .next (s.fresh.landArrival { id := s.nextId, asid := asid, va := va, data := data, origin := none }) := by
  simp only [execLinkWriteArrival, hx]

/-- A halo record that arrives for a context waits for the allocator, at the end of its queue. -/
theorem execLinkWriteArrival_halo (o : Word × Word × Word) : execLinkWriteArrival asid va data (some o) s
    = .next { s.fresh with
        arrivals := s.arrivals ++ [{ id := s.nextId, asid := asid, va := va, data := data, origin := some o }]
        allocQ := s.allocQ ++ [.halo s.nextId] } := by
  simp only [execLinkWriteArrival, hx]

end

end Sys2Proof.Machine
end

section
/-! THEOREMS. Commands of the collective engine end, and steps and writes arrive from other devices. -/

open Sys2Proof Sys2Proof.Machine

/-- Settles O51: each event, in a state that enables it, is its closed form; a halo record that only queues touches no byte of memory. -/
theorem deviceLinkEvents : Obligations.DeviceLinkEvents := by
  intro s id asid exch n va c e x step data u
  refine ⟨fun hc hheld hfn hmoved hcw hgw hfirst => ?command, fun hx hexch hlanded hload he hn => ?report, fun hx => ?plain, fun o hx => ?halo⟩
  case command => exact execLinkCommandComplete_moved hc hheld hfn hmoved hcw hgw hfirst
  case report => exact execStepReport_neighbour hx hexch hlanded hload he hn step
  case plain => exact execLinkWriteArrival_plain hx va data
  case halo => exact ⟨_, execLinkWriteArrival_halo hx va data o, rfl, rfl, State.sameMemory_of_copies rfl rfl rfl rfl rfl⟩
end

section
/-! SUPPORT. What the receiver of a die link does with the next line, and what the sender does when it resets its dictionary (R283-R285). -/

namespace Sys2Proof.Machine

/-! ### The receiver (R283, R284) -/

/-- The words that a receiver decodes of a line with its dictionary (R281). -/
def WireLine.words (w : WireLine) (dict : List DWord) : Option (List DWord) :=
  decodeWords dict none ((List.range 16).map fun i => bits w.tags.toNat (2 * i) 2) (w.payload.take (16 * w.payn))

/-- The line that sixteen words make. -/
def lineOfWords (ws : List DWord) : LineData := BitVec.ofNat 1024 (bytesToNat (ws.flatMap fun x => natToBytes 8 x.toNat))

/-- The dictionary with which the receiver of a link reads a line: the seed table for a line that resets. -/
def Link.dictFor (k : Link) (w : WireLine) : List DWord := if w.reset then seedTable else k.rdict

section
variable {w : WireLine} {dict ws : List DWord}

theorem WireLine.read_eq (w : WireLine) (dict : List DWord) :
    w.read dict = ((w.words dict).map lineOfWords).bind fun d => if crc32c (lineBytes d) = w.lcrc then some d else none := rfl

/-- A line whose words come out, with the check that it carries, is read (R284). -/
theorem WireLine.read_of_words (hwords : w.words dict = some ws) (hcrc : crc32c (lineBytes (lineOfWords ws)) = w.lcrc) :
    w.read dict = some (lineOfWords ws) := by
  rw [WireLine.read_eq, hwords, Option.map_some, Option.bind_some, if_pos hcrc]

/-- A line whose words do not come out, or with another check than it carries, is not (R284). -/
theorem WireLine.read_eq_none (hbad : w.words dict = none ∨ (w.words dict = some ws ∧ crc32c (lineBytes (lineOfWords ws)) ≠ w.lcrc)) :
    w.read dict = none := by
  rw [WireLine.read_eq]
  rcases hbad with hwords | ⟨hwords, hcrc⟩
  · rw [hwords, Option.map_none, Option.bind_none]
  · rw [hwords, Option.map_some, Option.bind_some, if_neg hcrc]

end

section
variable {s : State} {src dst : Nat} {k : Link} {w : WireLine} {rest : List WireLine} (hk : s.link? src dst = some k) (hlines : k.lines = w :: rest)
include hk hlines

/-- A line that is read goes on, and the receiver's dictionary takes its words (R283). -/
theorem execLineReceive_read {d : LineData} (hopen : k.discarding = false) (hread : w.read (k.dictFor w) = some d) :
    execLineReceive src dst false s = .next ((s.updLink src dst fun k => k.accept w d).hopDone src dst w d) := by
  rw [Link.dictFor] at hread
  simp only [execLineReceive, hk, hlines, hopen, hread, Bool.false_and, Bool.false_eq_true, if_false]

/-- A line that resets, and is read, ends a replay, which is recorded (R284). -/
theorem execLineReceive_resets {d : LineData} (hclosed : k.discarding = true) (hreset : w.reset = true) (hread : w.read (k.dictFor w) = some d) :
    execLineReceive src dst false s = .next
      (((s.updLink src dst fun k => k.accept w d).raiseErr
        { id := 0, asid := ((s.net.find? fun m => m.id == w.msg).map (·.asid)).getD 0, tsc := 0, src := srcNum dst (0x300 + src), kind := 3, sev := 0 }).hopDone
          src dst w d) := by
  rw [Link.dictFor, hreset, if_pos rfl] at hread
  simp only [execLineReceive, hk, hlines, hclosed, hreset, hread, Bool.not_true, Bool.and_false, Bool.false_eq_true, if_false, if_true]

/-- A line that is damaged, or that is not read, is refused, and its replay asked for (R284). -/
theorem execLineReceive_refuses {damaged : Bool} (hopen : k.discarding = false ∨ w.reset = true) (hbad : damaged = true ∨ w.read (k.dictFor w) = none) :
    execLineReceive src dst damaged s
      = .next ((s.updLink src dst fun k => { k with discarding := true, replay := true }).count dst (cCrcMiss src) 1) := by
  have hturn : (k.discarding && !w.reset) = false := by
    rcases hopen with h | h <;> simp [h]
  have hnone : (if damaged then none else w.read (if w.reset then seedTable else k.rdict)) = none := by
    rcases hbad with h | h
    · rw [h]; rfl
    · rw [Link.dictFor] at h
      rw [h, ite_self]
  simp only [execLineReceive, hk, hlines, hturn, hnone, Bool.false_eq_true, if_false]

/-- After a refused line nothing is received until a line that resets (R284). -/
theorem execLineReceive_waits (hclosed : k.discarding = true) (hreset : w.reset = false) (damaged : Bool) :
    execLineReceive src dst damaged s = notEnabled := by
  simp only [execLineReceive, hk, hlines, hclosed, hreset, Bool.not_false, Bool.and_self, if_true]

end

/-! ### The sender (R284, R285) -/

theorem State.link?_updLink (s : State) (a b : Nat) {f : Link → Link} (hf : ∀ k, (f k).src = k.src ∧ (f k).dst = k.dst) :
    (s.updLink a b f).link? a b = (s.link? a b).map f := by
  have hkey : ∀ k : Link, ((if k.src == a && k.dst == b then f k else k).src == a && (if k.src == a && k.dst == b then f k else k).dst == b)
      = (k.src == a && k.dst == b) := fun k => by
    split
    · rw [(hf k).1, (hf k).2]
    · rfl
  rw [State.link?, State.updLink, updWhere, find?_map_congr _ _ hkey, ← State.link?]
  cases hfind : s.link? a b with
  | none => rfl
  | some k => exact congrArg some (if_pos (List.find?_some hfind))

theorem State.putLine_links (s : State) (a b msg line low : Nat) (d : LineData) :
    (s.putLine a b msg line low d).links = (s.updLink a b fun k => k.put msg line low d).links := by
  rw [State.putLine]
  split <;> rfl

theorem State.putLine_sameCopies (s : State) (a b msg line low : Nat) (d : LineData) : s.sameCopies (s.putLine a b msg line low d) := by
  have hput : s.sameCopies (s.updLink a b fun k => k.put msg line low d) := ⟨rfl, rfl, rfl, rfl, rfl, rfl⟩
  have hcount : ∀ (u : State) (n k : Nat), u.sameCopies (u.count a n k) := fun _ _ _ => ⟨rfl, rfl, rfl, rfl, rfl, rfl⟩
  rw [State.putLine]
  split
  · exact hput
  · exact ((hput.trans (hcount _ _ _)).trans (hcount _ _ _)).trans (hcount _ _ _)

/-- What a line is of, apart from how it is coded: its message, its number, and its data. -/
def WireLine.sent (w : WireLine) : Nat × Nat × LineData := (w.msg, w.line, w.clear)

/-- A link with some lines sent on it again. -/
def Link.resend (k : Link) (ws : List WireLine) : Link := ws.foldl (fun k w => k.put w.msg w.line w.low w.clear) k

/-- A line is sent again on the link of a direction. -/
def State.resend (a b : Nat) (s : State) (w : WireLine) : State := s.putLine a b w.msg w.line w.low w.clear

theorem State.link?_resend (a b : Nat) (ws : List WireLine) (s : State) :
    (ws.foldl (State.resend a b) s).link? a b = (s.link? a b).map (·.resend ws) := by
  induction ws generalizing s with
  | nil => exact Option.map_id'.symm
  | cons w ws ih =>
    have hput : (State.resend a b s w).link? a b = (s.link? a b).map fun k => k.put w.msg w.line w.low w.clear := by
      rw [State.resend, State.link?, State.putLine_links, ← State.link?]
      exact s.link?_updLink a b fun _ => ⟨rfl, rfl⟩
    rw [List.foldl_cons, ih, hput, Option.map_map]
    rfl

/-- A header flit that resets has RESET = 1, whatever its other fields hold (R282). -/
theorem headerOf_reset (lcrc tags line payn low : Nat) : (headerOf lcrc tags line payn true low).getLsbD 18 = true := by
  rw [← BitVec.testBit_toNat, headerOf, BitVec.toNat_ofNat, Nat.testBit_eq_decide_div_mod_eq, decide_eq_true_eq, if_pos rfl]
  omega

/-- A line sent joins those in flight, and resets where its link's next line is to. -/
theorem Link.put_lines (k : Link) (msg line low : Nat) (d : LineData) :
    ∃ w : WireLine, (k.put msg line low d).lines = k.lines ++ [w] ∧ w.sent = (msg, line, d) ∧ (k.resetNext = true → w.reset = true) := by
  unfold Link.put
  extract_lets cs tags p ins
  refine ⟨{ msg := msg, header := headerOf (crc32c (lineBytes d)).toNat tags.toNat line (p.length / 16) k.resetNext low
            payload := p, line := line, clear := d, again := k.rawNext }, rfl, rfl, fun hreset => ?_⟩
  rw [WireLine.reset, hreset]
  exact headerOf_reset ..

theorem Link.resend_lines (ws : List WireLine) (k : Link) : ∃ vs : List WireLine, (k.resend ws).lines = k.lines ++ vs ∧ vs.map WireLine.sent = ws.map WireLine.sent := by
  induction ws generalizing k with
  | nil => exact ⟨[], (List.append_nil _).symm, rfl⟩
  | cons w ws ih =>
    obtain ⟨v, hput, hsent, -⟩ := k.put_lines w.msg w.line w.low w.clear
    obtain ⟨vs, hlines, hmap⟩ := ih (k.put w.msg w.line w.low w.clear)
    exact ⟨v :: vs, hlines.trans (by rw [hput, List.append_assoc, List.singleton_append]), congrArg₂ List.cons hsent hmap⟩

/-- The first line that a link sends after a reset of its dictionary resets that of the receiver (R284, R285). -/
theorem Link.resend_head_reset {k : Link} (hempty : k.lines = []) (hreset : k.resetNext = true) (ws : List WireLine) :
    ∀ v ∈ (k.resend ws).lines.head?, v.reset = true := by
  cases ws with
  | nil =>
    rw [Link.resend, List.foldl_nil, hempty, List.head?_nil]
    exact fun v hv => absurd hv (Option.not_mem_none v)
  | cons w ws =>
    obtain ⟨v, hput, -, hv⟩ := k.put_lines w.msg w.line w.low w.clear
    obtain ⟨vs, hlines, -⟩ := Link.resend_lines ws (k.put w.msg w.line w.low w.clear)
    rw [hput, hempty] at hlines
    rw [show (k.resend (w :: ws)).lines = v :: vs from hlines]
    exact fun u hu => Option.some.inj hu ▸ hv hreset

/-- The sender of a link with its dictionary reset, and nothing in flight: its next line resets, and is sent again where lines are. -/
def Link.restarted (k : Link) (again : Bool) : Link := { k with sdict := seedTable, snext := 0, lines := [], resetNext := true, rawNext := again }

/-- A reset of a sender's dictionary sends again what its link has in flight (R284). -/
theorem State.link?_recode {s : State} {a b : Nat} {k : Link} (hk : s.link? a b = some k) :
    (s.recode a b).link? a b = some ((k.restarted !k.lines.isEmpty).resend k.lines) := by
  have hlines : ((s.link? a b).map (·.lines)).getD [] = k.lines := by rw [hk]; rfl
  have hrestarted : (s.updLink a b fun k' => k'.restarted !k.lines.isEmpty).link? a b = some (k.restarted !k.lines.isEmpty) :=
    (s.link?_updLink a b (f := fun k' => k'.restarted !k.lines.isEmpty) fun _ => ⟨rfl, rfl⟩).trans (congrArg _ hk)
  have hresent := State.link?_resend a b k.lines (s.updLink a b fun k' => k'.restarted !k.lines.isEmpty)
  rw [hrestarted] at hresent
  simp only [State.recode, hlines]
  exact hresent

theorem State.recode_sameCopies (s : State) (a b : Nat) : s.sameCopies (s.recode a b) := by
  have hresent := foldl_sameCopies (f := State.resend a b) (fun s w => s.putLine_sameCopies a b w.msg w.line w.low w.clear)
    (((s.link? a b).map (·.lines)).getD []) (s.updLink a b fun k => k.restarted !(((s.link? a b).map (·.lines)).getD []).isEmpty)
  exact ⟨hresent.mem, hresent.hostMem, hresent.lines, hresent.net, hresent.dirs, hresent.accs⟩

/-- A replay that is asked for: what is in flight is sent again, in its order, the first line with RESET = 1 (R284). -/
theorem execReplayRequest_asked {s : State} {src dst : Nat} {k : Link} (hk : s.link? src dst = some k) (hreplay : k.replay = true) :
    ∃ t y, execReplayRequest src dst s = .next t ∧ t.link? src dst = some y ∧ y.replay = false ∧ y.lines.map WireLine.sent = k.lines.map WireLine.sent
      ∧ (∀ w ∈ y.lines.head?, w.reset = true) ∧ s.sameMemory t := by
  have hstep : execReplayRequest src dst s = .next ((s.recode src dst).updLink src dst fun k => { k with replay := false }) := by
    simp only [execReplayRequest, hk, hreplay, if_true]
  obtain ⟨vs, hlines, hsent⟩ := Link.resend_lines k.lines (k.restarted !k.lines.isEmpty)
  refine ⟨_, { (k.restarted !k.lines.isEmpty).resend k.lines with replay := false }, hstep, ?link, rfl, ?sent, ?head, ?memory⟩
  case link =>
    rw [State.link?_updLink _ _ _ (f := fun k => { k with replay := false }) fun _ => ⟨rfl, rfl⟩, State.link?_recode hk]
    rfl
  case sent => exact (congrArg _ hlines).trans hsent
  case head => exact Link.resend_head_reset rfl rfl k.lines
  case memory =>
    obtain ⟨hmem, hhost, hcopies, hnet, hdirs, -⟩ := s.recode_sameCopies src dst
    exact State.sameMemory_of_copies hmem hhost hcopies hnet hdirs

theorem execLinkRetrain_link {s : State} {a b : Nat} {k : Link} (hk : s.link? a b = some k) :
    execLinkRetrain a b s = .next ((s.resetLink a b).resetLink b a) := by
  simp only [execLinkRetrain, hk]

end Sys2Proof.Machine
end

section
/-! SUPPORT. Which operations leave the dies enabled as they are, and what they hold of lines and leases (R217, R271, R279); the reset of a die and its
end. -/

namespace Sys2Proof.Machine

/-! ### Two relations of states -/

/-- A die's number, and whether it is enabled. -/
def Die.mark (x : Die) : Nat × Bool := (x.d, x.enabled)

/-- The same dies are enabled in two states. -/
def State.sameDies (s t : State) : Prop := t.dies.map Die.mark = s.dies.map Die.mark

/-- In two states the same dies are enabled, hold lines, whatever the lines' states, and have the same lease horizons. -/
structure State.sameHolders (s t : State) : Prop where
  dies : s.sameDies t
  horizons : t.horizons = s.horizons
  holders : t.lines.map Prod.fst = s.lines.map Prod.fst

theorem State.sameDies_refl (s : State) : s.sameDies s := rfl

theorem State.sameDies.trans {s t u : State} (h : s.sameDies t) (k : t.sameDies u) : s.sameDies u := Eq.trans k h

theorem State.sameHolders_refl (s : State) : s.sameHolders s := ⟨rfl, rfl, rfl⟩

theorem State.sameHolders.trans {s t u : State} (h : s.sameHolders t) (k : t.sameHolders u) : s.sameHolders u :=
  ⟨h.dies.trans k.dies, k.horizons.trans h.horizons, k.holders.trans h.holders⟩

section
variable {α : Type} {f : State → α → State}

theorem foldl_sameDies (h : ∀ (s : State) (x : α), s.sameDies (f s x)) (l : List α) (s : State) : s.sameDies (l.foldl f s) := by
  induction l generalizing s with
  | nil => exact s.sameDies_refl
  | cons x xs ih => exact (h s x).trans (ih (f s x))

theorem foldl_sameHolders (h : ∀ (s : State) (x : α), s.sameHolders (f s x)) (l : List α) (s : State) : s.sameHolders (l.foldl f s) := by
  induction l generalizing s with
  | nil => exact s.sameHolders_refl
  | cons x xs ih => exact (h s x).trans (ih (f s x))

end

/-- Whether a die is enabled is read off the marks of the dies. -/
theorem State.die_enabled (s : State) (e : Nat) : (s.die e).enabled = (((s.dies.map Die.mark).find? fun p => p.1 == e).map Prod.snd).getD false := by
  have hmarks : ((s.dies.map Die.mark).find? fun p => p.1 == e) = (s.dies.find? fun x => x.d == e).map Die.mark := List.find?_map ..
  rw [State.die, hmarks]
  cases s.dies.find? fun x => x.d == e <;> rfl

theorem State.sameDies.enabled {s t : State} (h : s.sameDies t) (e : Nat) : (t.die e).enabled = (s.die e).enabled := by
  rw [State.die_enabled, State.die_enabled, h]

/-! ### Counters, links and messages (R280-R286) -/

theorem State.updDie_sameDies (s : State) (d : Nat) {f : Die → Die} (hf : ∀ x, (f x).mark = x.mark) : s.sameDies (s.updDie d f) := by
  rw [State.sameDies, State.updDie, updWhere, List.map_map]
  refine List.map_congr_left fun x _ => ?_
  rw [Function.comp_apply]
  split
  · exact hf x
  · rfl

theorem State.count_sameHolders (s : State) (d n k : Nat) : s.sameHolders (s.count d n k) := ⟨s.updDie_sameDies d fun _ => rfl, rfl, rfl⟩

theorem State.putLine_sameHolders (s : State) (a b msg line low : Nat) (d : LineData) : s.sameHolders (s.putLine a b msg line low d) := by
  have hput : s.sameHolders (s.updLink a b fun k => k.put msg line low d) := ⟨rfl, rfl, rfl⟩
  rw [State.putLine]
  split
  · exact hput
  · exact ((hput.trans (State.count_sameHolders _ _ _ _)).trans (State.count_sameHolders _ _ _ _)).trans (State.count_sameHolders _ _ _ _)

theorem State.transmit_sameHolders (s : State) (m : Msg) : s.sameHolders (s.transmit m) := by
  rw [State.transmit]
  split
  · exact s.sameHolders_refl
  · split
    · exact State.sameHolders.trans (t := s.updLink _ _ _) ⟨rfl, rfl, rfl⟩ (State.putLine_sameHolders ..)
    · exact ⟨rfl, rfl, rfl⟩

theorem State.cross_sameHolders (s : State) (a b : Nat) (m : Msg) : s.sameHolders (s.cross a b m) := by
  unfold State.cross
  extract_lets m1 m2 s1
  exact State.sameHolders.trans (t := s1.updLink a b _) ⟨rfl, rfl, rfl⟩ (State.transmit_sameHolders _ _)

theorem State.flow_sameHolders (a b n : Nat) (s : State) : s.sameHolders (s.flow a b n) := by
  induction n generalizing s with
  | zero => exact s.sameHolders_refl
  | succ n ih =>
    rw [State.flow]
    split
    · exact s.sameHolders_refl
    · split
      · exact State.sameHolders.trans (t := s.updLink a b _) ⟨rfl, rfl, rfl⟩ (ih _)
      · split
        · exact s.sameHolders_refl
        · exact (s.cross_sameHolders a b _).trans (ih _)

theorem State.flowAlong_sameHolders (s : State) (way : List (Nat × Nat)) : s.sameHolders (s.flowAlong way) :=
  foldl_sameHolders (f := fun (s : State) (p : Nat × Nat) => s.flow p.1 p.2 (s.onLink p.1 p.2)) (fun s p => State.flow_sameHolders p.1 p.2 _ s) way s

theorem State.send_sameHolders (s : State) (m : Msg) : s.sameHolders (s.send m) := by
  unfold State.send
  extract_lets way m2
  refine State.sameHolders.trans (t := ({ s with net := s.net ++ [m2], nextId := s.nextId + 1 } : State)) ⟨rfl, rfl, rfl⟩ ?_
  exact (State.transmit_sameHolders _ _).trans (State.flowAlong_sameHolders _ _)

theorem State.resetLink_sameHolders (s : State) (a b : Nat) : s.sameHolders (s.resetLink a b) := by
  have hrecoded : s.sameHolders (s.recode a b) := by
    unfold State.recode
    extract_lets ls s1
    have hcleared : s.sameHolders s1 := ⟨rfl, rfl, rfl⟩
    clear_value s1
    have hsent : s1.sameHolders (ls.foldl (State.resend a b) s1) :=
      foldl_sameHolders (f := State.resend a b) (fun s w => s.putLine_sameHolders a b w.msg w.line w.low w.clear) ls s1
    exact (hcleared.trans hsent).trans (State.count_sameHolders _ _ _ _)
  exact hrecoded.trans ⟨rfl, rfl, rfl⟩

/-! ### Writes to memory, and the wakes that follow them (R217, R228, R229) -/

theorem State.queueCmdDone_sameHolders (s : State) (q n : Nat) : s.sameHolders (s.queueCmdDone q n) := by
  unfold State.queueCmdDone
  dsimp only
  split <;> exact ⟨rfl, rfl, rfl⟩

theorem State.wakeMonitor_sameHolders (s : State) (m : Monitor) (status : Nat) : s.sameHolders (s.wakeMonitor m status) := by
  have hsans : s.sameHolders (s.sansMonitor m) := ⟨rfl, rfl, rfl⟩
  unfold State.wakeMonitor
  dsimp only
  split
  · split
    · split <;> exact ⟨rfl, rfl, rfl⟩
    · exact ⟨rfl, rfl, rfl⟩
  · split
    · split
      · exact hsans.trans (State.queueCmdDone_sameHolders _ _ _)
      · exact hsans
    · exact hsans
  · exact hsans

theorem State.evalMonitors_sameHolders (s : State) (l : Nat) : s.sameHolders (s.evalMonitors l) :=
  foldl_sameHolders (fun s m => by split; exacts [s.wakeMonitor_sameHolders m 0, s.sameHolders_refl]) _ s

theorem map_fst_eq {f : Nat × DieLine → Nat × DieLine} (hf : ∀ p, (f p).1 = p.1) (ls : List (Nat × DieLine)) : (ls.map f).map Prod.fst = ls.map Prod.fst := by
  rw [List.map_map]
  exact List.map_congr_left fun p _ => hf p

theorem State.setPhysBytes_sameHolders (bs : List Byte) (s : State) (pa : Nat) : s.sameHolders (s.setPhysBytes pa bs) := by
  induction bs generalizing s pa with
  | nil => exact s.sameHolders_refl
  | cons b bs ih =>
    have hbyte : s.sameHolders (s.setPhysByte pa b) := ⟨rfl, rfl, map_fst_eq (fun p => by split <;> rfl) s.lines⟩
    exact hbyte.trans (ih _ _)

theorem State.writePhys_sameHolders (s : State) (die asid pa : Nat) (bs : List Byte) : s.sameHolders (s.writePhys die asid pa bs) := by
  refine (State.setPhysBytes_sameHolders bs s pa).trans (foldl_sameHolders (fun s l => ?_) _ _)
  exact State.sameHolders.trans (t := (s.setWriter l asid).noteWrite l _ _) ⟨rfl, rfl, rfl⟩ (State.evalMonitors_sameHolders _ l)

theorem State.writeTrans_sameHolders (s : State) (die asid : Nat) (t : Trans) (bs : List Byte) : s.sameHolders (s.writeTrans die asid t bs) := by
  rw [State.writeTrans]
  split
  · exact s.sameHolders_refl
  · split
    · exact ⟨rfl, rfl, rfl⟩
    · exact s.writePhys_sameHolders _ _ _ _

theorem State.touchPieces_sameHolders (s : State) (die : Nat) (ps : List (Trans × Nat)) : s.sameHolders (s.touchPieces die ps) :=
  foldl_sameHolders (f := fun (s : State) (l : Nat) => s.touch die l) (fun s _ => ⟨rfl, rfl, map_fst_eq (fun p => by split <;> rfl) s.lines⟩) _ s

/-- One piece of a write by a unit: the state, the completion time so far, and the bytes still to write. -/
def writePiece (die asid : Nat) (acc : State × Nat × List Byte) (p : Trans × Nat) : State × Nat × List Byte :=
  (acc.1.writeTrans die asid p.1 (acc.2.2.take p.2), max acc.2.1 (acc.1.gwctOf p.1 p.2), acc.2.2.drop p.2)

theorem foldl_writePiece_sameHolders (die asid : Nat) (ps : List (Trans × Nat)) (acc : State × Nat × List Byte) :
    acc.1.sameHolders (ps.foldl (writePiece die asid) acc).1 := by
  induction ps generalizing acc with
  | nil => exact acc.1.sameHolders_refl
  | cons p ps ih => exact (acc.1.writeTrans_sameHolders die asid p.1 _).trans (ih (writePiece die asid acc p))

theorem State.vwrite_sameHolders {s : State} {unit die asid va : Nat} {bs : List Byte} {r : State × Nat} (hr : s.vwrite unit die asid va bs = .ok r) :
    s.sameHolders r.1 := by
  rw [State.vwrite] at hr
  split at hr
  · cases hr
  next ps _ =>
    cases hr
    exact (foldl_writePiece_sameHolders die asid ps (s, 0, bs)).trans (State.touchPieces_sameHolders _ _ _)

theorem State.ctlWrite_getD_sameHolders (s : State) (asid va : Nat) (bs : List Byte) : s.sameHolders ((s.ctlWrite asid va bs).getD s) := by
  rw [State.ctlWrite]
  split
  next r hr => exact State.vwrite_sameHolders hr
  · exact s.sameHolders_refl

/-! ### The home's work (R225-R228, R272, R273, R278) -/

theorem State.insertMonitor_sameHolders (s : State) (m : Monitor) : s.sameHolders (s.insertMonitor m) := by
  have hset : ∀ m : Monitor, s.sameHolders (s.setMonitor m) := fun _ => ⟨rfl, rfl, rfl⟩
  have hspill : ∀ (s : State) (m : Monitor), s.sameHolders (s.writeSpill m) := fun s m => by
    rw [State.writeSpill]
    split
    · exact s.ctlWrite_getD_sameHolders _ _ _
    · exact s.sameHolders_refl
  have heval : ∀ (s : State) (m : Monitor), s.sameHolders (if s.monitorHolds m then s.wakeMonitor m 0 else s) := fun s m => by
    split
    · exact s.wakeMonitor_sameHolders m 0
    · exact s.sameHolders_refl
  rw [State.insertMonitor]
  refine State.sameHolders.trans ?_ (heval _ _)
  split
  · exact (hset _).trans (hspill _ _)
  · exact hset _

theorem State.futurePerform_sameHolders (s : State) (a : Acc) (p : Part) : s.sameHolders (s.futurePerform a p) := by
  unfold State.futurePerform
  extract_lets -underBinder l
  split
  · split
    · exact ⟨rfl, rfl, rfl⟩
    · split <;> exact ⟨rfl, rfl, rfl⟩
  · extract_lets -underBinder lw gw s1 s2 s3
    have hwritten : s.sameHolders s1 := (s.writePhys_sameHolders _ _ _ _).trans ⟨rfl, rfl, rfl⟩
    have hmarked : s1.sameHolders s2 := by
      unfold s2
      split <;> exact ⟨rfl, rfl, rfl⟩
    exact (hwritten.trans hmarked).trans ⟨rfl, rfl, rfl⟩
  · exact ⟨rfl, rfl, rfl⟩

theorem State.homeAct_sameHolders (s : State) (m : Msg) : s.sameHolders (s.homeAct m) := by
  rw [State.homeAct]
  split
  · split
    · exact s.insertMonitor_sameHolders _
    · exact s.sameHolders_refl
  · split
    · split
      · exact s.futurePerform_sameHolders _ _
      · exact s.sameHolders_refl
    · exact s.sameHolders_refl
  · exact s.sameHolders_refl

theorem State.setDir_sameHolders (s : State) (x : Dir) : s.sameHolders (s.setDir x) := ⟨rfl, rfl, rfl⟩

theorem State.grantTo_setDir_sameHolders (s : State) (x y : Dir) (m : Msg) (st : LineSt) (data : Option LineData) :
    s.sameHolders ((s.grantTo x m st data).setDir y) := (s.send_sameHolders _).trans (State.setDir_sameHolders _ _)

theorem State.takeData_sameHolders (s : State) (x : Dir) : s.sameHolders (s.takeData x) := by
  rw [State.takeData]
  split <;> exact ⟨rfl, rfl, rfl⟩

theorem State.finishHome_sameHolders (s : State) (x : Dir) : s.sameHolders (s.finishHome x) := by
  unfold State.finishHome
  extract_lets done left
  split
  · exact (s.takeData_sameHolders x).trans (State.setDir_sameHolders _ _)
  · split
    · exact ((s.takeData_sameHolders x).trans (State.send_sameHolders _ _)).trans (State.setDir_sameHolders _ _)
    · have hacted : ∀ m : Msg, s.sameHolders (((s.takeData x).setDir left).homeAct m) := fun m =>
        ((s.takeData_sameHolders x).trans (State.setDir_sameHolders _ _)).trans (State.homeAct_sameHolders _ m)
      split
      · exact s.grantTo_setDir_sameHolders ..
      · exact hacted _
      · exact hacted _
      · exact s.grantTo_setDir_sameHolders ..
      · exact s.grantTo_setDir_sameHolders ..

theorem State.snoop_sameHolders (s : State) (x : Dir) (k : MsgKind) (asid d : Nat) : s.sameHolders (s.snoop x k asid d) :=
  (s.send_sameHolders _).trans (State.count_sameHolders _ _ _ _)

theorem State.await_sameHolders (s : State) (x : Dir) : s.sameHolders (s.await x) := by
  rw [State.await]
  split
  · exact s.finishHome_sameHolders x
  · exact s.setDir_sameHolders x

theorem State.takeExclusive_sameHolders (s : State) (x : Dir) (m : Msg) : s.sameHolders (s.takeExclusive x m) := by
  unfold State.takeExclusive
  extract_lets holds upg s0 others fwd s1 x1
  have hcounted : s.sameHolders s0 := by
    unfold s0
    split
    · exact s.count_sameHolders _ _ _
    · exact s.sameHolders_refl
  have hasked : s0.sameHolders s1 := foldl_sameHolders (fun s d => s.snoop_sameHolders x _ m.asid d) others s0
  exact (hcounted.trans hasked).trans (State.await_sameHolders _ _)

theorem State.forward_sameHolders (s : State) (x : Dir) (m : Msg) : s.sameHolders (s.forward x m) :=
  (s.snoop_sameHolders _ _ _ _).trans (State.setDir_sameHolders _ _)

theorem State.takeRequest_sameHolders (s : State) (x : Dir) (m : Msg) : s.sameHolders (s.takeRequest x m) := by
  have hrecall : s.sameHolders (s.takeRecall x m) := by
    rw [State.takeRecall]
    split
    · exact s.forward_sameHolders x m
    · exact (s.setDir_sameHolders x).trans (State.homeAct_sameHolders _ m)
  have hshared : s.sameHolders (s.takeShared x m) := by
    rw [State.takeShared]
    split
    · split
      · exact s.grantTo_setDir_sameHolders ..
      · exact s.forward_sameHolders x m
    · split <;> exact s.grantTo_setDir_sameHolders ..
  rw [State.takeRequest]
  split
  · exact hshared
  · exact hrecall
  · exact hrecall
  · exact s.takeExclusive_sameHolders x m

theorem State.homeNext_sameHolders (l n : Nat) (s : State) : s.sameHolders (s.homeNext l n) := by
  induction n generalizing s with
  | zero => exact s.sameHolders_refl
  | succ n ih =>
    rw [State.homeNext]
    split
    · exact s.sameHolders_refl
    · split
      · exact s.sameHolders_refl
      · split
        · exact s.sameHolders_refl
        · exact (s.takeRequest_sameHolders _ _).trans (ih _)

/-! ### The end of a die's groups (R275, R380) -/

theorem State.answer_sameDies (s : State) (m : Msg) : s.sameDies (s.answer m) := by
  have hsent : ∀ (u : State) (m : Msg), s.sameDies u → s.sameDies (u.send m) := fun u m h => h.trans (u.send_sameHolders m).dies
  unfold State.answer
  extract_lets d x back withData st s1
  split
  · exact rfl
  · split
    · exact hsent _ _ rfl
    · split
      · exact hsent _ _ rfl
      · refine hsent _ _ ?_
        unfold s1
        split <;> exact rfl

theorem State.askerDone_sameDies (s : State) (d l id : Nat) : s.sameDies (s.askerDone d l id) := by
  have hheld : ∀ u : State, u.sameDies (u.answerHeld d l) := fun u =>
    State.sameDies.trans (t := u.setDieLine d _) rfl (foldl_sameDies State.answer_sameDies _ _)
  rw [State.askerDone]
  split
  · exact State.sameDies.trans (t := s.setDieLine d _) rfl (hheld _)
  · exact s.sameDies_refl

theorem State.dropAccs_sameDies (s : State) (gone : Acc → Bool) : s.sameDies (s.dropAccs gone) := by
  have hline : ∀ (s : State) (a : Acc), s.sameDies (a.lines.foldl (fun s l => s.askerDone (coreDie a.core) l a.id) s) := fun s a =>
    foldl_sameDies (fun s l => s.askerDone_sameDies (coreDie a.core) l a.id) a.lines s
  exact State.sameDies.trans (t := { s with accs := s.accs.filter fun a => !gone a }) rfl (foldl_sameDies hline (s.accs.filter gone) _)

theorem State.unhold_sameDies (s : State) (gone : HeldItem → Bool) : s.sameDies (s.unhold gone) := by
  have hheader : ∀ (u : State) (asid : Nat), u.sameDies (u.writeFaultHeader asid) := fun u asid => by
    rw [State.writeFaultHeader]
    split
    · exact u.sameDies_refl
    · exact (u.ctlWrite_getD_sameHolders _ _ _).dies
  have hlowered : ∀ (u : State) (f : FaultRec), u.sameDies ((u.updCtx f.asid fun c => { c with fheld := c.fheld - 1 }).writeFaultHeader f.asid) :=
    fun u f => State.sameDies.trans (t := u.updCtx f.asid fun c => { c with fheld := c.fheld - 1 }) rfl (hheader _ _)
  unfold State.unhold
  extract_lets empty s1
  exact State.sameDies.trans (t := s1) rfl (foldl_sameDies hlowered _ s1)

theorem State.endThreads_sameDies (s : State) (gid : Nat) : s.sameDies (s.endThreads gid) := by
  unfold State.endThreads
  split
  · exact s.sameDies_refl
  next g _ =>
    extract_lets held withdrawn lost side s1 s2 u _ s3 s4
    have hrecords : s.sameDies s2 :=
      (foldl_sameDies (f := fun (s : State) (p : Nat × DWord) => s.faultRecord g p.1 p.2 2) (fun _ _ => rfl) withdrawn s).trans
        (foldl_sameDies (f := fun (s : State) (e : SideEntry) => s.faultRecord g e.acc.tid e.acc.va 2) (fun _ _ => rfl) side s1)
    have hdropped : u.sameDies s3 := State.dropAccs_sameDies u _
    exact (hrecords.trans (s2.unhold_sameDies _)).trans (hdropped.trans rfl)

theorem State.terminate_sameDies (s : State) (gid : Nat) : s.sameDies (s.terminate gid) := by
  rw [State.terminate]
  split
  · exact (s.endThreads_sameDies _).trans (State.endThreads_sameDies _ _)
  · exact s.endThreads_sameDies _

theorem State.dropHome_sameDies (s : State) (d : Nat) : s.sameDies (s.dropHome d) := by
  unfold State.dropHome
  extract_lets +onlyGivenNames ls mine back s1 again
  refine State.sameDies.trans (t := s1) (foldl_sameDies (fun s p => ?_) _ s) rfl
  unfold back
  split <;> exact rfl

/-! ### The reset of a die, in its parts (R279) -/

/-- The first part: the records of the lines that are lost. -/
def State.recordLost (s : State) (d : Nat) : State :=
  if (s.lostLines d).isEmpty then s.raiseErr { id := 0, asid := 0, tsc := 0, src := srcNum d 0x100, kind := 0x14, sev := 0 }
  else (s.lostLines d).foldl (fun s l => (s.poisonLine l).raiseErr
    { id := 0, asid := s.writer l, tsc := 0, src := srcNum ((s.homeOf? l).getD d) (0x100 + homeSlice l), kind := 0x14, sev := 1, addr := s.lineVa (s.writer l) l }) s

/-- The second part: the die's groups end, and what it homes is dropped. -/
def State.endDie (s : State) (d : Nat) : State :=
  (((s.groups.filter fun g => coreDie g.core == d).map (·.gid)).foldl State.terminate s).dropHome d

/-- The third part: all that the die and its cores hold is gone, its lines and its leases among it. -/
def State.emptyDie (s : State) (d : Nat) : State := { s with
  lines := s.lines.filter fun p => p.1 != d
  net := s.net.filter fun m => m.src != d && m.dst != d
  l1 := s.l1.filter fun x => coreDie x.core != d
  horizons := s.horizons.filter fun h => h.die != d
  tlb := s.tlb.filter fun t => t.unit != 1000 + d && (decide (t.unit ≥ 1000) || coreDie t.unit != d)
  leafCache := s.leafCache.filter fun c => coreDie c.core != d
  cores := s.cores.filter fun c => coreDie c.id != d
  mailboxes := s.mailboxes.filter fun m => m.die != d
  mxs := s.mxs.filter fun m => coreDie m.core != d
  copies := s.copies.filter fun c => !(c.gid.isSome && coreDie c.core == d)
  accs := s.accs.map fun a => if coreDie a.core == d && a.phase != .done then { a with parts := [], phase := .done } else a }

/-- A home goes on with the request to a line, the reset die's answer counting as given. -/
def State.goOn (s : State) (x : Dir) : State :=
  match s.dirs.find? fun y => y.line == x.line with
  | some y => (if !y.st.stable && y.st != .bAh && y.need.isEmpty then s.finishHome y else s).homeNext y.line y.queue.length
  | none => s

/-- The fourth part: the other homes count the die as gone, and go on. -/
def State.homesGoOn (s : State) (d now : Nat) : State :=
  (s.dirs.filter fun x => !x.st.stable).foldl State.goOn { s with dirs := s.dirs.map fun x => x.withoutDie d now }

/-- The links keep of what is on them what is still a message on its way. -/
def State.cutLinks (s : State) : State :=
  let onWay := fun (id : Nat) => s.net.any fun m => m.id == id
  { s with links := s.links.map fun k => { k with lines := k.lines.filter fun w => onWay w.msg, order := k.order.filter onWay } }

/-- The fifth part: the links of the die are reset, and what is on them for others is sent again. -/
def State.resetLinks (s : State) (d : Nat) : State :=
  ((linkEnds.filter fun p => p.1 == d || p.2 == d).foldl (fun s p => s.resetLink p.1 p.2) s.cutLinks).flowAlong (linkEnds ++ linkEnds)

/-- The reset of a die is its parts in turn, and last the die's own state as at reset. -/
theorem State.resetDie_parts (s : State) (d : Nat) :
    s.resetDie d = (((((s.recordLost d).endDie d).emptyDie d).homesGoOn d s.tsc).resetLinks d).updDie d fun x => { d := d, flc := x.flc } := rfl

theorem State.recordLost_sameDies (s : State) (d : Nat) : s.sameDies (s.recordLost d) := by
  rw [State.recordLost]
  split
  · rfl
  · exact foldl_sameDies (f := fun (s : State) (l : Nat) => (s.poisonLine l).raiseErr _) (fun _ _ => rfl) _ s

theorem State.endDie_sameDies (s : State) (d : Nat) : s.sameDies (s.endDie d) :=
  (foldl_sameDies State.terminate_sameDies _ s).trans (State.dropHome_sameDies _ d)

theorem State.homesGoOn_sameHolders (s : State) (d now : Nat) : s.sameHolders (s.homesGoOn d now) := by
  have hgoOn : ∀ (s : State) (x : Dir), s.sameHolders (s.goOn x) := fun s x => by
    rw [State.goOn]
    split
    · refine State.sameHolders.trans ?_ (State.homeNext_sameHolders _ _ _)
      split
      · exact s.finishHome_sameHolders _
      · exact s.sameHolders_refl
    · exact s.sameHolders_refl
  exact State.sameHolders.trans (t := { s with dirs := s.dirs.map fun x => x.withoutDie d now }) ⟨rfl, rfl, rfl⟩ (foldl_sameHolders hgoOn _ _)

theorem State.resetLinks_sameHolders (s : State) (d : Nat) : s.sameHolders (s.resetLinks d) := by
  have hcut : s.sameHolders s.cutLinks := ⟨rfl, rfl, rfl⟩
  have hreset := foldl_sameHolders (f := fun (s : State) (p : Nat × Nat) => s.resetLink p.1 p.2) (fun s p => s.resetLink_sameHolders p.1 p.2)
    (linkEnds.filter fun p => p.1 == d || p.2 == d) s.cutLinks
  exact (hcut.trans hreset).trans (State.flowAlong_sameHolders _ _)

/-- A die's reset leaves nothing of the lines and the leases that it held; until its last act, the same dies are enabled. -/
theorem State.resetDie_eq (s : State) (d : Nat) :
    ∃ u : State, s.resetDie d = u.updDie d (fun x => { d := d, flc := x.flc }) ∧ s.sameDies u ∧ (∀ q ∈ u.lines, q.1 ≠ d) ∧ ∀ h ∈ u.horizons, h.die ≠ d := by
  have hended : s.sameDies ((s.recordLost d).endDie d) := (s.recordLost_sameDies d).trans (State.endDie_sameDies _ d)
  refine ⟨_, s.resetDie_parts d, ?_⟩
  generalize (s.recordLost d).endDie d = u at hended
  have hrest : (u.emptyDie d).sameHolders (((u.emptyDie d).homesGoOn d s.tsc).resetLinks d) :=
    (State.homesGoOn_sameHolders _ d _).trans (State.resetLinks_sameHolders _ d)
  refine ⟨hended.trans hrest.dies, fun q hq => ?lines, fun h hh => ?horizons⟩
  case lines =>
    have hholder : q.1 ∈ (u.emptyDie d).lines.map Prod.fst := hrest.holders ▸ List.mem_map_of_mem hq
    obtain ⟨p, hp, hpq⟩ := List.mem_map.mp hholder
    simpa [hpq] using (List.mem_filter.mp hp).2
  case horizons =>
    rw [hrest.horizons] at hh
    simpa using (List.mem_filter.mp hh).2

/-! ### Dies after a reset, and after they are enabled again (R279) -/

/-- The state of a die after its own update, and after that of another. -/
theorem State.die_updDie (s : State) (d e : Nat) {f : Die → Die} (hf : ∀ x, (f x).d = x.d) :
    (s.updDie d f).die e = ((s.dies.find? fun x => x.d == e).map fun x => if e = d then f x else x).getD { d := e } := by
  rw [State.die, State.updDie, find?_updWhere Die.d d e f hf]

theorem State.die_updDie_of_ne (s : State) {d e : Nat} (he : e ≠ d) {f : Die → Die} (hf : ∀ x, (f x).d = x.d) : (s.updDie d f).die e = s.die e := by
  rw [State.die_updDie s d e hf, State.die]
  cases s.dies.find? fun x => x.d == e with
  | none => rfl
  | some x => exact if_neg he

/-- A die's own state after its reset: not enabled, with the far-line cache that it has (R279). -/
def Die.cleared (x : Die) : Die := { d := x.d, flc := x.flc }

theorem State.updDie_cleared (s : State) (d : Nat) : s.updDie d (fun x => { d := d, flc := x.flc }) = s.updDie d Die.cleared := by
  rw [State.updDie, State.updDie, updWhere, updWhere]
  refine congrArg (fun ds => ({ s with dies := ds } : State)) (List.map_congr_left fun x _ => ?_)
  split
  next hx => rw [Die.cleared, eq_of_beq hx]
  · rfl

theorem execDieReset_leaves {s : State} {d : Nat} (henabled : (s.die d).enabled = true) :
    ∃ t, execDieReset d s = .next t ∧ (∀ q ∈ t.lines, q.1 ≠ d) ∧ (∀ h ∈ t.horizons, h.die ≠ d) ∧ (t.die d).enabled = false
      ∧ ∀ e, e ≠ d → (t.die e).enabled = (s.die e).enabled := by
  obtain ⟨u, hreset, hdies, hlines, hhorizons⟩ := s.resetDie_eq d
  rw [State.updDie_cleared] at hreset
  have hcleared : ∀ x : Die, x.cleared.d = x.d := fun _ => rfl
  refine ⟨u.updDie d Die.cleared, (if_pos henabled).trans (congrArg _ hreset), hlines, hhorizons, ?_, fun e he => ?_⟩
  · rw [State.die_updDie u d d hcleared]
    cases u.dies.find? fun x => x.d == d with
    | none => rfl
    | some x => exact congrArg Die.enabled (if_pos rfl)
  · rw [State.die_updDie_of_ne u he hcleared]
    exact hdies.enabled e

/-- A die that is enabled again is available, no other changes, and what has waited for its memory is tried again (R279, log 16). -/
theorem execDieEnable_available {s : State} {d : Nat} (h1 : 1 ≤ d) (h4 : d ≤ 4) (hoff : (s.die d).enabled = false) (hstage : s.boot.stage = 6)
    (hdie : (s.dies.any fun x => x.d == d) = true) :
    ∃ t : State, execDieEnable d s = .next (({ t with away := [] } : State).answerBare false s.away) ∧ (t.die d).enabled = true
      ∧ (∀ e, e ≠ d → t.die e = s.die e) ∧ ∀ a, t.physByte a = s.physByte a := by
  refine ⟨s.updDie d fun x => { x with enabled := true }, if_pos ⟨h1, h4, hoff, hstage⟩, ?_, fun e he => State.die_updDie_of_ne s he fun _ => rfl, fun _ => rfl⟩
  obtain ⟨x, hx⟩ := Option.isSome_iff_exists.mp (List.find?_isSome.mpr (List.any_eq_true.mp hdie))
  have hself := State.die_updDie s d d (f := fun x => { x with enabled := true }) fun _ => rfl
  rw [hself, hx]
  exact congrArg Die.enabled (if_pos rfl)

end Sys2Proof.Machine
end

section
/-! THEOREMS. A die link receives, refuses, replays and retrains; a die is reset and enabled. -/

open Sys2Proof Sys2Proof.Machine

/-- Settles O36: what the receiver does turns on whether the line is read; a replay and a retraining send again what the link has in flight; and of what a
die's reset does, only its first part touches the lines and the leases of dies. -/
theorem linkAndDieEvents : Obligations.LinkAndDieEvents := by
  refine ⟨?links, fun s d => ⟨execDieReset_leaves, execDieEnable_available⟩⟩
  case links =>
    intro s src dst k w rest ws hk
    have read : w.words (k.dictFor w) = some ws ∧ crc32c (lineBytes (lineOfWords ws)) = w.lcrc → w.read (k.dictFor w) = some (lineOfWords ws) :=
      fun h => WireLine.read_of_words h.1 h.2
    exact ⟨
      fun hlines hopen hwhole => execLineReceive_read hk hlines hopen (read hwhole),
      fun hlines hclosed hreset hwhole => execLineReceive_resets hk hlines hclosed hreset (read hwhole),
      fun hlines hopen => execLineReceive_refuses hk hlines hopen (.inl rfl),
      fun hlines hopen hbad => execLineReceive_refuses hk hlines hopen (.inr (WireLine.read_eq_none hbad)),
      fun hlines hclosed hreset damaged => execLineReceive_waits hk hlines hclosed hreset damaged,
      execReplayRequest_asked hk,
      execLinkRetrain_link hk⟩
end

section
/-! SUPPORT. A state in which the identifier that the device gives out next is already that of a message on its way. What crosses a link is found, and
put back, by its identifier alone (`State.flow`, `State.cross`): of two messages with one identifier the later is replaced by the earlier. -/

namespace Sys2Proof.Machine

/-- Die 2 asks to upgrade a line of which it holds the only copy. -/
def upgOfSharer : Msg := { id := 5, kind := .upg, line := 0x202, src := 2, dst := 1 }

/-- An Inv that has still to cross the link from die 1 to die 2. -/
def invOnLink : Msg := { id := 7, kind := .inv, line := 0x203, src := 1, dst := 2, hops := [(1, 2)] }

/-- The line of the upgrade at its home, which records die 2 as its only sharer. -/
def soleSharer : Dir := { line := 0x202, home := 1, st := .S, sharers := [2] }

/-- Both messages on their way, die 1 enabled, and the identifier of the Inv to be given out once more. -/
def clashState : State :=
  { State.reset with dies := [{ d := 1, enabled := true }], dirs := [soleSharer], net := [upgOfSharer, invOnLink], nextId := 7 }

/-- A request that has arrived, at a home that is enabled and in its turn, joins those that the home takes (R273). -/
theorem request_arrives {s : State} {m : Msg} {k : MsgKind} (hm : s.msg? m.id k = some m) (henabled : (s.die m.dst).enabled = true)
    (hturn : s.mayArrive (s.dir m.line m.dst) (sliceSrc m.src m.line) = true) :
    request m.id k s = .next ((s.dropMsg m.id).arriveHome (s.dir m.line m.dst) m (sliceSrc m.src m.line)) := by
  simp only [request, hm, henabled, hturn, Bool.not_true, Bool.or_self, Bool.false_eq_true, if_false]

/-- The home grants the upgrade, and the grant, which has the identifier of the Inv, becomes a second Inv as it crosses the link. -/
theorem execUpg_clashState : ∃ t, exec (.upg upgOfSharer.id) clashState = .next t ∧ t.net.map (·.kind) = [.inv, .inv] :=
  ⟨_, request_arrives (s := clashState) (m := upgOfSharer) (k := .upg) (by decide +kernel) (by decide +kernel) (by decide +kernel), by decide +kernel⟩

end Sys2Proof.Machine
end

section
/-! THEOREMS. The directory's messages: a grant is lost where its identifier is already in use. -/

open Sys2Proof Sys2Proof.Machine

/-- Refutes O35: in `clashState` the only sharer of a line asks for its upgrade, and no grant is on its way afterwards. The statement is of every state,
and has no hypothesis that the identifiers of the messages on their way are below the next one. -/
theorem not_directoryEvents : ¬ Obligations.DirectoryEvents := by
  rintro ⟨hhome, -, -⟩
  obtain ⟨-, -, -, -, hupg, -⟩ := hhome clashState upgOfSharer soleSharer 0 rfl (by decide +kernel) rfl rfl rfl (.inr (by decide +kernel))
  obtain ⟨t, ht, -, g, hg, hgrant, -⟩ := hupg (by decide +kernel) rfl rfl rfl (by decide +kernel)
  obtain ⟨u, hu, hkinds⟩ := execUpg_clashState
  have htu : t = u := Host.Outcome.next.inj (ht.symm.trans hu)
  have hkind : g.kind ∈ [MsgKind.inv, .inv] := hkinds ▸ List.mem_map_of_mem (htu ▸ hg)
  rw [hgrant] at hkind
  exact absurd hkind (by decide)
end

section
/-! SUPPORT. The device at reset (R271, R283): the seed table of the link dictionaries. -/

namespace Sys2Proof.Machine

theorem seedTable_length : seedTable.length = 128 := by
  rw [seedTable, List.length_cons, List.length_map, List.length_range]

/-- Past its first entry the seed table holds, at each place, the byte of that number eight times (R283). -/
theorem seedTable_getD {i : Nat} (h1 : 1 ≤ i) (h127 : i ≤ 127) : (seedTable.getD i 0).toNat = i * 0x0101010101010101 := by
  obtain ⟨j, rfl⟩ := Nat.exists_eq_add_of_le' h1
  have hj : j < (List.range 127).length := by rw [List.length_range]; omega
  rw [seedTable, List.getD_cons_succ, List.getD_eq_getElem?_getD, List.getElem?_map, List.getElem?_eq_getElem hj, List.getElem_range,
    Option.map_some, Option.getD_some, BitVec.toNat_ofNat]
  omega

end Sys2Proof.Machine
end

section
/-! THEOREMS. The device at reset. -/

open Sys2Proof Sys2Proof.Machine

/-- Settles O58: every field is read off the reset state; each link has the seed table at both ends. -/
theorem resetState : Obligations.ResetState := by
  refine ⟨rfl, ?dies, rfl, rfl, rfl, rfl, rfl, fun _ => rfl, rfl, fun k hk => ?links, rfl, rfl⟩
  case dies => decide
  case links =>
    obtain ⟨p, -, rfl⟩ := List.mem_map.mp hk
    exact ⟨rfl, rfl, rfl, seedTable_length, rfl, fun i => seedTable_getD⟩
end

section
/-! SUPPORT. The semaphores (R358): who may read and write them, and their holders after each. -/

namespace Sys2Proof.Machine

theorem State.portUp_of {s : State} {port : Nat} (hstage : s.boot.stage = 6) (hport : port = 1 ∨ port = 2) : s.portUp port = true := by
  rw [State.portUp, hstage]
  obtain rfl | rfl := hport <;> rfl

/-- A host port and the firmware, port 3, reach the semaphores once BAR0 answers. -/
theorem State.reachesSems_of {s : State} {port : Nat} (hstage : s.boot.stage = 6) (hport : port = 1 ∨ port = 2 ∨ port = 3) :
    (s.portUp port || (s.boot.stage == 6 && port == 3)) = true := by
  rw [State.portUp, hstage]
  obtain rfl | rfl | rfl := hport <;> rfl

theorem HostRegs.holder_take (h : HostRegs) (n port k : Nat) :
    ({ h with sem := (n, port) :: h.sem } : HostRegs).holder k = if n = k then port else h.holder k := by
  rw [HostRegs.holder, List.find?_cons]
  by_cases hk : n = k
  · simp [hk]
  · rw [if_neg hk, beq_false_of_ne hk]
    rfl

theorem HostRegs.holder_release (h : HostRegs) (n k : Nat) :
    ({ h with sem := h.sem.filter fun p => p.1 != n } : HostRegs).holder k = if n = k then 0 else h.holder k := by
  rw [HostRegs.holder, List.find?_filter]
  by_cases hk : n = k
  · have hnone : (h.sem.find? fun p => decide ((p.1 != n) = true ∧ (p.1 == k) = true)) = none := by simp [hk]
    rw [hnone, if_pos hk]
    rfl
  · have hsame : (fun p : Nat × Nat => decide ((p.1 != n) = true ∧ (p.1 == k) = true)) = fun p => p.1 == k := by
      funext p
      by_cases hp : p.1 = k
      · simp [hp, Ne.symm hk]
      · simp [hp]
    rw [hsame, if_neg hk]
    rfl

/-- The firmware leaves semaphore 0 alone until a host has read it (log 62). -/
theorem execSemaphoreRead_firmware {s : State} {port n : Nat} (hport : port = 3) (h0 : n = 0) (hread : s.host.semRead = false) : execSemaphoreRead port n s = notEnabled := by
  have hblocked : (port == 3 && n == 0 && !s.host.semRead) = true := by simp [hport, h0, hread]
  rw [execSemaphoreRead, hblocked, Bool.or_true, if_pos rfl]

section
variable {s : State} {port n : Nat} (hstage : s.boot.stage = 6) (hn : n < 64)
include hstage hn

/-- What a semaphore's reading does where nothing keeps the port from it. -/
theorem execSemaphoreRead_eq (hport : port = 1 ∨ port = 2 ∨ (port = 3 ∧ (n ≠ 0 ∨ s.host.semRead = true))) :
    execSemaphoreRead port n s =
      let r := { s.host with semRead := s.host.semRead || n == 0 }
      if s.host.holder n = 0 then .next { s with host := { r with sem := (n, port) :: r.sem, lastRead := 0 } }
      else .next { s with host := { r with lastRead := if s.host.holder n = port then 0 else BitVec.ofNat 64 (s.host.holder n) } } := by
  have hreaches := State.reachesSems_of (s := s) (port := port) hstage (by omega)
  have hfree : (port == 3 && n == 0 && !s.host.semRead) = false := by
    obtain rfl | rfl | ⟨rfl, h | h⟩ := hport <;> simp [*]
  have hge : decide (n ≥ 64) = false := decide_eq_false (by omega)
  rw [execSemaphoreRead, hreaches, hfree, hge]
  rfl

theorem execSemaphoreWrite_eq (hport : port = 1 ∨ port = 2 ∨ port = 3) (value : Nat) :
    execSemaphoreWrite port n value s = if value = 0 ∧ s.host.holder n = port
      then .next { s with host := { s.host with sem := s.host.sem.filter fun p => p.1 != n } } else .next s := by
  have hge : decide (n ≥ 64) = false := decide_eq_false (by omega)
  rw [execSemaphoreWrite, State.reachesSems_of hstage hport, hge]
  rfl

end

end Sys2Proof.Machine
end

section
/-! THEOREMS. The semaphores. -/

open Sys2Proof Sys2Proof.Machine

/-- Settles O42: a read goes by the semaphore's holder; a write is a release or nothing; a port's reset leaves what others hold. -/
theorem semaphoreEvents : Obligations.SemaphoreEvents := by
  intro s port n value hstage hn
  refine ⟨execSemaphoreRead_firmware, fun hport => ?read, fun hport => ?write, fun hport => ?reset⟩
  case read =>
    have hexec := execSemaphoreRead_eq hstage hn hport
    refine ⟨fun hfree => ⟨_, hexec.trans (if_pos hfree), ?_, rfl, fun k hk => ?_⟩, fun hown => ?_, fun hheld hother => ?_⟩
    · exact (HostRegs.holder_take _ n port n).trans (if_pos rfl)
    · exact (HostRegs.holder_take _ n port k).trans (if_neg hk.symm)
    · exact hexec.trans ((if_neg (by omega)).trans (by rw [if_pos hown]))
    · exact hexec.trans ((if_neg hheld).trans (by rw [if_neg hother]))
  case write =>
    have hexec := execSemaphoreWrite_eq hstage hn hport
    refine ⟨fun hown => ⟨_, (hexec 0).trans (if_pos ⟨rfl, hown⟩), ?_, fun k hk => ?_⟩, fun hno => (hexec value).trans (if_neg (by omega))⟩
    · exact (HostRegs.holder_release _ n n).trans (if_pos rfl)
    · exact (HostRegs.holder_release _ n k).trans (if_neg hk.symm)
  case reset =>
    refine ⟨_, if_pos (State.portUp_of hstage hport), fun p hp => ?_, fun p hp hother => ?_⟩
    · simpa using (List.mem_filter.mp hp).2
    · exact List.mem_filter.mpr ⟨hp, by simpa using hother⟩
end

section
/-! SUPPORT. The first element of least key; the queue that the command processor serves (R294), and the record that it fetches (R362). -/

namespace Sys2Proof.Machine

/-! ### The first element of least key -/

section
variable {α : Type} (key : α → Nat)

theorem mem_insertBy (a x : α) (l : List α) : x ∈ insertBy key a l ↔ x = a ∨ x ∈ l := by
  induction l with
  | nil => simp [insertBy]
  | cons y ys ih =>
    rw [insertBy]
    split
    · exact List.mem_cons
    · rw [List.mem_cons, ih, List.mem_cons, or_left_comm]

theorem pairwise_insertBy (a : α) {l : List α} (h : l.Pairwise fun x y => key x ≤ key y) : (insertBy key a l).Pairwise fun x y => key x ≤ key y := by
  induction l with
  | nil => exact List.pairwise_singleton _ a
  | cons y ys ih =>
    obtain ⟨hy, hys⟩ := List.pairwise_cons.mp h
    rw [insertBy]
    split
    next hlt =>
      refine List.pairwise_cons.mpr ⟨fun z hz => ?_, h⟩
      obtain rfl | hz := List.mem_cons.mp hz
      · exact hlt.le
      · exact hlt.le.trans (hy z hz)
    next hge =>
      refine List.pairwise_cons.mpr ⟨fun z hz => ?_, ih hys⟩
      obtain rfl | hz := (mem_insertBy key a z ys).mp hz
      · exact Nat.le_of_not_lt hge
      · exact hy z hz

theorem foldl_insertBy (l : List α) {acc : List α} (h : acc.Pairwise fun x y => key x ≤ key y) :
    (l.foldl (fun acc a => insertBy key a acc) acc).Pairwise (fun x y => key x ≤ key y)
      ∧ ∀ x, x ∈ l.foldl (fun acc a => insertBy key a acc) acc ↔ x ∈ l ∨ x ∈ acc := by
  induction l generalizing acc with
  | nil => exact ⟨h, fun x => by simp⟩
  | cons a as ih =>
    obtain ⟨hsorted, hmem⟩ := ih (pairwise_insertBy key a h)
    refine ⟨hsorted, fun x => ?_⟩
    rw [List.foldl_cons, hmem, mem_insertBy, List.mem_cons, or_assoc, or_left_comm]

theorem pairwise_sortBy (l : List α) : (sortBy key l).Pairwise fun x y => key x ≤ key y := (foldl_insertBy key l List.Pairwise.nil).1

theorem mem_sortBy (l : List α) (x : α) : x ∈ sortBy key l ↔ x ∈ l := by
  rw [sortBy, (foldl_insertBy key l List.Pairwise.nil).2 x, or_iff_left List.not_mem_nil]

/-- What `minBy?` finds is in the list, and no element of the list has a smaller key. -/
theorem minBy?_least {key : α → Nat} {l : List α} {x : α} (h : minBy? key l = some x) : x ∈ l ∧ ∀ y ∈ l, key x ≤ key y := by
  obtain ⟨xs, hxs⟩ := List.head?_eq_some_iff.mp h
  have hsorted := pairwise_sortBy key l
  have hmem := mem_sortBy key l
  rw [hxs] at hsorted hmem
  refine ⟨(hmem x).mp List.mem_cons_self, fun y hy => ?_⟩
  obtain rfl | hin := List.mem_cons.mp ((hmem y).mpr hy)
  · exact le_rfl
  · exact (List.pairwise_cons.mp hsorted).1 y hin

end

/-! ### The queue that is served next -/

/-- A queue that is served next can start, and none of a higher priority can (R294); priorities are at most 7. -/
theorem State.nextQueue_highest {s : State} {x : Queue} (h : s.nextQueue = some x) :
    x ∈ s.queues ∧ (s.canStart x = true ∨ s.wordReady x = true)
      ∧ ∀ y ∈ s.queues, s.canStart y = true ∨ s.wordReady y = true → y.prio ≤ x.prio ∨ 7 < y.prio ∨ 7 < x.prio := by
  obtain ⟨hx, hleast⟩ := minBy?_least h
  obtain ⟨hin, hstarts⟩ := List.mem_filter.mp hx
  refine ⟨hin, Bool.or_eq_true_iff.mp hstarts, fun y hy hy' => ?_⟩
  have hle := hleast y (List.mem_filter.mpr ⟨hy, Bool.or_eq_true_iff.mpr hy'⟩)
  dsimp only at hle
  have hturn := Nat.mod_lt (y.q + 511 - ((s.proc.last.find? fun p => p.1 == y.prio).map (·.2)).getD 255) (show 0 < 256 by decide)
  omega

/-! ### The record at a queue's head -/

/-- The command that a queue's matched record starts. -/
def Queue.command (x : Queue) (b : List Byte) : CmdRec :=
  { n := x.count, op := fld b 2 1, msix := if fld b 3 1 % 2 = 1 then some (fld b 6 2) else none, port := x.port }

/-- A queue whose record has matched: its head and its tag have moved on by one (R361, R362). -/
def Queue.starting (y : Queue) (b : List Byte) (c : CmdRec) : Queue :=
  { y with
    head := (y.head + 1) % 2 ^ y.logn, tag := (y.tag + 1) % 2 ^ 16, misses := 0, refetch := none, dead := [], record := some b, count := y.count + 1
    cmds := (y.cmds.filter fun c => !c.complete) ++ [c] }

section
variable {s : State} {x : Queue} {b : List Byte} (hread : s.cpRead x.asid x.dead (x.base.toNat + 64 * x.head) 64 = .ok (some b))
include hread

theorem State.fetchRecord_matches (htag : fld b 0 2 = x.tag) (hok : recordOk b = true) :
    s.fetchRecord x = s.updQueue x.q fun y => y.starting b (x.command b) := by
  have hbit : bits (fld b 3 1) 0 1 = fld b 3 1 % 2 := by rw [bits, Nat.pow_zero, Nat.div_one, Nat.pow_one]
  simp only [State.fetchRecord, hread, htag, hok, hbit, ne_eq, not_true, if_false, Bool.not_true, Bool.false_eq_true]
  rfl

theorem State.fetchRecord_mismatches (htag : fld b 0 2 ≠ x.tag) (hmisses : x.misses < 64) :
    s.fetchRecord x = s.updQueue x.q fun y => { y with misses := y.misses + 1, refetch := some (s.tsc + 1000), dead := [] } := by
  simp only [State.fetchRecord, hread, if_pos htag, if_neg (Nat.not_le.mpr hmisses)]

end

theorem execCommandFetch_next {s : State} {x : Queue} (hnext : s.nextQueue = some x) (hstart : s.canStart x = true) :
    execCommandFetch s = .next ((s.servedQueue x).fetchRecord x) := by
  rw [execCommandFetch, hnext]
  exact if_pos hstart

theorem execRecordRefetch_due {s : State} {q t : Nat} {x : Queue} (hx : s.queue? q = some x) (ht : x.refetch = some t) (hdue : t ≤ s.tsc)
    (hstopped : x.stopped = false) (hheld : x.heldFault = false) : execRecordRefetch q s = .next (s.fetchRecord x) := by
  simp only [execRecordRefetch, hx, ht, hdue, hstopped, hheld, Bool.not_false, true_and, if_true]

end Sys2Proof.Machine
end

section
/-! THEOREMS. The records that the command processor fetches. -/

open Sys2Proof Sys2Proof.Machine

/-- Settles O45: the queue of least key has the highest priority; a fetched record by its tag. -/
theorem commandFetchEvents : Obligations.CommandFetchEvents := by
  intro s x q t b
  dsimp only
  refine ⟨State.nextQueue_highest, fun hnext hstart hread htag hok => ?_, fun hnext hstart hread htag hmisses => ?_, fun hx ht hdue hstopped hheld hread htag hok => ?_⟩
  · exact (execCommandFetch_next hnext hstart).trans (congrArg _ (State.fetchRecord_matches hread htag hok))
  · exact (execCommandFetch_next hnext hstart).trans (congrArg _ (State.fetchRecord_mismatches hread htag hmisses))
  · exact (execRecordRefetch_due hx ht hdue hstopped hheld).trans (congrArg _ (State.fetchRecord_matches hread htag hok))
end

section
/-! SUPPORT. Error records (R389-R391, R393): when one is due, what it merges into, and what accepting, posting, merging and dropping it leave. -/

namespace Sys2Proof.Machine

/-- A record is the next of its context to be posted where no other that waits comes before it in TSC and then in source (R390). -/
theorem State.postable_iff (s : State) (e : ErrRec) :
    s.postable e = true ↔ e.accepted = true ∧ e.posted = false ∧ e.tsc + 2000 ≤ s.tsc ∧ ∀ x ∈ s.errors, x.posted = true ∨ x.asid ≠ e.asid ∨ x.id = e.id
      ∨ e.tsc < x.tsc ∨ (e.tsc = x.tsc ∧ (e.src < x.src ∨ (e.src = x.src ∧ e.id < x.id))) := by
  simp only [State.postable, Bool.and_eq_true, Bool.or_eq_true, Bool.not_eq_true', List.all_eq_true, decide_eq_true_eq, bne_iff_ne, beq_iff_eq, and_assoc,
    or_assoc]

/-- A record that the queue of a context holds, unconsumed, and that a new one equals: the newest, or a sentinel's of the same millisecond (R390, R393). -/
abbrev Context.merges (c : Context) (ec : Nat) (e x : ErrRec) : Prop :=
  x.asid = e.asid ∧ x.posted = true ∧ x.src = e.src ∧ x.kind = e.kind ∧ x.addr = e.addr ∧ x.code = e.code
    ∧ (x.idx + 2 ^ 32 - ec) % 2 ^ 32 < (c.eprod + 2 ^ 32 - ec) % 2 ^ 32 ∧ ((x.idx + 1) % 2 ^ 32 = c.eprod ∨ (e.kind = 2 ∧ x.tsc / 1000000 = e.tsc / 1000000))

theorem State.mergeInto_eq (s : State) (c : Context) (ec : Nat) (e : ErrRec) :
    s.mergeInto c ec e = s.errors.find? fun x => decide (c.merges ec e x) := by
  refine congrArg (fun p => s.errors.find? p) (funext fun x => ?_)
  rw [Bool.eq_iff_iff]
  simp only [Bool.and_eq_true, Bool.or_eq_true, beq_iff_eq, decide_eq_true_eq, and_assoc]

theorem State.mergeInto_eq_none {s : State} {c : Context} {ec : Nat} {e : ErrRec} (h : ∀ x ∈ s.errors, ¬c.merges ec e x) : s.mergeInto c ec e = none :=
  (s.mergeInto_eq c ec e).trans (List.find?_eq_none.mpr fun x hx => mt of_decide_eq_true (h x hx))

section
variable {s : State} {e : ErrRec}

section
variable (he : (s.errors.find? fun x => x.id == e.id && !x.accepted) = some e)
include he

theorem execErrorRecordAccept_device (h0 : e.asid = 0) : execErrorRecordAccept e.id s = .next (s.updErr e.id fun e => { e with accepted := true }) := by
  rw [execErrorRecordAccept, he]
  exact if_pos h0

theorem execErrorRecordAccept_context {c : Context} (h0 : e.asid ≠ 0) (hc : s.ctx? e.asid = some c) :
    execErrorRecordAccept e.id s =
      let n := (c.ecount + 1) % 2 ^ 32
      let counted := (s.updErr e.id fun e => { e with accepted := true, seq := c.ecount }).updCtx e.asid fun x => { x with ecount := n }
      .next ((counted.ctlWrite e.asid (c.eqbase.toNat + 0xC) (natToBytes 4 n)).getD counted) := by
  rw [execErrorRecordAccept, he]
  simp only [if_neg h0, hc]

end

section
variable (he : (s.errors.find? fun x => x.id == e.id) = some e) (hdue : s.postable e = true)
include he hdue

theorem execErrorRecordPost_device (h0 : e.asid = 0) :
    execErrorRecordPost e.id s = .next (({ s with errors := s.errors.filter fun x => x.id != e.id } : State).logRecord e) := by
  simp only [execErrorRecordPost, he, hdue, h0, Bool.not_true, Bool.false_eq_true, if_false, if_true]

theorem execErrorRecordPost_context {c : Context} (h0 : e.asid ≠ 0) (hc : s.ctx? e.asid = some c) :
    execErrorRecordPost e.id s = .next (s.postErr c e) := by
  simp only [execErrorRecordPost, he, hdue, h0, hc, Bool.not_true, Bool.false_eq_true, if_false]

end

variable {c : Context} {ec : Nat} (hec : s.econs c = some ec)
include hec

theorem State.postErr_merges {x : ErrRec} {u : State} (hx : s.mergeInto c ec e = some x)
    (hu : s.ctlWrite c.asid (c.errAt x.idx) ({ x with rep := min 0xFFFF (x.rep + 1) } : ErrRec).bytes = some u) :
    s.postErr c e
      = { u with errors := (updWhere (fun z => z.id == x.id) (fun _ => { x with rep := min 0xFFFF (x.rep + 1) }) u.errors).filter fun z => z.id != e.id } := by
  simp only [State.postErr, hec, hx, hu]

theorem State.postErr_full (hnone : s.mergeInto c ec e = none) (hfull : c.eqlen ≤ (c.eprod + 2 ^ 32 - ec) % 2 ^ 32) : s.postErr c e = s.dropErr c e := by
  simp only [State.postErr, hec, hnone, ge_iff_le, if_pos hfull]

/-- The records that a posting keeps track of: those that its context's queue holds as the newest go, but for sentinel records of this millisecond; the posted one
has its place. -/
def Context.postedErrors (c : Context) (id ms : Nat) (l : List ErrRec) : List ErrRec :=
  updWhere (fun z => z.id == id) (fun z => { z with posted := true, idx := c.eprod })
    (l.filter fun z => !(z.asid == c.asid && z.posted && !(z.kind == 2 && z.tsc / 1000000 == ms)))

theorem State.postErr_writes (hnone : s.mergeInto c ec e = none) (hroom : (c.eprod + 2 ^ 32 - ec) % 2 ^ 32 < c.eqlen) {u v : State}
    (hu : s.ctlWrite c.asid (c.errAt c.eprod) e.bytes = some u)
    (hv : u.ctlWrite c.asid c.eqbase.toNat (natToBytes 4 ((c.eprod + 1) % 2 ^ 32)) = some v) :
    s.postErr c e = ({ v with errors := c.postedErrors e.id s.ms v.errors } : State).updCtx c.asid fun y => { y with eprod := (y.eprod + 1) % 2 ^ 32 } := by
  have hwrite : s.writeErr c e = some v := by rw [State.writeErr, hu, Option.bind_some, hv]
  simp only [State.postErr, hec, hnone, ge_iff_le, if_neg (Nat.not_le.mpr hroom), hwrite]
  rfl

end

theorem Context.mem_postedErrors {c : Context} {id ms : Nat} {l : List ErrRec} {z : ErrRec} (hz : z ∈ c.postedErrors id ms l) (hid : z.id = id) :
    z.posted = true ∧ z.idx = c.eprod := by
  obtain ⟨x, -, rfl⟩ := List.mem_map.mp hz
  by_cases hx : x.id = id
  · rw [if_pos (beq_iff_eq.mpr hx)]
    exact ⟨rfl, rfl⟩
  · rw [if_neg (mt beq_iff_eq.mp hx)] at hid
    exact absurd hid hx

/-- A posting loses no record that is still to be posted. -/
theorem Context.postedErrors_keeps {c : Context} {id ms : Nat} {l : List ErrRec} {z : ErrRec} (hz : z ∈ l) (hposted : z.posted = false) :
    ∃ y ∈ c.postedErrors id ms l, y.id = z.id := by
  refine ⟨_, List.mem_map_of_mem (List.mem_filter.mpr ⟨hz, by simp [hposted]⟩), ?_⟩
  split <;> rfl

end Sys2Proof.Machine
end

section
/-! THEOREMS. Error records on their way to the error queue or the device log. -/

open Sys2Proof Sys2Proof.Machine

/-- Settles O40: a record is accepted by its context; a due one is posted by whether the queue holds a record that it equals, and by the queue's room. -/
theorem errorRecordEvents : Obligations.ErrorRecordEvents := by
  intro s e c
  dsimp only
  refine ⟨fun he h0 hc => execErrorRecordAccept_context he h0 hc, fun he h0 => execErrorRecordAccept_device he h0,
    fun he hdue h0 hc => execErrorRecordPost_context he ((s.postable_iff e).mpr hdue) h0 hc,
    fun he hdue h0 => execErrorRecordPost_device he ((s.postable_iff e).mpr hdue) h0, fun ec hec => ⟨fun x hx u hu => ?merge, fun hno hfull => ?full, fun hno hroom u v hu hv => ?post⟩⟩
  case merge => exact State.postErr_merges hec ((s.mergeInto_eq c ec e).trans hx) hu
  case full => exact State.postErr_full hec (State.mergeInto_eq_none hno) hfull
  case post =>
    exact ⟨_, State.postErr_writes hec (State.mergeInto_eq_none hno) hroom hu hv, fun z => Context.mem_postedErrors, fun z => Context.postedErrors_keeps⟩
end

section
/-! SUPPORT. The fault queue of a context (R382, R417, R418): what the control die does once FCONS has moved or room has freed, and what an answer does to a thread. -/

namespace Sys2Proof.Machine

section
variable {s : State} {asid : Nat} {c : Context} (hc : s.ctx? asid = some c)
include hc

theorem execFaultResponse_known {fc : Nat} (hfc : s.fconsKnown c = some fc) (hmoved : fc ≠ c.fconsSeen) :
    execFaultResponse asid s =
      let seqs := (List.range (c.consumed fc)).map fun k => (c.fconsSeen + k) % 2 ^ 32
      let recs := seqs.filterMap fun q => (s.faults.find? fun f => f.asid == asid && f.posted && f.seq == q).map fun f => (f, s.respOf c q)
      let rest := s.faults.filter fun f => !(f.asid == asid && f.posted && seqs.contains f.seq)
      .next ((recs.foldl State.answerRecord ({ s with faults := rest }.updCtx asid fun c => { c with fconsSeen := fc })).watchFcons asid) := by
  simp only [execFaultResponse, hc, hfc, if_neg hmoved]

theorem execFconsPoll_due (hhost : s.hostHeader c = true) (hdue : c.pollDue ≤ s.tsc) :
    execFconsPoll asid s = .next (s.updCtx asid fun x => { x with fconsRead := (s.fcons c).getD c.fconsRead, pollDue := s.tsc + 10000 }) := by
  simp only [execFconsPoll, hc, hhost, decide_eq_false (Nat.not_lt.mpr hdue), Bool.not_true, Bool.or_self, Bool.false_eq_true, if_false]

section
variable (hheld : s.heldFaults asid ≠ 0) (hroom : s.queueFull c = false)
include hheld hroom

theorem execHeldFaultPost_room (hfcons : (s.fcons c).isSome = true) (hposted : (s.postHeld asid (s.heldFaults asid)).heldFaults asid ≠ s.heldFaults asid) :
    execHeldFaultPost asid s = .next ((s.postHeld asid (s.heldFaults asid)).writeFaultHeader asid) := by
  have hnone : (s.fcons c).isNone = false := by rw [← Option.not_isSome, hfcons]; rfl
  simp only [execHeldFaultPost, hc, hroom, hnone, decide_eq_false hheld, Bool.or_self, Bool.false_eq_true, if_false, if_neg hposted]

theorem execFaultWriteRetry_due (hdue : c.retryDue ≤ s.tsc) :
    execFaultWriteRetry asid s
      = .next (((s.postHeld asid (s.heldFaults asid)).updCtx asid fun c => { c with retryDue := s.tsc + 10000 }).writeFaultHeader asid) := by
  simp only [execFaultWriteRetry, hc, hroom, decide_eq_false hheld, decide_eq_false (Nat.not_lt.mpr hdue), Bool.or_self, Bool.false_eq_true, if_false]

end
end

section
variable {s : State} {gid tid : Nat} {t : Thread} (ht : s.thread? gid tid = some t) (hparked : t.st = .parked .access) (kind : Nat) (va : DWord)
include ht hparked

theorem State.answerThread_unresolvable : s.answerThread gid tid kind va true = s.takeTrap gid tid 9 kind 0 va := by
  simp only [State.answerThread, ht, hparked, bne_self_eq_false, Bool.false_eq_true, if_false, if_true]

/-- A thread of a group outside tandem mode is tried again at once (R382). -/
theorem State.answerThread_again {g : Group} (hg : s.group? gid = some g) (hrole : g.role = .solo) :
    s.answerThread gid tid kind va false = s.wakeThread gid tid := by
  simp only [State.answerThread, ht, hparked, bne_self_eq_false, Bool.false_eq_true, if_false, hg, Option.bind_some, State.partner?, hrole, if_true]

end

theorem State.thread?_wakeThread {s : State} {gid tid : Nat} {t : Thread} (ht : s.thread? gid tid = some t) :
    ∃ x, (s.wakeThread gid tid).thread? gid tid = some x ∧ x.st = .ready ∧ x.pc = t.pc ∧ x.regs = t.regs ∧ x.preds = t.preds :=
  ⟨_, State.thread?_updThread_self _ ht, rfl, rfl, rfl, rfl⟩

end Sys2Proof.Machine
end

section
/-! THEOREMS. Fault records that are answered, polled for, posted and tried again. -/

open Sys2Proof Sys2Proof.Machine

/-- Settles O39: each event, in a state that enables it, is its closed form; an answered thread is woken where it stands, or takes the trap. -/
theorem faultQueueEvents : Obligations.FaultQueueEvents := by
  refine ⟨fun s asid fc c hc => ⟨execFaultResponse_known hc, execFconsPoll_due hc, ?held, ?retry⟩, fun s f gid tid t g ht hg hparked hrole => ⟨?again, ?trap⟩⟩
  case held => exact fun hheld hfcons hroom hposted => execHeldFaultPost_room hc hheld hroom hfcons hposted
  case retry => exact fun hheld hroom hdue => execFaultWriteRetry_due hc hheld hroom hdue
  case again =>
    have hwoken : s.answerItem f false (.thread gid tid) = s.wakeThread gid tid := State.answerThread_again ht hparked f.kind f.va hg hrole
    rw [hwoken]
    exact State.thread?_wakeThread ht
  case trap => exact State.answerThread_unresolvable ht hparked f.kind f.va
end

section
/-! SUPPORT. A GRAPH command that has been checked (R327), what a node is dispatched for (R307), its batch, and its fallback (R310). -/

namespace Sys2Proof.Machine

/-! ### The command -/

section
variable {s : State} {q : Nat} {x : Queue} {b : List Byte} {n : Nat} (hs : s.started q 3 = some (x, b, n)) (halign : fld b 8 8 % 64 = 0)
include hs halign

theorem execGraphCommand_refused {cw code : Nat} {k : Kept} (h : s.tryGraph x n (fld b 0 2) (fld b 8 8) x.kept = .ok (.refused cw code, k)) :
    execGraphCommand q s = .next ((s.dispatched q n).finishCmd x.asid q (some n) cw (statusOf code)) := by
  simp only [execGraphCommand, hs, halign, ne_eq, not_true, if_false, h]

theorem execGraphCommand_started {g : Graph} {k : Kept} (h : s.tryGraph x n (fld b 0 2) (fld b 8 8) x.kept = .ok (.started g, k)) :
    ∃ u : State, u.graphs = s.graphs ++ [g] ∧ execGraphCommand q s = .next (u.settleGraph g.id) := by
  simp only [execGraphCommand, hs, halign, ne_eq, not_true, if_false, h]
  exact ⟨_, rfl, rfl⟩

end

/-! ### The dispatch of a node -/

section
variable {s : State} {graph n : Nat} {g : Graph} {y : GNode} (hopen : s.openNode graph n = some (g, y))
include hopen

theorem execNodeDispatch_ready {t succ : Nat} {recs : List (Nat × Nat × Nat)} {rest : List (Nat × Nat × List (Nat × Nat × Nat))}
    (hready : y.ready = (t, succ, recs) :: rest) :
    execNodeDispatch graph n s = .next (s.dispatchNode g y t succ recs fun s => s.updNode g.id y.n fun z => { z with ready := rest }) := by
  simp only [execNodeDispatch, hopen, hready]

section
variable {c : Nat × Nat × Nat} {w : List (Nat × Nat × Nat)} (hready : y.ready = []) (hwaiting : g.waiting y = c :: w)
include hready hwaiting

theorem execNodeDispatch_record (hkind : y.kind ≠ 2) : execNodeDispatch graph n s = .next (s.dispatchRecords g y c.2.2 1) := by
  simp only [execNodeDispatch, hopen, hready, hwaiting, if_neg hkind]

theorem execNodeDispatch_batch {t k : Nat} (hkind : y.kind = 2) (hdue : s.batchDue g y = some (t, k, false)) :
    execNodeDispatch graph n s = .next (s.dispatchRecords g y t k) := by
  simp only [execNodeDispatch, hopen, hready, hwaiting, if_pos hkind, hdue]

end

theorem execCoalesceTimer_batch {t k : Nat} (hkind : y.kind = 2) (hdue : s.batchDue g y = some (t, k, true)) :
    execCoalesceTimer graph n s = .next (s.dispatchRecords g y t k) := by
  simp only [execCoalesceTimer, hopen, hkind, hdue]

end

/-! ### The batch that is due -/

section
variable {s : State} {g : Graph} {y : GNode} {c : Nat × Nat × Nat} {w : List (Nat × Nat × Nat)} (hwaiting : g.waiting y = c :: w)
  (hopen : ∀ z ∈ g.edges, z.n = y.inedge → g.nodeDone (g.nodes.length + 1) z.prod = false)
include hwaiting hopen

/-- While a producer of a node may have further groups, its batch becomes due by its size or by its timer (R307). -/
theorem State.batchDue_open : s.batchDue g y =
    (minBy? (fun (p : Nat × Bool) => 2 * p.1 + p.2.toNat) (((((c :: w)[y.nb - 1]?).map (·.2.2)).toList).map (·, false)
      ++ (if c.2.2 + y.timer ≤ s.tsc then some (c.2.2 + y.timer) else none).toList.map (·, true))).map fun p =>
      (p.1, min y.nb ((c :: w).filter fun r => decide (r.2.2 ≤ p.1)).length, p.2) := by
  have hended : (((g.edges.find? fun e => e.n == y.inedge).map (·.prod)).bind fun p =>
      if g.nodeDone (g.nodes.length + 1) p then some (max c.2.2 (g.doneTick (g.nodes.length + 1) p)) else none) = none := by
    cases he : g.edges.find? fun e => e.n == y.inedge with
    | none => rfl
    | some z =>
      have hz := hopen z (List.mem_of_find?_eq_some he) (by simpa using List.find?_some he)
      rw [Option.map_some, Option.bind_some, hz]
      rfl
  simp only [State.batchDue, hwaiting, hended, Option.toList_none, List.append_nil]

theorem State.batchDue_full {r : Nat × Nat × Nat} (hr : (c :: w)[y.nb - 1]? = some r) (hbefore : r.2.2 < c.2.2 + y.timer) :
    s.batchDue g y = some (r.2.2, min y.nb ((c :: w).filter fun z => decide (z.2.2 ≤ r.2.2)).length, false) := by
  rw [State.batchDue_open hwaiting hopen, hr]
  split
  · have hfirst : ¬2 * (c.2.2 + y.timer) + 1 < 2 * r.2.2 := by omega
    simp [minBy?, sortBy, insertBy, hfirst]
  · rfl

theorem State.batchDue_timer (hnot : (c :: w)[y.nb - 1]? = none) (hrun : c.2.2 + y.timer ≤ s.tsc) :
    s.batchDue g y = some (c.2.2 + y.timer, min y.nb ((c :: w).filter fun z => decide (z.2.2 ≤ c.2.2 + y.timer)).length, true) := by
  rw [State.batchDue_open hwaiting hopen, hnot, if_pos hrun]
  rfl

end

/-- At or past a node's cut-off its fallback gets the dispatch, and the node counts as run and ended (R310, log 52). -/
theorem State.dispatchNode_fallback (s : State) (g : Graph) {y : GNode} {t : Nat} (succ : Nat) (recs : List (Nat × Nat × Nat)) (drop : State → State)
    (hdeadline : y.deadline ≠ 0) (hpast : y.deadline ≤ t + y.margin) : s.dispatchNode g y t succ recs drop
      = (((drop s).updNode g.id y.n fun z => { z with ran := true, lastEnd := s.tsc }).updNode g.id y.fallback fun z =>
          { z with ready := z.ready ++ [(t, succ, recs)] }).settleGraph g.id :=
  if_pos ⟨hdeadline, hpast⟩

end Sys2Proof.Machine
end

section
/-! THEOREMS. Graphs and their nodes. -/

open Sys2Proof Sys2Proof.Machine

/-- Settles O47: a checked graph by what its checks gave; a node by what is due for it, with the batch that its size or its timer gives. -/
theorem graphEvents : Obligations.GraphEvents := by
  intro s q n graph x b g y
  refine ⟨fun hs halign => ⟨fun cw code k => execGraphCommand_refused hs halign, fun k => execGraphCommand_started hs halign⟩,
    fun hopen => ⟨fun t succ recs rest => execNodeDispatch_ready hopen, fun c w hready hwaiting => execNodeDispatch_record hopen hready hwaiting,
      fun c w t k hready hwaiting => execNodeDispatch_batch hopen hready hwaiting, fun t k => execCoalesceTimer_batch hopen⟩,
    fun c w hwaiting hopen => ⟨fun r => State.batchDue_full hwaiting hopen, State.batchDue_timer hwaiting hopen⟩,
    fun t succ recs drop => s.dispatchNode_fallback g succ recs drop⟩
end

section
/-! SUPPORT. Tandem mode: the trailer's next access against its entry (R398), a wait that has lasted (R400), and a checkpoint (R399, R401). -/

namespace Sys2Proof.Machine

section
variable {s : State} {gid : Nat} {t : Tandem} {l r : Group} (ht : s.tandem? gid = some t) (hcopies : s.copies? t = some (l, r))
include ht hcopies

section
variable {tid : Nat} {x : Thread} {e : CEntry} (hgid : r.gid = gid) (hx : s.thread? gid tid = some x) (hwaiting : x.st = .waiting)
  (he : (t.entries.find? fun e => e.tid == tid && e.k == x.tacc + 1 && !e.released) = some e)
include hgid hx hwaiting he

/-- The trailer's access agrees with its entry, which has been made: the leader's is released, and the trailer goes on. -/
theorem execTrailerAccess_agrees {u : State} (hsig : e.sig = x.tsig) (hmade : e.faulted = false ∨ e.acc ≠ none) (hu : s.releaseAcc l e = some u) :
    ∃ v : State, execTrailerAccess gid tid s = .next (v.wakeThread gid tid) ∧ (∀ a, v.physByte a = u.physByte a) ∧ v.accs = u.accs := by
  have hunmade : e.unmade = false := by
    obtain h | h := hmade
    · rw [CEntry.unmade, h, Bool.false_and]
    · rw [CEntry.unmade, Option.isNone_eq_false_iff.mpr (Option.isSome_iff_ne_none.mpr h), Bool.and_false]
  simp only [execTrailerAccess, ht, hx, hcopies, hgid, hwaiting, he, hsig, hunmade, hu, ne_eq, not_true, or_self, if_false, if_true, Bool.false_eq_true]
  exact ⟨_, rfl, fun _ => rfl, rfl⟩

theorem execTrailerAccess_differs (hsig : e.sig ≠ x.tsig) :
    execTrailerAccess gid tid s = .next (s.mismatch t tid (sigAddr e.sig) e.pc (sigData e.sig) (sigData x.tsig)) := by
  simp only [execTrailerAccess, ht, hx, hcopies, hgid, hwaiting, he, hsig, ne_eq, not_true, or_self, if_false]

end

/-- A wait of the trailer of 100 µs is a mismatch, unless a checkpoint is due or the leader is held at an access (R400, R402). -/
theorem execTandemWaitTimeout_waited {y : Thread} (hdue : t.due = false) (hheld : ∀ z ∈ l.threads, z.st ≠ .parked .access)
    (hy : (r.threads.find? fun z => z.st == .waiting && decide (z.waitTick + 100000 ≤ s.tsc)) = some y) :
    execTandemWaitTimeout gid s = .next (s.mismatch t y.tid 0 0 0 0) := by
  have hnone : (l.threads.any fun z => z.st == .parked .access) = false := List.any_eq_false.mpr fun z hz => by simpa using hheld z hz
  simp only [execTandemWaitTimeout, ht, hcopies, hdue, hnone, hy, Bool.or_self, Bool.false_eq_true, if_false]

/-- A full buffer of released entries makes a checkpoint due once both copies have made those accesses (R399). -/
theorem execTandemCheckpoint_full (hdue : t.due = false) (hfull : 256 ≤ t.entries.length) (hreleased : ∀ e ∈ t.entries, e.released = true)
    (hmade : ∀ g, g = l ∨ g = r → ∀ z ∈ g.live, z.pend = 0 ∧ z.tacc = t.made z.tid) :
    execTandemCheckpoint gid s =
      let u := s.updTandem gid fun t => { t with due := true }
      .next (if u.ckptReady t l r then u.takeCheckpoint t l r else u) := by
  have hall : t.entries.all (·.released) = true := List.all_eq_true.mpr hreleased
  have hok : ∀ g, g = l ∨ g = r → (g.live.all fun x => x.pend == 0 && x.tacc == t.made x.tid) = true := fun g hg =>
    List.all_eq_true.mpr fun z hz => by
      obtain ⟨hpend, hcount⟩ := hmade g hg z hz
      rw [hpend, hcount, beq_self_eq_true, beq_self_eq_true, Bool.and_self]
  simp only [execTandemCheckpoint, ht, hcopies, hdue, hall, hok l (.inl rfl), hok r (.inr rfl), ge_iff_le, decide_eq_true hfull, Bool.not_false, Bool.and_self,
    if_true]

end

end Sys2Proof.Machine
end

section
/-! THEOREMS. The trailer's accesses, the waits of tandem mode, and its checkpoints. -/

open Sys2Proof Sys2Proof.Machine

/-- Settles O52: each event, in a state that enables it, is one branch of its meaning. -/
theorem tandemEvents : Obligations.TandemEvents := by
  intro s gid tid t x l r e ht hcopies
  refine ⟨fun hgid hx hwaiting he => ⟨fun u hsig hmade hu => ?agrees, fun hsig => ?differs⟩, fun y hdue hheld hy => ?timeout,
    fun hdue hfull hreleased hmade => ?checkpoint⟩
  case agrees => exact execTrailerAccess_agrees ht hcopies hgid hx hwaiting he hsig hmade hu
  case differs => exact execTrailerAccess_differs ht hcopies hgid hx hwaiting he hsig
  case timeout => exact execTandemWaitTimeout_waited ht hcopies hdue hheld hy
  case checkpoint => exact execTandemCheckpoint_full ht hcopies hdue hfull hreleased hmade
end

section
/-! SUPPORT. The words that ask the control die or the command processor (R305, R309, R334-R338): what each does with its octet, and what an ENQ and a COMMIT
are answered with. -/

namespace Sys2Proof.Machine

/-! ### The octet -/

theorem Group.octet_drop_any_eq_false {g : Group} {n k : Nat} (hz : ∀ j, k ≤ j → j < 8 → g.ureg (n + j) = 0) : ((g.octet n).drop k).any (· != 0) = false := by
  refine List.any_eq_false.mpr fun w hw => ?_
  rw [octet, ← List.map_drop] at hw
  obtain ⟨j, hj, rfl⟩ := List.mem_map.mp hw
  have hrange : k ≤ j ∧ j < 8 := by
    obtain ⟨i, hi, rfl⟩ := List.getElem_of_mem hj
    rw [List.length_drop, List.length_range] at hi
    rw [List.getElem_drop, List.getElem_range]
    omega
  rw [hz j hrange.1 hrange.2]
  exact Bool.false_ne_true

theorem Group.octet_drop_any_iff (g : Group) (n k : Nat) : ((g.octet n).drop k).any (· != 0) = true ↔ ¬∀ j, k ≤ j → j < 8 → g.ureg (n + j) = 0 := by
  refine ⟨fun hany hz => Bool.false_ne_true ((Group.octet_drop_any_eq_false hz).symm.trans hany), fun hnot => ?_⟩
  by_contra hany
  refine hnot fun j hkj hj => by_contra fun hne => hany (List.any_eq_true.mpr ⟨g.ureg (n + j), ?_, bne_iff_ne.mpr hne⟩)
  rw [octet, ← List.map_drop]
  have hlen : j - k < ((List.range 8).drop k).length := by rw [List.length_drop, List.length_range]; omega
  have hget : ((List.range 8).drop k)[j - k] = j := by rw [List.getElem_drop, List.getElem_range]; omega
  exact List.mem_map.mpr ⟨j, hget ▸ List.getElem_mem hlen, rfl⟩

/-! ### ENQ and COMMIT (R334, R336) -/

section
variable {i : Instr} {commit : Bool} {sreg e : Nat} {s : State} {l : Lane}

/-- What ENQ or COMMIT does for its thread (R333, R334). -/
def askLane (commit : Bool) (sreg e : Nat) (l : Lane) (s : State) : Except Stop State :=
  match l.grant s with
  | some _ => .ok s
  | none => match l.consumeOct sreg with
    | .error st => .error st
    | .ok true => .ok (s.graphErr l.g.asid (some l) 0)
    | .ok false =>
      let o := l.g.octet sreg
      if octPair o 0 % 16 ≠ 0 ∨ (o.drop 2).any (· != 0) then .error tileTrap else .error (.ask commit e (BitVec.ofNat 64 (octPair o 0)))

theorem askWord_eq (i : Instr) (commit : Bool) (sreg e : Nat) (s : State) :
    askWord i commit sreg e s = match runWord i (askLane commit sreg e) s with | .next s => .next (s.serveAsks s.issue.gid) | r => r := rfl

theorem askWord_stops (hi : Issues i l s) {st : Stop} (hgid : (s.stopLane l.cur.tid st).issue.gid = s.issue.gid)
    (hst : askLane commit sreg e l (s.advanced l) = .error st) :
    askWord i commit sreg e s = .next ((s.stopLane l.cur.tid st).serveAsks s.issue.gid) := by
  rw [askWord_eq, runWord_one_stop hi hst, ← hgid]

/-- The answer to an ENQ or a COMMIT has come: neither acts again. -/
theorem askWord_granted (hi : Issues i l s) (hgrant : (l.grant s).isSome = true) : askWord i commit sreg e s
    = .next (((s.advanced l).settled i l s).serveAsks ((s.advanced l).settled i l s).issue.gid) := by
  obtain ⟨ws, hws⟩ := Option.isSome_iff_exists.mp hgrant
  have hws : l.grant (s.advanced l) = some ws := hws
  have hdone : askLane commit sreg e l (s.advanced l) = .ok (s.advanced l) := by rw [askLane, hws]
  rw [askWord_eq, runWord_one hi hdone]

variable (hi : Issues i l s) (hgrant : l.grant s = none) (hoct : l.consumeOct sreg = .ok false)
include hi hgrant hoct

theorem askWord_asks (hshape : octPair (l.g.octet sreg) 0 % 16 = 0 ∧ ∀ n, 2 ≤ n → n < 8 → l.g.ureg (sreg + n) = 0) : askWord i commit sreg e s
    = .next ((s.stopLane l.cur.tid (.ask commit e (BitVec.ofNat 64 (octPair (l.g.octet sreg) 0)))).serveAsks s.issue.gid) := by
  have hgrant : l.grant (s.advanced l) = none := hgrant
  refine askWord_stops hi ?_ ?_
  · rw [State.stopLane]
    split <;> rfl
  · simp only [askLane, hgrant, hoct, hshape.1, Group.octet_drop_any_eq_false hshape.2, ne_eq, not_true, Bool.false_eq_true, or_self, if_false]

theorem askWord_misshapen (hshape : ¬(octPair (l.g.octet sreg) 0 % 16 = 0 ∧ ∀ n, 2 ≤ n → n < 8 → l.g.ureg (sreg + n) = 0)) :
    askWord i commit sreg e s = .next ((s.stopLane l.cur.tid tileTrap).serveAsks s.issue.gid) := by
  have hgrant : l.grant (s.advanced l) = none := hgrant
  refine askWord_stops hi ?_ ?_
  · rw [State.stopLane]
    split
    · show (State.takeTrap _ _ _ _ _ _ _).issue.gid = _
      rw [State.takeTrap_issue]
    · rfl
  · have hbad : octPair (l.g.octet sreg) 0 % 16 ≠ 0 ∨ ((l.g.octet sreg).drop 2).any (· != 0) = true := by
      rw [Group.octet_drop_any_iff]
      exact Classical.not_and_iff_not_or_not.mp hshape
    simp only [askLane, hgrant, hoct, if_pos hbad]

end

/-! ### RESULT and LAUNCH (R309, R337, R338) -/

section
variable {i : Instr} {sreg : Nat} {act : Lane → State → State} {s : State} {l : Lane} (he : ∀ s, exec i s = packOnce i sreg act s) (hi : Issues i l s)
include he hi

/-- The pack's first thread carries the word out. -/
theorem packOnce_first (hoct : l.consumeOct sreg = .ok false) (hcmd : s.issue.cmd = none) :
    Completes i l s fun s => act l { s with issue := { s.issue with cmd := some 0 } } := by
  have hcmd : (s.advanced l).issue.cmd = none := hcmd
  refine (he s).trans (runWord_one hi ?_)
  simp only [hcmd, hoct, Bool.false_eq_true, if_false]

/-- For the others of the pack it has been carried out. -/
theorem packOnce_again (hcmd : s.issue.cmd ≠ none) : Completes i l s fun s => s := by
  obtain ⟨c, hc⟩ := Option.ne_none_iff_exists'.mp hcmd
  have hc : (s.advanced l).issue.cmd = some c := hc
  refine (he s).trans (runWord_one hi ?_)
  simp only [hc]

end

/-- What RESULT does for its pack: the selector of a node that branches, and the value, or a graph record where a zero word is not zero or the address is
misaligned (R309, R337). -/
def resultAct (sreg : Nat) (l : Lane) (s : State) : State :=
  let o := l.g.octet sreg
  let va := octPair o 2
  if o.getD 1 0 != 0 || o.getD 6 0 != 0 || o.getD 7 0 != 0 || va % 8 != 0 then s.graphErr l.g.asid (some l) 2
  else
    let branching := ((s.placeOf l.g).map fun p => p.2.nodes.any fun x => x.n == p.1.succ && x.kind == 0 && decide (x.nbranch ≥ 2)).getD false
    let s1 := if branching then s.updSpan l.g.sid fun x => { x with selector := some (o.getD 0 0) } else s
    if va = 0 then s1 else s1.writeResult l.g.asid l.g.sid va (octPair o 4)

theorem exec_result (c : BitVec 1) (o : BitVec 6) (s : State) : exec (.result c o) s = packOnce (.result c o) o.toNat (resultAct o.toNat) s := rfl

/-- Whether the octet of a RESULT is as it must be: its words 1, 6 and 7 are zero, and its address is aligned. -/
def Group.resultOk (g : Group) (n : Nat) : Prop := g.ureg (n + 1) = 0 ∧ g.ureg (n + 6) = 0 ∧ g.ureg (n + 7) = 0 ∧ octPair (g.octet n) 2 % 8 = 0

theorem Group.resultOk_iff (g : Group) (n : Nat) : g.resultOk n
    ↔ ((g.octet n).getD 1 0 != 0 || (g.octet n).getD 6 0 != 0 || (g.octet n).getD 7 0 != 0 || octPair (g.octet n) 2 % 8 != 0) = false := by
  simp only [Bool.or_eq_false_iff, bne_eq_false_iff_eq, and_assoc]
  rfl

/-- What LAUNCH hands to the command processor (R338). -/
def launchReq (sreg : Nat) (l : Lane) (s : State) : LaunchReq :=
  let u := fun (n : Nat) => l.g.ureg (sreg + n)
  { id := s.nextId, asid := l.g.asid, q := (u 2).toNat % 256, desc := octPair (l.g.octet sreg) 0
    bad := decide (256 ≤ (u 2).toNat) || ([3, 4, 5, 6, 7] : List Nat).any fun n => u n != 0 }

def launchAct (sreg : Nat) (l : Lane) (s : State) : State := { s.fresh with launches := s.launches ++ [launchReq sreg l s] }

theorem exec_launch (c : BitVec 1) (o : BitVec 6) (s : State) : exec (.launch c o) s = packOnce (.launch c o) o.toNat (launchAct o.toNat) s := by
  have hact : ∀ l : Lane, (((l.g.octet o.toNat).getD 2 0).toNat / 256 != 0) = decide (256 ≤ (l.g.ureg (o.toNat + 2)).toNat) := fun l => by
    show ((l.g.ureg (o.toNat + 2)).toNat / 256 != 0) = _
    rw [Bool.eq_iff_iff, bne_iff_ne, decide_eq_true_eq]
    omega
  show execLaunch c o s = _
  rw [execLaunch]
  refine congrArg (fun act => packOnce (.launch c o) o.toNat act s) (funext fun l => funext fun s => ?_)
  simp only [hact]
  rfl

/-! ### What the control die answers (R218, R305, R334, R335) -/

/-- A COMMIT is not answered while its fence has waits left (R218). -/
theorem State.serveAsk_fenced {s : State} {gid tid e : Nat} {table : DWord} {g : Group} {t : Thread} (hg : s.group? gid = some g)
    (ht : s.thread? gid tid = some t) (hst : t.st = .asking true e table) (hfence : s.fenceDone g t (s.fenceOf t 2 1 1) = false) :
    s.serveAsk gid tid = s := by
  simp only [State.serveAsk, hg, ht, hst, State.commitFence, hfence, Bool.false_eq_true, if_false]

theorem State.group?_reserve {s : State} {gid : Nat} {g : Group} (hg : s.group? gid = some g) (graph e slot block tid : Nat) :
    ∃ h, (s.reserve graph e slot block gid tid).group? gid = some h ∧ h.asid = g.asid ∧ h.core = g.core :=
  ⟨_, State.group?_updThread_self hg tid _, rfl, rfl⟩

theorem State.res_reserve {s : State} {gid tid : Nat} {t : Thread} (ht : s.thread? gid tid = some t) (graph e slot block : Nat) :
    ((s.reserve graph e slot block gid tid).thread? gid tid).map (·.res) = some (t.res ++ [{ edge := e, slot := slot, block := block }]) :=
  congrArg (Option.map fun t : Thread => t.res) (State.thread?_updThread_self _ ht)

/-- An answered ENQ: the thread's table entry is written, and the thread goes on (R334). -/
theorem State.answerAsk_enq {s : State} {gid : Nat} {g : Group} (hg : s.group? gid = some g) {tid e slot stat : Nat} {table raddr : DWord} {w : State × Nat}
    (hw : s.vwrite ctlUnit 0 g.asid (table.toNat + 16 * tid) (natToBytes 8 raddr.toNat ++ natToBytes 4 slot ++ natToBytes 4 stat) = .ok w) :
    s.answerAsk gid tid false e table raddr slot stat = (w.1.dropRead g.core g.asid (table.toNat + 16 * tid) 16).deliver gid tid 0 [] none := by
  simp only [State.answerAsk, hg, Bool.false_eq_true, if_false, hw, Bool.false_and]

/-- An ENQ on an edge that leaves the thread's own node gets the lowest free slot and block (R305, R335). -/
theorem State.serveAsk_gives {s : State} {gid tid e slot block : Nat} {table : DWord} {g : Group} {t : Thread} {r : NodeRun} {gr : Graph} {x : GEdge}
    (hg : s.group? gid = some g) (ht : s.thread? gid tid = some t) (hst : t.st = .asking false e table) (hplace : s.placeOf g = some (r, gr))
    (hedge : gr.edges.find? (fun y => y.n == e) = some x) (hprod : x.prod = r.node) (hres : t.res.any (fun y => y.edge == e) = false)
    (hslot : lowestFree x.slots x.used = some slot) (hblock : lowestFree gr.rcount gr.usedBlocks = some block) :
    s.serveAsk gid tid = (s.reserve gr.id e slot block gid tid).answerAsk gid tid false e table (BitVec.ofNat 64 (gr.payload block)) slot 0 := by
  simp only [State.serveAsk, hg, ht, hst, hplace, hedge, hprod, hres, hslot, State.giveSlot, hblock, ne_eq, not_true, if_false, Bool.false_eq_true]

end Sys2Proof.Machine
end

section
/-! THEOREMS. The words that ask the control die or the command processor, and the answer to an ENQ. -/

open Sys2Proof Sys2Proof.Machine

/-- Settles O28: ENQ and COMMIT by their octet, RESULT and LAUNCH once for their pack; the answer to an ENQ is that of the thread with its reservation. -/
theorem queueRequestWords : Obligations.QueueRequestWords := by
  refine ⟨fun c o k s l => ?words, fun s gid tid e table g t hg ht hst => State.serveAsk_fenced hg ht hst, ?gives⟩
  case words =>
    have first : ∀ hi : Issues (.result c o) l s, l.consumeOct o.toNat = .ok false → s.issue.cmd = none → Completes (.result c o) l s fun s =>
        resultAct o.toNat l { s with issue := { s.issue with cmd := some 0 } } := packOnce_first (exec_result c o)
    refine ⟨fun hi hidle => askWord_asks hi hidle.1 hidle.2, fun hi hidle => askWord_asks hi hidle.1 hidle.2, ?_, ?_, fun hi hoct hcmd hok => ?_,
      fun hi hoct hcmd hok => ?_, fun hi => packOnce_first (exec_launch c o) hi, ?_⟩
    · rintro i (rfl | rfl) hi hgrant
      · exact askWord_granted hi hgrant
      · exact askWord_granted hi hgrant
    · rintro i (rfl | rfl) hi hidle hshape
      · exact askWord_misshapen hi hidle.1 hidle.2 hshape
      · exact askWord_misshapen hi hidle.1 hidle.2 hshape
    · have hgood := (l.g.resultOk_iff o.toNat).mp hok
      refine (first hi hoct hcmd).trans ?_
      simp only [resultAct, hgood, Bool.false_eq_true, if_false]
      rfl
    · have hbad := eq_true_of_ne_false (mt (l.g.resultOk_iff o.toNat).mpr hok)
      refine (first hi hoct hcmd).trans ?_
      simp only [resultAct, hbad, if_true]
    · rintro i (rfl | rfl) hi hcmd
      · exact packOnce_again (exec_result c o) hi hcmd
      · exact packOnce_again (exec_launch c o) hi hcmd
  case gives =>
    intro s gid tid e slot block table g t r gr x w hg ht hst hplace hedge hprod hres hslot hblock addr s1 hw
    obtain ⟨h, hh, hasid, hcore⟩ := State.group?_reserve hg gr.id e slot block tid
    refine ⟨(State.serveAsk_gives hg ht hst hplace hedge hprod hres hslot hblock).trans ?_, State.res_reserve ht gr.id e slot block⟩
    rw [State.answerAsk_enq hh (hasid ▸ hw), hasid, hcore]
end

section
/-! SUPPORT. What a host does through its ports: accesses to memory (R357, R279), registers (R357, R360), time (R365), and bring-up (R370, R371). -/

namespace Sys2Proof.Machine

/-! ### Device memory (R357) -/

theorem State.writePhys_physByte {s : State} (h : Memory.wf s.mem) (die asid pa : Nat) (bs : List Byte) {k : Nat} (hk : k < bs.length) :
    (s.writePhys die asid pa bs).physByte (pa + k) = bs.getD k 0 := by
  have hnoted : (s.setPhysBytes pa bs).sameCopies (s.writePhys die asid pa bs) := foldl_sameCopies (fun s l =>
    State.sameCopies.trans (t := (s.setWriter l asid).noteWrite l _ _) ⟨rfl, rfl, rfl, rfl, rfl, rfl⟩ (State.evalMonitors_sameCopies _ l)) _ _
  rw [hnoted.sameMemory.1, State.physByte_setPhysBytes h, if_pos ⟨by omega, by omega⟩, Nat.add_sub_cancel_left]

/-- Bytes whose lines' homes are enabled lie in no line of a die that has been reset (R279). -/
theorem State.awayLines_eq_false {s : State} {pa n : Nat} (hhome : ∀ l ∈ linesOf pa n, ∀ d, s.homeOf? l = some d → (s.die d).enabled = true) :
    s.awayLines pa n = false := by
  refine List.any_eq_false.mpr fun l hl => ?_
  cases hd : s.homeOf? l with
  | none => exact Bool.false_ne_true
  | some d =>
    rw [Option.map_some, Option.getD_some, hhome l hl d hd]
    exact Bool.false_ne_true

section
variable {s : State} {port : Nat} (hup : s.portUp port = true)
include hup

theorem execHostMemoryAccess_eq {off : Nat} {data : List Byte} (hroom : off + data.length ≤ 2 ^ 36)
    (hhome : ∀ l ∈ linesOf (s.host.window port + off) data.length, ∀ d, s.homeOf? l = some d → (s.die d).enabled = true) (write : Bool) :
    execHostMemoryAccess port write off data s =
      if write then .next (s.writePhys 0 0 (s.host.window port + off) data)
      else .next { s with host := { s.host with lastData := (List.range data.length).map fun k => s.barByte (s.host.window port + off + k) } } := by
  rw [execHostMemoryAccess, hup, State.awayLines_eq_false hhome, decide_eq_false (Nat.not_lt.mpr hroom)]
  rfl

/-! ### Registers (R357, R360) -/

/-- The registers that a REGISTER_WRITE does not reach: those past BAR0, the semaphores, MOP and the tails have events of their own. -/
def writable (off : Nat) : Prop :=
  off < 0x4000000 ∧ off % 8 = 0 ∧ ¬(0x1000 ≤ off ∧ off < 0x1200) ∧ off ≠ 0x2000 ∧ ¬(0x10000 ≤ off ∧ off < 0x11000 ∧ off % 16 = 0)

theorem execRegisterWrite_eq {off : Nat} (hoff : writable off) (value : DWord) :
    execRegisterWrite port off value s =
      if readOnly off then .next s
      else if 0x2008 ≤ off ∧ off ≤ 0x2030 then .next { s with host := { s.host with margs := setAt s.host.margs ((off - 0x2008) / 8) value } }
      else if off = 0x3008 then .next { s with host := { s.host with timesrc := value, locked := false }, disc := {} }
      else if off = 0x3010 then .next (s.moveOffset value)
      else .next { s with host := { s.host with other := (off, value) :: s.host.other.filter fun p => p.1 != off } } := by
  obtain ⟨hbar, haligned, hsem, hmop, htail⟩ := hoff
  have hreaches : (!s.portUp port || decide (off ≥ 0x4000000) || off % 8 != 0 || decide (0x1000 ≤ off ∧ off < 0x1200) || off == 0x2000
      || decide (0x10000 ≤ off ∧ off < 0x11000 ∧ off % 16 = 0)) = false := by
    rw [hup, decide_eq_false (Nat.not_le.mpr hbar), haligned, decide_eq_false hsem, beq_false_of_ne hmop, decide_eq_false htail]
    rfl
  rw [execRegisterWrite, hreaches]
  rfl

theorem execRegisterWrite_readOnly {off : Nat} (haligned : off % 8 = 0) (hread : readOnly off = true)
    (hoff : off = 0x3000 ∨ off = 0x3018 ∨ off = 0x2038 ∨ (0x4000 ≤ off ∧ off < 0x4040) ∨ (0x100000 ≤ off ∧ off < 0x150000)) (value : DWord) :
    execRegisterWrite port off value s = .next s := by
  have hwritable : writable off := by unfold writable; omega
  rw [execRegisterWrite_eq hup hwritable, if_pos hread]

theorem execRegisterWrite_argument {off : Nat} (hlo : 0x2008 ≤ off) (hhi : off ≤ 0x2030) (haligned : off % 8 = 0) (value : DWord) :
    execRegisterWrite port off value s = .next { s with host := { s.host with margs := setAt s.host.margs ((off - 0x2008) / 8) value } } := by
  have hwritable : writable off := by unfold writable; omega
  have hread : readOnly off = false := by
    simp only [readOnly, Bool.or_eq_false_iff, beq_eq_false_iff_ne, decide_eq_false_iff_not]
    omega
  rw [execRegisterWrite_eq hup hwritable, hread, if_neg Bool.false_ne_true, if_pos ⟨hlo, hhi⟩]

theorem execRegisterWrite_timesrc (value : DWord) :
    execRegisterWrite port 0x3008 value s = .next { s with host := { s.host with timesrc := value, locked := false }, disc := {} } :=
  execRegisterWrite_eq hup (by unfold writable; decide) value

theorem execRegisterWrite_tscoff (value : DWord) : execRegisterWrite port 0x3010 value s = .next (s.moveOffset value) :=
  execRegisterWrite_eq hup (by unfold writable; decide) value

theorem execQtailWrite_eq {q : Nat} (hq : q < 256) (index : Nat) :
    execQtailWrite port q index s = .next (s.updQueue q fun x => { x with tail := index % 2 ^ x.logn, port := port }) := by
  rw [execQtailWrite, hup, decide_eq_true hq]
  rfl

theorem execPtmSync_root (hsource : s.host.timesrc.toNat = port) (error : Int) : execPtmSync port error s = .next (s.discipline error) := by
  rw [execPtmSync, hup, if_neg (by decide), if_pos hsource]

end

/-! ### Time (R365) -/

theorem State.moveOffset_unpulsed {s : State} (hsource : s.host.timesrc ≠ 3) (value : DWord) :
    s.moveOffset value = { s with host := { s.host with tscoff := value } } := if_pos hsource

section
variable {s : State} {value : DWord} (hsource : s.host.timesrc = 3)
include hsource

theorem State.moveOffset_forward (hforward : 0 < (value - s.host.tscoff).toInt) (hidle : s.groups = []) : s.moveOffset value
    = { s with host := { s.host with tscoff := value }, tsc := s.tsc + (value - s.host.tscoff).toInt.toNat } :=
  (if_neg (not_not.mpr hsource)).trans (if_pos ⟨hforward, hidle⟩)

theorem State.moveOffset_slewed (hslewed : (value - s.host.tscoff).toInt ≤ 0 ∨ s.groups ≠ []) : s.moveOffset value
    = { s with host := { s.host with tscoff := value }, disc := { s.disc with drift := some (s.disc.drift.getD 0 - (value - s.host.tscoff).toInt) } } :=
  (if_neg (not_not.mpr hsource)).trans (if_neg fun h => hslewed.elim (Int.not_le.mpr h.1) (not_not.mpr h.2))

theorem State.discipline_pulse (error : Int) : s.discipline error
    = { s with host := { s.host with locked := decide (-20 ≤ error ∧ error ≤ 20) }, disc := { s.disc with drift := some error } } := by
  rw [State.discipline, hsource]
  rfl

theorem execPpsPulse_source (hstage : s.boot.stage = 6) (edge : Int) : execPpsPulse edge s = .next (s.discipline (s.pulseError edge)) :=
  (if_neg (not_not.mpr hstage)).trans (if_pos hsource)

end

theorem State.discipline_root {s : State} (hsource : s.host.timesrc ≠ 3) (error : Int) : s.discipline error
    = { s with host := { s.host with locked := decide (-40 ≤ error ∧ error ≤ 40) }, disc := { s.disc with drift := some error } } := by
  rw [State.discipline, withinBounds, if_neg hsource]

/-! ### Bring-up (R370, R371) -/

/-- Whether bring-up accepts the images of the firmware and of the trap runtime: by their signatures, and by the fused counter (R370). -/
def State.accepts (s : State) (firmware runtime : List Byte) (version : Nat × Nat) : Prop :=
  Config.signatureValid firmware = true ∧ Config.signatureValid runtime = true ∧ s.boot.minVersion ≤ version.1 ∧ s.boot.minVersion ≤ version.2

/-- The device once accepted images have brought it up: measured, its dies enabled, its links at the seed (R371). -/
def State.broughtUp (s : State) (flc : List Nat) (firmware runtime : List Byte) : State := { s with
  boot := { s.boot with
    stage := 6, measure := [Config.romImage, firmware, runtime, Config.configBytes s.boot.plim s.boot.retryLimit flc].map Config.sha256, rejected := false }
  dies := s.dies.map fun d => { d with enabled := true, flc := flc.getD (d.d - 1) 0 }
  links := s.links.map fun k => { k with sdict := seedTable, rdict := seedTable, snext := 0, rnext := 0 } }

section
variable {s : State} {flc : List Nat} (hstage : s.boot.stage = 0) (hlen : flc.length = 4) (hsizes : ∀ g ∈ flc, g = 0 ∨ g = 2 ∨ g = 4 ∨ g = 8)
  {firmware runtime : List Byte} {version : Nat × Nat}
include hstage hlen hsizes

/-- Bring-up starts from stage 0, with a size that there is for each die's far-line cache. -/
theorem execBringUp_eq : execBringUp flc firmware runtime version s =
    if !(Config.signatureValid firmware && Config.signatureValid runtime) || decide (version.1 < s.boot.minVersion ∨ version.2 < s.boot.minVersion)
      then .next { s with boot := { s.boot with rejected := true } } else .next (s.broughtUp flc firmware runtime) := by
  have hall : (flc.all fun g => g == 0 || g == 2 || g == 4 || g == 8) = true := List.all_eq_true.mpr fun g hg => by
    obtain rfl | rfl | rfl | rfl := hsizes g hg <;> rfl
  rw [execBringUp, hstage, hlen, hall]
  rfl

theorem execBringUp_accepted (h : s.accepts firmware runtime version) :
    execBringUp flc firmware runtime version s = .next (s.broughtUp flc firmware runtime) := by
  obtain ⟨hfirmware, hruntime, h1, h2⟩ := h
  rw [execBringUp_eq hstage hlen hsizes, hfirmware, hruntime, decide_eq_false (by omega)]
  rfl

theorem execBringUp_rejected (h : ¬s.accepts firmware runtime version) :
    execBringUp flc firmware runtime version s = .next { s with boot := { s.boot with rejected := true } } := by
  rw [execBringUp_eq hstage hlen hsizes]
  refine if_pos (by_contra fun hno => h ?_)
  simpa [State.accepts, and_assoc] using hno

end

theorem State.broughtUp_enabled (s : State) (flc : List Nat) (firmware runtime : List Byte) : ∀ d ∈ (s.broughtUp flc firmware runtime).dies, d.enabled = true := by
  intro d hd
  obtain ⟨x, -, rfl⟩ := List.mem_map.mp hd
  rfl

theorem State.broughtUp_seeded (s : State) (flc : List Nat) (firmware runtime : List Byte) :
    ∀ k ∈ (s.broughtUp flc firmware runtime).links, k.sdict = seedTable ∧ k.rdict = seedTable ∧ k.snext = 0 ∧ k.rnext = 0 := by
  intro k hk
  obtain ⟨x, -, rfl⟩ := List.mem_map.mp hk
  exact ⟨rfl, rfl, rfl, rfl⟩

end Sys2Proof.Machine
end

section
/-! THEOREMS. What the host does through its ports, time, and bring-up. -/

open Sys2Proof Sys2Proof.Machine

/-- Settles O43: an access whose lines are there; a write by the register; a comparison with a source by the source; bring-up by whether the images are
accepted. -/
theorem hostEvents : Obligations.HostEvents := by
  intro s port off q index value data edge error flc firmware runtime version up pa home late
  have portUp : up → s.portUp port = true := fun h => State.portUp_of h.1 h.2
  refine ⟨fun hup hroom hhome hwf => ?write, fun hup hroom hhome => ?read, fun hup haligned hread hoff => ?readOnly, fun hup hlo hhi haligned => ?argument,
    fun hup => ?timesrc, fun hup hsource => ?unpulsed, fun hup hsource hforward hidle => ?forward, fun hup hsource hslewed => ?slewed, fun hup hq => ?tail,
    fun hstage hsource => ?pulse, fun hup hsource => ?root, fun hstage hlen hsizes => ?bringUp⟩
  case write => exact ⟨_, execHostMemoryAccess_eq (portUp hup) hroom hhome true, fun k hk => State.writePhys_physByte hwf.1 0 0 pa data hk⟩
  case read => exact execHostMemoryAccess_eq (portUp hup) hroom hhome false
  case readOnly => exact execRegisterWrite_readOnly (portUp hup) haligned hread hoff value
  case argument => exact execRegisterWrite_argument (portUp hup) hlo hhi haligned value
  case timesrc => exact execRegisterWrite_timesrc (portUp hup) value
  case unpulsed => exact (execRegisterWrite_tscoff (portUp hup) value).trans (congrArg _ (State.moveOffset_unpulsed hsource value))
  case forward => exact (execRegisterWrite_tscoff (portUp hup) value).trans (congrArg _ (State.moveOffset_forward hsource hforward hidle))
  case slewed => exact (execRegisterWrite_tscoff (portUp hup) value).trans (congrArg _ (State.moveOffset_slewed hsource hslewed))
  case tail => exact execQtailWrite_eq (portUp hup) hq index
  case pulse => exact (execPpsPulse_source hsource hstage edge).trans (congrArg _ (State.discipline_pulse hsource late))
  case root =>
    have hnotPulse : s.host.timesrc ≠ 3 := fun h => by
      have h3 : port = 3 := hsource.symm.trans (congrArg BitVec.toNat h)
      obtain ⟨-, h1 | h2⟩ := hup <;> omega
    exact (execPtmSync_root (portUp hup) hsource error).trans (congrArg _ (State.discipline_root hnotPulse error))
  case bringUp =>
    by_cases h : s.accepts firmware runtime version
    · exact ⟨_, execBringUp_accepted hstage hlen hsizes h, (if_pos h).mpr
        ⟨rfl, s.broughtUp_enabled flc firmware runtime, rfl, s.broughtUp_seeded flc firmware runtime⟩⟩
    · exact ⟨_, execBringUp_rejected hstage hlen hsizes h, (if_neg h).mpr rfl⟩
end

section
/-! SUPPORT. The management operations: who may start one (R359), and what the operations on contexts and queues write (R347-R349, R360). -/

namespace Sys2Proof.Machine

/-! ### Starting an operation (R359) -/

/-- What a write of MOP does through a port: the operation starts, NOSEM is answered, or OVERRUN is set (R359). -/
def State.startsOp (s : State) (port : Nat) (r : Res) (op : Nat) (e : Nat × State) : Prop :=
  (s.host.holder 0 = port → s.host.mgmt = none → r = .next
    { e.2 with host := { e.2.host with mop := BitVec.ofNat 64 op, mstat := 0, mgmt := some { port := port, op := op, status := e.1, margs := s.host.margs } } })
  ∧ (s.host.holder 0 ≠ port → r = .next { s with host := { s.host with mstat := BitVec.ofNat 64 (2 ^ 63 + 1) } })
  ∧ ∀ m, s.host.holder 0 = port → s.host.mgmt = some m → r = .next { s with host := { s.host with mgmt := some { m with overrun := true } } }

section
variable {s : State} {port : Nat} (hup : s.portUp port = true)
include hup

theorem mopStart_startsOp (op : Nat) (act : List DWord → State → Nat × State) : s.startsOp port (mopStart port op act s) op (act s.host.margs s) := by
  refine ⟨fun hholder hidle => ?_, fun hholder => ?_, fun m hholder hruns => ?_⟩
  · rw [mopStart, hup, hidle, if_neg (not_not_intro hholder)]
    rfl
  · rw [mopStart, hup, if_pos hholder]
    rfl
  · rw [mopStart, hup, hruns, if_neg (not_not_intro hholder)]
    rfl

/-- An event that is a write of MOP starts its operation, with the arguments that stand in the registers. -/
theorem startsOp_of_mopStart {r : Res} {op : Nat} {e : Nat × State} (hevent : r = mopStart port op (fun _ _ => e) s) : s.startsOp port r op e :=
  hevent ▸ mopStart_startsOp hup op _

theorem execBadop_startsOp {op : Nat} (hop : ¬(1 ≤ op ∧ op ≤ 14)) : s.startsOp port (execBadop port op s) op (2, s) := by
  rw [execBadop, if_neg hop]
  exact mopStart_startsOp hup op _

/-! ### TLBINV and migration (R355, R368) -/

section
variable (hholder : s.host.holder 0 = port) (hidle : s.host.mgmt = none)
include hholder hidle

theorem execTlbinv_known (hknown : (s.ctx? (marg s.host.margs 0)).isSome = true) : ∃ t x, execTlbinv port s = .next t ∧ t.host.mgmt = some x ∧ x.status = 0
    ∧ x.asid = marg s.host.margs 0 ∧ x.before = s.nextId
    ∧ t.tlb = s.tlb.filter fun y => !y.inRange (marg s.host.margs 0) (marg s.host.margs 1) (marg s.host.margs 2) := by
  have hnone : (s.ctx? (marg s.host.margs 0)).isNone = false := by rw [Option.isNone_eq_false_iff, hknown]
  rw [execTlbinv, (mopStart_startsOp hup 6 _).1 hholder hidle]
  simp only [hidle, hnone, Bool.false_eq_true, if_false, stOk, if_true]
  exact ⟨_, _, rfl, rfl, rfl, rfl, rfl, rfl⟩

theorem execTlbinv_unknown (hunknown : s.ctx? (marg s.host.margs 0) = none) : ∃ t x, execTlbinv port s = .next t ∧ t.host.mgmt = some x ∧ x.status = 3 := by
  rw [execTlbinv, (mopStart_startsOp hup 6 _).1 hholder hidle]
  simp only [hidle, hunknown, Option.isNone_none, if_true, stOk, stBadarg]
  exact ⟨_, _, rfl, rfl, rfl⟩

theorem execMigout_unknown (hunknown : s.ctx? (marg s.host.margs 0) = none) : ∃ t x, execMigout port s = .next t ∧ t.host.mgmt = some x ∧ x.status = 3 := by
  rw [execMigout, (mopStart_startsOp hup 9 _).1 hholder hidle]
  simp only [hunknown]
  exact ⟨_, _, rfl, rfl, rfl⟩

theorem execMigin_unknown (hunknown : s.ctx? (marg s.host.margs 0) = none) : ∃ t x, execMigin port s = .next t ∧ t.host.mgmt = some x ∧ x.status = 3 := by
  rw [execMigin, (mopStart_startsOp hup 10 _).1 hholder hidle]
  simp only [hunknown]
  exact ⟨_, _, rfl, rfl, rfl⟩

/-- A context that may leave goes out with every one of its saved groups complete (R368). -/
theorem execMigout_leaves {c : Context} (hctx : s.ctx? (marg s.host.margs 0) = some c) (hleave : s.mayLeave c = true) : ∃ t x,
    execMigout port s = .next t ∧ t.host.mgmt = some x ∧ x.status = 0 ∧ ∀ v ∈ t.saved, v.asid = c.asid → v.complete = true := by
  rw [execMigout, (mopStart_startsOp hup 9 _).1 hholder hidle]
  simp only [hctx, hleave, Bool.not_true, Bool.false_eq_true, if_false]
  refine ⟨_, _, rfl, rfl, rfl, fun v hv hasid => ?_⟩
  obtain ⟨w, -, rfl⟩ := List.mem_map.mp hv
  by_cases hw : (w.asid == c.asid) = true
  · rw [if_pos hw]
  · rw [if_neg hw] at hasid
    exact absurd (beq_iff_eq.mpr hasid) hw

theorem execMigin_read {c : Context} {l : List (Nat × List Byte)} (hctx : s.ctx? (marg s.host.margs 0) = some c) (hcount : marg s.host.margs 2 ≤ 1048576)
    (hread : s.readImages c (marg s.host.margs 1) (marg s.host.margs 2) = some l) : ∃ t x,
    execMigin port s = .next t ∧ t.host.mgmt = some x ∧ x.status = 0 := by
  rw [execMigin, (mopStart_startsOp hup 10 _).1 hholder hidle]
  simp only [hctx, if_neg (Nat.not_lt.mpr hcount), hread]
  exact ⟨_, _, rfl, rfl, rfl⟩

end
end

theorem bits_zero (v n : Nat) : bits v 0 n = v % 2 ^ n := by rw [bits, Nat.pow_zero, Nat.div_one]

theorem execMgmtComplete_eq {s : State} {r : Mgmt} (hruns : s.host.mgmt = some r) (hdone : r.before = 0 ∨ s.invDone r.asid r.before = true) :
    execMgmtComplete s = .next { s with host := { s.host with
      mstat := mstatOf r.overrun r.status, mgmt := none
      raised := if marg r.margs 5 / 2 ^ 15 % 2 = 1 then s.host.raised ++ [(r.port, marg r.margs 5 % 2 ^ 11)] else s.host.raised } } := by
  have hends : (decide (r.before ≠ 0) && !s.invDone r.asid r.before) = false := by
    rcases hdone with h | h <;> simp [h]
  simp only [execMgmtComplete, hruns, hends, Bool.false_eq_true, if_false, bits_zero]
  rfl

/-! ### Contexts (R347-R349) -/

/-- The fields of a context's record (R347), as the created context has them. -/
def Context.readsRecord (c : Context) (b : List Byte) : Prop :=
  c.asid = fld b 4 2 ∧ 1 ≤ c.asid ∧ c.maxg = fld b 0 4 % 32 ∧ c.trapen.toNat = fld b 0 4 / 2 ^ 8 % 32 ∧ c.pcont = decide (fld b 0 4 / 2 ^ 16 % 2 = 1) ∧ c.ptbits = fld b 0 4 / 2 ^ 19 % 32
  ∧ c.lease = 16 * 2 ^ (fld b 0 4 / 2 ^ 24 % 8) ∧ c.ptbase = fld b 8 8 ∧ c.eqbase.toNat = fld b 0x10 8 ∧ c.eqlen = fld b 0x18 4 ∧ c.fqlen = fld b 0x1C 4 ∧ c.fqbase.toNat = fld b 0x20 8
  ∧ c.spill.toNat = fld b 0x28 8 ∧ c.thrlim = fld b 0x30 4 ∧ c.dlt = (if fld b 0x34 4 = 0 then 500 else fld b 0x34 4) ∧ c.devpg.toNat = fld b 0x38 8 ∧ c.exchp.toNat = fld b 0x40 8
  ∧ c.save.toNat = fld b 0x48 8 ∧ c.savelen = fld b 0x50 8 ∧ c.tids = [] ∧ c.exch = [] ∧ c.preempts = [] ∧ c.fprod = 0 ∧ c.fheld = 0 ∧ c.eprod = 0 ∧ c.edrop = 0 ∧ c.ecount = 0 ∧ c.share = 0

/-- An eight-byte field fits the doubleword it is read into. -/
theorem toNat_ofNat_fld (b : List Byte) (off : Nat) : (BitVec.ofNat 64 (fld b off 8)).toNat = fld b off 8 :=
  Nat.mod_eq_of_lt (fld_lt b off 8)

/-- A context has an identifier: an ASID of 0 is no context's (R347). -/
theorem asid_of_parseContext {b : List Byte} {c : Context} (hparse : parseContext b = some c) : fld b 4 2 ≠ 0 := by
  intro hzero
  have hnone : parseContext b = none := by simp [parseContext, hzero]
  cases hnone.symm.trans hparse

theorem parseContext_reads {b : List Byte} {c : Context} (hparse : parseContext b = some c) : c.readsRecord b := by
  have hasid := asid_of_parseContext hparse
  rw [parseContext] at hparse
  split at hparse
  case isFalse => cases hparse
  case isTrue =>
    cases hparse
    exact ⟨rfl, Nat.one_le_iff_ne_zero.mpr hasid, bits_zero _ 5, Nat.mod_eq_of_lt (bits_lt _ 8 5), rfl, rfl, rfl, rfl, toNat_ofNat_fld b _, rfl, rfl,
      toNat_ofNat_fld b _, toNat_ofNat_fld b _, rfl, rfl, toNat_ofNat_fld b _, toNat_ofNat_fld b _, toNat_ofNat_fld b _, rfl, rfl, rfl, rfl, rfl, rfl, rfl,
      rfl, rfl, rfl⟩

section
variable {s : State} {m : List DWord}

theorem State.createContext_badarg (h : marg m 0 % 128 ≠ 0 ∨ 2 ^ 48 ≤ marg m 0 ∨ parseContext (s.physBytes (marg m 0) 128) = none) : s.createContext m = (3, s) := by
  rw [createContext]
  by_cases hplace : marg m 0 % 128 ≠ 0 ∨ marg m 0 ≥ 2 ^ 48
  · rw [if_pos hplace]
    rfl
  · have hparse : parseContext (s.physBytes (marg m 0) 128) = none := (or_assoc.mpr h).resolve_left hplace
    rw [if_neg hplace, hparse]
    rfl

section
variable {c : Context} (haligned : marg m 0 % 128 = 0) (hroom : marg m 0 < 2 ^ 48) (hparse : parseContext (s.physBytes (marg m 0) 128) = some c)
include haligned hroom hparse

theorem State.createContext_asiduse {x : Context} (hused : s.ctx? c.asid = some x) : s.createContext m = (5, s) := by
  rw [createContext, if_neg (by omega), hparse]
  simp only [hused, Option.isSome_some, if_true]
  rfl

theorem State.createContext_noslot (hfree : s.ctx? c.asid = none) (hfull : 1024 ≤ s.contexts.length) : s.createContext m = (6, s) := by
  rw [createContext, if_neg (by omega), hparse]
  simp only [hfree, Option.isSome_none, Bool.false_eq_true, if_false, ge_iff_le, hfull, if_true]
  rfl

/-- A queue's header with nothing in it (R382, R390). -/
def State.clearHeader (s : State) (asid : Nat) (va : DWord) : State := (s.ctlWrite asid va.toNat (List.replicate 64 0)).getD s

theorem State.createContext_adds (hfree : s.ctx? c.asid = none) (hslot : s.contexts.length < 1024) : s.createContext m =
    (0, ((({ s with contexts := s.contexts ++ [c] } : State).clearHeader c.asid c.fqbase).clearHeader c.asid c.eqbase).watchFcons c.asid) := by
  rw [createContext, if_neg (by omega), hparse]
  simp only [hfree, Option.isSome_none, Bool.false_eq_true, if_false, ge_iff_le, Nat.not_le.mpr hslot]
  rfl

end

theorem State.destroyContext_unknown (hunknown : s.ctx? (marg m 0) = none) : s.destroyContext m = (3, s) := by
  rw [destroyContext, hunknown]
  rfl

section
variable {c : Context} (hctx : s.ctx? (marg m 0) = some c)
include hctx

theorem State.destroyContext_busy (hbusy : s.contextBusy (marg m 0) = true) : s.destroyContext m = (4, s) := by
  rw [destroyContext, hctx, hbusy]
  rfl

theorem State.destroyContext_removes (hbusy : s.contextBusy (marg m 0) = false) : ∃ t, s.destroyContext m = (0, t)
    ∧ t.contexts = (s.contexts.filter fun c => c.asid != marg m 0) ∧ t.monitors = (s.monitors.filter fun x => x.asid != marg m 0)
    ∧ t.tlb = (s.tlb.filter fun x => x.asid != marg m 0) ∧ t.queues = (s.queues.filter fun x => x.asid != marg m 0) ∧ t.groups = s.groups ∧ s.sameMemory t := by
  rw [destroyContext, hctx, hbusy]
  exact ⟨_, rfl, rfl, rfl, rfl, rfl, rfl, fun _ => rfl, rfl⟩

end

/-! ### Queues (R359, R360) -/

/-- The reasons for which QBIND refuses its arguments (R360). -/
def State.badBind (s : State) (m : List DWord) : Prop :=
  255 < marg m 0 ∨ s.ctx? (marg m 2 % 2 ^ 16) = none ∨ marg m 1 % 64 ≠ 0 ∨ marg m 2 / 2 ^ 19 % 2 ^ 5 < 1 ∨ 15 < marg m 2 / 2 ^ 19 % 2 ^ 5 ∨ marg m 2 / 2 ^ 24 ≠ 0

theorem State.bindQueue_busy {x : Queue} (port : Nat) (hqueue : s.queue? (marg m 0) = some x) : s.bindQueue port m = (4, s) := by
  rw [bindQueue, hqueue]
  rfl

section
variable (hfree : s.queue? (marg m 0) = none)
include hfree

theorem State.bindQueue_badarg (port : Nat) (hbad : s.badBind m) : s.bindQueue port m = (3, s) := by
  have hrefused : marg m 0 > 255 ∨ (s.ctx? (bits (marg m 2) 0 16)).isNone ∨ marg m 1 % 64 ≠ 0 ∨ bits (marg m 2) 19 5 < 1 ∨ bits (marg m 2) 19 5 > 15 ∨ marg m 2 / 2 ^ 24 ≠ 0 := by
    rw [bits_zero, Option.isNone_iff_eq_none]
    exact hbad
  simp only [bindQueue, hfree, Option.isSome_none, Bool.false_eq_true, if_false, if_pos hrefused]
  rfl

theorem State.bindQueue_adds (port : Nat) (hgood : ¬s.badBind m) : s.bindQueue port m =
    (0, { s with queues := s.queues ++ [{ q := marg m 0, asid := marg m 2 % 2 ^ 16, base := BitVec.ofNat 64 (marg m 1), logn := marg m 2 / 2 ^ 19 % 2 ^ 5
                                          prio := marg m 2 / 2 ^ 16 % 8, tag := marg m 3 % 2 ^ 16, port := port }] }) := by
  have hallowed : ¬(marg m 0 > 255 ∨ (s.ctx? (bits (marg m 2) 0 16)).isNone ∨ marg m 1 % 64 ≠ 0 ∨ bits (marg m 2) 19 5 < 1 ∨ bits (marg m 2) 19 5 > 15 ∨ marg m 2 / 2 ^ 24 ≠ 0) := by
    rw [bits_zero, Option.isNone_iff_eq_none]
    exact hgood
  simp only [bindQueue, hfree, Option.isSome_none, Bool.false_eq_true, if_false]
  rw [if_neg hallowed, bits_zero]
  rfl

theorem State.unbindQueue_unknown : s.unbindQueue m = (3, s) := by
  rw [unbindQueue, hfree]
  rfl

theorem State.resumeQueue_unknown : s.resumeQueue m = (3, s) := by
  rw [resumeQueue, hfree]
  rfl

end

section
variable {x : Queue} (hqueue : s.queue? (marg m 0) = some x)
include hqueue

theorem State.unbindQueue_busy (hstarted : x.record.isSome = true ∨ ∃ c ∈ x.cmds, c.complete = false) : s.unbindQueue m = (4, s) := by
  have hbusy : (x.record.isSome || x.cmds.any fun c => !c.complete) = true := by simpa using hstarted
  simp only [unbindQueue, hqueue, hbusy, if_true]
  rfl

theorem State.unbindQueue_removes (hrecord : x.record = none) (hcmds : ∀ c ∈ x.cmds, c.complete = true) :
    s.unbindQueue m = (0, ({ s with queues := s.queues.filter fun y => y.q != x.q } : State).unhold fun h => h == .command x.q) := by
  have hidle : (x.record.isSome || x.cmds.any fun c => !c.complete) = false := by simpa [hrecord] using hcmds
  simp only [unbindQueue, hqueue, hidle, Bool.false_eq_true, if_false]
  rfl

theorem State.resumeQueue_busy (hruns : x.stopped = false) : s.resumeQueue m = (4, s) := by
  simp only [resumeQueue, hqueue, hruns]
  rfl

theorem State.resumeQueue_resumes (hstopped : x.stopped = true) :
    s.resumeQueue m = (0, s.updQueue x.q fun y => { y with stopped := false, misses := 0, refetch := none, tag := marg m 1 % 2 ^ 16 }) := by
  simp only [resumeQueue, hqueue, hstopped]
  rfl

end
end

end Sys2Proof.Machine
end

section
/-! THEOREMS. The management operations. -/

open Sys2Proof Sys2Proof.Machine

/-- Settles O44: every operation starts through one rule, and the operations on contexts and queues have one lemma for each way they end. -/
theorem managementEvents : Obligations.ManagementEvents := by
  refine ⟨fun s port hstage hport => ?_, fun s port m => ?_⟩
  · have hup := State.portUp_of hstage hport
    have hstarts {i op e} (hi : exec i s = mopStart port op (fun _ _ => e) s) : s.startsOp port (exec i s) op e := startsOp_of_mopStart hup hi
    refine ⟨hstarts rfl, hstarts rfl, hstarts rfl, hstarts rfl, hstarts rfl, hstarts rfl, hstarts rfl, hstarts rfl, hstarts rfl, hstarts rfl, hstarts rfl,
      fun op hop => execBadop_startsOp hup hop, execTlbinv_known hup, fun hholder hidle hunknown i hi => ?_, fun c hholder hidle => execMigout_leaves hup hholder hidle,
      fun c l hholder hidle => execMigin_read hup hholder hidle, fun r hruns hdone => execMgmtComplete_eq hruns hdone⟩
    rcases hi with rfl | rfl | rfl
    · exact execTlbinv_unknown hup hholder hidle hunknown
    · exact execMigout_unknown hup hholder hidle hunknown
    · exact execMigin_unknown hup hholder hidle hunknown
  · refine ⟨State.createContext_badarg, fun c haligned hroom hparse => ?_, State.destroyContext_unknown, fun c => State.destroyContext_busy,
      fun c => State.destroyContext_removes, ⟨fun x => State.bindQueue_busy port, fun hfree => State.bindQueue_badarg hfree port,
      fun hfree => State.bindQueue_adds hfree port⟩, fun hfree => ⟨State.unbindQueue_unknown hfree, State.resumeQueue_unknown hfree⟩,
      fun x hqueue => ⟨State.unbindQueue_busy hqueue, State.unbindQueue_removes hqueue, State.resumeQueue_busy hqueue, State.resumeQueue_resumes hqueue⟩,
      fun cores c _ => rfl⟩
    exact ⟨parseContext_reads hparse, fun x => State.createContext_asiduse haligned hroom hparse, State.createContext_noslot haligned hroom hparse,
      State.createContext_adds haligned hroom hparse⟩

end

section
/-! SUPPORT. Which operations leave the residence of every group, and the settings of the clock, as they are: what a core's engines, the links and the homes do
moves no group and starts none (R22, R30, R372). -/

namespace Sys2Proof.Machine

/-- What of a group stands from its start to its end: its name, its context, its span, its core and its part in tandem mode. -/
def Group.mark (g : Group) : Nat × Nat × Nat × Nat × Role := (g.gid, g.asid, g.sid, g.core, g.role)

/-- In two states the same groups are resident, and the clock has the same settings. -/
structure State.sameResidents (s t : State) : Prop where
  groups : t.groups.map Group.mark = s.groups.map Group.mark
  boot : t.boot = s.boot

theorem State.sameResidents_refl (s : State) : s.sameResidents s := ⟨rfl, rfl⟩

theorem State.sameResidents.trans {s t u : State} (h : s.sameResidents t) (k : t.sameResidents u) : s.sameResidents u :=
  ⟨k.groups.trans h.groups, k.boot.trans h.boot⟩

theorem foldl_sameResidents {α : Type} {f : State → α → State} (h : ∀ (s : State) (x : α), s.sameResidents (f s x)) (l : List α) (s : State) :
    s.sameResidents (l.foldl f s) := by
  induction l generalizing s with
  | nil => exact s.sameResidents_refl
  | cons x xs ih => exact (h s x).trans (ih (f s x))

/-- A group that is resident in one of two such states is resident in the other. -/
theorem State.sameResidents.group? {s t : State} (h : s.sameResidents t) (gid : Nat) : (t.group? gid).map Group.mark = (s.group? gid).map Group.mark := by
  have hmarks : ∀ u : State, (u.group? gid).map Group.mark = (u.groups.map Group.mark).find? fun x => x.1 == gid := fun u => by
    rw [List.find?_map]
    rfl
  rw [hmarks, hmarks, h.groups]

theorem State.updGroup_sameResidents (s : State) (gid : Nat) {f : Group → Group} (hf : ∀ g, (f g).mark = g.mark) : s.sameResidents (s.updGroup gid f) := by
  refine ⟨?_, rfl⟩
  rw [State.updGroup_groups, updWhere, List.map_map]
  refine List.map_congr_left fun g _ => ?_
  rw [Function.comp_apply]
  split
  · exact hf g
  · rfl

theorem State.updThread_sameResidents (s : State) (gid tid : Nat) (f : Thread → Thread) : s.sameResidents (s.updThread gid tid f) :=
  s.updGroup_sameResidents gid fun _ => rfl

theorem State.raiseErr_sameResidents (s : State) (e : ErrRec) : s.sameResidents (s.raiseErr e) := ⟨rfl, rfl⟩

/-! ### Counters, links and messages (R280-R286) -/

theorem State.count_sameResidents (s : State) (d n k : Nat) : s.sameResidents (s.count d n k) := ⟨rfl, rfl⟩

theorem State.putLine_sameResidents (s : State) (a b msg line low : Nat) (d : LineData) : s.sameResidents (s.putLine a b msg line low d) := by
  have hput : s.sameResidents (s.updLink a b fun k => k.put msg line low d) := ⟨rfl, rfl⟩
  rw [State.putLine]
  split
  · exact hput
  · exact ((hput.trans (State.count_sameResidents _ _ _ _)).trans (State.count_sameResidents _ _ _ _)).trans (State.count_sameResidents _ _ _ _)

theorem State.transmit_sameResidents (s : State) (m : Msg) : s.sameResidents (s.transmit m) := by
  rw [State.transmit]
  split
  · exact s.sameResidents_refl
  · split
    · exact State.sameResidents.trans (t := s.updLink _ _ _) ⟨rfl, rfl⟩ (State.putLine_sameResidents ..)
    · exact ⟨rfl, rfl⟩

theorem State.cross_sameResidents (s : State) (a b : Nat) (m : Msg) : s.sameResidents (s.cross a b m) := by
  unfold State.cross
  extract_lets m1 m2 s1
  exact State.sameResidents.trans (t := s1.updLink a b _) ⟨rfl, rfl⟩ (State.transmit_sameResidents _ _)

theorem State.flow_sameResidents (a b n : Nat) (s : State) : s.sameResidents (s.flow a b n) := by
  induction n generalizing s with
  | zero => exact s.sameResidents_refl
  | succ n ih =>
    rw [State.flow]
    split
    · exact s.sameResidents_refl
    · split
      · exact State.sameResidents.trans (t := s.updLink a b _) ⟨rfl, rfl⟩ (ih _)
      · split
        · exact s.sameResidents_refl
        · exact (s.cross_sameResidents a b _).trans (ih _)

theorem State.flowAlong_sameResidents (s : State) (way : List (Nat × Nat)) : s.sameResidents (s.flowAlong way) :=
  foldl_sameResidents (f := fun (s : State) (p : Nat × Nat) => s.flow p.1 p.2 (s.onLink p.1 p.2)) (fun s p => State.flow_sameResidents p.1 p.2 _ s) way s

theorem State.send_sameResidents (s : State) (m : Msg) : s.sameResidents (s.send m) := by
  unfold State.send
  extract_lets way m2
  refine State.sameResidents.trans (t := ({ s with net := s.net ++ [m2], nextId := s.nextId + 1 } : State)) ⟨rfl, rfl⟩ ?_
  exact (State.transmit_sameResidents _ _).trans (State.flowAlong_sameResidents _ _)

theorem State.resetLink_sameResidents (s : State) (a b : Nat) : s.sameResidents (s.resetLink a b) := by
  have hrecoded : s.sameResidents (s.recode a b) := by
    unfold State.recode
    extract_lets ls s1
    have hcleared : s.sameResidents s1 := ⟨rfl, rfl⟩
    clear_value s1
    have hsent : s1.sameResidents (ls.foldl (State.resend a b) s1) :=
      foldl_sameResidents (f := State.resend a b) (fun s w => s.putLine_sameResidents a b w.msg w.line w.low w.clear) ls s1
    exact (hcleared.trans hsent).trans (State.count_sameResidents _ _ _ _)
  exact hrecoded.trans ⟨rfl, rfl⟩

/-! ### Writes to memory, and the wakes that follow them (R217, R228, R229) -/

theorem State.queueCmdDone_sameResidents (s : State) (q n : Nat) : s.sameResidents (s.queueCmdDone q n) := by
  unfold State.queueCmdDone
  dsimp only
  split <;> exact ⟨rfl, rfl⟩

theorem State.wakeMonitor_sameResidents (s : State) (m : Monitor) (status : Nat) : s.sameResidents (s.wakeMonitor m status) := by
  have hsans : s.sameResidents (s.sansMonitor m) := ⟨rfl, rfl⟩
  unfold State.wakeMonitor
  dsimp only
  split
  · split
    · refine State.sameResidents.trans ?_ (State.updThread_sameResidents _ _ _ _)
      split <;> exact ⟨rfl, rfl⟩
    · exact ⟨rfl, rfl⟩
  · split
    · split
      · exact hsans.trans (State.queueCmdDone_sameResidents _ _ _)
      · exact hsans
    · exact hsans
  · exact hsans

theorem State.evalMonitors_sameResidents (s : State) (l : Nat) : s.sameResidents (s.evalMonitors l) :=
  foldl_sameResidents (fun s m => by split; exacts [s.wakeMonitor_sameResidents m 0, s.sameResidents_refl]) _ s

theorem State.setPhysBytes_sameResidents (s : State) (pa : Nat) (bs : List Byte) : s.sameResidents (s.setPhysBytes pa bs) := by
  induction bs generalizing s pa with
  | nil => exact s.sameResidents_refl
  | cons b bs ih => exact State.sameResidents.trans (t := s.setPhysByte pa b) ⟨rfl, rfl⟩ (ih _ _)

theorem State.writePhys_sameResidents (s : State) (die asid pa : Nat) (bs : List Byte) : s.sameResidents (s.writePhys die asid pa bs) := by
  refine (s.setPhysBytes_sameResidents pa bs).trans (foldl_sameResidents (fun s l => ?_) _ _)
  exact State.sameResidents.trans (t := (s.setWriter l asid).noteWrite l _ _) ⟨rfl, rfl⟩ (State.evalMonitors_sameResidents _ l)

theorem State.writeTrans_sameResidents (s : State) (die asid : Nat) (t : Trans) (bs : List Byte) : s.sameResidents (s.writeTrans die asid t bs) := by
  rw [State.writeTrans]
  split
  · exact s.sameResidents_refl
  · split
    · exact ⟨rfl, rfl⟩
    · exact s.writePhys_sameResidents _ _ _ _

theorem State.touchPieces_sameResidents (s : State) (die : Nat) (ps : List (Trans × Nat)) : s.sameResidents (s.touchPieces die ps) :=
  foldl_sameResidents (f := fun (s : State) (l : Nat) => s.touch die l) (fun _ _ => ⟨rfl, rfl⟩) _ s

theorem foldl_writePiece_sameResidents (die asid : Nat) (ps : List (Trans × Nat)) (acc : State × Nat × List Byte) :
    acc.1.sameResidents (ps.foldl (writePiece die asid) acc).1 := by
  induction ps generalizing acc with
  | nil => exact acc.1.sameResidents_refl
  | cons p ps ih => exact (acc.1.writeTrans_sameResidents die asid p.1 _).trans (ih (writePiece die asid acc p))

theorem State.vwrite_sameResidents {s : State} {unit die asid va : Nat} {bs : List Byte} {r : State × Nat} (hr : s.vwrite unit die asid va bs = .ok r) :
    s.sameResidents r.1 := by
  rw [State.vwrite] at hr
  split at hr
  · cases hr
  next ps _ =>
    cases hr
    exact (foldl_writePiece_sameResidents die asid ps (s, 0, bs)).trans (State.touchPieces_sameResidents _ _ _)

theorem State.ctlWrite_getD_sameResidents (s : State) (asid va : Nat) (bs : List Byte) : s.sameResidents ((s.ctlWrite asid va bs).getD s) := by
  rw [State.ctlWrite]
  split
  next r hr => exact State.vwrite_sameResidents hr
  · exact s.sameResidents_refl

/-! ### The home's work (R225-R228, R272, R273, R278) -/

theorem State.insertMonitor_sameResidents (s : State) (m : Monitor) : s.sameResidents (s.insertMonitor m) := by
  have hset : ∀ m : Monitor, s.sameResidents (s.setMonitor m) := fun _ => ⟨rfl, rfl⟩
  have hspill : ∀ (s : State) (m : Monitor), s.sameResidents (s.writeSpill m) := fun s m => by
    rw [State.writeSpill]
    split
    · exact s.ctlWrite_getD_sameResidents _ _ _
    · exact s.sameResidents_refl
  have heval : ∀ (s : State) (m : Monitor), s.sameResidents (if s.monitorHolds m then s.wakeMonitor m 0 else s) := fun s m => by
    split
    · exact s.wakeMonitor_sameResidents m 0
    · exact s.sameResidents_refl
  rw [State.insertMonitor]
  refine State.sameResidents.trans ?_ (heval _ _)
  split
  · exact (hset _).trans (hspill _ _)
  · exact hset _

theorem State.futurePerform_sameResidents (s : State) (a : Acc) (p : Part) : s.sameResidents (s.futurePerform a p) := by
  unfold State.futurePerform
  extract_lets -underBinder l
  split
  · split
    · exact ⟨rfl, rfl⟩
    · split <;> exact ⟨rfl, rfl⟩
  · extract_lets -underBinder lw gw s1 s2 s3
    have hwritten : s.sameResidents s1 := (s.writePhys_sameResidents _ _ _ _).trans ⟨rfl, rfl⟩
    have hmarked : s1.sameResidents s2 := by
      unfold s2
      split <;> exact ⟨rfl, rfl⟩
    exact (hwritten.trans hmarked).trans ⟨rfl, rfl⟩
  · exact ⟨rfl, rfl⟩

theorem State.homeAct_sameResidents (s : State) (m : Msg) : s.sameResidents (s.homeAct m) := by
  rw [State.homeAct]
  split
  · split
    · exact s.insertMonitor_sameResidents _
    · exact s.sameResidents_refl
  · split
    · split
      · exact s.futurePerform_sameResidents _ _
      · exact s.sameResidents_refl
    · exact s.sameResidents_refl
  · exact s.sameResidents_refl

theorem State.setDir_sameResidents (s : State) (x : Dir) : s.sameResidents (s.setDir x) := ⟨rfl, rfl⟩

theorem State.grantTo_setDir_sameResidents (s : State) (x y : Dir) (m : Msg) (st : LineSt) (data : Option LineData) :
    s.sameResidents ((s.grantTo x m st data).setDir y) := (s.send_sameResidents _).trans (State.setDir_sameResidents _ _)

theorem State.takeData_sameResidents (s : State) (x : Dir) : s.sameResidents (s.takeData x) := by
  rw [State.takeData]
  split <;> exact ⟨rfl, rfl⟩

theorem State.finishHome_sameResidents (s : State) (x : Dir) : s.sameResidents (s.finishHome x) := by
  unfold State.finishHome
  extract_lets done left
  split
  · exact (s.takeData_sameResidents x).trans (State.setDir_sameResidents _ _)
  · split
    · exact ((s.takeData_sameResidents x).trans (State.send_sameResidents _ _)).trans (State.setDir_sameResidents _ _)
    · have hacted : ∀ m : Msg, s.sameResidents (((s.takeData x).setDir left).homeAct m) := fun m =>
        ((s.takeData_sameResidents x).trans (State.setDir_sameResidents _ _)).trans (State.homeAct_sameResidents _ m)
      split
      · exact s.grantTo_setDir_sameResidents ..
      · exact hacted _
      · exact hacted _
      · exact s.grantTo_setDir_sameResidents ..
      · exact s.grantTo_setDir_sameResidents ..

theorem State.snoop_sameResidents (s : State) (x : Dir) (k : MsgKind) (asid d : Nat) : s.sameResidents (s.snoop x k asid d) :=
  (s.send_sameResidents _).trans (State.count_sameResidents _ _ _ _)

theorem State.await_sameResidents (s : State) (x : Dir) : s.sameResidents (s.await x) := by
  rw [State.await]
  split
  · exact s.finishHome_sameResidents x
  · exact s.setDir_sameResidents x

theorem State.takeExclusive_sameResidents (s : State) (x : Dir) (m : Msg) : s.sameResidents (s.takeExclusive x m) := by
  unfold State.takeExclusive
  extract_lets holds upg s0 others fwd s1 x1
  have hcounted : s.sameResidents s0 := by
    unfold s0
    split
    · exact s.count_sameResidents _ _ _
    · exact s.sameResidents_refl
  have hasked : s0.sameResidents s1 := foldl_sameResidents (fun s d => s.snoop_sameResidents x _ m.asid d) others s0
  exact (hcounted.trans hasked).trans (State.await_sameResidents _ _)

theorem State.forward_sameResidents (s : State) (x : Dir) (m : Msg) : s.sameResidents (s.forward x m) :=
  (s.snoop_sameResidents _ _ _ _).trans (State.setDir_sameResidents _ _)

theorem State.takeRequest_sameResidents (s : State) (x : Dir) (m : Msg) : s.sameResidents (s.takeRequest x m) := by
  have hrecall : s.sameResidents (s.takeRecall x m) := by
    rw [State.takeRecall]
    split
    · exact s.forward_sameResidents x m
    · exact (s.setDir_sameResidents x).trans (State.homeAct_sameResidents _ m)
  have hshared : s.sameResidents (s.takeShared x m) := by
    rw [State.takeShared]
    split
    · split
      · exact s.grantTo_setDir_sameResidents ..
      · exact s.forward_sameResidents x m
    · split <;> exact s.grantTo_setDir_sameResidents ..
  rw [State.takeRequest]
  split
  · exact hshared
  · exact hrecall
  · exact hrecall
  · exact s.takeExclusive_sameResidents x m

theorem State.homeNext_sameResidents (l n : Nat) (s : State) : s.sameResidents (s.homeNext l n) := by
  induction n generalizing s with
  | zero => exact s.sameResidents_refl
  | succ n ih =>
    rw [State.homeNext]
    split
    · exact s.sameResidents_refl
    · split
      · exact s.sameResidents_refl
      · split
        · exact s.sameResidents_refl
        · exact (s.takeRequest_sameResidents _ _).trans (ih _)

/-! ### The end of a die's groups (R275, R380) -/

theorem State.answer_sameResidents (s : State) (m : Msg) : s.sameResidents (s.answer m) := by
  have hsent : ∀ (u : State) (m : Msg), s.sameResidents u → s.sameResidents (u.send m) := fun u m h => h.trans (u.send_sameResidents m)
  unfold State.answer
  extract_lets d x back withData st s1
  split
  · exact ⟨rfl, rfl⟩
  · split
    · exact hsent _ _ ⟨rfl, rfl⟩
    · split
      · exact hsent _ _ ⟨rfl, rfl⟩
      · refine hsent _ _ ?_
        unfold s1
        split <;> exact ⟨rfl, rfl⟩

theorem State.askerDone_sameResidents (s : State) (d l id : Nat) : s.sameResidents (s.askerDone d l id) := by
  have hheld : ∀ u : State, u.sameResidents (u.answerHeld d l) := fun u =>
    State.sameResidents.trans (t := u.setDieLine d _) ⟨rfl, rfl⟩ (foldl_sameResidents State.answer_sameResidents _ _)
  rw [State.askerDone]
  split
  · exact State.sameResidents.trans (t := s.setDieLine d _) ⟨rfl, rfl⟩ (hheld _)
  · exact s.sameResidents_refl

theorem State.dropAccs_sameResidents (s : State) (gone : Acc → Bool) : s.sameResidents (s.dropAccs gone) := by
  have hline : ∀ (s : State) (a : Acc), s.sameResidents (a.lines.foldl (fun s l => s.askerDone (coreDie a.core) l a.id) s) := fun s a =>
    foldl_sameResidents (fun s l => s.askerDone_sameResidents (coreDie a.core) l a.id) a.lines s
  exact State.sameResidents.trans (t := { s with accs := s.accs.filter fun a => !gone a }) ⟨rfl, rfl⟩ (foldl_sameResidents hline (s.accs.filter gone) _)

theorem State.writeFaultHeader_sameResidents (s : State) (asid : Nat) : s.sameResidents (s.writeFaultHeader asid) := by
  rw [State.writeFaultHeader]
  split
  · exact s.sameResidents_refl
  · exact s.ctlWrite_getD_sameResidents _ _ _

theorem State.unhold_sameResidents (s : State) (gone : HeldItem → Bool) : s.sameResidents (s.unhold gone) := by
  have hlowered : ∀ (u : State) (f : FaultRec), u.sameResidents ((u.updCtx f.asid fun c => { c with fheld := c.fheld - 1 }).writeFaultHeader f.asid) :=
    fun u f => State.sameResidents.trans (t := u.updCtx f.asid fun c => { c with fheld := c.fheld - 1 }) ⟨rfl, rfl⟩ (State.writeFaultHeader_sameResidents _ _)
  unfold State.unhold
  extract_lets empty s1
  exact State.sameResidents.trans (t := s1) ⟨rfl, rfl⟩ (foldl_sameResidents hlowered _ s1)

/-- A group that is terminated with all its threads ended, and otherwise still the same group. -/
def Group.endedOf (g x : Group) : Prop := x.mark = g.mark ∧ x.terminated = true ∧ ∀ t ∈ x.threads, t.st = .exited

/-- The end of a group's threads is one change of the group, after what withdraws all that it has in progress. -/
theorem State.endThreads_groups {s : State} {gid : Nat} {g : Group} (hg : s.group? gid = some g) :
    ∃ (u : State) (f : Group → Group), s.sameResidents u ∧ (∀ x : Group, x.endedOf (f x)) ∧ u.sameResidents (s.endThreads gid)
      ∧ (s.endThreads gid).groups = (u.updGroup gid f).groups := by
  unfold State.endThreads
  split
  case h_1 hnone => cases hg.symm.trans hnone
  case h_2 g _ =>
    extract_lets held withdrawn lost side s1 s2 u _ s3 s4
    have hrecords : s.sameResidents s2 :=
      (foldl_sameResidents (f := fun (s : State) (p : Nat × DWord) => s.faultRecord g p.1 p.2 2) (fun s _ => s.raiseErr_sameResidents _) withdrawn s).trans
        (foldl_sameResidents (f := fun (s : State) (e : SideEntry) => s.faultRecord g e.acc.tid e.acc.va 2) (fun s _ => s.raiseErr_sameResidents _) side s1)
    have hdropped : u.sameResidents s3 := ⟨(u.dropAccs_sameResidents _).groups, (u.dropAccs_sameResidents _).boot⟩
    refine ⟨s3, _, (hrecords.trans (s2.unhold_sameResidents _)).trans hdropped, fun x => ⟨?mark, ?terminated, ?exited⟩,
      State.sameResidents.trans (t := s4) (s3.updGroup_sameResidents gid fun _ => rfl) ⟨rfl, rfl⟩, rfl⟩
    case mark => rfl
    case terminated => rfl
    case exited =>
      intro t ht
      obtain ⟨y, -, rfl⟩ := List.mem_map.mp ht
      rfl

theorem State.endThreads_sameResidents (s : State) (gid : Nat) : s.sameResidents (s.endThreads gid) := by
  cases hg : s.group? gid with
  | none =>
    rw [State.endThreads, hg]
    exact s.sameResidents_refl
  | some g =>
    obtain ⟨u, f, hu, -, hended, -⟩ := State.endThreads_groups hg
    exact hu.trans hended

theorem State.terminate_sameResidents (s : State) (gid : Nat) : s.sameResidents (s.terminate gid) := by
  rw [State.terminate]
  split
  · exact (s.endThreads_sameResidents _).trans (State.endThreads_sameResidents _ _)
  · exact s.endThreads_sameResidents _

theorem State.dropHome_sameResidents (s : State) (d : Nat) : s.sameResidents (s.dropHome d) := by
  unfold State.dropHome
  extract_lets +onlyGivenNames ls mine back s1 again
  refine State.sameResidents.trans (t := s1) (foldl_sameResidents (fun s p => ?_) _ s) ⟨rfl, rfl⟩
  unfold back
  split <;> exact ⟨rfl, rfl⟩

theorem State.recordLost_sameResidents (s : State) (d : Nat) : s.sameResidents (s.recordLost d) := by
  rw [State.recordLost]
  split
  · exact ⟨rfl, rfl⟩
  · exact foldl_sameResidents (f := fun (s : State) (l : Nat) => (s.poisonLine l).raiseErr _) (fun _ _ => ⟨rfl, rfl⟩) _ s

theorem State.endDie_sameResidents (s : State) (d : Nat) : s.sameResidents (s.endDie d) :=
  (foldl_sameResidents State.terminate_sameResidents _ s).trans (State.dropHome_sameResidents _ d)

theorem State.homesGoOn_sameResidents (s : State) (d now : Nat) : s.sameResidents (s.homesGoOn d now) := by
  have hgoOn : ∀ (s : State) (x : Dir), s.sameResidents (s.goOn x) := fun s x => by
    rw [State.goOn]
    split
    · refine State.sameResidents.trans ?_ (State.homeNext_sameResidents _ _ _)
      split
      · exact s.finishHome_sameResidents _
      · exact s.sameResidents_refl
    · exact s.sameResidents_refl
  exact State.sameResidents.trans (t := { s with dirs := s.dirs.map fun x => x.withoutDie d now }) ⟨rfl, rfl⟩ (foldl_sameResidents hgoOn _ _)

theorem State.resetLinks_sameResidents (s : State) (d : Nat) : s.sameResidents (s.resetLinks d) := by
  have hcut : s.sameResidents s.cutLinks := ⟨rfl, rfl⟩
  have hreset := foldl_sameResidents (f := fun (s : State) (p : Nat × Nat) => s.resetLink p.1 p.2) (fun s p => s.resetLink_sameResidents p.1 p.2)
    (linkEnds.filter fun p => p.1 == d || p.2 == d) s.cutLinks
  exact (hcut.trans hreset).trans (State.flowAlong_sameResidents _ _)

theorem State.emptyDie_sameResidents (s : State) (d : Nat) : s.sameResidents (s.emptyDie d) := ⟨rfl, rfl⟩

theorem State.updDie_sameResidents (s : State) (d : Nat) (f : Die → Die) : s.sameResidents (s.updDie d f) := ⟨rfl, rfl⟩

theorem State.resetDie_sameResidents (s : State) (d : Nat) : s.sameResidents (s.resetDie d) := by
  have hemptied := ((s.recordLost_sameResidents d).trans (State.endDie_sameResidents _ d)).trans (State.emptyDie_sameResidents _ d)
  rw [State.resetDie_parts]
  exact ((hemptied.trans (State.homesGoOn_sameResidents _ d _)).trans (State.resetLinks_sameResidents _ d)).trans (State.updDie_sameResidents _ d _)

end Sys2Proof.Machine
end

section
/-! SUPPORT. The trap runtime at the head of a mailbox (R378, R380). -/

namespace Sys2Proof.Machine

/-! ### The slot of a served message (R378) -/

theorem execTrapMessage_head {s : State} {die cluster : Nat} {m : TrapMsg} (hm : (s.mailbox die cluster).slots.head? = some m) :
    execTrapMessage die cluster s = .next ((s.serveTrap m).freeSlot die cluster m) := by
  simp only [execTrapMessage, State.nextMessage, hm]

/-- With no message waiting for a slot, the messages behind the served one move up. -/
theorem State.freeSlot_slots {s : State} {die cluster : Nat} {m : TrapMsg} {ms : List TrapMsg} (hslots : (s.mailbox die cluster).slots = m :: ms)
    (hpending : (s.mailbox die cluster).pending = []) : ((s.freeSlot die cluster m).mailbox die cluster).slots = ms := by
  obtain ⟨hdie, hcluster⟩ := s.mailbox_at die cluster
  have hfreed : ({ s.mailbox die cluster with slots := (s.mailbox die cluster).slots.erase m } : Mailbox).letIn
      = { s.mailbox die cluster with slots := ms, pending := [] } := by
    rw [Mailbox.letIn, hslots, hpending, List.erase_cons_head]
    rfl
  have hsame := s.mailbox_setMailbox_same { s.mailbox die cluster with slots := ms, pending := [] }
  rw [hdie, hcluster] at hsame
  rw [State.freeSlot, hfreed, hsame]

theorem State.freeSlot_group? (s : State) (die cluster : Nat) (m : TrapMsg) (gid : Nat) : (s.freeSlot die cluster m).group? gid = s.group? gid := rfl

/-! ### What a message makes of its group (R380) -/

theorem State.serveTrap_gone {s : State} {m : TrapMsg} (h : s.group? m.gid = none ∨ s.trapStands m = false) : s.serveTrap m = s := by
  rw [State.serveTrap]
  split
  · rfl
  next hg => rw [h.resolve_left (by rw [hg]; exact fun hnone => by cases hnone), Bool.not_false, if_pos rfl]

section
variable {s : State} {m : TrapMsg} {g : Group} (hg : s.group? m.gid = some g) (hstands : s.trapStands m = true)
include hg hstands

/-- A trap from which a thread of a group outside tandem mode returns is recorded, and the thread goes on (R380). -/
theorem State.serveTrap_returns (hrole : g.role = .solo) (hkind : m.kind = 5 ∨ (m.kind = 4 ∧ m.code < 0xF0)) :
    s.serveTrap m = (s.writeTrap m false).trapReturn g.gid m.tid m.pc := by
  have hends : s.trapEnds m = false := by
    rcases hkind with hkind | ⟨hkind, hcode⟩
    · simp only [State.trapEnds, hkind]
    · have hreturns : ¬ m.code ≥ 0xF2 := by omega
      simp only [State.trapEnds, hkind, hreturns, decide_false]
  have hservice : s.trapService g m = s.writeTrap m false := by
    rw [State.trapService, if_neg (by omega), if_neg (by omega)]
  simp only [State.serveTrap, hg, hstands, hends, Bool.not_true, Bool.false_eq_true, if_false, State.trapResume, hrole, hservice]

/-- A trap that ends its group terminates it: the group stays where it is, and all its threads have ended (R380). -/
theorem State.serveTrap_terminates (htandem : s.tandem? m.gid = none) (hkind : m.kind = 1 ∨ m.kind = 2 ∨ m.kind = 3 ∨ m.kind = 6) :
    ∃ g', (s.serveTrap m).group? m.gid = some g' ∧ g'.terminated = true ∧ ∀ x ∈ g'.threads, x.st = .exited := by
  have hends : s.trapEnds m = true := by
    rcases hkind with hkind | hkind | hkind | hkind <;> simp only [State.trapEnds, hkind]
  have hserved : s.serveTrap m = (s.writeTrap m true).endThreads m.gid := by
    have hsolo : (s.writeTrap m true).tandem? m.gid = none := htandem
    simp only [State.serveTrap, hg, hstands, hends, Bool.not_true, Bool.false_eq_true, if_false, if_true, State.terminate, hsolo]
  obtain ⟨u, f, hu, hended, -, hgroups⟩ := State.endThreads_groups (s := s.writeTrap m true) hg
  have hresident : (u.group? m.gid).map Group.mark = some g.mark := (hu.group? m.gid).trans (congrArg _ hg)
  obtain ⟨x, hx, -⟩ := Option.map_eq_some_iff.mp hresident
  have hname : ∀ y : Group, (f y).gid = y.gid := fun y => congrArg Prod.fst (hended y).1
  refine ⟨f x, ?_, (hended x).2⟩
  calc (s.serveTrap m).group? m.gid
    _ = ((s.writeTrap m true).endThreads m.gid).group? m.gid := by rw [hserved]
    _ = (u.updGroup m.gid f).group? m.gid := by rw [State.group?, State.group?, hgroups]
    _ = some (f x) := by rw [u.group?_updGroup _ _ _ hname, hx, Option.map_some, if_pos rfl]

end

end Sys2Proof.Machine
end

section
/-! THEOREMS. What the trap runtime does with a message. -/

open Sys2Proof Sys2Proof.Machine

/-- Settles O38: the oldest message is served and its slot freed; what becomes of its group turns on the kind of the trap, and the freeing of a slot changes
no group. -/
theorem trapMessageEvent : Obligations.TrapMessageEvent := by
  refine ⟨fun s die cluster m => execTrapMessage_head, fun s m => State.serveTrap_gone, fun s die cluster m ms => State.freeSlot_slots, ?_⟩
  intro s die cluster m ms g hslots hg hrole hstands htandem
  have hexec : exec (.trapMessage die cluster) s = .next ((s.serveTrap m).freeSlot die cluster m) := execTrapMessage_head (by rw [hslots, List.head?_cons])
  refine ⟨fun hkind => ?returns, fun hkind => ?terminates⟩
  case returns => rw [hexec, State.serveTrap_returns hg hstands hrole hkind]
  case terminates => exact ⟨_, hexec, State.serveTrap_terminates hg hstands htandem hkind⟩

end

section
/-! SUPPORT. Power, cooling and the scrubber (R372, R392, R393, R395). -/

namespace Sys2Proof.Machine

/-! ### Sentinels and the scrubber (R392, R393) -/

theorem execScrub_corrected (s : State) (line : Nat) : ∃ t e, execScrub line 1 s = .next t ∧ t.errors = s.errors ++ [e] ∧ e.kind = 1 ∧ e.asid = 0
    ∧ e.addr = BitVec.ofNat 64 (line * 128) ∧ t.poisonLines = s.poisonLines :=
  ⟨_, _, rfl, rfl, rfl, rfl, rfl, rfl⟩

theorem execScrub_uncorrectable (s : State) (line : Nat) : ∃ t e, execScrub line 2 s = .next t ∧ t.errors = s.errors ++ [e] ∧ e.kind = 4
    ∧ e.addr = BitVec.ofNat 64 (line * 128) ∧ t.poisonLines = insertNat line s.poisonLines ∧ s.sameMemory t :=
  ⟨_, _, rfl, rfl, rfl, rfl, rfl, fun _ => rfl, rfl⟩

theorem execSentinelEvent_records {s : State} {core asid : Nat} (hresident : (s.groups.any fun g => g.core == core && g.asid == asid) = true) :
    ∃ t e, execSentinelEvent core asid s = .next t ∧ t.errors = s.errors ++ [e] ∧ e.kind = 2 ∧ e.src = coreSrc core ∧ t.cycle = s.cycle + 1
      ∧ s.sameMemory t ∧ t.groups = s.groups := by
  rw [execSentinelEvent, hresident]
  exact ⟨_, _, rfl, rfl, rfl, rfl, rfl, ⟨fun _ => rfl, rfl⟩, rfl⟩

/-! ### Power and cooling (R372) -/

/-- A die is reset where it is enabled. -/
def State.shutDie (s : State) (d : Nat) : State := if (s.die d).enabled then s.resetDie d else s

theorem State.shutDie_sameResidents (s : State) (d : Nat) : s.sameResidents (s.shutDie d) := by
  rw [State.shutDie]
  split
  · exact s.resetDie_sameResidents d
  · exact s.sameResidents_refl

theorem State.shutDie_enabled (s : State) (d e : Nat) : ((s.shutDie d).die e).enabled = (decide (e ≠ d) && (s.die e).enabled) := by
  rw [State.shutDie]
  by_cases henabled : (s.die d).enabled = true
  · obtain ⟨t, ht, -, -, hself, hothers⟩ := execDieReset_leaves henabled
    have hreset : s.resetDie d = t := Host.Outcome.next.inj ((if_pos henabled).symm.trans ht)
    rw [if_pos henabled, hreset]
    by_cases he : e = d
    · rw [he, hself, decide_eq_false (not_not_intro rfl), Bool.false_and]
    · rw [hothers e he, decide_eq_true he, Bool.true_and]
  · rw [if_neg henabled]
    by_cases he : e = d
    · rw [he, Bool.eq_false_of_not_eq_true henabled, Bool.and_false]
    · rw [decide_eq_true he, Bool.true_and]

/-- Of the dies that are shut in turn none is enabled. -/
theorem State.foldl_shutDie_enabled (ds : List Nat) {e : Nat} (s : State) (he : e ∈ ds ∨ (s.die e).enabled = false) :
    ((ds.foldl State.shutDie s).die e).enabled = false := by
  induction ds generalizing s with
  | nil => exact he.resolve_left List.not_mem_nil
  | cons d ds ih =>
    refine ih (s.shutDie d) ?_
    rw [s.shutDie_enabled d e]
    rcases he with he | he
    · rcases List.mem_cons.mp he with rfl | he
      · exact .inr (by rw [decide_eq_false (not_not_intro rfl), Bool.false_and])
      · exact .inl he
    · exact .inr (by rw [he, Bool.and_false])

/-- At 115 degrees every die is reset, and the clock is held as at 105. -/
theorem execThermalLimit_resets (s : State) {celsius : Nat} (hhot : 115 ≤ celsius) :
    ∃ t, execThermalLimit celsius s = .next t ∧ t.boot.clock = 1200 ∧ t.boot.hot = true ∧ ∀ d, 1 ≤ d → d ≤ 4 → (t.die d).enabled = false := by
  rw [execThermalLimit, if_neg (by omega), if_neg (by omega)]
  have hrecords := foldl_sameResidents (f := fun (s : State) (n : Nat) => s.raiseErr { id := 0, asid := n, tsc := 0, src := cpSrc, kind := 0xC, sev := 3 })
    (fun s _ => s.raiseErr_sameResidents _) s.residentAsids { s with boot := { s.boot with clock := 1200, hot := true } }
  have hshut := hrecords.trans (foldl_sameResidents State.shutDie_sameResidents [1, 2, 3, 4] _)
  refine ⟨_, rfl, congrArg Boot.clock hshut.boot, congrArg Boot.hot hshut.boot, fun d h1 h4 => State.foldl_shutDie_enabled [1, 2, 3, 4] _ (.inl ?_)⟩
  have hdie : d = 1 ∨ d = 2 ∨ d = 3 ∨ d = 4 := by omega
  simpa using hdie

end Sys2Proof.Machine
end

section
/-! THEOREMS. Scrubbing, the sentinel, the voltage steps, and the power and thermal limits. -/

open Sys2Proof Sys2Proof.Machine

/-- Settles O41: each event is one change of the state, but for the reset of the dies, of which no part reaches the clock. -/
theorem powerAndScrubEvents : Obligations.PowerAndScrubEvents := by
  intro s line core asid die watts celsius
  refine ⟨rfl, execScrub_corrected s line, execScrub_uncorrectable s line, execSentinelEvent_records, fun hstep hsince => if_pos ⟨hstep, hsince⟩,
    fun hwatts => if_neg (Nat.not_le.mpr hwatts), fun hwarm hcool => ?held, execThermalLimit_resets s⟩
  case held => exact (if_neg (Nat.not_lt.mpr hwarm)).trans (if_pos hcool)

end

section
/-! SUPPORT. The end of a span, and what it serves, leave the residence of every group as it is (R30, R294, R319, R334). -/

namespace Sys2Proof.Machine

/-! ### Traps and faults (R378, R382) -/

theorem State.takeTrap_sameResidents (s : State) (gid tid kind code : Nat) (aval : Word) (va : DWord) : s.sameResidents (s.takeTrap gid tid kind code aval va) := by
  unfold State.takeTrap
  split
  · exact s.sameResidents_refl
  · split
    · exact s.sameResidents_refl
    · dsimp only
      split
      · exact (s.updThread_sameResidents gid tid _).trans ⟨rfl, rfl⟩
      · exact (s.updThread_sameResidents gid tid _).trans ⟨rfl, rfl⟩

theorem State.ctlWrite_sameResidents {s t : State} {asid va : Nat} {bs : List Byte} (ht : s.ctlWrite asid va bs = some t) : s.sameResidents t := by
  have hwritten := s.ctlWrite_getD_sameResidents asid va bs
  rwa [ht] at hwritten

theorem State.tryPost_sameResidents {s t : State} {c : Context} {f : FaultRec} (ht : s.tryPost c f = some t) : s.sameResidents t := by
  unfold State.tryPost at ht
  split at ht
  · cases ht
  · split at ht
    · cases ht
    · split at ht
      · cases ht
      · next s1 hrecord => exact (State.ctlWrite_sameResidents hrecord).trans (State.ctlWrite_sameResidents ht)

theorem State.postFault_sameResidents (s : State) (asid va kind acc src : Nat) (item : HeldItem) : s.sameResidents (s.postFault asid va kind acc src item) := by
  unfold State.postFault
  split
  · exact s.sameResidents_refl
  · split
    · exact ⟨rfl, rfl⟩
    · dsimp only
      split
      · exact ⟨rfl, rfl⟩
      · split
        · next s1 hpost => exact State.sameResidents.trans (t := s.fresh) ⟨rfl, rfl⟩ ((State.tryPost_sameResidents hpost).trans ⟨rfl, rfl⟩)
        · refine State.sameResidents.trans ?_ (State.writeFaultHeader_sameResidents _ asid)
          split <;> exact ⟨rfl, rfl⟩

/-! ### What a group has under way on its core (R177, R231, R243, R246) -/

theorem State.oweAs_sameResidents (s : State) (o : Owed) : s.sameResidents (s.oweAs o) := by
  rw [State.oweAs]
  split <;> exact ⟨rfl, rfl⟩

theorem State.owe_sameResidents (s : State) (gid tid id lw gw : Nat) : s.sameResidents (s.owe gid tid id lw gw) := by
  rw [State.owe]
  split
  · exact s.oweAs_sameResidents _
  · split
    · exact s.oweAs_sameResidents _
    · exact s.sameResidents_refl

theorem State.writeBack_sameResidents {core : Nat} {t : Tile} (is : List Nat) {s : State} {r : State × Nat} (hr : s.writeBack core t is = .ok r) :
    s.sameResidents r.1 := by
  induction is generalizing s r with
  | nil =>
    cases hr
    exact s.sameResidents_refl
  | cons i is ih =>
    rw [State.writeBack] at hr
    split at hr
    · cases hr
      exact s.sameResidents_refl
    · dsimp only at hr
      split at hr
      · cases hr
      next s1 _ hwrite =>
        split at hr
        · cases hr
        next s2 _ hrest =>
          cases hr
          have hback := ih hrest
          refine ((State.vwrite_sameResidents hwrite).trans ?_).trans hback
          split
          · split
            · split <;> exact ⟨rfl, rfl⟩
            · exact s1.sameResidents_refl
          · exact s1.sameResidents_refl

theorem State.flushTile_sameResidents {s : State} {core uid : Nat} {r : State × Nat} (hr : s.flushTile core uid = .ok r) : s.sameResidents r.1 := by
  rw [State.flushTile] at hr
  split at hr
  · cases hr
    exact s.sameResidents_refl
  · split at hr
    · cases hr
    next s1 _ hback =>
      cases hr
      exact (State.writeBack_sameResidents _ hback).trans ⟨rfl, rfl⟩

theorem State.flushNow_sameResidents (s : State) (g : Group) : s.sameResidents (s.flushNow g) := by
  refine foldl_sameResidents (fun s u => ?_) _ s
  split
  next s1 _ hflush => exact (State.flushTile_sameResidents hflush).trans (s1.owe_sameResidents _ _ _ _ _)
  · exact ⟨rfl, rfl⟩

theorem State.cancelGroup_sameResidents (s : State) (gid : Nat) : s.sameResidents (s.cancelGroup gid) :=
  ⟨(s.dropAccs_sameResidents _).groups, (s.dropAccs_sameResidents _).boot⟩

theorem State.leaveRein_sameResidents (s : State) (core gid : Nat) : s.sameResidents (s.leaveRein core gid) := by
  rw [State.leaveRein]
  split
  · rw [State.reinRelease]
    split
    · exact ⟨rfl, rfl⟩
    · exact State.sameResidents.trans (t := s.updCore core _) ⟨rfl, rfl⟩ (State.updGroup_sameResidents _ _ fun _ => rfl)
  · exact ⟨rfl, rfl⟩

theorem State.releaseHandle_sameResidents (s : State) (gid h : Nat) : s.sameResidents (s.releaseHandle gid h) := by
  unfold State.releaseHandle
  split
  · exact s.sameResidents_refl
  · extract_lets waits s1 s2
    have hreleased : s.sameResidents s2 :=
      (foldl_sameResidents (f := fun (s : State) (t : Thread) => s.takeTrap gid t.tid 3 0 0) (fun s t => s.takeTrap_sameResidents _ _ _ _ _ _) waits s).trans
        (s1.updGroup_sameResidents gid fun _ => rfl)
    split
    · exact hreleased
    · exact hreleased.trans ⟨rfl, rfl⟩

/-! ### Records of graphs, and the control die's answers (R305, R334, R336) -/

theorem State.freeRecord_sameResidents (s : State) (graph e slot block : Nat) : s.sameResidents (s.freeRecord graph e slot block) := ⟨rfl, rfl⟩

theorem State.dropReservation_sameResidents (s : State) (graph gid tid e : Nat) : s.sameResidents (s.dropReservation graph gid tid e) := by
  rw [State.dropReservation]
  split
  · exact s.sameResidents_refl
  · exact (s.freeRecord_sameResidents _ _ _ _).trans (State.updThread_sameResidents _ _ _ _)

theorem State.freeSaved_sameResidents (s : State) (v : Saved) : s.sameResidents (s.freeSaved v) := by
  rw [State.freeSaved]
  split
  · split
    · exact foldl_sameResidents (fun s _ => s.freeRecord_sameResidents _ _ _ _) _ s
    · exact s.sameResidents_refl
  · exact s.sameResidents_refl

theorem State.publish_sameResidents (s : State) (graph gid tid e : Nat) : s.sameResidents (s.publish graph gid tid e) := by
  rw [State.publish]
  split
  · exact s.sameResidents_refl
  · exact State.sameResidents.trans (t := s.updEdge graph e _) ⟨rfl, rfl⟩ (State.updThread_sameResidents _ _ _ _)

theorem State.dropRead_sameResidents (s : State) (core asid va n : Nat) : s.sameResidents (s.dropRead core asid va n) := by
  rw [State.dropRead]
  split
  · exact s.sameResidents_refl
  · exact foldl_sameResidents (f := fun (s : State) (l : Nat) => s.dropL1 core l) (fun _ _ => ⟨rfl, rfl⟩) _ s

theorem State.answerAsk_sameResidents (s : State) (gid tid : Nat) (commit : Bool) (e : Nat) (table raddr : DWord) (slot stat : Nat) :
    s.sameResidents (s.answerAsk gid tid commit e table raddr slot stat) := by
  unfold State.answerAsk
  split
  · exact s.sameResidents_refl
  · extract_lets -underBinder graph at_ w
    have hwritten : ∀ r, w = .ok r → s.sameResidents r.1 := by
      intro r hr
      unfold w at hr
      split at hr <;> exact State.vwrite_sameResidents hr
    clear_value w
    split
    next s1 _ =>
      extract_lets -underBinder s2
      have hdropped : s.sameResidents s2 := (hwritten _ rfl).trans (s1.dropRead_sameResidents _ _ _ _)
      refine (hdropped.trans ?_).trans (State.updThread_sameResidents _ _ _ _)
      split
      · exact s2.publish_sameResidents _ _ _ _
      · exact s2.sameResidents_refl
    · extract_lets -underBinder s1
      have hposted : s.sameResidents s1 := s.postFault_sameResidents _ _ _ _ _ _
      refine hposted.trans ?_
      split
      · exact (State.dropReservation_sameResidents _ _ _ _ _).trans (State.takeTrap_sameResidents _ _ _ _ _ _ _)
      · exact State.updThread_sameResidents _ _ _ _

theorem State.giveSlot_sameResidents (s : State) (gr : Graph) (e slot gid tid : Nat) (table : DWord) : s.sameResidents (s.giveSlot gr e slot gid tid table) := by
  have hreserved : ∀ b, s.sameResidents (s.reserve gr.id e slot b gid tid) := fun b =>
    State.sameResidents.trans (t := (s.updEdge gr.id e fun x => { x with used := insertNat slot x.used }).updGraph gr.id fun g =>
      { g with usedBlocks := insertNat b g.usedBlocks }) ⟨rfl, rfl⟩ (State.updThread_sameResidents _ _ _ _)
  rw [State.giveSlot]
  split
  · exact s.answerAsk_sameResidents _ _ _ _ _ _ _ _
  · exact (hreserved _).trans (State.answerAsk_sameResidents _ _ _ _ _ _ _ _ _)

theorem State.serveWaiters_sameResidents (graph e : Nat) (ws : List (Nat × Nat × DWord)) (s : State) : s.sameResidents (s.serveWaiters graph e ws) := by
  induction ws generalizing s with
  | nil => exact s.sameResidents_refl
  | cons w ws ih =>
    rw [State.serveWaiters]
    split
    · exact s.sameResidents_refl
    · split
      · exact s.sameResidents_refl
      · exact (s.giveSlot_sameResidents _ _ _ _ _ _).trans (ih _)

theorem State.serveEdges_sameResidents (s : State) : s.sameResidents s.serveEdges := by
  have hgraph : ∀ (s : State) (g : Graph), s.sameResidents (g.edges.foldl (fun s e => s.serveWaiters g.id e.n (s.enqWaiters g.id e.n)) s) := fun s g =>
    foldl_sameResidents (f := fun (s : State) (e : GEdge) => s.serveWaiters g.id e.n (s.enqWaiters g.id e.n))
      (fun s e => State.serveWaiters_sameResidents g.id e.n _ s) g.edges s
  exact (foldl_sameResidents hgraph s.graphs s).trans ⟨rfl, rfl⟩

/-! ### The ends of a command, a node, a graph and a span (R30, R293, R309, R332) -/

theorem State.finishCmd_sameResidents (s : State) (asid q : Nat) (cmd : Option Nat) (cw value : Nat) : s.sameResidents (s.finishCmd asid q cmd cw value) := by
  unfold State.finishCmd
  extract_lets -underBinder done
  have hdone : ∀ u : State, u.sameResidents (done u) := fun u => by
    unfold done
    split
    · exact u.queueCmdDone_sameResidents _ _
    · exact u.sameResidents_refl
  clear_value done
  split
  · exact hdone s
  · split
    · exact (s.raiseErr_sameResidents _).trans (hdone _)
    · split
      next hwrite => exact (State.vwrite_sameResidents hwrite).trans (hdone _)
      · split
        · exact ((s.postFault_sameResidents _ _ _ _ _ _).trans (State.raiseErr_sameResidents _ _)).trans (hdone _)
        · extract_lets -underBinder w
          exact State.sameResidents.trans (t := { s.fresh with cwrites := s.cwrites ++ [w] }) ⟨rfl, rfl⟩ (State.postFault_sameResidents _ _ _ _ _ _ _)

theorem State.nodeEnd_sameResidents (s : State) (r : NodeRun) (value : Nat) (selector : Option Word) : s.sameResidents (s.nodeEnd r value selector) := by
  unfold State.nodeEnd
  split
  · exact s.sameResidents_refl
  next g _ =>
    extract_lets s1 fail s2 s3
    have hfreed : s.sameResidents s1 := foldl_sameResidents (fun s _ => s.freeRecord_sameResidents _ _ _ _) r.recs s
    have hended : s1.sameResidents s2 := ⟨rfl, rfl⟩
    have hbranched : s2.sameResidents s3 := by
      unfold s3
      split
      · exact s2.sameResidents_refl
      · split
        · exact s2.sameResidents_refl
        · extract_lets sel past m s4
          have hrecorded : s2.sameResidents s4 := by
            unfold s4
            split <;> exact ⟨rfl, rfl⟩
          split
          · exact hrecorded
          · exact hrecorded.trans ⟨rfl, rfl⟩
    exact ((hfreed.trans hended).trans hbranched).trans s3.serveEdges_sameResidents

theorem State.settleGraph_sameResidents (s : State) (id : Nat) : s.sameResidents (s.settleGraph id) := by
  unfold State.settleGraph
  split
  · exact s.sameResidents_refl
  · extract_lets ents mark s1
    have hmarked : s.sameResidents s1 := by
      unfold s1
      split
      · split <;> exact ⟨rfl, rfl⟩
      · exact s.sameResidents_refl
    split
    · exact State.sameResidents.trans (t := { s1 with graphs := s1.graphs.filter fun x => x.id != id }) ⟨hmarked.groups, hmarked.boot⟩
        (State.finishCmd_sameResidents _ _ _ _ _ _)
    · exact hmarked

theorem State.endSpan_sameResidents (s : State) (x : Span) : s.sameResidents (s.endSpan x) := by
  have hfinished : ∀ q, s.sameResidents (({ s with spans := s.spans.filter fun y => y.sid != x.sid } : State).finishCmd x.asid q x.cmd x.cw.toNat x.status) :=
    fun q => State.sameResidents.trans (t := { s with spans := s.spans.filter fun y => y.sid != x.sid }) ⟨rfl, rfl⟩ (State.finishCmd_sameResidents _ _ _ _ _ _)
  rw [State.endSpan]
  split
  · exact ((hfinished _).trans (State.nodeEnd_sameResidents _ _ _ _)).trans (State.settleGraph_sameResidents _ _)
  · exact hfinished _

end Sys2Proof.Machine
end

section
/-! SUPPORT. Pre-emption, its deadline, and the saving and restoring of a group (R315-R320). -/

namespace Sys2Proof.Machine

/-! ### A pre-emption that the launcher requests (R315) -/

theorem execAutoPreempt_asks {s : State} {core p asid rank since : Nat} {x : Span} {w : Waiting} {c : Context} (hwaits : (rank, since, x, w) ∈ s.waitersOf core)
    (hlowest : s.lowestOn core = some (p, asid)) (hc : s.ctx? asid = some c) (hnew : ∀ e ∈ c.preempts, e.core ≠ core) (hsince : since + 100000 ≤ s.tsc)
    (hprio : p + 2 ≤ x.prio) : execAutoPreempt core s = .next (s.preemptOn asid [core] true) := by
  have halready : (c.preempts.any fun q => q.core == core) = false := List.any_eq_false.mpr fun e he h => hnew e he (eq_of_beq h)
  have hasks : ((s.waitersOf core).any fun w => decide (w.2.1 + 100000 ≤ s.tsc ∧ w.2.2.1.prio ≥ p + 2)) = true :=
    List.any_eq_true.mpr ⟨_, hwaits, decide_eq_true ⟨hsince, hprio⟩⟩
  simp only [execAutoPreempt, hlowest, hc, Option.map_some, Option.getD_some, halready, hasks, Bool.not_false, Bool.and_self, if_true]

theorem State.ctx?_updCtx (s : State) (a b : Nat) {f : Context → Context} (hf : ∀ c, (f c).asid = c.asid) :
    (s.updCtx a f).ctx? b = (s.ctx? b).map fun c => if b = a then f c else c :=
  find?_updWhere Context.asid a b f hf s.contexts

/-- A context that is not yet pre-empted on a core is pre-empted there besides. -/
theorem State.preemptOn_ctx? {s : State} {asid core : Nat} {c : Context} (hc : s.ctx? asid = some c) (hnew : ∀ e ∈ c.preempts, e.core ≠ core) (auto : Bool) :
    ∃ d, (s.preemptOn asid [core] auto).ctx? asid = some d ∧ d.preempts = c.preempts ++ [{ core := core, due := s.tsc + c.dlt * 1000, auto := auto }] := by
  have hkept : (c.preempts.filter fun p => !([core].contains p.core)) = c.preempts := List.filter_eq_self.mpr fun e he => by simp [hnew e he]
  rw [State.preemptOn, State.ctx?_updCtx, hc, Option.map_some, if_pos rfl]
  · exact ⟨_, rfl, congrArg (· ++ _) hkept⟩
  · exact fun _ => rfl

/-! ### The deadline (R319) -/

theorem Group.mark_eq {g h : Group} : h.mark = g.mark ↔ h.gid = g.gid ∧ h.asid = g.asid ∧ h.sid = g.sid ∧ h.core = g.core ∧ h.role = g.role := by
  simp only [Group.mark, Prod.mk.injEq]

/-- Every group of one state is a group of another. -/
def State.fromResidents (s t : State) : Prop := ∀ g ∈ t.groups, ∃ h ∈ s.groups, h.mark = g.mark

theorem State.sameResidents.from {s t : State} (h : s.sameResidents t) : s.fromResidents t := fun _ hg =>
  List.mem_map.mp (h.groups ▸ List.mem_map_of_mem hg)

theorem State.fromResidents.trans {s t u : State} (h : s.fromResidents t) (k : t.fromResidents u) : s.fromResidents u := fun g hg => by
  obtain ⟨x, hx, hxg⟩ := k g hg
  obtain ⟨y, hy, hyx⟩ := h x hx
  exact ⟨y, hy, hyx.trans hxg⟩

/-- No group is in tandem mode. -/
def State.allSolo (s : State) : Prop := ∀ g ∈ s.groups, g.role = .solo

theorem State.fromResidents.allSolo {s t : State} (h : s.fromResidents t) (hsolo : s.allSolo) : t.allSolo := fun g hg => by
  obtain ⟨x, hx, hxg⟩ := h g hg
  obtain ⟨-, -, -, -, hrole⟩ := Group.mark_eq.mp hxg
  exact hrole.symm.trans (hsolo x hx)

/-- A group that is taken off its core is gone, and no other comes. -/
theorem State.dropGroup_residents (s : State) (g : Group) : s.fromResidents (s.dropGroup g) ∧ ∀ h ∈ (s.dropGroup g).groups, h.gid ≠ g.gid := by
  unfold State.dropGroup
  extract_lets s1 s2 graph s3 s4
  have hhandles : s1.sameResidents s2 := foldl_sameResidents (f := fun (s : State) (p : Nat × Nat) => s.releaseHandle g.gid p.1)
    (fun s p => s.releaseHandle_sameResidents _ _) g.handles s1
  have hthread : ∀ (s : State) (t : Thread), s.sameResidents (t.res.foldl (fun s r => s.dropReservation graph g.gid t.tid r.edge) s) := fun s t =>
    foldl_sameResidents (fun s _ => s.dropReservation_sameResidents _ _ _ _) t.res s
  have hkept : s.sameResidents s4 := (((s.leaveRein_sameResidents _ _).trans hhandles).trans (foldl_sameResidents hthread g.threads s2)).trans
    (s3.unhold_sameResidents _)
  clear_value s4
  refine ⟨fun h hh => hkept.from h (List.mem_filter.mp hh).1, fun h hh => ?_⟩
  simpa using (List.mem_filter.mp hh).2

/-- A group that is ended with its span, and the group's other copy with it (R319). -/
def State.killGroup (s : State) (g : Group) : State :=
  let s1 := ((s.terminate g.gid).flushNow g).cancelGroup g.gid
  let s2 := match s1.partner? g with | some p => (s1.cancelGroup p.gid).dropGroup p | none => s1
  ({ s2 with tandems := s2.tandems.filter fun t => t.leader != g.gid } : State).dropGroup g

theorem State.killGroup_residents (s : State) {g : Group} (hsolo : g.role = .solo) :
    s.fromResidents (s.killGroup g) ∧ ∀ h ∈ (s.killGroup g).groups, h.gid ≠ g.gid := by
  unfold State.killGroup
  extract_lets s1 s2
  have hcancelled : s.sameResidents s1 :=
    ((s.terminate_sameResidents _).trans (State.flushNow_sameResidents _ g)).trans (State.cancelGroup_sameResidents _ _)
  have halone : s2 = s1 := by
    have hnone : s1.partner? g = none := if_pos hsolo
    simp only [s2, hnone]
  rw [halone]
  obtain ⟨hfrom, hgone⟩ := State.dropGroup_residents { s1 with tandems := s1.tandems.filter fun t => t.leader != g.gid } g
  exact ⟨hcancelled.from.trans hfrom, hgone⟩

theorem State.foldl_killGroup_residents (gs : List Group) (s : State) (hsolo : ∀ g ∈ gs, g.role = .solo) :
    s.fromResidents (gs.foldl State.killGroup s) ∧ ∀ h ∈ (gs.foldl State.killGroup s).groups, ∀ g ∈ gs, h.gid ≠ g.gid := by
  induction gs generalizing s with
  | nil => exact ⟨s.sameResidents_refl.from, fun _ _ _ hg => absurd hg List.not_mem_nil⟩
  | cons g gs ih =>
    obtain ⟨hfrom, hgone⟩ := s.killGroup_residents (hsolo g List.mem_cons_self)
    obtain ⟨hrest, hothers⟩ := ih (s.killGroup g) fun x hx => hsolo x (List.mem_cons_of_mem _ hx)
    refine ⟨hfrom.trans hrest, fun h hh x hx => ?_⟩
    rcases List.mem_cons.mp hx with rfl | hx
    · obtain ⟨y, hy, hyh⟩ := hrest h hh
      obtain ⟨hgid, -⟩ := Group.mark_eq.mp hyh
      exact hgid ▸ hgone y hy
    · exact hothers h hh x hx

/-- The groups of a span that ends are gone, and no other comes. -/
theorem State.killSpan_residents {s : State} (sid : Nat) (hsolo : s.allSolo) :
    s.fromResidents (s.killSpan sid) ∧ ∀ g ∈ (s.killSpan sid).groups, g.sid ≠ sid := by
  obtain ⟨hfrom, hgone⟩ := State.foldl_killGroup_residents (s.groups.filter fun g => g.sid == sid && g.role != .trailer)
    (s.updSpan sid fun x => { x with preempted := true }) fun g hg => hsolo g (List.mem_filter.mp hg).1
  have hkilled : ((s.groups.filter fun g => g.sid == sid && g.role != .trailer).foldl State.killGroup
      (s.updSpan sid fun x => { x with preempted := true })).sameResidents (s.killSpan sid) := by
    unfold State.killSpan
    extract_lets +onlyGivenNames k gids s1 s2 ended s3
    have hsaved : k.sameResidents s1 := foldl_sameResidents State.freeSaved_sameResidents _ k
    have hended : k.sameResidents s3 := hsaved.trans ⟨rfl, rfl⟩
    refine State.sameResidents.trans (t := s3) hended ?_
    clear_value s3
    split
    · split
      · exact (s3.endSpan_sameResidents _).trans (State.serveEdges_sameResidents _)
      · exact s3.serveEdges_sameResidents
    · exact s3.serveEdges_sameResidents
  refine ⟨hfrom.trans hkilled.from, fun g hg hsid => ?_⟩
  obtain ⟨y, hy, hyg⟩ := hkilled.from g hg
  obtain ⟨x, hx, hxy⟩ := hfrom y hy
  obtain ⟨hgid, -⟩ := Group.mark_eq.mp hxy
  obtain ⟨-, -, hxsid, -⟩ := Group.mark_eq.mp (hxy.trans hyg)
  have hends : x ∈ s.groups.filter fun g => g.sid == sid && g.role != .trailer := by
    rw [List.mem_filter, hsolo x hx, hxsid, hsid, beq_self_eq_true]
    exact ⟨hx, rfl⟩
  exact hgone y hy x hends hgid.symm

theorem State.foldl_killSpan_residents (sids : List Nat) {s : State} (hsolo : s.allSolo) :
    s.fromResidents (sids.foldl State.killSpan s) ∧ ∀ g ∈ (sids.foldl State.killSpan s).groups, g.sid ∉ sids := by
  induction sids generalizing s with
  | nil => exact ⟨s.sameResidents_refl.from, fun _ _ => List.not_mem_nil⟩
  | cons sid sids ih =>
    obtain ⟨hfrom, hgone⟩ := State.killSpan_residents sid hsolo
    obtain ⟨hrest, hothers⟩ := ih (hfrom.allSolo hsolo)
    refine ⟨hfrom.trans hrest, fun g hg hsid => ?_⟩
    rcases List.mem_cons.mp hsid with hsid | hsid
    · obtain ⟨y, hy, hyg⟩ := hrest g hg
      obtain ⟨-, -, hysid, -⟩ := Group.mark_eq.mp hyg
      exact hgone y hy (hysid.trans hsid)
    · exact hothers g hg hsid

theorem mem_insertNat (n m : Nat) (l : List Nat) : m ∈ insertNat n l ↔ m = n ∨ m ∈ l := by
  induction l with
  | nil => rw [insertNat, List.mem_singleton, or_iff_left List.not_mem_nil]
  | cons x xs ih =>
    rw [insertNat]
    split
    · exact List.mem_cons
    · split
      next hx => rw [hx, List.mem_cons, ← or_assoc, or_self]
      · rw [List.mem_cons, ih, List.mem_cons, or_left_comm]

/-- The spans of some groups, each once. -/
def spansOf (gs : List Group) : List Nat := gs.foldl (fun l g => insertNat g.sid l) []

theorem sid_mem_spansOf {gs : List Group} {g : Group} (hg : g ∈ gs) : g.sid ∈ spansOf gs := by
  suffices hfold : ∀ (gs : List Group) (l : List Nat), g.sid ∈ l ∨ g ∈ gs → g.sid ∈ gs.foldl (fun l g => insertNat g.sid l) l from hfold gs [] (.inr hg)
  intro gs
  induction gs with
  | nil => exact fun l h => h.resolve_right List.not_mem_nil
  | cons x gs ih =>
    refine fun l h => ih (insertNat x.sid l) ?_
    rcases h with h | h
    · exact .inl ((mem_insertNat _ _ _).mpr (.inr h))
    · rcases List.mem_cons.mp h with rfl | h
      · exact .inl ((mem_insertNat _ _ _).mpr (.inl rfl))
      · exact .inr h

/-- The cores for which a pre-emption's deadline timer has expired. -/
def Context.dueCores (c : Context) (now : Nat) : List Nat := (c.preempts.filter fun e => e.due != 0 && decide (e.due ≤ now)).map (·.core)

theorem Context.mem_dueCores {c : Context} {now core : Nat} : core ∈ c.dueCores now ↔ ∃ e ∈ c.preempts, e.due ≠ 0 ∧ e.due ≤ now ∧ e.core = core := by
  simp [dueCores, and_assoc]

/-- A context's expired timers are stopped. -/
def State.stopTimers (s : State) (asid : Nat) (due : List Nat) : State :=
  s.updCtx asid fun c => { c with preempts := c.preempts.map fun p => if due.contains p.core then { p with due := 0 } else p }

/-- The groups of a context on the cores of a list. -/
def State.onCores (s : State) (asid : Nat) (cores : List Nat) : List Group := s.groups.filter fun g => g.asid == asid && cores.contains g.core

theorem State.mem_onCores {s : State} {asid : Nat} {cores : List Nat} {g : Group} : g ∈ s.onCores asid cores ↔ g ∈ s.groups ∧ g.asid = asid ∧ g.core ∈ cores := by
  simp [onCores]

section
variable {s : State} {asid core : Nat} {c : Context} (hc : s.ctx? asid = some c) (hdue : core ∈ c.dueCores s.tsc)
include hc hdue

theorem execDeadlineExpiry_due : execDeadlineExpiry asid s =
    let sids := spansOf (s.onCores asid (c.dueCores s.tsc))
    let u := sids.foldl State.killSpan (s.stopTimers asid (c.dueCores s.tsc))
    .next (if sids.isEmpty then u else u.raiseErr { id := 0, asid := asid, tsc := 0, src := cpSrc, kind := 0xB, sev := 3 }) := by
  have hsome : (c.dueCores s.tsc).isEmpty = false := List.isEmpty_eq_false_iff.mpr (List.ne_nil_of_mem hdue)
  rw [execDeadlineExpiry, hc]
  exact if_neg (by rw [← Context.dueCores, hsome]; exact Bool.false_ne_true)

/-- With no group of the context resident, the expired timers are stopped. -/
theorem execDeadlineExpiry_empty (hnone : ∀ h ∈ s.groups, h.asid ≠ asid) : execDeadlineExpiry asid s = .next (s.stopTimers asid (c.dueCores s.tsc)) := by
  have hgroups : s.onCores asid (c.dueCores s.tsc) = [] := List.eq_nil_iff_forall_not_mem.mpr fun g hg => by
    obtain ⟨hresident, hasid, -⟩ := State.mem_onCores.mp hg
    exact hnone g hresident hasid
  rw [execDeadlineExpiry_due hc hdue, hgroups]
  rfl

/-- The spans that hold a due core end, with a record; no group of the context is left there. -/
theorem execDeadlineExpiry_ends {h : Group} (hh : h ∈ s.groups) (hasid : h.asid = asid) (hcore : h.core = core) (hsolo : s.allSolo) :
    ∃ t, execDeadlineExpiry asid s = .next t ∧ (∃ r ∈ t.errors, r.kind = 0xB ∧ r.asid = asid) ∧ ∀ g ∈ t.groups, ¬(g.asid = asid ∧ g.core ∈ c.dueCores s.tsc) := by
  have hspan : h.sid ∈ spansOf (s.onCores asid (c.dueCores s.tsc)) := sid_mem_spansOf (State.mem_onCores.mpr ⟨hh, hasid, hcore.symm ▸ hdue⟩)
  have hsids : (spansOf (s.onCores asid (c.dueCores s.tsc))).isEmpty = false := List.isEmpty_eq_false_iff.mpr (List.ne_nil_of_mem hspan)
  obtain ⟨hfrom, hgone⟩ := State.foldl_killSpan_residents (spansOf (s.onCores asid (c.dueCores s.tsc))) (s := s.stopTimers asid (c.dueCores s.tsc)) hsolo
  refine ⟨_, execDeadlineExpiry_due hc hdue, ?_⟩
  rw [hsids, if_neg Bool.false_ne_true]
  refine ⟨⟨_, List.mem_append_right _ List.mem_cons_self, rfl, rfl⟩, fun g hg ⟨hgasid, hgcore⟩ => hgone g hg ?_⟩
  obtain ⟨x, hx, hxg⟩ := hfrom g hg
  obtain ⟨-, hxasid, hxsid, hxcore, -⟩ := Group.mark_eq.mp hxg
  exact hxsid ▸ sid_mem_spansOf (State.mem_onCores.mpr ⟨hx, hxasid.trans hgasid, hxcore.symm ▸ hgcore⟩)

end

/-! ### Saving and restoring (R317, R320, R323) -/

/-- A group without tiles that may be saved, and that shares none, is saved alone. -/
theorem execGroupSave_alone {s u : State} {gid : Nat} {g : Group} (hg : s.group? gid = some g) (halone : s.attached g = [g]) (hpre : s.preempted g = true)
    (hsavable : s.groupSavable g = true) (htiles : s.tilesOf g = []) (hclean : s.dirtyTiles g = [])
    (hsave : (s.oweUnit g.asid g.core 0).saveAll false [g] = .ok u) : execGroupSave gid s = .next u := by
  simp only [execGroupSave, hg, halone, hpre, hsavable, htiles, hclean, hsave, List.all_cons, List.all_nil, List.foldl_cons, List.foldl_nil, State.fillBound,
    State.flushHandles, Bool.not_true, Bool.false_and, Bool.and_self, Bool.or_true, Bool.or_self, Bool.false_eq_true, if_false]

/-- A saved group whose image is read comes back when it is the first that waits for its core, and fits. -/
theorem execGroupRestore_first {s u : State} {gid rank since : Nat} {x : Span} {v : Saved} (hv : (s.saved.find? fun v => v.gid == gid) = some v)
    (hfirst : s.firstWaiting v.core = some (rank, since, x, .saved gid)) (hfits : s.fits v.core v.asid v.gsz v.alloc v.need0 v.need1 = true)
    (hrestore : s.writeWoken.restore v = .ok u) : execGroupRestore gid s = .next ((u.liftAuto v.core v.asid).settleGroup gid) := by
  simp only [execGroupRestore, hv, hfirst, hfits, hrestore, beq_self_eq_true, Bool.not_true, Bool.or_self, Bool.false_eq_true, if_false]

end Sys2Proof.Machine
end

section
/-! THEOREMS. Pre-emption, its deadline, and the saving and restoring of a group. -/

open Sys2Proof Sys2Proof.Machine

/-- Settles O49: at the end of a deadline every span on a due core loses its groups, and nothing that ends with a span brings a group back. -/
theorem preemptionEvents : Obligations.PreemptionEvents := by
  intro s core gid rank since p asid x w c g v
  refine ⟨fun hwaits hlowest hc hnew hsince hprio => ?asks, fun hc ⟨e, he, hrun, hpast⟩ hnone => ?empty,
    fun hc ⟨e, he, hrun, hpast, h, hh, hasid, hcore⟩ hsolo => ?ends, fun u hg halone hpre hsavable htiles hclean => execGroupSave_alone hg halone hpre hsavable htiles hclean,
    fun u hv hfirst hfits => execGroupRestore_first hv hfirst hfits⟩
  case asks =>
    obtain ⟨d, hd, hpreempts⟩ := State.preemptOn_ctx? hc hnew true
    exact ⟨_, d, execAutoPreempt_asks hwaits hlowest hc hnew hsince hprio, hd, hpreempts, rfl, fun _ => rfl, rfl⟩
  case empty => exact execDeadlineExpiry_empty hc (Context.mem_dueCores.mpr ⟨e, he, hrun, hpast, rfl⟩) hnone
  case ends =>
    obtain ⟨t, ht, hrecord, hgone⟩ := execDeadlineExpiry_ends hc (Context.mem_dueCores.mpr ⟨e, he, hrun, hpast, rfl⟩) hh hasid hcore hsolo
    exact ⟨t, ht, hrecord, fun g hg ⟨hgasid, hdue⟩ => hgone g hg ⟨hgasid, Context.mem_dueCores.mpr hdue⟩⟩

end
